-- ==== Sys2Proof/Word.lean ====
section
/-!
DEFINITION. Word types: the widths the manual gives, one abbreviation each.
-/
namespace Sys2Proof

/-- A byte of memory, a descriptor or a message. -/
abbrev Byte := BitVec 8
/-- A 32-bit register, lane or word. -/
abbrev B32 := BitVec 32
/-- A 64-bit flow-control word, counter, nib instruction or event parameter. -/
abbrev B64 := BitVec 64
/-- One Inkwell row and one vector register: 512 bytes (R125). -/
abbrev Row := BitVec 4096

end Sys2Proof
end

