-- ==== Sys2Proof/Syntax.lean ====
section
/-!
DEFINITION. The commands of the block: one constructor of `Instr` per row of the spec's table of
operations and events, in the table's order, with the operands that come from outside the block
(who asks, which unit, what a pin, a bus or a completion carries).
-/
namespace Sys2Proof

/-- Who makes a register or memory access: its 16-bit code of Table 11-2, its world and its side bit
(R374, R376). -/
structure Requester where
  code   : BitVec 16
  secure : Bool
  side   : Bool
deriving DecidableEq, Repr

/-- One step of a stage program for one epoch: pipeline, twin side, stage, step index, epoch (R239). -/
structure StepRef where
  pipe  : Nat
  side  : Bool
  stage : Nat
  step  : Nat
  epoch : B32
deriving DecidableEq, Repr

/-- The three kinds of nib section that run beside a matrix step (R165, R170). -/
inductive SectionKind where
  | prologue | epilogue | settle
deriving DecidableEq, Repr

/-- What the parity check of a flow-control word finds at its receiver (R511): a good word, a bad word
whose epoch field is good, or a word whose epoch field is bad. -/
inductive Parity where
  | good | badWord | badEpoch
deriving DecidableEq, Repr

/-- A flow-control word as its unit takes it, with what its parity check finds (R511). -/
structure FlowWord where
  word : B64
  par  : Parity
deriving DecidableEq, Repr

/-- What a regulator answers to READ_POUT: the LINEAR11 word, and the check byte that follows it under packet error
checking (R533). -/
structure PmbusRead where
  word : BitVec 16
  pec  : Byte
deriving DecidableEq, Repr

/-- What the droop detectors of a compute die see: the core voltage at each, in mV (R541). -/
structure DroopSample where
  die : Nat
  mv  : List Nat
deriving DecidableEq, Repr

/-- A step whose unit reads its descriptor, and whether the descriptor's parity is good (Table 17-2). -/
structure StepCmd where
  ref : StepRef
  bad : Bool
deriving DecidableEq, Repr

/-- What the boot sequencer meets at the release of RESET_n (R445, R448, R563). -/
structure ReleaseEnv where
  romOk     : Bool
  pllLocks  : Bool
  fuseOk    : Bool
  golden    : List (Option Bool)
deriving DecidableEq, Repr

/-- What the first stage meets outside the die (Table 14-1, R450, R453, R457). `readA` and `readB` say that every
flash read of that slot's header completed within 10 ms, `copyA` and `copyB` the same of its images; `hbmStacks` the
trained HBM stacks; `badTiles` the physical tiles that fail built-in self-test. -/
structure BootEnv where
  sfdpOk   : Bool
  density  : Nat
  fast     : Bool
  rcvMib   : Nat
  rcvOk    : Bool
  hbmStacks : BitVec 8
  badTiles : List Nat
  portOk   : Bool
  readA    : Bool
  readB    : Bool
  copyA    : Bool
  copyB    : Bool
deriving DecidableEq, Repr

/-- The profiles of Table 09-1, and any other. -/
inductive VideoProfile where
  | h264High
  | hevcMain
  | hevcMain10
  | av1Main
  | other
deriving DecidableEq, Repr

/-- The tools and extensions that Table 09-1 names as not supported. -/
inductive VideoTool where
  | fieldPictures
  | mbaff
  | fmo
  | aso
  | rangeExtension
  | multilayerExtension
  | screenContentExtension
  | largeScaleTile
deriving DecidableEq, Repr

/-- What a sequence-level header says, read by the codec's own standard (R311): whether its syntax is right, its
profile, ten times its level, chroma format (0 monochrome, 1 4:2:0, 2 4:2:2, 3 4:4:4), bit depth, the tools of
Table 09-1 that it uses, its size and references as the syntax elements of R311 hold them (PicWidthInMbs and the
matching height, samples, or one less than the maximum; max_num_ref_frames or sps_max_dec_pic_buffering_minus1), and
the frames of its decoded-picture buffer. -/
structure SeqHdr where
  syntaxOk : Bool
  profile  : VideoProfile
  level    : Nat
  chroma   : Nat
  depth    : Nat
  tools    : List VideoTool
  width    : Nat
  height   : Nat
  refs     : Nat
  dpb      : Nat
deriving DecidableEq, Repr

/-- What the standard's syntax says of one access unit: its sequence-level header, if it holds one, whether it
begins with a random-access point (R311, R312), the frames it holds to decode, and the frame, by dec_index, that an
AV1 show_existing_frame of it shows (R320). -/
structure AuSyntax where
  seq      : Option SeqHdr
  rap      : Bool
  frames   : Nat
  existing : Option B32
deriving DecidableEq, Repr

/-- How the decoding of one frame ended (R314 to R322): its cost, whether its data was whole and correct, its size,
the frames it referenced and those the standard keeps as references after it (by dec_index), whether it is shown, and
its presentation order. -/
structure FrameOutcome where
  cost      : Nat
  whole     : Bool
  width     : Nat
  height    : Nat
  refs      : List Nat
  kept      : List Nat
  shown     : Bool
  presOrder : B32
deriving DecidableEq, Repr

/-- A memory access that reaches a memory-side die (R376). A write carries its bytes; a read its
length. `nocache` is the setting of R497. -/
structure Access where
  rq      : Requester
  write   : Bool
  addr    : Nat
  len     : Nat
  data    : List Byte
  nocache : Bool
deriving DecidableEq, Repr

/-- The access of MEMORY_ACCESS: one that a requester outside the tiles makes, or the one that a tile's
outstanding DMA transfer has issued (R148, R150); the same of a fabric request that fails parity (Table 17-2). -/
inductive MemRequest where
  | plain (a : Access)
  | dma (tile xfer : Nat)
  | badPlain (rq : Requester)
  | badDma (tile xfer : Nat)
deriving DecidableEq, Repr

/-- A recovery RAM access (R383, R469): its requester, and a write's bytes or a read's length. -/
structure RcvRequest where
  rq    : Requester
  write : Bool
  off   : Nat
  len   : Nat
  data  : List Byte
deriving DecidableEq, Repr

/-- The BAR of a host access: the device memory window, or one of the two that are served beside it (R391, R394). -/
inductive HostBar where
  | bar0
  | bar2
  | bar4
deriving DecidableEq, Repr

/-- What the PCIe checks say of a received TLP (R393). -/
inductive TlpCheck where
  | good
  | poisoned
  | ecrcBad
deriving DecidableEq, Repr

/-- A host access: the BAR it names, what the checks say of its TLP, and its direction. -/
structure HostAccess where
  bar   : HostBar
  tlp   : TlpCheck
  write : Bool
deriving DecidableEq, Repr

/-- An Orrek Link message: its 24-byte header (Table 13-4) and its payload. -/
structure LnkMsg where
  hdr     : BitVec 192
  payload : List Byte
deriving DecidableEq, Repr

/-- The parameter flit of R426. -/
structure ParamFlit where
  dev  : Nat
  port : Nat
  dx   : Nat
  dy   : Nat
  dz   : Nat
  wrap : BitVec 3
  hash : B64
deriving DecidableEq, Repr

/-- The outcome of a physical tile's in-field test (R515, R517): passed, failed in rows or columns that
unused spares cover (with the skip registers the core writes), or failed beyond repair. -/
inductive TestResult where
  | pass
  | repairable (rowskip colskip : B32)
  | fail
deriving DecidableEq, Repr

/-- Where a region-table write goes (Table 11-6). -/
inductive RgnReg where
  | base | last | attr
deriving DecidableEq, Repr

/-- Which PHY PLL loses lock (R532). -/
inductive Phy where
  | pcie
  | orrek (p : Nat)
  | csi (p : Nat)
  | hbm (k : Nat)
deriving DecidableEq, Repr

/-- The commands. -/
inductive Instr where
  -- registers (00)
  | registerWrite (rq : Requester) (key : Nat) (v : B32)
  | loReadLatch (rq : Requester) (key : Nat)
  | hiRead (rq : Requester) (key : Nat)
  -- reset, boot and trust (14)
  | resetNAssert (ns : Nat)
  | resetNRelease (env : ReleaseEnv)
  | firstStage (env : BootEnv)
  | stageTimeout
  | releaseGo (rq : Requester)
  | keyLockSet (rq : Requester)
  | scrLockSet (rq : Requester)
  | arvRaise (rq : Requester) (v : Nat)
  | folioVerify (rq : Requester) (core0 : Option Nat)
  | folioVerifyDone (folio : Nat)
  | pipelineBind (pipe : Nat)
  -- droop (18)
  | droopDetect (x : DroopSample)
  | droopStretchEnd (die : Nat)
  -- saturation counters (02)
  | satEnable (rq : Requester) (tile n : Nat)
  | satClear (rq : Requester) (tile : Nat)
  | satWindowEnd (tile n : Nat)
  -- matrix array (03)
  | arrSkipWrite (rq : Requester) (tile : Nat) (col : Bool) (v : B32)
  | arrCntClear (rq : Requester) (tile : Nat)
  | matrixStepStart (x : StepCmd)
  | matrixStepComplete (st : StepRef)
  -- Inkwell (04)
  | inkScrub (tile bank : Nat)
  | inkScrubForced (tile bank : Nat)
  | inkRemapWrite (rq : Requester) (tile : Nat) (v : B32)
  | inkSlicePowerUp (rq : Requester) (tile slice : Nat)
  | inkSliceFillDone (tile slice : Nat)
  | inkSlicePowerOff (rq : Requester) (tile slice : Nat)
  | inkSlicePowerDown (tile slice : Nat)
  | inkCntClear (rq : Requester) (tile : Nat)
  | tileMove (logical dst : Nat)
  | tileMoveDone (logical : Nat)
  -- tile DMA (04)
  | dmaDescriptorStart (x : StepCmd)
  | dmaTransferIssue (tile queue : Nat)
  | dmaTransferComplete (tile xfer : Nat)
  | dmaDelayedInkWrite (tile xfer : Nat)
  | dmaLimitWrite (rq : Requester) (tile queue : Nat) (v : B32)
  -- nib sections (05)
  | nibSectionStart (tile : Nat) (st : StepRef) (kind : SectionKind) (block : Nat)
  | settleStart (tile : Nat) (st : StepRef) (row : Nat)
  -- nib instructions (05), each with the tile whose engine issues it and the fields of Table 05-3
  | nibNop (tile : Nat)
  | nibEnd (tile : Nat)
  | nibLoop (tile a : Nat) (body : Nat)
  | nibAmov (tile d : Nat) (imm : B32)
  | nibAadd (tile d a : Nat) (imm : BitVec 20)
  | nibAaddr (tile d a b : Nat)
  | nibLd (tile d a : Nat) (imm : BitVec 20)
  | nibSt (tile a b : Nat) (imm : BitVec 20)
  | nibMov (tile d a : Nat)
  | nibBcast (tile d : Nat) (imm : B32)
  | nibLane (tile d a c : Nat) (imm : BitVec 20)
  | nibIns (tile d a c : Nat) (imm : BitVec 20)
  | nibFadd (tile d a b : Nat)
  | nibFsub (tile d a b : Nat)
  | nibFmul (tile d a b : Nat)
  | nibFdiv (tile d a b : Nat)
  | nibFsqrt (tile d a : Nat)
  | nibFmin (tile d a b : Nat)
  | nibFmax (tile d a b : Nat)
  | nibFabs (tile d a : Nat)
  | nibFneg (tile d a : Nat)
  | nibIadd (tile d a b : Nat)
  | nibIsub (tile d a b : Nat)
  | nibAnd (tile d a b : Nat)
  | nibOr (tile d a b : Nat)
  | nibXor (tile d a b : Nat)
  | nibShl (tile d a : Nat) (sh : Nat)
  | nibSra (tile d a : Nat) (sh : Nat)
  | nibFclt (tile d a b : Nat)
  | nibFceq (tile d a b : Nat)
  | nibSel (tile d a b c : Nat)
  | nibUnpk (tile d a : Nat) (fmt part : Nat)
  | nibQnt (tile d a b : Nat) (fmt part slot : Nat)
  | nibQscale (tile d a b : Nat)
  | nibRamax (tile d a : Nat)
  | nibRmax (tile d a : Nat)
  | nibRsum (tile d a : Nat)
  | nibTbl (tile d a part : Nat)
  | nibTblld (tile a part : Nat) (imm : BitVec 20)
  | nibTput (tile a b : Nat) (fmt part : Nat) (imm : BitVec 20)
  | nibTget (tile d b : Nat) (fmt part : Nat) (imm : BitVec 20)
  | nibGrow (tile d a b c : Nat) (imm : BitVec 20)
  | nibRstat (tile a c : Nat) (imm : BitVec 20)
  | nibRstget (tile d a part : Nat) (imm : BitVec 20)
  | rstatContributionReceive (tile pipe : Nat) (side : Bool) (msg : BitVec 256)
  | rstatReleaseReceive (tile pipe : Nat) (side : Bool) (msg : BitVec 256)
  | nibMemWrite (rq : Requester) (tile i : Nat) (high : Bool) (v : B32)
  | nibCntClear (rq : Requester) (tile : Nat)
  -- convolution engines (05, 06)
  | vconvStepStart (x : StepCmd)
  | vconvStepComplete (st : StepRef)
  | stemStepStart (x : StepCmd)
  | stemStepComplete (st : StepRef)
  | stmCntClear (rq : Requester) (cluster : Nat)
  | spectralStepStart (x : StepCmd)
  | spectralStepComplete (st : StepRef)
  | spcCntClear (rq : Requester) (die : Nat)
  -- tokens, epochs, twins, books (07)
  | signalStepStart (st : StepRef)
  | tokenReceive (w : B64) (par : Parity)
  | creditReceive (w : B64) (par : Parity)
  | withdrawReceive (stage : Nat) (w : FlowWord)
  | reportReceive (w : FlowWord)
  | epochAdmit (pipe : Nat)
  | epochCommit (epoch : B32)
  | sourceReceive (pipe : Nat) (msg : LnkMsg)
  | checkpointReceive (ckpt : BitVec 128)
  | twinDecide (pipe : Nat) (epoch : B32) (stage step : Nat)
  | twinTimeout (pipe : Nat) (epoch : B32) (stage step : Nat)
  | bookAudit (cluster : Nat)
  | bookReread (cluster : Nat)
  | bookImbalance (cluster : Nat)
  | bookSnap (rq : Requester) (tile : Nat)
  | bookRestore (cluster : Nat)
  -- camera intake and Iris (08)
  | csiFrameStart (port vc : Nat) (fn : BitVec 16) (hdrCorr : Bool)
  | csiLineReceive (port vc dtype : Nat) (payload : List Byte) (crcOk hdrCorr hdrLost : Bool)
  | csiFrameEnd (port vc : Nat) (fn : BitVec 16) (hdrCorr : Bool)
  | feTimeout (stream : Nat)
  | streamLost (stream : Nat)
  | alignDeadline (group : Nat)
  | alignHoldoffEnd (group : Nat)
  | irisVisionComplete (stream : Nat) (crop : Nat)
  | irisStatsWrite (stream : Nat)
  | irsBankWrite (rq : Requester) (stream : Nat) (v : B32)
  | pipeSpared (pipe : Nat)
  | ppsEdge
  | offsetGo (rq : Requester)
  | ppsLost
  | fsyncPulse (k : Nat)
  | fsyncPulseEnd (k : Nat)
  -- video (09)
  | accessUnitReceive (ctx : Nat) (au : AuSyntax)
  | decodeFrameStart (core : Nat)
  | decodeFrameComplete (core : Nat) (out : FrameOutcome)
  | decodeBudgetExpire (core : Nat)
  | decSpared (core : Nat)
  | scalerOutputWrite
  | encodeFrameStart (session : Nat)
  | encodeFrameDone (core : Nat)
  | encSpared (core : Nat)
  | encRdWrite (rq : Requester) (session : Nat) (v : B32)
  -- Aster (10)
  | asterEpochStart (group : Nat) (epoch : B32)
  | asterJobProgram (group : Nat) (tile : Nat)
  | asterCostsReady (group : Nat)
  | journalCopyDone (group : Nat)
  | macroSpared (mac : Nat)
  | astTrkDataRead (rq : Requester)
  | astCntClear (rq : Requester)
  -- memory (11)
  | memoryAccess (m : MemRequest)
  | pageRetireStart (stack : Nat)
  | pageRetired (stack : Nat)
  | retAddGo (rq : Requester) (v : B32)
  | hbmPatrolRead (stack : Nat)
  | rgnWrite (rq : Requester) (i : Nat) (which : RgnReg) (v : B32)
  | rsvPinWrite (rq : Requester) (j : Nat) (v : B32)
  | pinFill (rq : Requester) (j : Nat)
  | pinFillDone (j : Nat)
  | rcvAccess (m : RcvRequest)
  -- host interface (12)
  | functionLevelReset
  | bar2Access (how : HostAccess) (off len : Nat) (data : List Byte)
  | bufEntryWrite (b : Nat) (v : B32)
  | irEnable (i : Nat) (v : B32) (prod : Option B32)
  | irDisable (i : Nat) (v : B32)
  | irDrainDone (i : Nat)
  | irPoll (i : Nat)
  | irProducerReturn (i : Nat) (prod : Option B32)
  | irDescriptorReturn (i : Nat) (desc : Option (BitVec 512))
  | irDataReturn (i : Nat) (data : Option (List Byte))
  | rrEnable (j : Nat) (v : B32) (cons : Option B32)
  | rrDisable (j : Nat) (v : B32)
  | rrEntryWrite (j : Nat)
  | rrConsumerReread (j : Nat) (cons : Option B32)
  | msixModerationExpire (j : Nat)
  | msixUnmask (vec : Nat)
  | heartbeatRead (word : Option B32)
  | hostDetach
  | hostAttach
  | pcieLinkDown
  | pciePerst
  -- Orrek Link (13)
  | lnkEnable (rq : Requester) (port : Nat) (on : Bool)
  | lnkRetrain (rq : Requester) (port : Nat)
  | linkSignalDetect (port lanes : Nat)
  | laneCheckDone (port : Nat) (badRx badTx : BitVec 17)
  | alignDone (port : Nat) (rtt : BitVec 16)
  | linkStateTimeout (port : Nat)
  | paramFlitReceive (port : Nat) (p : ParamFlit)
  | linkFailedRetry (port : Nat)
  | laneErrorRetrain (port : Nat)
  | linkSignalLost (port : Nat)
  | flitSend (port : Nat)
  | flitReceive (port : Nat) (flit : BitVec 2048)
  | lnkRead (port : Nat) (msg : LnkMsg) (hostData : Option (List Byte))
  | lnkWrite (port : Nat) (msg : LnkMsg) (hostOk : Bool)
  | lnkPush (port : Nat) (msg : LnkMsg)
  | lnkFlow (port : Nat) (msg : LnkMsg)
  | lnkRstat (port : Nat) (msg : LnkMsg)
  | lnkCkpt (port : Nat) (msg : LnkMsg)
  | lnkSource (port : Nat) (msg : LnkMsg)
  | lnkRdata (port : Nat) (msg : LnkMsg)
  | lnkWack (port : Nat) (msg : LnkMsg)
  | lnkCtrl (port : Nat) (msg : LnkMsg)
  -- mailbox commands (15); `data` is what the reads of a host-memory buffer return
  | mbxInfo
  | mbxAttest (data : Option (List Byte))
  | mbxCtxCreate (data : Option (List Byte))
  | mbxCtxDestroy
  | mbxFlashErase
  | mbxFlashWrite (data : Option (List Byte))
  | mbxUpdate (data : Option (List Byte))
  | mbxRegRead
  | mbxRegWrite
  | mbxMemRead
  | mbxMemWrite (data : Option (List Byte))
  | mbxPolicy
  | mbxRemoteTimeout
  -- live update, cores, events (15)
  | updateStop (body : List Byte)
  | updateRelease
  | fwReportAccept (rq : Requester)
  | fwReportReject (rq : Requester)
  | updateReportTimeout
  | updateFallback
  | wdtKick (rq : Requester) (n : Nat)
  | wdtExpire (n : Nat)
  | coreError (n : Nat)
  | coreTaskMoveDone (n : Nat)
  | evtRingEnable (v : B32) (cons : Option B32)
  | eventWrite
  | cleanServiceExpire
  -- check units (16)
  | dinB (u : Nat)
  | dinH (u : Nat)
  | dinW (u : Nat)
  | crcInit (u : Nat)
  | crcCheck (u : Nat)
  | crcScan (u : Nat)
  | crcScanDone (u : Nat)
  | shaInit (e : Nat)
  | shaScan (e : Nat)
  | shaScanDone (e : Nat)
  | weightScrub (u folio entry : Nat)
  -- tests, safety (17)
  | tileTestStart (cluster : Nat)
  | tileTestEnd (cluster : Nat) (r : TestResult)
  | outOfTurnTestStart (cluster : Nat)
  | faultHoldExpire
  | safetyNop (req : BitVec 256)
  | safetyStatus (req : BitVec 256)
  | safetyNext (req : BitVec 256)
  | safetyAck (req : BitVec 256)
  | faultAckWrite (rq : Requester) (seq : B32)
  | aliveWrite (rq : Requester)
  | safeToggleEdge
  -- power and thermal (18)
  | pmbusPoll (readings : List (Option PmbusRead × Option PmbusRead))
  | sensorConvert (i : Nat) (mdegc : Int)
  | thermalSample
  | pllLockLoss
  | phyPllLoss (phy : Phy)
  -- rows added later to the table
  | pciePerstRelease
  | pcieLinkUp
  | supplyRemoval
  | safetyRequestDiscarded (frame : List Byte)
  | crcCommandWrite (rq : Requester) (key : Nat) (v : B32)
  | coreRejoin (n : Nat)
  | streamMoveDone (pipe : Nat)
deriving DecidableEq, Repr

end Sys2Proof
end

