-- ==== Sys2Proof/WellFormed.lean ====
section
/-!
DEFINITION. Which commands are well formed: every unit number names a unit that the manual gives the block, every
requester is one of Table 11-2, every field lies in its width. An ill-formed command is no command of the manual;
the machine turns it away.
-/
namespace Sys2Proof

/-- Table 11-2: the instances of a class, and the worlds its requesters act in. -/
def Requester.wf (rq : Requester) : Bool :=
  let cls := rq.code.toNat / 4096
  let inst := rq.code.toNat % 4096
  match cls with
  | 0x0 => decide (inst < 80) && !rq.secure
  | 0x1 => decide (inst < 8) && !rq.secure
  | 0x2 => decide (inst < 4) && !rq.secure
  | 0x3 => decide (inst < 3) && !rq.secure
  | 0x4 => decide (inst < 9) && !rq.secure
  | 0x5 => decide (inst < 5) && !rq.secure
  | 0x6 => decide (inst = 0) && !rq.secure
  | 0x7 => decide (inst = 0) && rq.secure
  | 0x8 => decide (inst = 0) && !rq.secure
  | 0x9 => decide (inst = 0) && !rq.secure
  | 0xA => decide (inst < 1024) && decide (inst % 8 < 6) && !rq.secure
  | 0xB => decide (inst < 12) && (rq.secure == decide (inst = 0))
  | 0xC => decide (inst < 8)
  | _ => false

def StepRef.wf (st : StepRef) : Bool := decide (st.pipe < 128) && decide (st.stage < 64) && decide (st.step < 65536)

/-- The step a start names lies in the ranges of Table 07-3. -/
def StepCmd.wf (x : StepCmd) : Bool := x.ref.wf

/-- A nib instruction's tile and register numbers (Table 05-3: 5-bit fields). -/
def nibWf (t : Nat) (l : List Nat) : Bool := decide (t < 80) && l.all (fun r => decide (r < 32))

/-- An access lies in the 40-bit device-local space and carries at least one byte (R35). -/
def Access.wf (a : Access) : Bool :=
  a.rq.wf && (if a.write then decide (0 < a.data.length) else decide (0 < a.len)) && decide (a.addr < 2 ^ 40)

def MemRequest.wf : MemRequest → Bool
  | .plain a => a.wf
  | .dma t _ | .badDma t _ => decide (t < 80)
  | .badPlain rq => rq.wf

/-- A message on one of the six ports, of at most 64 payload chunks (Table 13-4). -/
def portWf (p : Nat) (m : LnkMsg) : Bool := decide (p < 6) && decide (m.payload.length ≤ 512)

def Phy.wf : Phy → Bool
  | .pcie => true
  | .orrek p => decide (p < 6)
  | .csi p => decide (p < 8)
  | .hbm k => decide (k < 8)

def Instr.wf : Instr → Bool
  | .registerWrite rq key _ | .loReadLatch rq key | .hiRead rq key | .crcCommandWrite rq key _ => rq.wf && key % 4 == 0
  | .resetNAssert _ | .resetNRelease _ | .firstStage _ | .stageTimeout | .functionLevelReset => true
  | .releaseGo rq | .keyLockSet rq | .scrLockSet rq | .offsetGo rq | .astTrkDataRead rq | .astCntClear rq
  | .fwReportAccept rq | .fwReportReject rq | .aliveWrite rq => rq.wf
  | .arvRaise rq v => rq.wf && decide (v < 128)
  | .folioVerify rq f => rq.wf && decide (f.getD 0 < 32)
  | .folioVerifyDone f => decide (f < 32)
  | .pipelineBind p | .epochAdmit p | .sourceReceive p _ | .twinDecide p _ _ _ | .twinTimeout p _ _ _ => decide (p < 128)
  | .droopDetect x => decide (x.die < 4) && decide (x.mv.length = 16)
  | .droopStretchEnd d => decide (d < 4)
  | .satEnable rq t n => rq.wf && decide (t < 80) && decide (n < 6)
  | .satClear rq t | .arrCntClear rq t | .inkCntClear rq t | .nibCntClear rq t | .bookSnap rq t => rq.wf && decide (t < 80)
  | .satWindowEnd t n => decide (t < 80) && decide (n < 6)
  | .arrSkipWrite rq t _ _ | .inkRemapWrite rq t _ => rq.wf && decide (t < 80)
  | .matrixStepStart x | .dmaDescriptorStart x | .vconvStepStart x | .stemStepStart x | .spectralStepStart x => x.wf
  | .matrixStepComplete st | .vconvStepComplete st | .stemStepComplete st | .spectralStepComplete st | .signalStepStart st => st.wf
  | .inkScrub t b | .inkScrubForced t b => decide (t < 80) && decide (b < 16)
  | .inkSlicePowerUp rq t sl | .inkSlicePowerOff rq t sl => rq.wf && decide (t < 80) && decide (sl < 8)
  | .inkSliceFillDone t sl | .inkSlicePowerDown t sl => decide (t < 80) && decide (sl < 8)
  | .tileMove l d => decide (l < 64) && decide (d < 80)
  | .tileMoveDone l => decide (l < 64)
  | .dmaTransferIssue t q => decide (t < 80) && decide (q < 8)
  | .dmaTransferComplete t _ | .dmaDelayedInkWrite t _ => decide (t < 80)
  | .dmaLimitWrite rq t q _ => rq.wf && decide (t < 80) && decide (q < 8)
  | .nibSectionStart t st _ _ | .settleStart t st _ => decide (t < 80) && st.wf
  | .nibNop t | .nibEnd t => nibWf t []
  | .nibLoop t a body => nibWf t [a] && decide (body < 512)
  | .nibAmov t d _ | .nibBcast t d _ => nibWf t [d]
  | .nibAadd t d a _ | .nibLd t d a _ | .nibSt t d a _ => nibWf t [d, a]
  | .nibAaddr t d a b => nibWf t [d, a, b]
  | .nibMov t d a | .nibFsqrt t d a | .nibFabs t d a | .nibFneg t d a | .nibRamax t d a | .nibRmax t d a
  | .nibRsum t d a => nibWf t [d, a]
  | .nibLane t d a c _ | .nibIns t d a c _ => nibWf t [d, a, c]
  | .nibFadd t d a b | .nibFsub t d a b | .nibFmul t d a b | .nibFdiv t d a b | .nibFmin t d a b | .nibFmax t d a b
  | .nibIadd t d a b | .nibIsub t d a b | .nibAnd t d a b | .nibOr t d a b | .nibXor t d a b | .nibFclt t d a b
  | .nibFceq t d a b | .nibQscale t d a b => nibWf t [d, a, b]
  | .nibShl t d a sh | .nibSra t d a sh => nibWf t [d, a] && decide (sh < 32)
  | .nibSel t d a b c => nibWf t [d, a, b, c]
  | .nibUnpk t d a fmt part => nibWf t [d, a, fmt, part]
  | .nibQnt t d a b fmt part slot => nibWf t [d, a, b, fmt, part, slot]
  | .nibTbl t d a part => nibWf t [d, a, part]
  | .nibTblld t a part _ => nibWf t [a, part]
  | .nibTput t a b fmt part _ | .nibTget t a b fmt part _ => nibWf t [a, b, fmt, part]
  | .nibGrow t d a b c _ => nibWf t [d, a, b, c]
  | .nibRstat t a c _ => nibWf t [a, c]
  | .nibRstget t d a part _ => nibWf t [d, a, part]
  | .rstatContributionReceive t p _ _ | .rstatReleaseReceive t p _ _ => decide (t < 80) && decide (p < 128)
  | .nibMemWrite rq t i _ _ => rq.wf && decide (t < 80) && decide (i < 512)
  | .stmCntClear rq c => rq.wf && decide (c < 8)
  | .spcCntClear rq d => rq.wf && decide (d < 4)
  | .tokenReceive _ _ | .creditReceive _ _ | .reportReceive _ | .epochCommit _ | .checkpointReceive _ => true
  | .withdrawReceive st _ => decide (st < 64)
  | .bookAudit c | .bookReread c | .bookImbalance c | .bookRestore c => decide (c < 8)
  | .csiFrameStart p vc _ _ | .csiLineReceive p vc _ _ _ _ _ | .csiFrameEnd p vc _ _ => decide (p < 8) && decide (vc < 16)
  | .feTimeout n | .streamLost n | .irisVisionComplete n _ | .irisStatsWrite n => decide (n < 24)
  | .alignDeadline g | .alignHoldoffEnd g => decide (g < 8)
  | .irsBankWrite rq n _ => rq.wf && decide (n < 24)
  | .pipeSpared n | .streamMoveDone n => decide (n < 3)
  | .ppsEdge | .ppsLost | .scalerOutputWrite => true
  | .fsyncPulse k | .fsyncPulseEnd k => decide (k < 8)
  | .accessUnitReceive x _ => decide (x < 256)
  | .decodeFrameStart c | .decodeFrameComplete c _ | .decodeBudgetExpire c | .decSpared c => decide (c < 9)
  | .encodeFrameStart e => decide (e < 32)
  | .encodeFrameDone c | .encSpared c => decide (c < 5)
  | .encRdWrite rq e _ => rq.wf && decide (e < 32)
  | .asterEpochStart g _ | .asterCostsReady g | .journalCopyDone g => decide (g < 64)
  | .asterJobProgram g t => decide (g < 64) && decide (t < 80)
  | .macroSpared _ => true
  | .memoryAccess m => m.wf
  | .pageRetireStart k | .pageRetired k | .hbmPatrolRead k => decide (k < 8)
  | .retAddGo rq _ => rq.wf
  | .rgnWrite rq i _ _ => rq.wf && decide (i < 64)
  | .rsvPinWrite rq j _ => rq.wf && decide (j < 8)
  | .pinFill rq j => rq.wf && decide (j < 8)
  | .pinFillDone j => decide (j < 8)
  | .rcvAccess m => m.rq.wf
  | .bar2Access _ _ len data => decide (0 < len) || decide (0 < data.length)
  | .bufEntryWrite b _ => decide (b < 4096)
  | .irEnable i _ _ | .irDisable i _ | .irDrainDone i | .irPoll i | .irProducerReturn i _ | .irDescriptorReturn i _
  | .irDataReturn i _ | .rrEnable i _ _ | .rrDisable i _ | .rrEntryWrite i | .msixModerationExpire i => decide (i < 256)
  | .rrConsumerReread j _ => decide (j ≤ 256)
  | .msixUnmask v => decide (v < 64)
  | .heartbeatRead _ | .hostDetach | .hostAttach | .pcieLinkDown | .pciePerst | .pciePerstRelease | .pcieLinkUp => true
  | .lnkEnable rq p _ => rq.wf && decide (p < 6)
  | .lnkRetrain rq p => rq.wf && decide (p < 6)
  | .linkSignalDetect p l => decide (p < 6) && decide (l ≤ 17)
  | .laneCheckDone p _ _ | .alignDone p _ | .linkStateTimeout p | .paramFlitReceive p _ | .linkFailedRetry p
  | .laneErrorRetrain p | .linkSignalLost p | .flitSend p | .flitReceive p _ => decide (p < 6)
  | .lnkRead p m _ => portWf p m
  | .lnkWrite p m _ => portWf p m
  | .lnkPush p m | .lnkFlow p m | .lnkRstat p m | .lnkCkpt p m | .lnkSource p m | .lnkRdata p m | .lnkWack p m
  | .lnkCtrl p m => portWf p m
  | .mbxInfo | .mbxAttest _ | .mbxCtxCreate _ | .mbxCtxDestroy | .mbxFlashErase | .mbxFlashWrite _ | .mbxUpdate _
  | .mbxRegRead | .mbxRegWrite | .mbxMemRead | .mbxMemWrite _ | .mbxPolicy | .mbxRemoteTimeout => true
  | .updateStop body => decide (64 + body.length ≤ 1048576)
  | .updateRelease | .updateReportTimeout | .updateFallback | .evtRingEnable _ _ | .eventWrite | .cleanServiceExpire => true
  | .wdtKick rq n => rq.wf && decide (n < 12)
  | .wdtExpire n | .coreError n | .coreTaskMoveDone n | .coreRejoin n => decide (n < 12)
  | .dinB u | .dinH u | .dinW u | .crcInit u | .crcCheck u | .crcScan u | .crcScanDone u | .shaInit u | .shaScan u
  | .shaScanDone u => decide (u < 4)
  | .weightScrub u f e => decide (u < 4) && decide (f < 32) && decide (e < 65536)
  | .tileTestStart c | .tileTestEnd c _ | .outOfTurnTestStart c => decide (c < 8)
  | .faultHoldExpire | .safeToggleEdge => true
  | .safetyNop _ | .safetyStatus _ | .safetyNext _ | .safetyAck _ => true
  | .safetyRequestDiscarded _ => true
  | .faultAckWrite rq _ => rq.wf
  | .pmbusPoll l => decide (l.length ≤ 8)
  | .sensorConvert i _ => decide (i < 64)
  | .thermalSample | .pllLockLoss | .supplyRemoval => true
  | .phyPllLoss p => p.wf

end Sys2Proof
end

