-- ==== Sys2Proof/Decode.lean ====
section
/-!
DEFINITION. The commands that a word of the command table spells. No row of the table gives a command any bits, so
no word spells one.
-/
namespace Sys2Proof

/-- The command that a word of `nbits` bits spells by the table's bits: none does. -/
def decodeTableWord (_nbits _w : Nat) : Option Instr := none

end Sys2Proof
end

