-- ==== Sys2Proof/Machine/SMap.lean ====
section
/-!
DEFINITION. Sparse storage: a sorted list of (key, value) pairs that lists no key at the value an
unlisted key reads as, so that equal contents are equal data. Memory is its byte instance
(`List Host.Cell`), a register file its 32-bit instance, and every numbered family of units (tiles,
rings, streams, contexts) an instance over that unit's record.
-/
namespace Sys2Proof.Machine

/-- Sparse storage over `α`. -/
abbrev SMap (α : Type) := List (Nat × α)

/-- The value at key `k`; an unlisted key reads as `dflt k`. -/
def SMap.get {α : Type} (dflt : Nat → α) : SMap α → Nat → α
  | [], k => dflt k
  | (k', v) :: m, k => if k' = k then v else SMap.get dflt m k

/-- The map without any entry at `k`. -/
def SMap.erase {α : Type} : SMap α → Nat → SMap α
  | [], _ => []
  | (k', v) :: m, k => if k' = k then SMap.erase m k else (k', v) :: SMap.erase m k

/-- The entry `(k, v)` put before the first larger key. -/
def SMap.insert {α : Type} : SMap α → Nat → α → SMap α
  | [], k, v => [(k, v)]
  | (k', v') :: m, k, v => if k < k' then (k, v) :: (k', v') :: m else (k', v') :: SMap.insert m k v

/-- The map with key `k` at `v`, in canonical form. -/
def SMap.set {α : Type} [DecidableEq α] (dflt : Nat → α) (m : SMap α) (k : Nat) (v : α) : SMap α :=
  if v = dflt k then m.erase k else (m.erase k).insert k v

/-- Every key of the map is above `k`. -/
def SMap.above {α : Type} (k : Nat) : SMap α → Bool
  | [] => true
  | (k', _) :: m => decide (k < k') && SMap.above k m

/-- The canonical form: keys strictly rise and no entry equals what an unlisted key reads as. -/
def SMap.wf {α : Type} [DecidableEq α] (dflt : Nat → α) : SMap α → Bool
  | [] => true
  | (k, v) :: m => SMap.above k m && decide (v ≠ dflt k) && SMap.wf dflt m

/-- Keys listed in the map. -/
def SMap.keys {α : Type} (m : SMap α) : List Nat := m.map (·.1)

/-- Entries whose key satisfies `p` dropped: the contents of those keys are lost and read as unlisted. -/
def SMap.dropWhere {α : Type} (p : Nat → Bool) (m : SMap α) : SMap α := m.filter (fun e => !p e.1)

/-! ## Byte memory -/

/-- A byte memory: sorted `Host.Cell`s. -/
abbrev Memory := List Host.Cell

/-- What a byte that nothing has written reads as (log entry 7: DESIGN CHOICE 0x00). -/
def Memory.blank : Nat → Byte := fun _ => 0

/-- What an erased byte of the boot flash reads as (log entry 9: PRESUMED 0xFF). -/
def Memory.erased : Nat → Byte := fun _ => 0xFF

/-- The byte at `a`. -/
def Memory.read (m : Memory) (a : Nat) : Byte := SMap.get Memory.blank m a

/-- The `n` bytes from `a`, in rising address. -/
def Memory.readBytes (m : Memory) (a : Nat) : Nat → List Byte
  | 0 => []
  | n + 1 => m.read a :: m.readBytes (a + 1) n

/-- One byte written. -/
def Memory.write (m : Memory) (a : Nat) (b : Byte) : Memory := SMap.set Memory.blank m a b

/-- Bytes written from `a` in rising address. -/
def Memory.writeBytes (m : Memory) (a : Nat) : List Byte → Memory
  | [] => m
  | b :: bs => Memory.writeBytes (m.write a b) (a + 1) bs

/-- The canonical form of a byte memory. -/
def Memory.wf (m : Memory) : Bool := SMap.wf Memory.blank m

/-! ## Bytes, words and rows (R5: little-endian) -/

/-- The number a little-endian byte string holds. -/
def bytesToNat : List Byte → Nat
  | [] => 0
  | b :: bs => b.toNat + 256 * bytesToNat bs

/-- The low `n` bytes of a number, little-endian. -/
def natToBytes (v : Nat) : Nat → List Byte
  | 0 => []
  | n + 1 => BitVec.ofNat 8 v :: natToBytes (v / 256) n

/-- Bits [lo + w - 1 : lo] of a number. -/
def bitsOf (v lo w : Nat) : Nat := (v >>> lo) % 2 ^ w

/-- Bit `i` of a number. -/
def bitOf (v i : Nat) : Bool := v.testBit i

/-- A field placed at bit `lo`, cut to `w` bits. -/
def place (v lo w : Nat) : Nat := (v % 2 ^ w) <<< lo

/-- A truth value as a bit. -/
def b2n (b : Bool) : Nat := if b then 1 else 0

/-- ⌈a / b⌉. -/
def ceilDiv (a b : Nat) : Nat := (a + b - 1) / b

/-- Two's-complement reading of the low `w` bits. -/
def sext (v w : Nat) : Int :=
  let u := v % 2 ^ w
  if u < 2 ^ (w - 1) then (u : Int) else (u : Int) - (2 ^ w : Nat)

/-- An integer written as `w` two's-complement bits. -/
def toTwos (i : Int) (w : Nat) : Nat := (i % ((2 ^ w : Nat) : Int)).toNat

/-- An integer limited to a range. -/
def clampInt (lo hi i : Int) : Int := if i < lo then lo else if hi < i then hi else i

/-- A count that stops at 2^w - 1. -/
def satAdd (w a b : Nat) : Nat := min (a + b) (2 ^ w - 1)

/-- Whether serial number `a` is at or after `b` modulo 2^32 (R245, R284). -/
def serialGe (a b : B32) : Bool := decide ((a - b).toNat < 2 ^ 31)

/-- The numbers 0 to n - 1. -/
def upTo (n : Nat) : List Nat := List.range n

end Sys2Proof.Machine
end

