-- ==== Sys2Proof/Machine/Fp.lean ====
section
/-!
DEFINITION. The number formats and the arithmetic of chapter 02: decoding and encoding of every
format of Tables 02-1 and 02-3, FP32 operations with round to nearest, ties to even, and the conversions
of Table 02-4. A floating-point value is worked on exactly (sign, integer significand, power of two) and
rounded once.
-/
namespace Sys2Proof.Machine

/-- A floating-point value held exactly: a NaN (payload and sign do not matter, R47), an infinity, or
(-1)^neg * m * 2^e, where m = 0 is a signed zero (R48). -/
inductive FVal where
  | nan
  | inf (neg : Bool)
  | fin (neg : Bool) (m : Nat) (e : Int)
deriving DecidableEq, Repr

/-- The layout of a binary format: exponent bits, mantissa bits, bias (Table 02-3). -/
structure FFmt where
  ebits : Nat
  mbits : Nat
  bias  : Nat
deriving DecidableEq, Repr

def FFmt.fp32 : FFmt := ⟨8, 23, 127⟩
def FFmt.bf16 : FFmt := ⟨8, 7, 127⟩
def FFmt.e4m3 : FFmt := ⟨4, 3, 7⟩
def FFmt.e5m2 : FFmt := ⟨5, 2, 15⟩
def FFmt.e2m1 : FFmt := ⟨2, 1, 1⟩
/-- IEEE 754 binary16, read by the Stem engine (Table 06-3). -/
def FFmt.fp16 : FFmt := ⟨5, 10, 15⟩

/-- A finite value of a format from its sign, exponent field and mantissa field; subnormals are kept
(R46). -/
def FFmt.finite (f : FFmt) (neg : Bool) (ex man : Nat) : FVal :=
  let low : Int := 1 - (f.bias : Int) - f.mbits
  if ex = 0 then .fin neg man low
  else .fin neg (2 ^ f.mbits + man) (low + (ex : Int) - 1)

/-- A format with infinities and NaNs in the top exponent decoded from its bits. -/
def FFmt.decodeIeee (f : FFmt) (v : Nat) : FVal :=
  let man := bitsOf v 0 f.mbits
  let ex := bitsOf v f.mbits f.ebits
  let neg := bitOf v (f.mbits + f.ebits)
  if ex = 2 ^ f.ebits - 1 then (if man = 0 then .inf neg else .nan)
  else f.finite neg ex man

def fp32Decode (v : B32) : FVal := FFmt.fp32.decodeIeee v.toNat
def bf16Decode (v : Nat) : FVal := FFmt.bf16.decodeIeee v
def fp16Decode (v : Nat) : FVal := FFmt.fp16.decodeIeee v
def e5m2Decode (v : Nat) : FVal := FFmt.e5m2.decodeIeee v
/-- E4M3: exponent 15 with mantissa 0 to 6 is finite; mantissa 7 is NaN; no infinity (R45). -/
def e4m3Decode (v : Nat) : FVal :=
  if bitsOf v 0 7 = 0x7F then .nan
  else FFmt.e4m3.finite (bitOf v 7) (bitsOf v 3 4) (bitsOf v 0 3)
/-- E2M1: no infinity and no NaN (R45). -/
def e2m1Decode (v : Nat) : FVal := FFmt.e2m1.finite (bitOf v 3) (bitsOf v 1 2) (bitsOf v 0 1)

/-- (n + a positive part below 1 when `sticky`) * 2^e rounded to nearest, ties to even, at the given
lowest exponent and number of significant bits: the significand and exponent of the result. -/
def roundMag (prec : Nat) (emin : Int) (n : Nat) (e : Int) (sticky : Bool) : Nat × Int :=
  let q : Int := max ((Nat.log2 n : Int) - (prec - 1 : Nat) + e) emin
  if q ≤ e then (n <<< (e - q).toNat, q)
  else
    let sh := (q - e).toNat
    let m := n >>> sh
    let r := n % 2 ^ sh
    let h := 2 ^ (sh - 1)
    let up := decide (h < r) || (decide (r = h) && (sticky || decide (m % 2 = 1)))
    (if up then m + 1 else m, q)

/-- Bits of a rounded magnitude in a format; `none` when it lies beyond the largest exponent. -/
def FFmt.pack (f : FFmt) (neg : Bool) (me : Nat × Int) (maxEx : Nat) : Option Nat :=
  let low : Int := 1 - (f.bias : Int) - f.mbits
  let s := b2n neg <<< (f.mbits + f.ebits)
  if me.1 = 0 then some s
  else
    -- bring the significand to at most mbits + 1 bits
    let m := if me.1 = 2 ^ (f.mbits + 1) then me.1 / 2 else me.1
    let e := if me.1 = 2 ^ (f.mbits + 1) then me.2 + 1 else me.2
    if m < 2 ^ f.mbits then some (s + m)
    else
      let ex := (e - low + 1).toNat
      if ex ≤ maxEx then some (s + (ex <<< f.mbits) + (m - 2 ^ f.mbits)) else none

/-- The canonical NaN of FP32 (R47). -/
def fpNan : B32 := 0x7FC00000
def fpInf (neg : Bool) : B32 := if neg then 0xFF800000 else 0x7F800000
def fpZero (neg : Bool) : B32 := if neg then 0x80000000 else 0
def fpOne : B32 := 0x3F800000

/-- A value rounded to FP32; beyond the finite range it is an infinity (Table 02-4). -/
def fp32RoundS (v : FVal) (sticky : Bool) : B32 :=
  match v with
  | .nan => fpNan
  | .inf n => fpInf n
  | .fin n m e =>
    match FFmt.fp32.pack n (roundMag 24 (-149) m e sticky) 254 with
    | some b => BitVec.ofNat 32 b
    | none => fpInf n

def fp32Round (v : FVal) : B32 := fp32RoundS v false

/-- Exact sum of two finite values: aligned to the smaller exponent. A zero sum of operands of
different signs is +0 (R48). -/
def FVal.addFin (n1 : Bool) (m1 : Nat) (e1 : Int) (n2 : Bool) (m2 : Nat) (e2 : Int) : FVal :=
  let e := min e1 e2
  let a : Int := ((m1 <<< (e1 - e).toNat : Nat) : Int)
  let b : Int := ((m2 <<< (e2 - e).toNat : Nat) : Int)
  let s : Int := (if n1 then -a else a) + (if n2 then -b else b)
  if s = 0 then .fin (n1 && n2) 0 e
  else .fin (decide (s < 0)) s.natAbs e

/-- Exact sum. -/
def FVal.add : FVal → FVal → FVal
  | .nan, _ => .nan
  | _, .nan => .nan
  | .inf a, .inf b => if a = b then .inf a else .nan
  | .inf a, .fin _ _ _ => .inf a
  | .fin _ _ _, .inf b => .inf b
  | .fin n1 m1 e1, .fin n2 m2 e2 => FVal.addFin n1 m1 e1 n2 m2 e2

/-- Negation of a value (a NaN stays NaN). -/
def FVal.neg : FVal → FVal
  | .nan => .nan
  | .inf a => .inf (!a)
  | .fin n m e => .fin (!n) m e

/-- Exact product; infinity times zero is NaN. -/
def FVal.mul : FVal → FVal → FVal
  | .nan, _ => .nan
  | _, .nan => .nan
  | .inf a, .inf b => .inf (a != b)
  | .inf a, .fin n m _ => if m = 0 then .nan else .inf (a != n)
  | .fin n m _, .inf b => if m = 0 then .nan else .inf (n != b)
  | .fin n1 m1 e1, .fin n2 m2 e2 => .fin (n1 != n2) (m1 * m2) (e1 + e2)

def FVal.isNan : FVal → Bool
  | .nan => true
  | _ => false
def FVal.isInf : FVal → Bool
  | .inf _ => true
  | _ => false
def FVal.isFin : FVal → Bool
  | .fin _ _ _ => true
  | _ => false
def FVal.isZero : FVal → Bool
  | .fin _ 0 _ => true
  | _ => false

def fpIsNan (x : B32) : Bool := (fp32Decode x).isNan
def fpIsInf (x : B32) : Bool := (fp32Decode x).isInf
def fpIsFin (x : B32) : Bool := (fp32Decode x).isFin
def fpIsZero (x : B32) : Bool := (fp32Decode x).isZero
def fpSign (x : B32) : Bool := x.getLsbD 31

/-- FP32 add, subtract, multiply with one rounding each (R54, R174). -/
def fpAdd (a b : B32) : B32 := fp32Round ((fp32Decode a).add (fp32Decode b))
def fpSub (a b : B32) : B32 := fp32Round ((fp32Decode a).add (fp32Decode b).neg)
def fpMul (a b : B32) : B32 := fp32Round ((fp32Decode a).mul (fp32Decode b))

/-- Correctly rounded quotient (R174); 0/0 and infinity/infinity are NaN, finite/0 an infinity. -/
def fpDiv (a b : B32) : B32 :=
  match fp32Decode a, fp32Decode b with
  | .nan, _ => fpNan
  | _, .nan => fpNan
  | .inf _, .inf _ => fpNan
  | .inf n, .fin n2 _ _ => fpInf (n != n2)
  | .fin n _ _, .inf n2 => fpZero (n != n2)
  | .fin n m e, .fin n2 m2 e2 =>
    if m2 = 0 then (if m = 0 then fpNan else fpInf (n != n2))
    else if m = 0 then fpZero (n != n2)
    else
      let num := m <<< 64
      fp32RoundS (.fin (n != n2) (num / m2) (e - e2 - 64)) (decide (num % m2 ≠ 0))

/-- Integer square root by bits from the top: the largest r with r * r ≤ n. -/
def isqrtGo (n : Nat) : Nat → Nat → Nat
  | 0, r => r
  | k + 1, r => let c := r + 2 ^ k; isqrtGo n k (if c * c ≤ n then c else r)

def isqrt (n : Nat) : Nat := isqrtGo n (Nat.log2 n / 2 + 1) 0

/-- Correctly rounded square root; a negative non-zero operand gives the canonical NaN (R174). -/
def fpSqrt (a : B32) : B32 :=
  match fp32Decode a with
  | .nan => fpNan
  | .inf n => if n then fpNan else fpInf false
  | .fin n m e =>
    if m = 0 then fpZero n
    else if n then fpNan
    else
      let sh : Nat := if e % 2 = 0 then 64 else 65
      let x := m <<< sh
      let r := isqrt x
      fp32RoundS (.fin false r ((e - sh) / 2)) (decide (r * r ≠ x))

/-- Order of two values that are not NaN: `some .lt`, `.eq` or `.gt`; -0 equals +0. -/
def FVal.cmp : FVal → FVal → Option Ordering
  | .nan, _ => none
  | _, .nan => none
  | .inf a, .inf b => some (if a = b then .eq else if a then .lt else .gt)
  | .inf a, .fin _ _ _ => some (if a then .lt else .gt)
  | .fin _ _ _, .inf b => some (if b then .gt else .lt)
  | .fin n1 m1 e1, .fin n2 m2 e2 =>
    match FVal.addFin n1 m1 e1 (!n2) m2 e2 with
    | .fin n m _ => some (if m = 0 then .eq else if n then .lt else .gt)
    | _ => none

def fpLt (a b : B32) : Bool := (fp32Decode a).cmp (fp32Decode b) = some .lt
def fpEq (a b : B32) : Bool := (fp32Decode a).cmp (fp32Decode b) = some .eq

/-- Minimum and maximum; a NaN operand gives the canonical NaN (R174). Of -0 and +0 the minimum is -0 and
the maximum +0 (log entry 12: the manual orders them by neither rule). -/
def fpMin (a b : B32) : B32 :=
  if fpIsNan a || fpIsNan b then fpNan
  else if fpLt a b then a else if fpLt b a then b else if fpSign a then a else b
def fpMax (a b : B32) : B32 :=
  if fpIsNan a || fpIsNan b then fpNan
  else if fpLt a b then b else if fpLt b a then a else if fpSign a then b else a

/-- |x| and -x; a NaN becomes canonical (R174). -/
def fpAbs (a : B32) : B32 := if fpIsNan a then fpNan else a &&& 0x7FFFFFFF
def fpNeg (a : B32) : B32 := if fpIsNan a then fpNan else a ^^^ 0x80000000

/-- An integer as FP32: RNE, exact up to 2^24 (Table 02-4). -/
def fpOfInt (i : Int) : B32 := fp32Round (.fin (decide (i < 0)) i.natAbs 0)

/-- The integer nearest to a finite value, ties to even. -/
def roundInt (neg : Bool) (m : Nat) (e : Int) : Int :=
  let mag : Nat :=
    if 0 ≤ e then m <<< e.toNat
    else
      let sh := (-e).toNat
      let q := m >>> sh
      let r := m % 2 ^ sh
      let h := 2 ^ (sh - 1)
      if h < r ∨ (r = h ∧ q % 2 = 1) then q + 1 else q
  if neg then -(mag : Int) else mag

/-- RNE quotient of two integers, the divisor positive (R349). -/
def rneDiv (n : Int) (d : Nat) : Int :=
  let q := n / (d : Int)
  let r := (n % (d : Int)).toNat
  if d < 2 * r ∨ (2 * r = d ∧ q % 2 = 1) then q + 1 else q

/-! ## Elements in the formats of Table 02-1 -/

/-- Bits of one element of a format code; 0 for a reserved code (R41). -/
def fmtBits (f : Nat) : Nat :=
  match f with
  | 0 => 8 | 1 => 4 | 2 => 8 | 3 => 8 | 4 => 4 | 5 => 16 | 6 => 32 | 7 => 32 | 8 => 16
  | _ => 0

/-- Whether a format code is one of Table 02-1. -/
def fmtValid (f : Nat) : Bool := decide (f ≤ 8)

/-- An element's bits as an exact value. -/
def elemDecode (f v : Nat) : FVal :=
  let ofI (i : Int) : FVal := .fin (decide (i < 0)) i.natAbs 0
  match f with
  | 0 => ofI (sext v 8)
  | 1 => ofI (sext v 4)
  | 2 => e4m3Decode v
  | 3 => e5m2Decode v
  | 4 => e2m1Decode v
  | 5 => bf16Decode v
  | 6 => FFmt.fp32.decodeIeee v
  | 7 => ofI (sext v 32)
  | 8 => ofI (sext v 16)
  | _ => .nan

/-- An element of a format as FP32 (Table 02-4). -/
def elemToFp32 (f v : Nat) : B32 := fp32Round (elemDecode f v)

/-- FP32 to BF16 bits: RNE, infinity beyond the range, canonical NaN. -/
def fpToBf16 (x : B32) : Nat :=
  match fp32Decode x with
  | .nan => 0x7FC0
  | .inf n => if n then 0xFF80 else 0x7F80
  | .fin n m e => (FFmt.bf16.pack n (roundMag 8 (-133) m e false) 254).getD (if n then 0xFF80 else 0x7F80)

/-- A finite value to a saturating small format: its bits and whether it saturated. `lim` is the largest
magnitude's bits. -/
def satPack (f : FFmt) (emin : Int) (maxEx lim : Nat) (n : Bool) (m : Nat) (e : Int) : Nat × Bool :=
  let s := b2n n <<< (f.mbits + f.ebits)
  match f.pack n (roundMag (f.mbits + 1) emin m e false) maxEx with
  | some b => if b - s ≤ lim then (b, false) else (s + lim, true)
  | none => (s + lim, true)

/-- An integer conversion: RNE, clamp, infinity to the range end, NaN to 0 (Table 02-4). -/
def fpToIntSat (x : B32) (w : Nat) : Nat × Bool :=
  let lo : Int := -((2 ^ (w - 1) : Nat) : Int)
  let hi : Int := ((2 ^ (w - 1) : Nat) : Int) - 1
  match fp32Decode x with
  | .nan => (0, true)
  | .inf n => (toTwos (if n then lo else hi) w, true)
  | .fin n m e =>
    let i := roundInt n m e
    (toTwos (clampInt lo hi i) w, decide (clampInt lo hi i ≠ i))

/-- FP32 to an element of format `f`: the bits and whether the conversion is counted in a CLAMP slot
(Table 02-4). -/
def fpToElem (f : Nat) (x : B32) : Nat × Bool :=
  match f with
  | 0 => fpToIntSat x 8
  | 1 => fpToIntSat x 4
  | 8 => fpToIntSat x 16
  | 2 => match fp32Decode x with
    | .nan => (0x7F, true)
    | .inf n => (if n then 0xFE else 0x7E, true)
    | .fin n m e => satPack FFmt.e4m3 (-9) 15 0x7E n m e
  | 3 => match fp32Decode x with
    | .nan => (0x7E, true)
    | .inf n => (if n then 0xFB else 0x7B, true)
    | .fin n m e => satPack FFmt.e5m2 (-16) 30 0x7B n m e
  | 4 => match fp32Decode x with
    | .nan => (0, true)
    | .inf n => (if n then 0xF else 0x7, true)
    | .fin n m e => satPack FFmt.e2m1 (-1) 3 0x7 n m e
  | 5 => (fpToBf16 x, false)
  | 6 => ((if fpIsNan x then fpNan else x).toNat, false)
  | _ => (0, false)

/-- R50: the product with the reciprocal scale is rounded to FP32, then converted. -/
def quantise (f : Nat) (x r : B32) : Nat × Bool := fpToElem f (fpMul x r)

/-- FP32 to binary16 with subnormals kept and saturation at 65,504 (R287): bits, and whether it
saturated. A NaN gives the canonical binary16 NaN 0x7E00 and is not a clamp (log entry 13). -/
def fpToFp16Sat (x : B32) : Nat × Bool :=
  match fp32Decode x with
  | .nan => (0x7E00, false)
  | .inf n => (if n then 0xFBFF else 0x7BFF, true)
  | .fin n m e => satPack FFmt.fp16 (-24) 30 0x7BFF n m e

/-- A balanced binary tree sum: pairs are added, in order, until one value is left; RNE at every node
(R54, R174). The list has 2^k entries for the levels k given. -/
def pairSums : List B32 → List B32
  | a :: b :: r => fpAdd a b :: pairSums r
  | l => l

def treeSum : Nat → List B32 → B32
  | 0, l => l.headD 0
  | k + 1, l => treeSum k (pairSums l)

end Sys2Proof.Machine
end

