-- ==== Sys2Proof/Config.lean ====
section
/-!
DEFINITION. What the spec leaves to the part and the values it leaves open: constants without a body, so
that no proof can lean on a value of one. Each is named in a log entry (10, 15 to 19, 37).
-/
namespace Sys2Proof

/-- A storage error that appears by itself between two commands: an upset of an Inkwell word, an HBM line, a line of a
stack that no device address maps to (page · 64 + line), a Reservoir word, a recovery RAM word or a track-table word,
correctable or not, or an HBM error beyond the outer code that changes one byte unseen (R504). -/
inductive Upset where
  | ink (tile row word : Nat) (ue : Bool)
  | hbm (line : Nat) (ue : Bool)
  | spare (stack line : Nat) (ue : Bool)
  | rsv (word : Nat) (ue : Bool)
  | rcv (word : Nat) (ue : Bool)
  | track (entry word : Nat) (ue : Bool)
  | silent (addr : Nat) (mask : Byte)
deriving DecidableEq, Repr

/-- The storage error of tick `n`, if one appears (log entry 10). -/
opaque Config.upset : Nat → Option Upset

/-- The byte of the boot ROM at an offset: the manual does not print the ROM (log entry 15). -/
opaque Config.romByte : Nat → Byte

/-- The per-signature secret number of ECDSA, drawn `n`-th (log entry 16). -/
opaque Config.nonce : Nat → Nat

/-- A value of an Iris parameter block that Table 08-7 puts in an area without giving its place: a stage's
enable, the colour route, an exposure's ratio, a black level by exposure and phase, a gain by channel, a matrix
entry, the defect threshold, the corrected size, the border value by channel, a lens-shading gain by phase and
grid node, a tone-curve entry by channel, and a weight-curve entry. -/
inductive IrisItem where
  | enable (stage : Nat)
  | edgeRoute
  | ratio (exp : Nat)
  | black (exp phase : Nat)
  | gain (ch : Nat)
  | matrix (row col : Nat)
  | defect
  | width
  | height
  | border (ch : Nat)
  | shade (phase col row : Nat)
  | tone (ch i : Nat)
  | weight (i : Nat)
deriving DecidableEq, Repr

/-- The bit of its area at which a value of the block begins (log entry 17). -/
opaque Config.irisPlace : IrisItem → Nat

/-- What the manual does not state of Iris (log entry 17): the order of the four colour phases of a stream's
mosaic, how far a sample of a data type is shifted up to 20 bits, the index that stands for one outside an image
at a stage, the blend of the scaled exposures under a weight, the direction of EDGE at equal gradients, the
matrix input of a YUV component, the result of the noise filter for its 25 samples, and the Y and the YUV422
channels of the statistics. -/
opaque Config.mosaic : Nat → Nat
opaque Config.rawShift : Nat → Nat
opaque Config.imageEdge : Nat → Nat → Int → Nat
opaque Config.irisBlend : Nat → List (Nat × Nat) → Nat
opaque Config.irisTie : Nat → Bool
opaque Config.irisYuvIn : Nat → Nat → Int
opaque Config.irisSmooth : List (Nat × Byte) → Nat → List Nat → Nat
opaque Config.irisLuma : Nat → Nat → Nat → Nat
opaque Config.irisYuvStat : Nat → Nat → Nat → Nat → Nat

/-- The bytes between the end of an image's row and the start of the next (log entry 17). -/
opaque Config.imagePad : Nat → Byte

/-- A sample of a decoded frame, which the video standards fix and not this manual: of codec, access unit, frame of
the unit and reference frames' bytes; plane 0 Y, 1 Cb, 2 Cr, column and row. With plane 3, motion data by offset
(log entry 18). -/
opaque Config.videoSample (codec : Nat) (unit : List Byte) (frame : Nat) (refs : List (List Byte))
    (plane x y : Nat) : Nat

/-- The largest picture, in samples, and decoded-picture buffer, in frames of a size, of a codec's level, which the
standards fix (log entry 18). -/
opaque Config.levelPixels (codec level : Nat) : Nat
opaque Config.levelDpb (codec level width height : Nat) : Nat

/-- The payload of an encoded packet and what the encoder keeps of the frame, which the standards and the encoder
fix: of codec, the session's settings with the key flag and the sizes of its earlier packets, what it kept of the
previous frame, and the coding frame's bytes (R328, log entry 18). -/
opaque Config.encPayload (av1 : Bool) (settings : List Nat) (kept : Nat) (frame : List Byte) : List Byte
opaque Config.encKept (av1 : Bool) (settings : List Nat) (kept : Nat) (frame : List Byte) : Nat

/-- The Aster window of a pipeline's binding, first Inkwell row and row count: Table 07-6 names the item and
Table 14-12 gives it no bytes (log entry 37). -/
opaque Config.asterWindow (pipe : Nat) : Nat × Nat

/-- A value the manual states no result for, by draw (log entry 19). -/
opaque Config.freeWord : Nat → B64

end Sys2Proof
end

