-- ==== Sys2Proof/Machine/RegMap.lean ====
section
/-!
DEFINITION. The register map: the windows of Table 01-6 and BAR4 (Table 12-3), and for every register the
bits of each type of Table 00-2 and the reset value, row by row from the register tables of chapters 01 to
18. A register is named by its key: its BAR0 offset, or 0x1000_0000 plus its BAR4 offset.
-/
namespace Sys2Proof.Machine

/-- The register windows (R36, Table 12-3). `stm` and `spc` are the Stem and Spectral windows; `ring` is
BAR4. -/
inductive Blk where
  | glb | hst | pwr | clk | trs | chk | blt | lnk | mem | cam | irs | vid | ast | qcx | til | stm | spc | ring
deriving DecidableEq, Repr

/-- One register, or one array of them: offset in its window, counts and steps of up to two indices, and
the masks of its writable fields by type. Every other bit is read-only or reserved (R7, R10). WO fields
keep no value and stand in no mask. -/
structure RegDef where
  off   : Nat
  n     : Nat := 1
  step  : Nat := 4
  n2    : Nat := 1
  step2 : Nat := 4
  rw    : Nat := 0
  w1c   : Nat := 0
  w1s   : Nat := 0
  sc    : Nat := 0
  reset : Nat := 0
deriving DecidableEq, Repr

def regsGlb : List RegDef := [
  { off := 0x0, reset := 0x00014801 },   -- GLB_PART (F: log entry 3)
  { off := 0x4, reset := 0x8 } ]         -- GLB_STATUS

def regsHst : List RegDef := [
  { off := 0x00, reset := 0x0040FFFF },                       -- HST_ID
  { off := 0x04, sc := 0x2 },                                 -- HST_CTL
  { off := 0x08, reset := 0x1 },                              -- HST_STAT
  { off := 0x10 }, { off := 0x14 },                           -- HST_ABS_T
  { off := 0x18 },                                            -- HST_DROP
  { off := 0x20, rw := 0xFFFFFFFF }, { off := 0x24, rw := 0xFFFFFFFF },   -- HST_HB_ADDR
  { off := 0x28, rw := 0x3FFF0001, reset := 0x00640000 },     -- HST_HB_CFG
  { off := 0x2C },                                            -- HST_HB_LAST
  { off := 0x30, rw := 0xFFFFFFFF }, { off := 0x34, rw := 0xFF },         -- HST_BAR2_BASE
  { off := 0x38 } ]                                           -- HST_HDMA_ERR

def regsPwr : List RegDef := [
  { off := 0x00, rw := 0x3FFF, reset := 0x11C2 },             -- PWR_CAP (F 450 W: log entry 3)
  { off := 0x04 }, { off := 0x08 }, { off := 0x0C },          -- PWR_STAT, NOW, AVG
  { off := 0x10 }, { off := 0x14 },                           -- PWR_ENERGY
  { off := 0x18, rw := 0x1 },                                 -- PWR_PMB_CFG
  { off := 0x100, n := 8, step := 0x10, rw := 0x3FF1FFFF, reset := 0x0C810000 },  -- PWR_RAIL_CFG_k
  { off := 0x104, n := 8, step := 0x10 },                     -- PWR_RAIL_P_k
  { off := 0x200, n := 4, step := 0x10, rw := 0x7F, reset := 0x32 },  -- PWR_DROOP_CFG_d
  { off := 0x204, n := 4, step := 0x10 },                     -- PWR_DROOP_CNT_d
  { off := 0x208, n := 4, step := 0x10 },                     -- PWR_DROOP_CYC_d
  { off := 0x240, n := 4, reset := 750 },                     -- PWR_AVS_d (F: log entry 3)
  { off := 0x300, rw := 0xFFFF, reset := 0x736E },            -- PWR_THERM_CFG (F 110, 115 degrees: log entry 3)
  { off := 0x304 },                                           -- PWR_THERM_MAX
  { off := 0x308, n := 2, reset := 0xFFFFFFFF },              -- PWR_TS_USE_LO, HI
  { off := 0x400, n := 64 } ]                                 -- PWR_TS_i

def regsClk : List RegDef := [ { off := 0x0 }, { off := 0x4 } ]   -- CLK_STAT, CLK_REFMON

def regsTrs : List RegDef := [
  { off := 0x00, reset := 0x3 },                              -- TRS_BOOT_STAT
  { off := 0x04 }, { off := 0x08 },                           -- TRS_BOOT_SEQ_A, B
  { off := 0x0C },                                            -- TRS_ARV (F 0: log entry 3)
  { off := 0x10, w1s := 0x1 },                                -- TRS_KEY_LOCK
  { off := 0x14, w1s := 0x1 },                                -- TRS_RELEASE
  { off := 0x18, rw := 0xFFFFFFFF }, { off := 0x1C, rw := 0xFF },   -- TRS_REL_ENTRY
  { off := 0x20, w1s := 0x1 },                                -- TRS_SCR_LOCK
  { off := 0x100, rw := 0x1F },                               -- TRS_FOLIO_SEL
  { off := 0x104, sc := 0x1 },                                -- TRS_FOLIO_CMD
  { off := 0x200, n := 32 },                                  -- TRS_FOLIO_STAT_n
  { off := 0x400, n := 36 },                                  -- TRS_ATT_PUB_i
  { off := 0x500, n := 36 },                                  -- TRS_ID_PUB_i
  { off := 0x600, reset := 0xD },                             -- TRS_KEYSLOT_0 (F: log entry 3)
  { off := 0x604, n := 3 } ]                                  -- TRS_KEYSLOT_1 to 3

def regsChk : List RegDef := [
  { off := 0x00, n := 4, step := 0x100, rw := 0xFFF, reset := 0x1FF },          -- CHK_CRC_CFG
  { off := 0x08, n := 4, step := 0x100, rw := 0xFFFFFFFF, reset := 0xA9EA3693 },  -- POLY_LO
  { off := 0x0C, n := 4, step := 0x100, rw := 0xFFFFFFFF, reset := 0x42F0E1EB },  -- POLY_HI
  { off := 0x10, n := 4, step := 0x100, rw := 0xFFFFFFFF, reset := 0xFFFFFFFF },  -- INIT_LO
  { off := 0x14, n := 4, step := 0x100, rw := 0xFFFFFFFF, reset := 0xFFFFFFFF },  -- INIT_HI
  { off := 0x18, n := 4, step := 0x100, rw := 0xFFFFFFFF },                     -- EXP_LO
  { off := 0x1C, n := 4, step := 0x100, rw := 0xFFFFFFFF },                     -- EXP_HI
  { off := 0x20, n := 4, step := 0x100 }, { off := 0x24, n := 4, step := 0x100 }, -- RES
  { off := 0x28, n := 4, step := 0x100 },                                       -- CTL
  { off := 0x2C, n := 4, step := 0x100, w1c := 0x20 },                          -- STAT
  { off := 0x30, n := 4, step := 0x100, rw := 0xFFFFFFFF },                     -- ADDR_LO
  { off := 0x34, n := 4, step := 0x100, rw := 0xFF },                           -- ADDR_HI
  { off := 0x38, n := 4, step := 0x100, rw := 0xFFFFFFFF },                     -- LEN_LO
  { off := 0x3C, n := 4, step := 0x100, rw := 0xFF },                           -- LEN_HI
  { off := 0x40, n := 4, step := 0x100, n2 := 3 },                              -- DIN_B, DIN_H, DIN_W
  { off := 0x50, n := 4, step := 0x100 }, { off := 0x54, n := 4, step := 0x100 }, -- CNT
  { off := 0x1000, n := 4, step := 0x100, rw := 0xC },                          -- CHK_SHA_CTL
  { off := 0x1004, n := 4, step := 0x100 },                                     -- STAT
  { off := 0x1008, n := 4, step := 0x100, rw := 0xFFFFFFFF },                   -- ADDR_LO
  { off := 0x100C, n := 4, step := 0x100, rw := 0xFF },                         -- ADDR_HI
  { off := 0x1010, n := 4, step := 0x100, rw := 0xFFFFFFFF },                   -- LEN_LO
  { off := 0x1014, n := 4, step := 0x100, rw := 0xFF },                         -- LEN_HI
  { off := 0x1018, n := 4, step := 0x100 }, { off := 0x101C, n := 4, step := 0x100 }, -- CNT
  { off := 0x1040, n := 4, step := 0x100, n2 := 16 } ]                          -- DIGEST_i

def regsBlt : List RegDef := [
  { off := 0x00 }, { off := 0x04 }, { off := 0x08 }, { off := 0x0C },           -- STAT, NEXT, HELD, EXHAUST
  { off := 0x10 }, { off := 0x14 },                                             -- FAULT_ACK, ALIVE
  { off := 0x20, rw := 0x1, reset := 0x1 },                                     -- TEST_CFG
  { off := 0x30 },                                                              -- SPI_ERR
  { off := 0x40, n := 8, reset := 0x57F } ]                                     -- TEST_STAT_c (F 10: log entry 3)

def regsLnk : List RegDef := [
  { off := 0x00, reset := 0x3888 },                           -- LNK_ID
  { off := 0x04, rw := 0xFFFF0001, sc := 0x2, reset := 0x01000000 },            -- LNK_CTL
  { off := 0x08 }, { off := 0x0C }, { off := 0x10 }, { off := 0x14 },           -- STAT, PEER, LANE, RTT
  { off := 0x20 }, { off := 0x24 }, { off := 0x28 }, { off := 0x2C },           -- CRC, REPLAY, RETRAIN, UNROUTED
  { off := 0x30, n := 2 }, { off := 0x38, n := 2 },                             -- FLIT_TX, FLIT_RX
  { off := 0x40, n := 2, step := 0x10, reset := 32 },                           -- VC_BUF_0, 1 (Table 13-3)
  { off := 0x60, n := 2, step := 0x10, reset := 64 },                           -- VC_BUF_2, 3
  { off := 0x80, n := 2, step := 0x10, reset := 128 },                          -- VC_BUF_4, 5
  { off := 0x44, n := 6, step := 0x10, n2 := 3 },                               -- VC_SENT, CRED, FREED
  { off := 0x100 }, { off := 0x104 } ]                                          -- TOPO, HOME

def regsMem : List RegDef := [
  { off := 0x0000, n := 64, step := 0x10, n2 := 2, rw := 0x0FFFFFFF },          -- MEM_RGN_BASE_i, LAST_i
  { off := 0x0008, n := 64, step := 0x10, rw := 0x1F, w1s := 0x20 },            -- MEM_RGN_ATTR_i
  { off := 0x1000 }, { off := 0x1004 },                                         -- MEM_VIOL_ADDR
  { off := 0x1008, w1c := 0x80000000 },                                         -- MEM_VIOL_INFO
  { off := 0x100C },                                                            -- MEM_VIOL_CNT
  { off := 0x2000, n := 8, step := 0x20, reset := 0x5A00 },                     -- MEM_HBM_STAT_k
  { off := 0x2004, n := 8, step := 0x20, n2 := 3 },                             -- MEM_HBM_CE, UE, RET
  { off := 0x2100, rw := 0xFF, reset := 0x10 },                                 -- MEM_RET_CFG
  { off := 0x2104, rw := 0x03FFFFFF, sc := 0x80000000 },                        -- MEM_RET_ADD
  { off := 0x2108, rw := 0xFF, reset := 0x08 },                                 -- MEM_SCRUB
  { off := 0x3000, n := 8, rw := 0xFFFF007F, sc := 0x80 },                      -- MEM_RSV_PIN_j
  { off := 0x3040 },                                                            -- MEM_RSV_ECC
  { off := 0x4000 } ]                                                           -- MEM_RCV_ECC

def regsCam : List RegDef := [
  { off := 0x0000, n := 8, step := 0x40, reset := 0x4 },      -- CAM_PORT_STAT (lanes: log entry 22)
  { off := 0x0004, n := 8, step := 0x40, n2 := 3 },           -- CAM_PORT_ECC, CRC, ORPHAN
  { off := 0x1000, n := 24, step := 0x40, n2 := 2 },          -- CAM_STRM_FCNT, FLAGGED
  { off := 0x1010, n := 24, step := 0x40, n2 := 6 },          -- CAM_STRM_DROP_s_k
  { off := 0x2000 }, { off := 0x2004 },                       -- CAM_TIME_LO, HI
  { off := 0x2008, rw := 0xFFFFFFFF, reset := 0x06666666 },   -- CAM_TIME_INC
  { off := 0x200C, rw := 0x3, sc := 0x4 },                    -- CAM_TIME_CTL
  { off := 0x2010, n := 2, rw := 0xFFFFFFFF },                -- CAM_TIME_OFS
  { off := 0x2018, n := 2 },                                  -- CAM_TIME_PPS_CAP
  { off := 0x2020, n := 2, rw := 0xFFFFFFFF },                -- CAM_TIME_LOAD
  { off := 0x2028, n := 2 },                                  -- CAM_TIME_ELAPSED
  { off := 0x3000, n := 8, step := 0x20, rw := 0xFFFF0003, reset := 0x00100000 },  -- CAM_FSYNC_CTL_k
  { off := 0x3004, n := 8, step := 0x20, rw := 0xFFFFFFFF, reset := 0x01FCA055 },  -- CAM_FSYNC_PERIOD_k
  { off := 0x3008, n := 8, step := 0x20, n2 := 2, rw := 0xFFFFFFFF },              -- CAM_FSYNC_START_k
  { off := 0x4000, n := 8, step := 0x20, n2 := 4 } ]          -- CAM_GRP_STAT, REL, TMO, LATE

def regsIrs : List RegDef := [
  { off := 0x00, n := 2, step := 0x20, reset := 0x1 },        -- IRS_PIPE_STAT_0, 1 (F active: log entry 3)
  { off := 0x40 },                                            -- IRS_PIPE_STAT_2 (F spare)
  { off := 0x08, n := 3, step := 0x20, n2 := 2 },             -- IRS_PIPE_PIX
  { off := 0x1000, n := 24, step := 0x10, rw := 0x1 },        -- IRS_STRM_BANK_s
  { off := 0x1004, n := 24, step := 0x10, rw := 0xFFFFFFFF }, -- IRS_STRM_SWITCH_s
  { off := 0x1008, n := 24, step := 0x10, n2 := 2 } ]         -- IRS_STRM_CLAMP, PERR

def regsVid : List RegDef := [
  { off := 0x0000, n := 256, step := 0x40, reset := 0xF00 },  -- VID_CTX_STAT_x
  { off := 0x0004, n := 256, step := 0x40, n2 := 11 },        -- AVG, BUDGET, FRM, ST_0 to 5, ODROP, CLAMP
  { off := 0x8000, n := 8, step := 0x10, reset := 0x1 },      -- VID_DEC_STAT_0 to 7 (F active: log entry 3)
  { off := 0x8080 },                                          -- VID_DEC_STAT_8 (F spare)
  { off := 0x8008, n := 9, step := 0x10, n2 := 2 },           -- VID_DEC_PIX
  { off := 0x9000, n := 4, step := 0x10, reset := 0x1 },      -- VID_ENC_STAT_0 to 3 (F active)
  { off := 0x9040 },                                          -- VID_ENC_STAT_4 (F spare)
  { off := 0x9008, n := 5, step := 0x10, n2 := 2 },           -- VID_ENC_PIX
  { off := 0xA000, n := 32, step := 0x10 },                   -- VID_ENC_WR_e
  { off := 0xA004, n := 32, step := 0x10, rw := 0xFFFFFFFF }, -- VID_ENC_RD_e
  { off := 0xA008, n := 32, step := 0x10, n2 := 2 } ]         -- VID_ENC_PKT_e, SKIP_e

def regsAst : List RegDef := [
  { off := 0x0000, reset := 0x04810000 },                        -- AST_ID: 0x1_0000 entries, 64 groups, 4 spares
  { off := 0x0004, sc := 0x1 },                               -- AST_CTL
  { off := 0x1000, n := 64, step := 0x20, n2 := 5 },          -- AST_GRP_STAT, SEQ, NEXTID, FRAMES, REFUSED
  { off := 0x2000, rw := 0xFFFF },                            -- AST_TRK_SEL
  { off := 0x2040, n := 16 } ]                                -- AST_TRK_DATA_i

def regsQcx : List RegDef := [
  { off := 0x000, reset := 0x1 },                             -- QCX_FW_STAT
  { off := 0x004 },                                           -- QCX_FW_REPORT
  { off := 0x010, n := 12 },                                  -- QCX_CORE_STAT_n (F running: log entry 3)
  { off := 0x040, n := 12, rw := 0x1FFFFF, reset := 0x19064 },-- QCX_WDT_CFG_n
  { off := 0x070, n := 12 },                                  -- QCX_WDT_KICK_n
  { off := 0x200, n := 16, rw := 0xFFFFFFFF },                -- QCX_MBX_REQ_i
  { off := 0x240, n := 16 },                                  -- QCX_MBX_RSP_i
  { off := 0x280, sc := 0x1 },                                -- QCX_MBX_CTL
  { off := 0x300, n := 2, rw := 0xFFFFFFFF },                 -- QCX_EVT_BASE
  { off := 0x308, rw := 0x3F },                               -- QCX_EVT_CFG
  { off := 0x310, n := 4, rw := 0xFFFFFFFF },                 -- QCX_EVT_PROD_ADDR, CONS_ADDR
  { off := 0x320, rw := 0xFFFFFFFF, reset := 0x1 },           -- QCX_EVT_MOD
  { off := 0x324 }, { off := 0x328 },                         -- QCX_EVT_LOST, HELD
  { off := 0x80000, n := 128, step := 0x20, n2 := 4 },        -- QCX_PIPE_STAT, COMMIT, END, FAULT
  { off := 0x81000 } ]                                        -- QCX_EPOCH_NEXT

def regsTil : List RegDef := [
  { off := 0x100, reset := 0x84848080 },                      -- TIL_ARR_ID
  { off := 0x104, sc := 0x1 },                                -- TIL_ARR_CTL
  { off := 0x108, n := 2, rw := 0xFFFFFFFF, reset := 0x84848484 },  -- TIL_ARR_ROWSKIP, COLSKIP (F: log entry 3)
  { off := 0x110 },                                           -- TIL_ARR_STAT
  { off := 0x114, w1c := 0x100 },                             -- TIL_ARR_ERR
  { off := 0x120, n := 6 },                                   -- TIL_ARR_CYC_n
  { off := 0x138 },                                           -- TIL_ARR_STEPS
  { off := 0x200, reset := 0x4000 },                          -- TIL_INK_ROWS
  { off := 0x204, reset := 0x00081010 },                      -- TIL_INK_GEOM
  { off := 0x208, rw := 0xFF, reset := 0xFF },                -- TIL_INK_PWR
  { off := 0x20C, rw := 0x1, reset := 0x1 },                  -- TIL_INK_SCRUB
  { off := 0x210 }, { off := 0x214 },                         -- TIL_INK_SCRUB_PASS, ECC_CNT
  { off := 0x218, sc := 0x1 },                                -- TIL_INK_CTL
  { off := 0x21C },                                           -- TIL_INK_ERRLOG
  { off := 0x220, w1c := 0x200 },                             -- TIL_INK_ERRSRC
  { off := 0x224, rw := 0xFF },                               -- TIL_INK_REMAP_SEL
  { off := 0x228 },                                           -- TIL_INK_REMAP (window on the selected entry)
  { off := 0x240, n := 16 },                                  -- TIL_INK_CONF_b
  { off := 0x300, n := 8, rw := 0x3F, reset := 0x3F },        -- TIL_DMA_QCFG_q
  { off := 0x320, n := 8 },                                   -- TIL_DMA_QSTAT_q
  { off := 0x340, w1c := 0x100 },                             -- TIL_DMA_ERR
  { off := 0x400, rw := 0x3F, sc := 0x100 },                  -- TIL_SAT_CTL
  { off := 0x410, n := 6, rw := 0xFFFFFF, reset := 0x0F4240 },-- TIL_SAT_WIN_n
  { off := 0x430, n := 6, rw := 0xFFFFFFFF, reset := 0xFFFFFFFF },  -- TIL_SAT_THR_n
  { off := 0x450, n := 6 }, { off := 0x470, n := 6 },         -- TIL_SAT_CNT_n, WCNT_n
  { off := 0x500 },                                           -- TIL_NIB_STAT
  { off := 0x504, w1c := 0x100 },                             -- TIL_NIB_ERR
  { off := 0x508 }, { off := 0x50C },                         -- TIL_NIB_GFAULT, RSB
  { off := 0x510, sc := 0x1 },                                -- TIL_NIB_CTL
  { off := 0x600, n := 3 },                                   -- TIL_EPO_RES, NUM_0, NUM_1
  { off := 0x610, rw := 0x1FFFF },                            -- TIL_BOOK_SEL
  { off := 0x614, sc := 0x1 },                                -- TIL_BOOK_CTL
  { off := 0x618, n := 4 },                                   -- TIL_BOOK_A to D
  { off := 0x700, n := 4 },                                   -- TIL_SIG_LO, HI, CKPT, MISM
  { off := 0x1000, n := 1024, rw := 0xFFFFFFFF } ]            -- TIL_NIB_MEM_i

def regsStm : List RegDef := [
  { off := 0x00, reset := 0x10081000 },                       -- STM_ID
  { off := 0x04 },                                            -- STM_STAT
  { off := 0x08, w1c := 0x100 },                              -- STM_ERR
  { off := 0x0C, sc := 0x1 },                                 -- STM_CTL
  { off := 0x10, n := 4 },                                    -- STM_SAT_CNT_n
  { off := 0x20, n := 4 }, { off := 0x30 } ]                  -- STM_CYC_k, STM_STEPS

def regsSpc : List RegDef := [
  { off := 0x00, reset := 0x00107F0F },                       -- SPC_ID
  { off := 0x04 },                                            -- SPC_STAT
  { off := 0x08, w1c := 0x100 },                              -- SPC_ERR
  { off := 0x0C, sc := 0x1 },                                 -- SPC_CTL
  { off := 0x10 },                                            -- SPC_NONFIN
  { off := 0x20, n := 4 }, { off := 0x30 } ]                  -- SPC_CYC_k, SPC_STEPS

/-- BAR4 (Tables 12-3, 12-4, 12-8, 12-9). The MSI-X table holds per vector the PCIe 5.0 entry: address,
upper address, data, vector control with the mask bit at bit 0, set at reset (log entry 14). -/
def regsRing : List RegDef := [
  { off := 0x0000, n := 256, step := 0x40, n2 := 2, rw := 0xFFFFFFFF },         -- IR_BASE
  { off := 0x0008, n := 256, step := 0x40, rw := 0x03FFFF3F, reset := 0x000A0000 },  -- IR_CFG
  { off := 0x000C, n := 256, step := 0x40 },                                    -- IR_STAT
  { off := 0x0010, n := 256, step := 0x40, n2 := 4, rw := 0xFFFFFFFF },         -- IR_PROD_ADDR, CONS_ADDR
  { off := 0x0020, n := 256, step := 0x40, n2 := 2 },                           -- IR_CONS, IR_DESC
  { off := 0x4000, n := 256, step := 0x40, n2 := 2, rw := 0xFFFFFFFF },         -- RR_BASE
  { off := 0x4008, n := 256, step := 0x40, rw := 0x3F3F },                      -- RR_CFG
  { off := 0x400C, n := 256, step := 0x40, rw := 0xFFFFFFFF, reset := 0x1 },    -- RR_MOD
  { off := 0x4010, n := 256, step := 0x40, n2 := 4, rw := 0xFFFFFFFF },         -- RR_PROD_ADDR, CONS_ADDR
  { off := 0x4020, n := 256, step := 0x40 },                                    -- RR_PROD
  { off := 0x4024, n := 256, step := 0x40, w1c := 0x4 },                        -- RR_STAT
  { off := 0x4028, n := 256, step := 0x40, n2 := 2 },                           -- RR_ENTRIES, RR_ABS_DROP
  { off := 0x10000, n := 4096, step := 0x10, n2 := 3, rw := 0xFFFFFFFF },       -- BUF_ADDR_LO, HI, SIZE_LO
  { off := 0x1000C, n := 4096, step := 0x10, rw := 0x800001FF },                -- BUF_CTL
  { off := 0xF00000, n := 64, step := 0x10, n2 := 3, rw := 0xFFFFFFFF },        -- MSI-X address and data
  { off := 0xF0000C, n := 64, step := 0x10, rw := 0x1, reset := 0x1 },          -- MSI-X vector control
  { off := 0xF01000, n := 2 } ]                                                 -- MSI-X pending bits

/-- The registers of a window. -/
def Blk.regs : Blk → List RegDef
  | .glb => regsGlb | .hst => regsHst | .pwr => regsPwr | .clk => regsClk | .trs => regsTrs
  | .chk => regsChk | .blt => regsBlt | .lnk => regsLnk | .mem => regsMem | .cam => regsCam
  | .irs => regsIrs | .vid => regsVid | .ast => regsAst | .qcx => regsQcx | .til => regsTil
  | .stm => regsStm | .spc => regsSpc | .ring => regsRing

/-- Key of BAR4 offset 0. -/
def barRing : Nat := 0x10000000

/-- The window, unit and offset of a key; `none` outside Table 01-6 and BAR4 (R36, R11). -/
def decodeKey (k : Nat) : Option (Blk × Nat × Nat) :=
  if barRing ≤ k then (if k < barRing + 0x1000000 then some (.ring, 0, k - barRing) else none)
  else if k < 0x10000 then some (.glb, 0, k)
  else if k < 0x20000 then some (.hst, 0, k - 0x10000)
  else if k < 0x30000 then some (.pwr, 0, k - 0x20000)
  else if k < 0x40000 then some (.clk, 0, k - 0x30000)
  else if k < 0x50000 then some (.trs, 0, k - 0x40000)
  else if k < 0x60000 then some (.chk, 0, k - 0x50000)
  else if k < 0x70000 then some (.blt, 0, k - 0x60000)
  else if k < 0x80000 then none
  else if k < 0x86000 then some (.lnk, (k - 0x80000) / 0x1000, (k - 0x80000) % 0x1000)
  else if k < 0x100000 then none
  else if k < 0x200000 then some (.mem, 0, k - 0x100000)
  else if k < 0x300000 then some (.cam, 0, k - 0x200000)
  else if k < 0x400000 then some (.irs, 0, k - 0x300000)
  else if k < 0x500000 then some (.vid, 0, k - 0x400000)
  else if k < 0x600000 then some (.ast, 0, k - 0x500000)
  else if k < 0x700000 then some (.qcx, 0, k - 0x600000)
  else if k < 0x1000000 then none
  else if k < 0x2000000 then
    let c := (k - 0x1000000) / 0x200000
    let r := (k - 0x1000000) % 0x200000
    let t := r / 0x20000
    if t < 10 then some (.til, 10 * c + t, r % 0x20000)
    else if t = 10 then some (.stm, c, r % 0x20000) else none
  else if k < 0x3000000 then none
  else if k < 0x3040000 then some (.spc, (k - 0x3000000) / 0x10000, (k - 0x3000000) % 0x10000)
  else none

/-- Whether a register array holds the word at a window offset, and its two indices. -/
def RegDef.index (d : RegDef) (off : Nat) : Option (Nat × Nat) :=
  if off < d.off then none
  else
    let i := if d.n = 1 then 0 else (off - d.off) / d.step
    let r := off - d.off - i * d.step
    let j := r / d.step2
    if i < d.n ∧ j < d.n2 ∧ r = j * d.step2 then some (i, j) else none

/-- The register of a list at a window offset. -/
def findReg : List RegDef → Nat → Option RegDef
  | [], _ => none
  | d :: ds, off => if (d.index off).isSome then some d else findReg ds off

/-- The register behind a key (a multiple of 4). -/
def regAt (k : Nat) : Option RegDef :=
  match decodeKey k with
  | some (b, _, off) => findReg b.regs off
  | none => none

/-- The reset value behind a key; an offset no register occupies reads as 0 (R11). -/
def regReset (k : Nat) : B32 :=
  match regAt k with
  | some d => BitVec.ofNat 32 d.reset
  | none => 0

/-- The value a register takes when `v` is written by field type (R7): RW fields take the value, W1C bits
are cleared by a 1, W1S bits and SC bits set by a 1, every other bit stays. -/
def RegDef.applyWrite (d : RegDef) (old v : B32) : B32 :=
  let m (n : Nat) : B32 := BitVec.ofNat 32 n
  ((old &&& ~~~(m d.rw)) ||| (v &&& m d.rw)) &&& ~~~(v &&& m d.w1c) ||| (v &&& m d.w1s) ||| (v &&& m d.sc)

/-! ## Keys -/

def kHst (off : Nat) : Nat := 0x10000 + off
def kPwr (off : Nat) : Nat := 0x20000 + off
def kClk (off : Nat) : Nat := 0x30000 + off
def kTrs (off : Nat) : Nat := 0x40000 + off
def kChk (off : Nat) : Nat := 0x50000 + off
def kBlt (off : Nat) : Nat := 0x60000 + off
def kLnk (p off : Nat) : Nat := 0x80000 + 0x1000 * p + off
def kMem (off : Nat) : Nat := 0x100000 + off
def kCam (off : Nat) : Nat := 0x200000 + off
def kIrs (off : Nat) : Nat := 0x300000 + off
def kVid (off : Nat) : Nat := 0x400000 + off
def kAst (off : Nat) : Nat := 0x500000 + off
def kQcx (off : Nat) : Nat := 0x600000 + off
/-- TIL window of physical tile `t` (R36, R37). -/
def kTil (t off : Nat) : Nat := 0x1000000 + 0x200000 * (t / 10) + 0x20000 * (t % 10) + off
/-- Stem window of cluster `c`. -/
def kStm (c off : Nat) : Nat := 0x1000000 + 0x200000 * c + 0x140000 + off
def kSpc (d off : Nat) : Nat := 0x3000000 + 0x10000 * d + off
/-- Intake ring control block `i`, result ring control block `j`, buffer entry `b` (Table 12-3). -/
def kIr (i off : Nat) : Nat := barRing + 0x40 * i + off
def kRr (j off : Nat) : Nat := barRing + 0x4000 + 0x40 * j + off
def kBuf (b off : Nat) : Nat := barRing + 0x10000 + 0x10 * b + off
def kMsix (vec off : Nat) : Nat := barRing + 0xF00000 + 0x10 * vec + off
def kPba : Nat := barRing + 0xF01000

end Sys2Proof.Machine
end

