-- ==== Sys2Proof/Machine/State.lean ====
section
/-!
DEFINITION. The state of the block as plain data: the registers, and unit by unit the state no register
shows. `State.reset` is the device held in RESET_n, every register at its Reset column.
-/
namespace Sys2Proof.Machine

/-! ## The whole device -/

/-- Where the device stands between an assertion of RESET_n and service (R445, R449, R453, R459, R547).
`held`: RESET_n low. `rom`: released, the boot sequencer's acts done. `ready`: the first stage has handed
over, TRS_RELEASE.go is 0. `serving`: go is 1. `halted`: HALT_n asserted. `tripped`: THERM_TRIP_n asserted,
every clock stopped. -/
inductive Phase where
  | held | rom | ready | serving | halted | tripped
deriving DecidableEq, Repr

/-- One fused key slot (Table 14-16, R455). -/
structure KeySlot where
  programmed : Bool
  revoked    : Bool
  useImage   : Bool
  useFolio   : Bool
  hash       : BitVec 512
deriving DecidableEq, Repr

/-- The fuse image: what the Reset column's F fields load, and the values fuses mark (R445, R446, R87,
R136, R455, R458, R462, R512). -/
structure Fuse where
  grade     : Nat
  partCode  : Nat
  stepping  : Nat
  coresOk   : BitVec 12
  pipesUp   : BitVec 3
  decUp     : BitVec 9
  encUp     : BitVec 5
  tilesOk   : BitVec 80
  rowSkip   : SMap B32
  colSkip   : SMap B32
  remap     : List (Nat × Nat × Nat × Nat)   -- tile, bank, entry, local row
  capW      : Nat
  avs       : Nat
  warnC     : Nat
  throttleC : Nat
  arv       : BitVec 64
  slots     : List KeySlot
  secret    : BitVec 512
deriving DecidableEq, Repr

/-- Unskipped: 0x84 names no physical row or column (R87). -/
def skipNone : Nat → B32 := fun _ => 0x84848484

/-- The model's own fuse image (log entry 3): a VA part without repairs. -/
def Fuse.reset : Fuse where
  grade := 1
  partCode := 0x48
  stepping := 1
  coresOk := 0xFFF
  pipesUp := 0x3
  decUp := 0xFF
  encUp := 0xF
  tilesOk := (2 ^ 80 - 1 : Nat)
  rowSkip := []
  colSkip := []
  remap := []
  capW := 450
  avs := 750
  warnC := 110
  throttleC := 115
  arv := 0
  slots := [⟨true, false, true, true, 1⟩, ⟨false, false, false, false, 0⟩,
            ⟨false, false, false, false, 0⟩, ⟨false, false, false, false, 0⟩]
  secret := 1

/-- The pins the device drives or has sampled (Table 19-4). A `true` in an `_n` pin's field means
asserted. -/
structure Pins where
  halt     : Bool
  bootErr  : BitVec 6
  fault    : Bool
  degraded : Bool
  trip     : Bool
  toggle   : Bool
  fsync    : BitVec 8
deriving DecidableEq, Repr

/-- A 32-byte step header. -/
abbrev SeqHdr32 := BitVec 256

/-! ## Scroll -/

/-- A FOLIOS record (Table 14-11), and the SHA-512 engine its verification occupies (R468, R502). -/
structure FolioRec where
  hash   : BitVec 512
  load   : Nat
  length : Nat
  flash  : Option Nat
  engine : Option Nat
  secure : Bool
deriving DecidableEq, Repr

/-- Where a SOURCE port's samples come from (Table 14-12). -/
inductive SrcKind where
  | none | iris | group | scaler | ring
deriving DecidableEq, Repr

structure SrcBind where
  kind : SrcKind
  id   : Nat
  sub  : Nat
  mask : BitVec 16
deriving DecidableEq, Repr

structure SinkBind where
  ring  : Nat
  bound : Bool
  index : Nat
deriving DecidableEq, Repr

structure TileBind where
  logical : Nat
  device  : Nat
  twin    : Nat
deriving DecidableEq, Repr

/-- A PIPELINES record (Table 14-12). `cls` is 0 fuse default, 1 PAIRED, 2 SINGLE. -/
structure PipeBind where
  pipe     : Nat
  cls      : Nat
  twinDevK : Bool
  primary  : Bool
  maxIn    : Nat
  folio    : Nat
  twinDev  : Nat
  nBuffers : Nat
  asterRes : BitVec 64
  stemMap  : List Nat
  spcMap   : List Nat
  tiles    : List TileBind
  sources  : List SrcBind
  sinks    : List SinkBind
  bases    : List (Nat × Nat)
deriving DecidableEq, Repr

/-- A STREAMS record (Table 14-13). `ring r` is (base, slots), 0 slots meaning absent. -/
structure StreamRec where
  stream  : Nat
  port    : Nat
  exps    : List Nat
  dtype   : Nat
  pipe    : Nat
  black   : Bool
  group   : Option Nat
  width   : Nat
  height  : Nat
  maxFps  : Nat
  feUs    : Nat
  lostMs  : Nat
  parBase : Nat
  rings   : List (Nat × Nat)
deriving DecidableEq, Repr

/-- An ALIGN record. -/
structure AlignRec where
  group   : Nat
  members : BitVec 24
  window  : Nat
  holdoff : Nat
deriving DecidableEq, Repr

/-- An ASTER record (Table 14-13), field names as the table's. -/
structure AsterRec where
  group      : Nat
  pipe       : Nat
  candPerDet : Nat
  minplus    : Bool
  nmsAgn     : Bool
  repTent    : Bool
  embedPol   : Bool
  base       : Nat
  size       : Nat
  featBytes  : Nat
  geoRep     : Nat
  geoShift   : Nat
  originX    : Int
  originY    : Int
  detMin     : Nat
  birth      : Nat
  maxDet     : Nat
  nmsThr     : Nat
  gate       : Nat
  noise      : List Nat      -- q_pos, q_vel, q_size, r_pos, r_size, p0_pos, p0_vel, p0_size
  confirm    : Nat
  maxMissT   : Nat
  maxMissC   : Nat
  repMiss    : Nat
  embBase    : Nat
  shadow     : Nat
  jobBase    : Nat
  jobLen     : Nat
deriving DecidableEq, Repr

/-- An ENCODE record (Table 14-13). -/
structure EncRec where
  session : Nat
  stream  : Nat
  keyInt  : Nat
  qp      : Nat
  av1     : Bool
  target  : Bool
  tgtB    : Nat
  maxPkt  : Nat
  base    : Nat
  size    : Nat
deriving DecidableEq, Repr

/-- The scroll as the first stage read it (R464 to R466). -/
structure Scroll where
  homes    : List Nat
  inkIdle  : List Nat
  updOff   : Bool              -- the scroll disables live update (R486)
  folios   : List FolioRec
  pipes    : List PipeBind
  streams  : List StreamRec
  aligns   : List AlignRec
  asters   : List AsterRec
  encs     : List EncRec
  topoHash : B64
deriving DecidableEq, Repr

def Scroll.empty : Scroll := ⟨[], [], false, [], [], [], [], [], [], 0⟩

/-! ## Boot and trust -/

/-- What the boot flow holds beside the TRS registers. `norSize` is the SFDP density, `rcvSize` the usable
recovery RAM H (0 until discovered). -/
structure Boot where
  phase   : Phase
  releasedAt : Nat           -- elapsed count at the release, 0 by R295
  nor     : Memory           -- boot flash; an unlisted byte reads as Memory.erased
  norSize : Nat
  sram    : Memory           -- image SRAM, by device-local address
  rcv     : Memory           -- recovery RAM, usable bytes
  rcvSize : Nat
  rcvCe   : List Nat         -- words (usable offset / 8) with a correctable error
  rcvUe   : List Nat
  seq     : B32
  arv     : Nat
  mFw     : BitVec 512
  mScr    : BitVec 512
  kImg    : BitVec 256
  dId     : Nat
  dAtt    : Nat
  endorse : List Byte
  statAtHand : B32           -- TRS_BOOT_STAT at handover (Table 14-8)
  scroll  : Scroll
  dev     : Nat              -- own device number (R34)
deriving DecidableEq, Repr

/-! ## Events, Blotter, safety channel -/

/-- An event on the die (Table 15-2). -/
structure Event where
  code  : BitVec 16
  dev   : Nat
  t     : B64
  param : B64
deriving DecidableEq, Repr

/-- A Blotter entry as Table 17-7 lays it out, before it has a seq. -/
structure BltEntry where
  seq      : B32
  cls      : Nat
  action   : Nat
  unit     : Nat
  t        : B64
  epoch    : Option (B32 × Nat)
  signal   : Bool
  degraded : Bool
  spare    : Nat
  detail   : B64
deriving DecidableEq, Repr

/-- The Blotter controller and the safety channel (R522 to R528). -/
structure Safety where
  nextSeq  : B32
  bltHeld  : List BltEntry       -- entries held before go, at most 16 (R469)
  reports  : List BltEntry       -- queued reports, oldest first, at most 64 (R525)
  overflow : Bool
  spiSeen  : Bool
  crcErr   : Bool
  response : BitVec 256          -- the response the next transaction sends
  sent     : BitVec 256          -- the response the last transaction sent
  faultAt  : Nat                 -- elapsed count when FAULT_n last asserted
  aliveAt  : Option Nat          -- elapsed count of the last BLT_ALIVE write
  edgeAt   : Nat                 -- elapsed count of the last edge of SAFE_TOGGLE
  exhausted : List (Nat × Nat)   -- sparing classes exhausted since RESET_n, each with its unit (R512)
deriving DecidableEq, Repr

/-! ## Host interface -/

/-- A write the device makes to host memory: a posted write (entry, PAD, index word, MSI-X message). -/
structure HostWrite where
  addr : B64
  data : List Byte
deriving DecidableEq, Repr

/-- What an intake ring is bound to (R397). -/
inductive Target where
  | tensor (pipe port : Nat)
  | au (ctx : Nat)
deriving DecidableEq, Repr

/-- A descriptor being served, with its buffer entry as latched (R396). -/
structure IrDesc where
  sample : B64
  tag    : B32
  addr   : Nat
  length : Nat
  mem    : Bool
  slots  : List (Bool × Nat × Nat)  -- sides, edges and slots it will fill (tensor rings)
  rring  : Nat               -- result ring of the ring it came by
  stale  : Bool              -- a Function Level Reset has come since its descriptor was read (R390)
deriving DecidableEq, Repr

structure IRing where
  target   : Option Target
  prod     : B32
  polled   : Bool               -- a producer-word read is outstanding
  asked    : Bool               -- a descriptor read is outstanding
  desc     : Option IrDesc
  open_    : Nat                -- samples read whose entry is neither written nor dropped
  enabling : Bool               -- a register write enables the ring; its read is outstanding (R398)
deriving DecidableEq, Repr

/-- A result entry that is due (Table 12-6), with its payload and what its writing frees. -/
structure ResEntry where
  kind    : Nat
  status  : Nat
  src     : Nat
  noOut   : Bool
  skind   : Nat
  sample  : B64
  origin  : Nat
  sink    : Nat
  stream  : B32
  tag     : B32
  dropped : B32
  payload : List Byte
  iring   : Option Nat          -- intake ring whose open sample it closes
  frees   : Option (Nat × Nat × Nat × B32)  -- pipeline, side, edge and epoch of a SINK slot it holds
deriving DecidableEq, Repr

structure RRing where
  waiting : List ResEntry
  since   : Nat                 -- entries since the last MSI-X message
  firstAt : Nat                 -- elapsed count of the first such entry
  cons    : B32                 -- consumer index last read
  base    : B32                 -- RR_ABS_DROP when host-absent began
  enabling : Bool               -- a register write enables the ring; its read is outstanding (R411)
deriving DecidableEq, Repr

/-- The PCIe function's own configuration that Table 12-1 names: the size of BAR2 as a power of two, Max Payload and
Max Read Request Size in bytes, ECRC generation and checking, D3hot, and what AER has reported (R387, R391, R393). -/
structure PcieFn where
  bar2Log2 : Nat
  mps      : Nat
  mrrs     : Nat
  ecrcGen  : Bool
  ecrcChk  : Bool
  d3hot    : Bool
  aborted  : Bool               -- a Completer Abort, non-fatal
  poisoned : Bool               -- a poisoned TLP received
  ecrcBad  : Bool               -- a TLP that failed ECRC
deriving DecidableEq, Repr

/-- The reset values of the sizes are those of the PCIe standard (log entry 129). -/
def PcieFn.reset : PcieFn := ⟨30, 128, 512, false, false, false, false, false, false⟩

/-- One READ with host set: its tag, its bytes, and its answer, `none` inside it for a failed read (R441). -/
structure FetchPart where
  tag    : B32
  len    : Nat
  answer : Option (Option (List Byte))
deriving DecidableEq, Repr

/-- A read of host memory by a device that is not its own home: what it is for, and its messages in order (R441). -/
structure Fetch where
  key   : Nat
  parts : List FetchPart
deriving DecidableEq, Repr

structure HostIf where
  link     : Bool               -- link up
  bme      : Bool               -- Bus Master Enable
  pcie     : PcieFn
  seenUp   : Bool
  perst    : Bool
  irings   : SMap IRing
  rrings   : SMap RRing
  out      : List HostWrite     -- writes issued towards host memory, oldest first
  hbAt     : B64                -- elapsed count at the last heartbeat change or restart
  evHeld   : List Event
  evLost   : Bool
  evSeq    : B32
  evProd   : B32
  evCons   : B32
  evSince  : Nat
  evFirst  : Nat
  barData  : List Byte          -- bytes the last BAR2 read returned
  abort    : Bool               -- the last BAR2 read ended in Completer Abort
  evEnabling : Bool             -- a register write enables the event ring; its read is outstanding (R479)
  fetches  : List Fetch         -- reads of host memory that a home is making for this device (R441)
  readTag  : B32                -- tag of the last READ with host set
  attachAt : B64                -- TIME_NS at the last attach (R407)
deriving DecidableEq, Repr

def IRing.idle : Nat → IRing := fun _ => ⟨none, 0, false, false, none, 0, false⟩
def RRing.idle : Nat → RRing := fun _ => ⟨[], 0, 0, 0, 0, false⟩

/-! ## Firmware -/

/-- A row whose sparing is due once firmware runs again (R24, R513): tile, row, word, epoch with its pipeline. -/
structure RowDue where
  tile  : Nat
  row   : Nat
  word  : Nat
  epoch : Option (B32 × Nat)
deriving DecidableEq, Repr

/-- A media unit that has found a fault in itself and stopped, whose sparing is due once firmware runs again (R24, R300,
R319, R331). -/
inductive UnitDue where
  | pipe (p : Nat)
  | dec (c : Nat)
  | enc (c : Nat)
deriving DecidableEq, Repr

/-- A live update in progress (R485 to R489). -/
inductive UpdPhase where
  | none
  | staged              -- checks passed, the old image may stop
  | stopped             -- update_active, the loader copies
  | running             -- the new image runs and has not reported
  | falling (reason : Nat) (released : Bool)   -- the retained copy is being restored; whether the new image was released
deriving DecidableEq, Repr

structure Firmware where
  upd       : UpdPhase
  stopAt    : Nat
  newSeq    : B32
  newArv    : Nat
  runSeq    : B32
  runArv    : Nat
  updates   : Nat
  begun     : Bool              -- in_service has been 1 since go (R472)
  clean     : Nat               -- elapsed counts on the clean-service clock
  cleanStop : Bool
  kickAt    : SMap Nat          -- elapsed count of the last kick, per core
  restartAt : SMap Nat          -- elapsed count of the last restart plus 1, 0 none
  moving    : List Nat          -- cores whose tasks still move
  rowsDue   : List RowDue
  unitsDue  : List UnitDue      -- media units that stopped while firmware did not serve
  destroying : List (Nat × Nat) -- CTX_DESTROY under way: source device, or 128 for the own mailbox; context
  updGuest  : Option (Nat × List Byte)  -- a remote UPDATE under way: source device and request
  remoteAt  : Option Nat        -- start of a remote mailbox command
  ctrlPart  : SMap (List Byte)  -- data parts of CTRL messages received, by source device
  parts     : Nat × Nat         -- secure and non-secure part bytes of the running image
  entries   : Nat × Nat         -- entry offsets of the running image
  newParts  : Nat × Nat         -- the same of a staged image
  newEntries : Nat × Nat
  scrubs    : SMap Nat          -- TIME_NS of the last clean scrub, by folio * 65536 + CRCTAB entry
deriving DecidableEq, Repr

/-! ## Orrek Link -/

structure Port where
  txNext   : Nat                -- next seq to send
  rxNext   : Nat                -- next seq expected
  replay   : List (Nat × BitVec 2048)
  resend   : List (BitVec 2048) -- kept flits a nak asks for
  nak      : Bool               -- nak goes out in the next flit
  gap      : Bool               -- nak already asked for this gap
  again    : Nat                -- successive replays of one flit
  inj      : SMap (List LnkMsg) -- messages of this device waiting per VC
  txq      : SMap (List (B64 × Option LnkMsg))  -- chunks taken for each VC, a message's last one with the message
  pick     : SMap Nat           -- per VC, the source served next: incoming ports 0 to 5, this device 6
  rxq      : SMap (List (B64 × Bool))  -- received chunks per VC, each marked when it is its flit's last
  rxFlits  : SMap Nat           -- flits received per VC
  turn     : Nat                -- rotating VC
  idleIn   : Nat                -- flits since the last idle flit
  since    : Nat                -- elapsed count at the entry of the state
  aligning : Bool               -- in RETRAIN: the lane check is done
  alignAt  : Nat                -- elapsed count at which the alignment of a retrain started
  badRx    : BitVec 17          -- lanes that failed the last check, receiving
  badTx    : BitVec 17          -- the same, sending
  param    : Option ParamFlit   -- in PARAM: the parameter flit this end sends
  wire     : BitVec 2048        -- the flit last sent
  up       : Bool               -- PARAM passed since the last DISABLED
deriving DecidableEq, Repr

def Port.idle : Nat → Port := fun _ =>
  ⟨0, 0, [], [], false, false, 0, [], [], [], [], [], 0, 0, 0, false, 0, 0, 0, none, 0, false⟩

/-! ## Check units -/

/-- A command in a check unit's queue (R495, R502). -/
inductive ChkOp where
  | feed (n : Nat) (v : B32)
  | init | check
  /-- `final` is a SHA-512 engine's; on a CRC unit it marks the scan of the weight scrub. -/
  | scan (addr len : Nat) (nocache cmp final : Bool)
deriving DecidableEq, Repr

structure ChkCmd where
  op     : ChkOp
  secure : Bool
deriving DecidableEq, Repr

/-- A write held at a unit until its commands are accepted (R495). -/
structure ChkHeld where
  rq  : BitVec 16
  cmds : List ChkCmd
deriving DecidableEq, Repr

/-- A block that a folio's CRCTAB lists (R503): the folio and the entry, its section, its number, its address, its length
and its CRC-64. -/
structure ScrubBlock where
  folio    : Nat
  entry    : Nat
  section_ : Nat
  block    : Nat
  addr     : Nat
  len      : Nat
  crc      : Nat
deriving DecidableEq, Repr

structure CrcUnit where
  queue   : List ChkCmd
  held    : List ChkHeld
  width   : Nat
  poly    : B64
  init    : B64
  refin   : Bool
  refout  : Bool
  xorout  : Bool
  state   : B64
  hidden  : Bool
  scan    : Option ChkCmd        -- the scan under way
  scrub   : Option ScrubBlock    -- the block of the weight scrub that firmware has on this unit
  again   : Bool                 -- the scrub scan repeats, or is to repeat, a failed one (R504)
  ended   : Option (Nat × Bool)  -- status and match of a scrub scan whose end firmware has not taken (R24, R522)
deriving DecidableEq, Repr

structure ShaEng where
  queue  : List ChkCmd
  held   : List ChkHeld
  state  : List B64
  hidden : Bool
  scan   : Option ChkCmd
deriving DecidableEq, Repr

/-- The signature set of chapter 16. -/
def sigPoly : B64 := 0x42F0E1EBA9EA3693

def CrcUnit.idle : Nat → CrcUnit := fun _ =>
  ⟨[], [], 64, sigPoly, 0xFFFFFFFFFFFFFFFF, true, true, true, 0xFFFFFFFFFFFFFFFF, false, none, none, false, none⟩

/-- The initial hash value of SHA-512 (FIPS 180-4). -/
def shaIv : List B64 :=
  [0x6a09e667f3bcc908, 0xbb67ae8584caa73b, 0x3c6ef372fe94f82b, 0xa54ff53a5f1d36f1,
   0x510e527fade682d1, 0x9b05688c2b3e6c1f, 0x1f83d9abfb41bd6b, 0x5be0cd19137e2179]

def ShaEng.idle : Nat → ShaEng := fun _ => ⟨[], [], shaIv, false, none⟩

/-! ## Power -/

structure Rail where
  good  : Int
  fails : Nat
deriving DecidableEq, Repr

/-- A thermal sensor: its latest conversion, whether that one was at or above 125 °C, and consecutive
readings more than 8 °C from its partner. -/
structure Sensor where
  last : Int
  hot  : Bool
  diff : Nat
deriving DecidableEq, Repr

/-- The ARITH clock of a compute die (R540 to R542): the skip count it applies, the slots of its frame that have passed,
whether it stretches, the slots since a detector last fired, at most 32, and which slots of the last TIME cycle were
skipped, first to last. -/
structure DieClock where
  skip    : Nat
  slot    : Nat
  stretch : Bool
  quiet   : Nat
  gated   : List Bool
deriving DecidableEq, Repr

def DieClock.idle : Nat → DieClock := fun _ => ⟨0, 0, false, 0, []⟩

/-- A transfer on the PMBus (R533, R534): PAGE written, with its check byte where it carries one, or READ_POUT and
what the regulator answered, `none` where it did not acknowledge. -/
inductive PmbusXfer where
  | page (addr : Nat) (page : Nat) (pec : Option Byte)
  | readPout (addr : Nat) (answer : Option PmbusRead)
deriving DecidableEq, Repr

structure Power where
  samples : List Int             -- mW, newest first, at most 10,000 (R538)
  rails   : SMap Rail
  sensors : SMap Sensor
  warned  : Bool
  dies    : SMap DieClock
  bus     : List PmbusXfer       -- transfers of the last round of reads, in order
deriving DecidableEq, Repr

def Rail.idle : Nat → Rail := fun _ => ⟨0, 0⟩
def Sensor.idle : Nat → Sensor := fun _ => ⟨0, false, 0⟩

/-! ## Memory system -/

/-- A stack's pages (R363 to R367). Pages 0 to 5,898,239 are the usable ones, and page 5,898,240 + i is spare i.
`queue`: pages whose retirement waits. `copying`: the page being copied and the spare it goes to. `taken`: spares
that are not free. `map`: a retired page to its spare + 1. `track`: correctable counts, most recently updated first.
`patrol`: next line of the patrol scrub. `offCe` and `offUe`: lines in error (page · 64 +
line) of pages that no device address maps to, which are free spares and replaced pages. -/
structure Stack where
  queue   : List Nat
  copying : Option (Nat × Nat)
  taken   : List Nat
  map     : SMap Nat
  track   : List (Nat × Nat)
  patrol  : Nat
  offCe   : List Nat
  offUe   : List Nat
deriving DecidableEq, Repr

def Stack.idle : Nat → Stack := fun _ => ⟨[], none, [], [], [], 0, [], []⟩

/-- A Reservoir line: its way and its 128-byte line number in the device address space; lists are kept
most recently used first. -/
structure RsvLine where
  way  : Nat
  line : Nat
deriving DecidableEq, Repr

structure MemSys where
  hbm     : Memory
  ce      : List Nat             -- 64-byte lines with a correctable error
  ue      : List Nat
  hbmStacks : SMap Stack
  rsv     : SMap (List RsvLine)  -- key: half * 131072 + set
  rsvCe   : List Nat             -- 32-byte words (address / 32) of present lines in error
  rsvUe   : List Nat
  retAdd  : Option (Nat × Nat)   -- stack and page of the MEM_RET_ADD.go under way
  last    : Nat                  -- status of the last access
  data    : List Byte            -- bytes the last read returned
deriving DecidableEq, Repr

def rsvIdle : Nat → List RsvLine := fun _ => []

/-! ## Pipelines, epochs and books (chapter 07) -/

inductive StageKind where
  | tile | stem | spectral | aster | source | sink
deriving DecidableEq, Repr

/-- One step of a stage program: its header (Table 07-5), its descriptor and its nib binding. A DMA
descriptor occupies the low 256 bits of `desc`. -/
structure Step where
  hdr  : SeqHdr32
  desc : BitVec 512
  bind : Option (BitVec 512)
deriving DecidableEq, Repr

structure Stage where
  kind    : StageKind
  unit    : Nat
  slices  : Nat
  inkRow  : Nat
  inkRows : Nat
  cold    : Nat
  grants  : BitVec 64
  steps   : List Step
deriving DecidableEq, Repr

structure Edge where
  producer  : Nat
  consumer  : Nat
  slots     : Nat
  orderOnly : Bool
  slotBytes : Nat
  buffer    : Nat
  slot0     : Nat
deriving DecidableEq, Repr

/-- A buffer record; `sbase` is the device-local base of a SECTION buffer's section. -/
structure Buf where
  kind  : Nat
  size  : Nat
  sbase : Nat
deriving DecidableEq, Repr

/-- A partial of a split-K reduction (R66): the owner's stage and step, the partial's place in the order of segments,
the stage and PUSH step that deliver it (`none`: the owner's own sum), the first row of the owner's output that it has,
and its rows. -/
structure SplitPart where
  stage : Nat
  step  : Nat
  index : Nat
  push  : Option (Nat × Nat)
  row   : Nat
  rows  : Nat
deriving DecidableEq, Repr

/-- A pipeline as bound (R234). `layers`: stage, step and layer number of each MANIFEST entry of the array. `named`:
the scroll binds it and the binding has not been refused. `bound`: QCX_PIPE_STAT_p.bound. `stopped`: a WEIGHT_LATENT
fault stopped it (R519). -/
structure Pipe where
  named   : Bool
  bound   : Bool
  stopped : Bool
  held    : Bool             -- firmware has stopped admission (R515, R517, R518)
  paired  : Bool
  bind    : Option PipeBind
  stages  : List Stage
  edges   : List Edge
  bufs    : List Buf
  load    : Nat
  layers  : List (Nat × Nat × Nat)
  splits  : List SplitPart
deriving DecidableEq, Repr

def Pipe.unbound : Nat → Pipe := fun _ => ⟨false, false, false, false, false, none, [], [], [], 0, [], []⟩

/-- A slot at the producer end: a credit held, at a SOURCE filled or being filled before admission, in
writing for a step of an epoch, or sent. -/
inductive PSlot where
  | held
  | filling
  | writing (epoch : B32) (stepIx : Nat)
  | sent
deriving DecidableEq, Repr

/-- A slot at the consumer end: empty, a token held, in reading. `by_` is the releasing step that has consumed it
(R239). -/
inductive CSlot where
  | empty
  | token (epoch : B32)
  | reading (epoch : B32) (by_ : Option Nat)
deriving DecidableEq, Repr

/-- What the other end of an edge to a peer device has told (log entry 113): tokens and credits as it counts them, the
counters of this end that it answered, and the elapsed count at which its own last changed. -/
structure FarEnd where
  tok     : B32
  cred    : B32
  ownTok  : B32
  ownCred : B32
  changed : Nat
deriving DecidableEq, Repr

/-- Both ends of an edge with the counters of Table 07-8. H, W, K and Rd are counts of slot states.
`changed` is the elapsed count at which TS, TR, CS or CR last changed. -/
structure Book where
  prod    : List PSlot
  cons    : List CSlot
  ts      : B32
  cr      : B32
  tr      : B32
  cs      : B32
  changed : Nat
  far     : Option FarEnd      -- the other end, where it lies on another device
deriving DecidableEq, Repr

def Book.unbound : Nat → Book := fun _ => ⟨[], [], 0, 0, 0, 0, 0, none⟩

/-- A relation of Table 07-9 as a cluster audits it (R263): the two ends of an edge, the words between its ends, the
credits of a link's virtual channel, a tile's stage windows, a queue of a tile, the row-stat halves of a tile. -/
inductive Rel where
  | producer (pipe : Nat) (side : Bool) (edge : Nat)
  | consumer (pipe : Nat) (side : Bool) (edge : Nat)
  | flight (pipe : Nat) (side : Bool) (edge : Nat)
  | credits (port vc : Nat)
  | rows (tile : Nat)
  | queue (tile q : Nat)
  | stats (tile : Nat)
deriving DecidableEq, Repr

/-- A relation that an audit has found failing: the elapsed count at which it was first found, and that of its fault with
the Blotter seq of the fault's entry (R264, R265). -/
structure Found where
  rel    : Rel
  at_    : Nat
  raised : Option (Nat × B32)
deriving DecidableEq, Repr

/-- Key of an edge's book. -/
def bookKey (pipe : Nat) (side : Bool) (edge : Nat) : Nat := (pipe * 2 + b2n side) * 256 + edge

/-- The sample an epoch carries (R28): kind 0 stream, 1 alignment group, 2 host, its sample word, the
camera frames in it (stream and device frame count) with the OR of their flags, and a host sample's intake
ring and tag. -/
structure Sample where
  kind   : Nat
  word   : B64
  frames : List (Nat × B32)
  iring  : Option Nat
  rring  : Nat
  tag    : B32
  stream : B32
  flags  : BitVec 16
  t      : B64
deriving DecidableEq, Repr

/-- A token a SOURCE port holds before admission (R246): its sides, edges and slots, its sample, and for a
sample that waits in output slots the descriptors it begins with and the memory ranges it holds (R299);
`len` is the length of an item that is in its slots, `peer` the primary's epoch number on a twin device (R247). -/
structure SrcTok where
  slots  : List (Bool × Nat × Nat)
  sample : Sample
  head   : List Byte
  segs   : List (Nat × Nat)
  len    : Nat
  peer   : Option B32
deriving DecidableEq, Repr

/-- The states of Table 07-10. -/
inductive EpochState where
  | admitted | running | staged | committing | committed | ending | ended
deriving DecidableEq, Repr

/-- A checkpoint at the comparator (R259). -/
structure Ckpt where
  side  : Bool
  stage : Nat
  step  : Nat
  crc   : B64
  at_   : Nat                -- elapsed count at its arrival
  tile  : Nat                -- physical tile that sent it
deriving DecidableEq, Repr

/-- How a committed counter adds: modulo 2^32, stopping at 2^32 - 1, or a LO/HI pair modulo 2^64. -/
inductive CountKind where
  | wrap | sat | wide
deriving DecidableEq, Repr

/-- A staged count (R249): a register, an amount, and how the counter adds. -/
structure StagedCount where
  key  : Nat
  amt  : Nat
  kind : CountKind
deriving DecidableEq, Repr

/-- A staged CLAMP count: physical tile, slot, amount (R71). -/
structure StagedClamp where
  tile : Nat
  slot : Nat
  amt  : Nat
deriving DecidableEq, Repr

/-- An epoch at the commit unit. `status` is the item status of Table 07-11 once ENDING; `oks` and `acks`
are the (side, stage) pairs that have reported OK, and acknowledged the WITHDRAW; `peer` is the twin
device's number for the epoch pair. -/
structure Epoch where
  pipe   : Nat
  state  : EpochState
  cause  : Nat
  status : Nat
  sample : Sample
  port   : Nat
  oks    : List (Bool × Nat)
  acks   : List (Bool × Nat)
  ckpts  : List Ckpt
  peer   : Option B32
  counts : List StagedCount
  clamps : List StagedClamp
  latent : List (Bool × Nat)   -- stages that run their cold-start section: side, stage (R144)
  stagedAt : Nat               -- elapsed count at which it became STAGED (R250)
  lastCk : Option Nat          -- elapsed count of the last checkpoint a twin device sent for it
  noted  : Bool                -- a Blotter entry names it (R257)
deriving DecidableEq, Repr

/-- A flow-control word in flight (Table 07-7), with the stage a WITHDRAW is for, and for a REPORT whether it acknowledges
a WITHDRAW (R254, R255). -/
structure Flight where
  word  : B64
  stage : Nat
  ack   : Bool
deriving DecidableEq, Repr

/-- A tile of another device that holds an epoch resident, as that device has told (log entry 69): pipeline, side, folio
tile, epoch. -/
structure Remote where
  pipe  : Nat
  side  : Bool
  tile  : Nat
  epoch : B32
deriving DecidableEq, Repr

/-- The progress of one stage for one epoch: steps started, completed, whether a step failed, and whether the cold-start
section is skipped, decided at the epoch's start (R233). -/
structure Progress where
  side    : Bool
  stage   : Nat
  epoch   : B32
  started : List Nat
  done    : List Nat
  failed  : Bool
  skip    : Option Bool
deriving DecidableEq, Repr

/-- A row-stat message on its way to a physical tile (R182, R184). -/
structure RsMsg where
  tile : Nat
  pipe : Nat
  side : Bool
  bits : BitVec 256
deriving DecidableEq, Repr

/-- A checkpoint on its way to the comparator, with the physical tile that sent it (0x7F a peer's). -/
structure CkMsg where
  bits : BitVec 128
  tile : Nat
deriving DecidableEq, Repr

/-- The commit unit and the words between units: the next number, epochs not yet COMMITTED or ENDED oldest first,
tokens SOURCE ports hold (key: pipeline * 8 + port), flow-control words, row-stat messages and checkpoints in flight,
stage progress, the parts of source items a twin device has received (key: pipeline, port and tag) with the last
messages it has not yet taken, the tiles of other devices that hold an epoch and the steps of layers that they have
completed, and the epochs, by pipeline, that a WITHDRAW ended here before or after their time on this device (log
entry 112). -/
structure Commit where
  next     : B32
  epochs   : List (B32 × Epoch)
  srcq     : SMap (List SrcTok)
  flight   : List Flight
  progress : List Progress
  rsFly    : List RsMsg
  ckFly    : List CkMsg
  srcPart  : SMap (List Byte)
  srcFly   : List LnkMsg
  remote   : List Remote
  layers   : List StepRef
  gone     : List (Nat × B32)
deriving DecidableEq, Repr

/-! ## Tiles (chapters 03 to 05) -/

/-- An epoch resident on a tile (R153, R236). -/
structure Resident where
  pipe  : Nat
  side  : Bool
  epoch : B32
deriving DecidableEq, Repr

/-- A valid remap entry (R136): entries of one bank stand in the order in which they were set valid. -/
structure Remap where
  bank  : Nat
  entry : Nat
  row   : Nat
deriving DecidableEq, Repr

/-- A DMA descriptor in a queue: the step it belongs to, its relocated 32 bytes, rows issued and
completed, and each row's part of the CRC of a folded descriptor (R258, R501). -/
structure DmaDesc where
  step   : StepRef
  queue  : Nat
  bits   : BitVec 256
  fold   : Bool
  issued : Nat
  done   : Nat
  crcs   : SMap B64
deriving DecidableEq, Repr

/-- An outstanding transfer (R148, R151): its row index, the limit in force at its issue, a WRITE's or
PUSH's row, the status and the row a READ returned once memory has answered, and whether its write into
the Inkwell waits behind an earlier transfer (R154). `id` rises with the issue over all tiles; `dst` is
the logical tile a PUSH writes on this device. -/
structure Xfer where
  id     : Nat
  step   : StepRef
  queue  : Nat
  op     : Nat
  index  : Nat
  row    : Nat
  addr   : Nat
  limit  : Nat
  data   : Row
  answer : Option Nat
  dst    : Option Nat
  wait   : Bool
  gone   : Bool
  away   : Bool                 -- carried over Orrek Link
deriving DecidableEq, Repr

/-- The kind of step a tile's array or vector path runs. -/
inductive RunKind where
  | matrix | vconv
deriving DecidableEq, Repr

/-- A matrix or vector-convolution step under way: its descriptor and binding, the output tiles it has
(columns blocks, or output rows of channel blocks), those whose output rows are written, the prologues and
epilogues that have ended, the rows whose settle waits and the number settled, and its staged counts. -/
structure Run where
  step    : StepRef
  kind    : RunKind
  desc    : BitVec 512
  bind    : Option (BitVec 512)
  blocks  : Nat
  rows    : Nat            -- output rows of one output tile
  written : List Nat
  pros    : List Nat
  epis    : List Nat
  settleQ : List Nat
  settled : Nat
  clamps  : List (Nat × Nat)   -- CLAMP and other saturation slots with their counts
deriving DecidableEq, Repr

/-- The vector engine inside a section (R161). `loops` is the LOOP stack, innermost first: first index,
last index, repeats left. -/
structure Section where
  step   : StepRef
  kind   : SectionKind
  block  : Nat
  pc     : Nat
  v      : SMap Row
  a      : SMap B32
  trans  : SMap (BitVec 2048)
  tables : List (Nat × Row × Row × Row)
  loops  : List (Nat × Nat × Nat)
  clamps : List (Nat × Nat)
  gfault : Nat
deriving DecidableEq, Repr

/-- A row of a split-K reduction under way on its owner's tile (R66): the owner's step, the row, the sum of the
partials added so far with their number, partials that wait for lower ones by index, and the lanes in which an addition
overflowed. -/
structure SplitRow where
  step : StepRef
  row  : Nat
  next : Nat
  sum  : Row
  held : List (Nat × Row)
  hit  : BitVec 128
deriving DecidableEq, Repr

inductive RsState where
  | idle | collecting | released | settling
deriving DecidableEq, Repr

/-- A row-stat entry (R183), with the released statistics. `own` marks an entry this tile collects. -/
structure RsEntry where
  state  : RsState
  bitmap : B64
  amax   : B32
  max    : B32
  sum    : B32
  sumsq  : B32
deriving DecidableEq, Repr

def RsEntry.idle : Nat → RsEntry := fun _ => ⟨.idle, 0, 0, 0, 0, 0⟩

structure Tile where
  res0    : Option Resident
  res1    : Option Resident
  aster   : Bool
  swap    : Bool
  failed  : Bool
  ink     : SMap Row
  inkCe   : List (Nat × Nat)     -- row, word
  inkUe   : List (Nat × Nat)
  remap   : List Remap
  filling : BitVec 8
  scrubQ  : List Nat             -- rows queued ahead of the walk (R132)
  walk    : SMap Nat             -- next local index per bank
  walked  : List Nat             -- banks that finished the current pass
  flags   : List (Nat × Bool × Nat)  -- residency flags set: pipeline, side, stage
  descs   : List DmaDesc
  xfers   : List Xfer
  xferId  : Nat
  runs    : List Run
  sect    : Option Section
  rstats  : SMap RsEntry         -- key: half * 4096 + entry
  satAt   : SMap Nat             -- start of a saturation counter's window, in quarters of a TIME cycle (R72)
  satLen  : SMap Nat             -- its length in µs, as latched at the start
  satHot  : BitVec 6             -- counters that have raised 0x0B01 in their window (R73)
  splits  : List SplitRow
deriving DecidableEq, Repr

def Tile.fresh : Nat → Tile := fun _ =>
  ⟨none, none, false, false, false, [], [], [], [], 0xFF, [], [], [], [], [], [], 0, [], none, [], [], [], 0, []⟩

def rowZero : Nat → Row := fun _ => 0
def wordZero : Nat → B32 := fun _ => 0

/-- The control core's view of a cluster (R515, R517, R518): the physical tile under test, whether that test is out of
turn, and the elapsed count and TIME_NS at its start; out-of-turn tests due; repaired tiles that await a further test,
with the Blotter seq of the failure; TIME_NS at the start of each tile's last passing test; the tile index the
rotation takes next; a move under way (logical tile, target); the relations that audits have found failing; and the
elapsed count at which each tile last passed plus 1, 0 before it has. -/
structure Cluster where
  test     : Option (Nat × Bool × Nat × B64)
  due      : List Nat
  repaired : List (Nat × B32)
  lastPass : SMap Nat
  next     : Nat
  move     : Option (Nat × Nat)
  retire   : List (Nat × Nat × B32)  -- physical tile, cause, Blotter seq: retirements that wait
  audit    : Bool                -- an epoch boundary calls for an audit
  failing  : List Found
  passedAt : SMap Nat
deriving DecidableEq, Repr

def Cluster.fresh : Nat → Cluster := fun _ => ⟨none, [], [], [], 0, none, [], false, [], []⟩

/-- A step that a Stem engine or Spectral unit runs: its relocated descriptor and the counts it stages. -/
structure EngineRun where
  step   : StepRef
  desc   : BitVec 512
  counts : List StagedCount
deriving DecidableEq, Repr

/-- A Stem engine's internal buffers (R196): the line buffer, image row by image row, each row's INT8 values in order of
pixel and channel; the weight buffer; the parameter buffer, bytes 0 to 2,367 of Table 06-4. -/
structure StemBuf where
  line   : List (Nat × List Byte)
  weight : List Byte
  param  : List Byte
deriving DecidableEq, Repr

def StemBuf.empty : StemBuf := ⟨[], [], []⟩

/-- A Stem engine or Spectral unit. A Spectral unit's `buf` stays empty. -/
structure Engine where
  run : Option EngineRun
  buf : StemBuf
deriving DecidableEq, Repr

def Engine.idle : Nat → Engine := fun _ => ⟨none, StemBuf.empty⟩

/-- TILE_MAP: the physical tile behind each logical tile (R37, R515); the initial map is log entry 6. -/
def tileMap0 : Nat → Option Nat := fun l => if l < 64 then some (10 * (l / 8) + l % 8) else none

/-! ## Camera intake and Iris (chapter 08) -/

/-- One exposure channel of an open frame: its exposure frame has started, its packets now on the channel belong to
that exposure frame, it has ended, and the lines received, in arrival order, at most the height. A line is its samples
after the repair of R276; `none` is black. -/
structure ExpRt where
  started : Bool
  open_   : Bool
  ended   : Bool
  lines   : List (List (Option Nat))
deriving DecidableEq, Repr

/-- What the packets of one exposure frame add to its frame (R276). -/
structure ExpAcc where
  flags      : BitVec 16
  shortLines : Nat
  crcLines   : Nat
  rt         : ExpRt
deriving DecidableEq, Repr

/-- A stream's open frame (R274 to R277). `params` is the parameter block in force (R283), `outs` the ring
slots taken at Frame Start by output (0 display, 1 coding, 2 to 5 vision, 6 statistics), `lastPkt` the
elapsed count of its last packet; `lost`: the frame's pipe cannot process it (R300). -/
structure OpenFrame where
  devFcnt    : B32
  csiFn      : Nat
  tFs        : B64
  flags      : BitVec 16
  linesRx    : Nat
  shortLines : Nat
  crcLines   : Nat
  lastPkt    : Nat
  exps       : List ExpRt
  pipe       : Nat
  params     : Memory
  outs       : List (Nat × Nat)
  lost       : Bool
deriving DecidableEq, Repr

/-- A closed frame whose outputs are not all written and sent. `exps` holds the lines of each exposure, none for one
that is not used (R275). `todo` lists the outputs still to be written and `vis` the vision outputs written; `release`
is t_release of Table 08-4, or `none` before it; `due` lists the written vision outputs that still lack the descriptor. -/
structure Frame where
  stream     : Nat
  devFcnt    : B32
  csiFn      : Nat
  tFs        : B64
  tFe        : B64
  flags      : BitVec 16
  linesRx    : Nat
  shortLines : Nat
  crcLines   : Nat
  pipe       : Nat
  params     : Memory
  exps       : List (List (List (Option Nat)))
  outs       : List (Nat × Nat)
  todo       : List Nat
  vis        : List Nat
  group      : Option (Nat × B32)
  release    : Option B64
  due        : List Nat
deriving DecidableEq, Repr

/-- A stream: its open frame, the elapsed count of its last Frame Start on e0, whether 0x0601 was raised since, the
last frame number, the parameter bank in force (R284), statistics slots written, the next slot of each output ring,
the slots in use (output, slot, frame), and the exposure frames that started before their frame opened, by exposure with
their number (R275). -/
structure StreamRt where
  frame  : Option OpenFrame
  lastFs : Nat
  lost   : Bool
  prevFn : Option Nat
  bank   : Bool
  seq    : B32
  next   : SMap Nat
  slots  : List (Nat × Nat × B32)
  early  : List (Nat × Nat × ExpAcc)
deriving DecidableEq, Repr

def zeroNat : Nat → Nat := fun _ => 0
def StreamRt.idle : Nat → StreamRt := fun _ => ⟨none, 0, false, none, false, 0, [], [], []⟩

/-- A released group instance that awaits its members' vision outputs (R290, R299). -/
structure GroupInst where
  inst     : B32
  present  : List (Nat × B32)
  complete : Bool
  at_      : B64
deriving DecidableEq, Repr

/-- An alignment group (R296 to R298): the open instance's present members (stream, frame), its number, the
instance counter, its deadline, the hold-off's end with the placeholder members, and released instances. -/
structure GroupRt where
  open_    : Bool
  present  : List (Nat × B32)
  inst     : B32
  counter  : B32
  deadline : Nat
  holdEnd  : Option Nat
  absent   : List Nat
  released : List GroupInst
deriving DecidableEq, Repr

def GroupRt.idle : Nat → GroupRt := fun _ => ⟨false, [], 0, 0, 0, none, [], []⟩

/-- An FSYNC output: the last n emitted plus 1, 0 before the first, the elapsed count at which the pulse under way
ends, and whether that pulse is active-low (R294, Table 08-15). -/
structure FsyncRt where
  emitted : Nat
  until_  : Option Nat
  low     : Bool
deriving DecidableEq, Repr

def FsyncRt.idle : Nat → FsyncRt := fun _ => ⟨0, none, false⟩

/-- Camera intake. `ppsAt` is the elapsed count from which the PPS_LOST interval runs, `ppsEdge` that of
the last accepted edge, `moving` the failed pipes whose streams still move and where to (R300, R516), `arrived` the member
frames of this TIME cycle, by stream and number, in the order in which they closed (R296). -/
structure Cam where
  streams : SMap StreamRt
  groups  : SMap GroupRt
  frames  : List Frame
  fsync   : SMap FsyncRt
  ppsAt   : Nat
  ppsLost : Bool
  ppsEdge : Option Nat
  moving  : List (Nat × Nat)
  arrived : List (Nat × B32)
deriving DecidableEq, Repr

/-! ## Video (chapter 09) -/

/-- A context descriptor (Table 09-2) with its eight output records as bytes. -/
structure CtxDesc where
  codec    : Nat
  maxDepth : Nat
  maxRefs  : Nat
  maxW     : Nat
  maxH     : Nat
  maxAu    : Nat
  iring    : Nat
  rring    : Nat
  mult     : Nat
  pool     : Nat
  poolLen  : Nat
  outAddr  : Nat
  streamId : B32
  recs     : List (BitVec 512)
deriving DecidableEq, Repr

/-- A sequence that passed R311: coded size, bit depth, whether it is monochrome, and its references; with the frame
buffers it reserves from the pool, by address, once it is active (R313). -/
structure VideoSeq where
  width  : Nat
  height : Nat
  depth  : Nat
  mono   : Bool
  refs   : Nat
  bufs   : List Nat
deriving DecidableEq, Repr

/-- A decoded frame in its buffer (R305, R314, R322): decode index, taint, address, size, depth, random-access point,
presentation order, cost and TIME_NS at completion. -/
structure DecFrame where
  index  : B32
  taint  : Bool
  buf    : Nat
  width  : Nat
  height : Nat
  depth  : Nat
  rap    : Bool
  pres   : B32
  cost   : Nat
  tDone  : B64
deriving DecidableEq, Repr

/-- A decode context. `seq` is the active sequence, `waiting` one that passed R311 and awaits a random-access point,
`refs` the reference set, `failed` the status and limit of a REJECTED context, `decIndex` frames decoded,
`next` and `slots` the output rings' next slot and slots in use (record, slot, decode index), `destroy` the
CTX_DESTROY that waits for the frame in progress. -/
structure Ctx where
  desc     : Option CtxDesc
  seq      : Option VideoSeq
  waiting  : Option VideoSeq
  refs     : List DecFrame
  failed   : Nat × Nat
  decIndex : B32
  next     : SMap Nat
  slots    : List (Nat × Nat × B32)
  destroy  : Bool
deriving DecidableEq, Repr

def Ctx.idle : Nat → Ctx := fun _ => ⟨none, none, none, [], (0, 0), 0, [], [], false⟩

/-- An access unit a context has read: parsed and found decodable (`ready`), whether its next frame is a random-access
point, its frames decoded and left, the frame that it shows again, and whether it has had its outcome (R320). -/
structure AuUnit where
  ctx      : Nat
  data     : List Byte
  sample   : Sample
  ready    : Bool
  rap      : Bool
  decoded  : Nat
  left     : Nat
  existing : Option B32
  done     : Bool
  begun    : Bool               -- a frame of it has been started
deriving DecidableEq, Repr

/-- A decode core's frame: its access unit, its decode index, its frame buffer and the elapsed count at its start. -/
structure DecJob where
  unit  : AuUnit
  index : B32
  buf   : Nat
  at_   : Nat
deriving DecidableEq, Repr

/-- An emitted frame whose output records are still to be scaled (R323): its sample and the record the engine is at. -/
structure Emitted where
  ctx    : Nat
  sample : Sample
  frame  : DecFrame
  out    : Nat
deriving DecidableEq, Repr

/-- A coding frame that waits for its session, or that an encode core holds; `addr` and `len` are its image in the
coding slot. -/
structure EncJob where
  session : Nat
  devFcnt : B32
  csiFn   : Nat
  flags   : BitVec 16
  tFs     : B64
  key     : Bool
  pixels  : Nat
  addr    : Nat
  len     : Nat
  depth   : Nat                  -- bits at which it is coded (Table 09-5)
deriving DecidableEq, Repr

/-- An encode session: frames encoded since the last key frame, plus 1, 0 before the first; what is kept of the
previous encoded frame; and the sizes of its packets, latest first (R327, R328). -/
structure EncSess where
  sinceKey : Nat
  kept     : Nat
  sizes    : List Nat
deriving DecidableEq, Repr

def EncSess.idle : Nat → EncSess := fun _ => ⟨0, 0, []⟩

/-- The video cluster: contexts, access units read, the frames cores hold, emitted frames, the context
served last, coding frames that wait, and encode cores' frames. -/
structure Vid where
  ctxs    : SMap Ctx
  units   : List AuUnit
  cores   : SMap (Option DecJob)
  emitted : List Emitted
  last    : Nat
  coding  : List EncJob
  encs    : SMap (Option EncJob)
  sess    : SMap EncSess
deriving DecidableEq, Repr

def noJob : Nat → Option DecJob := fun _ => none
def noEnc : Nat → Option EncJob := fun _ => none

/-! ## Aster (chapter 10) -/

/-- A kept detection (Table 10-4) with its features. -/
structure Det where
  cx    : Int
  cy    : Int
  w     : Nat
  h     : Nat
  score : Nat
  cls   : Nat
  feat  : List Byte
deriving DecidableEq, Repr

/-- One reserved tile's part of an association job: its column blocks, and whether it has reported. -/
structure JobPart where
  tile : Nat
  b0   : Nat
  b1   : Nat
  done : Bool
deriving DecidableEq, Repr

/-- An open journal (R351): its epoch, sequence number, dt, detections in the slot and kept, the group's
live entries in column order, final images by entry, embedding rows by entry, the new ID counter, births
refused, the job's parts, whether acts 5 to 7 are done, and whether the journal is committed and copying. -/
structure Journal where
  epoch   : B32
  seq     : B32
  dt      : Nat
  nDet    : Nat
  dets    : List Det
  live    : List Nat
  images  : SMap (BitVec 512)
  embeds  : List (Nat × List Byte)
  nextId  : B32
  refused : Nat
  parts   : List JobPart
  ready   : Bool
  copying : Bool
deriving DecidableEq, Repr

/-- An Aster group: its journal, and whether a first epoch has set s_c. -/
structure AstGroup where
  journal : Option Journal
  begun   : Bool
deriving DecidableEq, Repr

def AstGroup.idle : Nat → AstGroup := fun _ => ⟨none, false⟩

/-- The tracker: the table, its words in error (entry, word), the physical macro behind each macro in use,
the groups, the 16 words AST_TRK_DATA latched, uncorrectable words found in each macro since RESET_n, macros
whose replacement is due, and macros for which no spare was left (R514). -/
structure Aster where
  table  : SMap (BitVec 512)
  ce     : List (Nat × Nat)
  ue     : List (Nat × Nat)
  macros : SMap Nat
  groups : SMap AstGroup
  latch  : BitVec 512
  ues    : SMap Nat
  due    : List Nat
  lost   : List Nat
deriving DecidableEq, Repr

def entryFree : Nat → BitVec 512 := fun _ => 0
def macroSelf : Nat → Nat := fun m => m

/-! ## The state -/

/-- The state of the block. -/
structure State where
  /-- The commands waiting, first in, first out. -/
  pending  : List Instr
  /-- Every register with a stored value, by key. -/
  regs     : SMap B32
  /-- R571: the latch of each LO/HI pair, by the key of HI; unlisted means empty. -/
  latch    : SMap (Option B32)
  /-- The value the last register read returned. -/
  readback : B32
  /-- CAM_TIME_ELAPSED (R295). -/
  elapsed  : B64
  /-- TIME_NS in [87:24], its binary fraction below (R292). -/
  time     : BitVec 88
  /-- The model's own counter of free values drawn (log entry 10); no register of the spec. -/
  freeIx   : Nat
  fuse     : Fuse
  pins     : Pins
  boot     : Boot
  safety   : Safety
  host     : HostIf
  fw       : Firmware
  ports    : SMap Port
  crcs     : SMap CrcUnit
  shas     : SMap ShaEng
  power    : Power
  mem      : MemSys
  pipes    : SMap Pipe
  books    : SMap Book
  commit   : Commit
  tiles    : SMap Tile
  clusters : SMap Cluster
  tileMap  : SMap (Option Nat)
  stems    : SMap Engine
  spcs     : SMap Engine
  cam      : Cam
  vid      : Vid
  ast      : Aster
deriving DecidableEq, Repr

/-- Why the machine stops with a fault. -/
inductive Fault where
  /-- Stress beyond Table 19-6, or operation outside the limits of R569: the manual says the device meets no
  rule of it then. No command brings it about, so no step answers it; safe. -/
  | outsideConditions
deriving DecidableEq, Repr

/-- Why a command has no meaning. -/
inductive Refusal where
  /-- The arm of a command that the model does not yet give a meaning; safe. -/
  | notModelled (mnemonic : String)
deriving DecidableEq, Repr

def latchEmpty : Nat → Option B32 := fun _ => none

def Pins.reset : Pins := ⟨false, 0, false, false, false, false, 0⟩

def Boot.reset : Boot where
  phase := .held
  releasedAt := 0
  nor := []
  norSize := 0
  sram := []
  rcv := []
  rcvSize := 0
  rcvCe := []
  rcvUe := []
  seq := 0
  arv := 0
  mFw := 0
  mScr := 0
  kImg := 0
  dId := 0
  dAtt := 0
  endorse := []
  statAtHand := 0
  scroll := Scroll.empty
  dev := 0

def Safety.reset : Safety where
  nextSeq := 1
  bltHeld := []
  reports := []
  overflow := false
  spiSeen := false
  crcErr := false
  response := 0
  sent := 0
  faultAt := 0
  aliveAt := none
  edgeAt := 0
  exhausted := []

def HostIf.reset : HostIf where
  link := false
  bme := false
  pcie := PcieFn.reset
  seenUp := false
  perst := false
  irings := []
  rrings := []
  out := []
  hbAt := 0
  evHeld := []
  evLost := false
  evSeq := 0
  evProd := 0
  evCons := 0
  evSince := 0
  evFirst := 0
  barData := []
  abort := false
  evEnabling := false
  fetches := []
  readTag := 0
  attachAt := 0

def Firmware.reset : Firmware where
  upd := .none
  stopAt := 0
  newSeq := 0
  newArv := 0
  runSeq := 0
  runArv := 0
  updates := 0
  begun := false
  clean := 0
  cleanStop := false
  kickAt := []
  restartAt := []
  moving := []
  rowsDue := []
  unitsDue := []
  destroying := []
  updGuest := none
  remoteAt := none
  ctrlPart := []
  parts := (0, 0)
  entries := (0, 0)
  newParts := (0, 0)
  newEntries := (0, 0)
  scrubs := []

def Power.reset : Power := ⟨[], [], [], false, [], []⟩
def MemSys.reset : MemSys := ⟨[], [], [], [], [], [], [], none, 0, []⟩
def Cam.reset : Cam := ⟨[], [], [], [], 0, false, none, [], []⟩
def Vid.reset : Vid := ⟨[], [], [], [], 0, [], [], []⟩
def Aster.reset : Aster := ⟨[], [], [], [], [], 0, [], [], []⟩
def Commit.reset : Commit := ⟨0, [], [], [], [], [], [], [], [], [], [], []⟩

/-- The device held in RESET_n: every register at its Reset column, every queue and buffer empty. -/
def State.reset : State where
  pending := []
  regs := []
  latch := []
  readback := 0
  elapsed := 0
  time := 0
  freeIx := 0
  fuse := Fuse.reset
  pins := Pins.reset
  boot := Boot.reset
  safety := Safety.reset
  host := HostIf.reset
  fw := Firmware.reset
  ports := []
  crcs := []
  shas := []
  power := Power.reset
  mem := MemSys.reset
  pipes := []
  books := []
  commit := Commit.reset
  tiles := []
  clusters := []
  tileMap := []
  stems := []
  spcs := []
  cam := Cam.reset
  vid := Vid.reset
  ast := Aster.reset

end Sys2Proof.Machine
end

