-- ==== Sys2Proof/Machine/Ops.lean ====
section
/-!
DEFINITION. The shared operations: registers and their fields, counters, TIME_NS, phases, events (R478,
R480), the Blotter and the safety report queue (R512, R522, R527), writes to host memory (R572), and the
outcome of a command that is turned away.
-/
namespace Sys2Proof.Machine

abbrev Out := Host.Outcome State Fault Refusal

/-- A command takes effect, or is turned away and changes nothing: what it names is absent, in another
state, or refuses it (log entry 1). -/
def attempt (o : Option State) (s : State) : Out := .next (o.getD s)

/-! ## Lists -/

/-- Stable insertion: `x` goes before the first element that does not come before it. -/
def insertBy {α : Type} (before : α → α → Bool) (x : α) : List α → List α
  | [] => [x]
  | y :: ys => if before y x then y :: insertBy before x ys else x :: y :: ys

/-- The sort engine's full order: a pair comes before another with an equal key when its index is lower. -/
def sortBy {α : Type} (before : α → α → Bool) : List α → List α
  | [] => []
  | x :: xs => insertBy before x (sortBy before xs)

/-- Ones of a bit vector. -/
def ones {w : Nat} (b : BitVec w) : Nat := ((upTo w).filter (fun i => b.getLsbD i)).length

/-! ## Registers -/

/-- The stored value of a register. -/
def State.reg (s : State) (k : Nat) : B32 := SMap.get regReset s.regs k

def State.setReg (s : State) (k : Nat) (v : B32) : State :=
  { s with regs := SMap.set regReset s.regs k v }

/-- The `w`-bit field at bit `lo` of a register. -/
def State.fld (s : State) (k lo w : Nat) : Nat := bitsOf (s.reg k).toNat lo w

/-- A word with its `w`-bit field at bit `lo` replaced. -/
def setBits (old : B32) (lo w v : Nat) : B32 :=
  let m : B32 := BitVec.ofNat 32 (place (2 ^ w - 1) lo w)
  (old &&& ~~~m) ||| BitVec.ofNat 32 (place v lo w)

def State.setFld (s : State) (k lo w v : Nat) : State := s.setReg k (setBits (s.reg k) lo w v)

def State.bit (s : State) (k i : Nat) : Bool := (s.reg k).getLsbD i

def State.setBit (s : State) (k i : Nat) (b : Bool) : State := s.setFld k i 1 (b2n b)

/-- A counter that stops at 0xFFFF_FFFF. -/
def State.addSat (s : State) (k n : Nat) : State :=
  s.setReg k (BitVec.ofNat 32 (satAdd 32 (s.reg k).toNat n))

/-- A counter modulo 2^32. -/
def State.addWrap (s : State) (k n : Nat) : State := s.setReg k (s.reg k + BitVec.ofNat 32 n)

/-- A saturating counter that is a field of a register. -/
def State.addFld (s : State) (k lo w n : Nat) : State := s.setFld k lo w (satAdd w (s.fld k lo w) n)

/-- A LO/HI pair whose HI stands 4 above its LO. -/
def State.reg64 (s : State) (k : Nat) : B64 := s.reg (k + 4) ++ s.reg k

def State.setReg64 (s : State) (k : Nat) (v : B64) : State :=
  (s.setReg k (v.truncate 32)).setReg (k + 4) ((v >>> 32).truncate 32)

def State.add64 (s : State) (k n : Nat) : State := s.setReg64 k (s.reg64 k + BitVec.ofNat 64 n)

/-! ## Time, phases, requesters -/

/-- TIME_NS (R292). -/
def State.timeNs (s : State) : B64 := (s.time >>> 24).truncate 64

/-- The least count of TIME cycles of 6.4 ns that is no shorter than `n` microseconds (R29: 156.25 MHz). -/
def usTicks (n : Nat) : Nat := (n * 625 + 3) / 4
def msTicks (n : Nat) : Nat := n * 156250

/-- The clocks run and registers answer. -/
def State.awake (s : State) : Bool :=
  match s.boot.phase with
  | .rom | .ready | .serving => true
  | .held | .halted | .tripped => false

def State.die (s : State) (d : Nat) : DieClock := SMap.get DieClock.idle s.power.dies d
def State.setDie (s : State) (d : Nat) (v : DieClock) : State :=
  { s with power := { s.power with dies := SMap.set DieClock.idle s.power.dies d v } }

/-- Registers answer: the clocks run, or the device is halted and its host interface serves on (R449). -/
def State.answers (s : State) : Bool := s.awake || decide (s.boot.phase = .halted)

def State.serving (s : State) : Bool := decide (s.boot.phase = .serving)

def State.updActive (s : State) : Bool := s.bit 0x4 4

def kCore (n : Nat) : Nat := kQcx (0x10 + 4 * n)
/-- State of a core: 0 running, 1 in reset, 2 failed, 3 fused out. -/
def State.coreState (s : State) (n : Nat) : Nat := s.fld (kCore n) 4 2
def State.coreUp (s : State) (n : Nat) : Bool := s.coreState n == 0

/-- Firmware serves its roles: neither a live update nor the task move of a core restart is under way (R24). -/
def State.fwServes (s : State) : Bool := !s.updActive && s.fw.moving.isEmpty

/-- Audits run: some Quill core executes (R24, R266). -/
def State.auditsRun (s : State) : Bool := !s.updActive && (upTo 12).any s.coreUp
def State.inService (s : State) : Bool := s.bit 0x4 0
def State.hostAbsent (s : State) : Bool := s.bit (kHst 0x8) 0
def State.go (s : State) : Bool := s.bit (kTrs 0x14) 0

/-- Class and instance of a requester code (Table 11-2). -/
def rqCls (rq : Requester) : Nat := rq.code.toNat / 4096
def rqInst (rq : Requester) : Nat := rq.code.toNat % 4096
/-- A Quill core (class 0xB). -/
def rqQuill (rq : Requester) : Bool := decide (rqCls rq = 0xB)

/-- The host through PCIe (R389), and firmware's mailbox accesses (R483). -/
def rqHost : Requester := ⟨0x9000, false, false⟩
def rqCommit : Requester := ⟨0x8000, false, false⟩
def rqCore0 : Requester := ⟨0xB000, true, false⟩

/-! ## Unit records -/

def State.tile (s : State) (t : Nat) : Tile := SMap.get Tile.fresh s.tiles t
def State.setTile (s : State) (t : Nat) (v : Tile) : State := { s with tiles := SMap.set Tile.fresh s.tiles t v }
def State.cluster (s : State) (c : Nat) : Cluster := SMap.get Cluster.fresh s.clusters c
def State.setCluster (s : State) (c : Nat) (v : Cluster) : State :=
  { s with clusters := SMap.set Cluster.fresh s.clusters c v }
def State.pipe (s : State) (p : Nat) : Pipe := SMap.get Pipe.unbound s.pipes p
def State.setPipe (s : State) (p : Nat) (v : Pipe) : State := { s with pipes := SMap.set Pipe.unbound s.pipes p v }
def State.book (s : State) (k : Nat) : Book := SMap.get Book.unbound s.books k
def State.setBook (s : State) (k : Nat) (v : Book) : State := { s with books := SMap.set Book.unbound s.books k v }
def State.port (s : State) (p : Nat) : Port := SMap.get Port.idle s.ports p
def State.setPort (s : State) (p : Nat) (v : Port) : State := { s with ports := SMap.set Port.idle s.ports p v }
def State.iring (s : State) (i : Nat) : IRing := SMap.get IRing.idle s.host.irings i
def State.setIring (s : State) (i : Nat) (v : IRing) : State :=
  { s with host := { s.host with irings := SMap.set IRing.idle s.host.irings i v } }
def State.rring (s : State) (j : Nat) : RRing := SMap.get RRing.idle s.host.rrings j
def State.setRring (s : State) (j : Nat) (v : RRing) : State :=
  { s with host := { s.host with rrings := SMap.set RRing.idle s.host.rrings j v } }
def State.crc (s : State) (u : Nat) : CrcUnit := SMap.get CrcUnit.idle s.crcs u
def State.setCrc (s : State) (u : Nat) (v : CrcUnit) : State := { s with crcs := SMap.set CrcUnit.idle s.crcs u v }
def State.sha (s : State) (e : Nat) : ShaEng := SMap.get ShaEng.idle s.shas e
def State.setSha (s : State) (e : Nat) (v : ShaEng) : State := { s with shas := SMap.set ShaEng.idle s.shas e v }
def State.stack (s : State) (k : Nat) : Stack := SMap.get Stack.idle s.mem.hbmStacks k
def State.setStack (s : State) (k : Nat) (v : Stack) : State :=
  { s with mem := { s.mem with hbmStacks := SMap.set Stack.idle s.mem.hbmStacks k v } }
def State.rail (s : State) (k : Nat) : Rail := SMap.get Rail.idle s.power.rails k
def State.setRail (s : State) (k : Nat) (v : Rail) : State :=
  { s with power := { s.power with rails := SMap.set Rail.idle s.power.rails k v } }
def State.sensor (s : State) (i : Nat) : Sensor := SMap.get Sensor.idle s.power.sensors i
def State.setSensor (s : State) (i : Nat) (v : Sensor) : State :=
  { s with power := { s.power with sensors := SMap.set Sensor.idle s.power.sensors i v } }
/-- The device whose commit unit has a pipeline. DESIGN CHOICE (log entry 112): the one whose binding gives it a source or
a sink. A binding without either only hosts TILE stages here, and the commit unit is that of the first device of its tile
map other than this one. -/
def PipeBind.home (b : PipeBind) (dev : Nat) : Nat :=
  if b.sources.any (fun x => x.kind != .none) || b.sinks.any (·.bound) then dev
  else ((b.tiles.find? (fun t => t.device != dev)).map (·.device)).getD dev

/-- The physical cluster whose Stem engine serves a folio cluster on a side (R220). The record names one cluster for both
sides; with twin tiles the twin side's engine is on its own side: DESIGN CHOICE (log entry 109), the cluster of the twin
of the first folio tile that the named cluster hosts, or the cluster four further where it hosts none. -/
def PipeBind.stemOf (b : PipeBind) (side : Bool) (unit : Nat) : Option Nat :=
  (b.stemMap[unit]?).map (fun c => if !side || b.twinDevK then c else
    match b.tiles.find? (fun t => t.logical / 8 == c) with
    | some t => t.twin / 8
    | none => (c + 4) % 8)

/-- The compute die whose Spectral unit serves a folio die on a side, likewise (R220, log entry 109). -/
def PipeBind.spcOf (b : PipeBind) (side : Bool) (unit : Nat) : Option Nat :=
  (b.spcMap[unit]?).map (fun d => if !side || b.twinDevK then d else
    match b.tiles.find? (fun t => t.logical / 16 == d) with
    | some t => t.twin / 16
    | none => (d + 2) % 4)

def State.stem (s : State) (c : Nat) : Engine := SMap.get Engine.idle s.stems c
def State.setStem (s : State) (c : Nat) (v : Engine) : State := { s with stems := SMap.set Engine.idle s.stems c v }
def State.spc (s : State) (d : Nat) : Engine := SMap.get Engine.idle s.spcs d
def State.setSpc (s : State) (d : Nat) (v : Engine) : State := { s with spcs := SMap.set Engine.idle s.spcs d v }

/-- The physical tile behind a logical tile. -/
def State.physOf (s : State) (l : Nat) : Option Nat := SMap.get tileMap0 s.tileMap l
/-- The logical tile that maps to a physical tile. -/
def State.logicalOf (s : State) (t : Nat) : Option Nat := (upTo 64).find? (fun l => s.physOf l == some t)

/-! ## Little-endian numbers as events and entries carry them -/

/-- A 64-bit parameter from (bit position, value) pairs. -/
def mkParam (fs : List (Nat × Nat)) : B64 :=
  BitVec.ofNat 64 (fs.foldl (fun acc e => acc + e.2 <<< e.1) 0)

/-- Free bytes, eight from each value drawn (log entry 10). -/
def freeBytes (ix n : Nat) : List Byte := (upTo (n / 8)).flatMap (fun i => natToBytes (Config.freeWord (ix + i)).toNat 8)

/-- Two's-complement value of a number in 32 bits, for m°C fields. -/
def twos32 (i : Int) : Nat := toTwos i 32

/-! ## Events (R478, R480) -/

/-- Event `code` raised with its parameter: it enters the store of 256, or is lost and counted. -/
def State.raise (s : State) (code : BitVec 16) (param : B64) : State :=
  if s.host.evHeld.length < 256 then
    { s with host := { s.host with evHeld := s.host.evHeld ++ [⟨code, s.boot.dev, s.timeNs, param⟩] } }
  else
    ({ s with host := { s.host with evLost := true } }).addSat (kQcx 0x324) 1

/-! ## In service (R38, R39) -/

/-- State of folio `i` (TRS_FOLIO_STAT). -/
def State.folioState (s : State) (i : Nat) : Nat := s.fld (kTrs (0x200 + 4 * i)) 0 3

/-- The condition of GLB_STATUS.in_service: every folio named is verified and every binding made accepts epochs. A
firmware action that holds admission for a while does not count (log entry 90). -/
def State.serviceReady (s : State) : Bool :=
  s.serving && (upTo 32).all (fun i => s.folioState i == 0 || s.folioState i == 3) &&
  s.pipes.all (fun e => !e.2.named || (e.2.bound && !e.2.stopped))

/-- in_service follows its condition; a rise raises 0x0101. -/
def State.tryService (s : State) : State :=
  if s.serviceReady then
    if s.inService then s
    else ({ s.setBit 4 0 true with fw := { s.fw with begun := true } }).raise 0x0101 0
  else s.setBit 4 0 false

/-! ## Writes to host memory (R572) -/

/-- The link is up and Bus Master Enable is 1 (HST_STAT.link_up). -/
def State.hostUp (s : State) : Bool := s.host.link && s.host.bme

/-- A posted write: issued, or lost while the link is down or Bus Master Enable is 0. A device that is not
its own home sends it to its home (R441); see `State.postHost`. -/
def State.postLocal (s : State) (addr : B64) (data : List Byte) : State :=
  if s.hostUp then { s with host := { s.host with out := s.host.out ++ [⟨addr, data⟩] } } else s

/-! ## The Blotter and the safety report queue -/

/-- The 32 bytes of a Blotter entry (Table 17-7). -/
def BltEntry.bytes (e : BltEntry) : List Byte :=
  let ep := match e.epoch with | some (n, _) => n.toNat | none => 0
  let pv := match e.epoch with | some (_, p) => p % 128 + 128 | none => 0
  natToBytes e.seq.toNat 4 ++ natToBytes e.cls 1 ++ natToBytes e.action 1 ++ natToBytes e.unit 2 ++
  natToBytes e.t.toNat 8 ++ natToBytes ep 4 ++ natToBytes pv 1 ++
  natToBytes (b2n e.signal + 2 * b2n e.degraded) 1 ++ natToBytes e.spare 2 ++ natToBytes e.detail.toNat 8

/-- Word errors of the recovery RAM that a write of whole words from byte `off` mends. -/
def dropWords (l : List Nat) (lo n : Nat) : List Nat := l.filter (fun w => decide (w < lo ∨ lo + n ≤ w))

/-- An entry written at seq mod 4,096 (R527). -/
def State.bltStore (s : State) (e : BltEntry) : State :=
  let e := { e with seq := s.safety.nextSeq }
  let off := 32 * (s.safety.nextSeq.toNat % 4096)
  { s with
    boot := { s.boot with
      rcv := s.boot.rcv.writeBytes off e.bytes
      rcvCe := dropWords s.boot.rcvCe (off / 8) 4
      rcvUe := dropWords s.boot.rcvUe (off / 8) 4 }
    safety := { s.safety with nextSeq := s.safety.nextSeq + 1 } }

/-- Classes whose faults the safety channel reports (Table 17-2). -/
def signalled (cls : Nat) : Bool := cls == 1 || cls == 2 || cls == 3 || cls == 4 || cls == 9

/-- A report enters the queue of 64 or is lost, FAULT_n asserts, and 0x0C06 is raised (R522, R525). -/
def State.report (s : State) (e : BltEntry) : State :=
  if s.safety.reports.length < 64 then
    ({ s with
      safety := { s.safety with reports := s.safety.reports ++ [e], faultAt := s.elapsed.toNat }
      pins := { s.pins with fault := true } }).raise 0x0C06 (mkParam [(0, e.cls), (32, e.seq.toNat)])
  else
    { s with
      safety := { s.safety with overflow := true, faultAt := s.elapsed.toNat }
      pins := { s.pins with fault := true } }

/-- A Blotter entry names the epoch (R257). -/
def State.noteEpoch (s : State) (e : B32) : State :=
  { s with commit := { s.commit with
      epochs := s.commit.epochs.map (fun x => if x.1 = e then (x.1, { x.2 with noted := true }) else x) } }

/-- A detected fault: its Blotter entry, held on the die before go (at most 16: R469), and its report. -/
def State.fault (s : State) (e : BltEntry) : State :=
  let s : State := match e.epoch with
    | some x => s.noteEpoch x.1
    | none => s
  let e := { e with seq := s.safety.nextSeq, t := s.timeNs, signal := signalled e.cls }
  let s1 :=
    if s.go then s.bltStore e
    else if s.safety.bltHeld.length < 16 then
      { s with safety := { s.safety with bltHeld := s.safety.bltHeld ++ [e] } }
    else s
  if signalled e.cls then s1.report e else s1

/-- A Blotter entry of a class with a unit and a detail, no epoch and no spare. -/
def mkFault (cls action unit : Nat) (detail : B64) : BltEntry :=
  ⟨0, cls, action, unit, 0, none, false, false, 0xFFFF, detail⟩

/-- The class of a fault becomes exhausted for a unit by it (R512). The spares of cores, pipes, video cores and macros are
one pool each, whichever unit takes the last. -/
def State.exhausts (s : State) (cls unit : Nat) : Bool :=
  !(s.safety.exhausted.any (fun x => x.1 == cls && (x.2 == unit || decide (3 ≤ cls ∧ cls ≤ 7))))

/-- An exhausted class shows: its bit, DEGRADED_n and 0x0C05. -/
def State.showExhaust (s : State) (cls unit : Nat) : State :=
  ({ s.setBit (kBlt 0xC) cls true with pins := { s.pins with degraded := true } }).raise 0x0C05
    (mkParam [(0, cls), (16, unit)])

/-- A sparing class becomes exhausted for a unit (R512), once until RESET_n; before go it shows only at go. -/
def State.exhaust (s : State) (cls unit : Nat) : State :=
  if s.exhausts cls unit then
    let s : State := { s with safety := { s.safety with exhausted := s.safety.exhausted ++ [(cls, unit)] } }
    if s.go then s.showExhaust cls unit else s
  else s

/-- The events that a moment has raised since `s0` enter the store in increasing code (R478). -/
def State.byCode (s0 s : State) : State :=
  let n := s0.host.evHeld.length
  let late := sortBy (fun a b => decide (a.code.toNat < b.code.toNat)) (s.host.evHeld.drop n)
  { s with host := { s.host with evHeld := s.host.evHeld.take n ++ late } }

/-! ## Halt (R449) -/

/-- HALT_n asserted with a code of Table 14-1; FAULT_n asserts at once (R522). -/
def State.halt (s : State) (code : Nat) : State :=
  { ((s.setBit (kTrs 0x10) 0 true).setFld (kTrs 0) 16 6 code) with
    pins := { s.pins with halt := true, bootErr := BitVec.ofNat 6 code, fault := true }
    boot := { s.boot with phase := .halted, kImg := 0 } }

end Sys2Proof.Machine
end

