-- ==== Sys2Proof/Machine/Mem.lean ====
section
/-!
DEFINITION. The memory system of chapter 11 as operations: the region check (R375, R376, R381), the
violation log (R380), the HBM mapping and its outer code (R357 to R365), the Reservoir (R368 to R371), the
recovery RAM (R382, R383), and one access of any requester to HBM or to a control-complex memory.
-/
namespace Sys2Proof.Machine

/-- Top of the usable HBM (Table 01-5). -/
def hbmTop : Nat := 0x2D00000000
/-- First address of the register space and control complex. -/
def ctlBase : Nat := 0xFF00000000
/-- Last device-local address (R35). -/
def localTop : Nat := 0xFFFFFFFFFF

/-! ## Region table -/

/-- A region-table entry (Table 11-6). -/
structure Rgn where
  base  : Nat
  last  : Nat
  valid : Bool
  world : Bool
  read  : Bool
  write : Bool
  twin  : Bool
  lock  : Bool
deriving DecidableEq, Repr

def kRgn (i off : Nat) : Nat := kMem (0x10 * i + off)

def State.rgn (s : State) (i : Nat) : Rgn :=
  let a := s.reg (kRgn i 8)
  ⟨(s.reg (kRgn i 0)).toNat, (s.reg (kRgn i 4)).toNat, a.getLsbD 0, a.getLsbD 1, a.getLsbD 2, a.getLsbD 3,
   a.getLsbD 4, a.getLsbD 5⟩

/-- Whether an entry covers an address range (base and last in 4 KiB pages): R375. -/
def Rgn.covers (r : Rgn) (lo hi : Nat) : Bool :=
  decide (r.base ≤ r.last) && decide (r.last ≤ 0x2CFFFFF) && decide (r.base * 4096 ≤ lo) &&
  decide (hi < (r.last + 1) * 4096)

/-- A valid entry matches the 64-byte line at `line` (R375). -/
def Rgn.hits (r : Rgn) (line : Nat) : Bool := r.valid && r.covers line (line + 63)

/-- The entries that match a line, lowest number first. -/
def State.matching (s : State) (line : Nat) : List (Nat × Rgn) :=
  ((upTo 64).map (fun i => (i, s.rgn i))).filter (fun e => e.2.hits line)

/-- Why a line is refused: its place in the order of R376, cause, status and deciding entry. -/
structure Verdict where
  rank   : Nat
  cause  : Nat
  status : Nat
  entry  : Option Nat
deriving DecidableEq, Repr

/-- Which register accesses a requester may make by world (R377, R381, R471, R355 and the write restrictions of
R444, R493, R530, R550). -/
def regAllowed (rq : Requester) (write : Bool) (key : Nat) : Bool :=
  if rq.secure then
    (match decodeKey key with
     | some (.qcx, _, off) =>
       if write && decide (0x70 ≤ off) && decide (off < 0xA0) then decide (rq.code.toNat = 0xB000 + (off - 0x70) / 4)
       else true
     | _ => true)
  else
    match decodeKey key with
    | some (.trs, _, off) =>
      if write then decide (off = 0x100 ∨ off = 0x104)
      else decide (off ≤ 0xC) || (decide (0x100 ≤ off) && decide (off ≤ 0x60C))
    | some (.mem, _, off) =>
      !(decide (off < 0x400) || off == 0x2100 || off == 0x2104 || off == 0x2108 ||
        (decide (0x3000 ≤ off) && decide (off < 0x3020)))
    | some (.ast, _, off) => !(decide (0x2040 ≤ off) && decide (off < 0x2080))
    | some (.lnk, _, off) => !(write && off == 0x4)
    | some (.blt, _, off) => !(write && (off == 0x14 || off == 0x20)) || (rqQuill rq)
    | some (.pwr, _, off) =>
      !(write && (off == 0x18 || off == 0x300 || off % 0x10 == 0 && (decide (0x100 ≤ off) && decide (off < 0x180) ||
        decide (0x200 ≤ off) && decide (off < 0x240))))
    | some (.qcx, _, off) =>
      if write then
        if off = 0x4 ∨ (0x40 ≤ off ∧ off < 0x70) then false
        else if 0x70 ≤ off ∧ off < 0xA0 then decide (rq.code.toNat = 0xB000 + (off - 0x70) / 4)
        else true
      else true
    | _ => true

/-- Table 11-3: whether a requester may access a control-space address, or `none` where the table lists
nothing. -/
def State.ctlAllowed (s : State) (rq : Requester) (write : Bool) (addr : Nat) : Option Bool :=
  let off := addr - ctlBase
  let chk := decide (rqCls rq = 0xC)
  if off < 0x4000000 then some (regAllowed rq write (off / 4 * 4))
  else if off < 0x4040000 then some (rqQuill rq && !write)
  else if off < 0x8000000 then none
  else if off < 0x8800000 then some ((rqQuill rq || chk) && rq.secure)
  else if off < 0xA000000 then
    some ((rqQuill rq || chk) && !(write && decide (0x9800000 ≤ off) && s.bit (kTrs 0x20) 0))
  else if off < 0x10000000 then none
  else if off < 0x10000000 + s.boot.rcvSize then some (rqQuill rq)
  else if off < 0x40000000 then none
  else if off < 0x80000000 then some (rqQuill rq && !write)
  else none

/-- The check of one line (R376). -/
def State.lineVerdict (s : State) (rq : Requester) (write : Bool) (line : Nat) : Option Verdict :=
  if ctlBase ≤ line then
    match s.ctlAllowed rq write line with
    | none => some ⟨1, 1, 0x30, none⟩
    | some false => some ⟨2, 2, 0x30, none⟩
    | some true => none
  else if hbmTop ≤ line then some ⟨1, 1, 0x30, none⟩
  else
    let ms := s.matching line
    let dec := ms.head?.map (·.1)
    let secure := ms.isEmpty || ms.any (fun e => e.2.world)
    let twin := match ms.head? with | some e => e.2.twin | none => false
    let rd := match ms.head? with | some e => e.2.read | none => true
    let wr := match ms.head? with | some e => e.2.write | none => true
    if !rq.secure && secure then some ⟨2, 2, 0x30, dec⟩
    else if (rq.side && write && !twin) || (!rq.side && twin) then some ⟨3, 3, 0x30, dec⟩
    else if write && ms.any (fun e => e.2.lock) then some ⟨4, 5, 0x31, dec⟩
    else if (write && !wr) || (!write && !rd) then some ⟨5, 4, 0x30, dec⟩
    else none

/-- The 64-byte lines of a byte range. -/
def linesOf (addr len : Nat) : List Nat :=
  (upTo ((addr + len - 1) / 64 + 1 - addr / 64)).map (fun i => (addr / 64 + i) * 64)

/-- The refusal of an access: the first failing check over its lines, at the first line that fails it
(R376). -/
def State.verdict (s : State) (rq : Requester) (write : Bool) (addr len : Nat) : Option (Nat × Verdict) :=
  (linesOf addr len).foldl (fun acc l =>
    match s.lineVerdict rq write l with
    | none => acc
    | some v =>
      match acc with
      | none => some (l, v)
      | some (l0, v0) => if v.rank < v0.rank then some (l, v) else some (l0, v0)) none

/-- R380: a refused access counted, and logged with event 0x0501 when the log is free. -/
def State.violation (s : State) (rq : Requester) (write : Bool) (addr : Nat) (v : Verdict) : State :=
  let s := s.addFld (kMem 0x100C) 0 16 1
  if s.bit (kMem 0x1008) 31 then s.addFld (kMem 0x100C) 16 16 1
  else
    let info := rq.code.toNat + place v.cause 16 3 + place (b2n write) 19 1 + place (b2n rq.secure) 20 1 +
      place (b2n rq.side) 21 1 + place (v.entry.getD 0) 22 6 + place (b2n v.entry.isSome) 28 1 + 2 ^ 31
    (((s.setReg (kMem 0x1000) (BitVec.ofNat 32 addr)).setReg (kMem 0x1004) (BitVec.ofNat 32 (addr / 2 ^ 32))).setReg
      (kMem 0x1008) (BitVec.ofNat 32 info)).raise 0x0501
      (mkParam [(0, addr % 2 ^ 40), (40, rq.code.toNat), (56, v.cause), (59, b2n write), (60, b2n rq.secure),
        (61, b2n rq.side)])

/-! ## HBM -/

/-- Stack of an address (R357). -/
def stackOf (a : Nat) : Nat := (bitsOf a 10 3) ^^^ (bitsOf a 13 3) ^^^ (bitsOf a 16 3)
/-- Stack-local address. -/
def stackLocal (a : Nat) : Nat := (a / 2 ^ 13) * 2 ^ 10 + a % 2 ^ 10
/-- Stack-local 4 KiB page. -/
def pageOf (a : Nat) : Nat := stackLocal a / 4096
/-- The device-local address of a stack-local one. -/
def deviceAddr (k l : Nat) : Nat :=
  let hi := l / 2 ^ 10
  let blk := (k ^^^ (bitsOf hi 0 3) ^^^ (bitsOf hi 3 3)) % 8
  hi * 2 ^ 13 + blk * 2 ^ 10 + l % 2 ^ 10
/-- Usable pages of a stack: 22.5 GiB. -/
def stackPages : Nat := 5898240

def kHbm (k off : Nat) : Nat := kMem (0x2000 + 0x20 * k + off)

/-- A cause to retire a page (R363): queued, in the order of causes, while a spare remains (R364, R365). -/
def State.queueRetire (s : State) (k page : Nat) : State :=
  let st := s.stack k
  if s.bit (kHbm k 0) 15 ∨ page ∈ st.queue then s else s.setStack k { st with queue := st.queue ++ [page] }

/-- One correction on a page: the tracker of 1,024 pages, most recent first, and retirement at
MEM_RET_CFG.ce_thr (R363). -/
def State.trackCe (s : State) (k page : Nat) : State :=
  let st := s.stack k
  let n := ((st.track.find? (fun e => e.1 == page)).map (·.2)).getD 0 + 1
  let thr := s.fld (kMem 0x2100) 0 8
  let rest := st.track.filter (fun e => e.1 != page)
  if thr ≠ 0 ∧ thr ≤ n then (s.setStack k { st with track := rest }).queueRetire k page
  else s.setStack k { st with track := ((page, n) :: rest).take 1024 }

/-- An uncorrectable line that a read found: counted, reported, and its page retired (R361, R363). -/
def State.hbmUncorrectable (s : State) (k line page : Nat) (ep : Option (B32 × Nat)) : State :=
  let s := s.addSat (kHbm k 8) 1
  let s := s.raise 0x0502 (mkParam [(0, line), (40, k)])
  let s := s.fault { mkFault 6 (b2n ep.isSome) k (BitVec.ofNat 64 line) with epoch := ep }
  s.queueRetire k page

/-- The PHY PLL of a stack is locked: its link is up (R532). -/
def State.stackUp (s : State) (k : Nat) : Bool := s.bit (kClk 0) (16 + k)

/-- A read of one line at the controller: corrected and written back (R360), or uncorrectable, counted and reported
(R361); `ep` is the epoch that issued it. DESIGN CHOICE (log entry 96): a stack whose link is down answers with an
error, and counts and reports nothing. -/
def State.hbmLine (s : State) (line : Nat) (ep : Option (B32 × Nat)) : State × Bool :=
  let k := stackOf line
  if !s.stackUp k then (s, false)
  else if line ∈ s.mem.ue then (s.hbmUncorrectable k line (pageOf line) ep, false)
  else if line ∈ s.mem.ce then
    let s := s.addSat (kHbm k 4) 1
    let s := { s with mem := { s.mem with ce := s.mem.ce.filter (· != line) } }
    (s.trackCe k (pageOf line), true)
  else (s, true)

/-! ## Reservoir -/

/-- Set and half of the 128-byte line that holds an address (R368), as one key. -/
def rsvKey (a : Nat) : Nat :=
  let k := stackOf a
  (k / 4) * 131072 + bitsOf (stackLocal a) 7 15 * 4 + k % 4

def State.rsvSet (s : State) (a : Nat) : List RsvLine := SMap.get rsvIdle s.mem.rsv (rsvKey a)

def State.setRsv (s : State) (a : Nat) (l : List RsvLine) : State :=
  { s with mem := { s.mem with rsv := SMap.set rsvIdle s.mem.rsv (rsvKey a) l } }

def kPin (j : Nat) : Nat := kMem (0x3000 + 4 * j)

/-- A pin entry names a region that holds the address. -/
def State.pinHolds (s : State) (j a : Nat) : Bool :=
  s.bit (kPin j) 6 && (s.rgn (s.fld (kPin j) 0 6)).hits (a / 64 * 64)

/-- The pin whose ways an address uses: the lowest-numbered (R371). -/
def State.pinOf (s : State) (a : Nat) : Option Nat := (upTo 8).find? (fun j => s.pinHolds j a)

/-- Ways that enabled pins claim. -/
def State.pinnedWays (s : State) : Nat :=
  (upTo 8).foldl (fun m j => if s.bit (kPin j) 6 then m ||| s.fld (kPin j) 16 16 else m) 0

/-- The ways an address may allocate in. -/
def State.waysFor (s : State) (a : Nat) : List Nat :=
  match s.pinOf a with
  | some j => (upTo 16).filter (fun w => (s.fld (kPin j) 16 16).testBit w)
  | none => (upTo 16).filter (fun w => !(s.pinnedWays.testBit w))

def State.rsvHit (s : State) (a : Nat) : Bool := (s.rsvSet a).any (fun l => l.line == a / 128)

/-- The line is present and becomes the most recently used. -/
def State.rsvTouch (s : State) (a : Nat) : State :=
  let st := s.rsvSet a
  s.setRsv a (st.filter (fun l => l.line == a / 128) ++ st.filter (fun l => l.line != a / 128))

/-- Words of a 128-byte line. -/
def rsvWords (line : Nat) : List Nat := (upTo 4).map (fun i => line * 4 + i)

/-- The line is invalidated, with its word errors. -/
def State.rsvDrop (s : State) (a : Nat) : State :=
  let s := s.setRsv a ((s.rsvSet a).filter (fun l => l.line != a / 128))
  { s with mem := { s.mem with rsvCe := s.mem.rsvCe.filter (fun w => w / 4 != a / 128)
                               rsvUe := s.mem.rsvUe.filter (fun w => w / 4 != a / 128) } }

/-- The line is allocated: in the lowest free permitted way, else in place of the least recently used line
of a permitted way (R369, R371). -/
def State.rsvAlloc (s : State) (a : Nat) : State :=
  let ways := s.waysFor a
  let st := s.rsvSet a
  match ways.find? (fun w => !(st.any (fun l => l.way == w))) with
  | some w => s.setRsv a (⟨w, a / 128⟩ :: st)
  | none =>
    match (st.filter (fun l => ways.contains l.way)).getLast? with
    | some v => (s.rsvDrop (v.line * 128)).setRsv a (⟨v.way, a / 128⟩ :: st.filter (fun l => l.line != v.line))
    | none => s

/-- The other of the two HBM lines of a Reservoir line. -/
def otherHalf (line : Nat) : Nat := if line % 128 = 0 then line + 64 else line - 64

/-- A Reservoir line of 128 bytes is filled: its other HBM line is read as R360 and R361 say, and the line is
allocated (R369). DESIGN CHOICE (log entry 54): where that other line is uncorrectable, the read which missed still has
its data and nothing is allocated. -/
def State.rsvFill (s : State) (line : Nat) : State :=
  let r := s.hbmLine (otherHalf line) none
  if r.2 then r.1.rsvAlloc line else r.1

/-- The 32-byte words of a line that an access to `[lo, hi)` touches. -/
def touched (lo hi line : Nat) : List Nat :=
  [line / 32, line / 32 + 1].filter (fun w => decide (w * 32 < hi) && decide (lo < w * 32 + 32))

/-- One 64-byte line of a read through the Reservoir (R369, R370), or past it (`nocache`, R497): the
state and whether data came back. -/
def State.readLine (s : State) (a : Access) (line : Nat) (ep : Option (B32 × Nat)) : State × Bool :=
  if a.nocache then s.hbmLine line ep
  else if s.rsvHit line then
    let ws := touched a.addr (a.addr + a.len) line
    let ue := ws.filter (fun w => s.mem.rsvUe.contains w)
    let ce := ws.filter (fun w => s.mem.rsvCe.contains w)
    if !ue.isEmpty then
      let s := s.addFld (kMem 0x3040) 16 16 ue.length
      let s := s.fault { mkFault 7 (b2n ep.isSome) (stackOf line) (BitVec.ofNat 64 line) with epoch := ep }
      (s.rsvDrop line, false)
    else if !ce.isEmpty then ((s.addFld (kMem 0x3040) 0 16 ce.length).rsvDrop line, true)
    else (s.rsvTouch line, true)
  else
    let r := s.hbmLine line ep
    if r.2 then (r.1.rsvFill line, true) else (r.1, false)

/-- Lines read in rising order; the first error ends the access. -/
def State.readLines (s : State) (a : Access) (ep : Option (B32 × Nat)) : List Nat → State × Bool
  | [] => (s, true)
  | l :: ls =>
    let r := s.readLine a l ep
    if r.2 then r.1.readLines a ep ls else (r.1, false)

/-- The lines of a write that it must merge: those it does not cover whole (R359). -/
def mergeLines (addr len : Nat) : List Nat :=
  (linesOf addr len).filter (fun l => decide (l < addr) || decide (addr + len < l + 64))

/-- Every merge read at the controller comes before any write (R361). -/
def State.mergeReads (s : State) (ep : Option (B32 × Nat)) : List Nat → State × Bool
  | [] => (s, true)
  | l :: ls =>
    let r := s.hbmLine l ep
    if r.2 then r.1.mergeReads ep ls else (r.1, false)

/-- The Reservoir's part of a write of one line (R369, R370): words covered whole are fresh, a word
covered in part is merged, and a line in a pinned region is allocated on a miss. -/
def State.rsvWrite (s : State) (lo hi line : Nat) : State :=
  if s.rsvHit line then
    let ws := touched lo hi line
    let part := ws.filter (fun w => decide (w * 32 < lo) || decide (hi < w * 32 + 32))
    let bad := part.filter (fun w => s.mem.rsvUe.contains w)
    let fixed := part.filter (fun w => s.mem.rsvCe.contains w)
    let s := if fixed.isEmpty then s else s.addFld (kMem 0x3040) 0 16 fixed.length
    if !bad.isEmpty then (s.addFld (kMem 0x3040) 16 16 bad.length).rsvDrop line
    else
      ({ s with mem := { s.mem with rsvCe := s.mem.rsvCe.filter (fun w => !(ws.contains w))
                                    rsvUe := s.mem.rsvUe.filter (fun w => !(ws.contains w)) } }).rsvTouch line
  else if (s.pinOf line).isSome then s.rsvFill line else s

/-- A write to HBM: merge reads, then every line written with fresh check bits (R359, R362); with the link of a stack
down it writes nothing and ends with an error (log entry 96). -/
def State.hbmWrite (s : State) (a : Access) (ep : Option (B32 × Nat)) : State × Nat :=
  let r := s.mergeReads ep (mergeLines a.addr a.data.length)
  let ls := linesOf a.addr a.data.length
  if r.2 && ls.all (fun l => s.stackUp (stackOf l)) then
    let s := r.1
    let s := { s with mem := { s.mem with
      hbm := s.mem.hbm.writeBytes a.addr a.data
      ce := s.mem.ce.filter (fun l => !(ls.contains l))
      ue := s.mem.ue.filter (fun l => !(ls.contains l)) } }
    (ls.foldl (fun s l => s.rsvWrite a.addr (a.addr + a.data.length) l) s, 0)
  else (r.1, 1)

/-- A read from HBM: its status and bytes. -/
def State.hbmRead (s : State) (a : Access) (ep : Option (B32 × Nat)) : State × Nat × List Byte :=
  let r := s.readLines a ep (linesOf a.addr a.len)
  if r.2 then (r.1, 0, s.mem.hbm.readBytes a.addr a.len) else (r.1, 1, [])

/-! ## Recovery RAM -/

/-- 64-bit words of a byte range. -/
def wordsOf (off len : Nat) : List Nat := (upTo ((off + len - 1) / 8 + 1 - off / 8)).map (fun i => off / 8 + i)

/-- Words read with their code: corrected and written back, or uncorrectable, counted, reported and in the
Blotter (R383, class 0x08). -/
def State.rcvWords (s : State) : List Nat → State × Bool
  | [] => (s, true)
  | w :: ws =>
    if w ∈ s.boot.rcvUe then
      let s := s.addFld (kMem 0x4000) 16 16 1
      let s := s.raise 0x0505 (mkParam [(0, w * 8)])
      (s.fault (mkFault 8 0 0 (BitVec.ofNat 64 (w * 8))), false)
    else if w ∈ s.boot.rcvCe then
      (({ s with boot := { s.boot with rcvCe := s.boot.rcvCe.filter (· != w) } }).addFld (kMem 0x4000) 0 16 1).rcvWords ws
    else s.rcvWords ws

/-- One access to usable recovery RAM bytes; a write shorter than a word merges (R383, R359). -/
def State.rcvAccess (s : State) (write : Bool) (off len : Nat) (data : List Byte) : State × Nat × List Byte :=
  if write then
    let ws := wordsOf off data.length
    let part := ws.filter (fun w => decide (w * 8 < off) || decide (off + data.length < w * 8 + 8))
    let r := s.rcvWords part
    if r.2 then
      let s := r.1
      ({ s with boot := { s.boot with
          rcv := s.boot.rcv.writeBytes off data
          rcvCe := s.boot.rcvCe.filter (fun w => !(ws.contains w))
          rcvUe := s.boot.rcvUe.filter (fun w => !(ws.contains w)) } }, 0, [])
    else (r.1, 1, [])
  else
    let r := s.rcvWords (wordsOf off len)
    if r.2 then (r.1, 0, s.boot.rcv.readBytes off len) else (r.1, 1, [])

/-! ## One access -/

/-- A byte of the boot flash. -/
def State.norByte (s : State) (f : Nat) : Byte := SMap.get Memory.erased s.boot.nor f

def State.norBytes (s : State) (f n : Nat) : List Byte := (upTo n).map (fun i => s.norByte (f + i))

/-- A control-complex memory byte outside the register space and the recovery RAM (Table 11-3). -/
def State.ctlByte (s : State) (addr : Nat) : Byte :=
  let off := addr - ctlBase
  if off < 0x8000000 then Config.romByte (off - 0x4000000)
  else if off < 0x10000000 then s.boot.sram.read addr
  else s.norByte (off - 0x40000000)

/-- The bytes an access covers. -/
def accessSize (a : Access) : Nat := if a.write then a.data.length else a.len

/-- One access below the register windows: RANGE first (R35), then the line check, then the memory. Its
status, and the bytes of a read. -/
def State.memAccess (s : State) (a : Access) (ep : Option (B32 × Nat)) : State × Nat × List Byte :=
  let len := accessSize a
  if len = 0 ∨ localTop < a.addr + len - 1 then (s, 0x13, [])
  else
    match s.verdict a.rq a.write a.addr len with
    | some (l, v) => (s.violation a.rq a.write l v, v.status, [])
    | none =>
      if a.addr < hbmTop then
        if a.write then
          let r := s.hbmWrite a ep
          (r.1, r.2, [])
        else s.hbmRead a ep
      else
        let off := a.addr - ctlBase
        if 0x10000000 ≤ off ∧ off < 0x40000000 then s.rcvAccess a.write (off - 0x10000000) len a.data
        else if a.write then
          ({ s with boot := { s.boot with sram := s.boot.sram.writeBytes a.addr a.data } }, 0, [])
        else (s, 0, (upTo len).map (fun i => s.ctlByte (a.addr + i)))

/-- The page of some line of a range is being copied: accesses to it wait (R363). -/
def State.pageBusy (s : State) (addr len : Nat) : Bool :=
  s.mem.hbmStacks.any (fun k => k.2.copying.isSome) &&
    (linesOf addr len).any (fun l => ((s.stack (stackOf l)).copying).any (fun c => c.1 == pageOf l) && decide (l < hbmTop))

/-- A range reaches the recovery RAM, whose bus the boot flash owns until go: the access waits (R469). -/
def State.rcvWaits (s : State) (addr len : Nat) : Bool :=
  !s.go && decide (ctlBase + 0x10000000 < addr + len ∧ addr < ctlBase + 0x10000000 + s.boot.rcvSize)

end Sys2Proof.Machine
end

