-- ==== Sys2Proof/Machine/Link.lean ====
section
/-!
DEFINITION. Orrek Link as operations (chapter 13): the topology (R420, R421), routing and virtual channels
(R437, R438), message headers (R434), sending a message and what becomes of one that has no route (R439),
the CRC of R428, the host traffic of a device that is not its own home (R441).
-/
namespace Sys2Proof.Machine

/-! ## CRC (R494) -/

def crcBit (w : Nat) (poly st : Nat) (b : Bool) : Nat :=
  let fb := b != st.testBit (w - 1)
  let st := (st * 2) % 2 ^ w
  if fb then st ^^^ (poly % 2 ^ w) else st

def crcByte (w poly : Nat) (refin : Bool) (st : Nat) (x : Byte) : Nat :=
  (upTo 8).foldl (fun st i => crcBit w poly st (x.getLsbD (if refin then i else 7 - i))) st

def crcFold (w poly : Nat) (refin : Bool) (st : Nat) (bs : List Byte) : Nat :=
  bs.foldl (crcByte w poly refin) st

def bitReverse (w v : Nat) : Nat := (upTo w).foldl (fun acc i => if v.testBit i then acc + 2 ^ (w - 1 - i) else acc) 0

/-- The result of R494 from a state. -/
def crcResult (w : Nat) (refout xorout : Bool) (st : Nat) : Nat :=
  let r := if refout then bitReverse w st else st
  if xorout then r ^^^ (2 ^ w - 1) else r

/-- The flit CRC-32 (R428). -/
def crc32 (bs : List Byte) : Nat := crcResult 32 true true (crcFold 32 0x04C11DB7 true 0xFFFFFFFF bs)

/-- The signature set's CRC-64 (R500). -/
def crc64 (bs : List Byte) : B64 :=
  BitVec.ofNat 64 (crcResult 64 true true (crcFold 64 sigPoly.toNat true (2 ^ 64 - 1) bs))

/-- The safety channel's CRC-16 (R524). -/
def crc16 (bs : List Byte) : Nat := crcResult 16 false false (crcFold 16 0x1021 false 0xFFFF bs)

/-- The bytes of a wide vector, byte 0 first. -/
def vecBytes {w : Nat} (v : BitVec w) (n : Nat) : List Byte := natToBytes v.toNat n

/-! ## Topology -/

/-- Port state codes (Table 13-1). -/
def lsDisabled : Nat := 0
def lsDetect : Nat := 1
def lsLaneCheck : Nat := 2
def lsAlign : Nat := 3
def lsParam : Nat := 4
def lsActive : Nat := 5
def lsRetrain : Nat := 6
def lsMiswired : Nat := 7
def lsFailed : Nat := 8
def lsUnused : Nat := 9

def State.lnkState (s : State) (p : Nat) : Nat := s.fld (kLnk p 8) 0 4

/-- Dimensions DX, DY, DZ, wrap bits, and the own coordinate (LNK_TOPO). -/
def State.dimSize (s : State) (d : Nat) : Nat :=
  let t := kLnk 0 0x100
  match d with
  | 0 => s.fld t 8 3 + 1
  | 1 => s.fld t 11 2 + 1
  | _ => s.fld t 13 2 + 1

def State.wraps (s : State) (d : Nat) : Bool := s.bit (kLnk 0 0x100) (15 + d)

/-- Coordinate `d` of a device number (R34). -/
def coord (dev d : Nat) : Nat :=
  match d with
  | 0 => dev % 8
  | 1 => (dev / 8) % 4
  | _ => (dev / 32) % 4

/-- The device lies in the torus. -/
def State.inTorus (s : State) (dev : Nat) : Bool :=
  decide (dev < 128) && (upTo 3).all (fun d => decide (coord dev d < s.dimSize d))

/-- The device number with coordinate `d` replaced. -/
def withCoord (dev d c : Nat) : Nat :=
  match d with
  | 0 => dev / 8 * 8 + c
  | 1 => dev / 32 * 32 + c * 8 + dev % 8
  | _ => c * 32 + dev % 32

/-- R421: a port of a device that never trains. -/
def State.unusedPort (s : State) (dev p : Nat) : Bool :=
  let d := p / 2
  let n := s.dimSize d
  decide (n = 1) || (!s.wraps d && ((p % 2 == 0 && coord dev d == n - 1) || (p % 2 == 1 && coord dev d == 0)))

/-- The device on the other side of a port (R421). -/
def State.neighbour (s : State) (dev p : Nat) : Nat :=
  let d := p / 2
  let n := s.dimSize d
  let c := coord dev d
  withCoord dev d (if p % 2 = 0 then (c + 1) % n else (c + n - 1) % n)

/-- R437: the output port towards a device, `none` when it is this one. -/
def State.route (s : State) (dst : Nat) : Option Nat :=
  ((upTo 3).find? (fun d => coord dst d != coord s.boot.dev d)).map (fun d =>
    let n := s.dimSize d
    let a := coord s.boot.dev d
    let b := coord dst d
    let delta := (b + n - a) % n
    let pos := if s.wraps d then decide (delta ≤ n - delta) else decide (a < b)
    2 * d + (if pos then 0 else 1))

/-- The hop out of port `p` crosses its dimension's dateline (R438). -/
def State.crosses (s : State) (p : Nat) : Bool :=
  let d := p / 2
  s.wraps d && ((p % 2 == 0 && coord s.boot.dev d == s.dimSize d - 1) || (p % 2 == 1 && coord s.boot.dev d == 0))

/-! ## Messages -/

def mDst (m : LnkMsg) : Nat := bitsOf m.hdr.toNat 0 7
def mSrc (m : LnkMsg) : Nat := bitsOf m.hdr.toNat 8 7
def mKind (m : LnkMsg) : Nat := bitsOf m.hdr.toNat 16 4
def mVcb (m : LnkMsg) : Nat := bitsOf m.hdr.toNat 20 1
def mSide (m : LnkMsg) : Bool := bitOf m.hdr.toNat 24
def mHost (m : LnkMsg) : Bool := bitOf m.hdr.toNat 25
def mOrigin (m : LnkMsg) : Nat := bitsOf m.hdr.toNat 32 16
def mChunks (m : LnkMsg) : Nat := bitsOf m.hdr.toNat 48 16
def mAddr (m : LnkMsg) : Nat := bitsOf m.hdr.toNat 64 64
def mTag (m : LnkMsg) : Nat := bitsOf m.hdr.toNat 128 32
def mStatus (m : LnkMsg) : Nat := bitsOf m.hdr.toNat 160 8
def mHostBytes (m : LnkMsg) : Nat := bitsOf m.hdr.toNat 176 10

/-- A message of this device (Table 13-4). -/
def mkMsg (src dst kind : Nat) (side host : Bool) (origin chunks addr tag status hostBytes : Nat)
    (payload : List Byte) : LnkMsg :=
  ⟨BitVec.ofNat 192 (dst % 128 + place src 8 7 + place kind 16 4 + place (b2n side) 24 1 + place (b2n host) 25 1 +
     place origin 32 16 + place chunks 48 16 + place addr 64 64 + place tag 128 32 + place status 160 8 +
     place hostBytes 176 10), payload⟩

/-- First VC of the class of a kind (Tables 13-3, 13-5). -/
def kindVc (kind : Nat) : Nat :=
  if kind = 8 ∨ kind = 9 then 2 else if kind = 2 ∨ kind = 3 ∨ kind = 7 then 4 else 0

/-- A message as 8-byte chunks: its header, then its payload padded to whole chunks (R434). -/
def chunksOf (m : LnkMsg) : List B64 :=
  let hs := (upTo 3).map (fun i => BitVec.ofNat 64 (bitsOf m.hdr.toNat (64 * i) 64))
  let n := ceilDiv m.payload.length 8
  let v := bytesToNat m.payload
  hs ++ (upTo n).map (fun i => BitVec.ofNat 64 (bitsOf v (64 * i) 64))

/-- Payload chunks that follow a header: none for READ and for a response without data. -/
def payloadChunks (hdr : BitVec 192) : Nat :=
  let kind := bitsOf hdr.toNat 16 4
  if kind = 1 ∨ kind = 9 ∨ (kind = 8 ∧ bitsOf hdr.toNat 160 8 ≠ 0) then 0 else bitsOf hdr.toNat 48 16

/-- A READ, WRITE or PUSH that cannot go on, answered (R439). -/
def refusal (own : Nat) (m : LnkMsg) (status : Nat) : LnkMsg :=
  mkMsg own (mSrc m) (if mKind m = 1 then 8 else 9) (mSide m) (mHost m) (mOrigin m) 0 (mAddr m) (mTag m) status
    (if mHost m then mHostBytes m else 0) []

/-- The outstanding transfer that a response names by its tag: tile in [26:20], number in [19:0]. -/
def xferTag (tile id : Nat) : Nat := place tile 20 7 + id % 2 ^ 20

/-- A response reaches the tile whose transfer it answers: status and a READ's row. -/
def State.answerXfer (s : State) (tag status : Nat) (data : List Byte) : State :=
  let t := bitsOf tag 20 7
  let tl := s.tile t
  s.setTile t { tl with xfers := tl.xfers.map (fun x =>
    if x.id % 2 ^ 20 = tag % 2 ^ 20 ∧ x.answer.isNone then
      { x with answer := some status
               data := if status = 0 ∧ x.op = 1 then BitVec.ofNat 4096 (bytesToNat data) else x.data }
    else x) }

/-- The answer to a READ with host set reaches the read it belongs to (R441). -/
def State.answerFetch (s : State) (m : LnkMsg) : State :=
  let take (x : FetchPart) : FetchPart :=
    if x.tag.toNat = mTag m ∧ x.answer.isNone then
      { x with answer := some (if mStatus m = 0 then some (m.payload.take x.len) else none) }
    else x
  { s with host := { s.host with fetches := s.host.fetches.map (fun f => { f with parts := f.parts.map take }) } }

/-- A response that has arrived at its originator. The answer to a posted host WRITE carries nothing more for it. -/
def State.takeResponse (s : State) (m : LnkMsg) : State :=
  if mHost m then (if mKind m = 8 then s.answerFetch m else s)
  else if mOrigin m / 4096 = 0 then s.answerXfer (mTag m) (mStatus m) m.payload
  else s

/-- The VC that a message takes out of port `p` and the message with the vcb of that hop (R438); `inDim` is the dimension
it arrives in. -/
def State.hop (s : State) (p : Nat) (inDim : Option Nat) (m : LnkMsg) : Nat × LnkMsg :=
  let d := p / 2
  let keep := if inDim = some d then mVcb m else 0
  let vcb := if s.wraps d then (if s.crosses p then 1 else keep) else 0
  (kindVc (mKind m) + vcb, ⟨(m.hdr &&& ~~~(BitVec.ofNat 192 (2 ^ 20))) ||| BitVec.ofNat 192 (place vcb 20 1), m.payload⟩)

def noMsgs : Nat → List LnkMsg := fun _ => []
def noChunks : Nat → List (B64 × Option LnkMsg) := fun _ => []
def noRx : Nat → List (B64 × Bool) := fun _ => []

/-- A message of this device joins those waiting for a VC of an output port. -/
def State.enqueueMsg (s : State) (p : Nat) (m : LnkMsg) : State :=
  let h := s.hop p none m
  let pt := s.port p
  s.setPort p { pt with inj := SMap.set noMsgs pt.inj h.1 (SMap.get noMsgs pt.inj h.1 ++ [h.2]) }

/-- Whether a port takes a message (R439). -/
def State.portOpen (s : State) (p : Nat) : Bool := s.lnkState p == lsActive || s.lnkState p == lsRetrain

/-- A message that may only be dropped when it has no route: a response, or a one-way kind. -/
def State.sendOnce (s : State) (m : LnkMsg) : State :=
  match s.route (mDst m) with
  | none => s
  | some p => if s.portOpen p then s.enqueueMsg p m else s.addSat (kLnk p 0x2C) 1

/-- R439: a message whose next port is not open is counted at that port, and a READ, WRITE or PUSH is
answered DISCARDED_FAULT to its originator. -/
def State.unrouted (s : State) (p : Nat) (m : LnkMsg) : State :=
  let s := s.addSat (kLnk p 0x2C) 1
  if mKind m = 1 ∨ mKind m = 2 ∨ mKind m = 3 then
    let r := refusal s.boot.dev m 1
    if mSrc m = s.boot.dev then s.takeResponse r else s.sendOnce r
  else s

/-- A message of this device sent towards its destination. -/
def State.sendMsg (s : State) (m : LnkMsg) : State :=
  match s.route (mDst m) with
  | none => s
  | some p => if s.portOpen p then s.enqueueMsg p m else s.unrouted p m

/-- The first whole message of a run of chunks, and the chunks after it. -/
def parseMsg (cs : List B64) : Option (LnkMsg × List B64) :=
  match cs with
  | a :: b :: c :: rest =>
    let hdr : BitVec 192 := c ++ b ++ a
    let n := payloadChunks hdr
    if n ≤ rest.length then
      some (⟨hdr, (rest.take n).flatMap (fun x => natToBytes x.toNat 8)⟩, rest.drop n)
    else none
  | _ => none

/-- Zero chunks at a message boundary are padding of a flit (log entry 23): they leave the buffer. -/
def skipPad : List (B64 × Bool) → List (B64 × Bool) × Nat
  | [] => ([], 0)
  | (c, l) :: r => if c = 0 then (let t := skipPad r; (t.1, t.2 + b2n l)) else ((c, l) :: r, 0)

/-- The first whole message of a receive queue: the message, the chunks left, and the flits freed. -/
def frontMsg (q : List (B64 × Bool)) : Option (LnkMsg × List (B64 × Bool) × Nat) :=
  let t := skipPad q
  match parseMsg (t.1.map (·.1)) with
  | some (m, rest) =>
    let n := t.1.length - rest.length
    some (m, t.1.drop n, t.2 + ((t.1.take n).filter (·.2)).length)
  | none => none

/-- The receive queue of a VC after chunks have left it (R432). -/
def State.setRx (s : State) (p v : Nat) (q : List (B64 × Bool)) (freed : Nat) : State :=
  let t := skipPad q
  let pt := s.port p
  let s := s.setPort p { pt with rxq := SMap.set noRx pt.rxq v t.1 }
  s.addWrap (kLnk p (0x4C + 0x10 * v)) (freed + t.2)

/-- Messages at the front of a receive queue that can go no further: those of a reserved kind are dropped and counted
(R435), those whose next port is not open are handled by R439. One for this device waits for its own command, and one for
an open port for its turn there. -/
def State.forward : Nat → State → Nat → Nat → State
  | 0, s, _, _ => s
  | n + 1, s, p, v =>
    match frontMsg (SMap.get noRx (s.port p).rxq v) with
    | none => s
    | some (m, rest, freed) =>
      if mKind m = 0 ∨ 0xB ≤ mKind m then
        ((s.setRx p v rest freed).addSat (kLnk p 0x2C) 1).forward n p v
      else if mDst m = s.boot.dev then s
      else match s.route (mDst m) with
        | some q => if s.portOpen q then s else ((s.setRx p v rest freed).unrouted q m).forward n p v
        | none => s

/-- The same for every message of a receive queue, each of at least three chunks. -/
def State.forwardAll (s : State) (p v : Nat) : State :=
  s.forward ((SMap.get noRx (s.port p).rxq v).length + 1) p v

/-- Source `k` of VC `v` of output port `p`: the message it has for that VC, with the receive VC it stands in. Sources 0
to 5 are the incoming ports, source 6 is this device (R433). -/
def State.hopOffer (s : State) (p v k : Nat) : Option (Nat × LnkMsg) :=
  if k = 6 then (SMap.get noMsgs (s.port p).inj v).head?.map (fun m => (0, m))
  else (upTo 6).findSome? (fun w =>
    match frontMsg (SMap.get noRx (s.port k).rxq w) with
    | some (m, _, _) =>
      let h := s.hop p (some (k / 2)) m
      if mDst m ≠ s.boot.dev ∧ s.route (mDst m) = some p ∧ h.1 = v then some (w, h.2) else none
    | none => none)

/-- The message a source offers leaves it. -/
def State.pull (s : State) (p v k w : Nat) : State :=
  if k = 6 then
    let pt := s.port p
    s.setPort p { pt with inj := SMap.set noMsgs pt.inj v (SMap.get noMsgs pt.inj v).tail }
  else match frontMsg (SMap.get noRx (s.port k).rxq w) with
    | some (_, rest, freed) => (s.setRx k w rest freed).forwardAll k w
    | none => s

/-- The sources of a VC in rotating order, the one served next first (R433). -/
def State.nextOffer (s : State) (p v : Nat) : Option (Nat × Nat × LnkMsg) :=
  ((upTo 7).map (fun i => (SMap.get zeroNat (s.port p).pick v + i) % 7)).findSome? (fun k =>
    (s.hopOffer p v k).map (fun o => (k, o.1, o.2)))

/-- The chunks of a message, its last one with the message. -/
def tagged (m : LnkMsg) : List (B64 × Option LnkMsg) :=
  let cs := chunksOf m
  (upTo cs.length).map (fun i => (cs[i]?.getD 0, if i + 1 = cs.length then some m else none))

/-- Whole messages are taken for a VC, source after source, until a flit of chunks stands ready (R433, R434). -/
def State.fill : Nat → State → Nat → Nat → State
  | 0, s, _, _ => s
  | n + 1, s, p, v =>
    if 30 ≤ (SMap.get noChunks (s.port p).txq v).length then s
    else match s.nextOffer p v with
      | none => s
      | some (k, w, m) =>
        let s := s.pull p v k w
        let pt := s.port p
        (s.setPort p { pt with
          txq := SMap.set noChunks pt.txq v (SMap.get noChunks pt.txq v ++ tagged m)
          pick := SMap.set zeroNat pt.pick v ((k + 1) % 7) }).fill n p v

/-- A port that is no longer open: the messages waiting for it are handled by R439, those in the receive buffers of the
other ports too. -/
def State.flushPort (s : State) (p : Nat) : State :=
  let pt := s.port p
  let ms := pt.txq.flatMap (fun e => e.2.filterMap (·.2)) ++ pt.inj.flatMap (·.2)
  let s := ms.foldl (fun s m => s.unrouted p m) (s.setPort p { pt with txq := [], inj := [] })
  (upTo 36).foldl (fun s i => s.forwardAll (i / 6) (i % 6)) s

/-! ## Host traffic (R440, R441, R572) -/

def State.isHome (s : State) : Bool :=
  s.bit (kLnk 0 0x104) 7 || decide (s.fld (kLnk 0 0x104) 0 7 = s.boot.dev)

/-- The home of this device. -/
def State.home (s : State) : Nat := s.fld (kLnk 0 0x104) 0 7

/-- Host memory can be reached: on the own PCIe link, or for a device that is not its own home on its route to the
home (R439, R441). -/
def State.hostPath (s : State) : Bool := if s.isHome then s.hostUp else (s.route s.home).any (fun p => s.portOpen p)

/-- The link towards host memory is up, Bus Master Enable apart. -/
def State.hostLink (s : State) : Bool := if s.isHome then s.host.link else s.hostPath

/-- The pieces of a host access: at most 512 bytes, each within one 4 KiB page (R441). -/
def hostPieces : Nat → Nat → List Byte → List (Nat × List Byte)
  | 0, _, _ => []
  | _, _, [] => []
  | n + 1, addr, b :: bs =>
    let l := min 512 (4096 - addr % 4096)
    (addr, (b :: bs).take l) :: hostPieces n (addr + l) ((b :: bs).drop l)

/-- Requester code in the host-memory traffic of the host interface. DESIGN CHOICE (log entry 139): Table 11-2 names no
other unit that belongs to the host's side. -/
def hostOrigin : Nat := 0x9000

/-- A posted write to host memory: on the own PCIe link, or as WRITE messages to the home. -/
def State.postHost (s : State) (addr : B64) (data : List Byte) : State :=
  if s.isHome then s.postLocal addr data
  else (hostPieces data.length addr.toNat data).foldl (fun s p =>
    s.sendMsg (mkMsg s.boot.dev s.home 2 false true hostOrigin (ceilDiv p.2.length 8) p.1 0 0 p.2.length p.2)) s

/-- The pieces of a read of host memory: address and length. -/
def hostSpans : Nat → Nat → Nat → List (Nat × Nat)
  | 0, _, _ => []
  | _, _, 0 => []
  | n + 1, addr, k + 1 =>
    let l := min (k + 1) (min 512 (4096 - addr % 4096))
    (addr, l) :: hostSpans n (addr + l) (k + 1 - l)

/-- The reads that host-memory traffic makes: index words of the rings, descriptors and data, the consumer word of the
event ring (256), the heartbeat word, a mailbox buffer. -/
inductive HostWord where
  | producer (i : Nat)
  | desc (i : Nat)
  | data (i : Nat)
  | consumer (j : Nat)
  | heartbeat
  | buffer
deriving DecidableEq, Repr

def HostWord.key : HostWord → Nat
  | .producer i => i
  | .desc i => 0x1000 + i
  | .data i => 0x2000 + i
  | .consumer j => 0x3000 + j
  | .heartbeat => 0x4000
  | .buffer => 0x5000

/-- A read goes to the home as READ messages with host set. -/
def State.startFetch (s : State) (w : HostWord) (addr len : Nat) : State :=
  let ps := hostSpans len addr len
  let tag (i : Nat) : B32 := s.host.readTag + BitVec.ofNat 32 (i + 1)
  let parts := (upTo ps.length).map (fun i => (⟨tag i, (ps[i]?.getD (0, 0)).2, none⟩ : FetchPart))
  let s : State := { s with host := { s.host with
    fetches := s.host.fetches ++ [⟨w.key, parts⟩], readTag := s.host.readTag + BitVec.ofNat 32 ps.length } }
  (upTo ps.length).foldl (fun (s : State) i =>
    let p := ps[i]?.getD (0, 0)
    s.sendMsg (mkMsg s.boot.dev s.home 1 false true hostOrigin (ceilDiv p.2 8) p.1 (parts[i]?.elim 0 (·.tag.toNat)) 0 p.2 [])) s

/-- The bytes of a read whose every part is answered; `none` inside where a part has failed. -/
def Fetch.result (f : Fetch) : Option (Option (List Byte)) :=
  f.parts.foldr (fun x acc => match x.answer, acc with
    | some a, some l => some (match a, l with
      | some b, some c => some (b ++ c)
      | _, _ => none)
    | _, _ => none) (some (some []))

/-- What a read of host memory gives: a home has it from its own link, as the command carries it; a device that is not its
own home asks its home and has the answer once it has come (R441). `none`: it has not come yet. DESIGN CHOICE (log entry
140): on such a device the command that takes a read's answer occurs twice, the first time to send its messages. -/
def State.hostFetch (s : State) (w : HostWord) (addr len : Nat) (own : Option (List Byte)) :
    State × Option (Option (List Byte)) :=
  if s.isHome then (s, some (if s.hostPath then own else none))
  else match s.host.fetches.find? (fun f => f.key == w.key) with
    | some f => match f.result with
      | some r => ({ s with host := { s.host with fetches := s.host.fetches.filter (fun x => x.key != w.key) } }, some r)
      | none => (s, none)
    | none => if s.hostPath then (s.startFetch w addr len, none) else (s, some none)

/-- A read that is no longer wanted: its answer will find nothing to answer. -/
def State.dropFetch (s : State) (w : HostWord) : State :=
  { s with host := { s.host with fetches := s.host.fetches.filter (fun x => x.key != w.key) } }

/-- A 4-byte word of host memory. -/
def State.fetchWord (s : State) (w : HostWord) (kAddr : Nat) (own : Option B32) : State × Option (Option B32) :=
  let r := s.hostFetch w (s.reg64 kAddr).toNat 4 (own.map (fun x => natToBytes x.toNat 4))
  (r.1, r.2.map (fun a => a.map (fun l => BitVec.ofNat 32 (bytesToNat l))))

end Sys2Proof.Machine
end

