-- ==== Sys2Proof/Machine/Flow.lean ====
section
/-!
DEFINITION. Tokens, credits, books and epochs as operations (chapter 07): flow-control words (R237), slot
movements at both ends of an edge (R240, R242), result entries that become due (R411, R415), and how an
epoch ends (R253 to R257).
-/
namespace Sys2Proof.Machine

/-! ## Flow-control words (Table 07-7) -/

def wToken : Nat := 0
def wCredit : Nat := 1
def wWithdraw : Nat := 2
def wReport : Nat := 3

def mkWord (edge pipe : Nat) (side : Bool) (kind slot : Nat) (epoch : B32) : B64 :=
  BitVec.ofNat 64 (edge % 256 + place pipe 8 7 + place (b2n side) 15 1 + place kind 16 2 + place slot 24 8 +
    place epoch.toNat 32 32)

def wEdge (w : B64) : Nat := bitsOf w.toNat 0 8
def wPipe (w : B64) : Nat := bitsOf w.toNat 8 7
def wSide (w : B64) : Bool := bitOf w.toNat 15
def wKind (w : B64) : Nat := bitsOf w.toNat 16 2
def wSlot (w : B64) : Nat := bitsOf w.toNat 24 8
def wEpoch (w : B64) : B32 := BitVec.ofNat 32 (bitsOf w.toNat 32 32)

/-! ## Where stages run -/

def Pipe.stage (p : Pipe) (i : Nat) : Option Stage := p.stages[i]?
def Pipe.edge (p : Pipe) (i : Nat) : Option Edge := p.edges[i]?

def Pipe.tileBind (p : Pipe) (folioTile : Nat) : Option TileBind :=
  match p.bind with
  | some b => b.tiles[folioTile]?
  | none => none

/-- The device with the pipeline's commit unit, as seen from device `dev`. -/
def Pipe.home (p : Pipe) (dev : Nat) : Nat :=
  match p.bind with
  | some b => b.home dev
  | none => dev

/-- The pipeline's commit unit is another device's: this one only hosts TILE stages of it. -/
def Pipe.hosted (p : Pipe) (dev : Nat) : Bool := p.home dev != dev

/-- Device of a stage: a TILE stage's by the tile map, every other stage's is that of the commit unit. -/
def State.stageDev (s : State) (p : Pipe) (stage : Nat) : Nat :=
  match p.stage stage with
  | some st =>
    match st.kind with
    | .tile => match p.tileBind st.unit with
      | some b => b.device
      | none => s.boot.dev
    | _ => p.home s.boot.dev
  | none => s.boot.dev

/-- The other devices that host stages of a pipeline. -/
def State.hostDevs (s : State) (p : Pipe) : List Nat :=
  (((upTo p.stages.length).map (fun i => s.stageDev p i)).eraseDups).filter (· != s.boot.dev)

/-- Logical tile of a TILE stage on a side (Table 07-6). -/
def Pipe.logical (p : Pipe) (st : Stage) (side : Bool) : Option Nat :=
  (p.tileBind st.unit).map (fun b => if side then b.twin else b.logical)

/-- The physical tile of a TILE stage on a side, when it lies on this device. -/
def State.tileOf (s : State) (p : Pipe) (stage : Nat) (side : Bool) : Option Nat :=
  match p.stage stage with
  | some st => if st.kind = .tile ∧ s.stageDev p stage = s.boot.dev then (p.logical st side).bind s.physOf else none
  | none => none

/-- Requester code of a stage's unit (Table 11-2); the commit unit's for SOURCE and SINK ends. -/
def State.unitCode (s : State) (p : Pipe) (stage : Nat) (side : Bool) : Nat :=
  match p.stage stage, p.bind with
  | some st, some b =>
    match st.kind with
    | .tile => (s.tileOf p stage side).getD 0
    | .stem => 0x1000 + (b.stemOf side st.unit).getD 0
    | .spectral => 0x2000 + (b.spcOf side st.unit).getD 0
    | .aster => 0x7000
    | .source | .sink => 0x8000
  | _, _ => 0x8000

/-- The sides a pipeline runs on this device: both for twin tiles, one otherwise (R234, R247). -/
def Pipe.sides (p : Pipe) : List Bool :=
  if p.paired then
    match p.bind with
    | some b => if b.twinDevK then [!b.primary] else [false, true]
    | none => [false]
  else [false]

/-- The stages that report: all but SOURCE and SINK (R241). -/
def Stage.works (st : Stage) : Bool :=
  match st.kind with
  | .source | .sink => false
  | _ => true

/-- The (side, stage) pairs of a pipeline that report to its commit unit (R241). -/
def Pipe.workers (p : Pipe) : List (Bool × Nat) :=
  p.sides.flatMap (fun sd => ((upTo p.stages.length).filter (fun i =>
    match p.stage i with
    | some st => st.works
    | none => false)).map (fun i => (sd, i)))

/-- Those whose unit lies on this device. -/
def State.localWorkers (s : State) (p : Pipe) : List (Bool × Nat) :=
  p.workers.filter (fun w => s.stageDev p w.2 == s.boot.dev)

/-- The pairs whose acknowledgement ends an epoch on this device: all of them at the commit unit, those that a hosting
device has (R255). -/
def State.ackers (s : State) (p : Pipe) : List (Bool × Nat) :=
  if p.hosted s.boot.dev then s.localWorkers p else p.workers

/-! ## Epoch records -/

/-- Epoch `a` is older than `b` (R245). -/
def olderThan (a b : B32) : Bool := a != b && serialGe b a

/-- An epoch as it begins. -/
def Epoch.fresh (pipe : Nat) (sm : Sample) (port : Nat) (peer : Option B32) : Epoch :=
  ⟨pipe, .admitted, 0, 0, sm, port, [], [], [], peer, [], [], [], 0, none, false⟩

/-- The sample of an epoch that another device's commit unit has: nothing of it is known here. -/
def Sample.away : Sample := ⟨0, 0, [], none, 0, 0, 0, 0, 0⟩

/-- COMMITTED or ENDED. -/
def EpochState.over (x : EpochState) : Bool :=
  match x with
  | .committed | .ended => true
  | _ => false

def State.epochRec (s : State) (e : B32) : Option Epoch :=
  (s.commit.epochs.find? (fun x => x.1 == e)).map (·.2)

def State.setEpoch (s : State) (e : B32) (r : Epoch) : State :=
  { s with commit := { s.commit with epochs := s.commit.epochs.map (fun x => if x.1 = e then (e, r) else x) } }

def State.dropEpoch (s : State) (e : B32) : State :=
  let pipe := (s.epochRec e).elim 128 (·.pipe)
  { s with commit := { s.commit with
      epochs := s.commit.epochs.filter (fun x => x.1 != e)
      progress := s.commit.progress.filter (fun x => x.epoch != e)
      remote := s.commit.remote.filter (fun x => !(x.pipe == pipe && x.epoch == e))
      layers := s.commit.layers.filter (fun x => !(x.pipe == pipe && x.epoch == e)) } }

def State.epochState (s : State) (e : B32) : Option EpochState := (s.epochRec e).map (·.state)

/-- The epoch runs: ADMITTED, RUNNING or STAGED. -/
def State.epochLive (s : State) (e : B32) : Bool :=
  match s.epochState e with
  | some .admitted | some .running | some .staged => true
  | _ => false

/-- The running epochs of a pipeline. -/
def State.epochsIn (s : State) (pipe : Nat) : List B32 :=
  ((s.commit.epochs.filter (fun x => x.2.pipe == pipe)).map (·.1)).filter (fun e => s.epochLive e)

/-- Progress of a stage for an epoch (empty when nothing has started). -/
def State.prog (s : State) (side : Bool) (stage : Nat) (e : B32) : Progress :=
  (s.commit.progress.find? (fun x => x.epoch == e && x.stage == stage && x.side == side)).getD
    ⟨side, stage, e, [], [], false, none⟩

def State.setProg (s : State) (p : Progress) : State :=
  let rest := s.commit.progress.filter (fun x => !(x.epoch == p.epoch && x.stage == p.stage && x.side == p.side))
  { s with commit := { s.commit with progress := [p] ++ rest } }

/-- A WITHDRAW has ended the epoch of a pipeline hosted here (log entry 112). -/
def State.isGone (s : State) (pipe : Nat) (e : B32) : Bool :=
  (s.pipe pipe).hosted s.boot.dev && s.commit.gone.contains (pipe, e)

/-- The end of an epoch is remembered while its number is among the pipeline's last 65,536. -/
def State.noteGone (s : State) (pipe : Nat) (e : B32) : State :=
  { s with commit := { s.commit with
      gone := s.commit.gone.filter (fun x => x.1 != pipe || decide ((e - x.2).toNat < 65536)) ++ [(pipe, e)] } }

/-- An epoch of a pipeline hosted here appears with its first word (log entry 112). -/
def State.openHosted (s : State) (pipe : Nat) (e : B32) : State :=
  if (s.pipe pipe).hosted s.boot.dev && (s.epochRec e).isNone && !(s.isGone pipe e) then
    { s with commit := { s.commit with epochs := s.commit.epochs ++ [(e, Epoch.fresh pipe Sample.away 0 none)] } }
  else s

/-! ## Sending words -/

/-- A word on its way to a unit of this device. -/
def State.fly (s : State) (f : Flight) : State := { s with commit := { s.commit with flight := s.commit.flight ++ [f] } }

/-- One word leaves the fabric. -/
def State.takeFlight (s : State) (f : Flight) : State :=
  { s with commit := { s.commit with flight := s.commit.flight.erase f } }

/-- A word that unit `origin` sends to another device in a FLOW message (R238, R434). DESIGN CHOICE (log entry 112): its
tag is 1 for a REPORT that acknowledges a WITHDRAW, else 0. -/
def State.sendFlow (s : State) (origin dev : Nat) (w : B64) (ack : Bool) : State :=
  s.sendMsg (mkMsg s.boot.dev dev 4 (wSide w) false origin 1 0 (b2n ack) 0 0 (natToBytes w.toNat 8))

/-- A word that unit `origin` sends to the unit of a stage: inside the device it is in flight, to a peer it goes as a FLOW
message (R238). -/
def State.sendWord (s : State) (p : Pipe) (origin stage : Nat) (w : B64) : State :=
  let dev := s.stageDev p stage
  if dev = s.boot.dev then s.fly ⟨w, stage, false⟩ else s.sendFlow origin dev w false

/-- A stage's REPORT on its way to the commit unit (R241). -/
def State.sendReport (s : State) (pipe : Nat) (side : Bool) (stage status : Nat) (e : B32) : State :=
  s.fly ⟨mkWord stage pipe side wReport status e, stage, false⟩

/-- A stage's acknowledgement of a WITHDRAW on its way to the commit unit (R254). -/
def State.sendAck (s : State) (pipe : Nat) (side : Bool) (stage status : Nat) (e : B32) : State :=
  s.fly ⟨mkWord stage pipe side wReport status e, stage, true⟩

/-! ## CTRL messages (R481, R484). DESIGN CHOICE (log entry 47): what they carry, told apart by their tag -/

def ctrlRequest : Nat := 0
def ctrlResponse : Nat := 1
def ctrlData : Nat := 2
def ctrlEvent : Nat := 3
/-- A commit unit tells a device that hosts stages of a commit (log entry 112). -/
def ctrlCommit : Nat := 4
/-- A tile of a row-stat group holds an epoch (log entry 69). -/
def ctrlResident : Nat := 5
/-- The counters of an end of an edge to a peer device: asked, answered, restored (log entry 113). -/
def ctrlBookAsk : Nat := 6
def ctrlBookTell : Nat := 7
def ctrlBookRestore : Nat := 8
/-- A twin fault of a stage: the twin device's tile (R268, R518; log entry 141). -/
def ctrlTwin : Nat := 9
/-- The home has entered host-absent mode (R441). -/
def ctrlAbsent : Nat := 10
/-- A matrix step of a layer has completed (R156, log entry 146). -/
def ctrlLayer : Nat := 11

def State.sendCtrl (s : State) (origin dst tag : Nat) (payload : List Byte) : State :=
  s.sendMsg (mkMsg s.boot.dev dst 10 false false origin (ceilDiv payload.length 8) 0 tag 0 0 payload)

/-- Requester code of the control core of a cluster (Tables 11-2, 15-1). -/
def clusterCode (c : Nat) : Nat := 0xB003 + c

/-! ## Slots (Table 07-8) -/

def Book.h (b : Book) : Nat := (b.prod.filter (fun x => x == .held)).length
def Book.w (b : Book) : Nat :=
  (b.prod.filter (fun x => match x with | .writing _ _ | .filling => true | _ => false)).length
def Book.k (b : Book) : Nat := (b.cons.filter (fun x => match x with | .token _ => true | _ => false)).length
def Book.rd (b : Book) : Nat := (b.cons.filter (fun x => match x with | .reading _ _ => true | _ => false)).length

/-- The lowest-numbered slot for which the producer holds a credit. -/
def Book.free (b : Book) : Option Nat := b.prod.findIdx? (fun x => x == .held)

/-- The slot of an epoch's token at the consumer. -/
def Book.tokenOf (b : Book) (e : B32) : Option Nat := b.cons.findIdx? (fun x => x == .token e)
def Book.readingOf (b : Book) (e : B32) : Option Nat :=
  b.cons.findIdx? (fun x => match x with | .reading e' _ => e' == e | _ => false)
/-- The slot that a step of an epoch takes: one that an earlier step has kept, else that of its token (R239, R240). -/
def Book.inputOf (b : Book) (e : B32) : Option Nat :=
  (b.cons.findIdx? (fun x => x == .reading e none)).or (b.tokenOf e)
/-- The slot that a step has: the one it has consumed, else one that is kept. -/
def Book.readingBy (b : Book) (e : B32) (st : Nat) : Option Nat :=
  (b.cons.findIdx? (fun x => x == .reading e (some st))).or (b.cons.findIdx? (fun x => x == .reading e none))
/-- The slot a step is writing. -/
def Book.writingOf (b : Book) (e : B32) (st : Nat) : Option Nat :=
  b.prod.findIdx? (fun x => x == .writing e st)

/-- The credit of a slot arrives at the producer. -/
def State.creditArrive (s : State) (key slot : Nat) : State :=
  let b := s.book key
  s.setBook key { b with prod := b.prod.set slot .held, cr := b.cr + 1, changed := s.elapsed.toNat }

/-- A slot empties at the consumer and its credit goes to the producer; an internal edge passes it at once
(R238). -/
def State.returnSlot (s : State) (p : Pipe) (pipe : Nat) (side : Bool) (edge slot : Nat) (e : B32) : State :=
  let key := bookKey pipe side edge
  let b := s.book key
  let s := s.setBook key { b with cons := b.cons.set slot .empty, cs := b.cs + 1, changed := s.elapsed.toNat }
  match p.edge edge with
  | some ed =>
    if ed.producer = ed.consumer then s.creditArrive key slot
    else s.sendWord p (s.unitCode p ed.consumer side) ed.producer (mkWord edge pipe side wCredit slot e)
  | none => s

/-- The token of a slot arrives at the consumer. A token of an epoch that has ended there goes back as a
credit on arrival (R254). -/
def State.tokenArrive (s : State) (p : Pipe) (pipe : Nat) (side : Bool) (edge slot : Nat) (e : B32) (dead : Bool) : State :=
  let key := bookKey pipe side edge
  let b := s.book key
  let s := s.setBook key { b with cons := b.cons.set slot (.token e), tr := b.tr + 1, changed := s.elapsed.toNat }
  if dead then s.returnSlot p pipe side edge slot e else s

/-- A slot in writing becomes a token, sent to the consumer (R240). -/
def State.sendToken (s : State) (p : Pipe) (pipe : Nat) (side : Bool) (edge slot : Nat) (e : B32) : State :=
  let key := bookKey pipe side edge
  let b := s.book key
  let s := s.setBook key { b with prod := b.prod.set slot .sent, ts := b.ts + 1, changed := s.elapsed.toNat }
  match p.edge edge with
  | some ed =>
    if ed.producer = ed.consumer then s.tokenArrive p pipe side edge slot e false
    else s.sendWord p (s.unitCode p ed.producer side) ed.consumer (mkWord edge pipe side wToken slot e)
  | none => s

/-- Every slot of an epoch at the consumer end of an edge goes back. -/
def State.returnEpoch (s : State) (p : Pipe) (pipe : Nat) (side : Bool) (edge : Nat) (e : B32) : State :=
  let b := s.book (bookKey pipe side edge)
  let slots := (upTo b.cons.length).filter (fun i => match b.cons[i]?.getD .empty with
    | .token e' | .reading e' _ => e' == e
    | .empty => false)
  slots.foldl (fun s i => s.returnSlot p pipe side edge i e) s

/-- Every slot in writing for an epoch at the producer end becomes a credit held again; TS and CR do not
change (R254). -/
def State.unwrite (s : State) (pipe : Nat) (side : Bool) (edge : Nat) (e : B32) : State :=
  let key := bookKey pipe side edge
  let b := s.book key
  s.setBook key { b with prod := b.prod.map (fun x =>
    match x with
    | .writing e' st => if e' = e then .held else .writing e' st
    | y => y) }

/-- Edges by their ends. -/
def Pipe.edgesInto (p : Pipe) (stage : Nat) : List Nat :=
  (upTo p.edges.length).filter (fun i => match p.edge i with | some e => e.consumer == stage | none => false)
def Pipe.edgesFrom (p : Pipe) (stage : Nat) : List Nat :=
  (upTo p.edges.length).filter (fun i => match p.edge i with | some e => e.producer == stage | none => false)

/-! ## Result entries -/

/-- What follows when an entry has been written or dropped: its intake ring has one open sample less, and
the SINK slots it holds are freed. -/
def State.entryDone (s : State) (e : ResEntry) : State :=
  let s := match e.iring with
    | some i => s.setIring i { s.iring i with open_ := (s.iring i).open_ - 1 }
    | none => s
  match e.frees with
  | some (pipe, side, stage, ep) =>
    let p := s.pipe pipe
    (p.edgesInto stage).foldl (fun s ed => s.returnEpoch p pipe (side == 1) ed ep) s
  | none => s

/-- An entry becomes due for a result ring: it waits there, or is dropped and counted while the ring is
disabled (R411) or the device is host-absent (R415). -/
def State.dueEntry (s : State) (j : Nat) (e : ResEntry) : State :=
  if s.hostAbsent then ((s.addSat (kRr j 0x2C) 1).addSat (kHst 0x18) 1).entryDone e
  else if s.bit (kRr j 8) 0 then
    s.setRring j { s.rring j with waiting := (s.rring j).waiting ++ [e] }
  else (s.addSat (kRr j 0x2C) 1).entryDone e

/-- A RESULT entry of src 0: an ended sample or a descriptor that failed (R257, R404). -/
def mkEntry (status : Nat) (ring : Nat) (sample : B64) (tag : B32) : ResEntry :=
  ⟨1, status, 0, false, 2, sample, ring, 0, 0, tag, 0, [], some ring, none⟩

/-- Camera frames of a sample counted in cause `k` of CAM_STRM_DROP_s_k. A decoded frame stands in a
sample as 0x100 plus its context, and counts in no stream. -/
def State.dropFrames (s : State) (frames : List (Nat × B32)) (k : Nat) : State :=
  (frames.filter (fun f => decide (f.1 < 24))).foldl (fun s f => s.addSat (kCam (0x1010 + 0x40 * f.1 + 4 * k)) 1) s

/-! ## The end of an epoch -/

def kPipe (p off : Nat) : Nat := kQcx (0x80000 + 0x20 * p + off)

/-- The epoch's item status is a fault (R13). -/
def isFault (status : Nat) : Bool := status == 1

/-- The SINK ends of an ended epoch, which the commit unit keeps, go back as credits (R254). -/
def State.returnSinks (s : State) (p : Pipe) (pipe : Nat) (e : B32) : State :=
  p.sides.foldl (fun s sd => (upTo p.stages.length).foldl (fun s i =>
    match p.stage i with
    | some st => if st.kind = .sink then (p.edgesInto i).foldl (fun s ed => s.returnEpoch p pipe sd ed e) s else s
    | none => s) s) s

/-- The first cause for an epoch: it is recorded, admission is held, and WITHDRAW goes to every unit of the
pipeline (R254). A later fault turns the status to DISCARDED_FAULT (R256). An epoch in COMMITTING or after is
not touched (R252). -/
def State.endLocal (s : State) (e : B32) (status : Nat) : State :=
  match s.epochRec e with
  | none => s
  | some r =>
    match r.state with
    | .admitted | .running | .staged =>
      let p := s.pipe r.pipe
      let s := (s.setEpoch e { r with state := .ending, cause := status, status := status }).setBit (kPipe r.pipe 0) 2 true
      let s := s.returnSinks p r.pipe e
      p.workers.foldl (fun s w => s.sendWord p 0x8000 w.2 (mkWord 0 r.pipe w.1 wWithdraw 0 e)) s
    | .ending => if isFault status then s.setEpoch e { r with status := 1 } else s
    | .committing | .committed | .ended => s

/-- A cause that arises on a hosting device: a REPORT of the failing status takes it to the commit unit (log entry
112), and once a WITHDRAW has come a fault still does (R256). -/
def State.hostFail (s : State) (p : Pipe) (pipe : Nat) (e : B32) (status : Nat) : State :=
  match s.localWorkers p with
  | w :: _ =>
    if s.epochLive e || (isFault status && s.epochState e == some .ending) then s.sendReport pipe w.1 w.2 status e else s
  | [] => s

/-- A cause for an epoch: on a device pair the first one also sends a WITHDRAW to the twin device. Between
the two devices the word names the pair by the primary's number, which the twin knows from the SOURCE
messages (log entry 31). -/
def State.endCause (s : State) (e : B32) (status : Nat) : State :=
  match s.epochRec e with
  | none => s
  | some r =>
    let p := s.pipe r.pipe
    if p.hosted s.boot.dev then s.hostFail p r.pipe e status
    else
      let s1 := s.endLocal e status
      match p.bind with
      | some b =>
        if s.epochLive e && b.twinDevK && p.paired then
          s1.sendFlow 0x8000 b.twinDev (mkWord 0 r.pipe b.primary wWithdraw 0 (if b.primary then e else r.peer.getD e)) false
        else s1
      | none => s1

/-- No slot of any edge of the pipeline is held for the epoch, and no word of it is in flight (R255). -/
def State.rebalanced (s : State) (p : Pipe) (pipe : Nat) (e : B32) : Bool :=
  p.sides.all (fun sd => (upTo p.edges.length).all (fun i =>
    let b := s.book (bookKey pipe sd i)
    b.prod.all (fun x => match x with | .writing e' _ => e' != e | _ => true) &&
    b.cons.all (fun x => match x with | .token e' => e' != e | .reading e' _ => e' != e | .empty => true))) &&
  s.commit.flight.all (fun f => !(wPipe f.word == pipe && wEpoch f.word == e && wKind f.word != wReport))

/-- No transfer of the epoch is outstanding on any tile (R255). -/
def State.drained (s : State) (e : B32) : Bool :=
  s.tiles.all (fun t => t.2.xfers.all (fun x => x.step.epoch != e))

/-- The cluster of a stage's unit here: its physical tile's, its Stem engine's, or for a Spectral unit the
first cluster of its die (log entry 39). -/
def State.clusterOf (s : State) (p : Pipe) (stage : Nat) (side : Bool) : Option Nat :=
  match p.stage stage, p.bind with
  | some st, some b =>
    if s.stageDev p stage = s.boot.dev then
      match st.kind with
      | .tile => ((p.logical st side).bind s.physOf).map (· / 10)
      | .stem => b.stemOf side st.unit
      | .spectral => (b.spcOf side st.unit).map (2 * ·)
      | _ => none
    else none
  | _, _ => none

/-- An epoch boundary on every cluster where the pipeline has a stage: an audit is due (R263), unless no core executes
(R266). -/
def State.boundary (s : State) (p : Pipe) : State :=
  if s.auditsRun then
    let cs := p.sides.flatMap (fun sd => (upTo p.stages.length).filterMap (fun i => s.clusterOf p i sd))
    cs.foldl (fun s c => s.setCluster c { s.cluster c with audit := true }) s
  else s

/-- Audits that are due lapse once no core executes: the first boundary after execution resumes calls for the next
(R266). -/
def State.stopAudits (s : State) : State :=
  if s.auditsRun then s
  else (upTo 8).foldl (fun (s : State) c => s.setCluster c { s.cluster c with audit := false }) s

/-- A DISCARDED_FAULT leaves a Blotter entry (R257). One that no entry names so far (a fault of the twin device, an answer
of a peer) gets an entry of class 0x13 with the commit unit's code: DESIGN CHOICE (log entry 111). -/
def State.noteEnd (s : State) (e : B32) (r : Epoch) : State :=
  if isFault r.status && !r.noted then s.fault { mkFault 0x13 1 0x8000 0 with epoch := some (e, r.pipe) } else s

/-- A hosted epoch has ended here: the REPORTs of its stages go on as acknowledgements (R254, R255). -/
def State.endHosted (s : State) (p : Pipe) (e : B32) (r : Epoch) : State :=
  let s := (s.localWorkers p).foldl (fun (s : State) w => s.sendFlow (s.unitCode p w.2 w.1) (p.home s.boot.dev)
    (mkWord w.2 r.pipe w.1 wReport r.status e) true) s
  ((s.dropEpoch e).noteGone r.pipe e).boundary p

/-- ENDED (R255, R257): counted, the host sample's one entry or the camera frames' drop counts, the books'
hold on admission released. On a hosting device, once its part is balanced and its transfers have completed, the
acknowledgements of its stages go to the commit unit and the epoch is over. -/
def State.tryEnd (s : State) (e : B32) : State :=
  match s.epochRec e with
  | none => s
  | some r =>
    let p := s.pipe r.pipe
    if r.state = .ending ∧ (s.ackers p).all (fun w => r.acks.contains w) ∧ s.rebalanced p r.pipe e ∧ s.drained e then
      if p.hosted s.boot.dev then s.endHosted p e r
      else
      let s := ((s.noteEnd e r).dropEpoch e).boundary p
      let s := s.addWrap (kPipe r.pipe 8) 1
      let s := if isFault r.status then s.addWrap (kPipe r.pipe 0xC) 1 else s
      let s := s.setFld (kPipe r.pipe 0) 3 7 (s.fld (kPipe r.pipe 0) 3 7 - 1)
      let s := if s.commit.epochs.any (fun x => x.2.pipe == r.pipe && x.2.state == .ending) then s
               else s.setBit (kPipe r.pipe 0) 2 false
      let s := s.dropFrames r.sample.frames (if isFault r.status then 4 else 5)
      match r.sample.iring with
      | some i => s.dueEntry r.sample.rring { mkEntry r.status i r.sample.word r.sample.tag with iring := some i }
      | none => s
    else s

/-- A staged count is kept with the epoch until its commit (R249). -/
def State.stageCount (s : State) (e : B32) (l : List StagedCount) : State :=
  match s.epochRec e with
  | some r => s.setEpoch e { r with counts := r.counts ++ l }
  | none => s

def State.stageClamps (s : State) (e : B32) (tile : Nat) (l : List (Nat × Nat)) : State :=
  match s.epochRec e with
  | some r => s.setEpoch e { r with clamps := r.clamps ++ l.map (fun x => ⟨tile, x.1, x.2⟩) }
  | none => s

/-- A step of a stage fails: the end cause, and a REPORT with the failing status (R241, R253); on a hosting device the
REPORT alone. -/
def State.failStep (s : State) (st : StepRef) (status : Nat) : State :=
  (if (s.pipe st.pipe).hosted s.boot.dev then s
   else s.endCause st.epoch (if isFault status then 1 else 2)).sendReport st.pipe st.side st.stage status st.epoch

end Sys2Proof.Machine
end

