-- ==== Sys2Proof/Machine/Hostif.lean ====
section
/-!
DEFINITION. The host interface (chapter 12): intake and result rings, MSI-X, heartbeat and host-absent mode,
BAR2, the buffer table, Function Level Reset and the PCIe link. A command that a register write starts
carries the word written; what a read of host memory returns is its operand, `none` for a failed read.
-/
namespace Sys2Proof.Machine

/-! ## The PCIe function (R387, R388) -/

/-- Class code, device ID, and the subsystem ID of the two variants (Table 12-1). -/
def pcieClass : Nat := 0x1200
def pcieDevice : Nat := 0x4864
def pcieSubsystem (rk : Bool) : Nat := if rk then 2 else 1

/-- ASPM L1 is entered only while no intake ring is enabled. -/
def State.mayEnterL1 (s : State) : Bool := (upTo 256).all (fun i => !s.bit (kIr i 8) 0)

/-! ## Host memory reads that fail, index words, MSI-X -/

/-- R406: a failed host-memory read is counted. -/
def State.hdmaErr (s : State) : State := s.addSat (kHst 0x38) 1

/-- A 4-byte index word posted to host memory. -/
def State.postWord (s : State) (kAddr : Nat) (v : B32) : State :=
  s.postHost (s.reg64 kAddr) (natToBytes v.toNat 4)

/-- R412, R415: a vector's message, its pending bit while it is masked, nothing while host-absent. -/
def State.sendMsix (s : State) (vec : Nat) : State :=
  if s.hostAbsent then s
  else if s.bit (kMsix vec 0xC) 0 then s.setBit (kPba + 4 * (vec / 32)) (vec % 32) true
  else s.postHost (s.reg64 (kMsix vec 0)) (natToBytes (s.reg (kMsix vec 8)).toNat 4)

/-! ## Host-absent mode -/

/-- The devices that this home serves, itself apart (R440). -/
def State.served (s : State) : List Nat :=
  (upTo 128).filter (fun d => s.inTorus d && d != s.boot.dev && s.boot.scroll.homes[d]? == some s.boot.dev)

/-- They are told that their home has entered host-absent mode (R441). -/
def State.tellAbsent (s : State) : State :=
  if s.isHome then s.served.foldl (fun (s : State) d => s.sendCtrl hostOrigin d ctrlAbsent (natToBytes 3 8)) s else s

/-- Entry into host-absent mode (R414, R415): the cause and the time, and every waiting entry dropped and
counted. -/
def State.enterAbsent (s : State) (cause : Nat) : State :=
  let s := (s.setFld (kHst 8) 0 3 (1 + 2 * cause)).setReg64 (kHst 0x10) s.timeNs
  let s : State := { s with host := { s.host with fetches := [] } }
  let s := s.tellAbsent
  (upTo 256).foldl (fun s j =>
    let r := s.rring j
    let s := s.setRring j { r with waiting := [], base := s.reg (kRr j 0x2C) }
    let s := if s.fld (kRr j 0x24) 0 2 = 2 then s.setFld (kRr j 0x24) 0 2 1 else s
    r.waiting.foldl (fun s e => ((s.addSat (kRr j 0x2C) 1).addSat (kHst 0x18) 1).entryDone e) s) s

/-- A REATTACH entry of ring `j` (Table 12-6). -/
def State.reattachEntry (s : State) (j : Nat) : ResEntry :=
  ⟨4, 0, 0, false, 0, BitVec.ofNat 64 (s.fld (kHst 8) 1 2), 0, 0, 0, 0, s.reg (kRr j 0x2C) - (s.rring j).base, [],
   none, none⟩

/-! ## Intake rings -/

def State.irState (s : State) (i : Nat) : Nat := s.fld (kIr i 0xC) 0 2
def State.setIrState (s : State) (i st : Nat) : State := s.setFld (kIr i 0xC) 0 2 st
def State.setIrErr (s : State) (i e : Nat) : State := s.setFld (kIr i 0xC) 8 8 e


/-- Every edge of a SOURCE stage has a credit on every side this device runs: the lowest free slot of each. -/
def State.sourceSlots (s : State) (pipe port : Nat) : Option (List (Bool × Nat × Nat)) :=
  let p := s.pipe pipe
  match p.stages.findIdx? (fun st => st.kind == .source && st.unit == port) with
  | none => none
  | some st =>
    let es := p.edgesFrom st
    if es.isEmpty then none
    else (p.sides.flatMap (fun sd => es.map (fun e => (sd, e)))).foldr (fun x acc =>
      match acc, (s.book (bookKey pipe x.1 x.2)).free with
      | some l, some i => some ((x.1, x.2, i) :: l)
      | _, _ => none) (some [])

/-- Slots of a SOURCE enter a state. -/
def State.markSlots (s : State) (pipe : Nat) (slots : List (Bool × Nat × Nat)) (x : PSlot) : State :=
  slots.foldl (fun s es =>
    let k := bookKey pipe es.1 es.2.1
    let b := s.book k
    s.setBook k { b with prod := b.prod.set es.2.2 x }) s

/-- Slots of a SOURCE taken for an item on its way. -/
def State.fillSlots (s : State) (pipe : Nat) (slots : List (Bool × Nat × Nat)) : State := s.markSlots pipe slots .filling

/-- Slots of a SOURCE returned to it as credits: the item ended before admission (R405). -/
def State.unfillSlots (s : State) (pipe : Nat) (slots : List (Bool × Nat × Nat)) : State := s.markSlots pipe slots .held

/-- max_au_bytes of a decode context (R310); 0 where there is none. -/
def State.maxAu (s : State) (ctx : Nat) : Nat := ((SMap.get Ctx.idle s.vid.ctxs ctx).desc).elim 0 (·.maxAu)

/-- Access units a context has read and not started (R401): those from whose frames none has been started. -/
def State.auCount (s : State) (ctx : Nat) : Nat := (s.vid.units.filter (fun u => u.ctx == ctx && !u.begun)).length

/-- The ring's target can take another item (R401). -/
def State.canTake (s : State) (t : Target) : Bool :=
  match t with
  | .tensor p port => (s.sourceSlots p port).isSome
  | .au c => decide (s.auCount c < 16)

/-- The next descriptor read issues when there is one and the target can take it (R401, R415). -/
def State.irNext (s : State) (i : Nat) : State :=
  let r := s.iring i
  match r.target with
  | some t =>
    if s.irState i = 1 ∧ !s.hostAbsent ∧ !r.asked ∧ r.desc = none ∧ s.reg (kIr i 0x20) ≠ r.prod ∧ s.canTake t then
      s.setIring i { r with asked := true }
    else s
  | none => s

/-- A halt (R402, R406): cfg_err, state halted, and one RING_ERROR entry on the ring's result ring. -/
def State.irHalt (s : State) (i status : Nat) (prod : B32) : State :=
  let s := (s.setIrState i 3).setIrErr i status
  let s := s.setIring i { s.iring i with polled := false, asked := false }
  s.dueEntry (s.fld (kIr i 8) 8 8)
    ⟨3, status, 0, false, 0, 0, i, 0, 0, 0, prod, [], none, none⟩

/-- The consumer index passes a descriptor (R401). One that was read before a Function Level Reset has no place in the
ring's new indices (R390). -/
def State.irAdvance (s : State) (i : Nat) (stale : Bool) : State :=
  if stale then s
  else
  let s := s.addWrap (kIr i 0x20) 1
  let s := s.addWrap (kIr i 0x24) 1
  s.postWord (kIr i 0x18) (s.reg (kIr i 0x20))

/-- An access unit that ends before its context reads it counts by its status (VID_CTX_ST). -/
def State.countUnit (s : State) (t : Option Target) (status : Nat) : State :=
  match t with
  | some (.au c) =>
    if status = 0x12 then s.addSat (kVid (0x14 + 0x40 * c)) 1
    else if status = 0x10 ∨ status = 0x13 then s.addSat (kVid (0x18 + 0x40 * c)) 1
    else if status = 1 then s.addSat (kVid (0x24 + 0x40 * c)) 1
    else s
  | _ => s

/-- A sample of the ring ends before admission with a status: one RESULT entry without payload on result ring `rr`
(R404). -/
def State.irFail (s : State) (i rr status : Nat) (sample : B64) (tag : B32) : State :=
  let s := s.countUnit (s.iring i).target status
  let stale := ((s.iring i).desc).any (·.stale)
  let s := s.setIring i { s.iring i with desc := none, open_ := (s.iring i).open_ + 1 }
  let s := s.irAdvance i stale
  let s := s.dueEntry rr { mkEntry status i sample tag with iring := some i }
  s.irNext i

/-- The status of the first failing check of an enable, `v` the word written to IR_CFG (R398). -/
def State.irRefuses (s : State) (i : Nat) (v : B32) : Option Nat :=
  let n := v.toNat
  if bitsOf n 6 2 ≠ 0 ∨ bitsOf n 26 6 ≠ 0 then some 0x12
  else if (s.iring i).target = none ∨ (s.reg64 (kIr i 0)).toNat % 64 ≠ 0 ∨ bitsOf n 1 5 = 0 ∨ 16 < bitsOf n 1 5 ∨
      bitsOf n 16 10 = 0 ∨ 1000 < bitsOf n 16 10 ∨ (s.reg64 (kIr i 0x10)).toNat % 4 ≠ 0 ∨
      (s.reg64 (kIr i 0x18)).toNat % 4 ≠ 0 ∨ !(s.bit (kRr (bitsOf n 8 8) 8) 0) then some 0x13
  else none

/-- The read of the producer word that an enable makes has ended: the ring starts empty, or stays disabled (R398). -/
def State.irLoad (s : State) (i : Nat) (prod : Option B32) : State :=
  let s := s.setIring i { s.iring i with enabling := false }
  match prod with
  | none => s.hdmaErr.setIrErr i 2
  | some p =>
    let s := (s.setBit (kIr i 8) 0 true).setReg (kIr i 0x20) p
    let s := (s.setIrErr i 0).setIrState i 1
    let s := s.setIring i { s.iring i with prod := p, polled := false, asked := false }
    s.postWord (kIr i 0x18) p

/-- A register write of enable 1 to a disabled ring: the fields of the same write are stored (R7), the control block
is checked, and the read of the producer word issues; what it returns comes with IR_PRODUCER_RETURN. -/
def State.irStart (s : State) (i : Nat) (v : B32) : State :=
  let s := s.setReg (kIr i 8) (v &&& 0x03FFFF3E)
  match s.irRefuses i v with
  | some e => s.setIrErr i e
  | none => if s.hostPath then s.setIring i { s.iring i with enabling := true } else s.irLoad i none

/-- IR_ENABLE (R398): `v` is the word written to IR_CFG, `prod` what the read of the producer word returns; where the home
makes the read, it is outstanding (R441). -/
def execIrEnable (i : Nat) (v : B32) (prod : Option B32) (s : State) : Out :=
  attempt (if s.awake ∧ i < 256 ∧ v.getLsbD 0 ∧ !(s.bit (kIr i 8) 0) ∧ s.irState i = 0 ∧ !(s.iring i).enabling then
    let s := s.setReg (kIr i 8) (v &&& 0x03FFFF3E)
    some (match s.irRefuses i v with
      | some e => s.setIrErr i e
      | none => if s.isHome then s.irLoad i (if s.hostPath then prod else none) else s.irStart i v)
    else none) s

/-- IR_DISABLE (R399): descriptor reads stop and the ring drains. -/
def execIrDisable (i : Nat) (v : B32) (s : State) : Out :=
  attempt (if s.awake ∧ i < 256 ∧ !(v.getLsbD 0) ∧ s.bit (kIr i 8) 0 ∧ (s.irState i = 1 ∨ s.irState i = 3) then
    some (((s.setBit (kIr i 8) 0 false).setIrState i 2).setIring i { s.iring i with polled := false, asked := false })
    else none) s

/-- IR_DRAIN_DONE (R399): every sample read has its entry written or dropped. -/
def execIrDrainDone (i : Nat) (s : State) : Out :=
  attempt (if s.awake ∧ i < 256 ∧ s.irState i = 2 ∧ (s.iring i).open_ = 0 ∧ (s.iring i).desc = none then
    some (s.setIrState i 0) else none) s

/-- IR_POLL (R400): the ring's period has passed and the read of its producer word issues; with no link it
fails at once (R406). -/
def execIrPoll (i : Nat) (s : State) : Out :=
  attempt (if s.awake ∧ i < 256 ∧ s.irState i = 1 ∧ !s.hostAbsent then
    some (if s.hostPath then s.setIring i { s.iring i with polled := true } else s.hdmaErr.irHalt i 2 0)
    else none) s

/-- The producer word of a poll: descriptors up to it may be read, or the ring halts (R401, R402, R406). -/
def State.irPolled (s : State) (i : Nat) (prod : Option B32) : State :=
  match prod with
  | none => s.hdmaErr.irHalt i 2 0
  | some p =>
    if 2 ^ s.fld (kIr i 8) 1 5 < (p - s.reg (kIr i 0x20)).toNat then s.irHalt i 0x13 p
    else (s.setIring i { s.iring i with prod := p, polled := false }).irNext i

/-- IR_PRODUCER_RETURN (R398, R401, R402, R406). -/
def execIrProducerReturn (i : Nat) (prod : Option B32) (s : State) : Out :=
  attempt (if s.awake ∧ i < 256 ∧ ((s.iring i).enabling ∨ (s.irState i = 1 ∧ (s.iring i).polled)) then
    let r := s.fetchWord (.producer i) (kIr i 0x10) prod
    some (match r.2 with
      | none => r.1
      | some w => if (s.iring i).enabling then r.1.irLoad i w else r.1.irPolled i w)
    else none) s

/-- Size of a buffer entry in bytes (Table 12-4). -/
def State.bufSize (s : State) (b : Nat) : Nat := (s.reg (kBuf b 8)).toNat + s.fld (kBuf b 0xC) 0 8 * 2 ^ 32

/-- slot_bytes of the first data edge that a SOURCE feeds. -/
def State.sourceBytes (s : State) (pipe port : Nat) : Nat :=
  let p := s.pipe pipe
  match p.stages.findIdx? (fun st => st.kind == .source && st.unit == port) with
  | none => 0
  | some st => (((p.edgesFrom st).filterMap (fun e => p.edge e)).find? (fun e => !e.orderOnly)).elim 0 (·.slotBytes)

/-- The descriptor checks of R404 in their order; `none` when all pass. -/
def State.descStatus (s : State) (t : Target) (d : BitVec 512) : Option Nat :=
  let n := d.toNat
  let tensor := match t with | .tensor _ _ => true | .au _ => false
  let buf := bitsOf n 32 12
  let off := bitsOf n 128 40
  let len := bitsOf n 192 32
  let addr := (s.reg64 (kBuf buf 0)).toNat
  let mem := s.bit (kBuf buf 0xC) 8
  let base := if mem then addr % 2 ^ 40 else addr
  let limit := match t with
    | .tensor p port => s.sourceBytes p port
    | .au c => s.maxAu c
  if bitsOf n 1 31 ≠ 0 ∨ bitsOf n 44 20 ≠ 0 ∨ bitsOf n 168 24 ≠ 0 ∨ bitsOf n 256 256 ≠ 0 ∨
      bitOf n 0 = tensor then some 0x12
  else if len = 0 ∨ !(s.bit (kBuf buf 0xC) 31) ∨
      (if mem then localTop else 2 ^ 64 - 1) < base + off + len - 1 then some 0x13
  else if s.bufSize buf < off + len ∨ limit < len then some 0x10
  else none

/-- A descriptor has come: it is checked, its buffer entry latched, and the read of its data issues (R396, R404). -/
def State.irDescriptor (s : State) (i : Nat) (desc : Option (BitVec 512)) : State :=
    match desc, (s.iring i).target with
    | some d, some t =>
      let n := d.toNat
      let sample := BitVec.ofNat 64 (bitsOf n 64 64)
      let tag := BitVec.ofNat 32 (bitsOf n 224 32)
      let s := s.setIring i { s.iring i with asked := false }
      match s.descStatus t d with
      | some st => s.irFail i (s.fld (kIr i 8) 8 8) st sample tag
      | none =>
        let buf := bitsOf n 32 12
        let mem := s.bit (kBuf buf 0xC) 8
        let addr := (s.reg64 (kBuf buf 0)).toNat
        let base := (if mem then addr % 2 ^ 40 else addr) + bitsOf n 128 40
        let slots := match t with
          | .tensor p port => (s.sourceSlots p port).getD []
          | .au _ => []
        let s := match t with
          | .tensor p _ => s.fillSlots p slots
          | .au _ => s
        s.setIring i { s.iring i with desc := some ⟨sample, tag, base, bitsOf n 192 32, mem, slots, s.fld (kIr i 8) 8 8, false⟩ }
    | _, _ => s.hdmaErr.irHalt i 2 0

/-- Address of the next descriptor of a ring (R401). -/
def State.irDescAt (s : State) (i : Nat) : Nat :=
  (s.reg64 (kIr i 0)).toNat + 64 * ((s.reg (kIr i 0x20)).toNat % 2 ^ s.fld (kIr i 8) 1 5)

/-- IR_DESCRIPTOR_RETURN (R396, R404, R406, R441). -/
def execIrDescriptorReturn (i : Nat) (desc : Option (BitVec 512)) (s : State) : Out :=
  attempt (if s.awake ∧ i < 256 ∧ s.irState i = 1 ∧ (s.iring i).asked then
    let r := s.hostFetch (.desc i) (s.irDescAt i) 64 (desc.map (fun d => natToBytes d.toNat 64))
    some (match r.2 with
      | none => r.1
      | some l => r.1.irDescriptor i (l.map (fun b => BitVec.ofNat 512 (bytesToNat b))))
    else none) s

/-- Address of a slot of an edge in its SCRATCH buffer on a side (R231, Table 07-6). -/
def Pipe.slotAddr (p : Pipe) (side : Bool) (edge slot : Nat) : Option Nat :=
  match p.edge edge with
  | none => none
  | some e =>
    match p.bufs[e.buffer]? with
    | none => none
    | some b =>
      let base := if b.kind = 1 then b.sbase else
        match p.bind with
        | some bd => match bd.bases[e.buffer]? with
          | some x => if side then x.2 else x.1
          | none => 0
        | none => 0
      some (base + e.slot0 + slot * e.slotBytes)

/-- A write of the item into every SOURCE slot, zero-padded to a multiple of 64, as the commit unit,
side 0 (R405); the first failing status. -/
def State.writeSlots (s : State) (pipe : Nat) (slots : List (Bool × Nat × Nat)) (data : List Byte) : State × Nat :=
  let p := s.pipe pipe
  let bytes := data ++ List.replicate (ceilDiv data.length 64 * 64 - data.length) 0
  slots.foldl (fun acc j =>
    if acc.2 ≠ 0 then acc
    else match p.edge j.2.1, p.slotAddr j.1 j.2.1 j.2.2 with
      | some e, some a =>
        if e.orderOnly then acc
        else
          let r := acc.1.memAccess ⟨rqCommit, true, a, 0, bytes, false⟩ none
          (r.1, r.2.1)
      | _, _ => acc) (s, 0)

/-- A slot of the list that an item of `n` bytes fills lies in a page that is being copied (R363). -/
def State.slotsWait (s : State) (pipe : Nat) (slots : List (Bool × Nat × Nat)) (n : Nat) : Bool :=
  slots.any (fun es => ((s.pipe pipe).slotAddr es.1 es.2.1 es.2.2).any (fun a => s.pageBusy a (ceilDiv n 64 * 64)))

/-- A SOURCE slot that the item will fill, or the device memory it comes from, lies in a page that is being copied
(R363). -/
def State.itemWaits (s : State) (t : Target) (d : IrDesc) : Bool :=
  (d.mem && s.pageBusy d.addr d.length) ||
  (match t with
    | .tensor p _ => s.slotsWait p d.slots d.length
    | .au _ => false)

/-- A token a SOURCE holds for a new sample (R246). -/
def State.pushSource (s : State) (pipe port : Nat) (t : SrcTok) : State :=
  let k := pipe * 8 + port
  let q := SMap.get (fun _ => ([] : List SrcTok)) s.commit.srcq k
  { s with commit := { s.commit with srcq := SMap.set (fun _ => []) s.commit.srcq k (q ++ [t]) } }

/-- R519: an item of a stopped pipeline is completed at once, without an epoch: counted in END and FAULT,
its slots freed, a host sample's one entry, its frames in cause 4. -/
def State.completeStopped (s : State) (pipe : Nat) (slots : List (Bool × Nat × Nat)) (sm : Sample) : State :=
  let s := s.unfillSlots pipe slots
  let s := (s.addWrap (kPipe pipe 8) 1).addWrap (kPipe pipe 0xC) 1
  let s := s.dropFrames sm.frames 4
  match sm.iring with
  | some i => s.dueEntry sm.rring { mkEntry 1 i sm.word sm.tag with iring := some i }
  | none => s

/-- A host access of device memory (R392, R405): an address above 0x2C_FFFF_FFFF is unmapped (R33). -/
def State.hostWindow (s : State) (write : Bool) (a len : Nat) (data : List Byte) : State × Nat × List Byte :=
  let n := if write then data.length else len
  if n ≠ 0 ∧ a + n - 1 ≤ localTop ∧ hbmTop ≤ a + n - 1 then
    (s.violation rqHost write (max (a / 64 * 64) hbmTop) ⟨1, 1, 0x30, none⟩, 0x30, [])
  else s.memAccess ⟨rqHost, write, a, len, data, false⟩ none

/-- An item's bytes, or the status with which their read ended: they go into the SOURCE slots, or to the context's parser
(R401, R405). -/
def State.irItem (s : State) (i : Nat) (t : Target) (d : IrDesc) (status : Nat) (data : List Byte) : State :=
  let back (s : State) : State := match t with
    | .tensor p _ => s.unfillSlots p d.slots
    | .au _ => s
  if status ≠ 0 then (back s).irFail i d.rring status d.sample d.tag
  else
    let sm : Sample := ⟨2, d.sample, [], some i, d.rring, d.tag, 0, 0, s.timeNs⟩
    let w : State × Nat := match t with
      | .tensor p _ => s.writeSlots p d.slots data
      | .au _ => (s, 0)
    if w.2 ≠ 0 then (back w.1).irFail i d.rring w.2 d.sample d.tag
    else
      let s := w.1.setIring i { w.1.iring i with desc := none, open_ := (w.1.iring i).open_ + 1 }
      let s := match t with
        | .tensor p port => if (s.pipe p).stopped then s.completeStopped p d.slots sm
                            else s.pushSource p port ⟨d.slots, sm, [], [], d.length, none⟩
        | .au c => { s with vid := { s.vid with
            units := s.vid.units ++ [(⟨c, data, sm, false, false, 0, 0, none, false, false⟩ : AuUnit)] } }
      (s.irAdvance i d.stale).irNext i

/-- IR_DATA_RETURN (R401, R405, R406, R441): the item's data has come. Data of a device-memory buffer is read
here, as the host. -/
def execIrDataReturn (i : Nat) (data : Option (List Byte)) (s : State) : Out :=
  attempt (if s.awake ∧ i < 256 then
    match (s.iring i).desc, (s.iring i).target with
    | some d, some t =>
      if s.itemWaits t d then none
      else if d.mem then
        let r := s.hostWindow false d.addr d.length []
        some (r.1.irItem i t d r.2.1 r.2.2)
      else
        let r := s.hostFetch (.data i) d.addr d.length data
        some (match r.2 with
          | none => r.1
          | some (some b) => if b.length = d.length then r.1.irItem i t d 0 b else r.1.hdmaErr.irItem i t d 2 []
          | some none => r.1.hdmaErr.irItem i t d 2 [])
    | _, _ => none
    else none) s

/-! ## Result rings -/

/-- The bytes of an entry header (Table 12-6). -/
def State.entryHeader (s : State) (e : ResEntry) (units : Nat) (seq : B32) : List Byte :=
  natToBytes e.kind 1 ++ natToBytes e.status 1 ++ natToBytes (e.src + 4 * b2n e.noOut) 1 ++ natToBytes e.skind 1 ++
  natToBytes units 4 ++ natToBytes e.sample.toNat 8 ++ natToBytes e.origin 1 ++ natToBytes e.sink 1 ++
  natToBytes 0 2 ++ natToBytes e.stream.toNat 4 ++ natToBytes e.tag.toNat 4 ++ natToBytes seq.toNat 4 ++
  natToBytes s.timeNs.toNat 8 ++ natToBytes e.dropped.toNat 4 ++ natToBytes 0 4 ++
  natToBytes (if e.kind = 4 then (s.reg64 (kHst 0x10)).toNat else 0) 8 ++
  natToBytes (if e.kind = 4 then s.host.attachAt.toNat else 0) 8

/-- A PAD header (R409): no entry of its own, it carries the current seq (log entry 21). -/
def padEntry : ResEntry := ⟨2, 0, 0, false, 0, 0, 0, 0, 0, 0, 0, [], none, none⟩

/-- Units of an entry, units of the PAD before it, and its unit in the area (R409). -/
def State.rrPlace (s : State) (j : Nat) (e : ResEntry) : Nat × Nat × Nat :=
  let n := 2 ^ s.fld (kRr j 8) 1 5
  let pos := (s.reg (kRr j 0x20)).toNat % n
  let units := 1 + ceilDiv e.payload.length 64
  if n - pos < units then (units, n - pos, 0) else (units, 0, pos)

/-- Free units 2^n - (P - C). -/
def State.rrFree (s : State) (j : Nat) : Nat :=
  2 ^ s.fld (kRr j 8) 1 5 - (s.reg (kRr j 0x20) - (s.rring j).cons).toNat

/-- The messages due after an entry (R412). -/
def State.rrModerate (s : State) (j : Nat) : State :=
  let r := s.rring j
  let s := s.setRring j { r with since := r.since + 1, firstAt := if r.since = 0 then s.elapsed.toNat else r.firstAt }
  let cnt := s.fld (kRr j 0xC) 0 16
  if cnt ≠ 0 ∧ cnt ≤ r.since + 1 then
    (s.setRring j { s.rring j with since := 0 }).sendMsix (s.fld (kRr j 8) 8 6)
  else s

/-- An entry written: PAD, payload, header, producer word (R409), then the interrupt (R412), the ring poll
of R400, and what the entry frees. -/
def State.rrWrite (s : State) (j : Nat) (e : ResEntry) : State :=
  let pl := s.rrPlace j e
  let base := s.reg64 (kRr j 0)
  let pos := (s.reg (kRr j 0x20)).toNat % 2 ^ s.fld (kRr j 8) 1 5
  let seq := s.reg (kRr j 0x28) + 1
  let s := if pl.2.1 = 0 then s else
    s.postHost (base + BitVec.ofNat 64 (64 * pos)) (s.entryHeader padEntry pl.2.1 (s.reg (kRr j 0x28)))
  let at_ := base + BitVec.ofNat 64 (64 * pl.2.2)
  let pay := e.payload ++ List.replicate (ceilDiv e.payload.length 64 * 64 - e.payload.length) 0
  let s := if pay.isEmpty then s else s.postHost (at_ + 64) pay
  let s := s.postHost at_ (s.entryHeader e pl.1 seq)
  let s := (s.addWrap (kRr j 0x20) (pl.1 + pl.2.1)).setReg (kRr j 0x28) seq
  let s := s.postWord (kRr j 0x10) (s.reg (kRr j 0x20))
  let s := s.rrModerate j
  let s := match e.iring with
    | some i => if s.irState i = 1 ∧ !s.hostAbsent then s.setIring i { s.iring i with polled := true } else s
    | none => s
  s.entryDone e

/-- RR_ENTRY_WRITE (R407 to R410): the oldest waiting entry is written when free units cover it and any PAD;
otherwise the ring waits for space. -/
def execRrEntryWrite (j : Nat) (s : State) : Out :=
  attempt (if s.awake ∧ j < 256 ∧ s.bit (kRr j 8) 0 ∧ !s.hostAbsent then
    match (s.rring j).waiting with
    | [] => none
    | e :: es =>
      let pl := s.rrPlace j e
      if pl.1 + pl.2.1 ≤ s.rrFree j then
        some (((s.setRring j { s.rring j with waiting := es }).setFld (kRr j 0x24) 0 2 1).rrWrite j e)
      else some (s.setFld (kRr j 0x24) 0 2 2)
    else none) s

/-- Free entries of the event ring. -/
def State.evtFree (s : State) : Nat := 2 ^ s.fld (kQcx 0x308) 1 5 - (s.host.evProd - s.host.evCons).toNat

/-- The read of the consumer word that an enable makes has ended: the ring runs, or stays disabled (R411). -/
def State.rrLoad (s : State) (j : Nat) (cons : Option B32) : State :=
  let s := s.setRring j { s.rring j with enabling := false }
  match cons with
  | none => s.hdmaErr.setFld (kRr j 0x24) 8 8 2
  | some c =>
    let s := (s.setBit (kRr j 8) 0 true).setReg (kRr j 0x20) c
    let s := s.setFld (kRr j 0x24) 0 2 1
    let s := s.setRring j { s.rring j with cons := c, since := 0 }
    s.postWord (kRr j 0x10) c

/-- The same of the event ring (R479). -/
def State.evtLoad (s : State) (cons : Option B32) : State :=
  let s : State := { s with host := { s.host with evEnabling := false } }
  match cons with
  | none => s.hdmaErr.setFld (kQcx 0x308) 8 8 2
  | some c =>
    let s := s.setBit (kQcx 0x308) 0 true
    let s : State := { s with host := { s.host with evProd := c, evCons := c, evSince := 0 } }
    s.postWord (kQcx 0x310) c

/-- A re-read of a result ring's consumer word: a value that would leave P - C above 2^n is ignored and sets cons_bad; a
failed read leaves the value (R410; R406 counts it). -/
def State.rrReread (s : State) (j : Nat) (cons : Option B32) : State :=
  match cons with
  | none => s.hdmaErr
  | some c =>
    if 2 ^ s.fld (kRr j 8) 1 5 < (s.reg (kRr j 0x20) - c).toNat then s.setBit (kRr j 0x24) 2 true
    else s.setRring j { s.rring j with cons := c }

/-- The same of the event ring (R479), which has no cons_bad. -/
def State.evtReread (s : State) (cons : Option B32) : State :=
  match cons with
  | none => s.hdmaErr
  | some c =>
    if 2 ^ s.fld (kQcx 0x308) 1 5 < (s.host.evProd - c).toNat then s
    else { s with host := { s.host with evCons := c } }

/-- The consumer word of ring `j` is to be read: an enable has asked for it, or an entry waits for space. Ring 256 stands
for the event ring. -/
def State.consAsked (s : State) (j : Nat) : Bool :=
  if j = 256 then s.host.evEnabling || (s.bit (kQcx 0x308) 0 && !s.host.evHeld.isEmpty && s.evtFree == 0)
  else decide (j < 256) && ((s.rring j).enabling || (s.bit (kRr j 8) 0 && s.fld (kRr j 0x24) 0 2 == 2))

/-- Key of a ring's consumer word address. -/
def kCons (j : Nat) : Nat := if j = 256 then kQcx 0x318 else kRr j 0x18

/-- RR_CONSUMER_REREAD (R398, R410, R411, R441, R479). -/
def execRrConsumerReread (j : Nat) (cons : Option B32) (s : State) : Out :=
  attempt (if s.awake ∧ s.consAsked j then
    let r := s.fetchWord (.consumer j) (kCons j) cons
    some (match r.2 with
      | none => r.1
      | some w =>
        if j = 256 then (if s.host.evEnabling then r.1.evtLoad w else r.1.evtReread w)
        else if (s.rring j).enabling then r.1.rrLoad j w else r.1.rrReread j w)
    else none) s

/-- Units of the largest entry of any SINK bound to ring `j` (R411). -/
def State.largestEntry (s : State) (j : Nat) : Nat :=
  s.pipes.foldl (fun m pe =>
    let p := pe.2
    match p.bind with
    | none => m
    | some b =>
      (upTo p.stages.length).foldl (fun m i =>
        match p.stage i with
        | some st =>
          match b.sinks[st.unit]? with
          | some sk =>
            if st.kind = .sink ∧ sk.bound ∧ sk.ring = j then
              (p.edgesInto i).foldl (fun m e => match p.edge e with
                | some ed => if ed.orderOnly then m else max m (1 + ceilDiv ed.slotBytes 64)
                | none => m) m
            else m
          | none => m
        | none => m) m) 0

/-- The status of the first failing check of an enable, `v` the word written to RR_CFG (R411). -/
def State.rrRefuses (s : State) (j : Nat) (v : B32) : Option Nat :=
  let n := v.toNat
  if bitsOf n 6 2 ≠ 0 ∨ bitsOf n 14 18 ≠ 0 then some 0x12
  else if (s.reg64 (kRr j 0)).toNat % 64 ≠ 0 ∨ bitsOf n 1 5 < 6 ∨ 20 < bitsOf n 1 5 ∨ bitsOf n 8 6 = 0 ∨
      (s.reg64 (kRr j 0x10)).toNat % 4 ≠ 0 ∨ (s.reg64 (kRr j 0x18)).toNat % 4 ≠ 0 ∨
      2 ^ bitsOf n 1 5 < 2 * s.largestEntry j then some 0x13
  else none

/-- A register write of enable 1 to a disabled ring: the fields of the same write are stored (R7), the control block is
checked, and the read of the consumer word issues; what it returns comes with RR_CONSUMER_REREAD. -/
def State.rrStart (s : State) (j : Nat) (v : B32) : State :=
  let s := s.setReg (kRr j 8) (v &&& 0x3F3E)
  match s.rrRefuses j v with
  | some e => s.setFld (kRr j 0x24) 8 8 e
  | none => if s.hostPath then s.setRring j { s.rring j with enabling := true } else s.rrLoad j none

/-- RR_ENABLE (R411): `v` is the word written to RR_CFG, `cons` what the read of the consumer word returns; where the home
makes the read, it is outstanding (R441). -/
def execRrEnable (j : Nat) (v : B32) (cons : Option B32) (s : State) : Out :=
  attempt (if s.awake ∧ j < 256 ∧ v.getLsbD 0 ∧ !(s.bit (kRr j 8) 0) ∧ !(s.rring j).enabling then
    let s := s.setReg (kRr j 8) (v &&& 0x3F3E)
    some (match s.rrRefuses j v with
      | some e => s.setFld (kRr j 0x24) 8 8 e
      | none => if s.isHome then s.rrLoad j (if s.hostPath then cons else none) else s.rrStart j v)
    else none) s

/-- RR_DISABLE (R411): every waiting entry is dropped and counted. -/
def execRrDisable (j : Nat) (v : B32) (s : State) : Out :=
  attempt (if s.awake ∧ j < 256 ∧ !(v.getLsbD 0) ∧ s.bit (kRr j 8) 0 then
    let r := s.rring j
    let s := ((s.setBit (kRr j 8) 0 false).setFld (kRr j 0x24) 0 2 0).setRring j { r with waiting := [], since := 0 }
    some (r.waiting.foldl (fun s e => (s.addSat (kRr j 0x2C) 1).entryDone e) s)
    else none) s

/-- MSIX_MODERATION_EXPIRE (R412): time_us has passed since the first entry after the last message. Ring 256
stands for the event ring and QCX_EVT_MOD (R479). -/
def execMsixModerationExpire (j : Nat) (s : State) : Out :=
  attempt (if s.awake ∧ j < 256 then
      let us := s.fld (kRr j 0xC) 16 16
      if us ≠ 0 ∧ (s.rring j).since ≠ 0 ∧ (s.rring j).firstAt + usTicks us ≤ s.elapsed.toNat then
        some ((s.setRring j { s.rring j with since := 0 }).sendMsix (s.fld (kRr j 8) 8 6))
      else none
    else if s.awake ∧ j = 256 then
      let us := s.fld (kQcx 0x320) 16 16
      if us ≠ 0 ∧ s.host.evSince ≠ 0 ∧ s.host.evFirst + usTicks us ≤ s.elapsed.toNat then
        some (({ s with host := { s.host with evSince := 0 } }).sendMsix 0)
      else none
    else none) s

/-- MSIX_UNMASK (R412): the vector's mask bit is cleared and a pending message sent. -/
def execMsixUnmask (vec : Nat) (s : State) : Out :=
  attempt (if s.awake ∧ vec < 64 ∧ s.bit (kMsix vec 0xC) 0 then
    let k := kPba + 4 * (vec / 32)
    let s := s.setBit (kMsix vec 0xC) 0 false
    some (if s.bit k (vec % 32) then (s.setBit k (vec % 32) false).sendMsix vec else s)
    else none) s

/-! ## Heartbeat, attach, link -/

/-- A heartbeat read has ended (R406, R414): in host-absent mode the word is read while the link is up; any change counts;
unchanged at every read for timeout_ms enters host-absent mode with cause 1. -/
def State.heartbeat (s : State) (word : Option B32) : State :=
  let r : State × B32 := match word with
    | some w => (s, w)
    | none => (s.hdmaErr, s.reg (kHst 0x2C))
  let s := r.1
  if r.2 ≠ s.reg (kHst 0x2C) then
    { s.setReg (kHst 0x2C) r.2 with host := { s.host with hbAt := s.elapsed } }
  else if !s.hostAbsent ∧ msTicks (s.fld (kHst 0x28) 16 14) ≤ (s.elapsed - s.host.hbAt).toNat then s.enterAbsent 1
  else s

/-- HEARTBEAT_READ (R414, R441). -/
def execHeartbeatRead (word : Option B32) (s : State) : Out :=
  attempt (if s.awake ∧ s.bit (kHst 0x28) 0 ∧ (!s.hostAbsent ∨ s.hostLink) then
    let r := s.fetchWord .heartbeat (kHst 0x20) word
    some (match r.2 with
      | none => r.1
      | some w => r.1.heartbeat w)
    else none) s

/-- HOST_DETACH (R414): host-absent mode with cause 2. -/
def execHostDetach (s : State) : Out :=
  attempt (if s.awake ∧ !s.hostAbsent then some (s.enterAbsent 2) else none) s

/-- The attach of R416: a REATTACH entry first on every enabled result ring, intake reads and the heartbeat
timeout from now. -/
def State.attach (s : State) : State :=
  let s1 := (s.setBit (kHst 8) 0 false).setBit (kHst 4) 1 false
  let s1 := { s1 with host := { s1.host with hbAt := s.elapsed, attachAt := s.timeNs } }
  let s1 := (upTo 256).foldl (fun t j =>
    if t.bit (kRr j 8) 0 then
      t.setRring j { t.rring j with waiting := [s.reattachEntry j] ++ (t.rring j).waiting }
    else t) s1
  (upTo 256).foldl (fun t i => t.irNext i) s1

/-- HOST_ATTACH (R416): ignored unless the link is up and Bus Master Enable is 1. -/
def execHostAttach (s : State) : Out :=
  attempt (if s.awake ∧ s.hostAbsent ∧ s.hostPath then some s.attach else none) s

/-- The path to the host goes: cause 3 if the link had been up (R414). -/
def State.pathGone (s : State) : State := if s.awake ∧ s.host.seenUp ∧ !s.hostAbsent then s.enterAbsent 3 else s

/-- The link goes down, and with it the function's Bus Master Enable. -/
def State.linkDown (s : State) : State :=
  ({ s with host := { s.host with link := false, bme := false } } : State).pathGone

/-- Bus Master Enable is cleared while the link stays up. -/
def State.masterOff (s : State) : State := ({ s with host := { s.host with bme := false } } : State).pathGone

/-- PCIE_LINK_DOWN (R414): the link goes down, or Bus Master Enable is cleared while it stays up. Which of the two it is
comes from outside and is free (log entry 133). -/
def execPcieLinkDown (s : State) : Out :=
  attempt (if s.answers ∧ s.host.link then
    let t : State := { s with freeIx := s.freeIx + 1 }
    some (if s.host.bme ∧ (Config.freeWord s.freeIx).getLsbD 0 then t.masterOff else t.linkDown)
    else none) s

/-- PCIE_LINK_UP (R416, R417): the link is up and Bus Master Enable is 1. -/
def execPcieLinkUp (s : State) : Out :=
  attempt (if s.answers ∧ !s.host.perst ∧ !s.hostUp then
    some { s with host := { s.host with link := true, bme := true, seenUp := true } } else none) s

/-- PCIE_PERST (R564): the PCIe controller, the function's configuration and the link reset, in whatever state the device
is. -/
def execPciePerst (s : State) : Out :=
  attempt (if !s.host.perst then
    let s := { s with host := { s.host with perst := true, pcie := PcieFn.reset } }
    some (if s.host.link then s.linkDown else s)
    else none) s

/-- PCIE_PERST_RELEASE (R564): link training may start again. -/
def execPciePerstRelease (s : State) : Out :=
  attempt (if s.host.perst then some { s with host := { s.host with perst := false } } else none) s

/-- BAR4 keys and the HST registers that a Function Level Reset returns to reset (R390). -/
def flrKey (k : Nat) : Bool :=
  decide (barRing ≤ k) ||
  (decide (kHst 0 ≤ k) && decide (k < kHst 0x10000) && k != kHst 8 && k != kHst 0x10 && k != kHst 0x14 && k != kHst 0x18)

/-- The entries that wait at a result ring when it is disabled are given up (R411). -/
def State.giveUpEntries (s : State) : State :=
  s.host.rrings.foldl (fun (s : State) r => r.2.waiting.foldl (fun (s : State) e => s.entryDone e)
    (s.setRring r.1 { s.rring r.1 with waiting := [] })) s

/-- Act 1 of R390: ring control blocks, buffer entries, MSI-X entries and HST registers return to reset, so that every
ring is disabled at once. -/
def State.resetRings (s : State) : State :=
  let s := s.giveUpEntries
  { s with
    regs := SMap.dropWhere flrKey s.regs
    host := { s.host with
      irings := s.host.irings.map (fun e => (e.1, { e.2 with
        prod := 0, polled := false, asked := false, enabling := false, desc := e.2.desc.map (fun d => { d with stale := true }) }))
      rrings := []
      hbAt := s.elapsed } }

/-- FUNCTION_LEVEL_RESET (R390): the rings reset, then host-absent mode with cause 3. -/
def execFunctionLevelReset (s : State) : Out :=
  attempt (if s.awake then some (s.resetRings.enterAbsent 3) else none) s

/-! ## Buffers -/

/-- BUF_ENTRY_WRITE (R395): a write of BUF_CTL; valid with a size of 0 stays 0. -/
def execBufEntryWrite (b : Nat) (v : B32) (s : State) : Out :=
  attempt (if s.awake ∧ b < 4096 then
    let v := v &&& 0x800001FF
    let size := (s.reg (kBuf b 8)).toNat + bitsOf v.toNat 0 8 * 2 ^ 32
    some (s.setReg (kBuf b 0xC) (if size = 0 then v &&& 0x7FFFFFFF else v))
    else none) s

end Sys2Proof.Machine
end

