-- ==== Sys2Proof/Machine/MemCmd.lean ====
section
/-!
DEFINITION. The commands of the memory system (chapter 11): page retirement, the patrol scrub, the region
table, Reservoir pins and the recovery RAM.
-/
namespace Sys2Proof.Machine

/-- A register access that Table 11-3 refuses is counted and logged with cause 2 (R380, R381). -/
def State.refuseReg (s : State) (rq : Requester) (write : Bool) (key : Nat) : State :=
  s.violation rq write (ctlBase + key) ⟨2, 2, 0x30, none⟩

/-- A register write of a requester that may make it runs `f`; another is refused and logged. -/
def State.guardReg (s : State) (rq : Requester) (key : Nat) (f : State → State) : State :=
  if regAllowed rq true key then f s else s.refuseReg rq true key

/-! ## Page retirement -/

/-- The lines of a stack-local page, as device-local addresses (R357). -/
def pageLines (k page : Nat) : List Nat := (upTo 64).map (fun i => deviceAddr k (page * 4096 + i * 64))

/-- Correctable lines of a page that is copied are corrected on the way (R363). -/
def State.mendPage (s : State) (k page : Nat) : State :=
  let ls := pageLines k page
  let n := (s.mem.ce.filter (fun l => ls.contains l)).length
  ({ s with mem := { s.mem with ce := s.mem.ce.filter (fun l => !(ls.contains l)) } }).addSat (kHbm k 4) n

/-- The first number from `i` on that a list lacks. -/
def firstFree (l : List Nat) : Nat → Nat → Nat
  | 0, i => i
  | n + 1, i => if l.contains i then firstFree l n (i + 1) else i

/-- Spare pages of a stack (Table 11-1). -/
def sparePages : Nat := 23040

/-- Spares that are not free once page `page` retires: a spare page that retires is free no more (R364). -/
def Stack.takenWith (st : Stack) (page : Nat) : List Nat :=
  if stackPages ≤ page ∧ !st.taken.contains (page - stackPages) then (page - stackPages) :: st.taken else st.taken

/-- The lowest free spare for the retirement of a page (R363). -/
def Stack.spareFor (st : Stack) (page : Nat) : Nat :=
  firstFree (st.takenWith page) (st.takenWith page).length 0

/-- The last spare is taken (R365): the stack retires nothing further, so a MEM_RET_ADD.go for another page of it
ends. -/
def State.sparesGone (s : State) (k page : Nat) : State :=
  let s := ((s.setBit (kHbm k 0) 15 true).raise 0x0504 (mkParam [(0, k)])).exhaust 1 k
  if s.mem.retAdd.any (fun x => x.1 == k && x.2 != page) then
    ({ s with mem := { s.mem with retAdd := none } }).setBit (kMem 0x2104) 31 false
  else s

/-- PAGE_RETIRE_START (R363 to R365): the oldest waiting page takes the lowest free spare, its copy begins
and accesses to it wait; taking the last spare exhausts the stack. -/
def execPageRetireStart (k : Nat) (s : State) : Out :=
  attempt (if s.awake ∧ k < 8 then
    let st := s.stack k
    match st.queue, st.copying with
    | p :: ps, none =>
      if st.spareFor p < sparePages then
        let taken := st.spareFor p :: st.takenWith p
        let s := s.setStack k { st with queue := ps, copying := some (p, st.spareFor p), taken := taken }
        let s := (s.setFld (kHbm k 0) 0 15 (sparePages - taken.length)).mendPage k p
        some (if sparePages ≤ taken.length then s.sparesGone k p else s)
      else none
    | _, _ => none
    else none) s

/-- The page behind a stack-local page: itself, or the spare that its map entry names. -/
def Stack.physPage (st : Stack) (page : Nat) : Nat :=
  match SMap.get zeroNat st.map page with
  | 0 => page
  | n + 1 => stackPages + n

/-- The stack once page `p`'s copy in spare `f` is complete: the map entry names the spare, the spare's lines are fresh
copies, and the page that was replaced keeps its lines that are uncorrectable. -/
def Stack.replaced (st : Stack) (p f : Nat) (bad : List Nat) : Stack :=
  let fresh (l : List Nat) : List Nat := l.filter (fun x => x / 64 != stackPages + f)
  { st with
    copying := none
    map := SMap.set zeroNat st.map p (f + 1)
    offCe := fresh st.offCe
    offUe := fresh st.offUe ++ bad.map (fun i => st.physPage p * 64 + i) }

/-- PAGE_RETIRED (R363, R366): the map entry points at the spare, and a MEM_RET_ADD.go for the page ends. -/
def execPageRetired (k : Nat) (s : State) : Out :=
  attempt (if s.awake ∧ k < 8 then
    let st := s.stack k
    match st.copying with
    | some (p, f) =>
      let bad := if p < stackPages then (upTo 64).filter (fun i => s.mem.ue.contains (deviceAddr k (p * 4096 + i * 64))) else []
      let s := s.setStack k (st.replaced p f bad)
      let s := if s.mem.retAdd = some (k, p) then
          ({ s with mem := { s.mem with retAdd := none } }).setBit (kMem 0x2104) 31 false else s
      some ((s.addSat (kHbm k 0xC) 1).raise 0x0503 (mkParam [(0, deviceAddr k (p * 4096)), (40, k)]))
    | none => none
    else none) s

/-- A write of MEM_RET_ADD with go (R366): the page is queued and go reads 1 until it is retired. A page outside the
usable range, and any page of a stack that retires nothing further, is ignored; while go is 1 another go has no
effect (R9). -/
def State.retAddGo (s : State) (v : B32) : State :=
  let k := bitsOf v.toNat 23 3
  let page := bitsOf v.toNat 0 23
  let busy := s.bit (kMem 0x2104) 31
  let s := s.setFld (kMem 0x2104) 0 26 (v.toNat % 2 ^ 26)
  if busy ∨ stackPages ≤ page ∨ s.bit (kHbm k 0) 15 then s
  else
    let s := s.queueRetire k page
    ({ s with mem := { s.mem with retAdd := some (k, page) } }).setBit (kMem 0x2104) 31 true

/-- RET_ADD_GO (R366): a secure write of MEM_RET_ADD with go. -/
def execRetAddGo (rq : Requester) (v : B32) (s : State) : Out :=
  attempt (if s.awake ∧ v.getLsbD 31 then some (s.guardReg rq (kMem 0x2104) (fun s => s.retAddGo v)) else none) s

/-- Lines one patrol period reads in a stack: the usable ones, then those of the spares (R367). -/
def patrolLines : Nat := (stackPages + sparePages) * 64

/-- The device-local line that a patrol position holds: a usable line whose page is not retired, or the line of a
retired page that a spare holds; none at a free spare and at a page that a spare has replaced. -/
def State.patrolLine (s : State) (k n : Nat) : Option Nat :=
  let st := s.stack k
  let page := n / 64
  if page < stackPages then
    (if SMap.get zeroNat st.map page = 0 then some (deviceAddr k (n * 64)) else none)
  else
    (st.map.find? (fun e => e.2 == page - stackPages + 1 && decide (e.1 < stackPages))).map
      (fun e => deviceAddr k (e.1 * 4096 + n % 64 * 64))

/-- A patrol read of a line that no device address maps to, handled as any other (R360, R361, R363, R364). -/
def State.patrolOff (s : State) (k n : Nat) : State :=
  let st := s.stack k
  if n ∈ st.offUe then s.hbmUncorrectable k (deviceAddr k (n * 64)) (n / 64) none
  else if n ∈ st.offCe then
    ((s.setStack k { st with offCe := st.offCe.filter (· != n) }).addSat (kHbm k 4) 1).trackCe k (n / 64)
  else s

/-- The page that a patrol position belongs to, as the queue of retirements names it. -/
def State.patrolPage (s : State) (k n : Nat) : Nat := (s.patrolLine k n).elim (n / 64) pageOf

/-- HBM_PATROL_READ (R367): the next line of the stack, handled by R360, R361 and R363 without an epoch; the read waits
while its page is copied. -/
def execHbmPatrolRead (k : Nat) (s : State) : Out :=
  attempt (if s.awake ∧ k < 8 ∧ s.fld (kMem 0x2108) 0 8 ≠ 0 ∧
      !(((s.stack k).copying).any (fun c => c.1 == s.patrolPage k (s.stack k).patrol)) then
    let st := s.stack k
    let n := st.patrol
    let s1 := s.setStack k { st with patrol := (n + 1) % patrolLines }
    some (match s.patrolLine k n with
      | some l => (s1.hbmLine l none).1
      | none => s1.patrolOff k n)
    else none) s

/-! ## Region table (R377, R378, R570) -/

/-- A write of a region entry that no lock stands against; a locked entry stays as it is. -/
def State.setRgn (s : State) (i : Nat) (which : RgnReg) (v : B32) : State :=
  if (s.rgn i).lock then s
  else match which with
    | .base => s.setReg (kRgn i 0) (v &&& 0x0FFFFFFF)
    | .last => s.setReg (kRgn i 4) (v &&& 0x0FFFFFFF)
    | .attr => s.setReg (kRgn i 8) (v &&& 0x3F)

/-- RGN_WRITE: applied from the next access on, unless the entry was locked before the write. -/
def execRgnWrite (rq : Requester) (i : Nat) (which : RgnReg) (v : B32) (s : State) : Out :=
  attempt (if s.awake ∧ i < 64 then
    let key := kRgn i (match which with | .base => 0 | .last => 4 | .attr => 8)
    some (s.guardReg rq key (fun s =>
      s.setRgn i which v))
    else none) s

/-! ## Reservoir pins (R371 to R373) -/

/-- The pin that owns a way with the region it names, lowest number first. -/
def State.wayOwner (s : State) (w : Nat) : Option (Nat × Nat) :=
  ((upTo 8).find? (fun j => s.bit (kPin j) 6 && (s.fld (kPin j) 16 16).testBit w)).map
    (fun j => (j, s.fld (kPin j) 0 6))

/-- Ones of a number below 2^16. -/
def ones16 (n : Nat) : Nat := ((upTo 16).filter (fun i => n.testBit i)).length

/-- R371: a write that leaves enable at 1 is ignored when its mask is 0, shares a way with another enabled
pin, or brings the pinned ways above 12. -/
def State.pinRefuses (s : State) (j : Nat) (v : B32) : Bool :=
  let mask := bitsOf v.toNat 16 16
  let others := (upTo 8).foldl (fun m i =>
    if i ≠ j ∧ s.bit (kPin i) 6 then m ||| s.fld (kPin i) 16 16 else m) 0
  v.getLsbD 6 && (mask == 0 || mask &&& others != 0 || decide (12 < ones16 (mask ||| others)))

/-- Lines in ways that change owner are invalidated (R372). -/
def State.dropWays (s : State) (old : State) : State :=
  let ws := (upTo 16).filter (fun w => s.wayOwner w != old.wayOwner w)
  let gone := s.mem.rsv.flatMap (fun e => (e.2.filter (fun l => ws.contains l.way)).map (·.line))
  gone.foldl (fun s l => s.rsvDrop (l * 128)) s

/-- A write of a pin entry: ignored where R371 says so, else stored, and the ways that change owner lose their
lines. -/
def State.setPin (s : State) (j : Nat) (v : B32) : State :=
  if s.pinRefuses j v then s
  else
    let busy := s.reg (kPin j) &&& 0x80
    (s.setReg (kPin j) ((v &&& 0xFFFF00FF) ||| busy)).dropWays s

/-- RSV_PIN_WRITE. A 1 in fill starts a fill as PIN_FILL does. -/
def execRsvPinWrite (rq : Requester) (j : Nat) (v : B32) (s : State) : Out :=
  attempt (if s.awake ∧ j < 8 then
    some (s.guardReg rq (kPin j) (fun s => s.setPin j v)) else none) s

/-- PIN_FILL (R373): the fill bit is set and the reads begin. -/
def execPinFill (rq : Requester) (j : Nat) (s : State) : Out :=
  attempt (if s.awake ∧ j < 8 ∧ !s.bit (kPin j) 7 then
    some (s.guardReg rq (kPin j) (fun s => s.setBit (kPin j) 7 true)) else none) s

/-- A 128-byte line stands in a way that its address may allocate in. -/
def State.inOwnWays (s : State) (a : Nat) : Bool :=
  (s.rsvSet a).any (fun l => l.line == a / 128 && (s.waysFor a).contains l.way)

/-- One 128-byte line read into the pin's ways: its two lines come from HBM unless it stands in one already; a copy in
another way is given up. -/
def State.fillLine (s : State) (a : Nat) : State :=
  if s.inOwnWays a then s.rsvTouch a
  else
    let s := s.rsvDrop a
    let r := s.hbmLine a none
    let q := r.1.hbmLine (a + 64) none
    if r.2 && q.2 then q.1.rsvAlloc a else q.1

/-- The 128-byte lines of the region that a pin names, in address order. -/
def State.pinLines (s : State) (j : Nat) : List Nat :=
  let r := s.rgn (s.fld (kPin j) 0 6)
  if s.bit (kPin j) 6 ∧ r.valid ∧ r.covers (r.base * 4096) (r.base * 4096) then
    (upTo ((r.last + 1 - r.base) * 32)).map (fun i => r.base * 4096 + i * 128) else []

/-- PIN_FILL_DONE (R373): the region's lines have been read in address order and the bit clears. A page of the region
that is being copied holds the fill back (R363). -/
def execPinFillDone (j : Nat) (s : State) : Out :=
  attempt (if s.awake ∧ j < 8 ∧ s.bit (kPin j) 7 ∧ !((s.pinLines j).any (fun a => s.pageBusy a 128)) then
    let lines := s.pinLines j
    some ((lines.foldl (fun s a => s.fillLine a) s).setBit (kPin j) 7 false)
    else none) s

/-! ## Recovery RAM -/

/-- RCV_ACCESS (R383, R469): granted after go to a Quill core; a range beyond the usable bytes is unmapped. -/
def execRcvAccess (m : RcvRequest) (s : State) : Out :=
  attempt (if s.awake ∧ s.go then
    let len := if m.write then m.data.length else m.len
    let addr := ctlBase + 0x10000000 + m.off
    let r : State × Nat × List Byte :=
      if len = 0 ∨ localTop < addr + len - 1 then (s, 0x13, [])
      else if s.boot.rcvSize < m.off + len then
        (s.violation m.rq m.write (max addr (ctlBase + 0x10000000 + s.boot.rcvSize) / 64 * 64) ⟨1, 1, 0x30, none⟩, 0x30, [])
      else if !rqQuill m.rq then (s.violation m.rq m.write (addr / 64 * 64) ⟨2, 2, 0x30, none⟩, 0x30, [])
      else s.rcvAccess m.write m.off len m.data
    some { r.1 with mem := { r.1.mem with last := r.2.1, data := r.2.2 } }
    else none) s

end Sys2Proof.Machine
end

