-- ==== Sys2Proof/Machine/Tile.lean ====
section
/-!
DEFINITION. What every unit of a pipeline shares: Inkwell rows with their code and power (R131 to R142),
sparing of a row (R136 to R138, R513), resident epochs (R153, R235, R236), and how a step starts and ends
(R230 to R233, R239 to R241).
-/
namespace Sys2Proof.Machine

/-! ## Inkwell rows -/

def rowsTotal : Nat := 16384

/-- Slice of a row, bank and bank-local index (R126). -/
def sliceOf (row : Nat) : Nat := row / 2048
def bankOf (row : Nat) : Nat := row % 16
def localOf (row : Nat) : Nat := row / 16
def rowOf (bank loc : Nat) : Nat := loc * 16 + bank

/-- Requester codes of Table 04-1. -/
def rqFetch : Nat := 0
def rqLoad : Nat := 1
def rqDrain : Nat := 2
def rqVector : Nat := 3
def rqDmaIn : Nat := 4
def rqDmaOut : Nat := 5
def rqScrub : Nat := 6
def rqCopy : Nat := 7

def State.sliceOn (s : State) (t sl : Nat) : Bool := s.bit (kTil t 0x208) (8 + sl)

/-- The slice of a row is filling: an access waits (R140). -/
def State.rowFilling (s : State) (t row : Nat) : Bool :=
  decide (row < rowsTotal) && (s.tile t).filling.getLsbD (sliceOf row)

/-- The cycles in which requests to one bank of a tile have waited (R130): a free value, added to TIL_INK_CONF_b with what
made the requests (log entry 71). -/
def State.bankWait (s : State) (t b : Nat) : State :=
  { s.addSat (kTil t (0x240 + 4 * b)) ((Config.freeWord s.freeIx).toNat % 2 ^ 32) with freeIx := s.freeIx + 1 }

/-- The waits at every bank of a tile. -/
def State.bankWaits (s : State) (t : Nat) : State := (upTo 16).foldl (fun (u : State) b => u.bankWait t b) s

def Tile.row (tl : Tile) (r : Nat) : Row := SMap.get rowZero tl.ink r

/-- The logical tile of a physical tile as event parameters carry it. -/
def State.logicalByte (s : State) (t : Nat) : Nat := (s.logicalOf t).getD 0xFF

/-- TIL_INK_ERRLOG and TIL_INK_ERRSRC written, and 0x0B02 raised (R133, R142, R158). -/
def State.inkLog (s : State) (t row rq cause word : Nat) : State :=
  ((s.setReg (kTil t 0x21C) (BitVec.ofNat 32 row)).setReg (kTil t 0x220)
      (BitVec.ofNat 32 (cause + 4 * rq + 32 * word + 512))).raise 0x0B02
    (mkParam [(0, s.logicalByte t), (8, t), (16, cause), (18, rq), (24, word), (32, row)])

/-- Word errors of a row. -/
def wordsAt (l : List (Nat × Nat)) (row : Nat) : List Nat := (l.filter (fun e => e.1 == row)).map (·.2)
def dropRow (l : List (Nat × Nat)) (row : Nat) : List (Nat × Nat) := l.filter (fun e => e.1 != row)

/-- Lowest of a list of numbers. -/
def lowest (l : List Nat) : Nat := l.foldl min (l.headD 0)

/-! ## Stages on a tile -/

/-- The stages that a physical tile hosts: pipeline, side, stage. -/
def State.hosts (s : State) (t : Nat) : List (Nat × Bool × Nat) :=
  s.pipes.flatMap (fun e =>
    if !e.2.bound then [] else
    e.2.sides.flatMap (fun sd => ((upTo e.2.stages.length).filter (fun i => s.tileOf e.2 i sd == some t)).map
      (fun i => (e.1, sd, i))))

/-- A window holds rows of a slice. -/
def Stage.usesSlice (st : Stage) (sl : Nat) : Bool :=
  decide (st.inkRow < (sl + 1) * 2048) && decide (sl * 2048 < st.inkRow + st.inkRows)

/-- The residency flag of every stage whose window includes a slice is cleared (R144). -/
def State.loseSlice (s : State) (t sl : Nat) : State :=
  let tl := s.tile t
  s.setTile t { tl with flags := tl.flags.filter (fun f =>
    match (s.pipe f.1).stage f.2.2 with
    | some st => !st.usesSlice sl
    | none => true) }

/-! ## Sparing a row (R136 to R138, R513) -/

/-- The lowest free remap entry of a bank. -/
def Tile.freeEntry (tl : Tile) (bank : Nat) : Option Nat :=
  (upTo 16).find? (fun e => !(tl.remap.any (fun r => r.bank == bank && r.entry == e)))

/-- The spare-row copy (R137): the entry is valid; correctable words are corrected and counted; an
uncorrectable old row gives a row of zeros, with 0x0B02 of requester 7 and its slice lost. DESIGN CHOICE (log entry
103): the copy looks at no slice power, so the entry of a row whose slice is powered down or filling is valid at once,
with no wait and no error of cause 1. -/
def State.setRemap (s : State) (t bank entry loc : Nat) : State :=
  let tl := s.tile t
  let row := rowOf bank loc
  let ce := wordsAt tl.inkCe row
  let ue := wordsAt tl.inkUe row
  let tl := { tl with remap := tl.remap ++ [(⟨bank, entry, loc⟩ : Remap)]
                      inkCe := dropRow tl.inkCe row, inkUe := dropRow tl.inkUe row }
  let s := s.addFld (kTil t 0x214) 0 16 ce.length
  if ue.isEmpty then s.setTile t tl
  else
    let s := s.setTile t { tl with ink := SMap.set rowZero tl.ink row 0 }
    let s := s.addFld (kTil t 0x214) 16 16 ue.length
    (s.inkLog t row rqCopy 2 (lowest ue)).loseSlice t (sliceOf row)

/-- The tile is due for retirement (R515): admission to its logical tile stops. -/
def State.dueRetire (s : State) (t cause : Nat) (info : B32) : State :=
  let c := s.cluster (t / 10)
  if c.retire.any (fun r => r.1 == t) then s
  else
    let s := s.setCluster (t / 10) { c with retire := c.retire ++ [(t, cause, info)] }
    if (s.logicalOf t).isSome then s.setTile t { s.tile t with swap := true } else s

/-- The reaction to an INK_UE fault (R513): the row is spared, or the tile is to be retired with cause 2; the row and
word travel with it (R529). -/
def State.spareNow (s : State) (t row word : Nat) (ep : Option (B32 × Nat)) : State :=
  let entry (act : Nat) : BltEntry :=
    { mkFault 5 act t (mkParam [(0, row), (32, word)]) with epoch := ep }
  match (s.tile t).freeEntry (bankOf row) with
  | some e => (s.fault (entry 2)).setRemap t (bankOf row) e (localOf row)
  | none => (s.fault (entry (b2n ep.isSome))).dueRetire t 2 (BitVec.ofNat 32 (row + 65536 * word))

/-- An INK_UE fault: firmware reacts at once, or once it serves again (R24). -/
def State.spareRow (s : State) (t row word : Nat) (ep : Option (B32 × Nat)) : State :=
  if s.fwServes then s.spareNow t row word ep
  else
    let s : State := match ep with
      | some x => s.noteEpoch x.1
      | none => s
    if s.fw.rowsDue.any (fun x => x.tile == t && x.row == row) then s
    else { s with fw := { s.fw with rowsDue := s.fw.rowsDue ++ [⟨t, row, word, ep⟩] } }

/-! ## Row accesses -/

/-- One row read by a requester: 0 and the row, 1 for an uncorrectable word (R133), 2 for a slice that is
powered down (R142). Correctable words are counted and the row queued for scrubbing (R132), whatever the row's other
words hold. -/
def State.inkRead (s : State) (t row rq : Nat) (ep : Option (B32 × Nat)) : State × Nat × Row :=
  if !(decide (row < rowsTotal) && s.sliceOn t (sliceOf row)) then (s.inkLog t row rq 1 0, 2, 0)
  else
    let tl := s.tile t
    let ue := wordsAt tl.inkUe row
    let ce := wordsAt tl.inkCe row
    let s := if ce.isEmpty then s else
      (s.addFld (kTil t 0x214) 0 16 ce.length).setTile t
        { tl with scrubQ := if row ∈ tl.scrubQ then tl.scrubQ else tl.scrubQ ++ [row] }
    if !ue.isEmpty then
      let s := (s.addFld (kTil t 0x214) 16 16 ue.length).inkLog t row rq 2 (lowest ue)
      (s.spareRow t row (lowest ue) ep, 1, 0)
    else (s, 0, tl.row row)

/-- One row written, with fresh check bits (R133); refused in a slice that is powered down (R142). -/
def State.inkWrite (s : State) (t row rq : Nat) (v : Row) : State × Nat :=
  if !(decide (row < rowsTotal) && s.sliceOn t (sliceOf row)) then (s.inkLog t row rq 1 0, 2)
  else
    let tl := s.tile t
    (s.setTile t { tl with ink := SMap.set rowZero tl.ink row v
                           inkCe := dropRow tl.inkCe row, inkUe := dropRow tl.inkUe row }, 0)

/-- Rows read in order by a requester; the first error ends it. -/
def State.inkReads (s : State) (t rq : Nat) (ep : Option (B32 × Nat)) : List Nat → State × Nat
  | [] => (s, 0)
  | r :: rs =>
    let x := s.inkRead t r rq ep
    if x.2.1 = 0 then x.1.inkReads t rq ep rs else (x.1, x.2.1)

/-- Rows written in order; the first error ends it. -/
def State.inkWrites (s : State) (t rq : Nat) : List (Nat × Row) → State × Nat
  | [] => (s, 0)
  | (r, v) :: rs =>
    let x := s.inkWrite t r rq v
    if x.2 = 0 then x.1.inkWrites t rq rs else (x.1, x.2)

/-! ## Bytes of a row region -/

/-- Bits `[8 off, 8 off + w)` of a region that begins at row `r0`, within one row. -/
def Tile.bits (tl : Tile) (r0 off w : Nat) : Nat := bitsOf (tl.row (r0 + off / 512)).toNat (8 * (off % 512)) w

/-- The 4-bit element `i` of a region's byte offset `off` (R44). -/
def Tile.nibble (tl : Tile) (r0 off i : Nat) : Nat := bitsOf (tl.bits r0 (off + i / 2) 8) (4 * (i % 2)) 4

/-- Rows `r0` to `r0 + n - 1`. -/
def rowSpan (r0 n : Nat) : List Nat := (upTo n).map (fun i => r0 + i)

/-- A row of 128 words of 32 bits. -/
def packRow (ws : List B32) : Row := BitVec.ofNat 4096 (ws.reverse.foldl (fun acc w => acc * 2 ^ 32 + w.toNat) 0)

/-- Lane `i` of a row. -/
def laneOf (r : Row) (i : Nat) : B32 := BitVec.ofNat 32 (bitsOf r.toNat (32 * i) 32)

/-! ## Nib bindings -/

/-- A `w`-bit field at bit `lo` of byte `byte` of a descriptor. -/
def dsc (d : BitVec 512) (byte lo w : Nat) : Nat := bitsOf d.toNat (8 * byte + lo) w

/-- ROW mode, owner and contributors of a nib binding (Table 05-1). -/
def bRow (b : BitVec 512) : Bool := b.getLsbD 3
def bOwner (b : BitVec 512) : Nat := dsc b 13 0 6
def bContribs (b : BitVec 512) : List Nat := (upTo (dsc b 15 0 4)).map (fun i => dsc b (16 + 2 * i) 0 6)

/-! ## Epochs on a tile -/

def Tile.residents (tl : Tile) : List Resident := tl.res0.toList ++ tl.res1.toList

def Tile.holds (tl : Tile) (e : B32) : Bool := tl.residents.any (fun r => r.epoch == e)

/-- The half of the row-stat buffer of a resident epoch (R183): its position. -/
def Tile.half (tl : Tile) (e : B32) : Nat :=
  match tl.res0 with
  | some r => if r.epoch = e then 0 else 1
  | none => 1

/-- Epochs whose tokens wait at a tile for a resident position. -/
def State.waiting (s : State) (t : Nat) : List Resident :=
  let tl := s.tile t
  (s.hosts t).flatMap (fun h =>
    let p := s.pipe h.1
    (p.edgesInto h.2.2).flatMap (fun ed => (s.book (bookKey h.1 h.2.1 ed)).cons.filterMap (fun c =>
      match c with
      | .token e => if s.epochLive e && !tl.holds e then some (⟨h.1, h.2.1, e⟩ : Resident) else none
      | _ => none)))

/-- The oldest of a list of epochs. -/
def oldest : List Resident → Option Resident
  | [] => none
  | r :: rs => match oldest rs with
    | some x => if olderThan x.epoch r.epoch then some x else some r
    | none => some r

/-- The other devices with tiles of the row-stat groups that a folio tile belongs to (R182). -/
def Pipe.rowPeers (p : Pipe) (own folioTile : Nat) : List Nat :=
  ((p.stages.flatMap (fun st => st.steps.flatMap (fun x => match x.bind with
    | some b => if bRow b && (bOwner b :: bContribs b).contains folioTile then bOwner b :: bContribs b else []
    | none => []))).filterMap (fun f => (p.tileBind f).map (·.device))).eraseDups.filter (· != own)

/-- The devices with tiles of its row-stat groups are told that a tile holds an epoch (log entry 69). -/
def State.tellResident (s : State) (t : Nat) (r : Resident) : State :=
  let p := s.pipe r.pipe
  ((s.hosts t).filter (fun h => h.1 == r.pipe)).foldl (fun (s : State) h =>
    match p.stage h.2.2 with
    | some st => (p.rowPeers s.boot.dev st.unit).foldl (fun (s : State) d => s.sendCtrl t d ctrlResident
        (natToBytes r.pipe 1 ++ natToBytes (b2n h.2.1) 1 ++ natToBytes st.unit 2 ++ natToBytes r.epoch.toNat 4)) s
    | none => s) s

/-- An epoch takes a position: each stage of its pipeline here decides whether its cold-start section is
skipped (R233). -/
def State.takePosition (s : State) (t : Nat) (r : Resident) : State :=
  let tl := s.tile t
  let s := s.tellResident t r
  let s := match tl.res0 with
    | none => s.setTile t { tl with res0 := some r }
    | some _ => s.setTile t { tl with res1 := some r }
  ((s.hosts t).filter (fun h => h.1 == r.pipe)).foldl (fun s h =>
    let pr := s.prog h.2.1 h.2.2 r.epoch
    if pr.skip.isNone then s.setProg { pr with skip := some (tl.flags.contains h) } else s) s

/-- A free position for an epoch of a pipeline; position 1 of a reserved tile is Aster's (R235). -/
def Tile.freePosition (tl : Tile) : Bool := tl.res0.isNone || (tl.res1.isNone && !tl.aster)

/-- Waiting epochs take free positions, the oldest first (R153, R236); none while admission to the tile is
stopped (R515) or the tile has failed. -/
def State.settleTile (s : State) (t : Nat) : State :=
  let go (s : State) : State :=
    let tl := s.tile t
    if tl.freePosition && !tl.failed && !tl.swap then
      match oldest (s.waiting t) with
      | some r => s.takePosition t r
      | none => s
    else s
  go (go s)

/-- An epoch leaves a tile: its position is freed and its row-stat half returns to idle (R189). -/
def State.leaveTile (s : State) (t : Nat) (e : B32) : State :=
  let tl := s.tile t
  if tl.holds e then
    let h := tl.half e
    s.setTile t { tl with
      res0 := if tl.res0.any (fun r => r.epoch == e) then none else tl.res0
      res1 := if tl.res1.any (fun r => r.epoch == e) then none else tl.res1
      rstats := tl.rstats.filter (fun x => x.1 / 4096 != h)
      splits := tl.splits.filter (fun x => x.step.epoch != e) }
  else s

/-! ## Step headers (Table 07-5) -/

def hKind (h : SeqHdr32) : Nat := bitsOf h.toNat 0 4
def hNib (h : SeqHdr32) : Bool := bitOf h.toNat 4
def hFold (h : SeqHdr32) : Bool := bitOf h.toNat 5
def hQueue (h : SeqHdr32) : Nat := bitsOf h.toNat 8 3
/-- Input edges with their index, and output edges. -/
def hIn (h : SeqHdr32) : List (Nat × Nat) :=
  ((upTo 4).map (fun i => (i, bitsOf h.toNat (32 + 8 * i) 8))).filter (fun x => x.2 != 0xFF)
def hOut (h : SeqHdr32) : List Nat := ((upTo 4).map (fun i => bitsOf h.toNat (64 + 8 * i) 8)).filter (· != 0xFF)
def hRelease (h : SeqHdr32) (i : Nat) : Bool := bitOf h.toNat (96 + i)
def hReloc (h : SeqHdr32) (i : Nat) : Nat := bitsOf h.toNat (104 + 8 * i) 8

def kMatrix : Nat := 1
def kDma : Nat := 2
def kVconv : Nat := 3
def kStem : Nat := 4
def kSpectral : Nat := 5
def kSignal : Nat := 6

/-- The engine a step uses (R232): each DMA queue is one. -/
def engineOf (h : SeqHdr32) : Nat := if hKind h = kDma then 16 + hQueue h else hKind h

/-- A step with its pipeline and stage. -/
def State.stepOf (s : State) (st : StepRef) : Option (Pipe × Stage × Step) :=
  let p := s.pipe st.pipe
  match p.stage st.stage with
  | some sg => (sg.steps[st.step]?).map (fun sp => (p, sg, sp))
  | none => none

/-! ## What a start asks of a tile (R151, R239) -/

def kQcfg (t q : Nat) : Nat := kTil t (0x300 + 4 * q)

/-- Transfers outstanding in a queue. -/
def Tile.outstanding (tl : Tile) (q : Nat) : Nat := (tl.xfers.filter (fun x => x.queue == q)).length

/-- The queue's outstanding count is below its limit (R151). -/
def State.queueOpen (s : State) (t q : Nat) : Bool := decide ((s.tile t).outstanding q < s.fld (kQcfg t q) 0 6 + 1)

/-- A folio tile of a ROW-mode binding mapped like every other folio tile (R229; log entry 34): device and
logical tile on a side. -/
def Pipe.mapTile (p : Pipe) (side : Bool) (folioTile : Nat) : Option (Nat × Nat) :=
  (p.tileBind folioTile).map (fun b => (b.device, if side then b.twin else b.logical))

/-- The row-stat credit of R239: owner and contributors hold the epoch resident, those on another device as that device
has told (log entry 69). -/
def State.rowCredit (s : State) (p : Pipe) (st : StepRef) (b : BitVec 512) : Bool :=
  (bOwner b :: bContribs b).all (fun f => match p.mapTile st.side f with
    | some (d, l) =>
      if d = s.boot.dev then (s.physOf l).any (fun t => (s.tile t).holds st.epoch)
      else s.commit.remote.contains ⟨st.pipe, st.side, f, st.epoch⟩
    | none => false)

/-- The row-stat credit of a step, where its binding is in ROW mode. -/
def State.bindCredit (s : State) (p : Pipe) (st : StepRef) (sp : Step) : Bool :=
  match sp.bind with
  | some b => !bRow b || s.rowCredit p st b
  | none => true

/-! ## The start rule (R239, R240) -/

/-- The unit holds a token of the epoch on an edge that no earlier releasing step has consumed. -/
def State.holdsToken (s : State) (st : StepRef) (edge : Nat) : Bool :=
  ((s.book (bookKey st.pipe st.side edge)).inputOf st.epoch).isSome

/-- The conditions of R239 that every unit shares. -/
def State.ready (s : State) (st : StepRef) : Bool :=
  match s.stepOf st with
  | none => false
  | some (p, sg, sp) =>
    let pr := s.prog st.side st.stage st.epoch
    p.bound && p.sides.contains st.side && s.epochLive st.epoch &&
    (s.epochRec st.epoch).any (fun r => r.pipe == st.pipe) && !pr.failed && !pr.started.contains st.step &&
    (upTo st.step).all (fun j => match sg.steps[j]? with
      | some q => engineOf q.hdr != engineOf sp.hdr || pr.started.contains j
      | none => true) &&
    (hIn sp.hdr).all (fun x => s.holdsToken st x.2) &&
    (hOut sp.hdr).all (fun x => (s.book (bookKey st.pipe st.side x)).free.isSome)

/-- The step starts: its input slots go into reading, those it releases as its own, credits into writing, an ADMITTED
epoch runs (R240, R248). -/
def State.beginStep (s : State) (st : StepRef) : State :=
  match s.stepOf st with
  | none => s
  | some (_, _, sp) =>
    let s := (hIn sp.hdr).foldl (fun s x =>
      let k := bookKey st.pipe st.side x.2
      let b := s.book k
      match b.inputOf st.epoch with
      | some i =>
        s.setBook k { b with cons := b.cons.set i (.reading st.epoch (if hRelease sp.hdr x.1 then some st.step else none)) }
      | none => s) s
    let s := (hOut sp.hdr).foldl (fun s x =>
      let k := bookKey st.pipe st.side x
      let b := s.book k
      match b.free with
      | some i => s.setBook k { b with prod := b.prod.set i (.writing st.epoch st.step) }
      | none => s) s
    let pr := s.prog st.side st.stage st.epoch
    let s := s.setProg { pr with started := pr.started ++ [st.step] }
    match s.epochRec st.epoch with
    | some r => if r.state = .admitted then s.setEpoch st.epoch { r with state := .running } else s
    | none => s

/-- The other devices of a pipeline are told that a matrix step has completed, whose layer holds back the weights of the
next one there (R156, log entry 146). -/
def State.tellLayer (s : State) (p : Pipe) (st : StepRef) : State :=
  if p.layers.any (fun x => x.1 == st.stage && x.2.1 == st.step) then
    (s.hostDevs p).foldl (fun (s : State) d => s.sendCtrl 0x8000 d ctrlLayer
      (natToBytes st.pipe 1 ++ natToBytes (b2n st.side) 1 ++ natToBytes st.stage 2 ++ natToBytes st.step 4 ++
        natToBytes st.epoch.toNat 4)) s
  else s

/-- A clean completion: writing slots become tokens, released reading slots credits, and the stage reports
OK after its last step (R240, R241). -/
def State.finishStep (s : State) (st : StepRef) : State :=
  match s.stepOf st with
  | none => s
  | some (p, sg, sp) =>
    let s := (hOut sp.hdr).foldl (fun s x =>
      match (s.book (bookKey st.pipe st.side x)).writingOf st.epoch st.step with
      | some i => s.sendToken p st.pipe st.side x i st.epoch
      | none => s) s
    let s := (hIn sp.hdr).foldl (fun s x =>
      if hRelease sp.hdr x.1 then
        match (s.book (bookKey st.pipe st.side x.2)).readingBy st.epoch st.step with
        | some i => s.returnSlot p st.pipe st.side x.2 i st.epoch
        | none => s
      else s) s
    let pr := s.prog st.side st.stage st.epoch
    let pr := { pr with done := pr.done ++ [st.step] }
    let s := (s.setProg pr).tellLayer p st
    if pr.done.length = sg.steps.length then s.sendReport st.pipe st.side st.stage 0 st.epoch else s

/-- A started step fails: no token, the stage's epoch ends (R241, R253). -/
def State.abortStep (s : State) (st : StepRef) (status : Nat) : State :=
  let pr := s.prog st.side st.stage st.epoch
  (s.setProg { pr with failed := true }).failStep st status

/-- The unit of a step finds the parity of its descriptor bad (Table 17-2): class 0x13, and the step fails, so that its
epoch ends with DISCARDED_FAULT. -/
def State.descParity (s : State) (st : StepRef) : State :=
  ((s.beginStep st).fault { mkFault 0x13 1 (s.unitCode (s.pipe st.pipe) st.stage st.side) 0 with
    epoch := some (st.epoch, st.pipe) }).abortStep st 1

/-- The step lies in a cold-start section that the epoch skips (R233). -/
def State.skips (s : State) (st : StepRef) : Bool :=
  match s.stepOf st with
  | some (_, sg, _) => decide (st.step < sg.cold) && (s.prog st.side st.stage st.epoch).skip == some true
  | none => false

/-- A step that starts reads its descriptor; a skipped one does not. -/
def State.readDesc (s : State) (x : StepCmd) (go : Option State) : Option State :=
  if x.bad ∧ !(s.skips x.ref) then go.map (fun _ => s.descParity x.ref) else go

/-- A cold-start step that runs marks its stage (R144). -/
def State.markCold (s : State) (st : StepRef) : State :=
  match s.stepOf st, s.epochRec st.epoch with
  | some (_, sg, _), some r =>
    if st.step < sg.cold ∧ !(r.latent.contains (st.side, st.stage)) then
      s.setEpoch st.epoch { r with latent := r.latent ++ [(st.side, st.stage)] }
    else s
  | _, _ => s

/-- A step may start on a tile (R239): the conditions that every unit shares, and for a step that is not skipped the
queue's limit or the row-stat credit. -/
def State.canStart (s : State) (t : Nat) (st : StepRef) : Bool :=
  s.ready st && (match s.stepOf st with
    | some (p, _, sp) => s.skips st || (if hKind sp.hdr = kDma then s.queueOpen t (hQueue sp.hdr) else s.bindCredit p st sp)
    | none => false)

/-- A step of an older resident epoch on the same engine may start: it starts first (R239). -/
def State.olderReady (s : State) (t : Nat) (st : StepRef) (eng : Nat) : Bool :=
  (s.tile t).residents.any (fun r => olderThan r.epoch st.epoch &&
    (s.hosts t).any (fun h => h.1 == r.pipe &&
      match (s.pipe h.1).stage h.2.2 with
      | some sg => (upTo sg.steps.length).any (fun j =>
          (match sg.steps[j]? with | some q => engineOf q.hdr == eng | none => false) &&
          s.canStart t ⟨h.1, h.2.1, h.2.2, j, r.epoch⟩)
      | none => false))

/-- A tile step that may start: its physical tile. A skipped step starts at once (R233). -/
def State.tileStep (s : State) (st : StepRef) (kind : Nat) : Option (Nat × Pipe × Stage × Step) :=
  match s.stepOf st with
  | some (p, sg, sp) =>
    match s.tileOf p st.stage st.side with
    | some t =>
      let tl := s.tile t
      if s.awake ∧ hKind sp.hdr = kind ∧ !tl.failed ∧ tl.holds st.epoch ∧ s.canStart t st ∧
          (s.skips st ∨ !(s.olderReady t st (engineOf sp.hdr))) then some (t, p, sg, sp) else none
    | none => none
  | none => none

/-- A memory buffer that a stage is granted (R228), as its device-local range on a side. -/
def Pipe.bufRange (p : Pipe) (side : Bool) (b : Nat) : Option (Nat × Nat) :=
  match p.bufs[b]? with
  | none => none
  | some bf =>
    if bf.kind = 1 then some (bf.sbase, bf.size)
    else if bf.kind = 0 then
      match p.bind with
      | some bd => (bd.bases[b]?).map (fun x => (if side then x.2 else x.1, bf.size))
      | none => none
    else none

def Pipe.granted (p : Pipe) (stage : Nat) (sg : Stage) : List Nat :=
  (upTo p.bufs.length).filter (fun b => sg.grants.getLsbD b ||
    p.edges.any (fun e => !e.orderOnly && e.buffer == b && (e.producer == stage || e.consumer == stage)))

/-- A byte range lies wholly in one granted memory buffer (R147, R199, R211). -/
def Pipe.inGrant (p : Pipe) (stage : Nat) (sg : Stage) (side : Bool) (addr len : Nat) : Bool :=
  (p.granted stage sg).any (fun b => match p.bufRange side b with
    | some (base, size) => decide (base ≤ addr) && decide (addr + len ≤ base + size)
    | none => false)

/-- Rows lie wholly in a stage's window. -/
def Stage.inWindow (sg : Stage) (row n : Nat) : Bool :=
  decide (sg.inkRow ≤ row) && decide (row + n ≤ sg.inkRow + sg.inkRows)

/-- What relocation adds to an address field (R231): the base of the named buffer and, for an edge's
buffer, the offset of the slot the step holds on that edge. Slots the step reads come first for an address
it reads, slots it writes first for one it writes (log entry 32). -/
def State.relocBase (s : State) (p : Pipe) (st : StepRef) (sp : Step) (b : Nat) (reads : Bool) : Nat :=
  if b = 0xFF then 0
  else
    let base := match p.bufRange st.side b with | some (x, _) => x | none => 0
    let ins := (hIn sp.hdr).filterMap (fun x =>
      match p.edge x.2, (s.book (bookKey st.pipe st.side x.2)).readingBy st.epoch st.step with
      | some e, some i => if e.buffer = b ∧ !e.orderOnly then some (e.slot0 + i * e.slotBytes) else none
      | _, _ => none)
    let outs := (hOut sp.hdr).filterMap (fun x =>
      match p.edge x, (s.book (bookKey st.pipe st.side x)).writingOf st.epoch st.step with
      | some e, some i => if e.buffer = b ∧ !e.orderOnly then some (e.slot0 + i * e.slotBytes) else none
      | _, _ => none)
    base + (if reads then ins ++ outs else outs ++ ins).headD 0

end Sys2Proof.Machine
end

