-- ==== Sys2Proof/Machine/Array.lean ====
section
/-!
DEFINITION. The matrix array's descriptor, checks and arithmetic (chapters 02 and 03): regions (R95),
convolution addressing (R111 to R120), group sums with the in-array rescale (R54 to R58, R98), the distance
modes (R106 to R110), and the vector convolution (R190 to R193), which shares the addressing.
-/
namespace Sys2Proof.Machine

/-! ## Convolution coordinates (R115, R117) -/

/-- Signed source coordinate of a tap. -/
def srcCoord (o stride pad k dil : Nat) : Int := (o : Int) * stride - pad + (k : Int) * dil

/-- A coordinate resolved by pad_mode (R115): 0 zero, 1 replicate, 2 reflect; `none` fetches nothing. -/
def resolveCoord (i : Int) (n mode : Nat) : Option Nat :=
  if 0 ≤ i ∧ i < (n : Int) then some i.toNat
  else
    match mode with
    | 0 => none
    | 1 => some (if i < 0 then 0 else n - 1)
    | _ =>
      if n = 1 then some 0
      else
        let p := 2 * (n - 1)
        let t := (i % (p : Int)).toNat
        some (if n ≤ t then p - t else t)

/-- Output size along one axis (R117); `none` when the numerator is negative. -/
def outSize (img padA padB dil k stride : Nat) : Option Nat :=
  if img + padA + padB < dil * (k - 1) + 1 then none
  else some ((img + padA + padB - dil * (k - 1) - 1) / stride + 1)

/-! ## The descriptor (Table 03-1) -/


/-- A matrix or vector-convolution descriptor with its derived sizes. -/
structure Geo where
  op   : Nat
  conv : Bool
  wf   : Nat
  af   : Nat
  g    : Nat            -- group size; 0 for the invalid code
  seg  : Nat
  m    : Nat
  k    : Nat
  n    : Nat
  kc   : Nat
  nb   : Nat
  act  : Nat
  asc  : Nat
  wgt  : Nat
  wsc  : Nat
  acc  : Nat
  out  : Nat
  imgH : Nat
  imgW : Nat
  inY0 : Nat
  inRows : Nat
  outY0 : Nat
  outRows : Nat
  kh : Nat
  kw : Nat
  sy : Nat
  sx : Nat
  dy : Nat
  dx : Nat
  mode : Nat
  padT : Nat
  padL : Nat
  cin : Nat
  cb : Nat
  ow : Nat
  oh : Nat
  gc : Nat              -- channels per group of a vector convolution
  ascale : Nat          -- its activation scale, BF16
deriving DecidableEq, Repr

/-- Group size of the code of R51. -/
def groupOf (c : Nat) : Nat := match c with | 0 => 32 | 1 => 64 | 2 => 128 | _ => 0

/-- Channels per group of the code of R190. -/
def gcodeOf (c : Nat) : Nat := match c with | 0 => 1 | 1 => 2 | 2 => 4 | 3 => 8 | 4 => 16 | _ => 0

def opMul : Nat := 0
def opL1 : Nat := 1
def opL2 : Nat := 2
def opHam : Nat := 3
def opMin : Nat := 4
def opMax : Nat := 5

/-- The descriptor read as a matrix step. -/
def geoOf (d : BitVec 512) : Geo :=
  let conv := dsc d 0 4 1 = 1
  let kh := dsc d 52 0 4; let kw := dsc d 52 4 4
  let sy := dsc d 53 0 4; let sx := dsc d 53 4 4
  let dy := dsc d 54 0 4; let dx := dsc d 54 4 4
  let cb := ceilDiv (dsc d 58 0 16) 128
  let oh := (outSize (dsc d 40 0 16) (dsc d 56 0 4) (dsc d 56 4 4) dy kh sy).getD 0
  let ow := (outSize (dsc d 42 0 16) (dsc d 57 0 4) (dsc d 57 4 4) dx kw sx).getD 0
  let k := if conv then kh * kw * cb * 128 else dsc d 8 0 32
  let n := dsc d 12 0 32
  { op := dsc d 0 0 4, conv := conv, wf := dsc d 1 0 4, af := dsc d 1 4 4, g := groupOf (dsc d 2 0 2)
    seg := dsc d 3 0 8, m := if conv then dsc d 50 0 16 * ow else dsc d 4 0 32, k := k, n := n
    kc := ceilDiv k 128, nb := ceilDiv n 128
    act := dsc d 16 0 32, asc := dsc d 20 0 32, wgt := dsc d 24 0 32, wsc := dsc d 28 0 32
    acc := dsc d 32 0 32, out := dsc d 36 0 32
    imgH := dsc d 40 0 16, imgW := dsc d 42 0 16, inY0 := dsc d 44 0 16, inRows := dsc d 46 0 16
    outY0 := dsc d 48 0 16, outRows := dsc d 50 0 16, kh := kh, kw := kw, sy := sy, sx := sx, dy := dy, dx := dx
    mode := dsc d 55 0 2, padT := dsc d 56 0 4, padL := dsc d 57 0 4, cin := dsc d 58 0 16
    cb := cb, ow := ow, oh := oh, gc := 0, ascale := 0 }

/-- The descriptor read as a vector convolution (R190, R193): its output tiles are the output rows of each
channel block. -/
def vgeoOf (d : BitVec 512) : Geo :=
  let g := geoOf d
  { g with gc := gcodeOf (dsc d 0 0 3), ascale := dsc d 20 0 16, m := g.ow, nb := g.cb * g.outRows }

/-- The array is in the integer pairs, the float pairs, or BF16 (Table 02-2). -/
def Geo.isBf (g : Geo) : Bool := g.af == 5
def Geo.isFloat (g : Geo) : Bool := g.af == 2 || g.af == 3 || g.af == 4
/-- The scale regions and gsize are used. -/
def Geo.scaled (g : Geo) : Bool := g.op == opMul && !g.isBf

/-- Bytes of an activation vector and rows of a stationary block. -/
def Geo.vb (g : Geo) : Nat := 16 * fmtBits g.af
def Geo.wb (g : Geo) : Nat := 4 * fmtBits g.wf

/-- The operand pairs of R42 and Table 03-2. -/
def pairOk (op wf af : Nat) : Bool :=
  if op = opMul then
    ((wf == 0 || wf == 1) && (af == 0 || af == 1)) ||
    ((wf == 2 || wf == 3 || wf == 4) && (af == 2 || af == 3 || af == 4)) || (wf == 5 && af == 5)
  else if op ≤ opHam then wf == 0 && af == 0
  else wf == 8 && af == 8

/-! ## Checks (R94) -/

/-- The first failing check of an ordered list of (fails, status, descriptor byte) groups: the lowest byte
of the first group that fails (log entry 33). -/
def firstFail (l : List (List (Bool × Nat) × Nat)) : Option (Nat × Nat) :=
  match l with
  | [] => none
  | (checks, st) :: rest =>
    match (checks.filter (·.1)).map (·.2) with
    | [] => firstFail rest
    | b :: bs => some (st, lowest (b :: bs))

/-- Regions of Table 03-3 with their extents: descriptor byte, first row, rows, and whether the step writes
it. -/
def Geo.regions (g : Geo) : List (Nat × Nat × Nat × Bool) :=
  let pix := g.cb * g.inRows * g.imgW
  let gn := if g.g = 0 then 1 else g.g
  [(16, g.act, if g.conv then ceilDiv (pix * g.vb) 512 else ceilDiv (g.kc * g.m * g.vb) 512, false)] ++
  (if g.scaled then
    [(20, g.asc, if g.conv then ceilDiv (pix * (128 / gn) * 2) 512 else ceilDiv (g.m * (g.k / gn) * 2) 512, false)]
   else []) ++
  [(24, g.wgt, g.nb * g.kc * g.wb, false)] ++
  (if g.scaled then [(28, g.wsc, ceilDiv ((g.k / gn) * g.n * 2) 512, false)] else []) ++
  (if g.op = opMul then [(32, g.acc, g.m, true)] else []) ++
  [(36, g.out, g.nb * g.m, true)]

def spansMeet (a na b nb : Nat) : Bool := decide (a < b + nb) && decide (b < a + na)

/-- A written region overlaps another one. -/
def overlaps (rs : List (Nat × Nat × Nat × Bool)) (r : Nat × Nat × Nat × Bool) : Bool :=
  r.2.2.2 && rs.any (fun q => q.1 != r.1 && spansMeet r.2.1 r.2.2.1 q.2.1 q.2.2.1)

/-- R119: every source row that some tap of some output fetches is held. -/
def Geo.bandOk (g : Geo) : Bool :=
  (upTo g.kh).all (fun ky => (upTo g.outRows).all (fun i =>
    match resolveCoord (srcCoord (g.outY0 + i) g.sy g.padT ky g.dy) g.imgH g.mode with
    | none => true
    | some y =>
      (decide (g.inY0 ≤ y) && decide (y < g.inY0 + g.inRows)) ||
      !((upTo g.kw).any (fun kx => (upTo g.ow).any (fun ox =>
        (resolveCoord (srcCoord ox g.sx g.padL kx g.dx) g.imgW g.mode).isSome)))))

/-- Zero and out-of-range values of the convolution fields (R93, R118). -/
def convRange (d : BitVec 512) : List (Bool × Nat) :=
  let z (b : Nat) : Bool × Nat := (dsc d b 0 16 == 0, b)
  let r (b lo top : Nat) : Bool × Nat := (dsc d b lo 4 == 0 || decide (top < dsc d b lo 4), b)
  [z 40, z 42, z 46, z 50, z 58, r 52 0 7, r 52 4 7, r 53 0 8, r 53 4 8, r 54 0 8, r 54 4 8,
   (decide (dsc d 40 0 16 < dsc d 44 0 16 + dsc d 46 0 16), 44)]

/-- No output element (R117). -/
def convEmpty (d : BitVec 512) : List (Bool × Nat) :=
  [((outSize (dsc d 40 0 16) (dsc d 56 0 4) (dsc d 56 4 4) (dsc d 54 0 4) (dsc d 52 0 4) (dsc d 53 0 4)).isNone, 40),
   ((outSize (dsc d 42 0 16) (dsc d 57 0 4) (dsc d 57 4 4) (dsc d 54 4 4) (dsc d 52 4 4) (dsc d 53 4 4)).isNone, 42)]

/-- Region checks: last row numbers and overlaps, then the window. -/
def regionRange (rs : List (Nat × Nat × Nat × Bool)) : List (Bool × Nat) :=
  rs.map (fun r => (decide (2 ^ 32 < r.2.1 + r.2.2.1) || overlaps rs r, r.1))

def regionLen (rs : List (Nat × Nat × Nat × Bool)) (w0 wn : Nat) : List (Bool × Nat) :=
  rs.map (fun r => (decide (r.2.1 < w0) || decide (w0 + wn < r.2.1 + r.2.2.1), r.1))

/-- The checks of R94 on a matrix descriptor and a window: status and failing byte. -/
def checkMatrix (d : BitVec 512) (w0 wn : Nat) : Option (Nat × Nat) :=
  let g := geoOf d
  let mul := g.op == opMul
  firstFail [
    ([(decide (opMax < g.op) || dsc d 0 5 3 != 0 || (g.conv && !mul), 0),
      (!fmtValid g.wf || !fmtValid g.af || (decide (g.op ≤ opMax) && !pairOk g.op g.wf g.af), 1),
      (dsc d 2 2 6 != 0 || (mul && !g.isBf && g.g == 0), 2),
      (g.conv && (dsc d 55 2 6 != 0 || g.mode == 3), 55),
      (dsc d 60 0 32 != 0, 60)], 0x12),
    ([(mul && g.seg == 0, 3), (g.n == 0, 12)] ++
      (if g.conv then convRange d
       else [(dsc d 4 0 32 == 0, 4), (dsc d 8 0 32 == 0, 8), (mul && !g.isBf && g.k % g.g != 0, 8)]), 0x13),
    (if g.conv then convEmpty d else [], 0x13),
    (if g.conv then [(decide (g.oh < g.outY0 + g.outRows), 48), (!g.bandOk, 44)] else [], 0x13),
    (regionRange g.regions, 0x13),
    (regionLen g.regions w0 wn, 0x10)]

/-- Regions of a vector convolution (R191, R193). -/
def Geo.vregions (g : Geo) : List (Nat × Nat × Nat × Bool) :=
  [(16, g.act, ceilDiv (g.cb * g.inRows * g.imgW * 128) 512, false),
   (24, g.wgt, ceilDiv (g.cb * g.kh * g.kw * g.gc * 128) 512, false),
   (28, g.wsc, ceilDiv (2 * g.cin) 512, false),
   (36, g.out, g.cb * g.outRows * g.ow, true)]

/-- The checks of R190. -/
def checkVconv (d : BitVec 512) (w0 wn : Nat) : Option (Nat × Nat) :=
  let g := vgeoOf d
  let zero (b n : Nat) : Bool := dsc d b 0 (8 * n) != 0
  firstFail [
    ([(decide (4 < dsc d 0 0 3) || dsc d 0 3 5 != 0, 0), (dsc d 1 0 8 != 0, 1), (zero 2 14, 2), (zero 22 2, 22),
      (zero 32 4, 32), (dsc d 55 2 6 != 0 || g.mode == 3, 55), (zero 60 4, 60)], 0x12),
    (convRange d ++ [(!(g.kh == g.kw && (g.kh == 3 || g.kh == 5 || g.kh == 7)), 52)], 0x13),
    (convEmpty d, 0x13),
    ([(decide (g.oh < g.outY0 + g.outRows), 48), (!g.bandOk, 44), (g.cin % g.gc != 0, 58)], 0x13),
    (regionLen g.vregions w0 wn, 0x10)]

/-! ## Operands -/

/-- Pixel block that tap (ky, kx) of vector `m` fetches: (y, x), or `none` for zero padding (R115). -/
def Geo.pixel (g : Geo) (m ky kx : Nat) : Option (Nat × Nat) :=
  match resolveCoord (srcCoord (g.outY0 + m / g.ow) g.sy g.padT ky g.dy) g.imgH g.mode,
        resolveCoord (srcCoord (m % g.ow) g.sx g.padL kx g.dx) g.imgW g.mode with
  | some y, some x => some (y, x)
  | _, _ => none

/-- Index of a pixel block in the activation region (R111). -/
def Geo.pixIndex (g : Geo) (cb y x : Nat) : Nat := (cb * g.inRows + (y - g.inY0)) * g.imgW + x

/-- The pixel block of chunk `k` of vector `m` (R112). -/
def Geo.chunkPixel (g : Geo) (m k : Nat) : Option Nat :=
  let tap := k / g.cb
  (g.pixel m (tap / g.kw) (tap % g.kw)).map (fun p => g.pixIndex (k % g.cb) p.1 p.2)

/-- Element `i` of a vector that begins at byte `off` of a region. -/
def Tile.elem (tl : Tile) (fmt r0 off i : Nat) : Nat :=
  if fmtBits fmt = 4 then tl.nibble r0 off i else tl.bits r0 (off + i * (fmtBits fmt / 8)) (fmtBits fmt)

/-- Element `r` of the activation vector of chunk `k` (R95, R96, R111, R113): `none` reads as +0. -/
def Geo.actElem (g : Geo) (tl : Tile) (m k r : Nat) : Option Nat :=
  if g.conv then
    if g.cin ≤ k % g.cb * 128 + r then none
    else (g.chunkPixel m k).map (fun p => tl.elem g.af g.act (p * g.vb) r)
  else if g.k ≤ 128 * k + r then none
  else some (tl.elem g.af g.act ((k * g.m + m) * g.vb) r)

/-- Weight of reduction index `r` of chunk `k`, column `c` of block `b` (R95, R96). -/
def Geo.wgtElem (g : Geo) (tl : Tile) (b k r c : Nat) : Option Nat :=
  if g.k ≤ 128 * k + r ∨ g.n ≤ 128 * b + c then none
  else some (tl.elem g.wf (g.wgt + (b * g.kc + k) * g.wb) 0 (r * 128 + c))

/-- Scale of group `j` of chunk `k`: of vector `m` (R60, R62, R116, R120) and of column `c` (R59). -/
def Geo.actScale (g : Geo) (tl : Tile) (m k j : Nat) : Nat :=
  if g.conv then
    match g.chunkPixel m k with
    | some p => tl.bits g.asc ((p * (128 / g.g) + j) * 2) 16
    | none => 0x3F80
  else tl.bits g.asc ((m * (g.k / g.g) + 128 * k / g.g + j) * 2) 16

def Geo.wgtScale (g : Geo) (tl : Tile) (b k j c : Nat) : Nat :=
  tl.bits g.wsc (((128 * k / g.g + j) * g.n + 128 * b + c) * 2) 16

def Geo.actVal (g : Geo) (tl : Tile) (m k r : Nat) : FVal :=
  (g.actElem tl m k r).elim (.fin false 0 0) (elemDecode g.af)
def Geo.wgtVal (g : Geo) (tl : Tile) (b k r c : Nat) : FVal :=
  (g.wgtElem tl b k r c).elim (.fin false 0 0) (elemDecode g.wf)

/-! ## Group sums and the rescale (R54 to R58) -/

/-- A result with what it counts: an infinity from finite operands (ACC_OVF), scales that underflow
(SCALE_UF). -/
structure Acc where
  v   : B32
  ovf : Bool
  uf  : Nat
deriving DecidableEq, Repr

def addOvf (a b : B32) : Bool := fpIsInf (fpAdd a b) && fpIsFin a && fpIsFin b
def mulOvf (a b : B32) : Bool := fpIsInf (fpMul a b) && fpIsFin a && fpIsFin b

/-- The exact group sum of rows lo to hi - 1 (R55 to R57), from +0. -/
def Geo.groupSum (g : Geo) (tl : Tile) (m b k c lo hi : Nat) : FVal :=
  (upTo (hi - lo)).foldl (fun acc i => acc.add ((g.actVal tl m k (lo + i)).mul (g.wgtVal tl b k (lo + i) c)))
    (.fin false 0 0)

/-- Groups of chunk `k` that hold an index below K. -/
def Geo.groups (g : Geo) (k : Nat) : Nat := min 128 (g.k - 128 * k) / g.g

/-- The chunk sum in group order. -/
def Geo.chunkScaled (g : Geo) (tl : Tile) (m b k c : Nat) : Acc :=
  (upTo (g.groups k)).foldl (fun acc j =>
    let sum := g.groupSum tl m b k c (j * g.g) ((j + 1) * g.g)
    let p := fp32Round sum
    let sw := fp32Round (bf16Decode (g.wgtScale tl b k j c))
    let sa := fp32Round (bf16Decode (g.actScale tl m k j))
    let s := fpMul sw sa
    let t := fpMul p s
    ⟨fpAdd acc.v t,
     acc.ovf || (fpIsInf p && sum.isFin) || mulOvf sw sa || mulOvf p s || addOvf acc.v t,
     acc.uf + b2n (fpIsZero s && !fpIsZero sw && !fpIsZero sa)⟩) ⟨0, false, 0⟩

/-- A tree level overflows from finite operands. -/
def pairOvf : List B32 → Bool
  | a :: b :: r => addOvf a b || pairOvf r
  | _ => false

def treeOvf : Nat → List B32 → Bool
  | 0, _ => false
  | n + 1, l => pairOvf l || treeOvf n (pairSums l)

/-- The BF16 column sum: 128 FP32 products in a balanced tree (R54). -/
def Geo.chunkBf (g : Geo) (tl : Tile) (m b k c : Nat) : Acc :=
  let ps := (upTo 128).map (fun r => fp32Round ((g.actVal tl m k r).mul (g.wgtVal tl b k r c)))
  ⟨treeSum 7 ps, treeOvf 7 ps, 0⟩

def Geo.chunkSum (g : Geo) (tl : Tile) (m b k c : Nat) : Acc :=
  if g.isBf then g.chunkBf tl m b k c else g.chunkScaled tl m b k c

/-- The drain's state for one element (R98): the segment accumulator, the accumulator last written back, the
output. -/
structure Drain where
  acc   : B32
  saved : Option B32
  out   : B32
  ovf   : Bool
  uf    : Nat
deriving DecidableEq, Repr

/-- Chunks per segment (R53). -/
def Geo.segLen (g : Geo) : Nat := g.seg

/-- One chunk value drained (R98). -/
def Geo.drain (g : Geo) (k : Nat) (c : Acc) (d : Drain) : Drain :=
  let base := if k % g.segLen = 0 then (0 : B32) else d.acc
  let acc := fpAdd base c.v
  let last := k % g.segLen = g.segLen - 1 ∨ k + 1 = g.kc
  let ovf := d.ovf || c.ovf || addOvf base c.v
  if last then ⟨acc, d.saved, fpAdd d.out acc, ovf || addOvf d.out acc, d.uf + c.uf⟩
  else ⟨acc, some acc, d.out, ovf, d.uf + c.uf⟩

/-- The drain's state for an element of a multiply mode once `n` chunks have left the array (R54, R98). Output columns at
N and above are +0 (R96). DESIGN CHOICE (log entry 106): so are their elements of the accumulator rows, which R96 does not
name. -/
def Geo.drained (g : Geo) (tl : Tile) (b m c n : Nat) : Drain :=
  if g.n ≤ 128 * b + c then ⟨0, some 0, 0, false, 0⟩
  else (upTo n).foldl (fun d k => g.drain k (g.chunkSum tl m b k c) d) ⟨0, none, 0, false, 0⟩

/-- An output element of a multiply mode. -/
def Geo.mulElem (g : Geo) (tl : Tile) (b m c : Nat) : Drain := g.drained tl b m c g.kc

/-! ## Spare rows and columns (R87, R88) -/

/-- The physical rows (or columns) in use under a skip register, in rising order: logical row `i` is the `i`-th of
them. A name given twice, or above 131, removes fewer than four, and what lies above the 128th is not used. -/
def linesInUse (skip : B32) : List Nat :=
  ((upTo 132).filter (fun p => (upTo 4).all (fun i => bitsOf skip.toNat (8 * i) 8 != p))).take 128

/-- The physical cell that holds the weight of logical row `r` and column `c` of a stationary block. -/
def State.cellOf (s : State) (t r c : Nat) : Option (Nat × Nat) :=
  match (linesInUse (s.reg (kTil t 0x108)))[r]?, (linesInUse (s.reg (kTil t 0x10C)))[c]? with
  | some x, some y => some (x, y)
  | _, _ => none

/-! ## Distance and comparison modes (R106 to R110) -/

def satI (w : Nat) (i : Int) : Int := clampInt (-((2 ^ (w - 1) : Nat) : Int)) (((2 ^ (w - 1) : Nat) : Int) - 1) i

/-- Ones among the low 8 bits. -/
def ones8 (n : Nat) : Nat := ((upTo 8).filter (fun i => n.testBit i)).length

/-- One cell of the additive modes. -/
def cellSum (op a w : Nat) : Int :=
  if op = opHam then (ones8 (a ^^^ w) : Int)
  else
    let d := sext a 8 - sext w 8
    if op = opL1 then (d.natAbs : Int) else d * d

/-- An element of a distance mode with whether it saturated. Cells outside K contribute the neutral value
(R109). -/
def Geo.distElem (g : Geo) (tl : Tile) (b m c : Nat) : Int × Bool :=
  if g.n ≤ 128 * b + c then (0, false)
  else
    let cells (k : Nat) : List (Nat × Nat) := (upTo 128).filterMap (fun r =>
      match g.actElem tl m k r, g.wgtElem tl b k r c with
      | some a, some w => some (a, w)
      | _, _ => none)
    if g.op ≤ opHam then
      (upTo g.kc).foldl (fun acc k =>
        let s := acc.1 + (cells k).foldl (fun t x => t + cellSum g.op x.1 x.2) 0
        (satI 32 s, acc.2 || decide (satI 32 s ≠ s))) (0, false)
    else
      (upTo g.kc).foldl (fun acc k => (cells k).foldl (fun acc x =>
        let s := sext x.1 16 + sext x.2 16
        let v := satI 16 s
        (if g.op = opMin then min acc.1 v else max acc.1 v, acc.2 || decide (v ≠ s))) acc)
        (if g.op = opMin then 32767 else -32768, false)

/-! ## Vector convolution (R191, R192) -/

/-- An output element of a vector convolution: output row `i` of the band, column `ox`, channel `c` of
channel block `cb`. DESIGN CHOICE (log entry 147): a lane of a channel at c_in or above takes +0. -/
def Geo.vconvElem (g : Geo) (tl : Tile) (cb i ox c : Nat) : Acc :=
  let ch := cb * 128 + c
  if g.cin ≤ ch then ⟨0, false, 0⟩
  else
    let sum : Int := (upTo (g.kh * g.kw)).foldl (fun acc t =>
      match g.pixel (i * g.ow + ox) (t / g.kw) (t % g.kw) with
      | none => acc
      | some (y, x) => (upTo g.gc).foldl (fun acc j =>
          let ic := ch / g.gc * g.gc + j
          let a := tl.bits g.act (g.pixIndex (ic / 128) y x * 128 + ic % 128) 8
          let w := tl.bits g.wgt (((cb * g.kh * g.kw + t) * g.gc + j) * 128 + c) 8
          acc + sext a 8 * sext w 8) acc) 0
    let p := fpOfInt sum
    let sw := fp32Round (bf16Decode (tl.bits g.wsc (2 * ch) 16))
    let sa := fp32Round (bf16Decode g.ascale)
    let s := fpMul sw sa
    ⟨fpMul p s, mulOvf sw sa || mulOvf p s, b2n (fpIsZero s && !fpIsZero sw && !fpIsZero sa)⟩

/-! ## Rows an output tile reads -/

/-- Rows that bytes `[off, off + n)` of a region touch. -/
def byteRows (r0 off n : Nat) : List Nat :=
  if n = 0 then [] else rowSpan (r0 + off / 512) ((off + n - 1) / 512 + 1 - off / 512)

/-- Rows read for chunk `k` of column block `b` in the order of R97, each with its requester code. DESIGN CHOICE (log
entry 147): of a short last chunk the scales of its existing groups alone are read, as the extents of R59 and R95 hold
no others. -/
def Geo.chunkReads (g : Geo) (b k : Nat) : List (Nat × Nat) :=
    let w := rowSpan (g.wgt + (b * g.kc + k) * g.wb) g.wb
    let ws := if g.scaled then ((upTo (g.groups k)).flatMap (fun j =>
        byteRows g.wsc (((128 * k / g.g + j) * g.n + 128 * b) * 2) (2 * min 128 (g.n - 128 * b)))).eraseDups else []
    let a := if g.conv then ((upTo g.m).flatMap (fun m => match g.chunkPixel m k with
        | some p => byteRows g.act (p * g.vb) g.vb
        | none => [])).eraseDups
      else byteRows g.act (k * g.m * g.vb) (g.m * g.vb)
    let s := if !g.scaled then [] else
      if g.conv then ((upTo g.m).flatMap (fun m => match g.chunkPixel m k with
        | some p => byteRows g.asc (p * (128 / g.g) * 2) (128 / g.g * 2)
        | none => [])).eraseDups
      else ((upTo g.m).flatMap (fun m => byteRows g.asc ((m * (g.k / g.g) + 128 * k / g.g) * 2) (g.groups k * 2))).eraseDups
    (w ++ ws).map (fun r => (r, rqLoad)) ++ (a ++ s).map (fun r => (r, rqFetch))

/-- Rows read for an output tile of a vector convolution. -/
def Geo.vconvReads (g : Geo) (cb i : Nat) : List (Nat × Nat) :=
  let a := ((upTo g.ow).flatMap (fun ox => (upTo (g.kh * g.kw)).flatMap (fun t =>
    match g.pixel (i * g.ow + ox) (t / g.kw) (t % g.kw) with
    | some (y, x) => byteRows g.act (g.pixIndex cb y x * 128) 128
    | none => []))).eraseDups
  let w := byteRows g.wgt (cb * g.kh * g.kw * g.gc * 128) (g.kh * g.kw * g.gc * 128)
  let s := byteRows g.wsc (cb * 256) (2 * min 128 (g.cin - cb * 128))
  (a ++ w ++ s).map (fun r => (r, rqVector))

end Sys2Proof.Machine
end

