-- ==== Sys2Proof/Machine/Ink.lean ====
section
/-!
DEFINITION. The commands of the Inkwell (chapter 04): the scrubber, spare rows and slice power; and what
retiring a physical tile does (R515, R519, R529, R548).
-/
namespace Sys2Proof.Machine

/-! ## Stopping a pipeline (R519) -/

/-- A pipeline stops: it accepts no epoch and in_service falls (R38), its epochs end with DISCARDED_FAULT, and the items
its sources hold are completed at once. -/
def State.stopPipe (s : State) (p : Nat) : State :=
  let pp := s.pipe p
  if !pp.named || pp.stopped then s
  else
    let s := ((s.setPipe p { pp with stopped := true }).setBit (kPipe p 0) 0 false).tryService
    let s := ((s.commit.epochs.filter (fun e => e.2.pipe == p)).map (·.1)).foldl (fun s e => s.endCause e 1) s
    (upTo 8).foldl (fun s port =>
      let k := p * 8 + port
      let q := SMap.get (fun _ => ([] : List SrcTok)) s.commit.srcq k
      let s := { s with commit := { s.commit with srcq := SMap.set (fun _ => []) s.commit.srcq k [] } }
      q.foldl (fun s t => s.completeStopped p t.slots t.sample) s) s

/-- The pipelines with a stage on a logical tile of this device. -/
def State.pipesOn (s : State) (l : Nat) : List Nat :=
  (s.pipes.filter (fun e => match e.2.bind with
    | some b => b.tiles.any (fun t => t.device == s.boot.dev && (t.logical == l || (e.2.paired && t.twin == l)))
    | none => false)).map (·.1)

/-! ## Retiring a physical tile -/

/-- Working physical tiles of a cluster. -/
def State.working (s : State) (c : Nat) : List Nat :=
  ((upTo 10).map (fun i => 10 * c + i)).filter (fun t => !(s.tile t).failed)

/-- A working tile that carries no logical tile and is neither under test nor the target of a move. -/
def State.freeTile (s : State) (t : Nat) : Bool :=
  let c := s.cluster (t / 10)
  !(s.tile t).failed && (s.logicalOf t).isNone && !(c.test.any (fun x => x.1 == t)) &&
    !(c.move.any (fun x => x.2 == t)) && !(c.retire.any (fun x => x.1 == t)) && !(c.repaired.any (fun x => x.1 == t))

/-- Some tile of the cluster other than `t` is free or about to become free (R515): free, under test
without a logical tile, repaired and awaiting its further test, or left by a move under way. -/
def State.willFree (s : State) (t : Nat) : Bool :=
  let c := s.cluster (t / 10)
  (s.working (t / 10)).any (fun x => x != t && (s.freeTile x ||
    ((c.test.any (fun y => y.1 == x) || c.repaired.any (fun y => y.1 == x)) && (s.logicalOf x).isNone &&
      !(c.retire.any (fun y => y.1 == x))) ||
    (c.move.any (fun y => s.physOf y.1 == some x) && !(c.retire.any (fun y => y.1 == x)))))

/-- Every slice of a tile is powered down and its contents are lost (R548). -/
def State.powerOff (s : State) (t : Nat) : State :=
  let tl := s.tile t
  (s.setReg (kTil t 0x208) 0).setTile t
    { tl with ink := [], inkCe := [], inkUe := [], filling := 0, flags := [], scrubQ := [] }

/-- Tile class 0 is exhausted when a cluster has 8 working tiles (Table 17-3). -/
def State.checkTiles (s : State) (c : Nat) : State :=
  if (s.working c).length ≤ 8 then s.exhaust 0 c else s

/-- The retirement of a physical tile ends: `new` is the tile that has taken over its logical tile. A class
0x05 entry is written for cause 2 (R529), the tile is failed and powered down, 0x0B05 is raised, and a
logical tile without a physical tile stops its pipelines. -/
def State.retire (s : State) (t cause : Nat) (info : B32) (logical : Option Nat) (new : Option Nat) : State :=
  let lost := logical.isSome && new.isNone
  let left := ((s.working (t / 10)).filter (· != t)).length
  let n := s.safety.nextSeq
  let seq := if cause = 2 then n else info
  let s := if cause = 2 then
      s.fault { mkFault 5 (if new.isSome then 2 else 4) t
          (mkParam [(0, bitsOf info.toNat 0 16), (32, bitsOf info.toNat 16 4)]) with
        spare := new.getD 0xFFFF, degraded := decide (left ≤ 8) && s.exhausts 0 (t / 10) }
    else s
  let c := s.cluster (t / 10)
  let s := s.setCluster (t / 10) { c with retire := c.retire.filter (fun r => r.1 != t), due := c.due.filter (· != t)
                                          repaired := c.repaired.filter (fun r => r.1 != t) }
  let s := s.setTile t { s.tile t with failed := true, swap := false }
  let s := s.powerOff t
  let s := s.raise 0x0B05 (mkParam [(0, logical.getD 0xFF), (8, t), (16, new.getD 0xFF), (24, cause), (32, seq.toNat)])
  let s := match logical with
    | some l => if lost then
        ((s.pipesOn l).foldl (fun (s : State) p => s.stopPipe p) { s with tileMap := SMap.set tileMap0 s.tileMap l none })
      else s
    | none => s
  s.checkTiles (t / 10)

/-- Retirements of a cluster that need no move: a tile without a logical tile, or, once no epoch is
resident, one whose cluster has no other tile (R515). They wait until firmware serves (R24). -/
def State.settleRetire (s : State) (c : Nat) : State :=
  if !s.fwServes then s
  else
  (s.cluster c).retire.foldl (fun s r =>
    let tl := s.tile r.1
    let cl := s.cluster c
    if tl.residents.isEmpty ∧ !(cl.test.any (fun x => x.1 == r.1)) ∧ !(cl.move.any (fun x => x.2 == r.1)) then
      match s.logicalOf r.1 with
      | none => s.retire r.1 r.2.1 r.2.2 none none
      | some l =>
        if s.willFree r.1 ∨ cl.move.any (fun x => x.1 == l) then s else s.retire r.1 r.2.1 r.2.2 (some l) none
    else s) s

/-! ## The scrubber (R132, R134, R135) -/

/-- The next bank-local row of a powered slice at or above `loc`. -/
def State.walkFrom (s : State) (t loc : Nat) : Option Nat :=
  ((upTo 8).map (fun sl => max loc (128 * sl))).find? (fun l =>
    decide (l < 1024) && s.sliceOn t (l / 128) && decide (loc ≤ l))

/-- A row scrubbed: every correctable word corrected and counted; an uncorrectable one handled as R133 and
R513 say, without an epoch. -/
def State.scrubRow (s : State) (t row : Nat) : State :=
  let tl := s.tile t
  let ue := wordsAt tl.inkUe row
  if !ue.isEmpty then (s.inkRead t row rqScrub none).1.settleRetire (t / 10)
  else
    let ce := wordsAt tl.inkCe row
    (s.setTile t { tl with inkCe := dropRow tl.inkCe row }).addFld (kTil t 0x214) 0 16 ce.length

/-- A bank's walk wraps to its first row. DESIGN CHOICE (log entry 104): a pass over all banks ends when every bank has
wrapped since the last pass ended, so a bank that wraps twice meanwhile counts once. -/
def State.wrapBank (s : State) (t bank : Nat) : State :=
  let tl := s.tile t
  let done := if bank ∈ tl.walked then tl.walked else tl.walked ++ [bank]
  let s := s.setTile t { tl with walk := SMap.set zeroNat tl.walk bank 0
                                 walked := if done.length = 16 then [] else done }
  if done.length = 16 then s.addWrap (kTil t 0x210) 1 else s

/-- The walk of a bank advances past `loc` to the next row of a powered slice, or wraps. -/
def State.walkPast (s : State) (t bank loc : Nat) : State :=
  match s.walkFrom t (loc + 1) with
  | some n => s.setTile t { s.tile t with walk := SMap.set zeroNat (s.tile t).walk bank n }
  | none => s.wrapBank t bank

/-- One scrub of a bank: the oldest row queued for it goes ahead of the walk (R132). -/
def State.scrub (s : State) (t bank : Nat) : Option State :=
  if s.awake ∧ t < 80 ∧ bank < 16 ∧ !(s.tile t).failed ∧ s.bit (kTil t 0x20C) 0 then
    let tl := s.tile t
    match tl.scrubQ.find? (fun r => bankOf r == bank) with
    | some r =>
      let s1 := s.setTile t { tl with scrubQ := tl.scrubQ.filter (· != r) }
      some (if s.sliceOn t (sliceOf r) then (s1.bankWait t bank).scrubRow t r else s1)
    | none =>
      match s.walkFrom t (SMap.get zeroNat tl.walk bank) with
      | some l => some (((s.bankWait t bank).scrubRow t (rowOf bank l)).walkPast t bank l)
      | none =>
        match s.walkFrom t 0 with
        | some l => some ((((s.wrapBank t bank).bankWait t bank).scrubRow t (rowOf bank l)).walkPast t bank l)
        | none => none
  else none

/-- INK_SCRUB (R134). -/
def execInkScrub (t bank : Nat) (s : State) : Out := attempt (s.scrub t bank) s

/-- INK_SCRUB_FORCED (R135): the same scrub, ahead of the other requesters. -/
def execInkScrubForced (t bank : Nat) (s : State) : Out := attempt (s.scrub t bank) s

/-! ## Spare rows (R136 to R138) -/

/-- A write of TIL_INK_REMAP. -/
def State.remapWrite (s : State) (t : Nat) (v : B32) : State :=
  let bank := s.fld (kTil t 0x224) 0 4
  let entry := s.fld (kTil t 0x224) 4 4
  let loc := bitsOf v.toNat 0 16
  if v.getLsbD 31 ∧ loc < 1024 ∧ !((s.tile t).remap.any (fun r => r.bank == bank && r.entry == entry)) then
    s.setRemap t bank entry loc
  else s

/-- INK_REMAP_WRITE. -/
def execInkRemapWrite (rq : Requester) (t : Nat) (v : B32) (s : State) : Out :=
  attempt (if s.awake ∧ t < 80 then some (s.guardReg rq (kTil t 0x228) (fun s => s.remapWrite t v)) else none) s

/-! ## Slice power (R140, R141) -/

/-- The rows of a slice with their word errors are gone: what they held is lost. -/
def State.clearSlice (s : State) (t sl : Nat) : State :=
  let tl := s.tile t
  s.setTile t { tl with
    ink := SMap.dropWhere (fun r => r / 2048 == sl) tl.ink
    inkCe := tl.inkCe.filter (fun e => e.1 / 2048 != sl)
    inkUe := tl.inkUe.filter (fun e => e.1 / 2048 != sl)
    scrubQ := tl.scrubQ.filter (fun r => r / 2048 != sl) }

/-- A bit of TIL_INK_PWR.on goes to 1: an unpowered slice powers up and fills with zeros; for a powered one
a deferred power-down is cancelled. -/
def State.sliceUp (s : State) (t sl : Nat) : State :=
  let on := s.setBit (kTil t 0x208) sl true
  if s.sliceOn t sl then on
  else
    let s := on.clearSlice t sl
    let s := s.setTile t { s.tile t with filling := (s.tile t).filling ||| BitVec.ofNat 8 (2 ^ sl) }
    s.loseSlice t sl

/-- INK_SLICE_POWER_UP. -/
def execInkSlicePowerUp (rq : Requester) (t sl : Nat) (s : State) : Out :=
  attempt (if s.awake ∧ t < 80 ∧ sl < 8 ∧ !(s.bit (kTil t 0x208) sl) then
    some (s.guardReg rq (kTil t 0x208) (fun s => s.sliceUp t sl)) else none) s

/-- INK_SLICE_FILL_DONE: 256 ARITH cycles after the power-up. -/
def execInkSliceFillDone (t sl : Nat) (s : State) : Out :=
  attempt (if s.awake ∧ t < 80 ∧ sl < 8 ∧ (s.tile t).filling.getLsbD sl then
    let tl := s.tile t
    some (((s.setTile t { tl with filling := tl.filling &&& ~~~(BitVec.ofNat 8 (2 ^ sl)) }).setBit (kTil t 0x208) (8 + sl) true).bankWaits t)
    else none) s

/-- INK_SLICE_POWER_OFF: the power-down is requested. -/
def execInkSlicePowerOff (rq : Requester) (t sl : Nat) (s : State) : Out :=
  attempt (if s.awake ∧ t < 80 ∧ sl < 8 ∧ s.bit (kTil t 0x208) sl then
    some (s.guardReg rq (kTil t 0x208) (fun s => s.setBit (kTil t 0x208) sl false)) else none) s

/-- Some epoch resident on the tile belongs to a stage whose window includes a slice. -/
def State.sliceInUse (s : State) (t sl : Nat) : Bool :=
  (s.tile t).residents.any (fun r => (s.hosts t).any (fun h => h.1 == r.pipe &&
    match (s.pipe h.1).stage h.2.2 with
    | some st => st.usesSlice sl
    | none => false))

/-- INK_SLICE_POWER_DOWN: the slice powers down and loses its contents. -/
def execInkSlicePowerDown (t sl : Nat) (s : State) : Out :=
  attempt (if s.awake ∧ t < 80 ∧ sl < 8 ∧ !(s.bit (kTil t 0x208) sl) ∧ s.sliceOn t sl ∧ !(s.sliceInUse t sl) then
    some ((s.setBit (kTil t 0x208) (8 + sl) false).clearSlice t sl) else none) s

/-- INK_CNT_CLEAR (Table 04-12). -/
def execInkCntClear (rq : Requester) (t : Nat) (s : State) : Out :=
  attempt (if s.awake ∧ t < 80 then
    some (s.guardReg rq (kTil t 0x218) (fun s => (upTo 16).foldl (fun s b => s.setReg (kTil t (0x240 + 4 * b)) 0) (s.setReg (kTil t 0x214) 0))) else none) s

end Sys2Proof.Machine
end

