-- ==== Sys2Proof/Machine/Flags.lean ====
section
/-!
DEFINITION. The status codes of Table 00-3 (R12), the flags this block's entries and records carry.
-/
namespace Sys2Proof.Machine

def stOk : Nat := 0x00
def stFault : Nat := 0x01
def stAbort : Nat := 0x02
def stLate : Nat := 0x03
def stLen : Nat := 0x10
def stDims : Nat := 0x11
def stFormat : Nat := 0x12
def stRange : Nat := 0x13
def stSlow : Nat := 0x20
def stDamaged : Nat := 0x21
def stViolation : Nat := 0x30
def stLocked : Nat := 0x31
def stAbsent : Nat := 0x40

/-- Every status the device writes (R12). -/
def statuses : List Nat :=
  [stOk, stFault, stAbort, stLate, stLen, stDims, stFormat, stRange, stSlow, stDamaged, stViolation, stLocked,
   stAbsent]

/-- R13: a fault comes first, then an abort, else the first failing check's status. -/
def chooseStatus (fault abort : Bool) (first : Nat) : Nat :=
  if fault then stFault else if abort then stAbort else first

end Sys2Proof.Machine
end

