-- ==== Sys2Proof/Machine/Matrix.lean ====
section
/-!
DEFINITION. The commands of the matrix array, the vector convolution and the saturation counters (chapters 02,
03 and 05): a step's start, its output tiles, its completion.
-/
namespace Sys2Proof.Machine

/-! ## The nib binding (Table 05-1) -/

def bProEn (b : BitVec 512) : Bool := b.getLsbD 0
def bProOnce (b : BitVec 512) : Bool := b.getLsbD 1
def bEpiEn (b : BitVec 512) : Bool := b.getLsbD 2
def bBase (b : BitVec 512) : Nat := dsc b 1 0 6
def bEntry (b : BitVec 512) (k : SectionKind) : Nat :=
  match k with | .prologue => dsc b 2 0 9 | .epilogue => dsc b 4 0 9 | .settle => dsc b 6 0 9
def bGather (b : BitVec 512) : Nat := dsc b 8 0 32
def bExpected (b : BitVec 512) : Nat := dsc b 12 0 7
def bRsBase (b : BitVec 512) : Nat := dsc b 32 0 32
def bPsum (b : BitVec 512) : Nat := dsc b 36 0 32
def bPreset (b : BitVec 512) (i : Nat) : Nat := dsc b (40 + 4 * i) 0 32

/-! ## Runs -/

def Tile.run (tl : Tile) (st : StepRef) : Option Run := tl.runs.find? (fun r => r.step == st)

def State.setRun (s : State) (t : Nat) (r : Run) : State :=
  let tl := s.tile t
  s.setTile t { tl with runs := tl.runs.map (fun x => if x.step = r.step then r else x) }

def State.dropRun (s : State) (t : Nat) (st : StepRef) : State :=
  let tl := s.tile t
  s.setTile t { tl with runs := tl.runs.filter (fun x => x.step != st) }

def Run.epoch (s : State) (r : Run) : Option (B32 × Nat) := (s.epochRec r.step.epoch).map (fun e => (r.step.epoch, e.pipe))

/-- A prologue runs before output tile `b` (R165). -/
def Run.needsPro (r : Run) (b : Nat) : Bool :=
  match r.bind with
  | some x => bProEn x && (!bProOnce x || b == 0)
  | none => false

def Run.needsEpi (r : Run) : Bool := match r.bind with | some x => bEpiEn x | none => false
def Run.rowMode (r : Run) : Bool := match r.bind with | some x => bEpiEn x && bRow x | none => false

/-- Output tile `b` may start: its prologue, or the one before tile 0, has ended (R165). -/
def Run.blockReady (r : Run) (b : Nat) : Bool :=
  match r.bind with
  | some x => if !bProEn x then true else if bProOnce x then r.pros.contains 0 else r.pros.contains b
  | none => true

/-- The array is held by a step whose output tiles are not all written. -/
def Tile.arrayBusy (tl : Tile) (kind : RunKind) : Bool :=
  tl.runs.any (fun r => r.kind == kind && decide (r.written.length < r.blocks))

/-- Rows read with their requester; the first error ends it. -/
def State.inkReadsBy (s : State) (t : Nat) (ep : Option (B32 × Nat)) : List (Nat × Nat) → State × Nat
  | [] => (s, 0)
  | r :: rs =>
    let x := s.inkRead t r.1 r.2 ep
    if x.2.1 = 0 then x.1.inkReadsBy t ep rs else (x.1, x.2.1)

/-- Rows an output tile writes, with the counts of its slots 0 ACC_OVF and 1 SCALE_UF. -/
structure Block where
  rows : List (Nat × Row)
  ovf  : Nat
  uf   : Nat
deriving DecidableEq, Repr

def lanes (f : Nat → B32) : Row := packRow ((upTo 128).map f)

/-- What the drain has written of column block `b` once `n` of its chunks have left the array (R97, R98, R106, R107):
the accumulator rows, and the output rows once a segment has ended; in the distance modes the output rows alone, after
the last chunk. -/
def Geo.blockAt (g : Geo) (tl : Tile) (b n : Nat) : Block :=
  if g.op = opMul then
    let es := (upTo g.m).map (fun m => (upTo 128).map (fun c => g.drained tl b m c n))
    let accRow (row : List Drain) : Row := packRow (row.map (fun d => d.saved.getD 0))
    let saves := es.any (fun row => (row.headD ⟨0, none, 0, false, 0⟩).saved.isSome)
    ⟨(if saves then (upTo g.m).zipWith (fun m row => (g.acc + m, accRow row)) es else []) ++
       (if g.segLen ≤ n ∨ n = g.kc then
         (upTo g.m).zipWith (fun m row => (g.out + b * g.m + m, packRow (row.map (·.out)))) es else []),
     (es.map (fun row => (row.filter (·.ovf)).length)).foldl (· + ·) 0,
     (es.map (fun row => (row.map (·.uf)).foldl (· + ·) 0)).foldl (· + ·) 0⟩
  else if n < g.kc then ⟨[], 0, 0⟩
  else
    let es := (upTo g.m).map (fun m => (upTo 128).map (fun c => g.distElem tl b m c))
    ⟨(upTo g.m).zipWith (fun m row => (g.out + b * g.m + m, packRow (row.map (fun x => BitVec.ofInt 32 x.1)))) es,
     (es.map (fun row => (row.filter (·.2)).length)).foldl (· + ·) 0, 0⟩

/-- Column block `b` of a matrix step. -/
def Geo.block (g : Geo) (tl : Tile) (b : Nat) : Block := g.blockAt tl b g.kc

/-- The reads of the chunks `k`, `k + 1`, … of column block `b`, until the last or the first error: the state, the
status and the chunks whose reads had no error. -/
def State.readChunks (s : State) (t : Nat) (ep : Option (B32 × Nat)) (g : Geo) (b : Nat) : List Nat → State × Nat × Nat
  | [] => (s, 0, g.kc)
  | k :: ks =>
    let x := s.inkReadsBy t ep (g.chunkReads b k)
    if x.2 = 0 then x.1.readChunks t ep g b ks else (x.1, x.2, k)

/-- One column block of the array: its reads and the rows its drain writes. A read error ends it, and what the drain
has written of the chunks before stays written (R105). DESIGN CHOICE (log entry 107): the drain has written nothing of
the chunk that met the error. -/
def State.arrayBlock (s : State) (t : Nat) (ep : Option (B32 × Nat)) (g : Geo) (b : Nat) : State × Nat × Block :=
  let x := s.readChunks t ep g b (upTo g.kc)
  let o := g.blockAt (s.tile t) b x.2.2
  let w := x.1.inkWrites t rqDrain (if 0 < x.2.2 then o.rows else [])
  (w.1, if x.2.1 ≠ 0 then x.2.1 else w.2, o)

/-- Output tile `b` of a vector convolution: channel block b / out_rows, output row b mod out_rows (R193). DESIGN CHOICE
(log entry 108): elements that overflow count in ACC_OVF as those of a matrix step do, though Table 02-5 names the matrix
step and the split-K reduction alone. -/
def Geo.vblock (g : Geo) (tl : Tile) (b : Nat) : Block :=
  let cb := b / g.outRows
  let i := b % g.outRows
  let es := (upTo g.ow).map (fun ox => (upTo 128).map (fun c => g.vconvElem tl cb i ox c))
  ⟨(upTo g.ow).zipWith (fun ox row => (g.out + b * g.ow + ox, packRow (row.map (·.v)))) es,
   (es.map (fun row => (row.filter (·.ovf)).length)).foldl (· + ·) 0,
   (es.map (fun row => (row.map (·.uf)).foldl (· + ·) 0)).foldl (· + ·) 0⟩

/-- Output tile `b` of a run: its reads, then its rows written; its status. -/
def State.runBlock (s : State) (t : Nat) (r : Run) (b : Nat) : State × Nat × Run :=
  let done (o : Block) : Run := { r with written := r.written ++ [b], clamps := r.clamps ++ [(0, o.ovf), (1, o.uf)] }
  match r.kind with
  | .matrix =>
    let x := s.arrayBlock t (r.epoch s) (geoOf r.desc) b
    (x.1, x.2.1, done x.2.2)
  | .vconv =>
    let g := vgeoOf r.desc
    let x := s.inkReadsBy t (r.epoch s) (g.vconvReads (b / g.outRows) (b % g.outRows))
    if x.2 ≠ 0 then (x.1, x.2, r)
    else
      let o := g.vblock (s.tile t) b
      let w := x.1.inkWrites t rqVector o.rows
      (w.1, w.2, done o)

/-! ## Split-K reductions (R66) -/

/-- The partials of row `row` of a step's output. -/
def Pipe.partsAt (p : Pipe) (stage step row : Nat) : List SplitPart :=
  p.splits.filter (fun x => x.stage == stage && x.step == step && decide (x.row ≤ row) && decide (row < x.row + x.rows))

/-- Their indices in increasing order. -/
def Pipe.partIxs (p : Pipe) (stage step row : Nat) : List Nat :=
  sortBy (fun a b => decide (a < b)) (((p.partsAt stage step row).map (·.index)).eraseDups)

/-- Two rows added lane by lane, with the lanes in which the addition overflows. -/
def addRows (a b : Row) : Row × BitVec 128 :=
  (lanes (fun i => fpAdd (laneOf a i) (laneOf b i)),
   BitVec.ofNat 128 ((upTo 128).foldl (fun m i => if addOvf (laneOf a i) (laneOf b i) then m + 2 ^ i else m) 0))

/-- The partial whose turn it is, where it is here. -/
def SplitRow.due (r : SplitRow) (ixs : List Nat) : Option Row :=
  (ixs[r.next]?).bind (fun i => (r.held.find? (fun h => h.1 == i)).map (·.2))

/-- Partials added in increasing index, as far as they are here. -/
def SplitRow.advance : Nat → List Nat → SplitRow → SplitRow
  | 0, _, r => r
  | n + 1, ixs, r =>
    match r.due ixs with
    | none => r
    | some v =>
      let x := if r.next = 0 then (v, 0) else addRows r.sum v
      SplitRow.advance n ixs { r with next := r.next + 1, sum := x.1, hit := r.hit ||| x.2 }

/-- The reduction of a row of step `own`, as a tile has it. -/
def Tile.splitRow (tl : Tile) (own : StepRef) (row : Nat) : SplitRow :=
  (tl.splits.find? (fun x => x.step == own && x.row == row)).getD ⟨own, row, 0, 0, [], 0⟩

/-- A partial of a row has come to the owner's tile: the accumulator takes what is due, in increasing index; once all
partials are added the row is written and its overflows are staged (R66, R70). The row's status. -/
def State.splitArrive (s : State) (t : Nat) (own : StepRef) (row ix : Nat) (v : Row) : State × Nat :=
  let ixs := (s.pipe own.pipe).partIxs own.stage own.step row
  let tl := s.tile t
  let old := tl.splitRow own row
  let r := SplitRow.advance ixs.length ixs { old with held := old.held ++ [(ix, v)] }
  let s := s.setTile t { tl with splits := tl.splits.filter (fun x => !(x.step == own && x.row == row)) ++ [r] }
  if r.next = ixs.length ∧ old.next < ixs.length then
    let w := s.inkWrite t row rqDrain r.sum
    (w.1.stageClamps own.epoch t [(0, ones r.hit)], w.2)
  else (s, 0)

/-- The owner's own sums of output tile `b`, for the rows that have partials. -/
def State.splitOwn (s : State) (t : Nat) (r : Run) (b : Nat) : State × Nat :=
  match r.kind with
  | .vconv => (s, 0)
  | .matrix =>
    let g := geoOf r.desc
    (rowSpan (g.out + b * g.m) g.m).foldl (fun (x : State × Nat) row =>
      match ((x.1.pipe r.step.pipe).partsAt r.step.stage r.step.step row).find? (fun q => q.push.isNone) with
      | some q => if x.2 = 0 then x.1.splitArrive t r.step row q.index ((x.1.tile t).row row) else x
      | none => x) (s, 0)

/-- The output tiles that may start run in increasing order (R97); an error ends the step (R133, R142). -/
def State.advanceRun : Nat → State → Nat → StepRef → State
  | 0, s, _, _ => s
  | n + 1, s, t, st =>
    match (s.tile t).run st with
    | none => s
    | some r =>
      let b := r.written.length
      if b < r.blocks ∧ r.blockReady b then
        let x := s.runBlock t r b
        if x.2.1 ≠ 0 then (x.1.dropRun t st).abortStep st x.2.1
        else
          let y := (x.1.setRun t x.2.2).splitOwn t r b
          if y.2 ≠ 0 then (y.1.dropRun t st).abortStep st y.2 else y.1.advanceRun n t st
      else s

/-! ## Start and completion -/

/-- TIL_ARR_ERR (Table 03-13). -/
def State.arrErr (s : State) (t st byte : Nat) : State :=
  s.setReg (kTil t 0x114) (BitVec.ofNat 32 (st + 256 + 65536 * byte))

/-- TIL_NIB_ERR (Table 05-8). -/
def State.nibErr (s : State) (t st pc : Nat) : State :=
  s.setReg (kTil t 0x504) (BitVec.ofNat 32 (st + 256 + 512 * pc))

/-- Whether a run fails R186 before its first section. -/
def Run.rowRange (r : Run) : Bool :=
  match r.bind with
  | some b => r.rowMode && (bExpected b == 0 || decide (4095 < bRsBase b + r.rows - 1))
  | none => false

/-- A run that has passed its checks begins: its output tiles that wait for no prologue are computed. -/
def State.startRun (s : State) (t : Nat) (r : Run) : State :=
  if r.rowRange then (s.nibErr t stRange 0).abortStep r.step stRange
  else
    let tl := s.tile t
    (s.setTile t { tl with runs := tl.runs ++ [r] }).advanceRun r.blocks t r.step

/-- Some slice of a stage's window is filling: its accesses wait (R140). -/
def State.windowFilling (s : State) (t : Nat) (sg : Stage) : Bool :=
  (upTo 8).any (fun sl => (s.tile t).filling.getLsbD sl && sg.usesSlice sl)

/-- A compute step of a tile starts. -/
def State.computeStart (s : State) (st : StepRef) (kind : RunKind) : Option State :=
  match s.tileStep st (match kind with | .matrix => kMatrix | .vconv => kVconv) with
  | none => none
  | some (t, _, sg, sp) =>
    if s.skips st then some ((s.beginStep st).finishStep st)
    else if (s.tile t).arrayBusy kind || s.windowFilling t sg then none
    else
        let s1 := (s.beginStep st).markCold st
        match kind with
        | .matrix =>
          match checkMatrix sp.desc sg.inkRow sg.inkRows with
          | some (e, byte) => some ((s1.arrErr t e byte).abortStep st e)
          | none =>
            let g := geoOf sp.desc
            some (s1.startRun t ⟨st, .matrix, sp.desc, sp.bind, g.nb, g.m, [], [], [], [], 0, []⟩)
        | .vconv =>
          match checkVconv sp.desc sg.inkRow sg.inkRows with
          | some (e, _) => some ((s1.nibErr t e 0).abortStep st e)
          | none =>
            let g := vgeoOf sp.desc
            some (s1.startRun t ⟨st, .vconv, sp.desc, sp.bind, g.nb, g.m, [], [], [], [], 0, []⟩)

/-- MATRIX_STEP_START (R94, R239, R240): the step takes its slots, its descriptor is checked, and every
column block whose prologue has ended or is not needed is loaded, issued and drained. -/
def execMatrixStepStart (x : StepCmd) (s : State) : Out := attempt (s.readDesc x (s.computeStart x.ref .matrix)) s

/-- VCONV_STEP_START (R190). -/
def execVconvStepStart (x : StepCmd) (s : State) : Out := attempt (s.readDesc x (s.computeStart x.ref .vconv)) s

/-- Every section of a run has ended (R170). -/
def Run.ended (r : Run) : Bool :=
  decide (r.written.length = r.blocks) &&
  (upTo r.blocks).all (fun b => (!r.needsPro b || r.pros.contains b) && (!r.needsEpi || r.epis.contains b)) &&
  (!r.rowMode || decide (r.settled = r.rows))

/-- Issue cycles of a stationary block (Table 03-4). -/
def Geo.issue (g : Geo) : Nat :=
  if g.op = opMul then
    if g.isBf then 4 * g.m
    else if g.wf = g.af ∧ (g.af = 1 ∨ g.af = 4) then ceilDiv g.m 2
    else g.m
  else if g.op ≤ opHam then g.m else 2 * g.m

/-- Bubble cycles of a step (R104): a free value (log entry 71). -/
def State.bubbles (s : State) : Nat := (Config.freeWord s.freeIx).toNat % 2 ^ 32

/-- A run completes: its saturation counts and, for the array, its cycle and step counts are staged
(R71, R122), and its tokens are produced. -/
def State.computeComplete (s : State) (st : StepRef) (kind : RunKind) : Option State :=
  match s.stepOf st with
  | none => none
  | some (p, _, _) =>
    match s.tileOf p st.stage st.side with
    | none => none
    | some t =>
      match (s.tile t).run st with
      | none => none
      | some r =>
        if s.awake ∧ r.kind = kind ∧ r.ended ∧ !((s.tile t).sect.any (fun x => x.step == st)) then
          let s := (s.dropRun t st).stageClamps st.epoch t r.clamps
          let s := match kind with
            | .matrix =>
              let g := geoOf r.desc
              let n := g.nb * g.kc
              s.stageCount st.epoch [⟨kTil t 0x120, n * 128, .wide⟩, ⟨kTil t 0x128, n * g.issue, .wide⟩,
                ⟨kTil t 0x130, s.bubbles, .wide⟩, ⟨kTil t 0x138, 1, .wrap⟩]
            | .vconv => s
          some ((s.bankWaits t).finishStep st)
        else none

/-- MATRIX_STEP_COMPLETE (R103, R170). -/
def execMatrixStepComplete (st : StepRef) (s : State) : Out := attempt (s.computeComplete st .matrix) s

/-- VCONV_STEP_COMPLETE (R193). -/
def execVconvStepComplete (st : StepRef) (s : State) : Out := attempt (s.computeComplete st .vconv) s

/-! ## Array registers -/

/-- A write of a skip register: ignored while a logical tile maps to the physical tile (R89). -/
def State.setSkip (s : State) (t : Nat) (col : Bool) (v : B32) : State :=
  if (s.logicalOf t).isSome then s else s.setReg (kTil t (if col then 0x10C else 0x108)) v

/-- ARR_SKIP_WRITE (R89). -/
def execArrSkipWrite (rq : Requester) (t : Nat) (col : Bool) (v : B32) (s : State) : Out :=
  attempt (if s.awake ∧ t < 80 then
    let k := kTil t (if col then 0x10C else 0x108)
    some (s.guardReg rq k (fun s => s.setSkip t col v)) else none) s

/-- Registers of a tile from `off`, `n` words, returned to 0. -/
def State.clearRegs (s : State) (k n : Nat) : State := (upTo n).foldl (fun s i => s.setReg (k + 4 * i) 0) s

/-- ARR_CNT_CLEAR (Table 03-10). -/
def execArrCntClear (rq : Requester) (t : Nat) (s : State) : Out :=
  attempt (if s.awake ∧ t < 80 then
    some (s.guardReg rq (kTil t 0x104) (fun s => s.clearRegs (kTil t 0x120) 7)) else none) s

/-! ## Saturation counters (R70 to R80) -/

def kSat (t off n : Nat) : Nat := kTil t (off + 4 * n)

/-- A counter's window starts at moment `at_`, in quarters of a TIME cycle, with the length that TIL_SAT_WIN_n then
holds (R72, Table 02-8). -/
def State.satWindow (s : State) (t n at_ : Nat) : State :=
  let s := s.setReg (kSat t 0x470 n) 0
  let tl := s.tile t
  s.setTile t { tl with satAt := SMap.set zeroNat tl.satAt n at_
                        satLen := SMap.set zeroNat tl.satLen n (s.fld (kSat t 0x410 n) 0 24)
                        satHot := tl.satHot &&& ~~~(BitVec.ofNat 6 (2 ^ n)) }

/-- The present moment in quarters of a TIME cycle, of which a microsecond has 625. -/
def State.quarters (s : State) : Nat := 4 * s.elapsed.toNat

/-- The end of a counter's window, where it has one: a length of 0 has none (R74). -/
def State.satEnd (s : State) (t n : Nat) : Option Nat :=
  match SMap.get zeroNat (s.tile t).satLen n with
  | 0 => none
  | len + 1 => some (SMap.get zeroNat (s.tile t).satAt n + 625 * (len + 1))

/-- An enabled counter's window has ended. -/
def State.satDue (s : State) (t n : Nat) : Bool :=
  s.bit (kTil t 0x400) n && (s.satEnd t n).any (fun e => decide (e ≤ s.quarters))

/-- The windows of a counter up to the present moment: each starts when the one before ends (R72), so all but the first
have the length that the register holds now. -/
def State.satRoll (s : State) (t n : Nat) : State :=
  match s.satEnd t n with
  | none => s
  | some e =>
    if s.satDue t n then
      let len := 625 * s.fld (kSat t 0x410 n) 0 24
      s.satWindow t n (if len = 0 then e else e + (s.quarters - e) / len * len)
    else s

/-- SAT_ENABLE (R72): the enable bit of counter `n` goes from 0 to 1 and its first window starts. -/
def execSatEnable (rq : Requester) (t n : Nat) (s : State) : Out :=
  attempt (if s.awake ∧ t < 80 ∧ n < 6 ∧ !(s.bit (kTil t 0x400) n) then
    some (s.guardReg rq (kTil t 0x400) (fun s => (s.setBit (kTil t 0x400) n true).satWindow t n s.quarters)) else none) s

/-- SAT_CLEAR (R76, Table 02-7). -/
def State.satClear (s : State) (t : Nat) : State :=
  let s := (s.clearRegs (kTil t 0x450) 6).clearRegs (kTil t 0x470) 6
  (upTo 6).foldl (fun s n => if s.bit (kTil t 0x400) n then s.satWindow t n s.quarters
    else s.setTile t { s.tile t with satHot := (s.tile t).satHot &&& ~~~(BitVec.ofNat 6 (2 ^ n)) }) s

def execSatClear (rq : Requester) (t : Nat) (s : State) : Out :=
  attempt (if s.awake ∧ t < 80 then some (s.guardReg rq (kTil t 0x400) (fun s => s.satClear t)) else none) s

/-- A window that has ended before a register of its counter changes has the length that the register held (R72). -/
def State.satRolls (s : State) (t : Nat) : State := (upTo 6).foldl (fun (s : State) n => s.satRoll t n) s

/-- SAT_WINDOW_END (R72, R74): a window has ended, and the next starts at its end. -/
def execSatWindowEnd (t n : Nat) (s : State) : Out :=
  attempt (if s.awake ∧ t < 80 ∧ n < 6 then
    match s.satEnd t n with
    | some e => if s.satDue t n then some (s.satWindow t n e) else none
    | none => none
    else none) s

/-- Counts of an epoch that commits enter one counter of a tile, in the window that holds the moment (R71 to R77): a
disabled counter ignores them; a window count above the threshold raises 0x0B01 once a window, at the primary of a
PAIRED stage. -/
def State.satCommit (s : State) (t n amt : Nat) (primary : Bool) : State :=
  if amt = 0 ∨ !(s.bit (kTil t 0x400) n) then s
  else
    let s := ((s.satRoll t n).addSat (kSat t 0x450 n) amt).addSat (kSat t 0x470 n) amt
    let w := s.reg (kSat t 0x470 n)
    let tl := s.tile t
    if s.reg (kSat t 0x430 n) < w ∧ !(tl.satHot.getLsbD n) then
      let s := s.setTile t { tl with satHot := tl.satHot ||| BitVec.ofNat 6 (2 ^ n) }
      if primary then
        s.raise 0x0B01 (mkParam [(0, s.logicalByte t), (8, t), (16, n), (32, w.toNat)])
      else s
    else s

end Sys2Proof.Machine
end

