-- ==== Sys2Proof/Machine/Nib.lean ====
section
/-!
DEFINITION. The vector engine's sections (chapter 05): the encoding of nib instructions (R171 to R173), section
starts and ends (R161 to R166, R185), control flow, the instructions that reach the Inkwell, and ROW mode
(R182 to R189).
-/
namespace Sys2Proof.Machine

/-! ## Encoding (Tables 05-3 and 05-4) -/

/-- A form R word. -/
def encR (opc d a b c fmt part slot : Nat) (imm : BitVec 20) : B64 :=
  BitVec.ofNat 64 (place opc 58 6 + place d 53 5 + place a 48 5 + place b 43 5 + place c 38 5 + place fmt 34 4 +
    place part 31 3 + place slot 29 2 + imm.toNat)

/-- A form I word. -/
def encI (opc d : Nat) (imm : B32) : B64 := BitVec.ofNat 64 (place opc 58 6 + place d 53 5 + imm.toNat)

/-- The fields of an instruction word. -/
structure Nib where
  opc  : Nat
  d    : Nat
  a    : Nat
  b    : Nat
  c    : Nat
  fmt  : Nat
  part : Nat
  slot : Nat
  imm  : Nat
  imm32 : B32
deriving DecidableEq, Repr

def nibOf (w : B64) : Nib :=
  let n := w.toNat
  ⟨bitsOf n 58 6, bitsOf n 53 5, bitsOf n 48 5, bitsOf n 43 5, bitsOf n 38 5, bitsOf n 34 4, bitsOf n 31 3,
   bitsOf n 29 2, bitsOf n 0 20, BitVec.ofNat 32 (bitsOf n 0 32)⟩

/-- What an opcode uses: each of d, a, b, c unused (0), a vector register (1) or an address register (2);
whether fmt and slot are used; part unused (0), any value (1), a statistic (2), or a group of elements (3);
imm20 unused (0), an offset (1), a LOOP length (2) or a shift (3). -/
structure NibShape where
  d    : Nat := 0
  a    : Nat := 0
  b    : Nat := 0
  c    : Nat := 0
  fmt  : Bool := false
  part : Nat := 0
  slot : Bool := false
  imm  : Nat := 0
deriving DecidableEq, Repr

/-- The form R opcodes of Table 05-4. -/
def nibShape (opc : Nat) : Option NibShape :=
  match opc with
  | 0x00 | 0x01 => some {}
  | 0x02 => some { a := 2, imm := 2 }
  | 0x04 => some { d := 2, a := 2, imm := 1 }
  | 0x05 => some { d := 2, a := 2, b := 2 }
  | 0x06 => some { d := 1, a := 2, imm := 1 }
  | 0x07 => some { a := 2, b := 1, imm := 1 }
  | 0x08 | 0x10 | 0x13 | 0x14 | 0x22 | 0x23 | 0x24 => some { d := 1, a := 1 }
  | 0x0A | 0x0B => some { d := 1, a := 1, c := 2, imm := 1 }
  | 0x0C | 0x0D | 0x0E | 0x0F | 0x11 | 0x12 | 0x15 | 0x16 | 0x17 | 0x18 | 0x19 | 0x1C | 0x1D | 0x21 =>
    some { d := 1, a := 1, b := 1 }
  | 0x1A | 0x1B => some { d := 1, a := 1, imm := 3 }
  | 0x1E => some { d := 1, a := 1, b := 1, c := 1 }
  | 0x1F => some { d := 1, a := 1, fmt := true, part := 3 }
  | 0x20 => some { d := 1, a := 1, b := 1, fmt := true, part := 3, slot := true }
  | 0x25 => some { d := 1, a := 1, part := 1 }
  | 0x26 => some { a := 2, part := 1, imm := 1 }
  | 0x27 => some { a := 1, b := 2, fmt := true, part := 3, imm := 1 }
  | 0x28 => some { d := 1, b := 2, fmt := true, part := 3, imm := 1 }
  | 0x29 => some { d := 1, a := 2, b := 1, c := 2, imm := 1 }
  | 0x2A => some { a := 2, c := 2, imm := 1 }
  | 0x2B => some { d := 1, a := 2, part := 2, imm := 1 }
  | _ => none

/-- A register field of a use (R171). -/
def regOk (use v : Nat) : Bool := if use = 0 then v == 0 else if use = 2 then decide (v < 8) else true

/-- The part values of a format; 32-bit formats in UNPK only. -/
def partOk (opc fmt part : Nat) : Bool :=
  match fmtBits fmt with
  | 4 => true
  | 8 => decide (part < 4)
  | 16 => decide (part < 2)
  | 32 => opc == 0x1F && part == 0
  | _ => false

/-- The opcode and every field value are defined (R171 to R173). -/
def nibOk (w : B64) : Bool :=
  let n := nibOf w
  if n.opc = 0x03 ∨ n.opc = 0x09 then
    bitsOf w.toNat 32 21 == 0 && (n.opc == 0x09 || decide (n.d < 8))
  else
    match nibShape n.opc with
    | none => false
    | some u =>
      bitsOf w.toNat 20 9 == 0 && regOk u.d n.d && regOk u.a n.a && regOk u.b n.b && regOk u.c n.c &&
      (if u.fmt then fmtValid n.fmt && partOk n.opc n.fmt n.part
       else n.fmt == 0 && (u.part == 1 || (u.part == 2 && decide (n.part < 4)) || n.part == 0)) &&
      (u.slot || n.slot == 0) &&
      (match u.imm with
       | 0 => n.imm == 0
       | 1 => true
       | 2 => decide (1 ≤ n.imm) && decide (n.imm < 512)
       | _ => decide (n.imm < 32))

def opEnd : Nat := 0x01

/-- Instruction `i` of a tile's nib memory. -/
def State.nibWord (s : State) (t i : Nat) : B64 := s.reg (kTil t (0x1000 + 8 * i + 4)) ++ s.reg (kTil t (0x1000 + 8 * i))

/-! ## The engine -/

def Section.vr (c : Section) (i : Nat) : Row := SMap.get rowZero c.v i
def Section.ar (c : Section) (i : Nat) : B32 := SMap.get wordZero c.a i
def Section.setV (c : Section) (i : Nat) (r : Row) : Section := { c with v := SMap.set rowZero c.v i r }
def Section.setA (c : Section) (i : Nat) (x : B32) : Section := { c with a := SMap.set wordZero c.a i x }

/-- Inkwell row A_i + imm20, sign-extended, modulo 2^32 (R171). -/
def Section.row (c : Section) (i imm : Nat) : Nat := (c.ar i + BitVec.ofInt 32 (sext imm 20)).toNat

/-- The index that follows index `p`, with the loops that stay open (R172: LOOP). DESIGN CHOICE (log entry 66): the
rule does not say what a LOOP does whose body runs past the end of the LOOP around it. The inner loop goes on, and the
outer one, whose last index is then passed inside the inner loop, does not repeat. -/
def loopNext (p : Nat) : List (Nat × Nat × Nat) → Nat × List (Nat × Nat × Nat)
  | [] => (p + 1, [])
  | (first, last, left) :: ls =>
    if p = last then (if 1 < left then (first, (first, last, left - 1) :: ls) else loopNext p ls)
    else (p + 1, (first, last, left) :: ls)

/-- The instruction at the section's pc has issued. -/
def Section.next (c : Section) : Section :=
  let n := loopNext c.pc c.loops
  { c with pc := n.1, loops := n.2 }

def State.setSect (s : State) (t : Nat) (c : Section) : State := s.setTile t { s.tile t with sect := some c }

def State.nibNext (s : State) (t : Nat) (c : Section) : State := s.setSect t c.next

/-- A section ends in an error of the epoch: its step fails with a status. -/
def State.nibFail (s : State) (t : Nat) (c : Section) (status : Nat) : State :=
  let s := s.dropRun t c.step
  (s.setTile t { s.tile t with sect := none }).abortStep c.step status

/-- An abort of R167, R168, R173 or R186, logged in TIL_NIB_ERR. -/
def State.nibAbort (s : State) (t : Nat) (c : Section) (status : Nat) : State :=
  (s.nibErr t status (min c.pc 511)).nibFail t c status

/-- One instruction: the word at the section's pc must be the one the command spells; an undefined word,
or index 511 without END, aborts with FORMAT (R173). -/
def State.nib (s : State) (t : Nat) (w : B64) (f : Section → Nib → Option State) : Option State :=
  if s.awake ∧ t < 80 then
    match (s.tile t).sect with
    | none => none
    | some c =>
      let w0 := s.nibWord t c.pc
      if 512 ≤ c.pc ∨ !(nibOk w0) ∨ (c.pc = 511 ∧ (nibOf w0).opc ≠ opEnd) then some (s.nibAbort t c stFormat)
      else if w0 = w then f c (nibOf w0) else none
  else none

/-- An instruction that only writes the section's own state. -/
def State.nibSet (s : State) (t : Nat) (w : B64) (f : Section → Nib → Section) : Option State :=
  s.nib t w (fun c n => some (s.nibNext t (f c n)))

/-- The epoch and pipeline of a section. -/
def Section.ep (c : Section) : Option (B32 × Nat) := some (c.step.epoch, c.step.pipe)

/-- Rows read in order: the state, a status, the rows. -/
def State.rowReads (s : State) (t : Nat) (ep : Option (B32 × Nat)) : List Nat → State × Nat × List Row
  | [] => (s, 0, [])
  | r :: rs =>
    let x := s.inkRead t r rqVector ep
    if x.2.1 ≠ 0 then (x.1, x.2.1, [])
    else
      let y := x.1.rowReads t ep rs
      (y.1, y.2.1, x.2.2 :: y.2.2)

/-- Rows read by a nib: inside the stage's window (R167), waiting for a slice that fills (R140). -/
def State.nibRows (s : State) (t : Nat) (c : Section) (rows : List Nat) (k : State → List Row → State) : Option State :=
  match s.stepOf c.step with
  | none => none
  | some (_, sg, _) =>
    if !(rows.all (fun r => sg.inWindow r 1)) then some (s.nibAbort t c stLen)
    else if rows.any (fun r => s.rowFilling t r) then none
    else
      let r := s.rowReads t c.ep rows
      if r.2.1 ≠ 0 then some (r.1.nibFail t c r.2.1) else some (k r.1 r.2.2)

/-! ## Section starts (R164, R165) -/

/-- The order of a step's sections (R165). -/
def Run.order (r : Run) : List (SectionKind × Nat) :=
  let pro (b : Nat) := if r.needsPro b then [(SectionKind.prologue, b)] else []
  let epi (b : Nat) := if r.needsEpi then [(SectionKind.epilogue, b)] else []
  pro 0 ++ (upTo (r.blocks - 1)).flatMap (fun i => pro (i + 1) ++ epi i) ++ epi (r.blocks - 1)

/-- The next section of a step. -/
def Run.nextSection (r : Run) : Option (SectionKind × Nat) :=
  r.order.find? (fun x => match x.1 with
    | .prologue => !(r.pros.contains x.2)
    | .epilogue => !(r.epis.contains x.2)
    | .settle => false)

/-- The next section may start: an epilogue waits for its block's output rows (R165). -/
def Run.sectionReady (r : Run) : Bool :=
  match r.nextSection with
  | some (.prologue, _) => true
  | some (.epilogue, b) => r.written.contains b
  | _ => false

/-- A section of an older resident epoch is ready: it runs first (R165). -/
def Tile.olderSection (tl : Tile) (e : B32) : Bool :=
  tl.runs.any (fun r => olderThan r.step.epoch e && (r.sectionReady || !r.settleQ.isEmpty))

/-- First output row of a step. -/
def Run.outRow (r : Run) : Nat := dsc r.desc 36 0 32

/-- A section with the presets of Table 05-2; every vector register, the transpose buffer and the tables are
clear (R161). -/
def Run.section (r : Run) (kind : SectionKind) (block : Nat) (b : BitVec 512) : Section :=
  let a0 := match kind with
    | .settle => block
    | _ => r.outRow + block * r.rows
  let a1 := match kind with | .settle => bRsBase b + block | _ => r.rows
  let a2 := match kind with | .settle => bBase b | _ => bBase b + block
  let regs := [a0, a1, a2] ++ (upTo 5).map (fun i => bPreset b i)
  let c : Section := ⟨r.step, kind, block, bEntry b kind, [], [], [], [], [], [], 0⟩
  (upTo 8).foldl (fun c i => c.setA i (BitVec.ofNat 32 (regs[i]?.getD 0))) c

/-- NIB_SECTION_START (R161, R164, R165): a prologue or an epilogue, in the order of its step. -/
def execNibSectionStart (t : Nat) (st : StepRef) (kind : SectionKind) (block : Nat) (s : State) : Out :=
  attempt (if s.awake ∧ t < 80 ∧ (s.tile t).sect.isNone ∧ kind ≠ .settle then
    match (s.tile t).run st with
    | some r =>
      match r.bind with
      | some b =>
        if r.nextSection = some (kind, block) ∧ r.sectionReady ∧ !((s.tile t).olderSection st.epoch) then
          some (s.setSect t (r.section kind block b))
        else none
      | none => none
    | none => none
    else none) s

/-- SETTLE_START (R185): the oldest released row of the step. -/
def execSettleStart (t : Nat) (st : StepRef) (row : Nat) (s : State) : Out :=
  attempt (if s.awake ∧ t < 80 ∧ (s.tile t).sect.isNone then
    match (s.tile t).run st with
    | some r =>
      match r.bind with
      | some b =>
        if r.settleQ.head? = some row ∧ !((s.tile t).olderSection st.epoch) then
          let tl := s.tile t
          let k := tl.half st.epoch * 4096 + bRsBase b + row
          let e := SMap.get RsEntry.idle tl.rstats k
          let s := s.setTile t { tl with rstats := SMap.set RsEntry.idle tl.rstats k { e with state := .settling } }
          some (s.setSect t (r.section .settle row b))
        else none
      | none => none
    | none => none
    else none) s

/-! ## Control flow -/

def execNibNop (t : Nat) (s : State) : Out := attempt (s.nibSet t (encR 0x00 0 0 0 0 0 0 0 0) (fun c _ => c)) s

/-- The step's record of an ended section: its counts, its place in the order, and for a settle the entry back
to idle (R185). -/
def State.endSection (s : State) (t : Nat) (c : Section) : State :=
  let s := s.setTile t { s.tile t with sect := none }
  let s := if c.gfault = 0 then s else s.stageCount c.step.epoch [⟨kTil t 0x508, c.gfault, .sat⟩]
  match (s.tile t).run c.step with
  | none => s
  | some r =>
    let r := { r with clamps := r.clamps ++ c.clamps }
    match c.kind with
    | .prologue => (s.setRun t { r with pros := r.pros ++ [c.block] }).advanceRun r.blocks t c.step
    | .epilogue => s.setRun t { r with epis := r.epis ++ [c.block] }
    | .settle =>
      let s := s.setRun t { r with settled := r.settled + 1, settleQ := r.settleQ.filter (· != c.block) }
      let tl := s.tile t
      let base := r.bind.elim 0 bRsBase
      s.setTile t { tl with rstats := SMap.set RsEntry.idle tl.rstats (tl.half c.step.epoch * 4096 + base + c.block)
                                        (RsEntry.idle 0) }

/-- END (R161, R165, R185): after a prologue the array goes on, once the step's rows are powered and filled (R140). -/
def execNibEnd (t : Nat) (s : State) : Out :=
  attempt (s.nib t (encR opEnd 0 0 0 0 0 0 0 0) (fun c _ =>
    if c.kind = .prologue ∧ (s.stepOf c.step).any (fun x => s.windowFilling t x.2.1) then none
    else some (s.endSection t c))) s

/-- LOOP (R172, R173). -/
def execNibLoop (t a : Nat) (body : Nat) (s : State) : Out :=
  attempt (s.nib t (encR 0x02 0 a 0 0 0 0 0 (BitVec.ofNat 20 body)) (fun c n =>
    let reps := (c.ar n.a).toNat
    if 2 ≤ c.loops.length ∨
        (upTo n.imm).any (fun i => decide (c.pc + 1 + i < 512) && (nibOf (s.nibWord t (c.pc + 1 + i))).opc == opEnd) then
      some (s.nibAbort t c stFormat)
    else if reps = 0 then
      let x := loopNext (c.pc + n.imm) c.loops
      some (s.setSect t { c with pc := x.1, loops := x.2 })
    else some (s.setSect t { c with pc := c.pc + 1, loops := [(c.pc + 1, c.pc + n.imm, reps)] ++ c.loops }))) s

def execNibAmov (t d : Nat) (imm : B32) (s : State) : Out :=
  attempt (s.nibSet t (encI 0x03 d imm) (fun c n => c.setA n.d n.imm32)) s

def execNibAadd (t d a : Nat) (imm : BitVec 20) (s : State) : Out :=
  attempt (s.nibSet t (encR 0x04 d a 0 0 0 0 0 imm) (fun c n => c.setA n.d (BitVec.ofNat 32 (c.row n.a n.imm)))) s

def execNibAaddr (t d a b : Nat) (s : State) : Out :=
  attempt (s.nibSet t (encR 0x05 d a b 0 0 0 0 0) (fun c n => c.setA n.d (c.ar n.a + c.ar n.b))) s

/-! ## Inkwell rows -/

/-- LD (R167). -/
def execNibLd (t d a : Nat) (imm : BitVec 20) (s : State) : Out :=
  attempt (s.nib t (encR 0x06 d a 0 0 0 0 0 imm) (fun c n =>
    s.nibRows t c [c.row n.a n.imm] (fun s rs => s.nibNext t (c.setV n.d (rs.headD 0))))) s

/-- Rows that an epilogue of block `b` may not write (R168): the step's operand and accumulator extents, and
output rows of later blocks. -/
def Run.epiForbids (r : Run) (b row : Nat) : Bool :=
  let g := match r.kind with | .matrix => geoOf r.desc | .vconv => vgeoOf r.desc
  let rs := match r.kind with | .matrix => g.regions | .vconv => g.vregions
  (rs.filter (fun x => x.1 != 36)).any (fun x => decide (x.2.1 ≤ row) && decide (row < x.2.1 + x.2.2.1)) ||
  (decide (g.out + (b + 1) * r.rows ≤ row) && decide (row < g.out + r.blocks * r.rows))

/-- ST (R167, R168). -/
def execNibSt (t a b : Nat) (imm : BitVec 20) (s : State) : Out :=
  attempt (s.nib t (encR 0x07 0 a b 0 0 0 0 imm) (fun c n =>
    let row := c.row n.a n.imm
    match s.stepOf c.step, (s.tile t).run c.step with
    | some (_, sg, _), some r =>
      if !(sg.inWindow row 1) then some (s.nibAbort t c stLen)
      else if c.kind = .epilogue ∧ r.epiForbids c.block row then some (s.nibAbort t c stRange)
      else if s.rowFilling t row then none
      else
        let x := s.inkWrite t row rqVector (c.vr n.b)
        if x.2 ≠ 0 then some (x.1.nibFail t c x.2) else some (x.1.nibNext t c)
    | _, _ => none)) s

/-- Lane (A_c + imm20) mod 128. -/
def Section.lane (c : Section) (i imm : Nat) : Nat := c.row i imm % 128

/-- GROW (R177, R178): an index outside the gather table gives +0 and a staged count. -/
def execNibGrow (t d a b c : Nat) (imm : BitVec 20) (s : State) : Out :=
  attempt (s.nib t (encR 0x29 d a b c 0 0 0 imm) (fun k n =>
    let x := (laneOf (k.vr n.b) (k.lane n.c n.imm)).toInt
    let bound := (((s.tile t).run k.step).bind (·.bind)).elim 0 bGather
    if x < 0 ∨ (bound : Int) ≤ x then some (s.nibNext t { k.setV n.d 0 with gfault := k.gfault + 1 })
    else
      s.nibRows t k [(k.ar n.a + BitVec.ofInt 32 x).toNat] (fun s rs => s.nibNext t (k.setV n.d (rs.headD 0))))) s

/-- TBLLD (R175). -/
def execNibTblld (t a part : Nat) (imm : BitVec 20) (s : State) : Out :=
  attempt (s.nib t (encR 0x26 0 a 0 0 0 part 0 imm) (fun c n =>
    let r := c.ar n.a + BitVec.ofInt 32 (sext n.imm 20)
    s.nibRows t c [r.toNat, (r + 1).toNat, (r + 2).toNat] (fun s rs =>
      match rs with
      | [x, y, z] => s.nibNext t { c with tables := (c.tables.filter (fun e => e.1 != n.part)) ++ [(n.part, x, y, z)] }
      | _ => s))) s

/-! ## ROW mode (R182 to R189) -/

/-- Largest |x| over the finite lanes (RAMAX); +0 if none. -/
def rowAmax (r : Row) : B32 :=
  ((upTo 128).map (fun i => laneOf r i)).foldl (fun m x => if fpIsFin x then fpMax m (fpAbs x) else m) 0

/-- The larger of two values, a NaN standing for none. Between a held and an arriving maximum (R183) the rule does not
name a NaN's place: the number is kept (DESIGN CHOICE, log entry 68). -/
def maxNum (a b : B32) : B32 := if fpIsNan a then (if fpIsNan b then fpNan else b) else if fpIsNan b then a else fpMax a b

/-- Largest non-NaN lane (RMAX); the canonical NaN if none. -/
def rowMax (r : Row) : B32 := ((upTo 128).map (fun i => laneOf r i)).foldl maxNum fpNan

/-- Lane sum (R174). -/
def rowSum (r : Row) : B32 := treeSum 7 ((upTo 128).map (fun i => laneOf r i))

def mapLanes (f : B32 → B32) (r : Row) : Row := packRow ((upTo 128).map (fun i => f (laneOf r i)))

/-- A row-stat message (Table 05-6). -/
def mkRs (kind block e : Nat) (epoch amax max sum sumsq : B32) : BitVec 256 :=
  BitVec.ofNat 256 (kind + place block 8 6 + place e 16 12 + place epoch.toNat 32 32 + place amax.toNat 64 32 +
    place max.toNat 96 32 + place sum.toNat 128 32 + place sumsq.toNat 160 32)

def rsKind (m : BitVec 256) : Nat := bitsOf m.toNat 0 1
def rsBlock (m : BitVec 256) : Nat := bitsOf m.toNat 8 6
def rsEntry (m : BitVec 256) : Nat := bitsOf m.toNat 16 12
def rsEpoch (m : BitVec 256) : B32 := BitVec.ofNat 32 (bitsOf m.toNat 32 32)
def rsVal (m : BitVec 256) (i : Nat) : B32 := BitVec.ofNat 32 (bitsOf m.toNat (64 + 32 * i) 32)

/-- A row-stat message sent to a folio tile: inside the device it is in flight, to another device it goes as
an RSTAT message (R182). -/
def State.sendRs (s : State) (t pipe : Nat) (side : Bool) (folioTile : Nat) (bits : BitVec 256) : State :=
  match (s.pipe pipe).mapTile side folioTile with
  | none => s
  | some (dev, l) =>
    if dev = s.boot.dev then
      match s.physOf l with
      | some d => { s with commit := { s.commit with rsFly := s.commit.rsFly ++ [(⟨d, pipe, side, bits⟩ : RsMsg)] } }
      | none => s
    else s.sendMsg (mkMsg s.boot.dev dev 5 side false t 4 0 (l + 256 * pipe) 0 0 (natToBytes bits.toNat 32))

/-- RSTAT (R182): the four partials of a row go to the owner. An entry or block that the message cannot
carry lies outside R186's ranges. -/
def execNibRstat (t a c : Nat) (imm : BitVec 20) (s : State) : Out :=
  attempt (s.nib t (encR 0x2A 0 a 0 c 0 0 0 imm) (fun k n =>
    let x := k.vr n.a
    let e := k.row n.a n.imm
    let blk := (k.ar n.c).toNat
    match ((s.tile t).run k.step).bind (·.bind) with
    | none => none
    | some b =>
      if 4096 ≤ e ∨ 64 ≤ blk then some (s.nibAbort t k stRange)
      else
        let m := mkRs 0 blk e k.step.epoch (rowAmax x) (rowMax x) (rowSum x) (rowSum (mapLanes (fun v => fpMul v v) x))
        some ((s.nibNext t k).sendRs t k.step.pipe k.step.side (bOwner b) m))) s

/-- RSTGET (R185). -/
def execNibRstget (t d a part : Nat) (imm : BitVec 20) (s : State) : Out :=
  attempt (s.nib t (encR 0x2B d a 0 0 0 part 0 imm) (fun c n =>
    let tl := s.tile t
    let e := c.row n.a n.imm
    let r := SMap.get RsEntry.idle tl.rstats (tl.half c.step.epoch * 4096 + e)
    if e < 4096 ∧ (r.state = .released ∨ r.state = .settling) then
      let v := match n.part with | 0 => r.amax | 1 => r.max | 2 => r.sum | _ => r.sumsq
      some (s.nibNext t (c.setV n.d (packRow (List.replicate 128 v))))
    else some (s.nibAbort t c stFormat))) s

/-- Output rows of a step with a binding: M (Table 05-1, R193). -/
def Step.outRows (sp : Step) : Nat := if hKind sp.hdr = kVconv then (vgeoOf sp.desc).m else (geoOf sp.desc).m

/-- The ROW-mode steps of an epoch that a tile owns and has not completed, in program order: binding and
rows. -/
def State.owned (s : State) (t pipe : Nat) (side : Bool) (e : B32) : List (BitVec 512 × Nat) :=
  let p := s.pipe pipe
  ((s.hosts t).filter (fun h => h.1 == pipe && h.2.1 == side)).flatMap (fun h =>
    match p.stage h.2.2 with
    | none => []
    | some sg =>
      let pr := s.prog side h.2.2 e
      (upTo sg.steps.length).filterMap (fun j =>
        match sg.steps[j]? with
        | none => none
        | some sp =>
          match sp.bind with
          | some b =>
            if bRow b ∧ bEpiEn b ∧ !(pr.done.contains j) ∧
                (p.mapTile side (bOwner b)).any (fun m => m.1 == s.boot.dev && s.physOf m.2 == some t) then
              some (b, sp.outRows)
            else none
          | none => none))

/-- A message leaves the flight. -/
def State.takeRs (s : State) (m : RsMsg) : Option State :=
  if m ∈ s.commit.rsFly then some { s with commit := { s.commit with rsFly := s.commit.rsFly.erase m } } else none

/-- Sum of the partials at lanes 2k + o in increasing block index from +0 (R184). -/
def partialSum (r : Row) (n o : Nat) : B32 := (upTo n).foldl (fun acc k => fpAdd acc (laneOf r (2 * k + o))) 0

def setLane (r : Row) (i : Nat) (v : B32) : Row := packRow ((upTo 128).map (fun j => if j = i then v else laneOf r j))

/-- The contribution's place is wrong: RANGE (R186). DESIGN CHOICE (log entry 68): no instruction stands at the owner, so
TIL_NIB_ERR.pc is 0. -/
def State.rsRange (s : State) (t : Nat) (e : B32) : State := (s.nibErr t stRange 0).endCause e 2

/-- RSTAT_CONTRIBUTION_RECEIVE (R183, R184, R186, R189). -/
def execRstatContributionReceive (t pipe : Nat) (side : Bool) (msg : BitVec 256) (s : State) : Out :=
  attempt (if s.awake ∧ rsKind msg = 0 then
    match s.takeRs ⟨t, pipe, side, msg⟩ with
    | none => none
    | some s1 =>
      let ep := rsEpoch msg
      let e := rsEntry msg
      let k := rsBlock msg
      let tl := s1.tile t
      if !(tl.holds ep) ∨ !(s1.epochLive ep) then some s1
      else
        let os := s1.owned t pipe side ep
        match (os.find? (fun x => decide (bRsBase x.1 ≤ e) && decide (e < bRsBase x.1 + x.2))) with
        | none => some (s1.rsRange t ep)
        | some (b, _) =>
          let key := tl.half ep * 4096 + e
          let r := SMap.get RsEntry.idle tl.rstats key
          let row := bPsum b + (e - bRsBase b)
          if bExpected b ≤ k then some (s1.rsRange t ep)
          else if r.bitmap.getLsbD k then some (s1.endCause ep 1)
          else if !((s1.hosts t).any (fun h => h.1 == pipe && h.2.1 == side &&
              ((s1.pipe pipe).stage h.2.2).any (fun sg => sg.inWindow row 1))) then
            some ((s1.nibErr t stLen 0).endCause ep 2)
          else if s1.rowFilling t row then none
          else
            let x := s1.inkRead t row rqVector (some (ep, pipe))
            if x.2.1 ≠ 0 then some (x.1.endCause ep x.2.1)
            else
              let psum := setLane (setLane x.2.2 (2 * k) (rsVal msg 2)) (2 * k + 1) (rsVal msg 3)
              let y := x.1.inkWrite t row rqVector psum
              if y.2 ≠ 0 then some (y.1.endCause ep y.2)
              else
                let first := r.state == .idle
                let r := { r with
                  state := if r.state = .idle then .collecting else r.state
                  bitmap := r.bitmap ||| BitVec.ofNat 64 (2 ^ k)
                  amax := if first then rsVal msg 0 else maxNum r.amax (rsVal msg 0)
                  max := if first then rsVal msg 1 else maxNum r.max (rsVal msg 1) }
                let tl := y.1.tile t
                let s2 := y.1.setTile t { tl with rstats := SMap.set RsEntry.idle tl.rstats key r }
                if ((upTo 64).filter (fun i => r.bitmap.getLsbD i)).length = bExpected b then
                  let m := mkRs 1 0 e ep r.amax r.max (partialSum psum (bExpected b) 0) (partialSum psum (bExpected b) 1)
                  some ((bContribs b).foldl (fun s f => s.sendRs t pipe side f m) s2)
                else some s2
    else none) s

/-- RSTAT_RELEASE_RECEIVE (R184, R189): the contributor's entry is released and its row queued. -/
def execRstatReleaseReceive (t pipe : Nat) (side : Bool) (msg : BitVec 256) (s : State) : Out :=
  attempt (if s.awake ∧ rsKind msg = 1 then
    match s.takeRs ⟨t, pipe, side, msg⟩ with
    | none => none
    | some s1 =>
      let ep := rsEpoch msg
      let e := rsEntry msg
      let tl := s1.tile t
      let hit := tl.runs.find? (fun r => r.step.epoch == ep && r.step.pipe == pipe && r.step.side == side && r.rowMode &&
        r.bind.any (fun b => decide (bRsBase b ≤ e) && decide (e < bRsBase b + r.rows)))
      match hit with
      | none => some s1
      | some r =>
        let key := tl.half ep * 4096 + e
        let old := SMap.get RsEntry.idle tl.rstats key
        let new : RsEntry := { old with state := .released, amax := rsVal msg 0, max := rsVal msg 1, sum := rsVal msg 2,
                                        sumsq := rsVal msg 3 }
        let s1 := s1.setTile t { tl with rstats := SMap.set RsEntry.idle tl.rstats key new }
        some (s1.setRun t { r with settleQ := r.settleQ ++ [e - r.bind.elim 0 bRsBase] })
    else none) s

/-! ## Nib registers -/

/-- A write of half of TIL_NIB_MEM_i: applied only while no epoch is resident (Table 05-11). -/
def State.nibMemWrite (s : State) (t k : Nat) (v : B32) : State := if (s.tile t).residents.isEmpty then s.setReg k v else s

/-- NIB_MEM_WRITE. -/
def execNibMemWrite (rq : Requester) (t i : Nat) (high : Bool) (v : B32) (s : State) : Out :=
  attempt (if s.awake ∧ t < 80 ∧ i < 512 then
    let k := kTil t (0x1000 + 8 * i + 4 * b2n high)
    some (s.guardReg rq k (fun s => s.nibMemWrite t k v)) else none) s

/-- NIB_CNT_CLEAR (Table 05-10). -/
def execNibCntClear (rq : Requester) (t : Nat) (s : State) : Out :=
  attempt (if s.awake ∧ t < 80 then
    some (s.guardReg rq (kTil t 0x510) (fun s => s.setReg (kTil t 0x508) 0)) else none) s

end Sys2Proof.Machine
end

