-- ==== Sys2Proof/Machine/NibAlu.lean ====
section
/-!
DEFINITION. The nib instructions that compute on vector registers (R172, R174 to R176, R180).
-/
namespace Sys2Proof.Machine

/-! ## Lane-wise operations -/

def lanes1 (f : B32 → B32) (x : Row) : Row := packRow ((upTo 128).map (fun i => f (laneOf x i)))
def lanes2 (f : B32 → B32 → B32) (x y : Row) : Row := packRow ((upTo 128).map (fun i => f (laneOf x i) (laneOf y i)))
def splat (v : B32) : Row := packRow (List.replicate 128 v)

/-- V_d from V_a. -/
def State.nib1 (s : State) (t : Nat) (w : B64) (f : Row → Row) : Option State :=
  s.nibSet t w (fun c n => c.setV n.d (f (c.vr n.a)))

/-- V_d from V_a and V_b. -/
def State.nib2 (s : State) (t : Nat) (w : B64) (f : Row → Row → Row) : Option State :=
  s.nibSet t w (fun c n => c.setV n.d (f (c.vr n.a) (c.vr n.b)))

def w2 (opc d a b : Nat) : B64 := encR opc d a b 0 0 0 0 0
def w1 (opc d a : Nat) : B64 := encR opc d a 0 0 0 0 0 0

/-- All ones or zero. -/
def maskOf (b : Bool) : B32 := if b then 0xFFFFFFFF else 0

/-! ## Moves -/

def execNibMov (t d a : Nat) (s : State) : Out := attempt (s.nib1 t (w1 0x08 d a) id) s

def execNibBcast (t d : Nat) (imm : B32) (s : State) : Out :=
  attempt (s.nibSet t (encI 0x09 d imm) (fun c n => c.setV n.d (splat n.imm32))) s

def execNibLane (t d a c : Nat) (imm : BitVec 20) (s : State) : Out :=
  attempt (s.nibSet t (encR 0x0A d a 0 c 0 0 0 imm) (fun k n =>
    k.setV n.d (splat (laneOf (k.vr n.a) (k.lane n.c n.imm))))) s

def execNibIns (t d a c : Nat) (imm : BitVec 20) (s : State) : Out :=
  attempt (s.nibSet t (encR 0x0B d a 0 c 0 0 0 imm) (fun k n =>
    k.setV n.d (setLane (k.vr n.d) (k.lane n.c n.imm) (laneOf (k.vr n.a) 0)))) s

/-! ## FP32 and INT32 lanes -/

def execNibFadd (t d a b : Nat) (s : State) : Out := attempt (s.nib2 t (w2 0x0C d a b) (lanes2 fpAdd)) s
def execNibFsub (t d a b : Nat) (s : State) : Out := attempt (s.nib2 t (w2 0x0D d a b) (lanes2 fpSub)) s
def execNibFmul (t d a b : Nat) (s : State) : Out := attempt (s.nib2 t (w2 0x0E d a b) (lanes2 fpMul)) s
def execNibFdiv (t d a b : Nat) (s : State) : Out := attempt (s.nib2 t (w2 0x0F d a b) (lanes2 fpDiv)) s
def execNibFsqrt (t d a : Nat) (s : State) : Out := attempt (s.nib1 t (w1 0x10 d a) (lanes1 fpSqrt)) s
def execNibFmin (t d a b : Nat) (s : State) : Out := attempt (s.nib2 t (w2 0x11 d a b) (lanes2 fpMin)) s
def execNibFmax (t d a b : Nat) (s : State) : Out := attempt (s.nib2 t (w2 0x12 d a b) (lanes2 fpMax)) s
def execNibFabs (t d a : Nat) (s : State) : Out := attempt (s.nib1 t (w1 0x13 d a) (lanes1 fpAbs)) s
def execNibFneg (t d a : Nat) (s : State) : Out := attempt (s.nib1 t (w1 0x14 d a) (lanes1 fpNeg)) s
def execNibIadd (t d a b : Nat) (s : State) : Out := attempt (s.nib2 t (w2 0x15 d a b) (lanes2 (· + ·))) s
def execNibIsub (t d a b : Nat) (s : State) : Out := attempt (s.nib2 t (w2 0x16 d a b) (lanes2 (· - ·))) s
def execNibAnd (t d a b : Nat) (s : State) : Out := attempt (s.nib2 t (w2 0x17 d a b) (fun x y => x &&& y)) s
def execNibOr (t d a b : Nat) (s : State) : Out := attempt (s.nib2 t (w2 0x18 d a b) (fun x y => x ||| y)) s
def execNibXor (t d a b : Nat) (s : State) : Out := attempt (s.nib2 t (w2 0x19 d a b) (fun x y => x ^^^ y)) s

def execNibShl (t d a : Nat) (sh : Nat) (s : State) : Out :=
  attempt (s.nibSet t (encR 0x1A d a 0 0 0 0 0 (BitVec.ofNat 20 sh)) (fun c n =>
    c.setV n.d (lanes1 (fun x => x <<< n.imm) (c.vr n.a)))) s

def execNibSra (t d a : Nat) (sh : Nat) (s : State) : Out :=
  attempt (s.nibSet t (encR 0x1B d a 0 0 0 0 0 (BitVec.ofNat 20 sh)) (fun c n =>
    c.setV n.d (lanes1 (fun x => x.sshiftRight n.imm) (c.vr n.a)))) s

def execNibFclt (t d a b : Nat) (s : State) : Out :=
  attempt (s.nib2 t (w2 0x1C d a b) (lanes2 (fun x y => maskOf (fpLt x y)))) s
def execNibFceq (t d a b : Nat) (s : State) : Out :=
  attempt (s.nib2 t (w2 0x1D d a b) (lanes2 (fun x y => maskOf (fpEq x y)))) s

def execNibSel (t d a b c : Nat) (s : State) : Out :=
  attempt (s.nibSet t (encR 0x1E d a b c 0 0 0 0) (fun k n =>
    k.setV n.d (packRow ((upTo 128).map (fun i =>
      if laneOf (k.vr n.c) i ≠ 0 then laneOf (k.vr n.a) i else laneOf (k.vr n.b) i))))) s

/-! ## Elements -/

/-- Element `i` of group `part` of a register, `w` bits each. -/
def elemOf (r : Row) (w part i : Nat) : Nat := bitsOf r.toNat ((part * 128 + i) * w) w

/-- Group `part` of a register replaced by 128 elements of `w` bits; every other bit stays. -/
def setElems (r : Row) (w part : Nat) (es : List Nat) : Row :=
  let lo := part * 128 * w
  let n := 128 * w
  let v := es.reverse.foldl (fun acc e => acc * 2 ^ w + e % 2 ^ w) 0
  (r &&& ~~~(BitVec.ofNat 4096 (place (2 ^ n - 1) lo n))) ||| BitVec.ofNat 4096 (place v lo n)

def execNibUnpk (t d a : Nat) (fmt part : Nat) (s : State) : Out :=
  attempt (s.nibSet t (encR 0x1F d a 0 0 fmt part 0 0) (fun c n =>
    c.setV n.d (packRow ((upTo 128).map (fun i => elemToFp32 n.fmt (elemOf (c.vr n.a) (fmtBits n.fmt) n.part i)))))) s

/-- QNT (R50, Table 02-5): saturated, clamped and NaN elements count in CLAMP slot `slot`, counter 2 + slot. -/
def execNibQnt (t d a b : Nat) (fmt part slot : Nat) (s : State) : Out :=
  attempt (s.nibSet t (encR 0x20 d a b 0 fmt part slot 0) (fun c n =>
    let qs := (upTo 128).map (fun i => quantise n.fmt (laneOf (c.vr n.a) i) (laneOf (c.vr n.b) i))
    let hits := (qs.filter (·.2)).length
    { c.setV n.d (setElems (c.vr n.d) (fmtBits n.fmt) n.part (qs.map (·.1))) with
      clamps := if hits = 0 then c.clamps else c.clamps ++ [(2 + n.slot, hits)] })) s

/-- BF16 rounding of an FP32 value, held as FP32. -/
def bf16Rne (x : B32) : B32 := fp32Round (bf16Decode (fpToBf16 x))

/-- One lane of QSCALE and whether it counts in SCALE_UF (R180). -/
def qscaleLane (a q : B32) : B32 × Bool :=
  if fpIsZero a then (fpOne, false)
  else
    let sb := bf16Rne (fpDiv a q)
    if fpIsZero sb then (0x00010000, true) else (sb, false)

def execNibQscale (t d a b : Nat) (s : State) : Out :=
  attempt (s.nibSet t (w2 0x21 d a b) (fun c n =>
    let qs := (upTo 128).map (fun i => qscaleLane (laneOf (c.vr n.a) i) (laneOf (c.vr n.b) i))
    let hits := (qs.filter (·.2)).length
    { c.setV n.d (packRow (qs.map (·.1))) with clamps := if hits = 0 then c.clamps else c.clamps ++ [(1, hits)] })) s

/-! ## Reductions -/

def execNibRamax (t d a : Nat) (s : State) : Out := attempt (s.nib1 t (w1 0x22 d a) (fun x => splat (rowAmax x))) s
def execNibRmax (t d a : Nat) (s : State) : Out := attempt (s.nib1 t (w1 0x23 d a) (fun x => splat (rowMax x))) s
def execNibRsum (t d a : Nat) (s : State) : Out := attempt (s.nib1 t (w1 0x24 d a) (fun x => splat (rowSum x))) s

/-! ## Tables (R175) -/

/-- Entry `i` of a loaded table. -/
def tblEntry (r0 r1 : Row) (i : Nat) : B32 := if i < 128 then laneOf r0 i else laneOf r1 (i - 128)

/-- Floor of a finite value that is at least 0. -/
def fpFloor (x : B32) : Nat :=
  match fp32Decode x with
  | .fin _ m e => if 0 ≤ e then m <<< e.toNat else m >>> (-e).toNat
  | _ => 0

/-- One lane of TBL. Where u is a NaN both comparisons are false, and f = u - i, so y, is the canonical NaN. -/
def tblLane (r0 r1 r2 : Row) (x : B32) : B32 :=
  if fpIsNan x then fpNan
  else
    let u := fpMul (fpSub x (laneOf r2 0)) (laneOf r2 1)
    if fpIsNan u then fpNan
    else if fpLt u 0 then fpAdd (fpMul x (laneOf r2 2)) (laneOf r2 3)
    else if fpLt u 0x437F0000 then
      let i := fpFloor u
      let f := fpSub u (fpOfInt i)
      fpAdd (tblEntry r0 r1 i) (fpMul f (fpSub (tblEntry r0 r1 (i + 1)) (tblEntry r0 r1 i)))
    else fpAdd (fpMul x (laneOf r2 4)) (laneOf r2 5)

/-- TBL: an unloaded table aborts with FORMAT (R173). -/
def execNibTbl (t d a part : Nat) (s : State) : Out :=
  attempt (s.nib t (encR 0x25 d a 0 0 0 part 0 0) (fun c n =>
    match c.tables.find? (fun e => e.1 == n.part) with
    | none => some (s.nibAbort t c stFormat)
    | some (_, r0, r1, r2) =>
      some (s.nibNext t (c.setV n.d (lanes1 (tblLane r0 r1 r2) (c.vr n.a)))))) s

/-! ## Transpose buffer (R176) -/

/-- A buffer row of 128 elements of 16 bits; narrower elements stand in their low bits. -/
def transRow (es : List Nat) : BitVec 2048 := BitVec.ofNat 2048 (es.reverse.foldl (fun acc e => acc * 2 ^ 16 + e) 0)

def noTrans : Nat → BitVec 2048 := fun _ => 0

def execNibTput (t a b : Nat) (fmt part : Nat) (imm : BitVec 20) (s : State) : Out :=
  attempt (s.nibSet t (encR 0x27 0 a b 0 fmt part 0 imm) (fun c n =>
    { c with trans := SMap.set noTrans c.trans (c.lane n.b n.imm)
               (transRow ((upTo 128).map (fun i => elemOf (c.vr n.a) (fmtBits n.fmt) n.part i))) })) s

def execNibTget (t d b : Nat) (fmt part : Nat) (imm : BitVec 20) (s : State) : Out :=
  attempt (s.nibSet t (encR 0x28 d 0 b 0 fmt part 0 imm) (fun c n =>
    let j := c.lane n.b n.imm
    c.setV n.d (setElems (c.vr n.d) (fmtBits n.fmt) n.part
      ((upTo 128).map (fun i => bitsOf (SMap.get noTrans c.trans i).toNat (16 * j) (fmtBits n.fmt)))))) s

end Sys2Proof.Machine
end

