-- ==== Sys2Proof/Machine/Engines.lean ====
section
/-!
DEFINITION. The Stem engines and the Spectral units (chapter 06): their descriptors' checks, the memory they
read and write, their arithmetic, their commands.
-/
namespace Sys2Proof.Machine

/-! ## Shared by both engines -/

/-- A run of memory read in 512-byte transfers; the first error ends it. -/
def State.memReads (s : State) (rq : Requester) (ep : Option (B32 × Nat)) : List (Nat × Nat) → State × Nat
  | [] => (s, 0)
  | (a, n) :: rs =>
    let x := s.memAccess ⟨rq, false, a, n, [], false⟩ ep
    if x.2.1 = 0 then x.1.memReads rq ep rs else (x.1, x.2.1)

/-- Memory written in 512-byte transfers; the first error ends it. -/
def State.memWrites (s : State) (rq : Requester) (ep : Option (B32 × Nat)) : List (Nat × List Byte) → State × Nat
  | [] => (s, 0)
  | (a, b) :: rs =>
    let x := s.memAccess ⟨rq, true, a, 0, b, false⟩ ep
    if x.2.1 = 0 then x.1.memWrites rq ep rs else (x.1, x.2.1)

/-- A range cut into transfers of at most 512 bytes. -/
def pieces (a n : Nat) : List (Nat × Nat) := (upTo (ceilDiv n 512)).map (fun i => (a + 512 * i, min 512 (n - 512 * i)))

/-- Bytes cut into transfers of at most 512 bytes. -/
def cut512 (a : Nat) (bs : List Byte) : List (Nat × List Byte) :=
  (upTo (ceilDiv bs.length 512)).map (fun i => (a + 512 * i, (bs.drop (512 * i)).take 512))

/-- A field of `n` bytes of device memory, little-endian. -/
def State.memNat (s : State) (a n : Nat) : Nat := bytesToNat (s.mem.hbm.readBytes a n)

/-- An older epoch has a step ready on the same engine of the unit: it starts first (R239). -/
def State.olderOnEngine (s : State) (st : StepRef) (kind : StageKind) (eng : Nat) (on : PipeBind → Bool → Stage → Bool) : Bool :=
  s.commit.epochs.any (fun e => olderThan e.1 st.epoch &&
    (let p := s.pipe e.2.pipe
     p.sides.any (fun sd => (upTo p.stages.length).any (fun i =>
       match p.stage i, p.bind with
       | some sg, some b => sg.kind == kind && on b sd sg &&
           (upTo sg.steps.length).any (fun j => (sg.steps[j]?).any (fun q => engineOf q.hdr == eng) &&
             s.ready ⟨e.2.pipe, sd, i, j, e.1⟩)
       | _, _ => false))))

/-- An address field of a descriptor replaced by its relocated value. -/
def putAddr (d : BitVec 512) (byte v : Nat) : BitVec 512 :=
  (d &&& ~~~(BitVec.ofNat 512 (place (2 ^ 64 - 1) (8 * byte) 64))) ||| BitVec.ofNat 512 (place v (8 * byte) 64)

/-- A step of an engine, with the reference to it in physical numbers. -/
def State.engineStep (s : State) (st : StepRef) (stage : StageKind) (kind : Nat) : Option (Pipe × Stage × Step × PipeBind) :=
  match s.stepOf st with
  | some (p, sg, sp) =>
    match p.bind with
    | some b =>
      if s.awake ∧ sg.kind = stage ∧ s.stageDev p st.stage = s.boot.dev ∧ hKind sp.hdr = kind ∧ s.ready st then
        some (p, sg, sp, b)
      else none
    | none => none
  | none => none

/-- BF16 element rounded to FP32. -/
def bfVal (v : Nat) : B32 := fp32Round (bf16Decode v)

/-! ## The Stem descriptor (Table 06-2) -/

structure StemGeo where
  last : Bool
  ifmt : Nat
  ofmt : Nat
  act  : Nat
  mode : Nat
  kh : Nat
  kw : Nat
  sy : Nat
  sx : Nat
  dy : Nat
  dx : Nat
  pt : Nat
  pb : Nat
  pl : Nat
  pr : Nat
  cout : Nat
  h : Nat
  w : Nat
  y0 : Nat
  rows : Nat
  cin : Nat
  asc : Nat
  outR : B32
  rstr : Nat
  pstr : Nat
  inA : Nat
  parA : Nat
  outA : Nat
deriving DecidableEq, Repr

def stemGeo (d : BitVec 512) : StemGeo :=
  { last := dsc d 0 0 1 == 1, ifmt := dsc d 0 1 3, ofmt := dsc d 0 4 4, act := dsc d 1 0 2, mode := dsc d 1 2 2
    kh := dsc d 2 0 4, kw := dsc d 2 4 4, sy := dsc d 3 0 4, sx := dsc d 3 4 4, dy := dsc d 4 0 4, dx := dsc d 4 4 4
    pt := dsc d 5 0 4, pb := dsc d 5 4 4, pl := dsc d 6 0 4, pr := dsc d 6 4 4, cout := dsc d 7 0 8
    h := dsc d 8 0 16, w := dsc d 10 0 16, y0 := dsc d 12 0 16, rows := dsc d 14 0 16, cin := dsc d 16 0 16
    asc := dsc d 18 0 16, outR := BitVec.ofNat 32 (dsc d 20 0 32), rstr := dsc d 24 0 32, pstr := dsc d 28 0 32
    inA := dsc d 32 0 64, parA := dsc d 40 0 64, outA := dsc d 48 0 64 }

def StemGeo.oh (g : StemGeo) : Option Nat := outSize g.h g.pt g.pb g.dy g.kh g.sy
def StemGeo.ow (g : StemGeo) : Option Nat := outSize g.w g.pl g.pr g.dx g.kw g.sx
/-- Products per output element P. -/
def StemGeo.p (g : StemGeo) : Nat := g.kh * g.kw * g.cin
/-- Bytes of an input sample and of an output element. -/
def StemGeo.es (g : StemGeo) : Nat := if g.ifmt = 2 ∨ g.ifmt = 4 then 2 else 1
def StemGeo.eo (g : StemGeo) : Nat := fmtBits g.ofmt / 8
def StemGeo.semi (g : StemGeo) : Bool := g.ifmt == 3 || g.ifmt == 4
def StemGeo.planar (g : StemGeo) : Bool := decide (g.ifmt ≤ 4)
/-- Bytes of an output block (R205). -/
def StemGeo.pbo (g : StemGeo) : Nat := if g.last then ceilDiv (16 * g.eo) 64 * 64 else 128 * g.eo

/-- Bytes of the input, parameter and output regions. -/
def StemGeo.inLen (g : StemGeo) : Nat :=
  if g.ifmt = 5 then ceilDiv g.cin 128 * g.h * g.w * 128
  else if g.semi then g.pstr + (ceilDiv g.h 2 - 1) * g.rstr + 2 * ceilDiv g.w 2 * g.es
  else (g.cin - 1) * g.pstr + (g.h - 1) * g.rstr + g.w * g.es
def StemGeo.parLen (g : StemGeo) : Nat := 2368 + g.cout * g.p
def StemGeo.outLen (g : StemGeo) : Nat := g.rows * g.ow.getD 0 * g.pbo

/-- The checks of R199 on a relocated descriptor: status and descriptor byte. DESIGN CHOICE (log entry 33): a check on
several fields names the line buffer's img_w, the input size's or output size's img_h or img_w, and the patch's c_in.
-/
def checkStem (d : BitVec 512) (granted : Nat → Nat → Bool) : Option (Nat × Nat) :=
  let g := stemGeo d
  let cpix := if g.last then 128 * ceilDiv g.cin 128 else g.cin
  let out (v lo hi : Nat) : Bool := decide (v < lo) || decide (hi < v)
  let far (a n : Nat) : Bool := decide (localTop < a + n - 1)
  firstFail [
    ([(decide (5 < g.ifmt) || !([0, 2, 3, 5, 6].contains g.ofmt) || (g.ifmt == 5) != g.last, 0),
      (g.act == 3 || g.mode == 3 || dsc d 1 4 4 != 0, 1), (dsc d 37 0 24 != 0, 37), (dsc d 45 0 24 != 0, 45),
      (dsc d 53 0 24 != 0, 53), (dsc d 56 0 64 != 0, 56)], 0x12),
    ([(out g.kh 1 7 || out g.kw 1 7, 2), (out g.sy 1 8 || out g.sx 1 8, 3), (out g.dy 1 8 || out g.dx 1 8, 4),
      (if g.last then out g.cout 1 16 else out g.cout 1 128, 7), (g.h == 0, 8), (g.w == 0, 10), (g.rows == 0, 14),
      (g.cin == 0 || (!g.last && decide (8 < g.cin)) || (g.semi && g.cin != 3) ||
        decide ((if g.last then 16384 else 392) < g.p), 16)], 0x13),
    ([(g.oh.isNone, 8), (g.ow.isNone, 10)], 0x13),
    ([(decide (g.oh.getD 0 < g.y0 + g.rows), 12), (g.inA % 64 != 0, 32), (g.parA % 64 != 0, 40), (g.outA % 64 != 0, 48),
      (g.rstr % 64 != 0 || (g.planar && decide (g.rstr < g.w * g.es)), 24),
      (g.pstr % 64 != 0 || (g.planar && decide (g.pstr < g.h * g.rstr)), 28),
      (decide (2097152 < (g.dy * (g.kh - 1) + g.sy) * g.w * cpix), 10),
      (far g.inA g.inLen, 32), (far g.parA g.parLen, 40), (far g.outA g.outLen, 48)], 0x13),
    ([(!(granted g.inA g.inLen), 32), (!(granted g.parA g.parLen), 40), (!(granted g.outA g.outLen), 48)], 0x10)]

/-! ## Stem input (R200 to R202) -/

/-- Image rows that the step's taps read. -/
def StemGeo.needRows (g : StemGeo) : List Nat :=
  (((upTo g.rows).flatMap (fun i => (upTo g.kh).filterMap (fun ky =>
    resolveCoord (srcCoord (g.y0 + i) g.sy g.pt ky g.dy) g.h g.mode)))).eraseDups

/-- The transfers that bring the input rows, once per pass (R206). -/
def StemGeo.reads (g : StemGeo) : List (Nat × Nat) :=
  if g.ifmt = 5 then
    (upTo (ceilDiv g.cin 128)).flatMap (fun cb => g.needRows.flatMap (fun y =>
      pieces (g.inA + (cb * g.h + y) * g.w * 128) (g.w * 128)))
  else if g.semi then
    g.needRows.flatMap (fun y => pieces (g.inA + y * g.rstr) (g.w * g.es)) ++
    ((g.needRows.map (· / 2)).eraseDups).flatMap (fun y =>
      pieces (g.inA + g.pstr + y * g.rstr) (2 * ceilDiv g.w 2 * g.es))
  else (upTo g.cin).flatMap (fun c => g.needRows.flatMap (fun y =>
    pieces (g.inA + c * g.pstr + y * g.rstr) (g.w * g.es)))

/-- Bytes of the parameter region before the weights that a step reads, as (offset, bytes) (Table 06-4, R203). -/
def StemGeo.parRanges (g : StemGeo) : List (Nat × Nat) :=
  (if g.last then [] else [(0, 4 * g.cin), (32, 4 * g.cin)]) ++ [(64, 2 * g.cout), (320, 4 * g.cout)] ++
  (if g.act = 2 then [(832, 1536)] else [])

/-- The transfers that bring the parameters and the weights. -/
def StemGeo.parReads (g : StemGeo) : List (Nat × Nat) :=
  g.parRanges.flatMap (fun r => pieces (g.parA + r.1) r.2) ++ pieces (g.parA + 2368) (g.cout * g.p)

/-- The parameter and weight buffers at the start of a step (R203); an entry that is not read stays 0. -/
def StemGeo.params (g : StemGeo) (s : State) : StemBuf :=
  ⟨[], s.mem.hbm.readBytes (g.parA + 2368) (g.cout * g.p),
   (upTo 2368).map (fun i => if g.parRanges.any (fun r => decide (r.1 ≤ i) && decide (i < r.1 + r.2)) then
     BitVec.ofNat 8 (s.memNat (g.parA + i) 1) else 0)⟩

/-- A field of `n` bytes of the parameter buffer. -/
def StemBuf.num (b : StemBuf) (o n : Nat) : Nat := bytesToNat ((b.param.drop o).take n)

/-- Channel `c` of pixel (y, x) as FP32 in FIRST mode (Table 06-3). -/
def StemGeo.value (g : StemGeo) (s : State) (c y x : Nat) : B32 :=
  let a := if g.semi then
      (if c = 0 then g.inA + y * g.rstr + x * g.es
       else g.inA + g.pstr + y / 2 * g.rstr + (2 * (x / 2) + (c - 1)) * g.es)
    else g.inA + c * g.pstr + y * g.rstr + x * g.es
  let n := s.memNat a g.es
  match g.ifmt with
  | 1 => fpOfInt (sext n 8)
  | 2 => fp32Round (fp16Decode n)
  | 4 => fpOfInt (bitsOf n 6 10)
  | _ => fpOfInt n

/-- The quantised byte of a pixel in FIRST mode and whether it was clamped (R201). -/
def StemGeo.q (g : StemGeo) (s : State) (b : StemBuf) (c y x : Nat) : Nat × Bool :=
  let par (o : Nat) : B32 := BitVec.ofNat 32 (b.num o 4)
  fpToIntSat (fpMul (fpSub (g.value s c y x) (par (4 * c))) (par (32 + 4 * c))) 8

/-- Channels of a pixel in the line buffer (R199). -/
def StemGeo.cpix (g : StemGeo) : Nat := if g.last then 128 * ceilDiv g.cin 128 else g.cin

/-- An image row as the line buffer holds it: normalised in FIRST mode, as it stands in memory in LAST mode. -/
def StemGeo.lineRow (g : StemGeo) (s : State) (b : StemBuf) (y : Nat) : List Byte :=
  (upTo g.w).flatMap (fun x => (upTo g.cpix).map (fun c => BitVec.ofNat 8
    (if g.last then s.memNat (g.inA + (((c / 128) * g.h + y) * g.w + x) * 128 + c % 128) 1 else (g.q s b c y x).1)))

/-- Rows that pass through the line buffer in one pass. -/
def StemGeo.lines (g : StemGeo) (s : State) (b : StemBuf) : List (Nat × List Byte) :=
  g.needRows.map (fun y => (y, g.lineRow s b y))

/-- CLAMP_IN of a step: an input value counts once, whatever the passes (R201; log entry 110). -/
def StemGeo.clampIn (g : StemGeo) (s : State) (b : StemBuf) : Nat :=
  if g.last then 0
  else (g.needRows.map (fun y => ((upTo g.w).map (fun x =>
    ((upTo g.cin).filter (fun c => (g.q s b c y x).2)).length)).foldl (· + ·) 0)).foldl (· + ·) 0

/-- The value q of a pixel in the line buffer. -/
def StemGeo.held (g : StemGeo) (b : StemBuf) (c y x : Nat) : Int :=
  match b.line.find? (fun r => r.1 == y) with
  | some r => sext ((r.2[x * g.cpix + c]?).getD 0).toNat 8
  | none => 0

/-! ## Stem output (R204, R205) -/

/-- An output element's bits and what it counts: ACC_OVF, SCALE_UF, CLAMP_OUT. -/
structure StemOut where
  bits : Nat
  ovf  : Bool
  uf   : Bool
  cl   : Bool
deriving DecidableEq, Repr

/-- One output element from the buffers, in the order of R204. -/
def StemGeo.elem (g : StemGeo) (b : StemBuf) (co i ox : Nat) : StemOut :=
  let sum := (upTo g.kh).foldl (fun acc ky => (upTo g.kw).foldl (fun acc kx =>
    match resolveCoord (srcCoord (g.y0 + i) g.sy g.pt ky g.dy) g.h g.mode,
          resolveCoord (srcCoord ox g.sx g.pl kx g.dx) g.w g.mode with
    | some y, some x => (upTo g.cin).foldl (fun acc c =>
        acc + g.held b c y x * sext ((b.weight[co * g.p + (ky * g.kw + kx) * g.cin + c]?).getD 0).toNat 8) acc
    | _, _ => acc) acc) (0 : Int)
  let p := fpOfInt sum
  let sw := bfVal (b.num (64 + 2 * co) 2)
  let sa := bfVal g.asc
  let sc := fpMul sw sa
  let y1 := fpMul p sc
  let bias : B32 := BitVec.ofNat 32 (b.num (320 + 4 * co) 4)
  let y2 := fpAdd y1 bias
  let tab (i : Nat) : Row := BitVec.ofNat 4096 (b.num (832 + 512 * i) 512)
  let y3 := if g.act = 1 then (if fpIsNan y2 then fpNan else if fpLt 0 y2 then y2 else 0)
    else if g.act = 2 then tblLane (tab 0) (tab 1) (tab 2) y2
    else y2
  let o := if g.ofmt = 5 ∨ g.ofmt = 6 then ((fpToElem g.ofmt y3).1, false) else quantise g.ofmt y3 g.outR
  ⟨o.1, mulOvf p sc || addOvf y1 bias || (fpIsInf y3 && fpIsFin y2), fpIsZero sc && !fpIsZero sw && !fpIsZero sa, o.2⟩

/-- Passes over the input, 64 output channels each in FIRST mode (R206). -/
def StemGeo.passes (g : StemGeo) : Nat := if g.last then 1 else ceilDiv g.cout 64

/-- What pass `k` writes, in raster order, and its elements. The last pass fills the block's unused slots with +0. -/
def StemGeo.passOut (g : StemGeo) (b : StemBuf) (k : Nat) : List (Nat × List Byte) × List StemOut :=
  let ow := g.ow.getD 0
  let n := if g.last then g.cout else min 64 (g.cout - 64 * k)
  let px := (upTo g.rows).flatMap (fun i => (upTo ow).map (fun ox =>
    let es := (upTo n).map (fun j => g.elem b (64 * k + j) i ox)
    let bs := es.flatMap (fun e => natToBytes e.bits g.eo)
    let room := if k + 1 = g.passes then g.pbo - 64 * k * g.eo else bs.length
    (g.outA + (i * ow + ox) * g.pbo + 64 * k * g.eo, bs ++ List.replicate (room - bs.length) 0, es)))
  (if g.passes = 1 then cut512 g.outA (px.flatMap (·.2.1)) else px.flatMap (fun x => cut512 x.1 x.2.1),
   px.flatMap (·.2.2))

/-- Cycles of a step (R206). -/
def StemGeo.cycles (g : StemGeo) : Nat :=
  let ow := g.ow.getD 0
  if g.last then g.rows * ow * ceilDiv g.p 256 + 24 else ceilDiv g.cout 64 * g.rows * ow * ceilDiv g.p 64 + 24

/-! ## Stem commands -/

/-- The relocated descriptor (R231). -/
def State.stemReloc (s : State) (p : Pipe) (st : StepRef) (sp : Step) : BitVec 512 :=
  let f (d : BitVec 512) (byte i : Nat) (rd : Bool) : BitVec 512 :=
    putAddr d byte (dsc d byte 0 64 + s.relocBase p st sp (hReloc sp.hdr i) rd)
  f (f (f sp.desc 32 0 true) 40 1 true) 48 2 false

/-- The counts a step stages (R208). -/
def StemGeo.counts (g : StemGeo) (c clampIn : Nat) (es : List StemOut) : List StagedCount :=
  let n (f : StemOut → Bool) : Nat := (es.filter f).length
  [⟨kStm c 0x10, n (·.ovf), .sat⟩, ⟨kStm c 0x14, n (·.uf), .sat⟩, ⟨kStm c 0x18, clampIn, .sat⟩,
   ⟨kStm c 0x1C, n (·.cl), .sat⟩, ⟨kStm c 0x20, g.cycles, .wide⟩, ⟨kStm c 0x30, 1, .wrap⟩]

/-- The passes of a step: each reads the input rows into the line buffer and writes its channels; the first error ends
them. The line buffer keeps the rows that the last output row needs. -/
def State.stemPasses (s : State) (rq : Requester) (ep : Option (B32 × Nat)) (g : StemGeo) (b : StemBuf) (es : List StemOut) :
    List Nat → State × Nat × StemBuf × List StemOut
  | [] => (s, 0, b, es)
  | k :: ks =>
    let r := s.memReads rq ep g.reads
    if r.2 ≠ 0 then (r.1, r.2, b, es)
    else
      let full : StemBuf := { b with line := g.lines r.1 b }
      let o := g.passOut full k
      let w := r.1.memWrites rq ep o.1
      if w.2 ≠ 0 then (w.1, w.2, b, es)
      else
        let keep := { g with y0 := g.y0 + g.rows - 1, rows := 1 }.needRows
        w.1.stemPasses rq ep g { full with line := full.line.filter (fun x => keep.contains x.1) } (es ++ o.2) ks

/-- A step that has passed its checks reads its parameters, convolves and writes; an error response ends it. -/
def State.stemRun (s : State) (st : StepRef) (c : Nat) (d : BitVec 512) : State :=
  let g := stemGeo d
  let rq : Requester := ⟨BitVec.ofNat 16 (0x1000 + c), false, st.side⟩
  let ep := some (st.epoch, st.pipe)
  let r := s.memReads rq ep g.parReads
  if r.2 ≠ 0 then r.1.abortStep st r.2
  else
    let b := g.params r.1
    let w := r.1.stemPasses rq ep g b [] (upTo g.passes)
    if w.2.1 ≠ 0 then w.1.abortStep st w.2.1
    else w.1.setStem c ⟨some ⟨st, d, g.counts c (g.clampIn r.1 b) w.2.2.2⟩, w.2.2.1⟩

/-- Some page that the step touches is being copied (R363). -/
def State.stemBusy (s : State) (d : BitVec 512) : Bool :=
  let g := stemGeo d
  s.pageBusy g.inA g.inLen || s.pageBusy g.parA g.parLen || s.pageBusy g.outA g.outLen

/-- STEM_STEP_START (R199 to R205): the step takes its slots, its descriptor is checked, and it reads,
convolves and writes. -/
def State.stemStart (s : State) (st : StepRef) (p : Pipe) (sg : Stage) (sp : Step) (c : Nat) : Option State :=
  let s0 := s.beginStep st
  if s.skips st then some (s0.finishStep st)
  else
    let s1 := s0.markCold st
    let d := s1.stemReloc p st sp
    match checkStem d (p.inGrant st.stage sg st.side) with
    | some (e, byte) => some ((s1.setReg (kStm c 8) (BitVec.ofNat 32 (e + 256 + 65536 * byte))).abortStep st e)
    | none => if s.stemBusy d then none else some (s1.stemRun st c d)

/-- The step's Stem engine is free, and no step of an older epoch on it is ready. -/
def State.stemOpen (s : State) (st : StepRef) : Option State :=
  match s.engineStep st .stem kStem with
    | none => none
    | some (p, sg, sp, b) =>
      match b.stemOf st.side sg.unit with
      | none => none
      | some c =>
        if (s.stem c).run.isSome || s.olderOnEngine st .stem kStem (fun b sd x => b.stemOf sd x.unit == some c) then none
        else s.stemStart st p sg sp c

/-- STEM_STEP_START (R199). -/
def execStemStepStart (x : StepCmd) (s : State) : Out := attempt (s.readDesc x (s.stemOpen x.ref)) s

/-- Cycles in which an engine waited: a free value, added to the step's busy cycles and counted as bubbles (R206, R217;
log entry 71). -/
def State.waitCycles (s : State) (k : Nat) : List StagedCount := [⟨k, s.bubbles, .wide⟩, ⟨k + 8, s.bubbles, .wide⟩]

/-- STEM_STEP_COMPLETE (R206, R208): the counts are staged and the tokens produced. -/
def execStemStepComplete (st : StepRef) (s : State) : Out :=
  attempt (match s.stepOf st with
    | some (p, sg, _) =>
      match p.bind.bind (fun b => b.stemOf st.side sg.unit) with
      | some c =>
        match (s.stem c).run with
        | some r =>
          if s.awake ∧ sg.kind = .stem ∧ r.step = st then
            some (((s.setStem c (Engine.idle c)).stageCount st.epoch (r.counts ++ s.waitCycles (kStm c 0x20))).finishStep st)
          else none
        | none => none
      | none => none
    | none => none) s

/-- STM_CNT_CLEAR (Table 06-9). -/
def execStmCntClear (rq : Requester) (c : Nat) (s : State) : Out :=
  attempt (if s.awake ∧ c < 8 then
    some (s.guardReg rq (kStm c 0xC) (fun s => s.clearRegs (kStm c 0x10) 9)) else none) s

/-! ## The Spectral descriptor (Table 06-5) -/

structure SpcGeo where
  gcode : Nat
  g : Nat
  f : Nat
  mode : Nat
  ifmt : Nat
  ofmt : Nat
  biasEn : Bool
  h : Nat
  w : Nat
  y0 : Nat
  rows : Nat
  cin : Nat
  kh : Nat
  kw : Nat
  pt : Nat
  pb : Nat
  pl : Nat
  pr : Nat
  asc : Nat
  inA : Nat
  wgtA : Nat
  biasA : Nat
  outA : Nat
deriving DecidableEq, Repr

def spcGeo (d : BitVec 512) : SpcGeo :=
  { gcode := dsc d 0 0 3, g := gcodeOf (dsc d 0 0 3), f := 64 * 2 ^ dsc d 0 3 2, mode := dsc d 0 5 2
    ifmt := dsc d 1 0 4, ofmt := dsc d 1 4 4, biasEn := dsc d 2 0 1 == 1, h := dsc d 4 0 16, w := dsc d 6 0 16
    y0 := dsc d 8 0 16, rows := dsc d 10 0 16, cin := dsc d 12 0 16, kh := dsc d 14 0 7, kw := dsc d 15 0 7
    pt := dsc d 16 0 7, pb := dsc d 17 0 7, pl := dsc d 18 0 7, pr := dsc d 19 0 7, asc := dsc d 20 0 16
    inA := dsc d 24 0 64, wgtA := dsc d 32 0 64, biasA := dsc d 40 0 64, outA := dsc d 48 0 64 }

def SpcGeo.oh (g : SpcGeo) : Option Nat := outSize g.h g.pt g.pb 1 g.kh 1
def SpcGeo.ow (g : SpcGeo) : Option Nat := outSize g.w g.pl g.pr 1 g.kw 1
def SpcGeo.vy (g : SpcGeo) : Nat := g.f - g.kh + 1
def SpcGeo.vx (g : SpcGeo) : Nat := g.f - g.kw + 1
def SpcGeo.ei (g : SpcGeo) : Nat := fmtBits g.ifmt / 8
def SpcGeo.eo (g : SpcGeo) : Nat := fmtBits g.ofmt / 8
def SpcGeo.cb (g : SpcGeo) : Nat := ceilDiv g.cin 128
def SpcGeo.inLen (g : SpcGeo) : Nat := g.cb * g.h * g.w * 128 * g.ei
def SpcGeo.wgtLen (g : SpcGeo) : Nat := g.cin * g.g * g.kh * g.kw * 2
def SpcGeo.biasLen (g : SpcGeo) : Nat := 4 * g.cin
def SpcGeo.outLen (g : SpcGeo) : Nat := g.cb * g.rows * g.ow.getD 0 * 128 * g.eo

/-- The checks of R211: status and descriptor byte. -/
def checkSpc (d : BitVec 512) (granted : Nat → Nat → Bool) : Option (Nat × Nat) :=
  let g := spcGeo d
  let far (a n : Nat) : Bool := decide (localTop < a + n - 1)
  let k (v : Nat) : Bool := decide (v < 15) || decide (127 < v)
  firstFail [
    ([(decide (4 < g.gcode) || g.mode == 3 || dsc d 0 7 1 != 0, 0),
      (!([0, 5, 6].contains g.ifmt) || !([5, 6].contains g.ofmt), 1), (dsc d 2 1 7 != 0, 2), (dsc d 3 0 8 != 0, 3)] ++
      ([14, 15, 16, 17, 18, 19].map (fun b => (dsc d b 7 1 != 0, b))) ++
      [(dsc d 22 0 16 != 0, 22), (dsc d 29 0 24 != 0, 29), (dsc d 37 0 24 != 0, 37), (dsc d 45 0 24 != 0, 45),
       (dsc d 53 0 24 != 0, 53), (dsc d 56 0 64 != 0, 56)], 0x12),
    ([(g.h == 0, 4), (g.w == 0, 6), (g.rows == 0, 10), (g.cin == 0 || g.cin % g.g != 0, 12),
      (k g.kh || decide (g.f < g.kh), 14), (k g.kw || decide (g.f < g.kw), 15)], 0x13),
    ([(g.oh.isNone, 4), (g.ow.isNone, 6)], 0x13),
    ([(decide (g.oh.getD 0 < g.y0 + g.rows) || g.y0 % g.vy != 0, 8), (g.inA % 64 != 0 || far g.inA g.inLen, 24),
      (g.wgtA % 64 != 0 || far g.wgtA g.wgtLen, 32),
      (g.biasA % 64 != 0 || (g.biasEn && far g.biasA g.biasLen), 40), (g.outA % 64 != 0 || far g.outA g.outLen, 48)], 0x13),
    ([(!(granted g.inA g.inLen), 24), (!(granted g.wgtA g.wgtLen), 32),
      (g.biasEn && !(granted g.biasA g.biasLen), 40), (!(granted g.outA g.outLen), 48)], 0x10)]

/-! ## Spectral arithmetic (R213 to R216) -/

/-- Input value of channel `c` at pixel (y, x). -/
def SpcGeo.value (g : SpcGeo) (s : State) (c y x : Nat) : B32 :=
  let a := g.inA + ((((c / 128) * g.h + y) * g.w + x) * 128 + c % 128) * g.ei
  let v := elemToFp32 g.ifmt (s.memNat a g.ei)
  if g.ifmt = 0 then fpMul v (bfVal g.asc) else v

/-- The F by F input block of tile (t, u) and channel `c`, row by row (R213). -/
def SpcGeo.block (g : SpcGeo) (s : State) (c t u : Nat) : List (List B32) :=
  (upTo g.f).map (fun i => (upTo g.f).map (fun j =>
    match resolveCoord ((t * g.vy + i : Nat) - (g.pt : Int)) g.h g.mode,
          resolveCoord ((u * g.vx + j : Nat) - (g.pl : Int)) g.w g.mode with
    | some y, some x => g.value s c y x
    | _, _ => 0))

/-- The filter of output channel `c` and member `j`, zero-extended to F by F. -/
def SpcGeo.filter (g : SpcGeo) (s : State) (c j : Nat) : List (List B32) :=
  (upTo g.f).map (fun ky => (upTo g.f).map (fun kx =>
    if ky < g.kh ∧ kx < g.kw then bfVal (s.memNat (g.wgtA + ((c * g.g + j) * g.kh * g.kw + ky * g.kw + kx) * 2) 2) else 0))

/-- The cosine ROM (R214): cos(2πk/512) as FP32, RNE, for k from 0 to 128. -/
def cosRom : List B32 :=
  [0x3F800000, 0x3F7FFB11, 0x3F7FEC43, 0x3F7FD397, 0x3F7FB10F, 0x3F7F84AB, 0x3F7F4E6D, 0x3F7F0E58,
   0x3F7EC46D, 0x3F7E70B0, 0x3F7E1324, 0x3F7DABCC, 0x3F7D3AAC, 0x3F7CBFC9, 0x3F7C3B28, 0x3F7BACCD] ++
  [0x3F7B14BE, 0x3F7A7302, 0x3F79C79D, 0x3F791298, 0x3F7853F8, 0x3F778BC5, 0x3F76BA07, 0x3F75DEC6,
   0x3F74FA0B, 0x3F740BDD, 0x3F731447, 0x3F721352, 0x3F710908, 0x3F6FF573, 0x3F6ED89E, 0x3F6DB293] ++
  [0x3F6C835E, 0x3F6B4B0C, 0x3F6A09A7, 0x3F68BF3C, 0x3F676BD8, 0x3F660F88, 0x3F64AA59, 0x3F633C5A,
   0x3F61C598, 0x3F604621, 0x3F5EBE05, 0x3F5D2D53, 0x3F5B941A, 0x3F59F26A, 0x3F584853, 0x3F5695E5] ++
  [0x3F54DB31, 0x3F531849, 0x3F514D3D, 0x3F4F7A1F, 0x3F4D9F02, 0x3F4BBBF8, 0x3F49D112, 0x3F47DE65,
   0x3F45E403, 0x3F43E200, 0x3F41D870, 0x3F3FC767, 0x3F3DAEF9, 0x3F3B8F3B, 0x3F396842, 0x3F373A23] ++
  [0x3F3504F3, 0x3F32C8C9, 0x3F3085BB, 0x3F2E3BDE, 0x3F2BEB4A, 0x3F299415, 0x3F273656, 0x3F24D225,
   0x3F226799, 0x3F1FF6CB, 0x3F1D7FD1, 0x3F1B02C6, 0x3F187FC0, 0x3F15F6D9, 0x3F13682A, 0x3F10D3CD] ++
  [0x3F0E39DA, 0x3F0B9A6B, 0x3F08F59B, 0x3F064B82, 0x3F039C3D, 0x3F00E7E4, 0x3EFC5D27, 0x3EF6E0CB,
   0x3EF15AEA, 0x3EEBCBBB, 0x3EE63375, 0x3EE0924F, 0x3EDAE880, 0x3ED53641, 0x3ECF7BCA, 0x3EC9B953] ++
  [0x3EC3EF15, 0x3EBE1D4A, 0x3EB8442A, 0x3EB263EF, 0x3EAC7CD4, 0x3EA68F12, 0x3EA09AE5, 0x3E9AA086,
   0x3E94A031, 0x3E8E9A22, 0x3E888E93, 0x3E827DC0, 0x3E78CFCC, 0x3E6C9A7F, 0x3E605C13, 0x3E541501] ++
  [0x3E47C5C2, 0x3E3B6ECF, 0x3E2F10A2, 0x3E22ABB6, 0x3E164083, 0x3E09CF86, 0x3DFAB273, 0x3DE1BC2E,
   0x3DC8BD36, 0x3DAFB680, 0x3D96A905, 0x3D7B2B74, 0x3D48FB30, 0x3D16C32C, 0x3CC90AB0, 0x3C490E90] ++
  [0x00000000]

/-- cos(2πj/512), from the quarter wave. -/
def cosAt (j : Nat) : B32 :=
  let v (k : Nat) : B32 := (cosRom[k]?).getD 0
  let neg (x : B32) : B32 := if fpIsZero x then 0 else fpNeg x
  let j := j % 512
  if j ≤ 128 then v j else if j ≤ 256 then neg (v (256 - j)) else if j ≤ 384 then neg (v (j - 256)) else v (512 - j)

def sinAt (j : Nat) : B32 := cosAt (j + 384)

/-- A spectral value. -/
structure Cx where
  re : B32
  im : B32
deriving DecidableEq, Repr

def Cx.zero : Cx := ⟨0, 0⟩
def Cx.add (a b : Cx) : Cx := ⟨fpAdd a.re b.re, fpAdd a.im b.im⟩
def Cx.sub (a b : Cx) : Cx := ⟨fpSub a.re b.re, fpSub a.im b.im⟩
def Cx.conj (a : Cx) : Cx := ⟨a.re, fpNeg a.im⟩
/-- Four products, one difference, one sum, each rounded (R214; log entry 36). -/
def Cx.mul (a b : Cx) : Cx :=
  ⟨fpSub (fpMul a.re b.re) (fpMul a.im b.im), fpAdd (fpMul a.re b.im) (fpMul a.im b.re)⟩

/-- The twiddle factor of index `j` of 512: e^(-2πij/512), or its conjugate in an inverse transform. -/
def twiddle (inv : Bool) (j : Nat) : Cx := if inv then ⟨cosAt j, sinAt j⟩ else ⟨cosAt j, fpNeg (sinAt j)⟩

/-- Two lists, element by element in turn. -/
def weave {α : Type} : List α → List α → List α
  | a :: as, b :: bs => a :: b :: weave as bs
  | _, _ => []

/-- A one-dimensional pass over 2^k values: radix 2, decimation in frequency (R214). A butterfly of a and b gives a +
b and (a - b) times its twiddle; the results stand in natural order. -/
def fftPass (inv : Bool) : Nat → List Cx → List Cx
  | 0, xs => xs
  | k + 1, xs =>
    let a := xs.take (2 ^ k)
    let b := xs.drop (2 ^ k)
    let even := List.zipWith Cx.add a b
    let odd := (List.zipWith Cx.sub a b).zipIdx.map (fun x => x.1.mul (twiddle inv (x.2 * 2 ^ (8 - k))))
    weave (fftPass inv k even) (fftPass inv k odd)

/-- Rows and columns exchanged. -/
def turned (n : Nat) (m : List (List Cx)) : List (List Cx) := (upTo n).map (fun j => m.map (fun r => (r[j]?).getD Cx.zero))

/-- A two-dimensional transform: rows, then columns (R214). -/
def fft2 (inv : Bool) (f : Nat) (m : List (List Cx)) : List (List Cx) :=
  let pass (r : List Cx) : List Cx := fftPass inv (Nat.log2 f) r
  turned f ((turned f (m.map pass)).map pass)

def realSpectrum (f : Nat) (m : List (List B32)) : List (List Cx) := fft2 false f (m.map (fun r => r.map (fun x => ⟨x, 0⟩)))

/-- The circular result of a group's members and filters (R213, R214): spectra multiplied, the filter's conjugated since
R115's taps move with the image, accumulated in increasing member, transformed back and scaled by 1/F². DESIGN CHOICE (log
entry 147): the accumulation begins at +0, not at the first member's product. -/
def circular (f : Nat) (xs ws : List (List (List Cx))) : List (List B32) :=
  let sum := (List.zip xs ws).foldl (fun acc p =>
    List.zipWith (List.zipWith Cx.add) acc (List.zipWith (List.zipWith (fun x w => x.mul w.conj)) p.1 p.2))
    (List.replicate f (List.replicate f Cx.zero))
  let scale := fp32Round (.fin false 1 (-(2 * Nat.log2 f : Nat)))
  (fft2 true f sum).map (fun r => r.map (fun c => fpMul c.re scale))

/-- The result of tile (t, u) of channel `c` before the bias, given the spectra of its filters; `none` where an input
block of the group holds a NaN or an infinity (R215). -/
def SpcGeo.tile (g : SpcGeo) (s : State) (ws : List (List (List Cx))) (c t u : Nat) : Option (List (List B32)) :=
  let xs := (upTo g.g).map (fun j => g.block s (c / g.g * g.g + j) t u)
  if xs.any (fun b => b.any (fun r => r.any (fun x => !fpIsFin x))) then none
  else some (circular g.f (xs.map (realSpectrum g.f)) ws)

/-- The tiles of channel `c` that hold the band's outputs. -/
def SpcGeo.channel (g : SpcGeo) (s : State) (c : Nat) : List (List (Option (List (List B32)))) :=
  let ws := (upTo g.g).map (fun j => realSpectrum g.f (g.filter s c j))
  (upTo (ceilDiv g.rows g.vy)).map (fun t => (upTo (ceilDiv (g.ow.getD 0) g.vx)).map (fun u =>
    g.tile s ws c (g.y0 / g.vy + t) u))

/-- One output element of channel `c`, row `i` of the band, from the channel's tiles: its bits, and whether it counts in
SPC_NONFIN. -/
def SpcGeo.elem (g : SpcGeo) (s : State) (tiles : List (List (Option (List (List B32))))) (c i ox : Nat) : Nat × Bool :=
  match (((tiles[i / g.vy]?).getD [])[ox / g.vx]?).getD none with
  | none => ((fpToElem g.ofmt fpNan).1, true)
  | some m =>
    let y := (((m[i % g.vy]?).getD [])[ox % g.vx]?).getD 0
    let y := if g.biasEn then fpAdd y (BitVec.ofNat 32 (s.memNat (g.biasA + 4 * c) 4)) else y
    ((fpToElem g.ofmt y).1, false)

/-- Bytes of the output region (R212) and the count of SPC_NONFIN. -/
def SpcGeo.output (g : SpcGeo) (s : State) : List Byte × Nat :=
  let es := (upTo g.cb).flatMap (fun cb =>
    let chans := (upTo 128).map (fun k => if cb * 128 + k < g.cin then some (g.channel s (cb * 128 + k)) else none)
    (upTo g.rows).flatMap (fun i => (upTo (g.ow.getD 0)).flatMap (fun ox =>
      chans.zipIdx.map (fun x => match x.1 with
        | some tiles => g.elem s tiles (cb * 128 + x.2) i ox
        | none => (0, false)))))
  (es.flatMap (fun e => natToBytes e.1 g.eo), (es.filter (·.2)).length)

/-- Image rows the tiles of the band read. -/
def SpcGeo.needRows (g : SpcGeo) : List Nat :=
  ((upTo (ceilDiv g.rows g.vy * g.vy + g.kh - 1)).filterMap (fun i =>
    resolveCoord ((g.y0 + i : Nat) - (g.pt : Int)) g.h g.mode)).eraseDups

def SpcGeo.reads (g : SpcGeo) : List (Nat × Nat) :=
  pieces g.wgtA g.wgtLen ++ (if g.biasEn then pieces g.biasA g.biasLen else []) ++
  (upTo g.cb).flatMap (fun cb => g.needRows.flatMap (fun y =>
    pieces (g.inA + (cb * g.h + y) * g.w * 128 * g.ei) (g.w * 128 * g.ei)))

/-- Cycles of a step (R217). -/
def SpcGeo.cycles (g : SpcGeo) : Nat :=
  let nt := ceilDiv g.rows g.vy * ceilDiv (g.ow.getD 0) g.vx
  let x := g.f * g.f * Nat.log2 g.f / 256
  let mu := g.f * g.f / 256
  g.cin / g.g * (nt * (2 * g.g * x + g.g * g.g * mu) + g.g * g.g * x) + 32

/-! ## Spectral commands -/

def State.spcReloc (s : State) (p : Pipe) (st : StepRef) (sp : Step) : BitVec 512 :=
  let f (d : BitVec 512) (byte i : Nat) (rd : Bool) : BitVec 512 :=
    putAddr d byte (dsc d byte 0 64 + s.relocBase p st sp (hReloc sp.hdr i) rd)
  f (f (f (f sp.desc 24 0 true) 32 1 true) 40 2 true) 48 3 false

/-- A step that has passed its checks reads, convolves and writes; an error response ends it. -/
def State.spcRun (s : State) (st : StepRef) (u : Nat) (d : BitVec 512) : State :=
  let g := spcGeo d
  let rq : Requester := ⟨BitVec.ofNat 16 (0x2000 + u), false, st.side⟩
  let ep := some (st.epoch, st.pipe)
  let r := s.memReads rq ep g.reads
  if r.2 ≠ 0 then r.1.abortStep st r.2
  else
    let o := g.output r.1
    let w := r.1.memWrites rq ep (cut512 g.outA o.1)
    if w.2 ≠ 0 then w.1.abortStep st w.2
    else w.1.setSpc u ⟨some ⟨st, d, [⟨kSpc u 0x10, o.2, .sat⟩, ⟨kSpc u 0x20, g.cycles, .wide⟩, ⟨kSpc u 0x30, 1, .wrap⟩]⟩, StemBuf.empty⟩

/-- Some page that the step touches is being copied (R363). -/
def State.spcBusy (s : State) (d : BitVec 512) : Bool :=
  let g := spcGeo d
  s.pageBusy g.inA g.inLen || s.pageBusy g.wgtA g.wgtLen || (g.biasEn && s.pageBusy g.biasA g.biasLen) ||
    s.pageBusy g.outA g.outLen

def State.spcStart (s : State) (st : StepRef) (p : Pipe) (sg : Stage) (sp : Step) (u : Nat) : Option State :=
  let s0 := s.beginStep st
  if s.skips st then some (s0.finishStep st)
  else
    let s1 := s0.markCold st
    let d := s1.spcReloc p st sp
    match checkSpc d (p.inGrant st.stage sg st.side) with
    | some (e, byte) => some ((s1.setReg (kSpc u 8) (BitVec.ofNat 32 (e + 256 + 65536 * byte))).abortStep st e)
    | none => if s.spcBusy d then none else some (s1.spcRun st u d)

/-- The step's Spectral unit is free, and no step of an older epoch on it is ready. -/
def State.spcOpen (s : State) (st : StepRef) : Option State :=
  match s.engineStep st .spectral kSpectral with
    | none => none
    | some (p, sg, sp, b) =>
      match b.spcOf st.side sg.unit with
      | none => none
      | some u =>
        if (s.spc u).run.isSome || s.olderOnEngine st .spectral kSpectral (fun b sd x => b.spcOf sd x.unit == some u) then none
        else s.spcStart st p sg sp u

/-- SPECTRAL_STEP_START (R211). -/
def execSpectralStepStart (x : StepCmd) (s : State) : Out := attempt (s.readDesc x (s.spcOpen x.ref)) s

/-- SPECTRAL_STEP_COMPLETE (R217, R222). -/
def execSpectralStepComplete (st : StepRef) (s : State) : Out :=
  attempt (match s.stepOf st with
    | some (p, sg, _) =>
      match p.bind.bind (fun b => b.spcOf st.side sg.unit) with
      | some u =>
        match (s.spc u).run with
        | some r =>
          if s.awake ∧ sg.kind = .spectral ∧ r.step = st then
            some (((s.setSpc u (Engine.idle u)).stageCount st.epoch (r.counts ++ s.waitCycles (kSpc u 0x20))).finishStep st)
          else none
        | none => none
      | none => none
    | none => none) s

/-- SPC_CNT_CLEAR (Table 06-12): SPC_NONFIN, SPC_CYC and SPC_STEPS. -/
def execSpcCntClear (rq : Requester) (u : Nat) (s : State) : Out :=
  attempt (if s.awake ∧ u < 4 then
    some (s.guardReg rq (kSpc u 0xC) (fun s => (s.setReg (kSpc u 0x10) 0).clearRegs (kSpc u 0x20) 5)) else none) s

end Sys2Proof.Machine
end

