-- ==== Sys2Proof/Machine/Aster.lean ====
section
/-!
DEFINITION. The Aster tracker (chapter 10): the track table with its code, shadow and macros, detection
input, suppression, prediction, the association job, assignment, update and births, records, the journal.
-/
namespace Sys2Proof.Machine

/-! ## Groups and entries -/

/-- The Aster group binding of a group whose pipeline is bound (R334). -/
def State.astRec (s : State) (g : Nat) : Option AsterRec :=
  s.boot.scroll.asters.find? (fun a => a.group == g && (s.pipe a.pipe).bound)

def State.astGroup (s : State) (g : Nat) : AstGroup := SMap.get AstGroup.idle s.ast.groups g

def State.setAstGroup (s : State) (g : Nat) (v : AstGroup) : State :=
  { s with ast := { s.ast with groups := SMap.set AstGroup.idle s.ast.groups g v } }

def State.setJournal (s : State) (g : Nat) (j : Journal) : State :=
  s.setAstGroup g { s.astGroup g with journal := some j }

def kGrp (g off : Nat) : Nat := kAst (0x1000 + 0x20 * g + off)

/-- The group whose partition holds an entry. -/
def State.groupOf (s : State) (i : Nat) : Option AsterRec :=
  s.boot.scroll.asters.find? (fun a => (s.pipe a.pipe).bound && decide (a.base ≤ i) && decide (i < a.base + a.size))

/-- Aster's own accesses (Table 11-2): secure, on a side. -/
def rqAster (side : Bool) : Requester := ⟨0x7000, true, side⟩

/-- A track-table entry (Table 10-2). -/
structure Trk where
  cx : Int
  cy : Int
  vx : Int
  vy : Int
  w : Nat
  h : Nat
  pxx : Int
  pxv : Int
  pvx : Int
  pyy : Int
  pyv : Int
  pvy : Int
  ps : Int
  id : Nat
  age : Nat
  misses : Nat
  cls : Nat
  emb : Nat
  state : Nat
  hits : Nat
deriving DecidableEq, Repr

def trkOf (v : BitVec 512) : Trk :=
  let n := v.toNat
  let w (i : Nat) : Nat := bitsOf n (32 * i) 32
  { cx := sext (w 0) 32, cy := sext (w 1) 32, vx := sext (w 2) 32, vy := sext (w 3) 32, w := w 4, h := w 5
    pxx := (w 6 : Int), pxv := sext (w 7) 32, pvx := (w 8 : Int), pyy := (w 9 : Int), pyv := sext (w 10) 32
    pvy := (w 11 : Int), ps := (w 12 : Int), id := w 13, age := bitsOf n 448 16, misses := bitsOf n 464 8
    cls := bitsOf n 472 8, emb := bitsOf n 480 24, state := bitsOf n 504 2, hits := bitsOf n 506 6 }

/-- A signed and an unsigned 32-bit field of an image. -/
def s32 (i : Int) : Nat := toTwos i 32

def trkBits (t : Trk) : BitVec 512 :=
  let ws := [s32 t.cx, s32 t.cy, s32 t.vx, s32 t.vy, t.w, t.h, s32 t.pxx, s32 t.pxv, s32 t.pvx, s32 t.pyy, s32 t.pyv,
    s32 t.pvy, s32 t.ps, t.id, place t.age 0 16 + place t.misses 16 8 + place t.cls 24 8,
    place t.emb 0 24 + place t.state 24 2 + place t.hits 26 6]
  BitVec.ofNat 512 (ws.reverse.foldl (fun acc x => acc * 2 ^ 32 + x % 2 ^ 32) 0)

def Trk.live (t : Trk) : Bool := t.state == 1 || t.state == 2

/-- Saturation to a signed and to an unsigned 32-bit field. -/
def satS (i : Int) : Int := clampInt (-2147483648) 2147483647 i
def satU (i : Int) : Int := clampInt 0 4294967295 i

/-! ## Table reads (R336, R351, R514) -/

def macroOf (i : Nat) : Nat := i / 1024
def State.physMacro (s : State) (m : Nat) : Nat := SMap.get macroSelf s.ast.macros m
def State.macroSpares (s : State) : Nat := s.fld (kAst 0) 24 8

/-- The committed image of an entry: the journal's while its copy runs (R351). -/
def State.trkImage (s : State) (i : Nat) : BitVec 512 :=
  let base := SMap.get entryFree s.ast.table i
  match s.groupOf i with
  | some a =>
    match (s.astGroup a.group).journal with
    | some j => if j.copying then SMap.get (fun _ => base) j.images i else base
    | none => base
  | none => base

/-- What a journal's image list reads as where it lists nothing: an image of the reserved state 3, which no
entry has. -/
def imageNone : Nat → BitVec 512 := fun _ => BitVec.ofNat 512 (2 ^ 512 - 1)

/-- An entry is written to the table with fresh check bits. -/
def State.trkWrite (s : State) (i : Nat) (v : BitVec 512) : State :=
  { s with ast := { s.ast with
      table := SMap.set entryFree s.ast.table i v
      ce := dropRow s.ast.ce i
      ue := dropRow s.ast.ue i } }

/-- The second uncorrectable word of a macro since RESET_n: its replacement falls due, or no spare is left
(R514). The entry names the spare that the macro will take, behind those due before it (Table 17-7). -/
def State.macroFault (s : State) (i n : Nat) : State :=
  let m := macroOf i
  let old := SMap.get zeroNat s.ast.ues m
  let s := { s with ast := { s.ast with ues := SMap.set zeroNat s.ast.ues m (old + n) } }
  if old < 2 ∧ 2 ≤ old + n then
    let spare := decide (s.macroSpares ≠ 0)
    let next := 68 - s.macroSpares + s.ast.due.length
    let s := s.fault { mkFault 0x10 (if spare then 2 else 1) (s.physMacro m) (mkParam [(0, i)]) with
      spare := if spare ∧ next < 68 then next else 0xFFFF, degraded := s.macroSpares == 1 && s.exhausts 7 (s.physMacro m) }
    if spare then { s with ast := { s.ast with due := s.ast.due ++ [m] } }
    else { s with ast := { s.ast with lost := s.ast.lost ++ [m] } }
  else s

/-- An entry as the group's shadow holds it. DESIGN CHOICE (log entry 138): where the shadow cannot be read, the spec does
not state what the entry becomes: a free value. -/
def State.shadowRead (s : State) (i : Nat) : State × BitVec 512 :=
  match s.groupOf i with
  | some a =>
    let r := s.memAccess ⟨rqAster false, false, a.shadow + 64 * (i - a.base), 64, [], false⟩ none
    if r.2.1 = 0 then (r.1, BitVec.ofNat 512 (bytesToNat r.2.2))
    else ({ r.1 with freeIx := r.1.freeIx + 8 }, BitVec.ofNat 512 (bytesToNat (freeBytes r.1.freeIx 64)))
  | none => (s, 0)

/-- An uncorrectable entry restored from the shadow: the fault of class 0x0F (R336, R510). -/
def State.trkRestore (s : State) (i : Nat) : State :=
  let r := s.shadowRead i
  (r.1.fault (mkFault 0x0F 6 (s.physMacro (macroOf i)) (mkParam [(0, i)]))).trkWrite i r.2

/-- A read of an entry's committed image (R336): an uncorrectable entry is taken from the group's shadow and
written back. -/
def State.trkRead (s : State) (i : Nat) : State × BitVec 512 :=
  let bad := wordsAt s.ast.ue i
  if bad.isEmpty then (s, s.trkImage i)
  else
    let s1 := (s.trkRestore i).macroFault i bad.length
    (s1, s1.trkImage i)

/-- The shadow of an uncorrectable entry lies in a page that is being copied: a read of the entry waits (R363). -/
def State.trkWaits (s : State) (i : Nat) : Bool :=
  !(wordsAt s.ast.ue i).isEmpty &&
    (s.groupOf i).any (fun a => s.pageBusy (a.shadow + 64 * (i - a.base)) 64)

def State.trkReads (s : State) : List Nat → State × List (BitVec 512)
  | [] => (s, [])
  | i :: is =>
    let x := s.trkRead i
    let y := x.1.trkReads is
    (y.1, x.2 :: y.2)

/-- Entries of a group's partition. -/
def AsterRec.entries (a : AsterRec) : List Nat := (upTo a.size).map (fun i => a.base + i)

/-- A memory area of the group lies in a page that is being copied: Aster's accesses to it wait (R363). -/
def State.astWaits (s : State) (a : AsterRec) : Bool :=
  s.pageBusy a.shadow (64 * a.size) || s.pageBusy a.embBase (a.featBytes * a.size) || s.pageBusy a.jobBase a.jobLen

/-- The partition touches a macro for which no spare was left. -/
def State.groupLost (s : State) (a : AsterRec) : Bool :=
  s.ast.lost.any (fun m => decide (m * 1024 < a.base + a.size) && decide (a.base < (m + 1) * 1024))

/-! ## Sorting and suppression (R341, R342) -/

/-- Overlap of two boxes on one axis, in half units. -/
def axisInter (c1 : Int) (w1 : Nat) (c2 : Int) (w2 : Nat) : Int :=
  max 0 (min (2 * c1 + w1) (2 * c2 + w2) - max (2 * c1 - w1) (2 * c2 - w2))

/-- A kept detection suppresses a later one (R342). -/
def suppresses (agn : Bool) (thr : Nat) (a b : Det) : Bool :=
  let inter := axisInter a.cx a.w b.cx b.w * axisInter a.cy a.h b.cy b.h
  let union : Int := 4 * ((a.w * a.h + b.w * b.h : Nat) : Int) - inter
  (agn || a.cls == b.cls) && decide ((thr : Int) * union < inter * 65536)

/-- The walk of R342: detections kept in walk order, at most `n`. -/
def suppress (agn : Bool) (thr n : Nat) : List Det → List Det → List Det
  | kept, [] => kept
  | kept, d :: ds =>
    if n ≤ kept.length then kept
    else if kept.any (fun k => suppresses agn thr k d) then suppress agn thr n kept ds
    else suppress agn thr n (kept ++ [d]) ds

/-- Acts 1 and 2 on the detections of a slot. -/
def AsterRec.keep (a : AsterRec) (ds : List Det) : List Det :=
  suppress a.nmsAgn a.nmsThr a.maxDet []
    (sortBy (fun x y => decide (y.score < x.score)) (ds.filter (fun d => decide (a.detMin ≤ d.score))))

/-! ## Prediction (R343) -/

def AsterRec.noiseAt (a : AsterRec) (i : Nat) : Int := ((a.noise[i]?.getD 0 : Nat) : Int)

def AsterRec.predict (a : AsterRec) (dt : Nat) (t : Trk) : Trk :=
  let d : Int := dt
  let qp := a.noiseAt 0
  let qv := a.noiseAt 1
  { t with
    cx := satS (t.cx + d * t.vx), cy := satS (t.cy + d * t.vy)
    pxx := satU (t.pxx + 2 * d * t.pxv + d * d * t.pvx + d * qp)
    pxv := satS (t.pxv + d * t.pvx), pvx := satU (t.pvx + d * qv)
    pyy := satU (t.pyy + 2 * d * t.pyv + d * d * t.pvy + d * qp)
    pyv := satS (t.pyv + d * t.pvy), pvy := satU (t.pvy + d * qv)
    ps := satU (t.ps + d * a.noiseAt 2)
    age := satAdd 16 t.age dt }

/-! ## The association job (R344, R345) -/

/-- Vector length K, chunks, bytes of an activation vector, rows of a stationary block. -/
def AsterRec.k (a : AsterRec) : Nat :=
  if a.minplus then a.featBytes / 2 else a.featBytes + (if a.geoRep = 0 then 0 else 128)
def AsterRec.kc (a : AsterRec) : Nat := ceilDiv a.k 128
def AsterRec.vb (a : AsterRec) : Nat := if a.minplus then 256 else 128
def AsterRec.wb (a : AsterRec) : Nat := if a.minplus then 64 else 32
/-- Bytes of one element. -/
def AsterRec.eb (a : AsterRec) : Nat := if a.minplus then 2 else 1

def AsterRec.actRows (a : AsterRec) (d : Nat) : Nat := ceilDiv (a.kc * d * a.vb) 512
def AsterRec.wgtRows (a : AsterRec) (t : Nat) : Nat := ceilDiv t 128 * a.kc * a.wb
/-- Byte addresses of the three parts of the job area. -/
def AsterRec.wgtAt (a : AsterRec) (d : Nat) : Nat := a.jobBase + 512 * a.actRows d
def AsterRec.costAt (a : AsterRec) (d t : Nat) : Nat := a.wgtAt d + 512 * a.wgtRows t
/-- The job size in bytes (R345). -/
def AsterRec.jobSize (a : AsterRec) (d t : Nat) : Nat := 512 * (a.actRows d + a.wgtRows t + ceilDiv t 128 * d)

/-- A quantised box coordinate (R344). -/
def AsterRec.geoQ (a : AsterRec) (c o : Int) : Nat :=
  toTwos (clampInt (-128) 127 (rneDiv (c - o) (2 ^ (16 + a.geoShift)))) 8

/-- The bytes of an operand vector: features, then the geometry block. -/
def AsterRec.vector (a : AsterRec) (feat : List Byte) (cx cy : Int) (w h : Nat) : List Byte :=
  if a.minplus ∨ a.geoRep = 0 then feat
  else
    let q := [a.geoQ cx a.originX, a.geoQ cy a.originY, a.geoQ w 0, a.geoQ h 0]
    feat ++ (upTo 128).map (fun e => BitVec.ofNat 8 (if e < 4 * a.geoRep then q[e / a.geoRep]?.getD 0 else 0))

/-- `n` bytes of a list from an offset, zeros past its end. -/
def takeZ (l : List Byte) (off n : Nat) : List Byte :=
  let x := (l.drop off).take n
  x ++ List.replicate (n - x.length) 0

/-- The activation layout of Table 03-3 with M = D. -/
def AsterRec.actBytes (a : AsterRec) (vs : List (List Byte)) : List Byte :=
  let b := (upTo a.kc).flatMap (fun k => vs.flatMap (fun v => takeZ v (k * a.vb) a.vb))
  takeZ b 0 (512 * a.actRows vs.length)

/-- The weight layout of Table 03-3. -/
def AsterRec.wgtBytes (a : AsterRec) (vs : List (List Byte)) : List Byte :=
  (upTo (ceilDiv vs.length 128)).flatMap (fun b => (upTo a.kc).flatMap (fun k => (upTo 128).flatMap (fun r =>
    (upTo 128).flatMap (fun c => takeZ (vs[128 * b + c]?.getD []) ((128 * k + r) * a.eb) a.eb))))

/-- The logical tiles a binding reserves for Aster. -/
def PipeBind.reserved (b : PipeBind) : List Nat := (upTo 64).filter (fun t => b.asterRes.getLsbD t)

/-- The division of NB column blocks among the reserved tiles (R345). -/
def jobParts (res : List Nat) (nb : Nat) : List JobPart :=
  let r := res.length
  ((upTo r).map (fun i => (⟨res[i]?.getD 0, i * nb / r, (i + 1) * nb / r, false⟩ : JobPart))).filter
    (fun p => decide (p.b0 < p.b1))

/-! ## Starting an epoch (R337 to R345) -/

/-- The ASTER stage of a pipeline. -/
def Pipe.asterStage (p : Pipe) : Option Nat := p.stages.findIdx? (fun st => st.kind == .aster)

/-- The side whose detections the tracker takes; the stage passes the tokens of another side on this device
through (log entry 38). -/
def Pipe.trackSide (p : Pipe) : Bool := p.sides.headD false

/-- The ASTER stage holds the epoch's tokens on every input edge and a credit on every output edge. -/
def State.asterHolds (s : State) (p : Pipe) (pipe stage : Nat) (e : B32) : Bool :=
  p.sides.all (fun sd =>
    (p.edgesInto stage).all (fun ed => ((s.book (bookKey pipe sd ed)).tokenOf e).isSome) &&
    (p.edgesFrom stage).all (fun ed => ((s.book (bookKey pipe sd ed)).free).isSome))

/-- Input slots go into reading, output slots into writing, and the epoch runs (R240, R248). -/
def State.asterTake (s : State) (p : Pipe) (pipe stage : Nat) (e : B32) : State :=
  let s := p.sides.foldl (fun s sd =>
    let s := (p.edgesInto stage).foldl (fun s ed =>
      let k := bookKey pipe sd ed
      let b := s.book k
      match b.tokenOf e with
      | some i => s.setBook k { b with cons := b.cons.set i (.reading e none) }
      | none => s) s
    (p.edgesFrom stage).foldl (fun s ed =>
      let k := bookKey pipe sd ed
      let b := s.book k
      match b.free with
      | some i => s.setBook k { b with prod := b.prod.set i (.writing e 0) }
      | none => s) s) s
  match s.epochRec e with
  | some r => if r.state = .admitted then s.setEpoch e { r with state := .running } else s
  | none => s

/-- The sequence number of a sample (R338). -/
def Sample.seq (sm : Sample) : B32 :=
  BitVec.ofNat 32 (match sm.kind with
    | 0 => bitsOf sm.word.toNat 24 32
    | 1 => bitsOf sm.word.toNat 8 32
    | _ => bitsOf sm.word.toNat 0 32)

/-- The step count of R338. -/
def State.astDt (s : State) (g : Nat) (seq : B32) : Nat :=
  if (s.astGroup g).begun then (clampInt 1 255 (seq - s.reg (kGrp g 4)).toInt).toNat else 1

/-- The Aster stage fails: the end cause and a REPORT (R253, R340, R347). -/
def State.asterFail (s : State) (p : Pipe) (pipe stage : Nat) (e : B32) (status : Nat) : State :=
  (s.endCause e (if isFault status then 1 else 2)).sendReport pipe p.trackSide stage status e

/-- The detection slot of an epoch: its address and slot_bytes. -/
def State.detSlot (s : State) (p : Pipe) (pipe stage : Nat) (e : B32) : Option (Nat × Nat) :=
  (p.edgesInto stage).findSome? (fun ed =>
    match p.edge ed, (s.book (bookKey pipe p.trackSide ed)).readingOf e with
    | some x, some i => if x.orderOnly then none else (p.slotAddr p.trackSide ed i).map (fun a => (a, x.slotBytes))
    | _, _ => none)

/-- The detection slot of an epoch's token lies in a page that is being copied (R363). -/
def State.detWaits (s : State) (p : Pipe) (pipe stage : Nat) (e : B32) : Bool :=
  (p.edgesInto stage).any (fun ed =>
    match p.edge ed, (s.book (bookKey pipe p.trackSide ed)).tokenOf e with
    | some x, some i => !x.orderOnly && (p.slotAddr p.trackSide ed i).any (fun a => s.pageBusy a x.slotBytes)
    | _, _ => false)

/-- First byte of the features (R339). -/
def featAt (n : Nat) : Nat := ceilDiv (64 + 32 * n) 64 * 64

/-- The checks of R340 on a slot header: a failing status. -/
def AsterRec.slotStatus (a : AsterRec) (hdr slotBytes : Nat) : Option Nat :=
  let n := bitsOf hdr 0 32
  if bitsOf hdr 48 464 ≠ 0 ∨ bitsOf hdr 32 16 ≠ a.featBytes then some stFormat
  else if 65536 < n then some stRange
  else if slotBytes < featAt n + n * a.featBytes then some stLen
  else none

/-- Detection `i` of a slot at `at_` (Table 10-4). -/
def State.detAt (s : State) (a : AsterRec) (at_ n i : Nat) : Det :=
  let r := s.memNat (at_ + 64 + 32 * i) 32
  { cx := sext (bitsOf r 0 32) 32, cy := sext (bitsOf r 32 32) 32, w := bitsOf r 64 32, h := bitsOf r 96 32
    score := bitsOf r 128 16, cls := bitsOf r 144 8
    feat := s.mem.hbm.readBytes (at_ + featAt n + i * a.featBytes) a.featBytes }

/-- The tracks' part of acts 1, 3 and 4: the committed entries are read, the live ones predicted, their
features read, the operands written and the journal opened. -/
def State.asterSend (s : State) (a : AsterRec) (p : Pipe) (stage : Nat) (e : B32) (seq : B32) (nDet : Nat)
    (dets : List Det) : State :=
  let rq := rqAster p.trackSide
  let ep := some (e, a.pipe)
  let dt := s.astDt a.group seq
  let x := s.trkReads a.entries
  let all := a.entries.zip x.2
  let live := all.filter (fun y => (trkOf y.2).live)
  let pred := live.map (fun y => (y.1, a.predict dt (trkOf y.2)))
  let r := x.1.memReads rq ep (pred.flatMap (fun y => pieces (a.embBase + y.2.emb * a.featBytes) a.featBytes))
  if r.2 ≠ 0 then r.1.asterFail p a.pipe stage e r.2
  else
    let s := r.1
    let nb := ceilDiv pred.length 128
    let job := !dets.isEmpty && !pred.isEmpty
    let av := dets.map (fun d => a.vector d.feat d.cx d.cy d.w d.h)
    let tv := pred.map (fun y => a.vector (s.mem.hbm.readBytes (a.embBase + y.2.emb * a.featBytes) a.featBytes)
      y.2.cx y.2.cy y.2.w y.2.h)
    let w := if job then
        s.memWrites rq ep (cut512 a.jobBase (a.actBytes av) ++ cut512 (a.wgtAt dets.length) (a.wgtBytes tv))
      else (s, 0)
    if w.2 ≠ 0 then w.1.asterFail p a.pipe stage e w.2
    else
      w.1.setJournal a.group
        { epoch := e, seq := seq, dt := dt, nDet := nDet, dets := dets, live := pred.map (·.1)
          images := pred.foldl (fun m y => SMap.set imageNone m y.1 (trkBits y.2)) []
          embeds := [], nextId := s.reg (kGrp a.group 8), refused := 0
          parts := if job then jobParts ((p.bind.map (·.reserved)).getD []) nb else []
          ready := false, copying := false }

/-- Acts 1 to 4 of Table 10-3 (R337 to R345). -/
def State.asterStart (s : State) (a : AsterRec) (p : Pipe) (stage : Nat) (e : B32) (sm : Sample) : State :=
  let s := s.asterTake p a.pipe stage e
  let rq := rqAster p.trackSide
  let ep := some (e, a.pipe)
  if s.groupLost a then s.asterFail p a.pipe stage e 1
  else
    match s.detSlot p a.pipe stage e with
    | none => s.asterFail p a.pipe stage e stFormat
    | some (at_, size) =>
      let h := s.memReads rq ep [(at_, 64)]
      if h.2 ≠ 0 then h.1.asterFail p a.pipe stage e h.2
      else
        let hdr := h.1.memNat at_ 64
        match a.slotStatus hdr size with
        | some st => h.1.asterFail p a.pipe stage e st
        | none =>
          let n := bitsOf hdr 0 32
          let r := h.1.memReads rq ep (pieces (at_ + 64) (featAt n + n * a.featBytes - 64))
          if r.2 ≠ 0 then r.1.asterFail p a.pipe stage e r.2
          else
            let dets := a.keep ((upTo n).map (fun i => r.1.detAt a at_ n i))
            r.1.asterSend a p stage e sm.seq n dets

/-- Groups with an open journal. -/
def State.openJournals (s : State) : Nat := (s.ast.groups.filter (fun g => g.2.journal.isSome)).length

/-- ASTER_EPOCH_START (R337). -/
def execAsterEpochStart (g : Nat) (e : B32) (s : State) : Out :=
  attempt (match s.astRec g, s.epochRec e with
    | some a, some r =>
      let p := s.pipe a.pipe
      match p.asterStage with
      | some st =>
        if s.awake ∧ r.pipe = a.pipe ∧ s.epochLive e ∧ (s.astGroup g).journal.isNone ∧ s.openJournals < 8 ∧
            !(s.commit.epochs.any (fun x => x.2.pipe == a.pipe && olderThan x.1 e)) ∧ s.asterHolds p a.pipe st e ∧
            !(s.astWaits a) ∧ !(s.detWaits p a.pipe st e) then
          some (s.asterStart a p st e r.sample)
        else none
      | none => none
    | _, _ => none) s

/-! ## The job program (R346) -/

/-- The descriptor of one step of the program. -/
def jobDesc (a : AsterRec) (m n act wgt out : Nat) : BitVec 512 :=
  let op := if a.minplus then opMin else opL2
  let f := if a.minplus then 8 else 0
  BitVec.ofNat 512 (op + place (f + 16 * f) 8 8 + place m 32 32 + place a.k 64 32 + place n 96 32 + place act 128 32 +
    place wgt 192 32 + place out 288 32)

/-- P of R346: the largest multiple of 4 that the window holds. -/
def AsterRec.passSize (a : AsterRec) (rows : Nat) : Nat :=
  (((upTo (rows / 4 + 1)).reverse.find? (fun i =>
    decide (ceilDiv (a.kc * (4 * i) * a.vb) 512 + a.kc * a.wb + 4 * i ≤ rows))).getD 0) * 4

/-- The passes of a job: first detection and count. -/
def passes (d p : Nat) : List (Nat × Nat) :=
  (upTo (ceilDiv d p)).map (fun i => (i * p, min p (d - i * p)))

/-- Rows read from memory into the Inkwell by the tile's DMA. -/
def State.rowsIn (s : State) (rq : Requester) (ep : Option (B32 × Nat)) (t : Nat) : List (Nat × Nat) → State × Nat
  | [] => (s, 0)
  | (addr, row) :: rs =>
    let x := s.memAccess ⟨rq, false, addr, 512, [], false⟩ ep
    if x.2.1 ≠ 0 then (x.1, x.2.1)
    else
      let w := x.1.inkWrite t row rqDmaIn (BitVec.ofNat 4096 (bytesToNat x.2.2))
      if w.2 ≠ 0 then (w.1, w.2) else w.1.rowsIn rq ep t rs

/-- Rows written from the Inkwell to memory by the tile's DMA. -/
def State.rowsOut (s : State) (rq : Requester) (ep : Option (B32 × Nat)) (t : Nat) : List (Nat × Nat) → State × Nat
  | [] => (s, 0)
  | (row, addr) :: rs =>
    let x := s.inkRead t row rqDmaOut ep
    if x.2.1 ≠ 0 then (x.1, x.2.1)
    else
      let w := x.1.memAccess ⟨rq, true, addr, 0, vecBytes x.2.2 512, false⟩ ep
      if w.2.1 ≠ 0 then (w.1, w.2.1) else w.1.rowsOut rq ep t rs

/-- What the program of one tile works on: group, physical tile, window, sizes D and T, requester, epoch. -/
structure JobCtx where
  a  : AsterRec
  t  : Nat
  w0 : Nat
  wn : Nat
  d  : Nat
  n  : Nat
  rq : Requester
  e  : B32
deriving DecidableEq, Repr

/-- Items 2 to 4 of the program for block `b` of a pass. -/
def State.jobBlock (s : State) (c : JobCtx) (d0 ps b : Nat) : State × Nat :=
  let a := c.a
  let ep := some (c.e, a.pipe)
  let mp := ceilDiv ps 4 * 4
  let wgt := c.w0 + ceilDiv (a.kc * mp * a.vb) 512
  let out := wgt + a.kc * a.wb
  let n := a.kc * a.wb
  let x := s.rowsIn c.rq ep c.t ((upTo n).map (fun i => (a.wgtAt c.d + 512 * (b * n + i), wgt + i)))
  if x.2 ≠ 0 then x
  else
    let d := jobDesc a mp (min 128 (c.n - 128 * b)) c.w0 wgt out
    match checkMatrix d c.w0 c.wn with
    | some (st, byte) => (x.1.arrErr c.t st byte, st)
    | none =>
      let g := geoOf d
      let w := x.1.arrayBlock c.t ep g 0
      if w.2.1 ≠ 0 then (w.1, w.2.1)
      else
        let s := w.1.stageClamps c.e c.t [(0, w.2.2.ovf)]
        let s := s.stageCount c.e [⟨kTil c.t 0x120, g.kc * 128, .wide⟩, ⟨kTil c.t 0x128, g.kc * g.issue, .wide⟩,
          ⟨kTil c.t 0x130, s.bubbles, .wide⟩, ⟨kTil c.t 0x138, 1, .wrap⟩]
        (s.bankWaits c.t).rowsOut c.rq ep c.t ((upTo ps).map (fun m => (out + m, a.costAt c.d c.n + 512 * (b * c.d + d0 + m))))

/-- The blocks of one pass in increasing order. -/
def State.jobBlocks (s : State) (c : JobCtx) (d0 ps : Nat) : List Nat → State × Nat
  | [] => (s, 0)
  | b :: bs =>
    let x := s.jobBlock c d0 ps b
    if x.2 ≠ 0 then x else x.1.jobBlocks c d0 ps bs

/-- The passes of a program: item 1, then the blocks. -/
def State.jobPasses (s : State) (c : JobCtx) (blocks : List Nat) : List (Nat × Nat) → State × Nat
  | [] => (s, 0)
  | (d0, ps) :: rest =>
    let mp := ceilDiv ps 4 * 4
    let rows := mp * c.a.vb / 512
    let x := s.rowsIn c.rq (some (c.e, c.a.pipe)) c.t ((upTo c.a.kc).flatMap (fun k => (upTo rows).map (fun i =>
      (c.a.jobBase + (k * c.d + d0) * c.a.vb + 512 * i, c.w0 + k * rows + i))))
    if x.2 ≠ 0 then x
    else
      let y := x.1.jobBlocks c d0 ps blocks
      if y.2 ≠ 0 then y else y.1.jobPasses c blocks rest

/-- A slice of a row range is filling. -/
def State.rowsFilling (s : State) (t r0 n : Nat) : Bool :=
  (upTo 8).any (fun sl => (s.tile t).filling.getLsbD sl && decide (r0 < (sl + 1) * 2048) && decide (sl * 2048 < r0 + n))

/-- ASTER_JOB_PROGRAM (R346): a reserved tile whose position 1 and array are free runs its whole part of the
job. -/
def execAsterJobProgram (g l : Nat) (s : State) : Out :=
  attempt (match s.astRec g, (s.astGroup g).journal, s.physOf l with
    | some a, some j, some t =>
      let p := s.pipe a.pipe
      let tl := s.tile t
      let win := Config.asterWindow a.pipe
      match j.parts.find? (fun x => x.tile == l && !x.done), p.asterStage with
      | some part, some st =>
        if s.awake ∧ s.epochLive j.epoch ∧ !j.copying ∧ !tl.failed ∧ !tl.swap ∧ tl.res1.isNone ∧
            !(tl.arrayBusy .matrix) ∧ !(s.rowsFilling t win.1 win.2) ∧ !(s.astWaits a) then
          let c : JobCtx := ⟨a, t, win.1, win.2, j.dets.length, j.live.length,
            ⟨BitVec.ofNat 16 t, false, p.trackSide⟩, j.epoch⟩
          let x := s.jobPasses c ((upTo (part.b1 - part.b0)).map (fun i => part.b0 + i)) (passes c.d (a.passSize win.2))
          some (if x.2 ≠ 0 then x.1.asterFail p a.pipe st j.epoch x.2
            else x.1.setJournal g { j with parts := j.parts.map (fun y => if y.tile = l then { y with done := true } else y) })
        else none
      | _, _ => none
    | _, _, _ => none) s

/-! ## Assignment (R348) -/

/-- A candidate: cost, kept detection, column. -/
structure Cand where
  cost : Int
  d    : Nat
  t    : Nat
deriving DecidableEq, Repr

/-- The cost of (d, t) in the cost area (R345). -/
def State.costOf (s : State) (a : AsterRec) (nd nt d t : Nat) : Int :=
  sext (s.memNat (a.costAt nd nt + ((t / 128 * nd + d) * 128 + t % 128) * 4) 4) 32

/-- The candidate list. -/
def candidates (cost : Nat → Nat → Int) (gate : Int) (per nd nt : Nat) : List Cand :=
  (upTo nd).flatMap (fun d =>
    (sortBy (fun x y => decide (x.cost < y.cost))
      (((upTo nt).map (fun t => (⟨cost d t, d, t⟩ : Cand))).filter (fun c => decide (c.cost ≤ gate)))).take per)

/-- The greedy walk: pairs (d, t). -/
def assign : List Cand → List (Nat × Nat) → List (Nat × Nat)
  | [], acc => acc
  | c :: cs, acc =>
    if acc.any (fun x => x.1 == c.d || x.2 == c.t) then assign cs acc else assign cs (acc ++ [(c.d, c.t)])

/-- The assignment of a job's costs. -/
def assignment (cost : Nat → Nat → Int) (gate : Int) (per nd nt : Nat) : List (Nat × Nat) :=
  assign (sortBy (fun x y => decide (x.cost < y.cost)) (candidates cost gate per nd nt)) []

/-! ## Update, retirement, birth (R349, R350) -/

/-- Quotient rounded to an integer by RNE; a divisor of 0 or below gives 0 (it does not arise: r is 1 or
more). -/
def rdiv (a b : Int) : Int := if b ≤ 0 then 0 else rneDiv a b.toNat

/-- The product shifted right 16 places, rounded by RNE. -/
def rmul16 (a b : Int) : Int := rneDiv (a * b) 65536

/-- One axis of R349: centre, velocity, position variance, cross term, velocity variance. -/
def axisUpdate (z r c v pp pv vv : Int) : Int × Int × Int × Int × Int :=
  let s := pp + r
  let kp := rdiv (pp * 65536) s
  let kv := rdiv (pv * 65536) s
  (satS (c + rmul16 kp z), satS (v + rmul16 kv z), satU (pp - rmul16 kp pp), satS (pv - rmul16 kp pv),
   satU (vv - rmul16 kv pv))

/-- A matched entry (R349): every value read is the one from before the update, so an entry is confirmed by the hits it
had before this match. -/
def AsterRec.update (a : AsterRec) (t : Trk) (d : Det) : Trk :=
  let r := a.noiseAt 3
  let x := axisUpdate (d.cx - t.cx) r t.cx t.vx t.pxx t.pxv t.pvx
  let y := axisUpdate (d.cy - t.cy) r t.cy t.vy t.pyy t.pyv t.pvy
  let ks := rdiv (t.ps * 65536) (t.ps + a.noiseAt 4)
  { t with
    cx := x.1, vx := x.2.1, pxx := x.2.2.1, pxv := x.2.2.2.1, pvx := x.2.2.2.2
    cy := y.1, vy := y.2.1, pyy := y.2.2.1, pyv := y.2.2.2.1, pvy := y.2.2.2.2
    w := (satU ((t.w : Int) + rmul16 ks ((d.w : Int) - t.w))).toNat
    h := (satU ((t.h : Int) + rmul16 ks ((d.h : Int) - t.h))).toNat
    ps := satU (t.ps - rmul16 ks t.ps), misses := 0, hits := satAdd 6 t.hits 1
    state := if a.confirm ≤ t.hits then 2 else t.state }

/-- An unmatched live entry: its new image, all zeros when it is retired (R350). -/
def AsterRec.miss (a : AsterRec) (dt : Nat) (t : Trk) : Trk × Bool :=
  let m := satAdd 8 t.misses dt
  let out := (t.state == 1 && decide (a.maxMissT < m)) || (t.state == 2 && decide (a.maxMissC < m))
  if out then (trkOf 0, true) else ({ t with misses := m }, false)

/-- A birth in entry `i` (R350). -/
def AsterRec.born (a : AsterRec) (i : Nat) (id : B32) (d : Det) : Trk :=
  { cx := d.cx, cy := d.cy, vx := 0, vy := 0, w := d.w, h := d.h
    pxx := a.noiseAt 5, pxv := 0, pvx := a.noiseAt 6, pyy := a.noiseAt 5, pyv := 0, pvy := a.noiseAt 6
    ps := a.noiseAt 7, id := id.toNat, age := 0, misses := 0, cls := d.cls
    emb := if a.featBytes = 0 then 0xFFFFFF else i - a.base, state := 1, hits := 1 }

/-- The acts' results: images by entry, embedding rows, the ID counter, entry and detection of each match and
birth, counts. -/
structure Acts where
  images  : SMap (BitVec 512)
  embeds  : List (Nat × List Byte)
  nextId  : B32
  matched : List (Nat × Nat)
  born    : List (Nat × Nat)
  retired : Nat
  refused : Nat
deriving DecidableEq, Repr

/-- Act 6 for the live entries: matched ones are updated, the others miss. -/
def AsterRec.actLive (a : AsterRec) (j : Journal) (pairs : List (Nat × Nat)) : Acts :=
  (upTo j.live.length).foldl (fun acc t =>
    let i := j.live[t]?.getD 0
    let img := trkOf (SMap.get imageNone j.images i)
    match pairs.find? (fun x => x.2 == t) with
    | some (d, _) =>
      match j.dets[d]? with
      | some det =>
        { acc with images := SMap.set imageNone acc.images i (trkBits (a.update img det))
                   embeds := if a.embedPol ∧ a.featBytes ≠ 0 then acc.embeds ++ [(i - a.base, det.feat)] else acc.embeds
                   matched := acc.matched ++ [(i, d)] }
      | none => acc
    | none =>
      let m := a.miss j.dt img
      { acc with images := SMap.set imageNone acc.images i (trkBits m.1)
                 retired := acc.retired + b2n m.2 })
    ⟨j.images, [], j.nextId, [], [], 0, 0⟩

/-- The births (R350): `free` lists the FREE entries in increasing number. -/
def AsterRec.births (a : AsterRec) : List (Nat × Det) → List Nat → Acts → Acts
  | [], _, acc => acc
  | _ :: ds, [], acc => a.births ds [] { acc with refused := acc.refused + 1 }
  | (d, det) :: ds, i :: fs, acc =>
    a.births ds fs { acc with
      images := SMap.set imageNone acc.images i (trkBits (a.born i acc.nextId det))
      embeds := if a.featBytes = 0 then acc.embeds else acc.embeds ++ [(i - a.base, det.feat)]
      nextId := acc.nextId + 1
      born := acc.born ++ [(i, d)] }

/-! ## Records (R353) -/

/-- The frame record (Table 10-5). -/
def frameRecord (g : Nat) (sm : Sample) (j : Journal) (x : Acts) (nObj live : Nat) : List Byte :=
  natToBytes 1 1 ++ natToBytes 0 1 ++ natToBytes g 1 ++ natToBytes sm.kind 1 ++ natToBytes nObj 4 ++
  natToBytes sm.word.toNat 8 ++ natToBytes sm.t.toNat 8 ++ natToBytes j.seq.toNat 4 ++ natToBytes j.dt 1 ++
  natToBytes 0 1 ++ natToBytes (if sm.kind = 2 then 0 else sm.flags.toNat) 2 ++ natToBytes j.nDet 4 ++
  natToBytes j.dets.length 2 ++ natToBytes x.matched.length 2 ++ natToBytes x.born.length 2 ++
  natToBytes x.retired 2 ++ natToBytes x.refused 2 ++ natToBytes live 2 ++ natToBytes 0 16

/-- S8.8 from S16.16 by RNE, saturated. -/
def toS88 (v : Int) : Nat := toTwos (clampInt (-32768) 32767 (rneDiv v 256)) 16

/-- An object record (Table 10-6) of entry `i`. -/
def objRecord (i : Nat) (t : Trk) (dets : List Det) (x : Acts) : List Byte :=
  let m := x.matched.find? (fun y => y.1 == i)
  let b := x.born.find? (fun y => y.1 == i)
  let det := (m.or b).map (·.2)
  let score := (det.bind (fun d => dets[d]?)).elim 0 (·.score)
  natToBytes t.id 4 ++ natToBytes (s32 t.cx) 4 ++ natToBytes (s32 t.cy) 4 ++ natToBytes t.w 4 ++ natToBytes t.h 4 ++
  natToBytes (toS88 t.vx) 2 ++ natToBytes (toS88 t.vy) 2 ++ natToBytes t.cls 1 ++
  natToBytes (b2n m.isSome + 2 * b2n b.isSome + 4 * b2n (t.state == 2)) 1 ++ natToBytes t.misses 1 ++
  natToBytes t.hits 1 ++ natToBytes (det.getD 0xFFFF) 2 ++ natToBytes score 2

/-- An entry is reported (R353). -/
def AsterRec.reports (a : AsterRec) (t : Trk) : Bool :=
  decide (t.misses ≤ a.repMiss) && (t.state == 2 || (t.state == 1 && a.repTent))

/-- The ASTER stage ends cleanly: records are in its output slots, tokens and credits go out, and it reports
OK on every side this device runs. -/
def State.asterFinish (s : State) (p : Pipe) (pipe stage : Nat) (e : B32) : State :=
  p.sides.foldl (fun s sd =>
    let s := (p.edgesFrom stage).foldl (fun s ed =>
      match (s.book (bookKey pipe sd ed)).writingOf e 0 with
      | some i => s.sendToken p pipe sd ed i e
      | none => s) s
    let s := (p.edgesInto stage).foldl (fun s ed =>
      match (s.book (bookKey pipe sd ed)).readingOf e with
      | some i => s.returnSlot p pipe sd ed i e
      | none => s) s
    s.sendReport pipe sd stage 0 e) s

/-- The slots that take the records on a side: those of the data edges that lead to a SINK (R353). -/
def State.recordSlots (s : State) (p : Pipe) (pipe stage : Nat) (sd : Bool) (e : B32) : List Nat :=
  (p.edgesFrom stage).filterMap (fun ed =>
    match p.edge ed, (s.book (bookKey pipe sd ed)).writingOf e 0 with
    | some x, some i =>
      if !x.orderOnly ∧ (p.stage x.consumer).any (fun st => st.kind == .sink) then p.slotAddr sd ed i else none
    | _, _ => none)

/-- The records go into the SINK slots of each side in turn, as a requester of that side. -/
def State.writeRecords (s : State) (p : Pipe) (pipe stage : Nat) (e : B32) (bytes : List Byte) : List Bool → State × Nat
  | [] => (s, 0)
  | sd :: r =>
    let w := s.memWrites (rqAster sd) (some (e, pipe)) ((s.recordSlots p pipe stage sd e).flatMap (fun at_ => cut512 at_ bytes))
    if w.2 = 0 then w.1.writeRecords p pipe stage e bytes r else w

/-- A SINK slot of the epoch lies in a page that is being copied (R363). -/
def State.recordsWait (s : State) (p : Pipe) (pipe stage : Nat) (e : B32) (n : Nat) : Bool :=
  p.sides.any (fun sd => (s.recordSlots p pipe stage sd e).any (fun a => s.pageBusy a n))

/-- Acts 5 to 7 once the costs lie in the cost area. -/
def State.asterAssign (s : State) (a : AsterRec) (p : Pipe) (stage : Nat) (j : Journal) (sm : Sample) : State :=
  let nd := j.dets.length
  let nt := j.live.length
  let pairs := if nd = 0 ∨ nt = 0 then [] else assignment (s.costOf a nd nt) (sext a.gate 32) a.candPerDet nd nt
  let x := a.actLive j pairs
  let im (i : Nat) : Trk := trkOf (SMap.get (fun k => s.trkImage k) x.images i)
  let free := a.entries.filter (fun i => (im i).state == 0)
  let unmatched := ((upTo nd).filterMap (fun d => (j.dets[d]?).map (fun det => (d, det)))).filter
    (fun y => !(pairs.any (fun q => q.1 == y.1)) && decide (a.birth ≤ y.2.score))
  let x := a.births unmatched free x
  let im (i : Nat) : Trk := trkOf (SMap.get (fun k => s.trkImage k) x.images i)
  let live := a.entries.filter (fun i => (im i).live)
  let objs := live.filter (fun i => a.reports (im i))
  let bytes := frameRecord a.group sm j x objs.length live.length ++ objs.flatMap (fun i => objRecord i (im i) j.dets x)
  let w := s.writeRecords p a.pipe stage j.epoch bytes p.sides
  if w.2 ≠ 0 then w.1.asterFail p a.pipe stage j.epoch w.2
  else
    (w.1.setJournal a.group { j with images := x.images, embeds := x.embeds, nextId := x.nextId,
                                     refused := x.refused, ready := true }).asterFinish p a.pipe stage j.epoch

/-- A job is under way on the reserved tiles, or waits for one: with no tile reserved it waits without end (R22). -/
def Journal.jobOpen (j : Journal) : Bool :=
  !(j.parts.all (·.done)) || (j.parts.isEmpty && !j.dets.isEmpty && !j.live.isEmpty)

/-- ASTER_COSTS_READY (R347 to R353): every tile of the job has reported; the cost area is read, and acts 5 to
7 follow. -/
def execAsterCostsReady (g : Nat) (s : State) : Out :=
  attempt (match s.astRec g, (s.astGroup g).journal with
    | some a, some j =>
      let p := s.pipe a.pipe
      match p.asterStage, s.epochRec j.epoch with
      | some st, some r =>
        if s.awake ∧ !j.ready ∧ !j.copying ∧ s.epochLive j.epoch ∧ !j.jobOpen ∧ !(s.astWaits a) ∧
            !(s.recordsWait p a.pipe st j.epoch (64 + 32 * a.size)) then
          let x := s.memReads (rqAster p.trackSide) (some (j.epoch, a.pipe))
            (if j.parts.isEmpty then [] else
              pieces (a.costAt j.dets.length j.live.length) (512 * (ceilDiv j.live.length 128 * j.dets.length)))
          some (if x.2 ≠ 0 then x.1.asterFail p a.pipe st j.epoch x.2
            else if x.1.groupLost a then x.1.asterFail p a.pipe st j.epoch 1
            else x.1.asterAssign a p st j r.sample)
        else none
      | _, _ => none
    | _, _ => none) s

/-! ## Commit, copy, sparing -/

/-- Act 1 of R251: the journal of an epoch becomes the group's committed state, and its copy begins (R351,
R354). -/
def State.commitJournal (s : State) (pipe : Nat) (e : B32) : State :=
  match s.boot.scroll.asters.find? (fun a => a.pipe == pipe) with
  | none => s
  | some a =>
    match (s.astGroup a.group).journal with
    | none => s
    | some j =>
      if j.epoch ≠ e then s
      else
        let g := a.group
        let s := s.setAstGroup g ⟨some { j with copying := true }, true⟩
        let s := ((s.setReg (kGrp g 4) j.seq).setReg (kGrp g 8) j.nextId).addWrap (kGrp g 0xC) 1
        let s := s.addSat (kGrp g 0x10) j.refused
        if j.refused = 0 then s else s.raise 0x0901 (mkParam [(0, g), (16, j.refused)])

/-- R352: the journal of an ended epoch is freed. -/
def State.freeJournal (s : State) (pipe : Nat) (e : B32) : State :=
  match s.boot.scroll.asters.find? (fun a => a.pipe == pipe) with
  | none => s
  | some a =>
    let g := s.astGroup a.group
    if g.journal.any (fun j => j.epoch == e && !j.copying) then s.setAstGroup a.group { g with journal := none } else s

/-- JOURNAL_COPY_DONE (R336, R351, R352): images are in the table and the shadow, embedding rows are written. -/
def execJournalCopyDone (g : Nat) (s : State) : Out :=
  attempt (match s.astRec g, (s.astGroup g).journal with
    | some a, some j =>
      if s.awake ∧ j.copying ∧ !(s.astWaits a) then
        let s1 := s.setAstGroup g { s.astGroup g with journal := none }
        let s1 := j.images.foldl (fun s x => s.trkWrite x.1 x.2) s1
        let rq := rqAster (s.pipe a.pipe).trackSide
        let s1 := j.images.foldl (fun (s : State) x =>
          (s.memWrites rq none [(a.shadow + 64 * (x.1 - a.base), vecBytes x.2 64)]).1) s1
        some (j.embeds.foldl (fun (s : State) x => (s.memWrites rq none (cut512 (a.embBase + x.1 * a.featBytes) x.2)).1) s1)
      else none
    | _, _ => none) s

/-- A group with entries in a macro holds a journal. -/
def State.macroBusy (s : State) (m : Nat) : Bool :=
  s.boot.scroll.asters.any (fun a => (s.astGroup a.group).journal.isSome &&
    decide (m * 1024 < a.base + a.size) && decide (a.base < (m + 1) * 1024))

/-- MACRO_SPARED (R354, R514): the macro's entries are copied into the next spare, corrected or taken from
the shadow. A macro whose turn has not come when the last spare goes has none left. -/
def execMacroSpared (m : Nat) (s : State) : Out :=
  attempt (if s.awake ∧ s.ast.due.contains m ∧ s.macroSpares ≠ 0 ∧ !(s.macroBusy m) ∧
      !((upTo 1024).any (fun i => s.trkWaits (m * 1024 + i))) then
    let old := s.physMacro m
    let new := 68 - s.macroSpares
    let bad := ((s.ast.ue.filter (fun x => macroOf x.1 == m)).map (·.1)).eraseDups
    let s := bad.foldl (fun (s : State) i => s.trkRestore i) s
    let left := s.macroSpares - 1
    let s := { s with ast := { s.ast with
      ce := s.ast.ce.filter (fun x => macroOf x.1 != m)
      macros := SMap.set macroSelf s.ast.macros m new
      ues := SMap.set zeroNat s.ast.ues m 0
      due := if left = 0 then [] else s.ast.due.filter (· != m)
      lost := if left = 0 then s.ast.lost ++ s.ast.due.filter (· != m) else s.ast.lost } }
    let s := (s.setFld (kAst 0) 24 8 left).raise 0x0902 (mkParam [(0, old), (8, new)])
    some (if left = 0 then s.exhaust 7 old else s)
    else none) s

/-! ## Registers -/

/-- AST_TRK_DATA_READ (R351, R355): a secure read of AST_TRK_DATA_0 latches the 16 words of the selected
entry's committed image and returns the first. -/
def execAstTrkDataRead (rq : Requester) (s : State) : Out :=
  attempt (if s.awake ∧ !(rq.secure && s.trkWaits (s.fld (kAst 0x2000) 0 16)) then
    some (if rq.secure then
      let x := s.trkRead (s.fld (kAst 0x2000) 0 16)
      { x.1 with ast := { x.1.ast with latch := x.2 }, readback := x.2.truncate 32 }
    else { s.refuseReg rq false (kAst 0x2040) with readback := 0 })
    else none) s

/-- AST_CNT_CLEAR (R355). -/
def execAstCntClear (rq : Requester) (s : State) : Out :=
  attempt (if s.awake then
    some (s.guardReg rq (kAst 4) (fun s => (upTo 64).foldl (fun s g => s.setReg (kGrp g 0x10) 0) s)) else none) s

end Sys2Proof.Machine
end

