-- ==== Sys2Proof/Machine/Iris.lean ====
section
/-!
DEFINITION. The pixel pipeline of Iris (R282 to R288, R291), and the scaling, colour conversion and layouts that
the scale-and-crop engine shares with it (R325, R326). An image is a function of channel, column and row.
-/
namespace Sys2Proof.Machine

/-! ## Interpolation, scaling and colour conversion -/

/-- Bilinear interpolation in cell (i, j) of a grid, `a` of `d` across and `b` of `e` down: the exact value times
d · e. -/
def bilin (g : Nat → Nat → Nat) (i j a d b e : Nat) : Nat :=
  (d - a) * (e - b) * g i j + a * (e - b) * g (i + 1) j + (d - a) * b * g i (j + 1) + a * b * g (i + 1) (j + 1)

/-- Cell and Q14 coefficient of output sample `i` when `n` samples become `on`, with centred phase (R286): the
position is (i + ½) · n/on − ½. Only an enlarged chroma plane (R325) reaches below 0, where the first sample
stands (log entry 117). -/
def scalePos (n on i : Nat) : Nat × Nat :=
  let a := (2 * i + 1) * n - on
  (a / (2 * on), (rneDiv ((a % (2 * on)) * 2 ^ 14 : Nat) (2 * on)).toNat)

/-- Sample (x, y) of a crop (x0, y0, w, h) scaled to ow × oh: bilinear, Q14 coefficients, one RNE (R286). -/
def scaled (g : Nat → Nat → Nat) (x0 y0 w h ow oh x y : Nat) : Nat :=
  let px := scalePos w ow x
  let py := scalePos h oh y
  let at_ (i j : Nat) : Nat := g (x0 + min i (w - 1)) (y0 + min j (h - 1))
  (rneDiv (bilin at_ px.1 py.1 px.2 (2 ^ 14) py.2 (2 ^ 14) : Nat) (2 ^ 28)).toNat

/-- BT.709 limited-range coefficients in Q14, RGB to Y, Cb, Cr (R286). -/
def yuvCoef : Nat → Int × Int × Int
  | 0 => (2991, 10064, 1016)
  | 1 => (-1649, -5547, 7196)
  | _ => (7196, -6536, -660)

/-- Component `c` of 12-bit R, G, B in YUV of `bits` bits: RNE, clamped (R286). -/
def yuvOf (bits c r g b : Nat) : Nat :=
  let k := yuvCoef c
  let off : Int := if c = 0 then 256 else 2048
  (clampInt 0 (2 ^ bits - 1) (rneDiv (k.1 * r + k.2.1 * g + k.2.2 * b + off * 2 ^ 14) (2 ^ (26 - bits)))).toNat

/-- Channel `c` of 12-bit Y, Cb, Cr in RGB: BT.709 limited-range coefficients in Q14, RNE, clamped to 0 to 4,095,
and whether it was clamped (R325). -/
def rgbOf (c y u v : Nat) : Nat × Bool :=
  let yy : Int := 19077 * ((y : Int) - 256)
  let cu : Int := (u : Int) - 2048
  let cv : Int := (v : Int) - 2048
  let t : Int := match c with
    | 0 => yy + 29372 * cv
    | 1 => yy - 3494 * cu - 8731 * cv
    | _ => yy + 34610 * cu
  let n := rneDiv t (2 ^ 14)
  ((clampInt 0 4095 n).toNat, decide (n < 0) || decide (4095 < n))

/-- p → q of R287, stored as INT8 or FP16: the element's bits, and whether it was clamped or saturated. -/
def visionElem (fp16 : Bool) (mu kappa : B32) (p : Nat) : Nat × Bool :=
  let q := fpMul (fpSub (fpOfInt p) mu) kappa
  if fp16 then fpToFp16Sat q else fpToIntSat q 8

/-! ## Layouts -/

/-- Byte `i` of an image of rows `stride` bytes apart, `n` elements of `e` bytes in each. The bytes behind a
row's elements have no stated value (log entry 17). -/
def rowByte (stride e n : Nat) (elem : Nat → Nat → Nat) (i : Nat) : Byte :=
  if i % stride < n * e then BitVec.ofNat 8 (elem (i / stride) (i % stride / e) / 256 ^ (i % stride % e))
  else Config.imagePad i

/-- Rows start at multiples of 64 bytes (R288, R326). -/
def rowStride (n e : Nat) : Nat := ceilDiv (n * e) 64 * 64

/-- The element of row `r`, place `x` of a planar image: plane after plane, `oh` rows each (R288). -/
def planarAt (oh : Nat) (px : Nat → Nat → Nat → Nat) (r x : Nat) : Nat := px (r / oh) x (r % oh)

/-- The element of row `r`, place `x` of NV12 or P010: the luma rows, then the rows of Cb and Cr pairs. -/
def semiAt (oh : Nat) (luma : Nat → Nat → Nat) (chroma : Nat → Nat → Nat → Nat) (r x : Nat) : Nat :=
  if r < oh then luma x r else chroma (1 + x % 2) (x / 2) (r - oh)

/-! ## The parameter block (Table 08-7) -/

/-- A little-endian number in a memory. -/
def Memory.num (m : Memory) (a n : Nat) : Nat := bytesToNat (m.readBytes a n)

/-- A byte range of memory, addressed from 0. -/
def Memory.slice (m : Memory) (base len : Nat) : Memory :=
  (m.filter (fun c => decide (base ≤ c.1) && decide (c.1 < base + len))).map (fun c => (c.1 - base, c.2))

/-- The area of the block that holds a value, its base and its bytes (Table 08-7). -/
def irisArea : IrisItem → Nat × Nat
  | .shade _ _ _ => (0x2000, 0x2000)
  | .tone _ _ => (0x4000, 0x2000)
  | .weight _ => (0x6000, 0x2000)
  | _ => (0, 0x400)

/-- The width of a value (Tables 08-6 and 08-7). -/
def irisBits : IrisItem → Nat
  | .enable _ => 1
  | .edgeRoute => 1
  | .black _ _ => 20
  | .defect => 20
  | .tone _ _ => 12
  | .border _ => 12
  | _ => 16

/-- A value of the block: the table gives its area, and Config.irisPlace its place there (log entry 17). -/
def irisVal (m : Memory) (i : IrisItem) : Nat :=
  let a := irisArea i
  let p := Config.irisPlace i % (8 * a.2)
  m.num (a.1 + p / 8) 4 / 2 ^ (p % 8) % 2 ^ irisBits i

/-- An output record: enable, fmt, chans, crop and size. -/
structure OutRec where
  enable : Bool
  fmt    : Bool
  rgb    : Bool
  x0     : Nat
  y0     : Nat
  w      : Nat
  h      : Nat
  ow     : Nat
  oh     : Nat
deriving DecidableEq, Repr

/-- Output record `o` of a block: 0 display, 1 coding, 2 to 5 vision. The manual gives the record of a vision
crop; the other two are read the same way (log entry 26). -/
def outRec (m : Memory) (o : Nat) : OutRec :=
  let b := 0x400 + 128 * o
  let b0 := m.num b 1
  ⟨bitOf b0 0, bitOf b0 1, bitOf b0 2, m.num (b + 8) 2, m.num (b + 10) 2, m.num (b + 12) 2, m.num (b + 14) 2,
   m.num (b + 16) 2, m.num (b + 18) 2⟩

/-- µ (0 to 2) and κ (3 to 5) of an output record. -/
def outF32 (m : Memory) (o i : Nat) : B32 := BitVec.ofNat 32 (m.num (0x400 + 128 * o + 20 + 4 * i) 4)

/-- The defect list: up to 1,024 entries, ended by 0xFFFF_FFFF (Table 08-7). -/
def defects (m : Memory) : List Nat :=
  ((upTo 1024).map (fun i => m.num (0x1000 + 4 * i) 4)).takeWhile (fun e => e != 0xFFFFFFFF)

/-! ## The checks of R283 -/

/-- Bytes of a block that are reserved, 0. -/
def zeroBytes (m : Memory) (base len : Nat) : Bool :=
  m.all (fun c => !(decide (base ≤ c.1) && decide (c.1 < base + len) && c.2 != 0))

/-- The record of output `o` against Table 08-8: its reserved bits, its crop inside the corrected image, its
finite µ and κ, and the size of an output that is enabled. -/
def outOk (m : Memory) (o : Nat) : Bool :=
  let r := outRec m o
  let b := 0x400 + 128 * o
  let wg := irisVal m .width
  let hg := irisVal m .height
  decide (m.num b 1 < 8) && zeroBytes m (b + 1) 7 && zeroBytes m (b + 44) 84 &&
  decide (r.x0 + r.w ≤ wg) && decide (r.y0 + r.h ≤ hg) &&
  (upTo 6).all (fun i => fpIsFin (outF32 m o i)) &&
  (!r.enable ||
    (decide (16 ≤ r.ow) && decide (16 ≤ r.oh) && decide (r.ow ≤ r.w) && decide (r.oh ≤ r.h) &&
     (if o = 0 then decide (r.ow ≤ 1920) && decide (r.oh ≤ 1080)
      else if o = 1 then decide (r.ow % 2 = 0) && decide (r.oh % 2 = 0) && decide (r.ow ≤ wg) && decide (r.oh ≤ hg)
      else decide (r.ow ≤ 4096) && decide (r.oh ≤ 4096) && decide (r.w ≤ 16 * r.ow) && decide (r.h ≤ 16 * r.oh))))

/-- R283, act 2, for a stream's input size. -/
def paramOk (w h : Nat) (m : Memory) : Bool :=
  (upTo 6).all (outOk m) && zeroBytes m 0x700 0x900 && zeroBytes m 0x19000 0x7000 &&
  decide (2 ≤ m.num 0x8000 2) && decide (m.num 0x8000 2 ≤ 129) &&
  decide (2 ≤ m.num 0x8002 2) && decide (m.num 0x8002 2 ≤ 129) &&
  (decide (irisVal m (.enable 8) = 1) || (decide (irisVal m .width = w) && decide (irisVal m .height = h)))

/-! ## A frame in Iris -/

/-- What the pipe works on: the stream's number, data type and size, the parameter block, and the lines of each
exposure, none for an exposure that is not used (R275). -/
structure IrisIn where
  stream : Nat
  dtype  : Nat
  width  : Nat
  height : Nat
  block  : Memory
  exps   : List (List (List (Option Nat)))
deriving DecidableEq, Repr

/-- A value of the frame's block. -/
def IrisIn.val (f : IrisIn) (i : IrisItem) : Nat := irisVal f.block i

/-- A stage is enabled. -/
def IrisIn.on (f : IrisIn) (stage : Nat) : Bool := f.val (.enable stage) == 1

/-- The received sample at a place of an exposure; `none` is black (R276). -/
def IrisIn.raw (f : IrisIn) (k x y : Nat) : Option Nat :=
  ((((f.exps[k]?).getD [])[y]?).getD [])[x]?.getD none

/-- The colour phase of a pixel in the mosaic. -/
def phaseOf (x y : Nat) : Nat := x % 2 + 2 * (y % 2)

/-- The colour of a pixel, 0 R, 1 G, 2 B: the sensor's order of the four phases is one of four (log entry 17). -/
def IrisIn.colour (f : IrisIn) (x y : Nat) : Nat :=
  let p := (x + Config.mosaic f.stream) % 2 + 2 * ((y + Config.mosaic f.stream / 2) % 2)
  if p = 0 then 0 else if p = 3 then 2 else 1

/-- An index of an image of `n` columns or rows: one outside stands for one inside that the manual does not
name (log entry 17). -/
def inside (stage n : Nat) (i : Int) : Nat :=
  if 0 ≤ i ∧ i < n then i.toNat else Config.imageEdge stage n i % n

/-- Stage 1: black level. A sample is taken at the 20 bits of the pipeline (log entry 17). -/
def IrisIn.levelled (f : IrisIn) (k x y : Nat) : Nat :=
  let black := f.val (.black k (phaseOf x y))
  let v := (f.raw k x y).elim black (fun v => min (v * 2 ^ Config.rawShift f.dtype) (2 ^ 20 - 1))
  if f.on 1 then v - black else v

/-- The four same-colour neighbours of a pixel. -/
def IrisIn.sameColour (f : IrisIn) (k x y : Nat) : List Nat :=
  let at_ (dx dy : Int) : Nat := f.levelled k (inside 2 f.width (x + dx)) (inside 2 f.height (y + dy))
  [at_ (-2) 0, at_ 2 0, at_ 0 (-2), at_ 0 2]

/-- The distance of two numbers. -/
def natDist (a b : Nat) : Nat := (a - b) + (b - a)

/-- Stage 2: defect correction, by the lower median of the four same-colour neighbours. -/
def IrisIn.repaired (f : IrisIn) (k x y : Nat) : Nat :=
  let v := f.levelled k x y
  let ns := f.sameColour k x y
  let bad := (defects f.block).contains (x + 65536 * y) || ns.all (fun n => decide (f.val .defect < natDist v n))
  if f.on 2 && bad then ((sortBy (fun a b => decide (a < b)) ns)[1]?).getD 0 else v

/-- Stage 3: lens shading, by a gain interpolated from a 33 × 25 grid spread over the image. -/
def IrisIn.shaded (f : IrisIn) (k x y : Nat) : Nat :=
  let v := f.repaired k x y
  let d := f.width - 1
  let e := f.height - 1
  let g := bilin (fun i j => f.val (.shade (phaseOf x y) i j)) (32 * x / d) (24 * y / e) (32 * x % d) d (24 * y % e) e
  if f.on 3 then min (rneDiv (v * g : Nat) (4096 * d * e)).toNat (2 ^ 20 - 1) else v

/-- Stage 4: HDR merge to 24 bits. The exposures present are scaled by their ratios; the form of the blend is not
stated (log entry 17). -/
def IrisIn.merged (f : IrisIn) (x y : Nat) : Nat :=
  let v (k : Nat) : Nat := f.shaded k x y
  if f.exps.length ≤ 1 then v 0 * 16
  else
    let used := (upTo f.exps.length).filter (fun k => !((f.exps[k]?).getD []).isEmpty)
    Config.irisBlend (f.val (.weight (v 0 / 1024))) (used.map (fun k => (k, v k * f.val (.ratio k)))) % 2 ^ 24

/-! ### Stage 5: colour reconstruction -/

/-- Places of a colour among those given that lie inside the image. -/
def IrisIn.ofColour (f : IrisIn) (c x y : Nat) (ds : List (Int × Int)) : List (Nat × Nat) :=
  ds.filterMap (fun d =>
    let i := (x : Int) + d.1
    let j := (y : Int) + d.2
    if 0 ≤ i ∧ i < f.width ∧ 0 ≤ j ∧ j < f.height ∧ f.colour i.toNat j.toNat = c then some (i.toNat, j.toNat) else none)

/-- The nearest places of a colour a pixel lacks. -/
def IrisIn.nearest (f : IrisIn) (c x y : Nat) : List (Nat × Nat) :=
  let cross := f.ofColour c x y [(-1, 0), (1, 0), (0, -1), (0, 1)]
  if cross.isEmpty then f.ofColour c x y [(-1, -1), (1, -1), (-1, 1), (1, 1)] else cross

/-- The mean of a list, by RNE. -/
def rneMean (l : List Int) : Int := rneDiv l.sum l.length

/-- Green by route EDGE: along the direction in which its two greens differ less; which one at equal
differences is not stated (log entry 17). -/
def IrisIn.edgeGreen (f : IrisIn) (x y : Nat) : Int :=
  if f.colour x y = 1 then f.merged x y
  else
    let at_ (dx dy : Int) : Nat := f.merged (inside 5 f.width (x + dx)) (inside 5 f.height (y + dy))
    let l := at_ (-1) 0
    let r := at_ 1 0
    let u := at_ 0 (-1)
    let d := at_ 0 1
    let across := decide (natDist l r < natDist u d) || (natDist l r == natDist u d && Config.irisTie (natDist l r))
    if across then rneMean [l, r] else rneMean [u, d]

/-- Channel `c` after stage 5, at 24 bits. In EDGE, red and blue are the green plus the mean difference to it at
the nearest places. -/
def IrisIn.colours (f : IrisIn) (c x y : Nat) : Nat :=
  if f.colour x y = c then f.merged x y
  else
    let v : Int :=
      if f.val .edgeRoute = 1 then
        if c = 1 then f.edgeGreen x y
        else f.edgeGreen x y + rneMean ((f.nearest c x y).map (fun p => (f.merged p.1 p.2 : Int) - f.edgeGreen p.1 p.2))
      else rneMean ((f.nearest c x y).map (fun p => (f.merged p.1 p.2 : Int)))
    (clampInt 0 (2 ^ 24 - 1) v).toNat

/-! ### Stages 6 to 8 -/

/-- Whether the frame is YUV422, which enters at stage 6. -/
def IrisIn.yuv (f : IrisIn) : Bool := f.dtype == 0x1E

/-- Component `c` of a YUV422 pixel: each pair of pixels shares Cb and Cr (log entry 28). -/
def IrisIn.yuvIn (f : IrisIn) (c x y : Nat) : Nat :=
  let at_ (i : Nat) : Nat := (f.raw 0 (4 * (x / 2) + i) y).getD 0
  match c with
  | 0 => at_ (1 + 2 * (x % 2))
  | 1 => at_ 0
  | _ => at_ 2

/-- Row `c` of the matrix, S4.12, on three values: the exact value times 2^12. -/
def IrisIn.matrixRow (f : IrisIn) (c : Nat) (v : Nat → Int) : Int :=
  ((upTo 3).map (fun j => sext (f.val (.matrix c j)) 16 * v j)).sum

/-- A tone curve of 1,025 entries on a 24-bit value, interpolated, by RNE to 12 bits. -/
def IrisIn.toned (f : IrisIn) (c v : Nat) : Nat :=
  let i := v / 2 ^ 14
  let a := v % 2 ^ 14
  (rneDiv ((2 ^ 14 - a) * f.val (.tone c i) + a * f.val (.tone c (i + 1)) : Nat) (2 ^ 14)).toNat

/-- Channel `c` after stage 6, at 12 bits: gains then matrix then tone; for YUV422 the matrix first, which makes
the RGB that the gains apply to. One RNE before the curve (log entry 118). -/
def IrisIn.graded (f : IrisIn) (c x y : Nat) : Nat :=
  let v : Int :=
    if f.yuv then f.matrixRow c (fun j => Config.irisYuvIn j (f.yuvIn j x y)) * f.val (.gain c)
    else f.matrixRow c (fun j => (f.colours j x y * f.val (.gain j) : Nat))
  f.toned c (clampInt 0 (2 ^ 24 - 1) (rneDiv v (2 ^ 24))).toNat

/-- Stage 7: the 5 × 5 filter. Its weights' form is not stated (log entry 17): a free value of the block and the
25 samples. -/
def IrisIn.smooth (f : IrisIn) (c x y : Nat) : Nat :=
  let window := (upTo 25).map (fun i =>
    f.graded c (inside 7 f.width ((x : Int) + i % 5 - 2)) (inside 7 f.height ((y : Int) + i / 5 - 2)))
  if f.on 7 then Config.irisSmooth f.block c window % 4096 else f.graded c x y

/-- A mesh node's x (0) or y (1), UQ12.4 (R285). -/
def IrisIn.node (f : IrisIn) (part i j : Nat) : Nat :=
  f.block.num (0x8040 + 4 * (j * f.block.num 0x8000 2 + i) + 2 * part) 2

/-- The source position, in sixteenths, of a pixel of the corrected image (R285): the nodes are spread over it
from its first pixel to its last. -/
def IrisIn.source (f : IrisIn) (part x y : Nat) : Nat :=
  let d := f.val .width - 1
  let e := f.val .height - 1
  let a := x * (f.block.num 0x8000 2 - 1)
  let b := y * (f.block.num 0x8002 2 - 1)
  (rneDiv (bilin (f.node part) (a / d) (b / e) (a % d) d (b % e) e : Nat) (d * e)).toNat

/-- A source position lies outside the image. -/
def IrisIn.off (f : IrisIn) (x y : Nat) : Bool :=
  decide (16 * (f.width - 1) < f.source 0 x y) || decide (16 * (f.height - 1) < f.source 1 x y)

/-- Stage 8: a pixel of the corrected image (R285). -/
def IrisIn.corrected (f : IrisIn) (c x y : Nat) : Nat :=
  if !f.on 8 then f.smooth c x y
  else if f.off x y then f.val (.border c)
  else
    let px := f.source 0 x y
    let py := f.source 1 x y
    (rneDiv (bilin (f.smooth c) (px / 16) (py / 16) (px % 16) 16 (py % 16) 16 : Nat) 256).toNat

/-- GEOM_OUT: some pixel of the corrected image has its source position outside (R285). -/
def IrisIn.geomOut (f : IrisIn) : Bool :=
  f.on 8 && (upTo (f.val .width)).any (fun x => (upTo (f.val .height)).any (fun y => f.off x y))

/-! ### Stage 9: outputs (R286 to R288) -/

/-- Channel `c` of an output's pixel: its crop scaled to ow × oh. -/
def IrisIn.cropped (f : IrisIn) (r : OutRec) (ow oh c x y : Nat) : Nat :=
  scaled (f.corrected c) r.x0 r.y0 r.w r.h ow oh x y

/-- Component `c` of an output's pixel in YUV. -/
def IrisIn.yuvPx (f : IrisIn) (r : OutRec) (bits ow oh c x y : Nat) : Nat :=
  yuvOf bits c (f.cropped r ow oh 0 x y) (f.cropped r ow oh 1 x y) (f.cropped r ow oh 2 x y)

/-- Element of a vision crop: channel, column, row. -/
def IrisIn.visionPx (f : IrisIn) (o c x y : Nat) : Nat × Bool :=
  let r := outRec f.block o
  visionElem r.fmt (outF32 f.block o c) (outF32 f.block o (3 + c))
    (if r.rgb then f.cropped r r.ow r.oh c x y else f.yuvPx r 12 r.ow r.oh 0 x y)

/-- NV12 or P010 of an output: the chroma planes are the crop scaled to half size (log entry 119). P010 holds its
10 bits in bits [15:6]. -/
def IrisIn.semiPx (f : IrisIn) (r : OutRec) (p010 : Bool) : Nat → Nat → Nat :=
  let bits := if p010 then 10 else 8
  let up := if p010 then 64 else 1
  semiAt r.oh (fun x y => f.yuvPx r bits r.ow r.oh 0 x y * up)
    (fun c x y => f.yuvPx r bits (ceilDiv r.ow 2) (ceilDiv r.oh 2) c x y * up)

/-- RGB888 of an output: 12 bits rounded to 8 by RNE. -/
def IrisIn.rgbPx (f : IrisIn) (r : OutRec) (y x : Nat) : Nat :=
  min 255 (rneDiv (f.cropped r r.ow r.oh (x % 3) (x / 3) y : Nat) 16).toNat

/-- Image bytes of an output in its slot, after the descriptor (R288, R326). -/
def imageBytes (m : Memory) (o : Nat) : Nat :=
  let r := outRec m o
  if 2 ≤ o then (if r.rgb then 3 else 1) * (r.oh * rowStride r.ow (if r.fmt then 2 else 1))
  else if o = 0 ∧ r.fmt then r.oh * rowStride (3 * r.ow) 1
  else rowStride r.ow (if o = 1 ∧ r.fmt then 2 else 1) * (r.oh + ceilDiv r.oh 2)

/-- Byte `i` of the image of output `o`. -/
def IrisIn.imageByte (f : IrisIn) (o i : Nat) : Byte :=
  let r := outRec f.block o
  if 2 ≤ o then
    let e := if r.fmt then 2 else 1
    rowByte (rowStride r.ow e) e r.ow (planarAt r.oh (fun c x y => (f.visionPx o c x y).1)) i
  else if o = 0 ∧ r.fmt then rowByte (rowStride (3 * r.ow) 1) 1 (3 * r.ow) (f.rgbPx r) i
  else
    let p010 := decide (o = 1) && r.fmt
    let e := if p010 then 2 else 1
    rowByte (rowStride r.ow e) e (2 * ceilDiv r.ow 2) (f.semiPx r p010) i

/-- The image of an output. -/
def IrisIn.image (f : IrisIn) (o : Nat) : List Byte := (upTo (imageBytes f.block o)).map (f.imageByte o)

/-- Clamps and saturations of a vision crop (R287). -/
def IrisIn.clamps (f : IrisIn) (o : Nat) : Nat :=
  let r := outRec f.block o
  ((upTo (if r.rgb then 3 else 1)).map (fun c => ((upTo r.oh).map (fun y =>
    ((upTo r.ow).filter (fun x => (f.visionPx o c x y).2)).length)).sum)).sum

/-! ### Statistics (Table 08-10) -/

/-- Channel `c`, 0 R to 2 B, of a pixel for the statistics, where the pixel has it: a mosaic pixel has its own
colour, at its stage-4 value. For YUV422, which has no stage 4, all three, free (log entry 17). -/
def IrisIn.statPx (f : IrisIn) (c x y : Nat) : Option Nat :=
  if f.yuv then some (Config.irisYuvStat c (f.yuvIn 0 x y) (f.yuvIn 1 x y) (f.yuvIn 2 x y) % 2 ^ 24)
  else if f.colour x y = c then some (f.merged x y) else none

/-- Y of a pixel for the statistics: its form is not stated (log entry 17). -/
def IrisIn.statY (f : IrisIn) (x y : Nat) : Nat :=
  let v (c : Nat) : Nat := if f.yuv then (f.statPx c x y).getD 0 else f.colours c x y
  Config.irisLuma (v 0) (v 1) (v 2) % 2 ^ 24

/-- The pixels of a part of the image. -/
def pixels (x0 x1 y0 y1 : Nat) : List (Nat × Nat) :=
  (upTo (y1 - y0)).flatMap (fun y => (upTo (x1 - x0)).map (fun x => (x0 + x, y0 + y)))

/-- The pixels of a zone. -/
def IrisIn.zone (f : IrisIn) (z : Nat) : List (Nat × Nat) :=
  let zx := z % 64
  let zy := z / 64
  pixels (zx * f.width / 64) ((zx + 1) * f.width / 64) (zy * f.height / 48) ((zy + 1) * f.height / 48)

/-- A histogram entry. -/
def IrisIn.hist (f : IrisIn) (ch bin : Nat) : Nat :=
  ((pixels 0 f.width 0 f.height).filter (fun p =>
    (if ch = 3 then some (f.statY p.1 p.2) else f.statPx ch p.1 p.2).elim false (fun v => v / 65536 == bin))).length

/-- The mean of a channel over a zone. -/
def IrisIn.zoneMean (f : IrisIn) (z c : Nat) : Nat :=
  let vs := (f.zone z).filterMap (fun p => f.statPx c p.1 p.2)
  vs.sum / vs.length

/-- Pixels of a zone with a channel at its largest value. -/
def IrisIn.zoneFull (f : IrisIn) (z : Nat) : Nat :=
  ((f.zone z).filter (fun p => (upTo 3).any (fun c => f.statPx c p.1 p.2 == some (2 ^ 24 - 1)))).length

/-- The focus sum of a zone. -/
def IrisIn.focus (f : IrisIn) (z : Nat) : Nat :=
  min (2 ^ 32 - 1) (((f.zone z).map (fun p =>
    let at_ (d : Int) : Nat := f.statY (inside 10 f.width (p.1 + d)) p.2
    natDist (at_ (-1) + at_ 1) (2 * at_ 0))).sum)

/-- A zone's 16 bytes. -/
def IrisIn.zoneBytes (f : IrisIn) (z : Nat) : List Byte :=
  (upTo 3).flatMap (fun c => natToBytes (f.zoneMean z c) 4) ++ natToBytes (f.zoneFull z) 2 ++
  natToBytes (f.zone z).length 2

/-- Bytes 64 to 65,599 of a statistics slot. -/
def IrisIn.stats (f : IrisIn) : List Byte :=
  (upTo 4).flatMap (fun ch => (upTo 256).flatMap (fun bin => natToBytes (f.hist ch bin) 4)) ++
  (upTo 3072).flatMap f.zoneBytes ++ (upTo 3072).flatMap (fun z => natToBytes (f.focus z) 4)

end Sys2Proof.Machine
end

