-- ==== Sys2Proof/Machine/Camera.lean ====
section
/-!
DEFINITION. Camera intake and Iris (chapter 08): frames and their repair, parameter banks, output slots,
alignment groups, samples for SOURCE ports, the time base and FSYNC.
-/
namespace Sys2Proof.Machine

/-! ## Streams -/

def State.streamRec (s : State) (i : Nat) : Option StreamRec := s.boot.scroll.streams.find? (fun r => r.stream == i)
def State.stream (s : State) (i : Nat) : StreamRt := SMap.get StreamRt.idle s.cam.streams i
def State.setStream (s : State) (i : Nat) (v : StreamRt) : State :=
  { s with cam := { s.cam with streams := SMap.set StreamRt.idle s.cam.streams i v } }
def State.group (s : State) (g : Nat) : GroupRt := SMap.get GroupRt.idle s.cam.groups g
def State.setGroup (s : State) (g : Nat) (v : GroupRt) : State :=
  { s with cam := { s.cam with groups := SMap.set GroupRt.idle s.cam.groups g v } }
def State.alignRec (s : State) (g : Nat) : Option AlignRec := s.boot.scroll.aligns.find? (fun r => r.group == g)
def State.fsyncRt (s : State) (k : Nat) : FsyncRt := SMap.get FsyncRt.idle s.cam.fsync k
def State.setFsync (s : State) (k : Nat) (v : FsyncRt) : State :=
  { s with cam := { s.cam with fsync := SMap.set FsyncRt.idle s.cam.fsync k v } }

/-- The stream and exposure that bind a virtual channel of a port (R271). -/
def State.findStream (s : State) (port vc : Nat) : Option (StreamRec × Nat) :=
  s.boot.scroll.streams.findSome? (fun r =>
    if r.port = port then (r.exps.findIdx? (fun e => e == vc)).map (fun k => (r, k)) else none)

/-- The Iris pipe a stream is bound to (IRS_PIPE_STAT). -/
def State.pipeOfStream (s : State) (i : Nat) : Option Nat :=
  (upTo 3).find? (fun p => s.bit (kIrs (0x20 * p)) (8 + i))

/-- An Iris pipe as a requester (Table 11-2). -/
def rqIris (p : Nat) : Requester := ⟨BitVec.ofNat 16 (0x3000 + p), false, false⟩

/-- Ticks of TIME, 6.4 ns each, that cover `n` ns. -/
def nsTicks (n : Nat) : Nat := ceilDiv (n * 5) 32

def fSHORT_LINE : Nat := 0
def fLONG_LINE : Nat := 1
def fSHORT_FRAME : Nat := 2
def fLONG_FRAME : Nat := 3
def fFE_MISSING : Nat := 4
def fCRC_LINE : Nat := 5
def fPKT_LOST : Nat := 6
def fHDR_CORR : Nat := 7
def fFN_SEQ : Nat := 8
def fEXP_MISSING : Nat := 9
def fPLACEHOLDER : Nat := 10
def fALIGN_TIMEOUT : Nat := 11
def fTIME_STEP : Nat := 12
def fGEOM_OUT : Nat := 13
def fPARAM_ERR : Nat := 14

/-- A flag of Table 08-5 set. -/
def setFlag (f : BitVec 16) (i : Nat) (b : Bool) : BitVec 16 := if b then f ||| BitVec.ofNat 16 (2 ^ i) else f

/-! ## Output slots -/

/-- Bytes of one slot of an output ring; a statistics slot has 65,600. -/
def slotSize (m : Memory) (o : Nat) : Nat := if o = 6 then 65600 else 64 + imageBytes m o

/-- The address of a ring slot. -/
def ringAddr (r : StreamRec) (m : Memory) (o slot : Nat) : Nat :=
  ((r.rings[o]?).getD (0, 0)).1 + slot * slotSize m o

/-! ## Slots of output rings (R289) -/

/-- A frame is still consumed: a SOURCE holds it, an epoch that is neither committed nor ended carries it,
or it is still being processed or encoded. -/
def State.frameBusy (s : State) (st : Nat) (n : B32) (coding : Bool) : Bool :=
  s.commit.epochs.any (fun e => e.2.sample.frames.contains (st, n)) ||
  s.commit.srcq.any (fun q => q.2.any (fun t => t.sample.frames.contains (st, n))) ||
  s.cam.frames.any (fun f => f.stream == st && f.devFcnt == n) ||
  (coding && (s.vid.coding.any (fun j => j.devFcnt == n && decide (s.boot.scroll.encs.any (fun e =>
      e.session == j.session && e.stream == st))) ||
    s.vid.encs.any (fun e => match e.2 with
      | some j => j.devFcnt == n && s.boot.scroll.encs.any (fun e => e.session == j.session && e.stream == st)
      | none => false)))

/-- The slots of a stream that are not free. -/
def State.busySlots (s : State) (st : Nat) : List (Nat × Nat × B32) :=
  (s.stream st).slots.filter (fun x => s.frameBusy st x.2.2 (x.1 == 1))

/-- The next free slot of an output ring, in rotation. -/
def State.nextSlot (s : State) (r : StreamRec) (o : Nat) : Option Nat :=
  let n := ((r.rings[o]?).getD (0, 0)).2
  let from_ := SMap.get zeroNat (s.stream r.stream).next o
  ((upTo n).map (fun i => (from_ + i) % n)).find? (fun k =>
    !((s.busySlots r.stream).any (fun x => x.1 == o && x.2.1 == k)))

/-- The outputs a frame is to produce: those its block enables and the statistics, where a ring exists. -/
def wanted (r : StreamRec) (m : Memory) : List Nat :=
  (upTo 7).filter (fun o => (o == 6 || (outRec m o).enable) && decide (0 < ((r.rings[o]?).getD (0, 0)).2))

/-- Slots taken at Frame Start: (output, slot) pairs, and whether some output found none. -/
def State.takeSlots (s : State) (r : StreamRec) (m : Memory) : List (Nat × Nat) × Bool :=
  (wanted r m).foldr (fun (o : Nat) (acc : List (Nat × Nat) × Bool) => match s.nextSlot r o with
    | some k => ((o, k) :: acc.1, acc.2)
    | none => (acc.1, true)) ([], false)

/-! ## Samples for SOURCE ports -/

/-- The SOURCE ports of bound pipelines that bind a source (Table 14-12): pipeline, port and drop mask. A
twin device takes its items from its primary (R247). -/
def State.sourcesOf (s : State) (kind : SrcKind) (id sub : Nat) : List (Nat × Nat × BitVec 16) :=
  s.pipes.flatMap (fun e =>
    match e.2.bind with
    | none => []
    | some b =>
      if !e.2.bound ∨ (e.2.paired ∧ b.twinDevK ∧ !b.primary) then []
      else (upTo 8).filterMap (fun p => match b.sources[p]? with
        | some x =>
          if x.kind = kind ∧ x.id = id ∧ (kind = .group ∨ x.sub = sub) ∧
              e.2.stages.any (fun st => st.kind == .source && st.unit == p) then some (e.1, p, x.mask) else none
        | none => none))

/-- A sample offered to the ports that bind it: refused by the drop mask (R281), completed at once by a
stopped pipeline (R519), else a token at the SOURCE (R290, R326). -/
def State.offer (s : State) (kind : SrcKind) (id sub : Nat) (flags : BitVec 16) (sm : Sample) (head : List Byte)
    (segs : List (Nat × Nat)) : State :=
  (s.sourcesOf kind id sub).foldl (fun s x =>
    if flags &&& x.2.2 ≠ 0 then s.dropFrames sm.frames 3
    else if (s.pipe x.1).stopped then s.completeStopped x.1 [] sm
    else s.pushSource x.1 x.2.1 ⟨[], sm, head, segs, 0, none⟩) s

/-! ## The frame descriptor (Table 08-4) -/

def frameDesc (r : StreamRec) (f : Frame) (flags : BitVec 16) (tRel : B64) : List Byte :=
  natToBytes r.port 1 ++ natToBytes ((r.exps[0]?).getD 0) 1 ++ natToBytes r.dtype 1 ++ natToBytes r.stream 1 ++
  natToBytes f.csiFn 2 ++ natToBytes flags.toNat 2 ++ natToBytes f.devFcnt.toNat 4 ++ natToBytes f.linesRx 4 ++
  natToBytes f.tFs.toNat 8 ++ natToBytes f.tFe.toNat 8 ++ natToBytes f.shortLines 2 ++ natToBytes f.crcLines 2 ++
  natToBytes f.pipe 1 ++ natToBytes (r.group.getD 0xFF) 1 ++ natToBytes 0 2 ++
  natToBytes (f.group.elim 0 (fun g => g.2.toNat)) 4 ++ natToBytes 0 4 ++ natToBytes tRel.toNat 8 ++ natToBytes 0 8

/-- The placeholder descriptor of an absent member (R297): no frame, flagged PLACEHOLDER. -/
def placeholder (r : StreamRec) (g : Nat) (inst : B32) (tRel : B64) : List Byte :=
  frameDesc r ⟨r.stream, 0, 0, 0, 0, 0, 0, 0, 0, 0, [], [], [], [], [], some (g, inst), none, []⟩
    (BitVec.ofNat 16 (2 ^ fPLACEHOLDER)) tRel

/-- The sample word of a stream's frame (R28, Table 10-5). -/
def streamWord (r : StreamRec) (f : Frame) : B64 :=
  mkParam [(0, r.port), (4, (r.exps[0]?).getD 0), (8, f.csiFn), (24, f.devFcnt.toNat)]

def groupWord (g : Nat) (inst : B32) : B64 := mkParam [(0, g), (8, inst.toNat)]

def streamSample (r : StreamRec) (f : Frame) : Sample :=
  ⟨0, streamWord r f, [(r.stream, f.devFcnt)], none, 0, 0, BitVec.ofNat 32 r.stream, f.flags, f.tFs⟩

/-! ## Frames held -/

def State.findFrame (s : State) (st : Nat) (n : B32) : Option Frame :=
  s.cam.frames.find? (fun f => f.stream == st && f.devFcnt == n)

def State.putFrame (s : State) (f : Frame) : State :=
  { s with cam := { s.cam with frames := s.cam.frames.map (fun x =>
      if x.stream = f.stream ∧ x.devFcnt = f.devFcnt then f else x) } }

/-- A group instance still holds a frame: it is open, or released and not yet sent. -/
def State.instHolds (s : State) (g : Nat) (inst : B32) : Bool :=
  let gr := s.group g
  (gr.open_ && gr.inst == inst) || gr.released.any (fun i => i.inst == inst)

/-- Frames with nothing left to write or send leave the pipes. -/
def State.purgeFrames (s : State) : State :=
  { s with cam := { s.cam with frames := s.cam.frames.filter (fun f =>
      !f.todo.isEmpty || !f.due.isEmpty || s.cam.arrived.contains (f.stream, f.devFcnt) || (match f.group with
        | some (g, i) => s.instHolds g i
        | none => false)) } }

/-- An output of a frame is given up: it leaves the lists and its slot is freed. -/
def Frame.dropOut (f : Frame) (o : Nat) : Frame :=
  { f with
    todo := f.todo.filter (· != o), vis := f.vis.filter (· != o), due := f.due.filter (· != o)
    outs := f.outs.filter (fun x => x.1 != o) }

/-- The slot of an output. -/
def Frame.slot (f : Frame) (o : Nat) : Nat := ((f.outs.find? (fun x => x.1 == o)).map (·.2)).getD 0

/-- The frame as its pipe works on it. -/
def irisIn (r : StreamRec) (f : Frame) : IrisIn := ⟨r.stream, r.dtype, r.width, r.height, f.params, f.exps⟩

/-! ## Sending a group's sample -/

/-- The frame counts with a flag (CAM_STRM_FLAGGED) when it gains its first. -/
def State.countFlagged (s : State) (st : Nat) (old new : BitVec 16) : State :=
  if old = 0 ∧ new ≠ 0 then s.addWrap (kCam (0x1004 + 0x40 * st)) 1 else s

/-- Members of a group in stream order. -/
def AlignRec.streams (a : AlignRec) : List Nat := (upTo 24).filter (fun i => a.members.getLsbD i)

/-- A present member takes part with its vision outputs; one without any enters as a placeholder (R297). -/
def State.memberFrame (s : State) (gi : GroupInst) (st : Nat) : Option Frame :=
  match gi.present.find? (fun x => x.1 == st) with
  | some (_, n) => match s.findFrame st n with
    | some f => if f.vis.isEmpty then none else some f
    | none => none
  | none => none

/-- Every present member has all its vision outputs written, with their descriptors. -/
def State.instReady (s : State) (gi : GroupInst) : Bool :=
  gi.present.all (fun x => match s.findFrame x.1 x.2 with
    | some f => f.due.isEmpty && f.todo.all (fun o => !(decide (2 ≤ o) && decide (o ≤ 5)))
    | none => true)

/-- The sample of a released instance (R299): every member's descriptor in stream order, then each member's
vision slots. -/
def State.sendInst (s : State) (g : Nat) (gi : GroupInst) : State :=
  match s.alignRec g with
  | none => s
  | some a =>
    let ms := a.streams.filterMap (fun st => (s.streamRec st).map (fun r => (r, s.memberFrame gi st)))
    let head := ms.flatMap (fun m => match m.2 with
      | some f => frameDesc m.1 f f.flags gi.at_
      | none => placeholder m.1 g gi.inst gi.at_)
    let segs := ms.flatMap (fun m => match m.2 with
      | some f => f.vis.map (fun o => (ringAddr m.1 f.params o (f.slot o), slotSize f.params o))
      | none => [])
    let flags := ms.foldl (fun a m => a ||| (match m.2 with
      | some f => f.flags
      | none => BitVec.ofNat 16 (2 ^ fPLACEHOLDER))) (0 : BitVec 16)
    let frames := ms.map (fun m => (m.1.stream, match m.2 with | some f => f.devFcnt | none => 0))
    let t := ((ms.filterMap (·.2)).head?).elim 0 (·.tFs)
    let sm : Sample := ⟨1, groupWord g gi.inst, frames, none, 0, 0, BitVec.ofNat 32 g, flags, t⟩
    let s := s.offer .group g 0 flags sm head segs
    let gr := s.group g
    s.setGroup g { gr with released := gr.released.filter (fun i => i.inst != gi.inst) }

/-- Released instances whose members are complete are sent. -/
def State.sendReady (s : State) (g : Nat) : State :=
  ((s.group g).released.foldl (fun s gi => if s.instReady gi then s.sendInst g gi else s) s).purgeFrames

/-- Bytes written by an Iris pipe. -/
def State.irisWrite (s : State) (pipe addr : Nat) (data : List Byte) : State × Nat :=
  let r := s.memAccess ⟨rqIris pipe, true, addr, 0, data, false⟩ none
  (r.1, r.2.1)

/-! ## Display and coding outputs -/

/-- A coding slot waits for each encode session of its stream (R327); without a session it is free at once. P010 is coded
at 10 bits and NV12 at 8. -/
def State.queueCoding (s : State) (f : Frame) (slot : Nat) : State :=
  let o := outRec f.params 1
  let jobs : List EncJob := (s.boot.scroll.encs.filter (fun e => e.stream == f.stream)).map (fun e =>
    ⟨e.session, f.devFcnt, f.csiFn, f.flags, f.tFs, false, o.ow * o.oh, slot + 64, imageBytes f.params 1,
      if o.fmt then 10 else 8⟩)
  { s with vid := { s.vid with coding := s.vid.coding ++ jobs } }

/-- The display (0) or coding (1) output of a frame, which has no command of its own, is written (log entry 27); a
refused write gives the output up and counts in cause 4. -/
def State.writePlain (s : State) (r : StreamRec) (f : Frame) (tRel : B64) (o : Nat) : State :=
  let a := ringAddr r f.params o (f.slot o)
  let w := s.irisWrite f.pipe a (frameDesc r f f.flags tRel ++ (irisIn r f).image o)
  if w.2 ≠ 0 then (w.1.dropFrames [(f.stream, f.devFcnt)] 4).putFrame (f.dropOut o)
  else
    let s := w.1.putFrame { f with todo := f.todo.filter (· != o) }
    if o = 1 then s.queueCoding f a else s

/-- The frame's t_release is known: its group has released, or with no group its vision outputs are complete
(Table 08-4). -/
def Frame.settled (f : Frame) : Bool :=
  if f.group.isSome then f.release.isSome else f.todo.all (fun o => !(decide (2 ≤ o) && decide (o ≤ 5)))

/-- A written vision slot gets its descriptor with the release time, and goes to the pipelines that bind the
crop (R280, R290). -/
def State.sendVision (s : State) (r : StreamRec) (f : Frame) (o : Nat) (tRel : B64) : State :=
  let a := ringAddr r f.params o (f.slot o)
  let w := s.irisWrite f.pipe a (frameDesc r f f.flags tRel)
  if w.2 ≠ 0 then w.1.dropFrames [(f.stream, f.devFcnt)] 4
  else w.1.offer .iris r.stream (o - 2) f.flags (streamSample r f) [] [(a, slotSize f.params o)]

/-- An output of a frame lies in a page that is being copied: what is written there waits (R363). -/
def State.outBusy (s : State) (r : StreamRec) (f : Frame) (o : Nat) : Bool :=
  s.pageBusy (ringAddr r f.params o (f.slot o)) (slotSize f.params o)

/-- A written vision slot of a released frame is sent, unless its page is being copied. -/
def State.sendDue (s : State) (st : Nat) (n : B32) (o : Nat) : State :=
  match s.findFrame st n, s.streamRec st with
  | some f, some r =>
    if f.due.contains o && !s.outBusy r f o then
      let f := { f with due := f.due.filter (· != o) }
      (s.putFrame f).sendVision r f o (f.release.getD s.timeNs)
    else s
  | _, _ => s

/-- The display (0) or coding (1) output of a frame is written once its descriptor is known, unless its page is being
copied. -/
def State.settleOut (s : State) (st : Nat) (n : B32) (o : Nat) : State :=
  match s.findFrame st n, s.streamRec st with
  | some f, some r =>
    if f.settled && f.todo.contains o && !s.outBusy r f o then
      let t := f.release.getD s.timeNs
      s.writePlain r { f with release := some t } t o
    else s
  | _, _ => s

/-- What a frame owes without a command of its own: the descriptors of its vision slots, then its display and its coding
output. -/
def State.settleFrame (s : State) (st : Nat) (n : B32) : State :=
  [0, 1].foldl (fun (s : State) o => s.settleOut st n o) ([2, 3, 4, 5].foldl (fun (s : State) o => s.sendDue st n o) s)

/-- Every such output that can be written is; frames with nothing left leave. -/
def State.settlePlain (s : State) : State :=
  (s.cam.frames.foldl (fun s f => s.settleFrame f.stream f.devFcnt) s).purgeFrames

/-- As `settlePlain`, and the instances that this completes are sent. -/
def State.settleAll (s : State) : State :=
  (upTo 8).foldl (fun (s : State) g => if (s.group g).released.isEmpty then s else s.sendReady g) s.settlePlain

/-! ## Releasing an instance -/

/-- An instance releases at TIME_NS `at_` (R296 to R299): counted, its members flagged when it is incomplete, the crops
already written due, and the hold-off of its absent members begun. -/
def State.releaseInst (s : State) (g : Nat) (complete : Bool) (at_ : B64) : State :=
  match s.alignRec g with
  | none => s
  | some a =>
    let gr := s.group g
    let s := s.addWrap (kCam (0x4004 + 0x20 * g)) 1
    let s := if complete then s else s.addWrap (kCam (0x4008 + 0x20 * g)) 1
    let hold := if a.holdoff = 0xFFFFFFFF then a.window else a.holdoff
    let absent := a.streams.filter (fun st => !(gr.present.any (fun x => x.1 == st)))
    let gi : GroupInst := ⟨gr.inst, gr.present, complete, at_⟩
    let s := s.setGroup g { gr with
      open_ := false, present := []
      holdEnd := if complete then gr.holdEnd else some (gr.deadline + nsTicks hold)
      absent := if complete then gr.absent else absent
      released := gr.released ++ [gi] }
    let s := gr.present.foldl (fun s x =>
      match s.findFrame x.1 x.2 with
      | some f =>
        let flags := setFlag f.flags fALIGN_TIMEOUT (!complete)
        let s := s.countFlagged x.1 f.flags flags
        s.putFrame { f with flags := flags, release := some at_, due := f.vis }
      | none => s) s
    s.settleAll

/-- DROPPED_LATE (R298): a frame of a placeholder member gives up its vision outputs. -/
def State.dropLate (s : State) (g : Nat) (f : Frame) : State :=
  let s := (s.dropFrames [(f.stream, f.devFcnt)] 2).addSat (kCam (0x400C + 0x20 * g)) 1
  (s.putFrame { ([2, 3, 4, 5].foldl (fun f o => f.dropOut o) f) with group := none }).settlePlain

/-- A member frame that arrives at elapsed count `now` joins the open instance, or opens one; with every member present
the instance releases (R296). -/
def State.joinInst (s : State) (a : AlignRec) (g now : Nat) (f : Frame) : State :=
  let gr := s.group g
  let gr := if gr.open_ then { gr with present := gr.present ++ [(f.stream, f.devFcnt)] }
    else { gr with open_ := true, present := [(f.stream, f.devFcnt)], counter := gr.counter + 1,
                   inst := gr.counter + 1, deadline := now + nsTicks a.window }
  let s := (s.setGroup g gr).putFrame { f with group := some (g, gr.inst) }
  if a.streams.all (fun st => gr.present.any (fun x => x.1 == st)) then s.releaseInst g true f.tFe else s

/-- A frame of the stream is late in its group: it was absent from an instance whose hold-off lasts (R298). -/
def GroupRt.isLate (gr : GroupRt) (now st : Nat) : Bool := gr.holdEnd.any (fun t => decide (now < t)) && gr.absent.contains st

/-- R296: a member frame arrives at elapsed count `now`. -/
def State.alignArrive (s : State) (now : Nat) (f : Frame) : State :=
  match f.group with
  | none => s
  | some (g, _) =>
    match s.alignRec g with
    | none => s
    | some a =>
      let gr := s.group g
      if gr.isLate now f.stream then s.dropLate g f
      else if gr.open_ ∧ gr.present.any (fun x => x.1 == f.stream) then (s.releaseInst g false f.tFe).joinInst a g now f
      else s.joinInst a g now f

/-- The member frames of the TIME cycle whose elapsed count was `now` arrive, in stream order (R296). DESIGN CHOICE (log
entry 123): what else a command of the cycle does to their groups, a deadline among it, comes before. -/
def State.settleArrivals (s : State) (now : Nat) : State :=
  let xs := sortBy (fun a b => decide (a.1 < b.1)) s.cam.arrived
  xs.foldl (fun (s : State) x => match s.findFrame x.1 x.2 with
    | some f => s.alignArrive now f
    | none => s) { s with cam := { s.cam with arrived := [] } }

/-! ## Closing a frame -/

/-- Pixels and bytes of a pixel group, and samples per pixel, of a data type (R276; the packings are CSI-2's:
log entry 28). -/
def dtypeGroup (dtype : Nat) : Option (Nat × Nat × Nat) :=
  match dtype with
  | 0x2A => some (1, 1, 1)
  | 0x2B => some (4, 5, 1)
  | 0x2C => some (2, 3, 1)
  | 0x2D => some (4, 7, 1)
  | 0x2E => some (1, 2, 1)
  | 0x2F => some (2, 5, 1)
  | 0x1E => some (2, 4, 2)
  | _ => none

/-- The lines of an exposure padded to the height (R276): the last line received under LAST, black under
BLACK. An exposure without a line has none to repeat and is black (log entry 120). -/
def padLines (r : StreamRec) (ls : List (List (Option Nat))) : List (List (Option Nat)) :=
  let black := List.replicate (r.width * (dtypeGroup r.dtype).elim 1 (·.2.2)) none
  ls ++ List.replicate (r.height - ls.length) (if r.black then black else (ls.getLast?).getD black)

/-- An exposure is used: e0, and one that has ended (R275). -/
def OpenFrame.uses (o : OpenFrame) (k : Nat) : Bool := k == 0 || ((o.exps[k]?).elim false (·.ended))

/-- The exposures that a frame uses. -/
def OpenFrame.used (o : OpenFrame) : List Nat := (upTo o.exps.length).filter o.uses

/-- A stream's open frame closes (R274 to R278). -/
def State.closeFrame (s : State) (st : Nat) (missing : Bool) : State :=
  match (s.stream st).frame, s.streamRec st with
  | some o, some r =>
    let s := s.setStream st { s.stream st with frame := none }
    if o.lost then s
    else if o.exps.all (fun e => e.lines.isEmpty) then s.dropFrames [(st, o.devFcnt)] 0
    else
      let lines (k : Nat) : List (List (Option Nat)) := (o.exps[k]?).elim [] (·.lines)
      let exps := (upTo o.exps.length).map (fun k => if o.uses k then padLines r (lines k) else [])
      let flags := setFlag o.flags fSHORT_FRAME (o.used.any (fun k => decide ((lines k).length < r.height)))
      let flags := setFlag flags fFE_MISSING missing
      let flags := setFlag flags fEXP_MISSING (decide (o.used.length < o.exps.length))
      let f : Frame := ⟨st, o.devFcnt, o.csiFn, o.tFs, s.timeNs, flags, o.linesRx, o.shortLines, o.crcLines, o.pipe,
        o.params, exps, o.outs, o.outs.map (·.1), [], r.group.map (fun g => (g, 0)), none, []⟩
      let f := { f with flags := setFlag flags fGEOM_OUT (irisIn r f).geomOut }
      let s := s.countFlagged st 0 f.flags
      let s := s.add64 (kIrs (0x20 * o.pipe + 8)) (r.width * r.height * o.used.length)
      let s := { s with cam := { s.cam with
        frames := s.cam.frames ++ [f]
        arrived := if r.group.isSome then s.cam.arrived ++ [(st, o.devFcnt)] else s.cam.arrived } }
      s.settlePlain
  | _, _ => s

/-! ## Opening a frame -/

/-- R284: the bank a frame uses, and whether a pending selection takes effect with it. -/
def State.bankFor (s : State) (st : Nat) (n : B32) : Bool × Bool :=
  let k := kIrs (0x1000 + 0x10 * st)
  if s.bit k 1 && serialGe n (s.reg (k + 4)) then (s.bit k 0, true) else ((s.stream st).bank, false)

/-- The bytes of one bank of an Iris parameter area. -/
def parBank : Nat := 0x20000

/-- A parameter block is copied, by an ordinary read of the pipe (R360, R361, R376); `none` where that read fails. -/
def State.copyBlock (s : State) (pipe base : Nat) : State × Option Memory :=
  let a := s.memAccess ⟨rqIris pipe, false, base, parBank, [], false⟩ none
  (a.1, if a.2.1 = 0 then some (s.mem.hbm.slice base parBank) else none)

/-- A bank that cannot be used: the frame takes the shadow. -/
def State.shadowBank (s : State) (r : StreamRec) (pipe : Nat) : State × Option (Memory × Bool) :=
  let c := s.copyBlock pipe (r.parBase + 0x40000)
  (c.1, c.2.map (fun m => (m, true)))

/-- The block of a frame, given what reading its bank at `base` answered: the bank when it could be read and passes, and
the shadow then takes it; else the shadow's contents. -/
def State.takeBlock (s : State) (r : StreamRec) (pipe base : Nat) (c : State × Option Memory) :
    State × Option (Memory × Bool) :=
  match c.2 with
  | some m =>
    if paramOk r.width r.height m then
      ((c.1.irisWrite pipe (r.parBase + 0x40000) (s.mem.hbm.readBytes base parBank)).1, some (m, false))
    else c.1.shadowBank r pipe
  | none => c.1.shadowBank r pipe

/-- R283: the parameter block of a frame, from its selected bank. The Bool says whether the bank failed; with the shadow
unreadable too there is no block (log entry 121). -/
def State.loadParams (s : State) (r : StreamRec) (pipe : Nat) (bank : Bool) : State × Option (Memory × Bool) :=
  s.takeBlock r pipe (r.parBase + parBank * b2n bank) (s.copyBlock pipe (r.parBase + parBank * b2n bank))

/-- A frame that its pipe cannot process is dropped in cause 4 and takes no output (R300, R516). -/
def State.openLost (s : State) (st : Nat) (o : OpenFrame) : State :=
  let s := s.dropFrames [(st, o.devFcnt)] 4
  s.setStream st { s.stream st with frame := some { o with lost := true } }

/-- A frame on its pipe, with what reading its parameters answered: it takes a slot of each output that is wanted, and
without a block it is dropped. -/
def openWith (r : StreamRec) (o : OpenFrame) (l : State × Option (Memory × Bool)) : State :=
  let st := r.stream
  match l.2 with
  | none => l.1.openLost st o
  | some (block, failed) =>
    let s := if failed then l.1.addSat (kIrs (0x100C + 0x10 * st)) 1 else l.1
    let t : List (Nat × Nat) × Bool := s.takeSlots r block
    let s := if t.2 then s.dropFrames [(st, o.devFcnt)] 1 else s
    let rt := s.stream st
    s.setStream st { rt with
      frame := some { o with flags := setFlag o.flags fPARAM_ERR failed, params := block, outs := t.1 }
      slots := s.busySlots st ++ t.1.map (fun x => (x.1, x.2, o.devFcnt))
      next := t.1.foldl (fun m x => SMap.set zeroNat m x.1 (x.2 + 1)) rt.next }

/-- A page of the block that the next frame of a stream reads, or of its shadow, is being copied: its Frame Start waits
(R363, log entry 123). -/
def State.paramsWait (s : State) (r : StreamRec) : Bool :=
  let b := (s.bankFor r.stream (s.reg (kCam (0x1000 + 0x40 * r.stream)) + 1)).1
  s.pageBusy (r.parBase + parBank * b2n b) parBank || s.pageBusy (r.parBase + 0x40000) parBank

/-- The exposure frame of channel `i` that already started with the number of a new frame (R275). -/
def StreamRt.earlyOf (rt : StreamRt) (i fn : Nat) : Option ExpAcc :=
  (rt.early.find? (fun x => x.1 == i && x.2.1 == fn && decide (fn ≠ 0))).map (fun x => x.2.2)

/-- The exposures of a new frame: e0 starts with it, the others with their own Frame Start, which may have come before. -/
def StreamRt.startExps (rt : StreamRt) (n fn : Nat) : List ExpAcc :=
  (upTo n).map (fun i => if i = 0 then ⟨0, 0, 0, ⟨true, true, false, []⟩⟩
    else (rt.earlyOf i fn).getD ⟨0, 0, 0, ⟨false, false, false, []⟩⟩)

/-- An accepted Frame Start on e0 opens a frame (R274, R283, R284, R289, R300). -/
def State.openFrame (s : State) (r : StreamRec) (fn : Nat) (hdrCorr : Bool) : State :=
  let st := r.stream
  let s := s.addWrap (kCam (0x1000 + 0x40 * st)) 1
  let n := s.reg (kCam (0x1000 + 0x40 * st))
  let rt := s.stream st
  let seqFlag := match rt.prevFn with
    | some p => decide (fn ≠ 0 ∧ fn ≠ (p + 1) % 65536)
    | none => false
  let bk := s.bankFor st n
  let k := kIrs (0x1000 + 0x10 * st)
  let s := if bk.2 then s.setBit k 1 false else s
  let exps := rt.startExps r.exps.length fn
  let flags := exps.foldl (fun a x => a ||| x.flags) (setFlag (setFlag 0 fHDR_CORR hdrCorr) fFN_SEQ seqFlag)
  let count (f : ExpAcc → Nat) : Nat := exps.foldl (fun a x => satAdd 16 a (f x)) 0
  let s := s.setStream st { rt with
    lastFs := s.elapsed.toNat, lost := false, prevFn := some fn, bank := bk.1
    early := rt.early.filter (fun x => (rt.earlyOf x.1 fn).isNone) }
  let bare : OpenFrame := ⟨n, fn, s.timeNs, flags, 0, count (·.shortLines), count (·.crcLines), s.elapsed.toNat,
    exps.map (·.rt), 0, [], [], false⟩
  let usable := match s.pipeOfStream st with
    | some p => if s.fld (kIrs (0x20 * p)) 0 2 = 1 ∧ s.cam.moving.all (fun m => m.1 != p) then some p else none
    | none => none
  match usable with
  | none => s.openLost st bare
  | some p => openWith r { bare with pipe := p } (s.loadParams r p bk.1)

/-! ## Packets -/

def State.corrected (s : State) (port : Nat) (b : Bool) : State :=
  if b then s.addFld (kCam (0x40 * port + 4)) 0 16 1 else s

/-- A packet that no stream binds is discarded and counted (R272). -/
def State.orphan (s : State) (port : Nat) : State := s.addSat (kCam (0x40 * port + 0xC)) 1

/-- The open frame of a stream changed. -/
def State.onFrame (s : State) (st : Nat) (f : OpenFrame → OpenFrame) : State :=
  match (s.stream st).frame with
  | some o => s.setStream st { s.stream st with frame := some (f o) }
  | none => s

def OpenFrame.onExp (o : OpenFrame) (k : Nat) (f : ExpRt → ExpRt) : OpenFrame :=
  { o with exps := (upTo o.exps.length).filterMap (fun i => (o.exps[i]?).map (fun e => if i = k then f e else e)) }

/-- A packet of the open frame: it restarts the frame-end timeout (R277), and a corrected header flags the frame. -/
def OpenFrame.heard (o : OpenFrame) (now : Nat) (hdrCorr : Bool) : OpenFrame :=
  { o with lastPkt := now, flags := setFlag o.flags fHDR_CORR hdrCorr }

/-- The exposure frame of an early channel changed. -/
def StreamRt.onEarly (rt : StreamRt) (k : Nat) (f : Nat → ExpAcc → ExpAcc) : StreamRt :=
  { rt with early := rt.early.map (fun x => if x.1 = k then (k, x.2.1, f x.2.1 x.2.2) else x) }

/-- A Frame Start on exposure channel `k` above 0 belongs to the open frame: it carries the number of e0, or with csi_fn 0
it is the channel's first (R275). -/
def OpenFrame.begins (o : OpenFrame) (k fn : Nat) : Bool :=
  if o.csiFn = 0 then !((o.exps[k]?).elim false (·.started)) else o.csiFn == fn

/-- The frame after a Frame Start on exposure channel `k`: one that does not belong to it ends what the channel was
sending. -/
def OpenFrame.expStart (o : OpenFrame) (k fn now : Nat) (hdrCorr : Bool) : OpenFrame :=
  if o.begins k fn then (o.heard now hdrCorr).onExp k (fun e => { e with started := true, open_ := !e.ended })
  else o.onExp k (fun e => { e with open_ := false })

/-- A Frame Start on exposure channel `k` above 0 (R275): what does not belong to the open frame waits for the frame with
its number. -/
def State.expStart (s : State) (st k fn : Nat) (hdrCorr : Bool) : State :=
  let rt := s.stream st
  let mine := rt.frame.elim false (fun o => o.begins k fn)
  let fresh : ExpAcc := ⟨setFlag 0 fHDR_CORR hdrCorr, 0, 0, ⟨true, true, false, []⟩⟩
  s.setStream st { rt with
    frame := rt.frame.map (fun o => o.expStart k fn s.elapsed.toNat hdrCorr)
    early := rt.early.filter (fun x => x.1 != k) ++ (if mine then [] else [(k, fn, fresh)]) }

/-- A Frame End on a channel: it ends the exposure frame that is open there and carries its number (R275). On e0 any
Frame End closes the frame. -/
def OpenFrame.expEnd (o : OpenFrame) (k fn now : Nat) (hdrCorr : Bool) : OpenFrame :=
  let mine := (o.exps[k]?).elim false (·.open_) && (k == 0 || o.csiFn == 0 || o.csiFn == fn)
  if mine then (o.heard now hdrCorr).onExp k (fun e => { e with open_ := false, ended := true })
  else o.onExp k (fun e => { e with open_ := false })

/-- A Frame End for an exposure frame that started before its frame opened. -/
def ExpAcc.ends (x : ExpAcc) (mine hdrCorr : Bool) : ExpAcc :=
  { x with
    flags := setFlag x.flags fHDR_CORR (hdrCorr && mine && x.rt.open_)
    rt := { x.rt with open_ := false, ended := x.rt.ended || (mine && x.rt.open_) } }

/-- A Frame End on exposure channel `k`. -/
def State.expEnd (s : State) (st k fn : Nat) (hdrCorr : Bool) : State :=
  let s := s.onFrame st (fun o => o.expEnd k fn s.elapsed.toNat hdrCorr)
  s.setStream st ((s.stream st).onEarly k (fun n x => x.ends (n == fn) hdrCorr))

/-- The PHY PLL of a camera port is locked: its link is up (R532). -/
def State.csiUp (s : State) (port : Nat) : Bool := decide (port < 8) && s.bit (kClk 0) (8 + port)

/-- CSI_FRAME_START (R274, R275, R277). -/
def execCsiFrameStart (port vc : Nat) (fn : BitVec 16) (hdrCorr : Bool) (s : State) : Out :=
  attempt (if s.awake ∧ s.csiUp port then
    let b := s.findStream port vc
    if b.elim false (fun x => x.2 == 0 && s.paramsWait x.1) then none
    else
    let s := s.corrected port hdrCorr
    match b with
    | none => some (s.orphan port)
    | some (r, 0) =>
      let s := if (s.stream r.stream).frame.isSome then s.closeFrame r.stream true else s
      some (s.openFrame r fn.toNat hdrCorr)
    | some (r, k) => some (s.expStart r.stream k fn.toNat hdrCorr)
    else none) s

/-- CSI_FRAME_END (R274): on e0 the frame closes. -/
def execCsiFrameEnd (port vc : Nat) (fn : BitVec 16) (hdrCorr : Bool) (s : State) : Out :=
  attempt (if s.awake ∧ s.csiUp port then
    let s := s.corrected port hdrCorr
    match s.findStream port vc with
    | none => some (s.orphan port)
    | some (r, k) =>
      let s := s.expEnd r.stream k fn.toNat hdrCorr
      some (if k = 0 then s.closeFrame r.stream false else s)
    else none) s

/-- The samples of one pixel group: the high bytes in order, then their low bits packed low first. -/
def groupSamples (dtype : Nat) (b : List Byte) : List Nat :=
  let v (i : Nat) : Nat := ((b[i]?).getD 0).toNat
  let hi (n lo : Nat) : List Nat :=
    (upTo n).map (fun i => v i * 2 ^ lo + bitsOf (bytesToNat (b.drop n)) (lo * i) lo)
  match dtype with
  | 0x2B => hi 4 2
  | 0x2C => hi 2 4
  | 0x2D => hi 4 6
  | 0x2E => [v 0 * 256 + v 1]
  | 0x2F => (upTo 2).map (fun i => (v (2 * i) * 256 + v (2 * i + 1)) * 16 + bitsOf (v 4) (4 * i) 4)
  | _ => b.map (·.toNat)

def lineSamples : Nat → Nat → Nat → List Byte → List Nat
  | 0, _, _, _ => []
  | n + 1, dtype, by_, b => groupSamples dtype (b.take by_) ++ lineSamples n dtype by_ (b.drop by_)

/-- A line cut or padded to the width (R276). -/
def repairLine (r : StreamRec) (spp : Nat) (xs : List Nat) : List (Option Nat) :=
  let n := r.width * spp
  let got := (xs.take n).map some
  let phase := 2 * spp
  let pad := (upTo (n - got.length)).map (fun i =>
    -- the last received sample of the same colour phase
    let pos := got.length + i
    let back := pos - (i / phase + 1) * phase
    if r.black ∨ pos < (i / phase + 1) * phase then none else (got[back]?).getD none)
  got ++ pad

/-- A line of an exposure frame, repaired, with the flags and counts it adds (Table 08-3). -/
def ExpAcc.line (x : ExpAcc) (r : StreamRec) (crcOk hdrCorr : Bool) (pixels : Nat) (samples : List (Option Nat)) : ExpAcc :=
  let x := { x with flags := setFlag x.flags fHDR_CORR hdrCorr }
  let x := if crcOk then x else
    { x with flags := setFlag x.flags fCRC_LINE true, crcLines := satAdd 16 x.crcLines 1 }
  if r.height ≤ x.rt.lines.length then { x with flags := setFlag x.flags fLONG_FRAME true }
  else
    let x := if pixels = r.width then x else
      { x with flags := setFlag x.flags (if pixels < r.width then fSHORT_LINE else fLONG_LINE) true
               shortLines := satAdd 16 x.shortLines 1 }
    { x with rt := { x.rt with lines := x.rt.lines ++ [samples] } }

/-- A line of the exposure frame that is open on channel `k` of a frame. -/
def OpenFrame.line (o : OpenFrame) (r : StreamRec) (k now : Nat) (crcOk hdrCorr : Bool) (pixels : Nat)
    (samples : List (Option Nat)) : OpenFrame :=
  match o.exps[k]? with
  | some e =>
    if e.open_ then
      let x := (⟨o.flags, o.shortLines, o.crcLines, e⟩ : ExpAcc).line r crcOk hdrCorr pixels samples
      { o with
        flags := x.flags, shortLines := x.shortLines, crcLines := x.crcLines, lastPkt := now
        linesRx := if k = 0 then o.linesRx + 1 else o.linesRx }.onExp k (fun _ => x.rt)
    else o
  | none => o

/-- The channel sends an exposure frame whose frame has not opened. -/
def StreamRt.isEarly (rt : StreamRt) (k : Nat) : Bool := rt.early.any (fun x => x.1 == k && x.2.2.rt.open_)

/-- A line of a stream that has a frame open: it goes to the exposure frame that its channel sends. -/
def State.takeLine (s : State) (r : StreamRec) (k : Nat) (crcOk hdrCorr : Bool) (pixels : Nat)
    (samples : List (Option Nat)) : State :=
  let rt := s.stream r.stream
  if rt.isEarly k then s.setStream r.stream (rt.onEarly k (fun _ x => x.line r crcOk hdrCorr pixels samples))
  else s.onFrame r.stream (fun o => o.line r k s.elapsed.toNat crcOk hdrCorr pixels samples)

/-- A line of a channel that was lost to a header error (Table 08-3). -/
def State.lineLost (s : State) (st k : Nat) : State :=
  let rt := s.stream st
  let lose (f : BitVec 16) : BitVec 16 := setFlag f fPKT_LOST true
  if rt.isEarly k then s.setStream st (rt.onEarly k (fun _ x => { x with flags := lose x.flags }))
  else s.onFrame st (fun o => { o with flags := lose o.flags })

/-- CSI_LINE_RECEIVE (R272, R276). -/
def execCsiLineReceive (port vc dtype : Nat) (payload : List Byte) (crcOk hdrCorr hdrLost : Bool) (s : State) : Out :=
  attempt (if s.awake ∧ s.csiUp port then
    let bound := s.findStream port vc
    if hdrLost then
      let s := s.addFld (kCam (0x40 * port + 4)) 16 16 1
      some (match bound with
        | some (r, k) => s.lineLost r.stream k
        | none => s)
    else
      let s := s.corrected port hdrCorr
      match bound, dtypeGroup dtype with
      | some (r, k), some (px, by_, spp) =>
        if r.dtype ≠ dtype ∨ (s.stream r.stream).frame = none then some (s.orphan port)
        else
          let s := if crcOk then s else s.addSat (kCam (0x40 * port + 8)) 1
          let groups := payload.length / by_
          some (s.takeLine r k crcOk hdrCorr (groups * px) (repairLine r spp (lineSamples groups dtype by_ payload)))
      | _, _ => some (s.orphan port)
    else none) s

/-- FE_TIMEOUT (R277). -/
def execFeTimeout (st : Nat) (s : State) : Out :=
  attempt (if s.awake then
    match s.streamRec st, (s.stream st).frame with
    | some r, some o =>
      if o.lastPkt + usTicks r.feUs ≤ s.elapsed.toNat then some (s.closeFrame st true) else none
    | _, _ => none
    else none) s

/-- STREAM_LOST (R279, R301). -/
def execStreamLost (st : Nat) (s : State) : Out :=
  attempt (if s.awake then
    match s.streamRec st with
    | some r =>
      let rt := s.stream st
      if !rt.lost ∧ rt.lastFs + msTicks r.lostMs ≤ s.elapsed.toNat then
        some ((s.setStream st { rt with lost := true }).raise 0x0601
          (mkParam [(0, st), (32, (s.reg (kCam (0x1000 + 0x40 * st))).toNat)]))
      else none
    | none => none
    else none) s

/-- ALIGN_DEADLINE (R296, R297). -/
def execAlignDeadline (g : Nat) (s : State) : Out :=
  attempt (if s.awake ∧ (s.group g).open_ ∧ (s.group g).deadline ≤ s.elapsed.toNat then
    some (s.releaseInst g false s.timeNs) else none) s

/-- ALIGN_HOLDOFF_END (R298). -/
def execAlignHoldoffEnd (g : Nat) (s : State) : Out :=
  attempt (if s.awake then
    match (s.group g).holdEnd with
    | some t => if t ≤ s.elapsed.toNat then some (s.setGroup g { s.group g with holdEnd := none, absent := [] }) else none
    | none => none
    else none) s

/-! ## Vision outputs and statistics -/

/-- IRIS_VISION_COMPLETE (R286 to R290): the oldest frame of the stream that owes the crop. -/
def execIrisVisionComplete (st crop : Nat) (s : State) : Out :=
  attempt (if s.awake ∧ crop < 4 then
    let o := crop + 2
    match s.cam.frames.find? (fun f => f.stream == st && f.todo.contains o), s.streamRec st with
    | some f, some r =>
      let a := ringAddr r f.params o (f.slot o)
      if s.outBusy r f o then none
      else
      let s := s.addSat (kIrs (0x1008 + 0x10 * st)) ((irisIn r f).clamps o)
      let w := s.irisWrite f.pipe (a + 64) ((irisIn r f).image o)
      let f1 := { f with todo := f.todo.filter (· != o), vis := f.vis ++ [o] }
      let s :=
        if w.2 ≠ 0 then (w.1.dropFrames [(st, f.devFcnt)] 4).putFrame (f.dropOut o)
        else
          let s := w.1.putFrame f1
          match f.group, f.release with
          | none, _ => s.sendVision r f1 o s.timeNs
          | some _, some t => s.sendVision r f1 o t
          | some _, none => s
      some ((match f.group with | some (g, _) => s.sendReady g | none => s).settlePlain)
    | _, _ => none
    else none) s

/-- IRIS_STATS_WRITE (R291): body, bytes 4 to 63, then seq. -/
def execIrisStatsWrite (st : Nat) (s : State) : Out :=
  attempt (if s.awake then
    match s.cam.frames.find? (fun f => f.stream == st && f.todo.contains 6), s.streamRec st with
    | some f, some r =>
      let rt := s.stream st
      let a := ringAddr r f.params 6 (f.slot 6)
      if s.outBusy r f 6 then none
      else
      let w := s.irisWrite f.pipe (a + 64) (irisIn r f).stats
      let head := natToBytes f.devFcnt.toNat 4 ++ natToBytes f.csiFn 2 ++ natToBytes f.flags.toNat 2 ++ natToBytes 0 52
      let w := if w.2 = 0 then w.1.irisWrite f.pipe (a + 4) head else w
      let w := if w.2 = 0 then w.1.irisWrite f.pipe a (natToBytes (rt.seq + 1).toNat 4) else w
      let s := if w.2 = 0 then w.1.setStream st { w.1.stream st with seq := rt.seq + 1 } else w.1
      some ((s.putFrame { f with todo := f.todo.filter (· != 6) }).purgeFrames)
    | _, _ => none
    else none) s

/-- IRS_BANK_WRITE (R284, R303). -/
def execIrsBankWrite (rq : Requester) (st : Nat) (v : B32) (s : State) : Out :=
  attempt (if s.awake ∧ st < 24 then
    let k := kIrs (0x1000 + 0x10 * st)
    some (s.guardReg rq k (fun s => (s.setBit k 0 (v.getLsbD 0)).setBit k 1 true))
    else none) s

/-! ## Pipe sparing (R300, R516) -/

/-- A pipe's streams, with those that still move to it (R300, R516). -/
def State.pipeStreams (s : State) (p : Nat) : List StreamRec :=
  s.boot.scroll.streams.filter (fun r => s.bit (kIrs (0x20 * p)) (8 + r.stream) ||
    s.cam.moving.any (fun m => m.2 == p && s.bit (kIrs (0x20 * m.1)) (8 + r.stream)))

/-- Load of a pipe's streams: width × height × exposures × maximum frame rate. -/
def State.pipeLoad (s : State) (p : Nat) : Nat :=
  (s.pipeStreams p).foldl (fun a r => a + r.width * r.height * r.exps.length * r.maxFps) 0

/-- Frames a pipe holds are dropped and counted in cause 4. -/
def State.dropPipeFrames (s : State) (p : Nat) : State :=
  let open_ := (upTo 24).filter (fun st => match (s.stream st).frame with
    | some o => o.pipe == p && !o.lost
    | none => false)
  let s := open_.foldl (fun s st =>
    let n := ((s.stream st).frame).elim 0 (·.devFcnt)
    (s.dropFrames [(st, n)] 4).onFrame st (fun o => { o with lost := true, outs := [] })) s
  let gone := s.cam.frames.filter (fun f => f.pipe == p)
  let s := gone.foldl (fun s f =>
    let s := s.dropFrames [(f.stream, f.devFcnt)] 4
    match f.group with
    | some (g, _) =>
      let gr := s.group g
      s.setGroup g { gr with present := gr.present.filter (fun x => !(x.1 == f.stream && x.2 == f.devFcnt)) }
    | none => s) s
  { s with cam := { s.cam with frames := s.cam.frames.filter (fun f => f.pipe != p) } }

/-- The streams of a failed pipe, and those that were moving to it, move to pipe `q`. -/
def State.movePipe (s : State) (p q : Nat) : State :=
  { s with cam := { s.cam with moving := s.cam.moving.map (fun m => if m.2 = p then (m.1, q) else m) ++ [(p, q)] } }

/-- Firmware's part after a pipe has failed: pipe 2 takes its streams; with pipe 2 in use the surviving pipe takes
them when it can carry the load, and else they move nowhere (R300, R516). -/
def State.sparePipe (s : State) (p : Nat) : State :=
  if s.fld (kIrs 0x40) 0 2 = 0 ∧ p < 2 then
    let s := (s.setFld (kIrs 0x40) 0 2 1).movePipe p 2
    let s := s.fault { mkFault 0xC 2 p 0 with spare := 2, degraded := s.exhausts 4 p }
    (s.raise 0x0701 (mkParam [(0, p), (8, 2)])).exhaust 4 p
  else
    match (upTo 3).find? (fun q => q ≠ p ∧ s.fld (kIrs (0x20 * q)) 0 2 = 1 ∧ s.pipeLoad p + s.pipeLoad q ≤ 2500000000) with
    | some q => (s.movePipe p q).fault { mkFault 0xC 2 p 0 with spare := q }
    | none =>
      let s : State := { s with cam := { s.cam with moving := s.cam.moving.filter (fun m => m.2 != p) } }
      s.fault (mkFault 0xC 4 p 0)

/-- A media unit that has stopped awaits firmware (R24). -/
def State.oweUnit (s : State) (u : UnitDue) : State := { s with fw := { s.fw with unitsDue := s.fw.unitsDue ++ [u] } }

/-- PIPE_SPARED: an active pipe stops and drops its frames; firmware moves its streams (R300). -/
def execPipeSpared (p : Nat) (s : State) : Out :=
  attempt (if s.awake ∧ p < 3 ∧ s.fld (kIrs (0x20 * p)) 0 2 = 1 then
    let s := (s.setFld (kIrs (0x20 * p)) 0 2 2).dropPipeFrames p
    some (if s.fwServes then s.sparePipe p else s.oweUnit (.pipe p))
    else none) s

/-- STREAM_MOVE_DONE (R300): the failed pipe's streams are bound to the pipe that takes them. -/
def execStreamMoveDone (p : Nat) (s : State) : Out :=
  attempt (if s.awake ∧ s.fwServes then
    (s.cam.moving.find? (fun m => m.1 == p)).map (fun m =>
      let k := kIrs (0x20 * m.2)
      let s := s.setFld k 8 24 (s.fld k 8 24 ||| s.fld (kIrs (0x20 * p)) 8 24)
      let s := s.setFld (kIrs (0x20 * p)) 8 24 0
      { s with cam := { s.cam with moving := s.cam.moving.filter (fun x => x.1 != p) } })
    else none) s

/-! ## Time base (R292 to R294) -/

/-- A load or an offset of TIME_NS: event 0x0603, and open frames flagged TIME_STEP (R293, R280). -/
def State.stepTime (s : State) (t : BitVec 88) : State :=
  let old := s.timeNs
  let s := { s with time := t }
  let s := s.raise 0x0603 (s.timeNs - old)
  (upTo 24).foldl (fun s st => s.onFrame st (fun o => { o with flags := setFlag o.flags fTIME_STEP true })) s

/-- PPS_EDGE (R293, R566): accepted while pps_en is 1 and 500 ms or more after the last accepted edge. -/
def execPpsEdge (s : State) : Out :=
  attempt (if s.awake ∧ s.bit (kCam 0x200C) 0 ∧
      s.cam.ppsEdge.elim true (fun t => decide (t + msTicks 500 ≤ s.elapsed.toNat)) then
    let s := s.setReg64 (kCam 0x2018) s.timeNs
    let s := { s with cam := { s.cam with ppsAt := s.elapsed.toNat, ppsLost := false, ppsEdge := some s.elapsed.toNat } }
    some (if s.bit (kCam 0x200C) 1 then
        (s.setBit (kCam 0x200C) 1 false).stepTime (s.reg64 (kCam 0x2020) ++ (0 : BitVec 24))
      else s)
    else none) s

/-- OFFSET_GO (R293): the offset is added in this TIME cycle, after its capture and load and before its increment. -/
def execOffsetGo (rq : Requester) (s : State) : Out :=
  attempt (if s.awake then some (s.guardReg rq (kCam 0x200C) (fun s => s.setBit (kCam 0x200C) 2 true)) else none) s

/-- The offset of the TIME cycle, if offset_go was written (R293, act 3). -/
def State.takeOffset (s : State) : State :=
  if s.bit (kCam 0x200C) 2 then
    (s.setBit (kCam 0x200C) 2 false).stepTime (s.time + (s.reg64 (kCam 0x2010) ++ (0 : BitVec 24)))
  else s

/-- PPS_LOST (R293, R301): 1.5 s of the elapsed count without an accepted edge, once. -/
def execPpsLost (s : State) : Out :=
  attempt (if s.awake ∧ s.bit (kCam 0x200C) 0 ∧ !s.cam.ppsLost ∧ s.cam.ppsAt + msTicks 1500 ≤ s.elapsed.toNat then
    some ({ s with cam := { s.cam with ppsLost := true } }.raise 0x0602 (s.reg64 (kCam 0x2018)))
    else none) s

def kFsync (k off : Nat) : Nat := kCam (0x3000 + 0x20 * k + off)

/-- The n of the last pulse time at or before TIME_NS, plus 1; 0 before start_k. -/
def State.fsyncNow (s : State) (k : Nat) : Nat :=
  let start := (s.reg64 (kFsync k 8)).toNat
  let t := s.timeNs.toNat
  if t < start ∨ (s.reg (kFsync k 4)).toNat = 0 then 0 else (t - start) / (s.reg (kFsync k 4)).toNat + 1

/-- The pulse time of `n` (plus 1) was reached in this TIME cycle, and not passed by a step. -/
def State.fsyncReached (s : State) (k n : Nat) : Bool :=
  let at_ := ((s.reg64 (kFsync k 8)).toNat + (n - 1) * (s.reg (kFsync k 4)).toNat) * 2 ^ 24
  decide (s.time.toNat < at_ + (s.reg (kCam 0x2008)).toNat)

/-- The level of an FSYNC output. -/
def State.driveFsync (s : State) (k : Nat) (high : Bool) : State :=
  let m := BitVec.ofNat 8 (2 ^ k)
  { s with pins := { s.pins with fsync := if high then s.pins.fsync ||| m else s.pins.fsync &&& ~~~m } }

/-- FSYNC_PULSE (R294): active-high, or active-low under polarity 1 (Table 08-15). -/
def execFsyncPulse (k : Nat) (s : State) : Out :=
  attempt (if s.awake ∧ k < 8 ∧ s.bit (kFsync k 0) 0 then
    let n := s.fsyncNow k
    if (s.fsyncRt k).emitted < n ∧ s.fsyncReached k n then
      let w := max 1 (s.fld (kFsync k 0) 16 16)
      let low := s.bit (kFsync k 0) 1
      some ((s.setFsync k ⟨n, some (s.elapsed.toNat + w), low⟩).driveFsync k (!low))
    else none
    else none) s

/-- FSYNC_PULSE_END (R294). -/
def execFsyncPulseEnd (k : Nat) (s : State) : Out :=
  attempt (if s.awake ∧ k < 8 then
    match (s.fsyncRt k).until_ with
    | some t =>
      if t ≤ s.elapsed.toNat then
        some ((s.setFsync k { s.fsyncRt k with until_ := none }).driveFsync k (s.fsyncRt k).low)
      else none
    | none => none
    else none) s

end Sys2Proof.Machine
end

