-- ==== Sys2Proof/Machine/Dma.lean ====
section
/-!
DEFINITION. The commands of the tile DMA (chapter 04): descriptors, transfers, their limits and order, and the
signature of folded descriptors (R258, R259, R501).
-/
namespace Sys2Proof.Machine

/-! ## The descriptor (Table 04-3) -/

/-- A `w`-bit field at bit `lo` of byte `byte` of a DMA descriptor. -/
def dmf (d : BitVec 256) (byte lo w : Nat) : Nat := bitsOf d.toNat (8 * byte + lo) w

def dOp (d : BitVec 256) : Nat := dmf d 0 0 4
def dFence (d : BitVec 256) : Bool := bitOf d.toNat 4
def dLocal (d : BitVec 256) : Bool := bitOf d.toNat 5
def dRows (d : BitVec 256) : Nat := dmf d 4 0 32
def dInk (d : BitVec 256) : Nat := dmf d 8 0 32
def dStride (d : BitVec 256) : Nat := dmf d 12 0 32
def dAddr (d : BitVec 256) : Nat := dmf d 16 0 64
def dDstRow (d : BitVec 256) : Nat := dmf d 16 0 32
def dDstTile (d : BitVec 256) : Nat := dmf d 24 0 6
def dDstDev (d : BitVec 256) : Nat := dmf d 25 0 7

def dmaRead : Nat := 1
def dmaWrite : Nat := 2
def dmaPush : Nat := 3

/-- The descriptor with mem_addr, dst_tile and dst_dev replaced (R231). -/
def dmaWith (d : BitVec 256) (addr tile dev : Nat) : BitVec 256 :=
  let keep := d.toNat % 2 ^ 128 + place (d.toNat >>> 208) 208 48
  BitVec.ofNat 256 (keep + place addr 128 64 + place (tile % 64 + place (dmf d 24 6 2) 6 2) 192 8 +
    place (dev % 128 + place (dmf d 25 7 1) 7 1) 200 8)

/-- The target window of a PUSH (R147): that of the consumer of the first out_edge whose consumer lies on
the target folio tile. -/
def Pipe.pushWindow (p : Pipe) (sp : Step) (folioTile : Nat) : Option Stage :=
  (hOut sp.hdr).findSome? (fun x => (p.edge x).bind (fun e => (p.stage e.consumer).bind (fun st =>
    if st.kind = .tile ∧ st.unit = folioTile then some st else none)))

/-- The Inkwell window an INKWELL buffer stands for (Table 07-4): that of the consumer of its edges. -/
def Pipe.inkBuffer (p : Pipe) (b : Nat) : Option Stage :=
  (p.edges.find? (fun e => e.buffer == b && !e.orderOnly)).bind (fun e => p.stage e.consumer)

/-- What relocation adds to dst_row (R231). -/
def State.relocRow (s : State) (p : Pipe) (st : StepRef) (sp : Step) (b : Nat) : Nat :=
  if b = 0xFF then 0
  else
    let outs := (hOut sp.hdr).filterMap (fun x =>
      match p.edge x, (s.book (bookKey st.pipe st.side x)).writingOf st.epoch st.step with
      | some e, some i => if e.buffer = b ∧ !e.orderOnly then some ((e.slot0 + i * e.slotBytes) / 512) else none
      | _, _ => none)
    ((p.inkBuffer b).elim 0 (·.inkRow)) + outs.headD 0

/-- The relocated descriptor. -/
def State.dmaReloc (s : State) (p : Pipe) (st : StepRef) (sp : Step) : BitVec 256 :=
  let d : BitVec 256 := sp.desc.truncate 256
  if dOp d = dmaPush then
    let m := (p.mapTile st.side (dDstTile d)).getD (s.boot.dev, dDstTile d)
    dmaWith d (dDstRow d + s.relocRow p st sp (hReloc sp.hdr 0) + place (dmf d 20 0 32) 32 32) m.2 m.1
  else dmaWith d (dAddr d + s.relocBase p st sp (hReloc sp.hdr 0) (dOp d == dmaRead)) (dDstTile d) (dDstDev d)

/-- Bits of an address: 40 for a local one, 47 for a global one. -/
def dWidth (d : BitVec 256) : Nat := if dLocal d then 40 else 47

/-- Last byte address of a READ or WRITE, without overflow. -/
def dLast (d : BitVec 256) : Nat := dAddr d + (dRows d - 1) * dStride d + 511

/-- The checks of R147 on a relocated descriptor: status and descriptor byte. DESIGN CHOICE (log entry 147): a buffer
that a graph grants is a range of device-local addresses on the device that a global address names. -/
def State.checkDma (s : State) (p : Pipe) (st : StepRef) (sg : Stage) (sp : Step) (d : BitVec 256) : Option (Nat × Nat) :=
  let op := dOp d
  let push := op == dmaPush
  let target := p.pushWindow sp (dDstTile (sp.desc.truncate 256))
  firstFail [
    ([(op == 0 || decide (3 < op) || dmf d 0 6 2 != 0, 0), (dmf d 1 0 24 != 0, 1),
      (if push then dmf d 20 0 32 != 0 else decide (2 ^ dWidth d ≤ dAddr d), if push then 20 else 16),
      (dmf d 24 6 2 != 0, 24), (dmf d 25 7 1 != 0, 25), (dmf d 26 0 48 != 0, 26)], 0x12),
    ([(dRows d == 0, 4), (decide (2 ^ 32 < dInk d + dRows d), 8)] ++
      (if push then [(decide (2 ^ 32 < dDstRow d + dRows d), 16), (!(s.inTorus (dDstDev d)), 25)]
       else [(dStride d % 64 != 0 || decide (dStride d < 512), 12),
             (dAddr d % 64 != 0 || decide (2 ^ dWidth d ≤ dLast d), 16)]), 0x13),
    ([(!(sg.inWindow (dInk d) (dRows d)), 8),
      (if push then !(target.any (fun w => w.inWindow (dDstRow d) (dRows d)))
       else !(p.inGrant st.stage sg st.side (dAddr d % 2 ^ 40) (dLast d - dAddr d + 1)), 16)], 0x10)]

/-! ## Queues -/

def Tile.desc (tl : Tile) (st : StepRef) : Option DmaDesc := tl.descs.find? (fun d => d.step == st)

def State.setDesc (s : State) (t : Nat) (d : DmaDesc) : State :=
  let tl := s.tile t
  s.setTile t { tl with descs := tl.descs.map (fun x => if x.step = d.step then d else x) }

def State.dropDesc (s : State) (t : Nat) (st : StepRef) : State :=
  let tl := s.tile t
  s.setTile t { tl with descs := tl.descs.filter (fun x => x.step != st) }

/-- A descriptor is folded into the signature (R258). -/
def folds (p : Pipe) (sp : Step) (op : Nat) : Bool := p.paired && (op != dmaRead || hFold sp.hdr)

/-- A DMA step starts (R147, R231, R239, R240): it takes its slots, its descriptor is relocated and checked, and it
stands in its queue. -/
def State.dmaStart (s : State) (st : StepRef) : Option State :=
  match s.tileStep st kDma with
    | none => none
    | some (t, p, sg, sp) =>
      let q := hQueue sp.hdr
      if s.skips st then some ((s.beginStep st).finishStep st)
      else
        let s1 := (s.beginStep st).markCold st
        let d := s1.dmaReloc p st sp
        match s1.checkDma p st sg sp d with
        | some (e, byte) =>
          some ((s1.setReg (kTil t 0x340) (BitVec.ofNat 32 (e + 256 + 512 * q + 65536 * byte))).abortStep st e)
        | none =>
          let tl := s1.tile t
          some (s1.setTile t { tl with descs := tl.descs ++ [(⟨st, q, d, folds p sp (dOp d), 0, 0, []⟩ : DmaDesc)] })

/-- DMA_DESCRIPTOR_START (R147). -/
def execDmaDescriptorStart (x : StepCmd) (s : State) : Out := attempt (s.readDesc x (s.dmaStart x.ref)) s

/-! ## Signatures -/

/-- A row's part of the CRC-64 of R258: the row from a state of 0. -/
def rowCrc (r : Row) : B64 := BitVec.ofNat 64 (crcFold 64 sigPoly.toNat true 0 (vecBytes r 512))

/-- The CRC-64 over rows from their parts in increasing index (R501). -/
def combineCrc (n : Nat) (m : SMap B64) : B64 :=
  let st := (upTo n).foldl (fun st i =>
    crcFold 64 sigPoly.toNat true st (List.replicate 512 0) ^^^ (SMap.get (fun _ => (0 : B64)) m i).toNat) (2 ^ 64 - 1)
  BitVec.ofNat 64 (crcResult 64 true true st)

/-- The bits of a checkpoint (Table 13-6). -/
def mkCkpt (st : StepRef) (crc : B64) : BitVec 128 :=
  BitVec.ofNat 128 (st.pipe % 128 + place (b2n st.side) 7 1 + place st.stage 8 6 + place st.step 16 16 +
    place st.epoch.toNat 32 32 + place crc.toNat 64 64)

/-- The device of the comparator: that of the primary's commit unit (R259). -/
def State.ckptDev (s : State) (b : PipeBind) : Nat := if b.twinDevK && !b.primary then b.twinDev else b.home s.boot.dev

/-- The elapsed count of a twin device's checkpoint is kept with its epoch: the primary decides on it (R261, R262). -/
def State.noteCkpt (s : State) (e : B32) : State :=
  match s.epochRec e with
  | some r => s.setEpoch e { r with lastCk := some s.elapsed.toNat }
  | none => s

/-- A checkpoint is sent to the comparator in the commit unit of the primary device (R259). -/
def State.sendCheckpoint (s : State) (t : Nat) (st : StepRef) (crc : B64) : State :=
  let s := (s.setReg64 (kTil t 0x700) crc).addWrap (kTil t 0x708) 1
  let bits := mkCkpt st crc
  match (s.pipe st.pipe).bind with
  | some b =>
    if s.ckptDev b ≠ s.boot.dev then
      (s.noteCkpt st.epoch).sendMsg
        (mkMsg s.boot.dev (s.ckptDev b) 6 st.side false t 2 0 0 0 0 (natToBytes bits.toNat 16))
    else { s with commit := { s.commit with ckFly := s.commit.ckFly ++ [(⟨bits, t⟩ : CkMsg)] } }
  | none => s

/-! ## Transfers -/

/-- The descriptor of a queue that issues next: the oldest resident epoch's first descriptor with rows
left, when its fence, if any, is met and nothing holds its next transfer; otherwise the younger epoch's (R149, R153). -/
def Tile.nextDesc (tl : Tile) (held : DmaDesc → Bool) (q : Nat) : Option DmaDesc :=
  let ready (e : B32) : Option DmaDesc :=
    let ds := tl.descs.filter (fun d => d.queue == q && d.step.epoch == e)
    match ds.find? (fun d => decide (d.issued < dRows d.bits)) with
    | some d =>
      if (dFence d.bits ∧ d.issued = 0 ∧ !(ds.head?.any (fun x => x.step == d.step))) ∨ held d then none else some d
    | none => none
  match oldest tl.residents with
  | some a =>
    (ready a.epoch).or ((tl.residents.find? (fun r => r.epoch != a.epoch)).bind (fun b => ready b.epoch))
  | none => none

/-- The number of the next transfer: above every number issued on any tile. -/
def State.nextXfer (s : State) : Nat := s.tiles.foldl (fun m t => max m t.2.xferId) 0 + 1

/-- The device that a transfer's address names (R34, R384). -/
def State.addrDev (s : State) (d : BitVec 256) (addr : Nat) : Nat := if dLocal d then s.boot.dev else addr / 2 ^ 40

/-- A transfer joins its queue and goes to the memory system, to its target tile, or over Orrek Link (R148,
R384, R436). -/
def State.launch (s : State) (t : Nat) (d : DmaDesc) (x : Xfer) : State :=
  let tl := s.tile t
  let s := s.setTile t { tl with xfers := tl.xfers ++ [x], xferId := x.id }
  let dev := if x.op = dmaPush then dDstDev d.bits else s.addrDev d.bits x.addr
  let tag := xferTag t x.id
  if dev = s.boot.dev then s
  else if x.op = dmaRead then s.sendMsg (mkMsg s.boot.dev dev 1 x.step.side false t 64 x.addr tag 0 0 [])
  else if x.op = dmaWrite then
    s.sendMsg (mkMsg s.boot.dev dev 2 x.step.side false t 64 x.addr tag 0 0 (vecBytes x.data 512))
  else
    s.sendMsg (mkMsg s.boot.dev dev 3 x.step.side false t 64 (x.addr % 2 ^ 32 + place (dDstTile d.bits) 32 6) tag 0 0
      (vecBytes x.data 512))

/-- The layer of a step. -/
def Pipe.layerOf (p : Pipe) (stage step : Nat) : Option Nat :=
  (p.layers.find? (fun x => x.1 == stage && x.2.1 == step)).map (·.2.2)

/-- The layer whose weights a descriptor reads. DESIGN CHOICE (log entry 146): no field says what a READ fetches, so it is
that of the stage's next MATRIX step with a weight region that its rows meet. -/
def Pipe.weightLayer (p : Pipe) (st : StepRef) (d : BitVec 256) : Option Nat :=
  (p.stage st.stage).bind (fun sg =>
    ((upTo sg.steps.length).find? (fun j => decide (st.step < j) && (sg.steps[j]?).any (fun q =>
      hKind q.hdr == kMatrix &&
        (let g := geoOf q.desc
         spansMeet g.wgt (g.nb * g.kc * g.wb) (dInk d) (dRows d))))).bind (fun j => p.layerOf st.stage j))

/-- The layer before another. DESIGN CHOICE (log entry 146): the greatest number of the MANIFEST below it. -/
def Pipe.layerBefore (p : Pipe) (l : Nat) : Option Nat :=
  ((p.layers.map (·.2.2)).filter (fun m => decide (m < l))).foldl (fun (a : Option Nat) m => some (max m (a.getD 0))) none

/-- A READ of weights waits until every tile of the layer before has completed its matrix steps and the completion has
come here (R156). DESIGN CHOICE (log entry 146): inside a device it comes at once, and from another one in a CTRL
message. -/
def State.layerWaits (s : State) (st : StepRef) (d : BitVec 256) : Bool :=
  let p := s.pipe st.pipe
  dOp d == dmaRead && ((p.weightLayer st d).bind p.layerBefore).any (fun m =>
    p.layers.any (fun x => x.2.2 == m &&
      !(if s.stageDev p x.1 = s.boot.dev then (s.prog st.side x.1 st.epoch).done.contains x.2.1
        else s.commit.layers.contains ⟨st.pipe, st.side, x.1, x.2.1, st.epoch⟩)))

/-- Something holds the next transfer of a descriptor: the slice of its row fills (R140), or its layer waits (R156). -/
def State.issueWaits (s : State) (t : Nat) (d : DmaDesc) : Bool :=
  (dOp d.bits != dmaRead && s.rowFilling t (dInk d.bits + d.issued)) || s.layerWaits d.step d.bits

/-- DMA_TRANSFER_ISSUE (R148, R149, R151, R153): one row of the queue's next descriptor. A WRITE or PUSH
reads its Inkwell row; an error response ends the epoch (R133, R142). -/
def execDmaTransferIssue (t q : Nat) (s : State) : Out :=
  attempt (if s.awake ∧ t < 80 ∧ q < 8 ∧ s.queueOpen t q then
    match (s.tile t).nextDesc (s.issueWaits t) q with
    | none => none
    | some d =>
      let i := d.issued
      let row := dInk d.bits + i
      let op := dOp d.bits
      let addr := if op = dmaPush then dDstRow d.bits + i else dAddr d.bits + i * dStride d.bits
      let r : State × Nat × Row :=
        if op = dmaRead then (s, 0, 0)
        else (s.bankWait t (bankOf row)).inkRead t row rqDmaOut (some (d.step.epoch, d.step.pipe))
      if r.2.1 ≠ 0 then some ((r.1.dropDesc t d.step).abortStep d.step r.2.1)
      else
        let x : Xfer := ⟨s.nextXfer, d.step, q, op, i, row, addr, s.fld (kQcfg t q) 0 6 + 1, r.2.2, none,
          if op = dmaPush ∧ dDstDev d.bits = s.boot.dev then some (dDstTile d.bits) else none, false, false,
          decide ((if op = dmaPush then dDstDev d.bits else s.addrDev d.bits addr) ≠ s.boot.dev)⟩
        let d := { d with issued := i + 1
                          crcs := if d.fold ∧ op ≠ dmaRead then SMap.set (fun _ => 0) d.crcs i (rowCrc r.2.2) else d.crcs }
        some ((r.1.setDesc t d).launch t d x)
    else none) s

/-- The physical tile and row of an Inkwell that a transfer of tile `t` writes, if it writes one here. -/
def State.xferTarget (s : State) (t : Nat) (x : Xfer) : Option (Nat × Nat) :=
  if x.op = dmaRead then some (t, x.row)
  else match x.dst with
    | some l => (s.physOf l).map (fun p => (p, x.addr))
    | none => none

/-- An earlier-issued, still outstanding transfer writes the same Inkwell row (R154). -/
def State.xferBlocked (s : State) (t : Nat) (x : Xfer) : Bool :=
  match s.xferTarget t x with
  | none => false
  | some w => s.tiles.any (fun e => e.2.xfers.any (fun y => decide (y.id < x.id) && s.xferTarget e.1 y == some w))

/-- The logical tile that a PUSH writes is being moved: the row waits (R244). -/
def State.moving (s : State) (l : Nat) : Bool :=
  match s.physOf l with
  | some t => (s.cluster (t / 10)).move.any (fun m => m.1 == l)
  | none => false

/-- A transfer leaves its queue, and the epoch it held in ENDING may end (R255). -/
def State.freeXfer (s : State) (t : Nat) (x : Xfer) : State :=
  let tl := s.tile t
  (s.setTile t { tl with xfers := tl.xfers.filter (fun y => y.id != x.id) }).tryEnd x.step.epoch

/-- One transfer of a descriptor has completed: after the last, the checkpoint of a folded descriptor is
sent and the step's tokens are produced (R149, R258, R259). -/
def State.countXfer (s : State) (t : Nat) (x : Xfer) : State :=
  match (s.tile t).desc x.step with
  | none => s
  | some d =>
    let d := { d with done := d.done + 1
                      crcs := if d.fold ∧ x.op = dmaRead then SMap.set (fun _ => 0) d.crcs x.index (rowCrc x.data) else d.crcs }
    if d.done = dRows d.bits then
      let s := s.dropDesc t x.step
      let s := if d.fold then s.sendCheckpoint t x.step (combineCrc (dRows d.bits) d.crcs) else s
      s.finishStep x.step
    else s.setDesc t d

/-- A transfer ends with an error: its descriptor issues no more and its epoch ends (R150, R142, R133). -/
def State.failXfer (s : State) (t : Nat) (x : Xfer) (status : Nat) : State :=
  let s := match (s.tile t).desc x.step with
    | some _ => (s.dropDesc t x.step).abortStep x.step status
    | none => s.endCause x.step.epoch (if isFault status then 1 else 2)
  s.freeXfer t x

/-- The owner's step and the index of the partial that a PUSH of this device delivers with a row (R66). -/
def State.pushPart (s : State) (x : Xfer) (row : Nat) : Option (StepRef × Nat) :=
  (((s.pipe x.step.pipe).splits.find? (fun q => q.push == some (x.step.stage, x.step.step) &&
    decide (q.row ≤ row) && decide (row < q.row + q.rows))).map (fun q =>
      ({ x.step with stage := q.stage, step := q.step }, q.index)))

/-- The write of a transfer's row into an Inkwell; a partial of a split-K reduction goes to its accumulator. -/
def State.landRow (s : State) (w row : Nat) (x : Xfer) : State × Nat :=
  match (if x.op = dmaPush then s.pushPart x row else none) with
  | some o => s.splitArrive w o.1 row o.2 x.data
  | none => s.inkWrite w row rqDmaIn x.data

/-- The Inkwell write of a READ or of a PUSH inside the device, and the end of the transfer. -/
def State.landXfer (s : State) (t : Nat) (x : Xfer) : State :=
  match s.xferTarget t x with
  | none => if x.op = dmaPush ∧ x.dst.isSome then s.failXfer t x 1 else (s.countXfer t x).freeXfer t x
  | some (w, row) =>
    let r := (s.bankWait w (bankOf row)).landRow w row x
    if r.2 ≠ 0 then r.1.failXfer t x r.2 else (r.1.countXfer t x).freeXfer t x

/-- A write of an Inkwell row waits while its slice fills, or while its tile moves (R140, R244). -/
def State.landWaits (s : State) (t : Nat) (x : Xfer) : Bool :=
  (match s.xferTarget t x with
   | some (w, row) => s.rowFilling w row
   | none => false) || x.dst.any (fun l => s.moving l)

def Tile.xfer (tl : Tile) (id : Nat) : Option Xfer := tl.xfers.find? (fun x => x.id == id)

/-- DMA_TRANSFER_COMPLETE (R149, R151, R154): memory or the target has answered; a row for the Inkwell is
written, or waits behind an earlier transfer. -/
def execDmaTransferComplete (t id : Nat) (s : State) : Out :=
  attempt (if s.awake ∧ t < 80 then
    match (s.tile t).xfer id with
    | none => none
    | some x =>
      match (if x.dst.isSome then some 0 else x.answer) with
      | none => none
      | some st =>
        if x.wait ∨ s.landWaits t x then none
        else if st ≠ 0 then some (s.failXfer t x st)
        else if s.xferBlocked t x then
          let tl := s.tile t
          some (s.setTile t { tl with xfers := tl.xfers.map (fun y => if y.id = id then { y with wait := true } else y) })
        else some (s.landXfer t x)
    else none) s

/-- DMA_DELAYED_INK_WRITE (R154): the write that waited is performed. -/
def execDmaDelayedInkWrite (t id : Nat) (s : State) : Out :=
  attempt (if s.awake ∧ t < 80 then
    match (s.tile t).xfer id with
    | none => none
    | some x => if !x.wait ∨ s.landWaits t x ∨ s.xferBlocked t x then none else some (s.landXfer t x)
    else none) s

/-- DMA_LIMIT_WRITE (R151). -/
def execDmaLimitWrite (rq : Requester) (t q : Nat) (v : B32) (s : State) : Out :=
  attempt (if s.awake ∧ t < 80 ∧ q < 8 then
    some (s.guardReg rq (kQcfg t q) (fun s => s.setReg (kQcfg t q) (v &&& 0x3F))) else none) s

end Sys2Proof.Machine
end

