-- ==== Sys2Proof/Machine/Orrek.lean ====
section
/-!
DEFINITION. The commands of Orrek Link (chapter 13): training (Table 13-1), flits with replay and credits
(R427 to R433), and the messages that need no memory access of their own.
-/
namespace Sys2Proof.Machine

/-! ## Port states -/

/-- A port enters a state now; LNK_CTL.retrain reads 1 until the retrain it started has ended (R7). -/
def State.setLnk (s : State) (p st : Nat) : State :=
  let s := if st = lsRetrain then s else s.setBit (kLnk p 4) 1 false
  (s.setFld (kLnk p 8) 0 4 st).setPort p { s.port p with since := s.elapsed.toNat, aligning := false, param := none }

/-- The credit counts, sequence numbers and buffers of a port start afresh (R429, R432). -/
def State.restartPort (s : State) (p : Nat) : State :=
  let pt := s.port p
  let s := s.setPort p { pt with txNext := 0, rxNext := 0, replay := [], resend := [], nak := false, gap := false,
                                 again := 0, rxq := [], rxFlits := [], turn := 0, idleIn := 0 }
  (upTo 6).foldl (fun s v =>
    ((s.setReg (kLnk p (0x44 + 0x10 * v)) 0).setReg (kLnk p (0x48 + 0x10 * v)) 0).setReg (kLnk p (0x4C + 0x10 * v)) 0) s

/-- R441: a device that is not its own home is host-absent once its route to the home fails. -/
def State.homeLost (s : State) (p : Nat) : State :=
  if !s.isHome ∧ s.route s.home = some p ∧ !s.hostAbsent then s.enterAbsent 3 else s

/-- A port has gone down (R439, class 0x12): 0x0A02 is raised and the fault recorded. -/
def State.wentDown (s : State) (p cause : Nat) : State :=
  let s := s.raise 0x0A02 (mkParam [(0, p), (8, cause)])
  let s := s.fault (mkFault 0x12 0 p (mkParam [(8, b2n (s.bit (kLnk p 8) 4))]))
  s.homeLost p

/-- A port goes down to a state, and its messages are handled. -/
def State.portDown (s : State) (p st cause : Nat) : State :=
  (if st = lsFailed then (s.setLnk p st).flushPort p else s.setLnk p st).wentDown p cause

/-- A port is disabled: the messages it holds are handled by R439, and a route to the home over it fails. One that
carried messages goes down, with 0x0A02 and class 0x12; DESIGN CHOICE (log entry 144): cause 0, since Table 13-7 lists
none for it. -/
def State.lnkOff (s : State) (p : Nat) : State :=
  let was := s.portOpen p
  let s := (s.setLnk p lsDisabled).flushPort p
  let s := s.setPort p { s.port p with up := false }
  if was then s.wentDown p 0 else s.homeLost p

/-- LNK_ENABLE (R425, R444): the enable bit is written; an UNUSED port ignores it (R421). -/
def execLnkEnable (rq : Requester) (p : Nat) (on : Bool) (s : State) : Out :=
  attempt (if s.awake ∧ p < 6 then
    some (s.guardReg rq (kLnk p 4) (fun s =>
      let s := s.setBit (kLnk p 4) 0 on
      if s.lnkState p = lsUnused then s
      else if on then (if s.lnkState p = lsDisabled then s.setLnk p lsDetect else s)
      else s.lnkOff p))
    else none) s

/-- A retrain starts: lanes are checked and aligned again, the PARAM result is kept (R425). -/
def State.startRetrain (s : State) (p : Nat) : State :=
  (s.setLnk p lsRetrain).addSat (kLnk p 0x28) 1

/-- LNK_RETRAIN (R424): ignored outside ACTIVE. -/
def execLnkRetrain (rq : Requester) (p : Nat) (s : State) : Out :=
  attempt (if s.awake ∧ p < 6 then
    some (s.guardReg rq (kLnk p 4) (fun s =>
      if s.lnkState p = lsActive then (s.setBit (kLnk p 4) 1 true).startRetrain p else s))
    else none) s

/-- LINK_SIGNAL_DETECT (R425). -/
def execLinkSignalDetect (p lanes : Nat) (s : State) : Out :=
  attempt (if s.awake ∧ p < 6 ∧ s.lnkState p = lsDetect ∧ 8 ≤ lanes then
    some (((s.restartPort p).setLnk p lsLaneCheck).addSat (kLnk p 0x28) 1) else none) s

/-- Working lanes of a direction, lowest number first. -/
def goodLanes (bad : BitVec 17) : List Nat := (upTo 17).filter (fun i => !bad.getLsbD i)

/-- The lanes that carry the logical lanes of a direction, in order (R423). -/
def laneMap (bad : BitVec 17) (half : Bool) : List Nat := (goodLanes bad).take (if half then 8 else 16)

/-- Lane 16 carries a logical lane (R423). -/
def lane16Used (bad : BitVec 17) (half : Bool) : Bool := (laneMap bad half).contains 16

/-- Lanes of a set, lowest first. -/
def lanesOf (x : BitVec 17) : List Nat := (upTo 17).filter (fun i => x.getLsbD i)

/-- LANE_CHECK_DONE (R423, R424): the lanes are mapped at full or half width. A map that differs from the last one in
either direction is reported, with the lowest newly failed lane, else the lowest failed lane, else 0 (DESIGN CHOICE,
log entry 130). Each newly failed lane is a fault of class 0x11, a spare lane in use exhausts class 2, and too few
lanes fail the port. -/
def execLaneCheckDone (p : Nat) (badRx badTx : BitVec 17) (s : State) : Out :=
  attempt (if s.awake ∧ p < 6 ∧ (s.lnkState p = lsLaneCheck ∨ (s.lnkState p = lsRetrain ∧ !(s.port p).aligning)) then
    let bad := badRx ||| badTx
    let pt := s.port p
    let fresh := lanesOf ((badRx &&& ~~~pt.badRx) ||| (badTx &&& ~~~pt.badTx))
    let n := min (goodLanes badRx).length (goodLanes badTx).length
    let half := decide (n < 16)
    let used := lane16Used badRx half || lane16Used badTx half
    let was := s.bit (kLnk p 8) 4
    let moved := laneMap badRx half != laneMap pt.badRx was || laneMap badTx half != laneMap pt.badTx was
    let s := (s.setReg (kLnk p 0x10) (bad.zeroExtend 32)).setPort p { pt with badRx := badRx, badTx := badTx }
    if n < 8 then some (s.portDown p lsFailed 1)
    else
      let newEx := used && s.exhausts 2 p
      let s := (s.setBit (kLnk p 8) 4 half).setBit (kLnk p 8) 5 used
      let lane := (fresh ++ lanesOf bad).headD 0
      let s := if moved then s.raise 0x0A03 (mkParam [(0, p), (8, lane), (16, b2n half)]) else s
      let s := fresh.foldl (fun (s : State) l =>
        s.fault { mkFault 0x11 (if moved ∧ !half then 2 else 0) p (mkParam [(0, l), (8, b2n half)]) with
          degraded := newEx && fresh.head? == some l }) s
      let s := if used then s.exhaust 2 p else s
      some (if s.lnkState p = lsLaneCheck then s.setLnk p lsAlign
            else s.setPort p { s.port p with aligning := true, alignAt := s.elapsed.toNat })
    else none) s

/-- The parameter flit that this end sends (R426). -/
def State.ownParam (s : State) (p : Nat) : ParamFlit :=
  ⟨s.boot.dev, p, s.dimSize 0, s.dimSize 1, s.dimSize 2, BitVec.ofNat 3 (s.fld (kLnk 0 0x100) 15 3),
    s.boot.scroll.topoHash⟩

/-- ALIGN_DONE (R425): on to PARAM, where the own parameter flit goes out (R426), or back to ACTIVE from a retrain
with every kept flit sent again (R429). -/
def execAlignDone (p : Nat) (rtt : BitVec 16) (s : State) : Out :=
  attempt (if s.awake ∧ p < 6 then
    let s1 := s.setReg (kLnk p 0x14) (rtt.zeroExtend 32)
    if s.lnkState p = lsAlign then 
      let s := s1.setLnk p lsParam
      some (s.setPort p { s.port p with param := some (s.ownParam p) })
    else if s.lnkState p = lsRetrain ∧ (s.port p).aligning then
      let s := s1.setLnk p lsActive
      some (s.setPort p { s.port p with resend := (s.port p).replay.map (·.2), again := 0 })
    else none
    else none) s

/-- LINK_STATE_TIMEOUT (R425): an ALIGN or PARAM limit of 100 µs returns the port to DETECT; a retrain that does not
end within 8 µs, or whose alignment does not within 2 µs, fails it. DEDUCED (log entry 144): in a retrain the port is
in RETRAIN, whose row of Table 13-1 leads to FAILED and not to DETECT. -/
def execLinkStateTimeout (p : Nat) (s : State) : Out :=
  attempt (if s.awake ∧ p < 6 then
    let due (us : Nat) : Bool := decide ((s.port p).since + usTicks us ≤ s.elapsed.toNat)
    let alignDue : Bool := (s.port p).aligning && decide ((s.port p).alignAt + usTicks 2 ≤ s.elapsed.toNat)
    if s.lnkState p = lsAlign ∧ due 100 then some (s.portDown p lsDetect 2)
    else if s.lnkState p = lsParam ∧ due 100 then some (s.setLnk p lsDetect)
    else if s.lnkState p = lsRetrain ∧ (due 8 ∨ alignDue) then some (s.portDown p lsFailed 2)
    else none
    else none) s

/-- Why a parameter flit is refused (R426, Table 13-7): 3 the partner's port is UNUSED, 1 wrong neighbour or
port, 2 dimensions, wrap or hash. -/
def State.paramReason (s : State) (p : Nat) (f : ParamFlit) : Option Nat :=
  if s.unusedPort f.dev f.port then some 3
  else if f.dev ≠ s.neighbour s.boot.dev p ∨ f.port ≠ (if p % 2 = 0 then p + 1 else p - 1) then some 1
  else if f.dx ≠ s.dimSize 0 ∨ f.dy ≠ s.dimSize 1 ∨ f.dz ≠ s.dimSize 2 ∨
      f.wrap ≠ BitVec.ofNat 3 (s.fld (kLnk 0 0x100) 15 3) ∨ f.hash ≠ s.boot.scroll.topoHash then some 2
  else none

/-- PARAM_FLIT_RECEIVE (R426). -/
def execParamFlitReceive (p : Nat) (f : ParamFlit) (s : State) : Out :=
  attempt (if s.awake ∧ p < 6 ∧ s.lnkState p = lsParam then
    match s.paramReason p f with
    | some r =>
      some (((s.setLnk p lsMiswired).flushPort p).raise 0x0A04
        (mkParam [(0, p), (8, r), (16, f.dev % 128), (24, f.port % 8)]))
    | none =>
      let s := (s.setLnk p lsActive).setReg (kLnk p 0xC) (BitVec.ofNat 32 (f.dev % 128 + place f.port 7 3 + 2 ^ 10))
      let s := s.setPort p { s.port p with up := true }
      some (s.raise 0x0A01 (mkParam [(0, p), (8, b2n (s.bit (kLnk p 8) 4)), (16, f.dev)]))
    else none) s

/-- LINK_FAILED_RETRY (R425): 100 ms after FAILED. -/
def execLinkFailedRetry (p : Nat) (s : State) : Out :=
  attempt (if s.awake ∧ p < 6 ∧ s.lnkState p = lsFailed ∧ (s.port p).since + msTicks 100 ≤ s.elapsed.toNat then
    some (s.setLnk p lsDetect) else none) s

/-- LANE_ERROR_RETRAIN (R424): a lane has counted lane_thr errors (0 disables), or one flit has been replayed
8 times. -/
def execLaneErrorRetrain (p : Nat) (s : State) : Out :=
  attempt (if s.awake ∧ p < 6 ∧ s.lnkState p = lsActive ∧ (s.fld (kLnk p 4) 16 16 ≠ 0 ∨ 8 ≤ (s.port p).again) then
    some (s.startRetrain p) else none) s

/-- LINK_SIGNAL_LOST (R439): an ACTIVE port goes down with cause 3, to FAILED (log entry 20). -/
def execLinkSignalLost (p : Nat) (s : State) : Out :=
  attempt (if s.awake ∧ p < 6 ∧ s.lnkState p = lsActive then some (s.portDown p lsFailed 3) else none) s

/-! ## Flits -/

/-- Credits a sender holds for a VC (R432). -/
def State.vcCredits (s : State) (p v : Nat) : Nat :=
  s.fld (kLnk p (0x40 + 0x10 * v)) 0 8 - (s.reg (kLnk p (0x44 + 0x10 * v)) - s.reg (kLnk p (0x48 + 0x10 * v))).toNat

/-- The flit of Table 13-2. -/
def State.mkFlit (s : State) (p seq vc : Nat) (chunks : List B64) : BitVec 2048 :=
  let pt := s.port p
  let head := place seq 0 12 + place pt.rxNext 12 12 + place vc 28 3 + place (b2n pt.nak) 31 1
  let creds := (upTo 6).foldl (fun a v => a + place (s.reg (kLnk p (0x4C + 0x10 * v))).toNat (32 + 8 * v) 8) 0
  let body := (upTo chunks.length).foldl (fun a i => a + place (chunks[i]?.getD 0).toNat (96 + 64 * i) 64) 0
  let v := head + creds + body
  BitVec.ofNat 2048 (v + place (crc32 (natToBytes v 252)) 2016 32)

/-- The fields of a flit. -/
def fSeq (f : BitVec 2048) : Nat := bitsOf f.toNat 0 12
def fAck (f : BitVec 2048) : Nat := bitsOf f.toNat 12 12
def fVc (f : BitVec 2048) : Nat := bitsOf f.toNat 28 3
def fNak (f : BitVec 2048) : Bool := bitOf f.toNat 31
def fCred (f : BitVec 2048) (v : Nat) : Nat := bitsOf f.toNat (32 + 8 * v) 8
def fChunks (f : BitVec 2048) : List B64 := (upTo 30).map (fun i => BitVec.ofNat 64 (bitsOf f.toNat (96 + 64 * i) 64))
def fOk (f : BitVec 2048) : Bool := decide (crc32 (natToBytes f.toNat 252) = bitsOf f.toNat 2016 32)

/-- The VC a port takes next: in rotating order, one with data and a credit (R433). -/
def State.nextVc (s : State) (p : Nat) : Option Nat :=
  ((upTo 6).map (fun i => ((s.port p).turn + i) % 6)).find? (fun v =>
    (!(SMap.get noChunks (s.port p).txq v).isEmpty || (s.nextOffer p v).isSome) && decide (0 < s.vcCredits p v))

/-- An idle flit (R430). -/
def State.sendIdle (s : State) (p : Nat) : State :=
  let f := s.mkFlit p 0 7 []
  s.setPort p { s.port p with wire := f, nak := false, idleIn := 0 }

/-- A numbered flit of a VC: up to 30 chunks, kept for replay. -/
def State.sendNumbered (s : State) (p v : Nat) : State :=
  let s := s.fill 10 p v
  let pt := s.port p
  let q := SMap.get noChunks pt.txq v
  let f := s.mkFlit p pt.txNext v ((q.take 30).map (·.1))
  let s := s.setPort p { pt with
    wire := f, nak := false, idleIn := pt.idleIn + 1, txNext := (pt.txNext + 1) % 4096, turn := (v + 1) % 6
    txq := SMap.set noChunks pt.txq v (q.drop 30)
    replay := pt.replay ++ [(pt.txNext, f)] }
  (s.addWrap (kLnk p (0x44 + 0x10 * v)) 1).add64 (kLnk p 0x30) 1

/-- A kept flit sent again, with the ack, nak and credit fields of now (R429, R430). -/
def State.sendAgain (s : State) (p : Nat) (f : BitVec 2048) (rest : List (BitVec 2048)) : State :=
  let pt := s.port p
  (s.setPort p { pt with
    wire := s.mkFlit p (fSeq f) (fVc f) (fChunks f), nak := false, resend := rest, idleIn := pt.idleIn + 1 }).addSat
    (kLnk p 0x24) 1

/-- FLIT_SEND (R429, R430, R433): a flit asked for again, else a numbered flit while the replay buffer has
room, else an idle flit; at least every 2,048th is idle. -/
def execFlitSend (p : Nat) (s : State) : Out :=
  attempt (if s.awake ∧ p < 6 ∧ s.lnkState p = lsActive then
    let pt := s.port p
    if 2047 ≤ pt.idleIn then some (s.sendIdle p)
    else match pt.resend with
      | f :: fs => some (s.sendAgain p f fs)
      | [] =>
        match s.nextVc p with
        | some v => some (if pt.replay.length < 256 then s.sendNumbered p v else s.sendIdle p)
        | none => some (s.sendIdle p)
    else none) s

/-- The ack, nak and credit fields of a good flit (R429, R430, R432). -/
def State.takeControl (s : State) (p : Nat) (f : BitVec 2048) : State :=
  let pt := s.port p
  -- an ack passes the kept flits before it, counted modulo 4,096
  let kept := pt.replay.dropWhile (fun e => decide ((fAck f + 4096 - e.1) % 4096 ≠ 0 ∧ (fAck f + 4096 - e.1) % 4096 ≤ 256))
  let again := if kept.length < pt.replay.length then 0 else pt.again
  let s := s.setPort p { pt with
    replay := kept
    resend := if fNak f then kept.map (·.2) else pt.resend.filter (fun x => kept.any (fun e => e.2 == x))
    again := if fNak f ∧ !kept.isEmpty then again + 1 else again }
  (upTo 6).foldl (fun s v =>
    let k := kLnk p (0x48 + 0x10 * v)
    let old := (s.reg k).toNat
    s.setReg k (BitVec.ofNat 32 (old + (fCred f v + 256 - old % 256) % 256))) s

/-- A flit is discarded and the nak goes out in the next one, once per gap: a flit whose CRC fails is a gap of its own (a
replayed one too), and one out of order is part of the gap that its predecessors left. -/
def State.discardFlit (s : State) (p : Nat) (crcBad : Bool) : State :=
  let pt := s.port p
  if pt.gap && !crcBad then s else s.setPort p { pt with nak := true, gap := true }

/-- FLIT_RECEIVE (R428, R429, R432, R437). -/
def execFlitReceive (p : Nat) (f : BitVec 2048) (s : State) : Out :=
  attempt (if s.awake ∧ p < 6 ∧ s.lnkState p = lsActive then
    if !fOk f then some ((s.addSat (kLnk p 0x20) 1).discardFlit p true)
    else
      let s := s.takeControl p f
      if fVc f = 7 then some s
      else if 6 ≤ fVc f ∨ fSeq f ≠ (s.port p).rxNext then some (s.discardFlit p false)
      else
        let v := fVc f
        let pt := s.port p
        let cs := fChunks f
        let marked := (upTo cs.length).map (fun i => (cs[i]?.getD 0, decide (i + 1 = cs.length)))
        let s := s.setPort p { pt with
          rxNext := (pt.rxNext + 1) % 4096, gap := false
          rxFlits := SMap.set zeroNat pt.rxFlits v (SMap.get zeroNat pt.rxFlits v + 1) }
        let s := s.add64 (kLnk p 0x38) 1
        let s := s.setRx p v (SMap.get noRx (s.port p).rxq v ++ marked) 0
        some (s.forwardAll p v)
    else none) s

/-! ## Messages for this device -/

/-- The message at the front of a VC of its class leaves the buffer, and those behind it go on. -/
def State.takeMsg (s : State) (p kind : Nat) (m : LnkMsg) : Option State :=
  if s.awake ∧ p < 6 ∧ mKind m = kind ∧ mDst m = s.boot.dev then
    let vs := [kindVc kind, kindVc kind + 1]
    match vs.find? (fun v => (frontMsg (SMap.get noRx (s.port p).rxq v)).map (·.1) == some m) with
    | some v =>
      match frontMsg (SMap.get noRx (s.port p).rxq v) with
      | some (_, rest, freed) => some ((s.setRx p v rest freed).forwardAll p v)
      | none => none
    | none => none
  else none

/-- A number of payload bytes. -/
def payNat (m : LnkMsg) (off n : Nat) : Nat := bytesToNat ((m.payload.drop off).take n)

/-- The epoch of this device that a twin device's word names by the primary's number. -/
def State.pairEpoch (s : State) (pipe : Nat) (n : B32) : Option B32 :=
  let own := match (s.pipe pipe).bind with
    | some b => b.primary
    | none => true
  (s.commit.epochs.find? (fun x => x.2.pipe == pipe && (if own then x.1 == n else x.2.peer == some n))).map (·.1)

/-- A WITHDRAW of the twin device: the commit unit here ends its epoch of the pair. The word carries no
status; it is a free value between the two (log entry 24). An epoch already ending is not touched (R256). A pair that
this device, the twin, has not admitted yet is remembered, and ends at its admission (R254). -/
def State.peerWithdraw (s : State) (pipe : Nat) (n : B32) : State :=
  match s.pairEpoch pipe n with
  | some e =>
    if s.epochLive e then
      let st := if (Config.freeWord s.freeIx).getLsbD 0 then 1 else 2
      ({ s with freeIx := s.freeIx + 1 }).endLocal e st
    else s
  | none => if (s.pipe pipe).bind.any (fun b => !b.primary) then s.noteGone pipe n else s

/-- Another pipeline's epoch has the number of one that is withdrawn, so no unit here has admitted it (R245): its waiting
tokens go back as credits and every stage acknowledges at once. -/
def State.withdrawUnseen (s : State) (pipe : Nat) (e : B32) (status : Nat) : State :=
  let p := s.pipe pipe
  let s := s.noteGone pipe e
  let fs := s.commit.flight.filter (fun f => wKind f.word == wToken && wPipe f.word == pipe && wEpoch f.word == e)
  let s := fs.foldl (fun (s : State) f =>
    (s.takeFlight f).tokenArrive p pipe (wSide f.word) (wEdge f.word) (wSlot f.word) e true) s
  (s.localWorkers p).foldl (fun (s : State) k => s.sendFlow (s.unitCode p k.2 k.1) (p.home s.boot.dev)
    (mkWord k.2 pipe k.1 wReport status e) true) s

/-- A WITHDRAW of the commit unit of a pipeline hosted here: it goes to every stage of its side that this device has and
that has not acknowledged one (R254). The status of an acknowledgement is a free value as for a twin's (log entry 24). -/
def State.hostWithdraw (s : State) (pipe : Nat) (side : Bool) (e : B32) : State :=
  let p := s.pipe pipe
  let free := if (Config.freeWord s.freeIx).getLsbD 0 then 1 else 2
  if s.isGone pipe e then s
  else
  let s : State := ({ s with freeIx := s.freeIx + 1 } : State).openHosted pipe e
  match s.epochRec e with
  | none => s
  | some r =>
    if r.pipe ≠ pipe then s.withdrawUnseen pipe e free
    else
      let st := if r.state = .ending then r.status else free
      let w := mkWord 0 pipe side wWithdraw 0 e
      let s := s.setEpoch e { r with state := .ending, cause := st, status := st }
      ((s.localWorkers p).filter (fun k => k.1 == side && !(r.acks.contains k) &&
          !(s.commit.flight.any (fun f => f.word == w && f.stage == k.2)))).foldl
        (fun (s : State) k => s.sendWord p 0x8000 k.2 w) s

/-- LNK_FLOW (R238): the word goes to its unit; the tag marks an acknowledgement (log entry 112). -/
def execLnkFlow (p : Nat) (m : LnkMsg) (s : State) : Out :=
  attempt ((s.takeMsg p 4 m).map (fun s =>
    let w := BitVec.ofNat 64 (payNat m 0 8)
    let pl := s.pipe (wPipe w)
    if wKind w = wWithdraw then
      if pl.hosted s.boot.dev then s.hostWithdraw (wPipe w) (wSide w) (wEpoch w) else s.peerWithdraw (wPipe w) (wEpoch w)
    else
      let stage := if wKind w = wReport then some (wEdge w)
        else (pl.edge (wEdge w)).map (fun e => if wKind w = wToken then e.consumer else e.producer)
      match stage with
      | some st => s.fly ⟨w, st, wKind w == wReport && mTag m == 1⟩
      | none => s)) s

/-- LNK_RSTAT (R182): the row-stat message is on its way to its tile; the message's tag holds the logical
tile and the pipeline it is for (log entry 25). -/
def execLnkRstat (p : Nat) (m : LnkMsg) (s : State) : Out :=
  attempt ((s.takeMsg p 5 m).map (fun s =>
    match s.physOf (bitsOf (mTag m) 0 6) with
    | some t =>
      { s with commit := { s.commit with
          rsFly := s.commit.rsFly ++ [⟨t, bitsOf (mTag m) 8 7, mSide m, BitVec.ofNat 256 (payNat m 0 32)⟩] } }
    | none => s)) s

/-- LNK_CKPT (R442): the checkpoint is on its way to the comparator. -/
def execLnkCkpt (p : Nat) (m : LnkMsg) (s : State) : Out :=
  attempt ((s.takeMsg p 6 m).map (fun s =>
    { s with commit := { s.commit with ckFly := s.commit.ckFly ++ [⟨BitVec.ofNat 128 (payNat m 0 16), 0x7F⟩] } })) s

/-- Byte offset, pipeline, SOURCE port and last of a SOURCE message (Table 13-5). -/
def srcOff (m : LnkMsg) : Nat := bitsOf (mAddr m) 0 32
def srcPipe (m : LnkMsg) : Nat := bitsOf (mAddr m) 32 7
def srcPort (m : LnkMsg) : Nat := bitsOf (mAddr m) 39 3
def srcLast (m : LnkMsg) : Bool := bitOf (mAddr m) 42

/-- The item that a SOURCE message belongs to: pipeline, port and the primary's epoch number in its tag. -/
def partKey (m : LnkMsg) : Nat := (srcPipe m * 8 + srcPort m) * 2 ^ 32 + mTag m

def noBytes : Nat → List Byte := fun _ => []

/-- LNK_SOURCE (R442): the part joins its item; the last message of an item waits for its SOURCE. -/
def execLnkSource (p : Nat) (m : LnkMsg) (s : State) : Out :=
  attempt ((s.takeMsg p 7 m).map (fun s =>
    let k := partKey m
    let old := SMap.get noBytes s.commit.srcPart k
    let pad := old ++ List.replicate (srcOff m - old.length) 0
    let new := pad.take (srcOff m) ++ m.payload ++ pad.drop (srcOff m + m.payload.length)
    { s with commit := { s.commit with
        srcPart := SMap.set noBytes s.commit.srcPart k new
        srcFly := if srcLast m then s.commit.srcFly ++ [m] else s.commit.srcFly } })) s

/-- A response that has come over the link. A host access that was answered on its way with DISCARDED_FAULT says that the
route to the home has failed (R439, R441). -/
def State.responseIn (s : State) (m : LnkMsg) : State :=
  let s := s.takeResponse m
  if mHost m ∧ mStatus m = 1 ∧ !s.isHome ∧ !s.hostAbsent then s.enterAbsent 3 else s

/-- LNK_RDATA (R436, R441). -/
def execLnkRdata (p : Nat) (m : LnkMsg) (s : State) : Out :=
  attempt ((s.takeMsg p 8 m).map (fun s => s.responseIn m)) s

/-- LNK_WACK (R436, R441). -/
def execLnkWack (p : Nat) (m : LnkMsg) (s : State) : Out :=
  attempt ((s.takeMsg p 9 m).map (fun s => s.responseIn m)) s

end Sys2Proof.Machine
end

