-- ==== Sys2Proof/Machine/Epoch.lean ====
section
/-!
DEFINITION. The commands of chapter 07: SIGNAL steps, flow-control words at their units, admission, commit,
withdrawal, twin items and the comparator.
-/
namespace Sys2Proof.Machine

/-! ## SIGNAL steps -/

/-- SIGNAL_STEP_START (R230, R233, R239, R240): it starts and completes at once. -/
def execSignalStepStart (st : StepRef) (s : State) : Out :=
  attempt (match s.stepOf st with
    | some (_, sg, _) =>
      let open_ : Bool := match sg.kind with
        | .tile => (s.tileStep st kSignal).isSome
        | .stem => (s.engineStep st .stem kSignal).any (fun x =>
            !(s.olderOnEngine st .stem kSignal (fun b sd y => b.stemOf sd y.unit == x.2.2.2.stemOf st.side sg.unit)))
        | .spectral => (s.engineStep st .spectral kSignal).any (fun x =>
            !(s.olderOnEngine st .spectral kSignal (fun b sd y => b.spcOf sd y.unit == x.2.2.2.spcOf st.side sg.unit)))
        | _ => false
      if open_ then
        let s1 := s.beginStep st
        some ((if s1.skips st then s1 else s1.markCold st).finishStep st)
      else none
    | none => none) s

/-! ## Units and words -/

/-- A word in flight with its stage. -/
def State.flightOf (s : State) (w : B64) (kind : Nat) : Option Flight :=
  s.commit.flight.find? (fun f => f.word == w && wKind f.word == kind)

/-- The logical tile of a stage is being copied: words to it wait (R244). -/
def State.unitMoves (s : State) (p : Pipe) (stage : Nat) (side : Bool) : Bool :=
  match p.stage stage with
  | some st => st.kind == .tile && (p.logical st side).any (fun l => s.moving l)
  | none => false

/-- Admission to the stage's tile is stopped and the epoch is not resident there: its tokens wait (R244). -/
def State.unitHolds (s : State) (p : Pipe) (stage : Nat) (side : Bool) (e : B32) : Bool :=
  match s.tileOf p stage side with
  | some t => (s.tile t).swap && !(s.tile t).holds e && s.epochLive e
  | none => false

/-- Another pipeline's epoch here has the number of a hosted pipeline's epoch: the token waits, since no two epochs
resident on the device share a number (R245). -/
def State.numberTaken (s : State) (pipe : Nat) (e : B32) : Bool :=
  (s.pipe pipe).hosted s.boot.dev && (s.epochRec e).any (fun r => r.pipe != pipe) && !(s.isGone pipe e)

/-- The stages of bound pipelines on the unit of this device that a stage which is no tile's has: pipeline, side,
stage. -/
def State.engineHosts (s : State) (p : Pipe) (stage : Nat) (side : Bool) : List (Nat × Bool × Nat) :=
  let code := s.unitCode p stage side
  s.pipes.flatMap (fun e => if !e.2.bound then [] else
    e.2.sides.flatMap (fun sd => ((upTo e.2.stages.length).filter (fun i =>
      s.stageDev e.2 i == s.boot.dev && (s.tileOf e.2 i sd).isNone && s.unitCode e.2 i sd == code)).map
        (fun i => (e.1, sd, i))))

/-- The running epochs of a list of pipelines. -/
def State.epochsOf (s : State) (ps : List Nat) : List B32 :=
  ((s.commit.epochs.filter (fun e => ps.contains e.2.pipe)).map (·.1)).filter (fun e => s.epochLive e)

/-- Epochs resident on a stage's unit: a tile's positions, and for another unit every running epoch of a pipeline with a
stage on it. -/
def State.residentOn (s : State) (p : Pipe) (stage : Nat) (side : Bool) : List B32 :=
  match s.tileOf p stage side with
  | some t => ((s.tile t).residents).map (·.epoch)
  | none => s.epochsOf (((s.engineHosts p stage side).map (·.1)).eraseDups)

/-- Every running epoch of the pipelines whose commit unit this device has: the epochs resident on the commit unit. -/
def State.residentHere (s : State) : List B32 :=
  ((s.commit.epochs.filter (fun e => !((s.pipe e.2.pipe).hosted s.boot.dev))).map (·.1)).filter (fun e => s.epochLive e)

/-- The epochs that a word which fails parity discards (R511): the one it names, or all on its receiver. -/
def parityEnds (par : Parity) (named : B32) (all : List B32) : List B32 :=
  match par with
  | .good => []
  | .badWord => [named]
  | .badEpoch => all

/-- R511: class 0x13 with the code of the word's receiver, and the epochs it discards end. The entry names the first of
them with its own pipeline. -/
def State.parityFault (s : State) (code pipe : Nat) (es : List B32) : State :=
  let s := s.fault { mkFault 0x13 1 code 0 with
    epoch := (es.head?).map (fun e => (e, (s.epochRec e).elim pipe (·.pipe))) }
  es.foldl (fun s e => (s.endCause e 1).tryEnd e) s

/-- The waiting epochs of a stage's tile may take free positions. -/
def State.settleUnit (s : State) (p : Pipe) (stage : Nat) (side : Bool) : State :=
  match s.tileOf p stage side with
  | some t => s.settleTile t
  | none => s

/-! ## STAGED (R241, R248) -/

/-- Every SINK holds a token of the epoch on every one of its input edges. -/
def State.sinksHold (s : State) (p : Pipe) (pipe : Nat) (e : B32) : Bool :=
  p.sides.all (fun sd => (upTo p.stages.length).all (fun i =>
    match p.stage i with
    | some st => st.kind != .sink || (p.edgesInto i).all (fun ed => ((s.book (bookKey pipe sd ed)).tokenOf e).isSome)
    | none => true))

/-- A RUNNING epoch whose conditions hold becomes STAGED; an epoch of a pipeline without a stage that runs steps passes
RUNNING at once (log entry 52). -/
def State.checkStaged (s : State) (e : B32) : State :=
  match s.epochRec e with
  | some r =>
    let p := s.pipe r.pipe
    if !(p.hosted s.boot.dev) ∧ (r.state = .running ∨ (r.state = .admitted ∧ p.workers.isEmpty)) ∧
        p.workers.all (fun w => r.oks.contains w) ∧ s.sinksHold p r.pipe e then
      s.setEpoch e { r with state := .staged, stagedAt := s.elapsed.toNat }
    else s
  | none => s

/-! ## Tokens and credits -/

/-- The epoch has ended at a unit: its WITHDRAW has been taken there, or the unit is the commit unit (R254). -/
def State.deadAt (s : State) (pipe stage : Nat) (side : Bool) (e : B32) : Bool :=
  s.isGone pipe e || !s.epochLive e && !(s.commit.flight.any (fun f => wKind f.word == wWithdraw && wEpoch f.word == e &&
    f.stage == stage && wSide f.word == side))

/-- TOKEN_RECEIVE (R240, R241, R254, R511). -/
def execTokenReceive (w : B64) (par : Parity) (s : State) : Out :=
  attempt (match s.flightOf w wToken with
    | none => none
    | some f =>
      let pipe := wPipe w
      let p := s.pipe pipe
      let sd := wSide w
      let e := wEpoch w
      if !s.awake || s.unitMoves p f.stage sd then none
      else
        match par with
        | .badWord | .badEpoch =>
          some ((s.takeFlight f).parityFault (s.unitCode p f.stage sd) pipe (parityEnds par e (s.residentOn p f.stage sd)))
        | .good =>
          if s.unitHolds p f.stage sd e ∨ s.numberTaken pipe e then none
          else
            let s1 := (s.takeFlight f).openHosted pipe e
            let s1 := s1.tokenArrive p pipe sd (wEdge w) (wSlot w) e (s1.deadAt pipe f.stage sd e)
            some (((s1.settleUnit p f.stage sd).checkStaged e).tryEnd e)) s

/-- Intake rings of a pipeline read on when one of its SOURCE slots is free again (R401). -/
def State.sourceFreed (s : State) (pipe : Nat) : State :=
  (upTo 256).foldl (fun s i => match (s.iring i).target with
    | some (.tensor p _) => if p = pipe then s.irNext i else s
    | _ => s) s

/-- CREDIT_RECEIVE (R240, R255, R401, R511). -/
def execCreditReceive (w : B64) (par : Parity) (s : State) : Out :=
  attempt (match s.flightOf w wCredit with
    | none => none
    | some f =>
      let pipe := wPipe w
      let p := s.pipe pipe
      let sd := wSide w
      let e := wEpoch w
      if !s.awake || s.unitMoves p f.stage sd then none
      else
        match par with
        | .badWord | .badEpoch =>
          some ((s.takeFlight f).parityFault (s.unitCode p f.stage sd) pipe (parityEnds par e (s.residentOn p f.stage sd)))
        | .good =>
          let s1 := (s.takeFlight f).creditArrive (bookKey pipe sd (wEdge w)) (wSlot w)
          let src : Bool := match p.stage f.stage with
            | some st => st.kind == .source
            | none => false
          some ((if src then s1.sourceFreed pipe else s1).tryEnd e)) s

/-! ## WITHDRAW (R254) -/

/-- Work of the epoch's stage on a tile stops (R105, R153, R189): runs, the section, descriptors; issued
transfers go on and no longer belong to a step. -/
def State.stopTile (s : State) (t stage : Nat) (side : Bool) (e : B32) : State :=
  let tl := s.tile t
  let mine (st : StepRef) : Bool := st.epoch == e && st.stage == stage && st.side == side
  s.setTile t { tl with
    runs := tl.runs.filter (fun r => !mine r.step)
    sect := if tl.sect.any (fun c => mine c.step) then none else tl.sect
    descs := tl.descs.filter (fun d => !mine d.step)
    xfers := tl.xfers.map (fun x => if mine x.step then { x with gone := true } else x)
    splits := tl.splits.filter (fun x => !mine x.step) }

/-- An engine's step of the epoch is dropped (R207, R218). -/
def Engine.stop (g : Engine) (stage : Nat) (side : Bool) (e : B32) : Engine :=
  if g.run.any (fun r => r.step.epoch == e && r.step.stage == stage && r.step.side == side) then Engine.idle 0 else g

/-- The tile leaves the epoch once every stage of the pipeline on it has taken its WITHDRAW; a stage that was
in its cold-start section loses its residency flag (R144). -/
def State.withdrawTile (s : State) (t pipe stage : Nat) (side cold : Bool) (e : B32) : State :=
  let s := s.stopTile t stage side e
  let tl := s.tile t
  let s := if cold then s.setTile t { tl with flags := tl.flags.filter (· != (pipe, side, stage)) } else s
  let more := s.commit.flight.any (fun f => wKind f.word == wWithdraw && wEpoch f.word == e &&
    (s.hosts t).contains (wPipe f.word, wSide f.word, f.stage))
  if more then s else ((s.leaveTile t e).settleTile t).settleRetire (t / 10)

/-- WITHDRAW_RECEIVE: a unit takes a WITHDRAW for one of its stages and acknowledges it. DESIGN CHOICE (log entry
142): a WITHDRAW that fails parity is a fault of class 0x13 and discards what R511 says; the unit takes it all the
same, since what it asks for is such a discard. -/
def execWithdrawReceive (stage : Nat) (w : FlowWord) (s : State) : Out :=
  attempt (match s.commit.flight.find? (fun f => f.word == w.word && f.stage == stage && wKind f.word == wWithdraw) with
    | none => none
    | some f =>
      let pipe := wPipe w.word
      let p := s.pipe pipe
      let sd := wSide w.word
      let e := wEpoch w.word
      if !s.awake || s.unitMoves p stage sd then none
      else
        let s1 := s.takeFlight f
        let s1 := if w.par = .good then s1
          else s1.parityFault (s.unitCode p stage sd) pipe (parityEnds w.par e (s.residentOn p stage sd))
        let r := (s1.epochRec e).filter (fun r => r.pipe == pipe)
        let s1 := (p.edgesFrom stage).foldl (fun (s : State) ed => s.unwrite pipe sd ed e) s1
        let s1 := (p.edgesInto stage).foldl (fun (s : State) ed => s.returnEpoch p pipe sd ed e) s1
        let s1 := match p.stage stage, p.bind with
          | some st, some b =>
            match st.kind with
            | .tile => match s1.tileOf p stage sd with
              | some t => s1.withdrawTile t pipe stage sd (r.any (fun (x : Epoch) => x.latent.contains (sd, stage))) e
              | none => s1
            | .stem => match b.stemOf sd st.unit with
              | some c => s1.setStem c ((s1.stem c).stop stage sd e)
              | none => s1
            | .spectral => match b.spcOf sd st.unit with
              | some d => s1.setSpc d ((s1.spc d).stop stage sd e)
              | none => s1
            | .aster => s1.freeJournal pipe e
            | _ => s1
          | _, _ => s1
        some (s1.sendAck pipe sd stage (r.elim 2 (fun x => if isFault x.status then 1 else 2)) e)) s

/-! ## Admission (R245 to R247) -/

/-- A sample that ends before admission: its slots come back, its frames are counted, a host sample gets its
one entry. -/
def State.failItem (s : State) (pipe : Nat) (slots : List (Bool × Nat × Nat)) (sm : Sample) (status : Nat) : State :=
  let s := s.unfillSlots pipe slots
  let s := s.dropFrames sm.frames (if isFault status then 4 else 5)
  match sm.iring with
  | some i => s.dueEntry sm.rring { mkEntry status i sm.word sm.tag with iring := some i }
  | none => s

/-- The bytes of a sample that waits in output slots: its descriptors, then the ranges it holds, read as the
commit unit. -/
def State.gather (s : State) (t : SrcTok) : State × Nat × List Byte :=
  t.segs.foldl (fun (acc : State × Nat × List Byte) g =>
    if acc.2.1 ≠ 0 then acc
    else
      let r := acc.1.memAccess ⟨rqCommit, false, g.1, g.2, [], false⟩ none
      (r.1, r.2.1, acc.2.2 ++ r.2.2)) (s, 0, t.head)

/-- The pipeline may admit (R246, R255, R515); a number that a hosted epoch still has is not given again (R245). -/
def State.mayAdmit (s : State) (pipe : Nat) : Bool :=
  let p := s.pipe pipe
  s.awake && p.bound && !p.stopped && !p.held && !(s.bit (kPipe pipe 0) 2) && (s.epochRec s.commit.next).isNone &&
    decide (s.fld (kPipe pipe 0) 3 7 < (p.bind.map (·.maxIn)).getD 0)

def noToks : Nat → List SrcTok := fun _ => []

/-- The lowest SOURCE port that holds a token (log entry 40). -/
def State.readyPort (s : State) (pipe : Nat) : Option (Nat × SrcTok × List SrcTok) :=
  (upTo 8).findSome? (fun port => match SMap.get noToks s.commit.srcq (pipe * 8 + port) with
    | t :: ts => some (port, t, ts)
    | [] => none)

/-- The twin device withdrew the pair before this device admitted its epoch (R254): the epoch ends at once, with a status
that is free as in log entry 24. -/
def State.endEarly (s : State) (pipe : Nat) (e : B32) (peer : Option B32) : State :=
  match peer with
  | some n =>
    if s.commit.gone.contains (pipe, n) then
      ({ s with freeIx := s.freeIx + 1
                commit := { s.commit with gone := s.commit.gone.filter (· != (pipe, n)) } } : State).endLocal e
        (if (Config.freeWord s.freeIx).getLsbD 0 then 1 else 2)
    else s
  | none => s

/-- The item's token leaves its SOURCE: the epoch is numbered and admitted, and its token goes to every
consumer of the port on every side this device runs. -/
def State.admitItem (s : State) (pipe port : Nat) (t : SrcTok) : State :=
  let p := s.pipe pipe
  let e := s.commit.next
  let s := { s with commit := { s.commit with
    next := e + 1
    epochs := s.commit.epochs ++ [(e, Epoch.fresh pipe t.sample port t.peer)] } }
  let s := (s.setReg (kQcx 0x81000) (e + 1)).setFld (kPipe pipe 0) 3 7 (s.fld (kPipe pipe 0) 3 7 + 1)
  (t.slots.foldl (fun s es => s.sendToken p pipe es.1 es.2.1 es.2.2 e) s).endEarly pipe e t.peer

/-- The primary of a device pair forwards the item in SOURCE messages of at most 512 bytes (R247, R442). -/
def State.forwardItem (s : State) (pipe port : Nat) (e : B32) (data : List Byte) : State :=
  match (s.pipe pipe).bind with
  | some b =>
    if (s.pipe pipe).paired && b.twinDevK && b.primary then
      let n := max 1 (ceilDiv data.length 512)
      (upTo n).foldl (fun s i =>
        let part := (data.drop (512 * i)).take 512
        s.sendMsg (mkMsg s.boot.dev b.twinDev 7 true false 0x8000 (ceilDiv part.length 8)
          (place (512 * i) 0 32 + place pipe 32 7 + place port 39 3 + place (b2n (i + 1 == n)) 42 1) e.toNat 0 0 part)) s
    else s
  | none => s

/-- The first data slot of an item. -/
def State.itemAt (s : State) (pipe : Nat) (t : SrcTok) : Option Nat :=
  let p := s.pipe pipe
  t.slots.findSome? (fun es => match p.edge es.2.1 with
    | some x => if x.orderOnly then none else p.slotAddr es.1 es.2.1 es.2.2
    | none => none)

/-- The primary of a device pair forwards the pipeline's items (R247). -/
def Pipe.forwards (p : Pipe) : Bool := p.bind.any (fun b => p.paired && b.twinDevK && b.primary)

/-- The bytes of an item as they stand in its first data slot, read as the commit unit where they are forwarded. -/
def State.itemBytes (s : State) (pipe : Nat) (t : SrcTok) : State × Nat × List Byte :=
  match s.itemAt pipe t with
  | some a =>
    if (s.pipe pipe).forwards ∧ t.len ≠ 0 then s.memAccess ⟨rqCommit, false, a, t.len, [], false⟩ none else (s, 0, [])
  | none => (s, 0, [])

/-- Memory that an admission reads or writes lies in a page that is being copied (R363). -/
def State.admitWaits (s : State) (pipe port : Nat) (t : SrcTok) : Bool :=
  t.segs.any (fun g => s.pageBusy g.1 g.2) || (s.itemAt pipe t).any (fun a => (s.pipe pipe).forwards && s.pageBusy a t.len) ||
    (!(t.head.isEmpty && t.segs.isEmpty) && s.slotsWait pipe ((s.sourceSlots pipe port).getD []) (s.sourceBytes pipe port))

/-- EPOCH_ADMIT (R246): the item of the port's oldest token. A sample that waits in output slots is copied
into SOURCE slots first. -/
def execEpochAdmit (pipe : Nat) (s : State) : Out :=
  attempt (if s.mayAdmit pipe then
    match s.readyPort pipe with
    | none => none
    | some (port, t, ts) =>
      if s.admitWaits pipe port t then none
      else
      let take (s : State) : State :=
        { s with commit := { s.commit with srcq := SMap.set noToks s.commit.srcq (pipe * 8 + port) ts } }
      if t.head.isEmpty ∧ t.segs.isEmpty then
        let e := s.commit.next
        let g := s.itemBytes pipe t
        if g.2.1 ≠ 0 then some ((take g.1).failItem pipe t.slots t.sample g.2.1)
        else some (((take g.1).admitItem pipe port t).forwardItem pipe port e g.2.2)
      else
        match s.sourceSlots pipe port with
        | none => none
        | some slots =>
          let g := s.gather t
          if g.2.1 ≠ 0 then some ((take g.1).failItem pipe [] t.sample g.2.1)
          else if s.sourceBytes pipe port < g.2.2.length then some ((take g.1).failItem pipe [] t.sample stLen)
          else
            let s1 := g.1.fillSlots pipe slots
            let w := s1.writeSlots pipe slots g.2.2
            if w.2 ≠ 0 then some ((take w.1).failItem pipe slots t.sample w.2)
            else
              let e := s.commit.next
              some (((take w.1).admitItem pipe port { t with slots := slots }).forwardItem pipe port e g.2.2)
    else none) s

/-! ## Twin items (R247, R442) -/

/-- The identity that an item of a twin device carries: that of its descriptor where it begins with one, of an
alignment group's descriptors the OR of their flags and the first present member's time (Table 10-5), else a free
value; the primary's device counts its frames (log entry 41). -/
def State.twinSample (s : State) (kind : SrcKind) (data : List Byte) : State × Sample :=
  let f (off n : Nat) : Nat := bytesToNat ((data.drop off).take n)
  match kind with
  | .iris => (s, ⟨0, mkParam [(0, f 0 1), (4, f 1 1), (8, f 4 2), (24, f 8 4)], [], none, 0, 0, 0,
      BitVec.ofNat 16 (f 6 2), BitVec.ofNat 64 (f 16 8)⟩)
  | .group =>
    let ms := upTo ((s.alignRec (f 37 1)).elim 1 (fun a => a.streams.length))
    let fl (i : Nat) : Nat := f (64 * i + 6) 2
    let first := (ms.find? (fun i => !(bitOf (fl i) fPLACEHOLDER))).getD 0
    (s, ⟨1, groupWord (f 37 1) (BitVec.ofNat 32 (f 40 4)), [], none, 0, 0, 0,
      BitVec.ofNat 16 (ms.foldl (fun a i => a ||| fl i) 0), BitVec.ofNat 64 (f (64 * first + 16) 8)⟩)
  | _ => ({ s with freeIx := s.freeIx + 1 }, ⟨2, Config.freeWord s.freeIx, [], none, 0, 0, 0, 0, s.timeNs⟩)

/-- SOURCE_RECEIVE: the last SOURCE message of an item has come; the item goes into SOURCE slots and its
token waits for admission under the twin's own number. -/
def execSourceReceive (pipe : Nat) (m : LnkMsg) (s : State) : Out :=
  attempt (if s.awake ∧ srcPipe m = pipe ∧ s.commit.srcFly.contains m ∧ (s.pipe pipe).bound then
    let port := srcPort m
    match s.sourceSlots pipe port, (s.pipe pipe).bind with
    | some slots, some b =>
      let k := partKey m
      let data := SMap.get noBytes s.commit.srcPart k
      let s1 := { s with commit := { s.commit with
        srcFly := s.commit.srcFly.erase m, srcPart := SMap.set noBytes s.commit.srcPart k [] } }
      let kind := (b.sources[port]?).elim .none (·.kind)
      let x := s1.twinSample kind data
      if (s.pipe pipe).stopped then some (x.1.completeStopped pipe [] x.2)
      else if s.slotsWait pipe slots data.length then none
      else
        let w := (x.1.fillSlots pipe slots).writeSlots pipe slots data
        if w.2 ≠ 0 then some (w.1.failItem pipe slots x.2 w.2)
        else some (w.1.pushSource pipe port ⟨slots, x.2, [], [], data.length, some (BitVec.ofNat 32 (mTag m))⟩)
    | _, _ => none
    else none) s

/-! ## Commit (R250, R251) -/

/-- No checkpoint of the epoch is outstanding or on its way (R262). -/
def State.twinsAgree (s : State) (e : B32) (r : Epoch) : Bool :=
  r.ckpts.isEmpty && s.commit.ckFly.all (fun m => m.tile == 0x7F || bitsOf m.bits.toNat 32 32 != e.toNat)

/-- On a twin device the comparator is the primary's. DESIGN CHOICE (log entry 72): every comparison of the epoch pair has
agreed once 89 µs have passed since the last checkpoint was sent, the 76 µs of a timeout, the 12 µs of a decision (R261)
and 1 µs for the WITHDRAW. -/
def State.peerAgrees (s : State) (r : Epoch) : Bool :=
  r.lastCk.all (fun t => decide (t + usTicks 89 ≤ s.elapsed.toNat))

/-- The commit conditions of R250. -/
def State.mayCommit (s : State) (e : B32) (r : Epoch) : Bool :=
  r.state == .staged && s.twinsAgree e r && s.peerAgrees r &&
    ((s.pipe r.pipe).asterStage.isNone || !(s.commit.epochs.any (fun x => x.2.pipe == r.pipe && olderThan x.1 e)))

/-- Epochs commit in completion order, and of those staged in one cycle the oldest first (R27, R250). -/
def State.firstStaged (s : State) (e : B32) (r : Epoch) : Bool :=
  s.commit.epochs.all (fun x => !(s.mayCommit x.1 x.2) || decide (r.stagedAt < x.2.stagedAt) ||
    (r.stagedAt == x.2.stagedAt && !(olderThan x.1 e)))

/-- The input edge whose slot a SINK delivers. -/
def Pipe.sinkEdge (p : Pipe) (stage : Nat) : Option (Nat × Edge) :=
  (p.edgesInto stage).findSome? (fun i => match p.edge i with
    | some e => if e.orderOnly then none else some (i, e)
    | none => none)

/-- Where the payload of a SINK stands, and how many bytes it has (R408). -/
def State.sinkAt (s : State) (p : Pipe) (pipe stage : Nat) (side : Bool) (e : B32) : Option (Nat × Nat) :=
  match p.sinkEdge stage with
  | none => none
  | some (i, x) =>
    match (s.book (bookKey pipe side i)).tokenOf e with
    | none => none
    | some slot => (p.slotAddr side i slot).map (fun a =>
        let aster := (p.stage x.producer).any (fun st => st.kind == .aster)
        (a, if aster then 64 + 32 * s.memNat (a + 4) 4 else x.slotBytes))

/-- The payload of a SINK. -/
def State.sinkBytes (s : State) (p : Pipe) (pipe stage : Nat) (side : Bool) (e : B32) : List Byte :=
  (s.sinkAt p pipe stage side e).elim [] (fun x => s.mem.hbm.readBytes x.1 x.2)

/-- The bound SINK stages of the delivering side. -/
def Pipe.boundSinks (p : Pipe) : List (Nat × Nat × SinkBind) :=
  (upTo p.stages.length).filterMap (fun i => match p.stage i, p.bind with
    | some st, some b =>
      if st.kind = .sink then (b.sinks[st.unit]?).bind (fun k => if k.bound then some (i, st.unit, k) else none) else none
    | _, _ => none)

/-- The commit unit reads the payloads of the bound SINKs. DESIGN CHOICE (log entry 131): it reads them before the epoch
enters COMMITTING, so that a read that fails still ends the epoch (R252, R361, R376). -/
def State.readSinks (s : State) (p : Pipe) (pipe : Nat) (e : B32) : State × Nat :=
  s.memReads rqCommit (some (e, pipe)) (p.boundSinks.flatMap (fun k =>
    (s.sinkAt p pipe k.1 false e).elim [] (fun x => pieces x.1 x.2)))

/-- A payload, or the place of an output-index entry, lies in a page that is being copied (R363). -/
def State.sinksWait (s : State) (p : Pipe) (pipe : Nat) (e : B32) : Bool :=
  p.boundSinks.any (fun k => s.pageBusy k.2.2.index 64 ||
    (s.sinkAt p pipe k.1 false e).any (fun x => s.pageBusy x.1 x.2))

/-- Act 2: the output-index entry at each bound SINK's base. Its size and contents the manual does not give:
64 free bytes (log entry 42). -/
def State.writeIndex (s : State) (p : Pipe) : State :=
  p.boundSinks.foldl (fun s k =>
    let bytes := freeBytes s.freeIx 64
    (({ s with freeIx := s.freeIx + 8 }).memAccess ⟨rqCommit, true, k.2.2.index, 0, bytes, false⟩ none).1) s

/-- Act 3: the records of every bound SINK go to its ring; each entry of a host sample counts among those open for its
intake ring (R399, R400). -/
def State.releaseRecords (s : State) (p : Pipe) (pipe : Nat) (e : B32) (sm : Sample) : State :=
  let ks := p.boundSinks
  let s := match sm.iring with
    | some i => s.setIring i { s.iring i with open_ := (s.iring i).open_ + ks.length - 1 }
    | none => s
  (upTo ks.length).foldl (fun s n => match ks[n]? with
    | some k =>
      let bytes := s.sinkBytes p pipe k.1 false e
      s.dueEntry k.2.2.ring ⟨1, 0, 1, false, sm.kind, sm.word, pipe, k.2.1, 0, if sm.kind = 2 then sm.tag else 0, 0,
        bytes, sm.iring, some (pipe, 0, k.1, e)⟩
    | none => s) s

/-- SINK slots that no record holds are freed: unbound SINKs, and the sides that do not deliver (R251). -/
def State.freeSinks (s : State) (p : Pipe) (pipe : Nat) (e : B32) : State :=
  p.sides.foldl (fun s sd => (upTo p.stages.length).foldl (fun s i => match p.stage i with
    | some st =>
      if st.kind = .sink ∧ !(!sd && p.boundSinks.any (fun k => k.1 == i)) then
        (p.edgesInto i).foldl (fun s ed => s.returnEpoch p pipe sd ed e) s
      else s
    | none => s) s) s

/-- A staged count is added (R249, R251). -/
def State.addCount (s : State) (c : StagedCount) : State :=
  match c.kind with
  | .wrap => s.addWrap c.key c.amt
  | .sat => s.addSat c.key c.amt
  | .wide => s.add64 c.key c.amt

/-- Clamp counts summed by tile and slot. -/
def sumClamps : List StagedClamp → List StagedClamp → List StagedClamp
  | acc, [] => acc
  | acc, c :: cs =>
    if acc.any (fun x => x.tile == c.tile && x.slot == c.slot) then
      sumClamps (acc.map (fun x => if x.tile = c.tile ∧ x.slot = c.slot then { x with amt := x.amt + c.amt } else x)) cs
    else sumClamps (acc ++ [c]) cs

/-- Act 4: the staged counts; only the primary side's tiles raise 0x0B01 (R73, R77). -/
def State.addStaged (s : State) (p : Pipe) (pipe : Nat) (r : Epoch) : State :=
  let s := r.counts.foldl (fun s c => s.addCount c) s
  (sumClamps [] r.clamps).foldl (fun s c =>
    let primary := !p.paired || (s.hosts c.tile).any (fun h => h.1 == pipe && !h.2.1)
    s.satCommit c.tile c.slot c.amt primary) s

/-- Tiles of this device that hold the epoch. -/
def State.tilesOf (s : State) (e : B32) : List Nat := (upTo 80).filter (fun t => (s.tile t).holds e)

/-- Stages that ran their cold-start section are resident from now on (R144). -/
def State.setFlags (s : State) (p : Pipe) (pipe : Nat) (l : List (Bool × Nat)) : State :=
  l.foldl (fun s x => match s.tileOf p x.2 x.1 with
    | some t =>
      let tl := s.tile t
      if tl.flags.contains (pipe, x.1, x.2) then s else s.setTile t { tl with flags := tl.flags ++ [(pipe, x.1, x.2)] }
    | none => s) s

/-- They are told that an epoch has committed (log entry 112). -/
def State.tellCommit (s : State) (p : Pipe) (pipe : Nat) (e : B32) : State :=
  (s.hostDevs p).foldl (fun (s : State) d =>
    s.sendCtrl 0x8000 d ctrlCommit (natToBytes pipe 4 ++ natToBytes e.toNat 4)) s

/-- The acts of R251 and what follows: the epoch leaves the tiles and the commit unit. -/
def State.commitEpoch (s : State) (e : B32) (r : Epoch) : State :=
  let p := s.pipe r.pipe
  let s := s.commitJournal r.pipe e
  let deliver := p.sides.contains false
  let s := if deliver then (s.writeIndex p).releaseRecords p r.pipe e r.sample else s
  let s := s.freeSinks p r.pipe e
  let s := s.addStaged p r.pipe r
  let s := s.setFlags p r.pipe r.latent
  let ts := s.tilesOf e
  let s := (s.dropEpoch e).addWrap (kPipe r.pipe 4) 1
  let s := s.setFld (kPipe r.pipe 0) 3 7 (s.fld (kPipe r.pipe 0) 3 7 - 1)
  let s := ts.foldl (fun s t => ((s.leaveTile t e).settleTile t).settleRetire (t / 10)) s
  (s.tellCommit p r.pipe e).boundary p

/-- EPOCH_COMMIT (R250, R251): COMMITTING and COMMITTED in one step, once the payloads of the SINKs have been read; an
epoch whose payload cannot be read is ended. -/
def execEpochCommit (e : B32) (s : State) : Out :=
  attempt (match s.epochRec e with
    | some r =>
      let p := s.pipe r.pipe
      let deliver := p.sides.contains false
      if s.awake ∧ s.mayCommit e r ∧ s.firstStaged e r ∧ !(deliver && s.sinksWait p r.pipe e) then
        let x := if deliver then s.readSinks p r.pipe e else (s, 0)
        some (if x.2 = 0 then x.1.commitEpoch e r else x.1.endCause e (if isFault x.2 then 1 else 2))
      else none
    | none => none) s

/-! ## REPORT (R241, R255) -/

/-- The commit unit of a pipeline hosted here has committed an epoch (log entry 112): its staged counts are added, its
stages are resident from now on, and it leaves its tiles. -/
def State.hostCommit (s : State) (pipe : Nat) (e : B32) : State :=
  match (s.epochRec e).filter (fun r => r.pipe == pipe) with
  | none => s
  | some r =>
    let p := s.pipe pipe
    let s := (s.addStaged p pipe r).setFlags p pipe r.latent
    let ts := s.tilesOf e
    let s := ts.foldl (fun (s : State) t => ((s.leaveTile t e).settleTile t).settleRetire (t / 10)) (s.dropEpoch e)
    s.boundary p

/-- An acknowledgement of a WITHDRAW by a stage is counted. -/
def State.countAck (s : State) (e : B32) (r : Epoch) (key : Bool × Nat) : State :=
  (s.setEpoch e { r with acks := if r.acks.contains key then r.acks else r.acks ++ [key] }).tryEnd e

/-- A REPORT on a hosting device goes on to the commit unit at once; an acknowledgement counts here towards the end of
the device's part, with which it goes on. -/
def State.hostReport (s : State) (p : Pipe) (e : B32) (r : Epoch) (f : Flight) : State :=
  let w := f.word
  if f.ack then (if r.state = .ending then s.countAck e r (wSide w, wEdge w) else s)
  else s.sendFlow (s.unitCode p (wEdge w) (wSide w)) (p.home s.boot.dev) w false

/-- A REPORT at the commit unit: OK counts towards STAGED, a failing status is an end cause, also of an epoch that is
ending already (R256), and an acknowledgement counts towards its end (R255). -/
def State.homeReport (s : State) (e : B32) (r : Epoch) (f : Flight) : State :=
  let key := (wSide f.word, wEdge f.word)
  if f.ack then (if r.state = .ending then s.countAck e r key else s)
  else if wSlot f.word = 0 then
    ((s.setEpoch e { r with oks := if r.oks.contains key then r.oks else r.oks ++ [key] }).checkStaged e).tryEnd e
  else s.endCause e (if isFault (wSlot f.word) then 1 else 2)

/-- REPORT_RECEIVE (R241, R255, R256). DESIGN CHOICE (log entry 142): of a REPORT that fails parity only what
acknowledges a WITHDRAW is kept. -/
def execReportReceive (w : FlowWord) (s : State) : Out :=
  attempt (match s.flightOf w.word wReport with
    | none => none
    | some f =>
      if !s.awake then none
      else
        let s1 := s.takeFlight f
        let e := wEpoch w.word
        let pipe := wPipe w.word
        let p := s.pipe pipe
        let s1 := if w.par = .good then s1 else s1.parityFault 0x8000 pipe (parityEnds w.par e s1.residentHere)
        if w.par ≠ .good ∧ !f.ack then some s1
        else match (s1.epochRec e).filter (fun r => r.pipe == pipe) with
        | none => some s1
        | some r => some (if p.hosted s.boot.dev then s1.hostReport p e r f else s1.homeReport e r f)) s

/-! ## The comparator (R259 to R262) -/

def ckPipe (c : BitVec 128) : Nat := bitsOf c.toNat 0 7
def ckSide (c : BitVec 128) : Bool := bitOf c.toNat 7
def ckStage (c : BitVec 128) : Nat := bitsOf c.toNat 8 6
def ckStep (c : BitVec 128) : Nat := bitsOf c.toNat 16 16
def ckEpoch (c : BitVec 128) : B32 := BitVec.ofNat 32 (bitsOf c.toNat 32 32)
def ckCrc (c : BitVec 128) : B64 := BitVec.ofNat 64 (bitsOf c.toNat 64 64)

/-- The epoch a checkpoint belongs to here. A twin device names its own number: the pair's, or, for a number
not seen before, that of the pipeline's oldest epoch without a partner (log entry 43). -/
def State.ckptEpoch (s : State) (m : CkMsg) : Option B32 :=
  let pipe := ckPipe m.bits
  let n := ckEpoch m.bits
  if m.tile ≠ 0x7F then (s.epochRec n).map (fun _ => n)
  else
    let es := s.commit.epochs.filter (fun x => x.2.pipe == pipe)
    match es.find? (fun x => x.2.peer == some n) with
    | some x => some x.1
    | none => (oldest ((es.filter (fun x => x.2.peer.isNone)).map (fun x => (⟨pipe, false, x.1⟩ : Resident)))).map (·.epoch)

/-- CHECKPOINT_RECEIVE (R259): a checkpoint stands at the comparator; one of an epoch that is ending or gone
is dropped. -/
def execCheckpointReceive (c : BitVec 128) (s : State) : Out :=
  attempt (match s.commit.ckFly.find? (fun m => m.bits == c) with
    | none => none
    | some m =>
      if !s.awake then none
      else
        let s1 := { s with commit := { s.commit with ckFly := s.commit.ckFly.erase m } }
        match s1.ckptEpoch m with
        | none => some s1
        | some e =>
          match s1.epochRec e with
          | none => some s1
          | some r =>
            if !s1.epochLive e then some s1
            else some (s1.setEpoch e { r with
              peer := if m.tile = 0x7F then some (ckEpoch c) else r.peer
              ckpts := r.ckpts ++ [(⟨ckSide c, ckStage c, ckStep c, ckCrc c, s.elapsed.toNat, m.tile⟩ : Ckpt)] })) s

/-- The checkpoints of one stage and step. -/
def Epoch.ckptsAt (r : Epoch) (stage step : Nat) : List Ckpt := r.ckpts.filter (fun c => c.stage == stage && c.step == step)

/-- A tile is due for an out-of-turn test (R518). -/
def State.dueTest (s : State) (t : Nat) : State :=
  let c := s.cluster (t / 10)
  if c.due.contains t ∨ (s.tile t).failed then s else s.setCluster (t / 10) { c with due := c.due ++ [t] }

/-- The comparator's word of a twin fault at a twin device (log entry 141): the tile of the stage is due for a test, and a
checkpoint it sent counts in TIL_SIG_MISM. -/
def State.twinTold (s : State) (pipe stage : Nat) (sent : Bool) : State :=
  let p := s.pipe pipe
  match s.tileOf p stage (p.sides.headD false) with
  | some t => (if sent then s.addSat (kTil t 0x70C) 1 else s).dueTest t
  | none => s

/-- A twin fault (R262, R267, R518, Table 17-8): counted at the tiles, the pair discarded, 0x0B03 raised, the fault
recorded, both tiles due for a test; a twin device is told of its own. -/
def State.twinFault (s : State) (pipe : Nat) (e : B32) (stage step : Nat) (timeout : Bool) : State :=
  match s.epochRec e with
  | none => s
  | some r =>
    let p := s.pipe pipe
    let cs := r.ckptsAt stage step
    let tileAt (sd : Bool) : Nat := match cs.find? (fun c => c.side == sd) with
      | some c => c.tile
      | none => if p.sides.contains sd then (s.tileOf p stage sd).getD 0x7F else 0x7F
    let dev := match p.bind with
      | some b => if b.twinDevK then b.twinDev else s.boot.dev
      | none => s.boot.dev
    let s := s.setEpoch e { r with ckpts := r.ckpts.filter (fun c => !(c.stage == stage && c.step == step)) }
    let s := cs.foldl (fun (s : State) c => if c.tile = 0x7F then s else s.addSat (kTil c.tile 0x70C) 1) s
    let s := s.endCause e 1
    let s := s.raise 0x0B03 (mkParam [(0, pipe), (7, b2n timeout), (8, stage), (16, step), (32, e.toNat)])
    let s := s.fault { mkFault (if timeout then 2 else 1) 1 (tileAt false)
        (mkParam [(0, tileAt true % 128), (8, dev), (16, stage), (32, step)]) with epoch := some (e, pipe) }
    let s := ([tileAt false, tileAt true].filter (fun t => decide (t < 80))).foldl (fun (s : State) t => s.dueTest t) s
    if dev = s.boot.dev then s
    else s.sendCtrl 0x8000 dev ctrlTwin
      (natToBytes pipe 1 ++ natToBytes stage 1 ++ natToBytes (b2n (cs.any (fun c => c.tile == 0x7F))) 6)

/-- TWIN_DECIDE (R261): equal CRCs agree; a difference is a twin mismatch. -/
def execTwinDecide (pipe : Nat) (e : B32) (stage step : Nat) (s : State) : Out :=
  attempt (match s.epochRec e with
    | some r =>
      let cs := r.ckptsAt stage step
      match cs.find? (fun c => !c.side), cs.find? (fun c => c.side) with
      | some a, some b =>
        if s.awake ∧ r.pipe = pipe then
          some (if a.crc = b.crc then
              s.setEpoch e { r with ckpts := (r.ckpts.erase a).erase b }
            else s.twinFault pipe e stage step false)
        else none
      | _, _ => none
    | none => none) s

/-- TWIN_TIMEOUT (R261): 76 µs after a checkpoint its partner has not arrived. -/
def execTwinTimeout (pipe : Nat) (e : B32) (stage step : Nat) (s : State) : Out :=
  attempt (match s.epochRec e with
    | some r =>
      match r.ckptsAt stage step with
      | [c] => if s.awake ∧ r.pipe = pipe ∧ c.at_ + usTicks 76 ≤ s.elapsed.toNat then
          some (s.twinFault pipe e stage step true) else none
      | _ => none
    | none => none) s

end Sys2Proof.Machine
end

