-- ==== Sys2Proof/Machine/Books.lean ====
section
/-!
DEFINITION. The audit of the books (R263 to R266), its fault (R265), the restoration (R518) and the snap of an
edge end (R268).
-/
namespace Sys2Proof.Machine

/-! ## What a cluster audits -/

/-- The tile of a stage's unit as events name it. -/
def State.endTile (s : State) (p : Pipe) (stage : Nat) (side : Bool) : Nat := (s.tileOf p stage side).getD 0x7F

/-- A stage's unit is not under a spare swap (R263). -/
def State.settled (s : State) (p : Pipe) (stage : Nat) (side : Bool) : Bool :=
  match s.tileOf p stage side with
  | some t => !(s.tile t).swap && !(s.unitMoves p stage side)
  | none => true

/-- A stage of this cluster whose tile is not under a swap (R263). -/
def State.audited (s : State) (c : Nat) (p : Pipe) (stage : Nat) (side : Bool) : Bool :=
  (s.clusterOf p stage side == some c) && s.settled p stage side

/-- The stage that stands for the words of an edge: DESIGN CHOICE (log entry 113), since TS - TR and CS - CR span both
ends, the producer where its unit lies on a cluster of this device, else the consumer; an edge to a peer device is judged
at its producer. -/
def State.spanStage (s : State) (p : Pipe) (x : Edge) (side : Bool) : Option Nat :=
  if s.stageDev p x.producer == s.boot.dev then
    some (if (s.clusterOf p x.producer side).isSome || s.stageDev p x.consumer != s.boot.dev then x.producer else x.consumer)
  else none

/-- The relations of the edge ends on the cluster. The words between two ends are judged while neither end is under a
swap. -/
def State.edgeRels (s : State) (c : Nat) : List Rel :=
  s.pipes.flatMap (fun e =>
    if !e.2.bound then [] else
    e.2.sides.flatMap (fun sd => (upTo e.2.edges.length).flatMap (fun i => match e.2.edge i with
      | some x =>
        (if s.audited c e.2 x.producer sd then [Rel.producer e.1 sd i] else []) ++
        (if s.audited c e.2 x.consumer sd then [Rel.consumer e.1 sd i] else []) ++
        (match s.spanStage e.2 x sd with
         | some k =>
           if s.clusterOf e.2 k sd == some c && s.settled e.2 x.producer sd && s.settled e.2 x.consumer sd then
             [Rel.flight e.1 sd i]
           else []
         | none => [])
      | none => [])))

/-- Every relation that the cluster audits, in the order of Table 07-9. Link credits are audited with cluster 0 (log entry
44). -/
def State.clusterRels (s : State) (c : Nat) : List Rel :=
  let ts := ((upTo 10).map (fun i => 10 * c + i)).filter (fun t => !(s.tile t).failed && !(s.tile t).swap)
  s.edgeRels c ++
  (if c = 0 then (upTo 6).flatMap (fun p => (upTo 6).map (fun v => Rel.credits p v)) else []) ++
  ts.map Rel.rows ++ ts.flatMap (fun t => (upTo 8).map (fun q => Rel.queue t q)) ++ ts.map Rel.stats

/-- The relations of Table 07-9 at the two ends of an edge. -/
def Book.producerOk (b : Book) (slots : Nat) : Bool :=
  decide ((BitVec.ofNat 32 (b.h + b.w) : B32) + (b.ts - b.cr) = BitVec.ofNat 32 slots)
def Book.consumerOk (b : Book) : Bool := decide ((BitVec.ofNat 32 (b.k + b.rd) : B32) = b.tr - b.cs)

/-- A word of the edge is in flight. -/
def Book.inflight (b : Book) : Bool := b.ts != b.tr || b.cs != b.cr

/-- More words of the edge have been received than sent: no window of R244 allows it. -/
def Book.overdrawn (b : Book) : Bool := decide ((b.ts - b.tr).toInt < 0) || decide ((b.cs - b.cr).toInt < 0)

/-- The stage windows of a tile are disjoint and powered (Table 07-9). -/
def State.rowsOk (s : State) (t : Nat) : Bool :=
  let ws := (s.hosts t).filterMap (fun h => (s.pipe h.1).stage h.2.2)
  (upTo ws.length).all (fun i => match ws[i]? with
    | some a => (upTo 8).all (fun sl => !a.usesSlice sl || s.sliceOn t sl) &&
        (upTo i).all (fun j => match ws[j]? with
          | some b => !(spansMeet a.inkRow a.inkRows b.inkRow b.inkRows)
          | none => true)
    | none => true)

/-- A queue of the tile holds no more transfers than the largest limit in force at the issue of one of them (R243). -/
def State.queueOk (s : State) (t q : Nat) : Bool :=
  let xs := (s.tile t).xfers.filter (fun x => x.queue == q)
  decide (xs.length ≤ (xs.map (·.limit)).foldl max 0)

/-- Row-stat entries that are not idle belong to the half of a resident epoch. -/
def State.statsOk (s : State) (t : Nat) : Bool :=
  let tl := s.tile t
  tl.rstats.all (fun x => if x.1 / 4096 = 0 then tl.res0.isSome else tl.res1.isSome)

/-- The checks of R432 for a virtual channel: as a sender, no more flits in flight than the partner has buffers, by the
freed count that its credits have told last (DESIGN CHOICE, log entry 44: with it FREED - CRED is 0); as a receiver, the
occupied buffers are the flits received less those freed. -/
def State.creditsOk (s : State) (p v : Nat) : Bool :=
  let k := kLnk p (0x40 + 0x10 * v)
  let held : B32 := BitVec.ofNat 32 (SMap.get zeroNat (s.port p).rxFlits v) - s.reg (k + 0xC)
  decide ((s.reg (k + 4) - s.reg (k + 8)).toNat ≤ s.fld k 0 8) &&
  decide (((SMap.get noRx (s.port p).rxq v).filter (·.2)).length = held.toNat)

/-- The words between the ends of an edge to a peer device, by the counters that device has told in answer to this end's
present ones (log entry 113): lost or overdrawn. -/
def Book.farFails (b : Book) (now : Nat) : Bool :=
  b.far.any (fun f => f.ownTok == b.ts && f.ownCred == b.cr &&
    (decide ((b.ts - f.tok).toInt < 0) || decide ((f.cred - b.cr).toInt < 0) ||
      ((b.ts != f.tok || f.cred != b.cr) && decide (b.changed + usTicks 10 ≤ now) && decide (f.changed + usTicks 10 ≤ now))))

/-- What the peer has told differs from this end's counters. -/
def Book.farDiffers (b : Book) : Bool := b.far.any (fun f => b.ts != f.tok || f.cred != b.cr)

/-- The consumer of an edge lies on another device. -/
def State.crossEdge (s : State) (pipe e : Nat) : Bool :=
  ((s.pipe pipe).edge e).any (fun x => s.stageDev (s.pipe pipe) x.producer == s.boot.dev &&
    s.stageDev (s.pipe pipe) x.consumer != s.boot.dev)

/-- A word of an edge is in flight, or may be. -/
def State.edgeOpen (s : State) (pipe : Nat) (side : Bool) (e : Nat) : Bool :=
  let b := s.book (bookKey pipe side e)
  if s.crossEdge pipe e then b.farDiffers else b.inflight

/-- A relation fails now. Words in flight fail once nothing has changed for 10 µs (R264). -/
def State.relFails (s : State) : Rel → Bool
  | .producer p sd e => ((s.pipe p).edge e).any (fun x => !(s.book (bookKey p sd e)).producerOk x.slots)
  | .consumer p sd e => !(s.book (bookKey p sd e)).consumerOk
  | .flight p sd e =>
    let b := s.book (bookKey p sd e)
    if s.crossEdge p e then b.farFails s.elapsed.toNat
    else b.overdrawn || (b.inflight && decide (b.changed + usTicks 10 ≤ s.elapsed.toNat))
  | .credits p v => !(s.creditsOk p v)
  | .rows t => !(s.rowsOk t)
  | .queue t q => !(s.queueOk t q)
  | .stats t => !(s.statsOk t)

/-! ## The failing end -/

/-- The stage at the failing end of an edge, with its pipeline and side. -/
def State.relEnd (s : State) : Rel → Option (Nat × Bool × Nat)
  | .producer p sd e => ((s.pipe p).edge e).map (fun x => (p, sd, x.producer))
  | .consumer p sd e => ((s.pipe p).edge e).map (fun x => (p, sd, x.consumer))
  | .flight p sd e => (((s.pipe p).edge e).bind (fun x => s.spanStage (s.pipe p) x sd)).map (fun k => (p, sd, k))
  | _ => none

/-- The physical tile of the failing end, 0x7F where it is none. -/
def State.relTile (s : State) (r : Rel) : Nat :=
  match r with
  | .rows t | .queue t _ | .stats t => t
  | .credits _ _ => 0x7F
  | r => (s.relEnd r).elim 0x7F (fun x => s.endTile (s.pipe x.1) x.2.2 x.2.1)

/-- The stages at the failing end: those of its tile, or of its engine. -/
def State.relHosts (s : State) (r : Rel) : List (Nat × Bool × Nat) :=
  if s.relTile r < 80 then s.hosts (s.relTile r)
  else match s.relEnd r with
    | some x => s.engineHosts (s.pipe x.1) x.2.2 x.2.1
    | none => []

/-- The pipelines with a stage at the failing end. -/
def State.relPipes (s : State) (r : Rel) : List Nat := ((s.relHosts r).map (·.1)).eraseDups

/-- The epochs resident at the failing end: a tile's positions, and for an engine every running epoch of a pipeline with
a stage on it. -/
def State.relEpochs (s : State) (r : Rel) : List B32 :=
  if s.relTile r < 80 then ((s.tile (s.relTile r)).residents).map (·.epoch) else s.epochsOf (s.relPipes r)

/-- Table 07-13's numbers of a relation: the row of Table 07-9, and the edge or queue. -/
def Rel.quantity : Rel → Nat
  | .producer _ _ _ | .consumer _ _ _ | .flight _ _ _ => 0
  | .credits _ _ => 1
  | .rows _ => 2
  | .queue _ _ => 3
  | .stats _ => 4

def Rel.edge : Rel → Nat
  | .producer _ _ e | .consumer _ _ e | .flight _ _ e => e
  | .queue _ q => q
  | .credits p v => 8 * p + v
  | _ => 0xFF

/-! ## The audit -/

/-- A relation found failing that an audit leaves out because a tile of it is under a swap stays as it was found. -/
def State.leftOut (s : State) (r : Rel) : Bool :=
  match r with
  | .flight p sd e => ((s.pipe p).edge e).any (fun x =>
      !(s.settled (s.pipe p) x.producer sd && s.settled (s.pipe p) x.consumer sd))
  | r => decide (s.relTile r < 80) && (s.tile (s.relTile r)).swap

/-- What a look at some relations leaves on record: each failing one with the moment at which it was first found
(R264). -/
def State.findings (s : State) (c : Nat) (rels : List Rel) : List Found :=
  let old := (s.cluster c).failing
  old.filter (fun f => s.leftOut f.rel) ++
    (rels.filter (fun r => s.relFails r)).map (fun r => (old.find? (fun f => f.rel == r)).getD ⟨r, s.elapsed.toNat, none⟩)

/-- No cluster has on record a relation that fails at an end with a stage of the pipeline. -/
def State.pipeSound (s : State) (p : Nat) : Bool :=
  (upTo 8).all (fun c => (s.cluster c).failing.all (fun f => !((s.relPipes f.rel).contains p)))

/-- The control core of a cluster asks the peer devices for the counters of the consumer ends of some edges, with those of
its own producer ends (log entry 113). -/
def State.askFar (s : State) (c : Nat) (rels : List Rel) : State :=
  rels.foldl (fun (s : State) r => match r with
    | .flight p sd e =>
      if s.crossEdge p e then
        let b := s.book (bookKey p sd e)
        s.sendCtrl (clusterCode c) (((s.pipe p).edge e).elim 0 (fun x => s.stageDev (s.pipe p) x.consumer)) ctrlBookAsk
          (natToBytes p 1 ++ natToBytes (b2n sd) 1 ++ natToBytes e 6 ++ natToBytes b.ts.toNat 4 ++ natToBytes b.cr.toNat 4)
      else s
    | _ => s) s

/-- One look at some relations of the cluster: the failing ones are recorded, those that hold again are not. DESIGN CHOICE
(log entry 143): the reads of edge ends leave TIL_BOOK_SEL and TIL_BOOK_A to D as they stand. -/
def State.lookAt (s : State) (c : Nat) (rels : List Rel) : State :=
  (s.setCluster c { s.cluster c with failing := s.findings c rels }).askFar c rels

/-- An audit looks at every relation of the cluster; the pipelines whose admission a fault stopped are released once none
of their ends is on record (R518). -/
def State.auditPass (s : State) (c : Nat) : State :=
  let ps := ((s.cluster c).failing.flatMap (fun f => s.relPipes f.rel) ++
    (s.edgeRels c).filterMap (fun r => (s.relEnd r).map (·.1))).eraseDups
  let s := s.lookAt c (s.clusterRels c)
  ps.foldl (fun (s : State) p =>
    if (s.pipe p).held && s.pipeSound p then s.setPipe p { s.pipe p with held := false } else s) s

/-- BOOK_AUDIT (R263, R266): at an epoch boundary of the cluster, while cores execute. -/
def execBookAudit (c : Nat) (s : State) : Out :=
  attempt (if s.serving ∧ c < 8 ∧ s.auditsRun ∧ (s.cluster c).audit then
    some ((s.setCluster c { s.cluster c with audit := false }).auditPass c) else none) s

/-- What is re-read (R264): relations on record, and edges with a word in flight. -/
def State.rereads (s : State) (c : Nat) : List Rel :=
  (s.clusterRels c).filter (fun r => (s.cluster c).failing.any (fun f => f.rel == r) || (match r with
    | .flight p sd e => s.edgeOpen p sd e
    | _ => false))

/-- BOOK_REREAD (R264). -/
def execBookReread (c : Nat) (s : State) : Out :=
  attempt (if s.serving ∧ c < 8 ∧ s.auditsRun ∧ !(s.rereads c).isEmpty then some (s.lookAt c (s.rereads c)) else none) s

/-! ## The fault (R265) -/

/-- Epochs end with a fault that has its own Blotter entry. -/
def State.endAll (s : State) (es : List B32) : State := es.foldl (fun s e => (s.noteEpoch e).endCause e 1) s

/-- Admission to a pipeline stops. DESIGN CHOICE (log entry 143): QCX_PIPE_STAT_p.bound stays 1 meanwhile, since the
binding stands. -/
def State.holdPipe (s : State) (p : Nat) : State := s.setPipe p { s.pipe p with held := true }

/-- The oldest of a list of epochs, 0 where there is none. -/
def oldestOf (es : List B32) : B32 := ((oldest (es.map (fun e => (⟨0, false, e⟩ : Resident)))).map (·.epoch)).getD 0

/-- A book imbalance: 0x0B04 is raised, the fault is recorded and reported, the epochs resident at the failing end end
(R265, R267), and admission to the pipelines at that end stops and their epochs are withdrawn (R518). DESIGN CHOICE (log
entry 143): for a relation that is no edge's, 0x0B04 has the pipeline of the oldest resident epoch, 0 where there is none,
and with no resident epoch its epoch field is 0. -/
def State.imbalance (s : State) (r : Rel) : State :=
  let es := s.relEpochs r
  let ps := s.relPipes r
  let o := oldestOf es
  let pipe := match s.relEnd r with
    | some x => x.1
    | none => ((s.epochRec o).map (·.pipe)).getD 0
  let param := mkParam [(0, pipe), (8, r.quantity), (16, r.edge), (24, s.relTile r), (32, o.toNat)]
  let ep := if es.isEmpty then none else some (o, ((s.epochRec o).map (·.pipe)).getD pipe)
  let s := s.raise 0x0B04 param
  let all := es ++ (s.epochsOf ps).filter (fun e => !(es.contains e))
  let s := s.fault { mkFault 3 1 (s.relTile r) param with epoch := ep }
  ps.foldl (fun s p => s.holdPipe p) (s.endAll all)

/-- A relation on record that has failed for 10 µs and has raised no fault yet. -/
def State.dueRel (s : State) (c : Nat) : Option Found :=
  (s.cluster c).failing.find? (fun f => f.raised.isNone && !(s.leftOut f.rel) && s.relFails f.rel &&
    decide (f.at_ + usTicks 10 ≤ s.elapsed.toNat))

/-- BOOK_IMBALANCE (R265). -/
def execBookImbalance (c : Nat) (s : State) : Out :=
  attempt (if s.serving ∧ c < 8 ∧ s.auditsRun then
    (s.dueRel c).map (fun f =>
      (s.setCluster c { s.cluster c with failing := (s.cluster c).failing.map (fun x =>
        if x.rel = f.rel then { x with raised := some (s.elapsed.toNat, s.safety.nextSeq) } else x) }).imbalance f.rel)
    else none) s

/-! ## The restoration (R518) -/

/-- Both ends of an edge in the balanced state: H = S at the producer, zero elsewhere. A SOURCE slot that
holds an item not yet admitted stays filled (log entry 45). -/
def Book.restore (b : Book) (now : Nat) : Book :=
  ⟨b.prod.map (fun x => match x with | .filling => .filling | _ => .held), b.cons.map (fun _ => .empty), 0, 0, 0, 0, now, none⟩

/-- Slices that the folios on a tile need (R548). -/
def State.neededSlices (s : State) (t : Nat) : Nat :=
  (s.hosts t).foldl (fun m h => match (s.pipe h.1).stage h.2.2 with
    | some st => m ||| st.slices
    | none => m) 0

/-- TIL_INK_PWR.on written by the control core: bits that rise power their slice up. -/
def State.setSlices (s : State) (t on : Nat) : State :=
  (upTo 8).foldl (fun s sl =>
    if on.testBit sl then (if s.bit (kTil t 0x208) sl then s else s.sliceUp t sl)
    else s.setBit (kTil t 0x208) sl false) s

/-- The other end of an edge to a peer device is restored by that device's control core (log entry 113). -/
def State.restoreFar (s : State) (pipe : Nat) (side : Bool) (e : Nat) : State :=
  let p := s.pipe pipe
  match p.edge e with
  | some x =>
    ([s.stageDev p x.producer, s.stageDev p x.consumer].filter (· != s.boot.dev)).foldl (fun (s : State) d =>
      s.sendCtrl (clusterCode 0) d ctrlBookRestore (natToBytes pipe 1 ++ natToBytes (b2n side) 1 ++ natToBytes e 6)) s
  | none => s

/-- The failed quantity is restored (R518). -/
def State.restoreRel (s : State) (r : Rel) : State :=
  match r with
  | .producer p sd e | .consumer p sd e | .flight p sd e =>
    let s := s.setBook (bookKey p sd e) ((s.book (bookKey p sd e)).restore s.elapsed.toNat)
    s.restoreFar p sd e
  | .credits p _ =>
    (((s.setBit (kLnk p 4) 0 false).lnkOff p).setBit (kLnk p 4) 0 true).setLnk p lsDetect
  | .rows t => (s.setTile t { s.tile t with flags := [] }).setSlices t (s.neededSlices t)
  | .queue _ _ => s
  | .stats t => s.setTile t { s.tile t with rstats := [] }

/-- The pipeline's epochs are gone. -/
def State.quiet (s : State) (p : Nat) : Bool := !(s.commit.epochs.any (fun e => e.2.pipe == p && !e.2.state.over))

/-- A relation whose fault has been raised and that still fails may be restored: the epochs at its end are gone, and a
queue's transfers have completed. -/
def State.restorable (s : State) (f : Found) : Bool :=
  f.raised.isSome && s.relFails f.rel && (s.relPipes f.rel).all s.quiet &&
  (match f.rel with
   | .queue t q => decide ((s.tile t).outstanding q = 0)
   | _ => true)

/-- Balance has not been restored within 1 ms of the fault (R518). -/
def State.restoreLate (s : State) (f : Found) : Bool :=
  f.raised.any (fun r => decide (r.1 + msTicks 1 ≤ s.elapsed.toNat)) && s.relFails f.rel

/-- The failure to restore: a tile fault, whose entry is that of the imbalance, or a port that goes down (R515, R518).
DESIGN CHOICE (log entry 132): the tile retires with cause 1, the port goes to FAILED with cause 2, and an engine, which
has no spare, goes on. -/
def State.restoreFail (s : State) (f : Found) : State :=
  match f.rel with
  | .credits p _ => s.portDown p lsFailed 2
  | r =>
    let t := s.relTile r
    if t < 80 then (s.dueRetire t 1 (f.raised.elim 0 (·.2))).settleRetire (t / 10) else s

/-- BOOK_RESTORE (R518): once the affected epochs are withdrawn, the failed quantities are restored; they stay on record
and admission resumes at the next audit that passes. What is not restored in 1 ms counts as a fault of its own. -/
def execBookRestore (c : Nat) (s : State) : Out :=
  attempt (if s.serving ∧ c < 8 ∧ s.fwServes then
    let late := (s.cluster c).failing.filter s.restoreLate
    let rs := (s.cluster c).failing.filter (fun f => s.restorable f && !(s.restoreLate f))
    if late.isEmpty ∧ rs.isEmpty then none
    else
      let t := rs.foldl (fun (s : State) f => s.restoreRel f.rel) s
      let s := s.byCode (late.foldl (fun (s : State) f => s.restoreFail f) t)
      some (s.setCluster c { s.cluster c with
        failing := (s.cluster c).failing.filter (fun f => !(late.contains f)), audit := true })
    else none) s

/-! ## TIL_BOOK (R268) -/

/-- The snap of the selected edge end: A to D (Table 07-15). DESIGN CHOICE (log entry 143): where the end does not lie
on the tile all four are 0, not present alone. -/
def State.bookSnap (s : State) (t : Nat) : State :=
  let sel := s.reg (kTil t 0x610)
  let edge := bitsOf sel.toNat 0 8
  let pipe := bitsOf sel.toNat 8 7
  let cons := sel.getLsbD 15
  let side := sel.getLsbD 16
  let p := s.pipe pipe
  let here := match p.edge edge with
    | some e => if p.bound ∧ p.sides.contains side ∧ s.tileOf p (if cons then e.consumer else e.producer) side = some t then some e else none
    | none => none
  let k (i : Nat) : Nat := kTil t (0x618 + 4 * i)
  match here with
  | none => (((s.setReg (k 0) 0).setReg (k 1) 0).setReg (k 2) 0).setReg (k 3) 0
  | some e =>
    let b := s.book (bookKey pipe side edge)
    let a := if cons then b.k + place b.rd 16 16 else b.h + place b.w 16 16
    (((s.setReg (k 0) (BitVec.ofNat 32 a)).setReg (k 1) (if cons then b.cs else b.ts)).setReg (k 2)
      (if cons then b.tr else b.cr)).setReg (k 3) (BitVec.ofNat 32 (e.slots + 2 ^ 31))

/-- BOOK_SNAP (R268). -/
def execBookSnap (rq : Requester) (t : Nat) (s : State) : Out :=
  attempt (if s.awake ∧ t < 80 then some (s.guardReg rq (kTil t 0x614) (fun s => s.bookSnap t)) else none) s

end Sys2Proof.Machine
end

