-- ==== Sys2Proof/Machine/Crypto.lean ====
section
/-!
DEFINITION. The computations of trust (R455, R456, R458, R461, R502): SHA-512 (FIPS 180-4), HMAC-SHA-512
(FIPS 198-1), RSASSA-PSS verification (RFC 8017), AES-256-GCM (FIPS 197, SP 800-38D) and ECDSA on P-521 (FIPS
186-4).
-/
namespace Sys2Proof.Machine

/-! ## Big-endian octet strings -/

def beToNat (bs : List Byte) : Nat := bs.foldl (fun a b => a * 256 + b.toNat) 0
def natToBe (v n : Nat) : List Byte := (natToBytes v n).reverse

/-! ## SHA-512 -/

/-- The largest number below `r + 2 ^ n` that is at least `r` and whose cube is at most `m`. -/
def cubeRoot : Nat → Nat → Nat → Nat
  | 0, r, _ => r
  | n + 1, r, m =>
    let t := r + 2 ^ n
    cubeRoot n (if t * t * t ≤ m then t else r) m

/-- The primes below 410, which are the first 80. -/
def shaPrimes : List Nat :=
  (upTo 410).filter (fun n => decide (2 ≤ n) && [2, 3, 5, 7, 11, 13, 17, 19].all (fun d => n == d || n % d != 0))

/-- The 80 round constants: for each prime, the first 64 bits of the fraction of its cube root. -/
def shaConsts : List B64 := shaPrimes.map (fun p => BitVec.ofNat 64 (cubeRoot 67 0 (p * 2 ^ 192)))

/-- The sum (modulo 2) of a word's rotations to the right by two amounts and of a third word. -/
def shaMix (i j : Nat) (x y : B64) : B64 := x.rotateRight i ^^^ x.rotateRight j ^^^ y

/-- The message schedule grown by `n` words; the newest word stands first. -/
def shaGrow : Nat → List B64 → List B64
  | 0, l => l
  | n + 1, l =>
    let back (i : Nat) : B64 := l[i - 1]?.getD 0
    let far := shaMix 1 8 (back 15) (back 15 >>> 7)
    let near := shaMix 19 61 (back 2) (back 2 >>> 6)
    shaGrow n ((back 16 + far + back 7 + near) :: l)

/-- One round on the working variables a to h, with the sum of the round's constant and schedule word. -/
def shaRound (v : List B64) (kw : B64) : List B64 :=
  match v with
  | [a, b, c, d, e, f, g, h] =>
    let choice := g ^^^ (e &&& (f ^^^ g))
    let majority := (a &&& b) ||| (c &&& (a ||| b))
    let new := h + choice + kw + shaMix 14 18 e (e.rotateRight 41)
    [new + majority + shaMix 28 34 a (a.rotateRight 39), a, b, c, d + new, e, f, g]
  | _ => v

/-- The hash value after one 128-byte block. -/
def shaBlock (h : List B64) (block : List Byte) : List B64 :=
  let w0 := (upTo 16).map (fun i => BitVec.ofNat 64 (beToNat ((block.drop (8 * i)).take 8)))
  let w := (shaGrow 64 w0.reverse).reverse
  let v := (List.zipWith (· + ·) shaConsts w).foldl shaRound h
  List.zipWith (· + ·) h v

/-- Whole blocks of a byte string hashed, `n` of them. -/
def shaBlocks : Nat → List B64 → List Byte → List B64
  | 0, h, _ => h
  | n + 1, h, bs => shaBlocks n (shaBlock h (bs.take 128)) (bs.drop 128)

/-- The padding of a message of `n` bytes. -/
def shaPad (n : Nat) : List Byte :=
  [0x80] ++ List.replicate ((111 + 128 - n % 128) % 128) 0 ++ natToBe (8 * n) 16

/-- The digest bytes of a hash value. -/
def shaBytes (h : List B64) : List Byte := h.flatMap (fun x => natToBe x.toNat 8)

/-- SHA-512 of a byte string. -/
def sha512 (bs : List Byte) : List Byte :=
  let m := bs ++ shaPad bs.length
  shaBytes (shaBlocks (m.length / 128) shaIv m)

/-- A digest as it stands in a 64-byte field, byte 0 in the lowest bits. -/
def digestVec (bs : List Byte) : BitVec 512 := BitVec.ofNat 512 (bytesToNat bs)

/-- HMAC-SHA-512. -/
def hmac (key msg : List Byte) : List Byte :=
  let k := if 128 < key.length then sha512 key else key
  let k := k ++ List.replicate (128 - k.length) 0
  sha512 (k.map (· ^^^ 0x5C) ++ sha512 (k.map (· ^^^ 0x36) ++ msg))

/-- The bytes of an ASCII label. -/
def ascii (t : String) : List Byte := t.toList.map (fun c => BitVec.ofNat 8 c.toNat)

/-! ## RSASSA-PSS -/

/-- b^e mod m over at most `n` bits of e. -/
def powBits : Nat → Nat → Nat → Nat → Nat
  | 0, _, _, m => 1 % m
  | n + 1, b, e, m =>
    if e = 0 then 1 % m
    else
      let r := powBits n (b * b % m) (e / 2) m
      if e % 2 = 1 then b * r % m else r

/-- MGF1 with SHA-512. -/
def mgf1 (seed : List Byte) (n : Nat) : List Byte :=
  ((upTo (ceilDiv n 64)).flatMap (fun i => sha512 (seed ++ natToBe i 4))).take n

def xorBytes (a b : List Byte) : List Byte := List.zipWith (· ^^^ ·) a b

/-- The signature s verifies for the digest under n and e: a 4,096-bit modulus, a salt of 64 bytes, trailer
0xBC (R455). -/
def pssVerify (n e sg : Nat) (mHash : List Byte) : Bool :=
  let em := natToBe (powBits 32 (sg % n) e n) 512
  let masked := em.take 447
  let h := (em.drop 447).take 64
  let db := match xorBytes masked (mgf1 h 447) with
    | b :: bs => (b &&& 0x7F) :: bs
    | [] => []
  let salt := db.drop 383
  n.testBit 4095 && decide (sg < n) && em.drop 511 == [0xBC] && (masked.headD 0xFF).toNat < 128 &&
    db.take 383 == List.replicate 382 0 ++ [1] && h == sha512 (List.replicate 8 0 ++ mHash ++ salt)

/-! ## AES-256-GCM -/

/-- Multiplication in GF(2^8) of AES. -/
def gf8 : Nat → Nat → Nat → Nat
  | 0, _, _ => 0
  | n + 1, a, b =>
    let rest := gf8 n (if 128 ≤ a then (2 * a) ^^^ 0x11B else 2 * a) (b / 2)
    if b % 2 = 1 then a ^^^ rest else rest

def gmul (a b : Nat) : Nat := gf8 8 a b

/-- The inverse x^254; 0 for 0. -/
def gInv (x : Nat) : Nat :=
  let x2 := gmul x x
  let x4 := gmul x2 x2
  let x8 := gmul x4 x4
  let x16 := gmul x8 x8
  let x32 := gmul x16 x16
  let x64 := gmul x32 x32
  gmul x2 (gmul x4 (gmul x8 (gmul x16 (gmul x32 (gmul x64 (gmul x64 x64))))))

def aesS (b : Byte) : Byte :=
  let x : Byte := BitVec.ofNat 8 (gInv b.toNat)
  x ^^^ x.rotateLeft 1 ^^^ x.rotateLeft 2 ^^^ x.rotateLeft 3 ^^^ x.rotateLeft 4 ^^^ 0x63

/-- The key schedule grown by `n` words of 4 bytes, newest first; `i` is the index of the next word, `rc` the
next round constant. -/
def aesGrow : Nat → Nat → Nat → List (List Byte) → List (List Byte)
  | 0, _, _, l => l
  | n + 1, i, rc, l =>
    let prev := l.headD []
    let old := (l[7]?).getD []
    let t :=
      if i % 8 = 0 then
        (match (prev.drop 1 ++ prev.take 1).map aesS with
         | b :: bs => (b ^^^ BitVec.ofNat 8 rc) :: bs
         | [] => [])
      else if i % 8 = 4 then prev.map aesS
      else prev
    aesGrow n (i + 1) (if i % 8 = 0 then gmul rc 2 else rc) ([xorBytes old t] ++ l)

/-- The 15 round keys. -/
def aesKeys (key : List Byte) : List (List Byte) :=
  let w0 := (upTo 8).map (fun i => (key.drop (4 * i)).take 4)
  let w := (aesGrow 52 8 1 w0.reverse).reverse
  (upTo 15).map (fun r => ((w.drop (4 * r)).take 4).flatten)

def aesShift (s : List Byte) : List Byte :=
  (upTo 16).map (fun i => s[(i + 4 * (i % 4)) % 16]?.getD 0)

def aesMix (s : List Byte) : List Byte :=
  (upTo 16).map (fun i =>
    let c := i / 4 * 4
    let b (j : Nat) : Nat := (s[c + (i + j) % 4]?.getD 0).toNat
    BitVec.ofNat 8 (gmul (b 0) 2 ^^^ gmul (b 1) 3 ^^^ b 2 ^^^ b 3))

/-- One block encrypted under expanded keys. -/
def aesBlock (ks : List (List Byte)) (x : List Byte) : List Byte :=
  let k (r : Nat) : List Byte := ks[r]?.getD []
  let mid := (upTo 13).foldl (fun s r => xorBytes (aesMix (aesShift (s.map aesS))) (k (r + 1))) (xorBytes x (k 0))
  xorBytes (aesShift (mid.map aesS)) (k 14)

/-- Multiplication in GF(2^128) of GCM; the first bit of a block is the highest of its number. -/
def gcmMul (x y : Nat) : Nat :=
  ((upTo 128).foldl (fun (zv : Nat × Nat) i =>
    ((if x.testBit (127 - i) then zv.1 ^^^ zv.2 else zv.1),
     (if zv.2 % 2 = 1 then (zv.2 / 2) ^^^ (0xE1 <<< 120) else zv.2 / 2))) (0, y)).1

/-- GHASH over bytes padded to whole blocks. -/
def ghash (h acc : Nat) (bs : List Byte) : Nat :=
  (upTo (ceilDiv bs.length 16)).foldl (fun a i =>
    let b := (bs.drop (16 * i)).take 16
    gcmMul (a ^^^ beToNat (b ++ List.replicate (16 - b.length) 0)) h) acc

/-- Decryption of AES-256-GCM with a 96-bit iv: the plaintext, or `none` for a tag failure. -/
def gcmOpen (key iv aad ct tag : List Byte) : Option (List Byte) :=
  let ks := aesKeys key
  let h := beToNat (aesBlock ks (List.replicate 16 0))
  let g := ghash h (ghash h 0 aad) ct
  let s := gcmMul (g ^^^ (8 * aad.length * 2 ^ 64 + 8 * ct.length)) h
  let t := xorBytes (natToBe s 16) (aesBlock ks (iv ++ natToBe 1 4))
  if t == tag then
    some ((upTo (ceilDiv ct.length 16)).flatMap (fun i =>
      xorBytes ((ct.drop (16 * i)).take 16) (aesBlock ks (iv ++ natToBe (i + 2) 4))))
  else none

/-! ## P-521 -/

def ecP : Nat := 2 ^ 521 - 1
def ecN : Nat :=
  0x1FFFFFFFFFFFFFFFFFFFFFFFFFFFFFFFFFFFFFFFFFFFFFFFFFFFFFFFFFFFFFFFFFA51868783BF2F966B7FCC0148F709A5D03BB5C9B8899C47AEBB6FB71E91386409
def ecGx : Nat := 0xC6858E06B70404E9CD9E3ECB662395B4429C648139053FB521F828AF606B4D3DBAA14B5E77EFE75928FE1DC127A2FFA8DE3348B3C1856A429BF97E7E31C2E5BD66
def ecGy : Nat := 0x11839296A789A3BC0045C8A5FB42C7D1BD998F54449579B446817AFBD17273E662C97EE72995EF42640C550B9013FAD0761353C7086A272C24088BE94769FD16650

/-- A point of the curve; `none` is the point at infinity. -/
abbrev EcPoint := Option (Nat × Nat)

def modInv (x m : Nat) : Nat := powBits 600 (x % m) (m - 2) m

/-- y at x on the line of slope l through (x1, y1), for x3 = l^2 - x1 - x2. -/
def ecChord (l x1 y1 x2 : Nat) : EcPoint :=
  let x3 := (l * l + 2 * ecP - x1 - x2) % ecP
  some (x3, (l * ((x1 + ecP - x3) % ecP) + ecP - y1) % ecP)

def ecAdd (a b : EcPoint) : EcPoint :=
  match a, b with
  | none, q => q
  | q, none => q
  | some (x1, y1), some (x2, y2) =>
    if x1 = x2 then
      (if (y1 + y2) % ecP = 0 then none
       else ecChord ((3 * x1 * x1 + ecP - 3) * modInv (2 * y1) ecP % ecP) x1 y1 x2)
    else ecChord ((y2 + ecP - y1) * modInv (x2 + ecP - x1) ecP % ecP) x1 y1 x2

/-- k times a point over `n` bits of k. -/
def ecMulBits : Nat → Nat → EcPoint → EcPoint
  | 0, _, _ => none
  | n + 1, k, q =>
    let r := ecMulBits n (k / 2) (ecAdd q q)
    if k % 2 = 1 then ecAdd q r else r

def ecMul (k : Nat) : EcPoint := ecMulBits 521 k (some (ecGx, ecGy))

/-- A private key from an HMAC output (Table 14-7); its integer is little-endian by R5. -/
def ecKey (h : List Byte) : Nat := bytesToNat h % (ecN - 1) + 1

/-- The 144 bytes of a point or of a signature pair: each number little-endian in 72 bytes. -/
def pairBytes (a b : Nat) : List Byte := natToBytes a 72 ++ natToBytes b 72

def pubBytes (d : Nat) : List Byte :=
  match ecMul d with
  | some (x, y) => pairBytes x y
  | none => pairBytes 0 0

/-- ECDSA with SHA-512 under d: the secret number k comes from a draw (log entry 16). -/
def ecSign (d draw : Nat) (msg : List Byte) : List Byte :=
  let k := draw % (ecN - 1) + 1
  let r := match ecMul k with | some (x, _) => x % ecN | none => 0
  pairBytes r (modInv k ecN * (beToNat (sha512 msg) + r * d) % ecN)

end Sys2Proof.Machine
end

