-- ==== Sys2Proof/Machine/Folio.lean ====
section
/-!
DEFINITION. The folio format (R223 to R231): header and directory, graph, stage programs, nib sections, and the
checks of R224 in their order. The directory of a scroll (R464) has the same layout.
-/
namespace Sys2Proof.Machine

/-! ## A byte image in memory -/

/-- An image: a memory and the address of its byte 0. -/
structure Image where
  mem  : Memory
  base : Nat
deriving DecidableEq, Repr

def Image.bytes (v : Image) (off n : Nat) : List Byte := v.mem.readBytes (v.base + off) n
/-- The little-endian number of `n` bytes at an offset. -/
def Image.num (v : Image) (off n : Nat) : Nat := bytesToNat (v.bytes off n)
/-- `n` bytes at an offset are 0. -/
def Image.zero (v : Image) (off n : Nat) : Bool := v.num off n == 0

/-- A directory entry (Table 07-2). -/
structure Sec where
  type   : Nat
  index  : Nat
  offset : Nat
  size   : Nat
  crc    : Nat
deriving DecidableEq, Repr

def Image.sec (v : Image) (i : Nat) : Sec :=
  let o := 128 + 32 * i
  ⟨v.num o 2, v.num (o + 2) 2, v.num (o + 8) 8, v.num (o + 16) 8, v.num (o + 24) 8⟩

/-- The directory: n_sections stands at byte 16. -/
def Image.secs (v : Image) : List Sec := (upTo (v.num 16 2)).map (fun i => v.sec i)

def Image.find (v : Image) (type : Nat) : Option Sec := v.secs.find? (fun x => x.type == type)

/-- Where the header and the directory stand: address and length. -/
def Image.dirSpans (v : Image) : List (Nat × Nat) :=
  (v.base, 128) :: (if v.num 16 2 = 0 then [] else [(v.base + 128, 32 * v.num 16 2)])

/-- Where the sections that `f` selects stand. -/
def Image.spansOf (v : Image) (f : Sec → Bool) : List (Nat × Nat) :=
  (v.secs.filter (fun x => x.size != 0 && f x)).map (fun x => (v.base + x.offset, x.size))

/-! ## Checks 1 to 3 of R224 -/

def secGraph : Nat := 1
def secStage : Nat := 2
def secNib : Nat := 5
def secManifest : Nat := 7
def secCrctab : Nat := 8
def secSign : Nat := 0xFF
/-- WEIGHTS, SCALES and PARAM sections, which the scrub covers. -/
def Sec.data (x : Sec) : Bool := x.type == 3 || x.type == 4 || x.type == 6

def countType (l : List Sec) (t : Nat) : Nat := (l.filter (fun x => x.type == t)).length

/-- Two sections share a byte. -/
def Sec.meets (a b : Sec) : Bool := a.size != 0 && b.size != 0 && spansMeet a.offset a.size b.offset b.size

/-- No two elements of a list are related. -/
def pairwiseNot {α : Type} (r : α → α → Bool) : List α → Bool
  | [] => true
  | x :: xs => !(xs.any (r x)) && pairwiseNot r xs

/-- The part of check 1 that any directory meets: unique type and index, the signature last, alignment, no
overlap. `align` gives a type's alignment. -/
def dirOk (l : List Sec) (sign : Nat) (align : Nat → Nat) : Bool :=
  pairwiseNot (fun (a b : Sec) => a.type == b.type && a.index == b.index) l &&
  countType l sign == 1 &&
  (match l.getLast? with
   | some x => x.type == sign && l.all (fun y => y.type == sign || decide (y.offset + y.size ≤ x.offset))
   | none => false) &&
  l.all (fun x => x.offset % align x.type == 0) &&
  pairwiseNot Sec.meets l &&
  l.all (fun x => x.size == 0 || decide (128 + 32 * l.length ≤ x.offset))

def folioAlign (t : Nat) : Nat := if t = 3 ∨ t = 4 ∨ t = 6 then 4096 else 64

/-- Check 1. -/
def Image.dirFormat (v : Image) : Bool :=
  let l := v.secs
  v.num 0 4 == 0x314C4F46 && v.num 4 2 == 1 && !(bitOf (v.num 18 1) 7) && v.zero 20 12 && v.zero 64 64 &&
  (upTo l.length).all (fun i => v.zero (128 + 32 * i + 4) 4) &&
  l.all (fun x => [1, 2, 3, 4, 5, 6, 7, 8, 0xFF].contains x.type) &&
  countType l secGraph == 1 && countType l secManifest == 1 && countType l secCrctab == 1 &&
  [2, 3, 4, 5, 6].all (fun t => decide (countType l t ≤ 64)) && dirOk l secSign folioAlign

/-- Check 2. DESIGN CHOICE (log entry 114): a MANIFEST section of size 0 passes it, also in a folio with compute steps,
since checks 1 to 3 read no section's contents and so cannot tell whether it has entries; such a folio fails check 4. -/
def Image.dirRange (v : Image) (stepping : Nat) : Bool :=
  let l := v.secs
  let len := v.num 8 8
  let nt := v.num 18 1
  len % 64 == 0 && decide (4 ≤ l.length) && decide (l.length ≤ 256) && decide (1 ≤ nt) && decide (nt ≤ 64) &&
  l.all (fun x => x.size != 0 || x.type == secManifest || (x.type == secCrctab && !(l.any (·.data)))) &&
  l.all (fun x => decide (x.offset + x.size ≤ len)) && decide (v.num 19 1 ≤ stepping)

/-- Check 3. -/
def Image.secCrcs (v : Image) : Bool := v.secs.all (fun x => (crc64 (v.bytes x.offset x.size)).toNat == x.crc)

/-! ## The graph section (Table 07-4) -/

/-- A graph as its records give it. -/
structure Graph where
  stages : List Stage
  nSteps : List Nat
  edges  : List Edge
  bufs   : List Buf
  secIx  : List Nat          -- section index of each buffer
deriving DecidableEq, Repr

def stageKind (k : Nat) : Option StageKind :=
  match k with
  | 0 => some .tile | 1 => some .stem | 2 => some .spectral | 3 => some .aster | 4 => some .source | 5 => some .sink
  | _ => none

/-- A stage record at an offset, without its program. -/
def Image.stage (v : Image) (o : Nat) : Stage :=
  ⟨(stageKind (v.num (o + 1) 1 % 16)).getD .sink, v.num (o + 2) 1 % 128, v.num (o + 3) 1, v.num (o + 4) 4, v.num (o + 8) 4,
   v.num (o + 14) 2, BitVec.ofNat 64 (v.num (o + 16) 8), []⟩

def Image.edge (v : Image) (o : Nat) : Edge :=
  ⟨v.num o 1 % 64, v.num (o + 1) 1 % 64, v.num (o + 2) 1 + 1, bitOf (v.num (o + 3) 1) 0, v.num (o + 4) 4, v.num (o + 8) 1 % 64,
   v.num (o + 12) 4⟩

/-- A buffer record; a SECTION buffer's base is that of its section. -/
def Image.buf (v : Image) (o : Nat) : Buf :=
  let k := v.num o 1 % 4
  ⟨k, v.num (o + 8) 8, if k = 1 then v.base + (v.sec (v.num (o + 2) 2)).offset else 0⟩

def Image.stageOff (g i : Nat) : Nat := g + 16 + 32 * i
def Image.nStages (v : Image) (g : Nat) : Nat := v.num g 1
def Image.nEdges (v : Image) (g : Nat) : Nat := v.num (g + 1) 1
def Image.nBufs (v : Image) (g : Nat) : Nat := v.num (g + 2) 1
def Image.edgeOff (v : Image) (g i : Nat) : Nat := g + 16 + 32 * v.nStages g + 16 * i
def Image.bufOff (v : Image) (g i : Nat) : Nat := g + 16 + 32 * v.nStages g + 16 * v.nEdges g + 16 * i

/-- The graph whose section begins at offset `g`. -/
def Image.graph (v : Image) (g : Nat) : Graph :=
  ⟨(upTo (v.nStages g)).map (fun i => v.stage (Image.stageOff g i)),
   (upTo (v.nStages g)).map (fun i => v.num (Image.stageOff g i + 12) 2),
   (upTo (v.nEdges g)).map (fun i => v.edge (v.edgeOff g i)),
   (upTo (v.nBufs g)).map (fun i => v.buf (v.bufOff g i)),
   (upTo (v.nBufs g)).map (fun i => v.num (v.bufOff g i + 2) 2)⟩

/-- A stage record breaks no rule of Table 07-4. -/
def Image.stageOk (v : Image) (g i : Nat) : Bool :=
  let o := Image.stageOff g i
  let kind := v.num (o + 1) 1
  let unit := v.num (o + 2) 1
  let n := v.num (o + 12) 2
  let works := decide (kind < 3)
  v.num o 1 == i && decide (kind < 6) &&
  (match kind with
   | 0 => decide (unit < v.num 18 1)
   | 1 => decide (unit < 8)
   | 2 => decide (unit < 4)
   | 3 => unit == 0
   | _ => decide (unit < 8)) &&
  (kind != 0 || v.num (o + 8) 4 != 0) &&
  (if works then decide (1 ≤ n) && decide (n ≤ 4096) else n == 0) && decide (v.num (o + 14) 2 ≤ n) &&
  decide (v.num (o + 16) 8 < 2 ^ v.nBufs g) && v.zero (o + 24) 8

def Image.edgeOk (v : Image) (g i : Nat) : Bool :=
  let o := v.edgeOff g i
  let e := v.edge o
  decide (v.num o 1 < v.nStages g) && decide (v.num (o + 1) 1 < v.nStages g) && decide (v.num (o + 3) 1 < 2) &&
  decide (v.num (o + 8) 1 < 64) && v.zero (o + 9) 3 &&
  (e.orderOnly || (e.slotBytes % 64 == 0 && decide (64 ≤ e.slotBytes) && decide (e.buffer < v.nBufs g)))

def Image.bufOk (v : Image) (g i : Nat) : Bool :=
  let o := v.bufOff g i
  let k := v.num o 1
  decide (k < 3) && v.zero (o + 1) 1 && v.zero (o + 4) 4 && v.num (o + 8) 8 != 0 &&
  (k != 1 || (decide (v.num (o + 2) 2 < v.num 16 2) && decide (v.num (o + 8) 8 ≤ (v.sec (v.num (o + 2) 2)).size)))

/-- Stages reached from a set along a relation, `n` times. -/
def reach (es : List (Nat × Nat)) : Nat → List Nat → List Nat
  | 0, l => l
  | n + 1, l => reach es n (es.foldl (fun l e => if l.contains e.1 && !l.contains e.2 then l ++ [e.2] else l) l)

/-- R229 and the rules of Table 07-4 that join records. -/
def Graph.ok (g : Graph) : Bool :=
  let ts := g.stages.filter (fun s => s.kind == .tile)
  let ids (k : StageKind) : List Nat := (upTo g.stages.length).filter (fun i => (g.stages[i]?).any (fun s => s.kind == k))
  let fwd := reach (g.edges.map (fun e => (e.producer, e.consumer))) g.stages.length (ids .source)
  let bwd := reach (g.edges.map (fun e => (e.consumer, e.producer))) g.stages.length (ids .sink)
  pairwiseNot (fun (a b : Stage) => a.unit == b.unit && spansMeet a.inkRow a.inkRows b.inkRow b.inkRows) ts &&
  ts.all (fun s => decide (s.inkRow + s.inkRows ≤ rowsTotal) &&
    (upTo 8).all (fun sl => !(s.usesSlice sl) || s.slices.testBit sl)) &&
  g.edges.all (fun e => e.orderOnly ||
    (match g.bufs[e.buffer]? with
     | some b => decide (e.slot0 + e.slots * e.slotBytes ≤ b.size) &&
         (b.kind != 2 || (g.stages[e.consumer]?).any (fun s => s.kind == .tile))
     | none => false)) &&
  (upTo g.stages.length).all (fun i => fwd.contains i && bwd.contains i)

/-! ## Stage programs (Table 07-5) -/

/-- Payload bytes of a step after its header, split as descriptor and binding. -/
def payloadSize (kind : Nat) (nib : Bool) : Option (Nat × Nat) :=
  match kind with
  | 1 | 3 => some (64, if nib then 64 else 0)
  | 2 => some (32, 0)
  | 4 | 5 => some (64, 0)
  | 6 => some (0, 0)
  | _ => none

/-- `n` step entries from an offset, and the offset past them. -/
def Image.steps (v : Image) : Nat → Nat → Option (List Step × Nat)
  | 0, o => some ([], o)
  | n + 1, o =>
    let h : SeqHdr32 := BitVec.ofNat 256 (v.num o 32)
    match payloadSize (hKind h) (hNib h) with
    | none => none
    | some (d, b) =>
      match v.steps n (o + 32 + d + b) with
      | none => none
      | some (l, e) =>
        let bind : Option (BitVec 512) := if b = 0 then none else some (BitVec.ofNat 512 (v.num (o + 96) 64))
        some ((⟨h, BitVec.ofNat 512 (v.num (o + 32) d), bind⟩ : Step) :: l, e)

/-- The STAGE section of a stage. -/
def Image.stageSec (v : Image) (i : Nat) : Option Sec :=
  v.secs.find? (fun x => x.type == secStage && x.index == i)

/-- The graph with every stage's program; `none` where a program does not fill its section. -/
def Image.programs (v : Image) (g : Graph) : Option (List Stage) :=
  (upTo g.stages.length).foldr (fun i (acc : Option (List Stage)) =>
    match acc, g.stages[i]? with
    | some l, some st =>
      if st.works && st.kind != .aster then
        match v.stageSec i with
        | some x =>
          match v.steps ((g.nSteps[i]?).getD 0) x.offset with
          | some (ss, e) => if e = x.offset + x.size then some ({ st with steps := ss } :: l) else none
          | none => none
        | none => none
      else some (st :: l)
    | _, _ => none) (some [])

/-- Address fields of a payload (R231). -/
def addrFields (kind : Nat) : Nat := match kind with | 2 => 1 | 4 => 3 | 5 => 4 | _ => 0

/-- A step header is well formed for a stage (Table 07-5). DESIGN CHOICE (log entry 115): `nib`, `fold` and `queue` are 0
in a step of a kind that Table 07-5 does not give them to, and a Stem or Spectral stage holds steps of its own kind and
SIGNAL steps alone. -/
def hdrOk (st : Stage) (h : SeqHdr32) : Bool :=
  let k := hKind h
  (match st.kind with
   | .tile => k == 1 || k == 2 || k == 3 || k == 6
   | .stem => k == 4 || k == 6
   | .spectral => k == 5 || k == 6
   | _ => false) &&
  bitsOf h.toNat 6 2 == 0 && bitsOf h.toNat 11 5 == 0 && bitsOf h.toNat 16 16 == 0 && bitsOf h.toNat 100 4 == 0 &&
  bitsOf h.toNat 136 120 == 0 && (!hNib h || k == 1 || k == 3) && (k == 2 || (!hFold h && hQueue h == 0))

/-- The edges of a step end at its stage. -/
def edgesOk (g : Graph) (i : Nat) (h : SeqHdr32) : Bool :=
  (hIn h).all (fun x => (g.edges[x.2]?).any (fun e => e.consumer == i)) &&
  (hOut h).all (fun x => (g.edges[x]?).any (fun e => e.producer == i))

/-- A buffer is granted to a stage (R228). -/
def Graph.granted (g : Graph) (i : Nat) (st : Stage) (b : Nat) : Bool :=
  st.grants.getLsbD b || g.edges.any (fun e => !e.orderOnly && e.buffer == b && (e.producer == i || e.consumer == i))

/-- Which address fields of a step are written through. -/
def writtenField (kind : Nat) (op f : Nat) : Bool :=
  (kind == 2 && op == dmaWrite) || (kind == 4 && f == 2) || (kind == 5 && f == 3)

/-- The reloc fields of a step (R228, R229, R231). -/
def relocsOk (g : Graph) (i : Nat) (st : Stage) (sp : Step) : Bool :=
  let k := hKind sp.hdr
  let op := dOp (sp.desc.truncate 256)
  (upTo 4).all (fun f =>
    let b := hReloc sp.hdr f
    b == 0xFF ||
    (decide (f < addrFields k) &&
      match g.bufs[b]? with
      | none => false
      | some bf =>
        if k = 2 ∧ op = dmaPush then
          bf.kind == 2 && g.edges.all (fun e => e.orderOnly || e.buffer != b || (e.slot0 % 512 == 0 && e.slotBytes % 512 == 0))
        else bf.kind != 2 && g.granted i st b && !(bf.kind == 1 && writtenField k op f)))

/-- The target window of a PUSH (R147), and the rows an edge of an INKWELL buffer adds to dst_row. -/
def Graph.pushTarget (g : Graph) (h : SeqHdr32) (folioTile : Nat) : Option (Nat × Stage) :=
  (hOut h).findSome? (fun x => (g.edges[x]?).bind (fun e => (g.stages[e.consumer]?).bind (fun st =>
    if st.kind = .tile ∧ st.unit = folioTile then some (e.consumer, st) else none)))

/-- First rows that a PUSH may write, one for each slot its edges may hold. -/
def Graph.pushRows (g : Graph) (sp : Step) (w : Stage) : List Nat :=
  let d : BitVec 256 := sp.desc.truncate 256
  let b := hReloc sp.hdr 0
  if b = 0xFF then [dDstRow d]
  else
    let offs := ((hOut sp.hdr).filterMap (fun x => g.edges[x]?)).flatMap (fun e =>
      if e.buffer = b ∧ !e.orderOnly then (upTo e.slots).map (fun s => (e.slot0 + s * e.slotBytes) / 512) else [])
    (if offs.isEmpty then [0] else offs).map (fun o => dDstRow d + w.inkRow + o)

/-- Offsets of the slots that a step may hold in buffer `b`, slots it reads first for an address it reads (R231). -/
def Graph.slotOffs (g : Graph) (sp : Step) (b : Nat) (reads : Bool) : List Nat :=
  let of (l : List Nat) : List Edge := (l.filterMap (fun x => g.edges[x]?)).filter (fun e => e.buffer == b && !e.orderOnly)
  let ins := of ((hIn sp.hdr).map (·.2))
  let outs := of (hOut sp.hdr)
  match (if reads then ins ++ outs else outs ++ ins) with
  | e :: _ => (upTo e.slots).map (fun i => e.slot0 + i * e.slotBytes)
  | [] => [0]

/-- The values that a memory address field may have once it is relocated, as far as the folio tells: a section's base is
known, and the base of a SCRATCH buffer is a multiple of 64 from 0 upward, taken as 0 (log entry 76). -/
def Graph.fieldVals (g : Graph) (sp : Step) (f raw : Nat) (reads : Bool) : List Nat :=
  let b := hReloc sp.hdr f
  if b = 0xFF then [raw]
  else
    let base := (g.bufs[b]?).elim 0 (·.sbase)
    (g.slotOffs sp b reads).map (fun o => raw + base + o)

/-- The memory buffers that a graph grants a stage (R228), with their numbers. -/
def Graph.memGrants (g : Graph) (i : Nat) (st : Stage) : List (Nat × Buf) :=
  (upTo g.bufs.length).filterMap (fun b => (g.bufs[b]?).bind (fun x =>
    if x.kind ≠ 2 ∧ g.granted i st b then some (b, x) else none))

/-- Bytes `[v, v + n)` from an address field that names buffer `b`, or none, may lie wholly in a buffer that the stage is
granted (R147, R199, R211), as far as the folio tells: it places the sections, and the binding alone places a SCRATCH
buffer. -/
def Graph.mayLie (g : Graph) (i : Nat) (st : Stage) (b n v : Nat) : Bool :=
  let gs := g.memGrants i st
  let scratch (x : Nat × Buf) : Bool := x.2.kind == 0
  match (g.bufs[b]?).map (·.kind) with
  | some 0 => gs.any (fun x => x.1 != b || decide (v + n ≤ x.2.size))
  | _ => gs.any (fun x => scratch x || (decide (x.2.sbase ≤ v) && decide (v + n ≤ x.2.sbase + x.2.size)))

/-- Every value that relocation gives an address field may lie in a grant, with the bytes it addresses. -/
def Graph.fieldGrant (g : Graph) (i : Nat) (st : Stage) (sp : Step) (f raw n : Nat) (reads : Bool) : Bool :=
  (g.fieldVals sp f raw reads).all (fun v => g.mayLie i st (hReloc sp.hdr f) n (v % 2 ^ 40))

/-- The grants of a STEM step (R199). -/
def Graph.stemGrants (g : Graph) (i : Nat) (st : Stage) (sp : Step) : Bool :=
  let x := stemGeo sp.desc
  g.fieldGrant i st sp 0 x.inA x.inLen true && g.fieldGrant i st sp 1 x.parA x.parLen true &&
    g.fieldGrant i st sp 2 x.outA x.outLen false

/-- The grants of a SPECTRAL step (R211). -/
def Graph.spcGrants (g : Graph) (i : Nat) (st : Stage) (sp : Step) : Bool :=
  let x := spcGeo sp.desc
  g.fieldGrant i st sp 0 x.inA x.inLen true && g.fieldGrant i st sp 1 x.wgtA x.wgtLen true &&
    (!x.biasEn || g.fieldGrant i st sp 2 x.biasA x.biasLen true) && g.fieldGrant i st sp 3 x.outA x.outLen false

/-- The checks of R147 that do not depend on the binding. -/
def dmaOk (g : Graph) (i : Nat) (st : Stage) (sp : Step) : Bool :=
  let d : BitVec 256 := sp.desc.truncate 256
  let op := dOp d
  let push := op == dmaPush
  op != 0 && decide (op ≤ 3) && dmf d 0 6 2 == 0 && dmf d 1 0 24 == 0 && dmf d 24 6 2 == 0 && dmf d 25 7 1 == 0 &&
  dmf d 26 0 48 == 0 && dRows d != 0 && st.inWindow (dInk d) (dRows d) &&
  (if push then
    dmf d 20 0 32 == 0 &&
    (match g.pushTarget sp.hdr (dDstTile d) with
     | some (_, w) => (g.pushRows sp w).all (fun r => w.inWindow r (dRows d))
     | none => false)
   else
    dStride d % 64 == 0 && decide (512 ≤ dStride d) &&
    (g.fieldVals sp 0 (dAddr d) (op == dmaRead)).all (fun a =>
      decide (a < 2 ^ dWidth d) && a % 64 == 0 && decide (a + (dLast d - dAddr d) < 2 ^ dWidth d)) &&
    g.fieldGrant i st sp 0 (dAddr d) (dLast d - dAddr d + 1) (op == dmaRead))

/-- The address fields of a Stem or Spectral payload by their bytes, and whether they are read. -/
def engineFields (kind : Nat) : List (Nat × Bool) :=
  if kind = 4 then [(32, true), (40, true), (48, false)]
  else if kind = 5 then [(24, true), (32, true), (40, true), (48, false)]
  else []

/-- The descriptors that relocation may make of a step's, one address field at each of its values while the others have
their first. -/
def Graph.variants (g : Graph) (sp : Step) : List (BitVec 512) :=
  let fs := engineFields (hKind sp.hdr)
  let vals (f : Nat) : List Nat := match fs[f]? with
    | some x => (g.fieldVals sp f (dsc sp.desc x.1 0 64) x.2)
    | none => []
  let put (d : BitVec 512) (f v : Nat) : BitVec 512 := match fs[f]? with
    | some x => putAddr d x.1 v
    | none => d
  let first := (upTo fs.length).foldl (fun d f => put d f ((vals f).headD 0)) sp.desc
  first :: (upTo fs.length).flatMap (fun f => (vals f).map (fun v => put first f v))

/-- No address field of a step leaves its 64 bits when it is relocated. -/
def Graph.fieldsFit (g : Graph) (sp : Step) : Bool :=
  let fs := engineFields (hKind sp.hdr)
  (upTo fs.length).all (fun f => match fs[f]? with
    | some x => (g.fieldVals sp f (dsc sp.desc x.1 0 64) x.2).all (fun v => decide (v < 2 ^ 64))
    | none => true)

/-- The reserved bits and values of a nib binding (Table 05-1, R186). -/
def bindOk (b : BitVec 512) (rows : Nat) : Bool :=
  dsc b 0 4 4 == 0 && (!bRow b || bEpiEn b) && dsc b 1 6 2 == 0 && dsc b 3 1 7 == 0 && dsc b 5 1 7 == 0 &&
  dsc b 7 1 7 == 0 && dsc b 12 7 1 == 0 && dsc b 13 6 2 == 0 && dsc b 14 7 1 == 0 && dsc b 15 4 4 == 0 &&
  (upTo 8).all (fun i => dsc b (16 + 2 * i) 6 2 == 0 && dsc b (17 + 2 * i) 7 1 == 0) && dsc b 60 0 32 == 0 &&
  (!bRow b || (bExpected b != 0 && decide (bExpected b ≤ 64) && decide (1 ≤ dsc b 15 0 4) && decide (dsc b 15 0 4 ≤ 8) &&
    decide (bRsBase b + rows - 1 ≤ 4095)))

/-- The descriptor of a step passes every check of chapters 03 to 06 that needs no binding. -/
def descOk (g : Graph) (i : Nat) (st : Stage) (sp : Step) : Bool :=
  match hKind sp.hdr with
  | 1 => (checkMatrix sp.desc st.inkRow st.inkRows).isNone && sp.bind.all (fun b => bindOk b (geoOf sp.desc).m)
  | 3 => (checkVconv sp.desc st.inkRow st.inkRows).isNone && sp.bind.all (fun b => bindOk b (vgeoOf sp.desc).m)
  | 2 => dmaOk g i st sp
  | 4 => g.fieldsFit sp && (g.variants sp).all (fun d => (checkStem d (fun _ _ => true)).isNone) && g.stemGrants i st sp
  | 5 => g.fieldsFit sp && (g.variants sp).all (fun d => (checkSpc d (fun _ _ => true)).isNone) && g.spcGrants i st sp
  | _ => true

/-! ## Nib sections on every path (R167, R168, R173, R186) -/

/-- A walk through a nib section: index, address registers, open loops, loaded tables, rows written. -/
structure NibWalk where
  pc     : Nat
  a      : SMap B32
  loops  : List (Nat × Nat × Nat)
  tables : List Nat
  rows   : List Nat
deriving DecidableEq, Repr

def NibWalk.ar (k : NibWalk) (i : Nat) : B32 := SMap.get wordZero k.a i
def NibWalk.row (k : NibWalk) (i imm : Nat) : Nat := (k.ar i + BitVec.ofInt 32 (sext imm 20)).toNat
def NibWalk.next (k : NibWalk) : NibWalk :=
  let x := loopNext k.pc k.loops
  { k with pc := x.1, loops := x.2 }

/-- What a walk is judged by: the stage, the step's run, the section and its words. -/
structure NibCtx where
  stage : Stage
  run   : Run
  kind  : SectionKind
  block : Nat
  words : List B64
deriving DecidableEq, Repr

/-- One instruction of a walk: the walk after it, `some none` at END, `none` for a rule broken. -/
def NibCtx.step (c : NibCtx) (k : NibWalk) : Option (Option NibWalk) :=
  match c.words[k.pc]? with
  | none => none
  | some w =>
    let n := nibOf w
    let ok (r : Nat) : Bool := c.stage.inWindow r 1
    let b := c.run.bind.getD 0
    if n.opc = opEnd then some none
    else if k.pc = 511 then none
    else
      match n.opc with
      | 0x02 =>
        let reps := (k.ar n.a).toNat
        if 2 ≤ k.loops.length ∨ (upTo n.imm).any (fun i => (c.words[k.pc + 1 + i]?).any (fun x => (nibOf x).opc == opEnd)) then
          none
        else if reps = 0 then
          let x := loopNext (k.pc + n.imm) k.loops
          some (some { k with pc := x.1, loops := x.2 })
        else some (some { k with pc := k.pc + 1, loops := (k.pc + 1, k.pc + n.imm, reps) :: k.loops })
      | 0x03 => some (some { k with a := SMap.set wordZero k.a n.d n.imm32 }.next)
      | 0x04 => some (some { k with a := SMap.set wordZero k.a n.d (BitVec.ofNat 32 (k.row n.a n.imm)) }.next)
      | 0x05 => some (some { k with a := SMap.set wordZero k.a n.d (k.ar n.a + k.ar n.b) }.next)
      | 0x06 => if ok (k.row n.a n.imm) then some (some k.next) else none
      | 0x07 =>
        let r := k.row n.a n.imm
        if !(ok r) || (c.kind == .epilogue && c.run.epiForbids c.block r) then none
        else some (some { k with rows := if k.rows.contains r then k.rows else r :: k.rows }.next)
      | 0x25 => if k.tables.contains n.part then some (some k.next) else none
      | 0x26 =>
        let r := k.ar n.a + BitVec.ofInt 32 (sext n.imm 20)
        if ok r.toNat && ok (r + 1).toNat && ok (r + 2).toNat then
          some (some { k with tables := n.part :: k.tables }.next)
        else none
      | 0x2A =>
        let e := k.row n.a n.imm
        if bRsBase b ≤ e ∧ e < bRsBase b + c.run.rows ∧ e < 4096 ∧ (k.ar n.c).toNat < bExpected b then some (some k.next)
        else none
      | 0x2B => if k.row n.a n.imm < 4096 then some (some k.next) else none
      | _ => some (some k.next)

/-- A whole walk: the rows it writes, or `none` where a rule is broken. -/
def NibCtx.walk (c : NibCtx) : Nat → NibWalk → Option (List Nat)
  | 0, _ => none
  | n + 1, k =>
    match c.step k with
    | none => none
    | some none => some k.rows
    | some (some k') => c.walk n k'

/-- Steps enough for any section: two nested loops of 2^32 - 1 over 512 instructions. -/
def nibFuel : Nat := 2 ^ 84

/-- The rows one section of a step writes. -/
def NibCtx.rowsOf (c : NibCtx) : Option (List Nat) :=
  let s := c.run.section c.kind c.block (c.run.bind.getD 0)
  c.walk nibFuel ⟨s.pc, s.a, [], [], []⟩

/-- The run that a step with a binding makes. -/
def stepRun (i j : Nat) (sp : Step) : Run :=
  if hKind sp.hdr = kVconv then
    let g := vgeoOf sp.desc
    ⟨⟨0, false, i, j, 0⟩, .vconv, sp.desc, sp.bind, g.nb, g.m, [], [], [], [], 0, []⟩
  else
    let g := geoOf sp.desc
    ⟨⟨0, false, i, j, 0⟩, .matrix, sp.desc, sp.bind, g.nb, g.m, [], [], [], [], 0, []⟩

/-- Rows joined, `none` where any is broken. -/
def joinRows (l : List (Option (List Nat))) : Option (List Nat) :=
  l.foldr (fun x (acc : Option (List Nat)) => match x, acc with
    | some a, some b => some (a ++ b)
    | _, _ => none) (some [])

/-- The rows that the sections of a step write on every path. -/
def stepRows (st : Stage) (i j : Nat) (sp : Step) (words : List B64) : Option (List Nat) :=
  let r := stepRun i j sp
  let secs := r.order ++ (if r.rowMode then (upTo r.rows).map (fun m => (SectionKind.settle, m)) else [])
  joinRows (secs.map (fun x => (⟨st, r, x.1, x.2, words⟩ : NibCtx).rowsOf))

/-- The words of a folio tile's NIB section. -/
def Image.nibWords (v : Image) (tile : Nat) : List B64 :=
  match v.secs.find? (fun x => x.type == secNib && x.index == tile) with
  | some x => (upTo (x.size / 8)).map (fun i => BitVec.ofNat 64 (v.num (x.offset + 8 * i) 8))
  | none => []

/-- A NIB section holds 1 to 512 defined instructions of a tile the folio uses. -/
def Image.nibSecOk (v : Image) (x : Sec) : Bool :=
  x.size % 8 == 0 && decide (8 ≤ x.size) && decide (x.size ≤ 4096) && decide (x.index < v.num 18 1) &&
  (v.nibWords x.index).all nibOk

/-! ## A nib section and an inbound DMA descriptor on one row (R169) -/

/-- Every step of a folio by stage and index. -/
def allSteps (l : List Stage) : List (Nat × Nat × Step) :=
  (upTo l.length).flatMap (fun i => match l[i]? with
    | some st => (upTo st.steps.length).filterMap (fun j => (st.steps[j]?).map (fun sp => (i, j, sp)))
    | none => [])

/-- A token of one step is an input of the other. -/
def feeds (a b : Step) : Bool := (hOut a.hdr).any (fun x => (hIn b.hdr).any (fun y => y.2 == x))

/-- Positions that tokens lead to from position `a`. -/
def tokenReach (l : List (Nat × Nat × Step)) (a : Nat) : List Nat :=
  let es := (upTo l.length).flatMap (fun i => (upTo l.length).filterMap (fun j => match l[i]?, l[j]? with
    | some x, some y => if feeds x.2.2 y.2.2 then some (i, j) else none
    | _, _ => none))
  reach es l.length [a]

/-- Rows of stage `i` that a DMA step of the folio writes. -/
def Graph.inbound (g : Graph) (i : Nat) (sp : Step) (target : Nat) : List Nat :=
  let d : BitVec 256 := sp.desc.truncate 256
  if hKind sp.hdr ≠ kDma then []
  else if dOp d = dmaRead then (if i = target then rowSpan (dInk d) (dRows d) else [])
  else if dOp d = dmaPush then
    match g.pushTarget sp.hdr (dDstTile d) with
    | some (k, w) => if k = target then (g.pushRows sp w).flatMap (fun r => rowSpan r (dRows d)) else []
    | none => []
  else []

/-- No row of a stage is written by a nib section and by an inbound descriptor that no token orders. -/
def Image.rowsOrdered (v : Image) (g : Graph) (l : List Stage) : Bool :=
  let ss := allSteps l
  (upTo ss.length).all (fun p => match ss[p]? with
    | some (i, j, sp) =>
      match sp.bind, l[i]? with
      | some _, some st =>
        match stepRows st i j sp (v.nibWords st.unit) with
        | none => false
        | some rows =>
          (upTo ss.length).all (fun q => match ss[q]? with
            | some (i', _, sq) =>
              let ins := g.inbound i' sq i
              !(ins.any (fun r => rows.contains r)) || (tokenReach ss p).contains q || (tokenReach ss q).contains p
            | none => true)
      | _, _ => true
    | none => true)

/-! ## MANIFEST and CRCTAB -/

/-- The MANIFEST entries a folio's compute steps call for: stage, step, engine. -/
def manifestOf (l : List Stage) : List (Nat × Nat × Nat) :=
  (allSteps l).filterMap (fun x =>
    match hKind x.2.2.hdr with
    | 1 => some (x.1, x.2.1, 0)
    | 3 => some (x.1, x.2.1, 3)
    | 4 => some (x.1, x.2.1, if (stemGeo x.2.2.desc).last then 2 else 1)
    | 5 => some (x.1, x.2.1, 4)
    | _ => none)

/-- The MANIFEST section agrees with the steps, and a layer has one engine. -/
def Image.manifestOk (v : Image) (l : List Stage) (x : Sec) : Bool :=
  let want := manifestOf l
  let at_ (i : Nat) : Nat := v.num (x.offset + 16 * i) 16
  x.size == 16 * want.length &&
  (upTo want.length).all (fun i => match want[i]? with
    | some (st, sp, en) =>
      let e := at_ i
      bitsOf e 16 8 == st && bitsOf e 24 16 == sp && bitsOf e 40 4 == en && bitsOf e 44 84 == 0 &&
        (upTo i).all (fun j => bitsOf (at_ j) 0 16 != bitsOf e 0 16 || bitsOf (at_ j) 40 4 == en)
    | none => false)

/-! ## Layers split along K (R65, R66) -/

/-- The array's MANIFEST entries in their order: stage, step, layer number. -/
def Image.layers (v : Image) : List (Nat × Nat × Nat) :=
  match v.find secManifest with
  | none => []
  | some x => (upTo (x.size / 16)).filterMap (fun i =>
      let e := v.num (x.offset + 16 * i) 16
      if bitsOf e 40 4 = 0 then some (bitsOf e 16 8, bitsOf e 24 16, bitsOf e 0 16) else none)

/-- Rows lie in the output region of a matrix step. -/
def Geo.holds (g : Geo) (row n : Nat) : Bool := decide (g.out ≤ row) && decide (row + n ≤ g.out + g.nb * g.m)

/-- The multiply step of a stage, by index. -/
def Stage.mulGeo (st : Stage) (j : Nat) : Option Geo :=
  (st.steps[j]?).bind (fun x => if hKind x.hdr = kMatrix ∧ (geoOf x.desc).op = opMul then some (geoOf x.desc) else none)

/-- A PUSH that delivers partials: the owner's stage and step, the contributor's, its own index, the first row, the
rows. -/
structure PushPart where
  owner : Nat × Nat
  from_ : Nat × Nat
  push  : Nat
  row   : Nat
  rows  : Nat
deriving DecidableEq, Repr

/-- The partials that the PUSH step `j` of stage `i` delivers. The graph names a split-K reduction by a PUSH of output
rows of one step of a layer onto output rows of another stage's step of that layer, of the same M and N: DESIGN CHOICE
(log entry 116). -/
def pushPartOf (g : Graph) (l : List Stage) (layers : List (Nat × Nat × Nat)) (i j : Nat) (sp : Step) : Option PushPart :=
  let d : BitVec 256 := sp.desc.truncate 256
  if hKind sp.hdr ≠ kDma ∨ dOp d ≠ dmaPush then none
  else
    match l[i]?, g.pushTarget sp.hdr (dDstTile d) with
    | some st, some (b, w) =>
      let rs := g.pushRows sp w
      let row := rs.headD 0
      match ((upTo j).reverse).find? (fun k => (st.mulGeo k).any (fun x => x.holds (dInk d) (dRows d))) with
      | none => none
      | some k =>
        (layers.find? (fun y => y.1 == b && b != i && layers.contains (i, k, y.2.2) && rs.all (fun r => r == row) &&
          ((l[b]?).bind (fun sb => sb.mulGeo y.2.1)).any (fun o => o.holds row (dRows d) &&
            (st.mulGeo k).any (fun x => x.m == o.m && x.n == o.n)))).map (fun y =>
              ⟨(b, y.2.1), (i, k), j, row, dRows d⟩)
    | _, _ => none

def pushParts (g : Graph) (l : List Stage) (layers : List (Nat × Nat × Nat)) : List PushPart :=
  (allSteps l).filterMap (fun x => pushPartOf g l layers x.1 x.2.1 x.2.2)

/-- The steps of one reduction in the order of their segments: that of the MANIFEST (log entry 116). -/
def splitGroup (ps : List PushPart) (layers : List (Nat × Nat × Nat)) (owner : Nat × Nat) : List (Nat × Nat) :=
  (layers.map (fun y => (y.1, y.2.1))).filter (fun y => y == owner || ps.any (fun p => p.owner == owner && p.from_ == y))

/-- The partials of every split-K reduction. -/
def splitParts (g : Graph) (l : List Stage) (layers : List (Nat × Nat × Nat)) : List SplitPart :=
  let ps := pushParts g l layers
  ((ps.map (·.owner)).eraseDups).flatMap (fun o =>
    let ix (x : Nat × Nat) : Nat := (splitGroup ps layers o).findIdx (fun y => y == x)
    let own := ((l[o.1]?).bind (fun st => st.mulGeo o.2)).elim (0, 0) (fun x => (x.out, x.nb * x.m))
    (⟨o.1, o.2, ix o, none, own.1, own.2⟩ : SplitPart) ::
      (ps.filter (fun p => p.owner == o)).map (fun p => ⟨o.1, o.2, ix p.from_, some (p.from_.1, p.push), p.row, p.rows⟩))

/-- R65: every step of a reduction but the last ends on a segment boundary, and they have one segment length. R66: each
partial row is that of one segment, so only an owner whose sums come first computes several (log entry 116). -/
def splitsOk (g : Graph) (l : List Stage) (layers : List (Nat × Nat × Nat)) : Bool :=
  let ps := pushParts g l layers
  ((ps.map (·.owner)).eraseDups).all (fun o =>
    let steps := splitGroup ps layers o
    let gs := steps.filterMap (fun y => (l[y.1]?).bind (fun st => st.mulGeo y.2))
    gs.all (fun x => gs.all (fun y => x.seg == y.seg)) &&
    (if steps.head? == some o then gs.drop 1 else gs).all (fun x => decide (x.kc ≤ x.seg)) &&
    gs.dropLast.all (fun x => x.k % 128 == 0 && x.kc % x.seg == 0))

/-- The scrub blocks of a folio in order: directory index, block. -/
def scrubBlocks (l : List Sec) : List (Nat × Nat) :=
  (upTo l.length).flatMap (fun i => match l[i]? with
    | some x => if x.data then (upTo (ceilDiv x.size (2 ^ 20))).map (fun b => (i, b)) else []
    | none => [])

def Image.crctabOk (v : Image) (x : Sec) : Bool :=
  let want := scrubBlocks v.secs
  x.size == 16 * want.length &&
  (upTo want.length).all (fun i => match want[i]? with
    | some (d, b) =>
      let e := v.num (x.offset + 16 * i) 8
      bitsOf e 0 16 == d && bitsOf e 16 32 == b && bitsOf e 48 16 == 0
    | none => false)

/-! ## Check 4 -/

/-- The graph records and programs of an image that passed checks 1 to 3; `none` where their layout fails. -/
def Image.parse (v : Image) : Option (Graph × List Stage) :=
  match v.find secGraph with
  | none => none
  | some x =>
    let o := x.offset
    if v.zero (o + 3) 13 ∧ 1 ≤ v.nStages o ∧ v.nStages o ≤ 64 ∧ 1 ≤ v.nEdges o ∧ v.nBufs o ≤ 64 ∧
        x.size = 16 + 32 * v.nStages o + 16 * v.nEdges o + 16 * v.nBufs o then
      let g := v.graph o
      (v.programs g).map (fun l => (g, l))
    else none

/-- Every record of the graph is well formed. -/
def Image.recordsOk (v : Image) : Bool :=
  match v.find secGraph with
  | none => false
  | some x =>
    let o := x.offset
    (upTo (v.nStages o)).all (v.stageOk o) && (upTo (v.nEdges o)).all (v.edgeOk o) && (upTo (v.nBufs o)).all (v.bufOk o)

/-- Every stage that has a program has one STAGE section, and no other STAGE section stands (Table 07-3). -/
def Image.stageSecsOk (v : Image) (g : Graph) : Bool :=
  v.secs.all (fun x => x.type != secStage || (g.stages[x.index]?).any (fun st => st.works && st.kind != .aster))

/-- Every step is well formed. -/
def stepsOk (g : Graph) (l : List Stage) : Bool :=
  (allSteps l).all (fun x => match l[x.1]? with
    | some st => hdrOk st x.2.2.hdr && edgesOk g x.1 x.2.2.hdr && relocsOk g x.1 st x.2.2 && descOk g x.1 st x.2.2
    | none => false)

/-- R260: a folded descriptor of a PAIRED stage has at most 2,048 rows. -/
def foldsOk (l : List Stage) : Bool :=
  (allSteps l).all (fun x =>
    let d : BitVec 256 := x.2.2.desc.truncate 256
    hKind x.2.2.hdr != kDma || (dOp d == dmaRead && !hFold x.2.2.hdr) || decide (dRows d ≤ 2048))

/-- Check 4; `paired` says that a PAIRED pipeline names the folio. -/
def Image.contentsOk (v : Image) (paired : Bool) : Bool :=
  v.recordsOk &&
  (match v.parse with
   | none => false
   | some (g, l) =>
     g.ok && v.stageSecsOk g && stepsOk g l && splitsOk g l v.layers &&
     v.secs.all (fun x => x.type != secNib || v.nibSecOk x) && v.rowsOrdered g l &&
     (v.find secManifest).any (fun x => v.manifestOk l x) && (v.find secCrctab).any (fun x => v.crctabOk x) &&
     (v.find secSign).any (fun x => x.size == 1152) && (!paired || foldsOk l))

/-- R224: the status of the first check that fails, or 0. -/
def Image.folioStatus (v : Image) (stepping : Nat) (paired : Bool) : Nat :=
  if !v.dirFormat then stFormat
  else if !(v.dirRange stepping) then stRange
  else if !v.secCrcs then stDamaged
  else if !(v.contentsOk paired) then stFormat
  else stOk

/-! ## The signature block (R455) -/

/-- Checks 1 to 5 of R455 on the block at an offset, for the bytes before it: 0 when all pass, 1 when one of
checks 1 to 4 fails, 2 when check 5 fails. `folio` selects folio use. -/
def Image.sigStatus (v : Image) (slots : List KeySlot) (off : Nat) (folio : Bool) : Nat :=
  let o := off
  let modulus := v.bytes (o + 64) 512
  let expo := v.bytes (o + 8) 4
  let head := v.num o 4 == 0x4E474953 && v.num (o + 4) 2 == 1 && decide (v.num (o + 6) 1 < 4) &&
    decide (v.num (o + 7) 1 < 2) && v.zero (o + 12) 4 && v.zero (o + 44) 20 && v.zero (o + 1088) 64
  let slot := slots[v.num (o + 6) 1]?
  let key := slot.any (fun k => k.programmed && !k.revoked && (if folio then k.useFolio else k.useImage) &&
    k.hash == digestVec (sha512 (modulus ++ expo)))
  if !(head && key && bytesToNat expo == 65537) then 1
  else if pssVerify (bytesToNat modulus) 65537 (v.num (o + 576) 512) (sha512 (v.bytes 0 off)) then 0 else 2

def Image.encrypted (v : Image) (off : Nat) : Bool := bitOf (v.num (off + 7) 1) 0

/-- Acts 3 to 5 of R468 on a folio image: its status. An encrypted folio is refused with FORMAT before the signature
itself is checked (R456). -/
def Image.verify (v : Image) (slots : List KeySlot) (stepping : Nat) (paired : Bool) (hash : BitVec 512) : Nat :=
  let st := v.folioStatus stepping paired
  if st ≠ 0 then st
  else
    match v.find secSign with
    | none => stFormat
    | some x =>
      if digestVec (sha512 (v.bytes 0 x.offset)) ≠ hash then stDamaged
      else
        if v.encrypted x.offset then stFormat
        else match v.sigStatus slots x.offset true with
          | 1 => stFormat
          | 2 => stDamaged
          | _ => stOk

end Sys2Proof.Machine
end

