-- ==== Sys2Proof/Machine/Move.lean ====
section
/-!
DEFINITION. Moving a logical tile to another physical tile of its cluster (R145, R78, R195, R515), and loading a
tile's nib memory from a folio.
-/
namespace Sys2Proof.Machine

/-! ## Nib memory -/

/-- The folio of a bound pipeline in HBM. -/
def State.folioOf (s : State) (p : Pipe) : Image := ⟨s.mem.hbm, p.load⟩

/-- The words of a NIB section stored into TIL_NIB_MEM from index 0 (Table 07-3). -/
def State.loadNib (s : State) (t : Nat) (ws : List B64) : State :=
  (upTo ws.length).foldl (fun s i => s.setReg64 (kTil t (0x1000 + 8 * i)) (ws[i]?.getD 0)) s

/-- Memory that the NIB section of a folio tile takes, with the header and the directory that lead to it. -/
def Image.nibSpans (v : Image) (unit : Nat) : List (Nat × Nat) :=
  v.dirSpans ++ v.spansOf (fun x => x.type == secNib && x.index == unit)

/-- Nib memory of tile `t` written for every stage of a list of hosts, in their order, from the folio as core 0 reads it.
DESIGN CHOICE (log entry 137): a section that cannot be read leaves the nib memory as it is. -/
def State.loadHosts (s : State) (t : Nat) (hs : List (Nat × Bool × Nat)) : State :=
  hs.foldl (fun (s : State) h => match (s.pipe h.1).stage h.2.2 with
    | some st =>
      let v := s.folioOf (s.pipe h.1)
      let r := s.memReads rqCore0 none (v.nibSpans st.unit)
      if r.2 = 0 then r.1.loadNib t (v.nibWords st.unit) else r.1
    | none => s) s

/-- A page that these reads touch is being copied (R363). -/
def State.hostsWait (s : State) (hs : List (Nat × Bool × Nat)) : Bool :=
  hs.any (fun h => ((s.pipe h.1).stage h.2.2).any (fun st =>
    ((s.folioOf (s.pipe h.1)).nibSpans st.unit).any (fun x => s.pageBusy x.1 x.2)))

/-! ## The copy -/

/-- Rows of powered slices that a word list names, once each. -/
def State.rowsInError (s : State) (t : Nat) (l : List (Nat × Nat)) : List Nat :=
  ((l.map (·.1)).eraseDups).filter (fun r => s.sliceOn t (sliceOf r))

/-- The old tile counts and logs the uncorrectable words of a row of the copy. -/
def State.copyUe (s : State) (t row : Nat) : State :=
  let ue := wordsAt (s.tile t).inkUe row
  (s.addFld (kTil t 0x214) 16 16 ue.length).inkLog t row rqCopy 2 (lowest ue)

/-- Rows of the old tile as the new one receives them: powered slices only, uncorrectable rows as zeros. -/
def State.copyRows (s : State) (t : Nat) (bad : List Nat) : SMap Row :=
  (s.tile t).ink.filter (fun e => s.sliceOn t (sliceOf e.1) && !bad.contains e.1)

/-- Registers of a tile that travel with its logical tile: slice power, saturation counters, TIL_NIB_GFAULT. -/
def movedRegs : List Nat :=
  [0x208] ++ ((upTo 34).map (fun i => 0x400 + 4 * i)) ++ [0x508]

/-- The copy of a move from `src` to `dst` (R145): its effects on both tiles. Every correctable word of a powered
slice is counted, and its row queued for the scrub of the old tile (R132). DESIGN CHOICE (log entry 105): rows are
copied in rising order, so the log ends with the last row in error. -/
def State.copyTile (s : State) (src dst : Nat) : State :=
  let hs := s.hosts src
  let bad := sortBy (fun a b => decide (a < b)) (s.rowsInError src (s.tile src).inkUe)
  let ce := (s.tile src).inkCe.filter (fun e => s.sliceOn src (sliceOf e.1))
  let ink := s.copyRows src bad
  let lostSl := (bad.map sliceOf).eraseDups
  let flags := (s.tile src).flags.filter (fun f => match (s.pipe f.1).stage f.2.2 with
    | some st => !(lostSl.any (fun sl => st.usesSlice sl))
    | none => true)
  let s := s.setTile src { s.tile src with scrubQ := ((s.tile src).scrubQ ++ ce.map (·.1)).eraseDups }
  let s := bad.foldl (fun (s : State) r => s.copyUe src r) (s.addFld (kTil src 0x214) 0 16 ce.length)
  let s := movedRegs.foldl (fun (s : State) o => s.setReg (kTil dst o) (s.reg (kTil src o))) s
  let o := s.tile src
  let s := s.setTile dst { s.tile dst with
    ink := ink, inkCe := [], inkUe := [], filling := o.filling, flags := flags, aster := o.aster, scrubQ := []
    satAt := o.satAt, satLen := o.satLen, satHot := o.satHot }
  ((s.bankWaits src).bankWaits dst).loadHosts dst hs

/-- A move of logical tile `l` to `dst`: admission stops; once no epoch is resident and no transfer of the old
tile is outstanding, the copy starts. -/
def State.moveStart (s : State) (l dst : Nat) : Option State :=
  match s.physOf l with
  | none => none
  | some src =>
    let c := s.cluster (src / 10)
    if s.serving ∧ s.fwServes ∧ dst / 10 = src / 10 ∧ dst ≠ src ∧ c.move.isNone ∧ s.freeTile dst then
      let tl := s.tile src
      if tl.residents.isEmpty ∧ tl.xfers.isEmpty then
        if s.hostsWait (s.hosts src) then none else
        let s := (s.setTile src { tl with swap := true }).copyTile src dst
        some (s.setCluster (src / 10) { s.cluster (src / 10) with move := some (l, dst) })
      else if tl.swap then none
      else some (s.setTile src { tl with swap := true })
    else none

/-- TILE_MOVE (R145, R515). -/
def execTileMove (l dst : Nat) (s : State) : Out :=
  attempt (if l < 64 ∧ dst < 80 then s.moveStart l dst else none) s

/-- The end of a move: TILE_MAP points at the new tile, words that waited go there, and a retirement that waited
for the move ends. -/
def State.moveDone (s : State) (l src dst : Nat) : State :=
  let k := src / 10
  let s := s.setTile src { s.tile src with swap := false, flags := [], aster := false }
  let s : State := { s with
    tileMap := SMap.set tileMap0 s.tileMap l (some dst)
    commit := { s.commit with rsFly := s.commit.rsFly.map (fun (m : RsMsg) => if m.tile = src then { m with tile := dst } else m) } }
  let s := s.setCluster k { s.cluster k with move := none }
  let s := match (s.cluster k).retire.find? (fun r => r.1 == src) with
    | some r => s.retire src r.2.1 r.2.2 (some l) (some dst)
    | none => s
  (s.settleTile dst).settleRetire k

/-- TILE_MOVE_DONE (R145). -/
def execTileMoveDone (l : Nat) (s : State) : Out :=
  attempt (match s.physOf l with
    | some src =>
      match (s.cluster (src / 10)).move with
      | some (l', dst) => if s.awake ∧ l' = l then some (s.moveDone l src dst) else none
      | none => none
    | none => none) s

end Sys2Proof.Machine
end

