-- ==== Sys2Proof/Machine/Faults.lean ====
section
/-!
DEFINITION. The rotating in-field test, repair and retirement (R515, R517, R518), the safety pins and the safety
channel (R522 to R526).
-/
namespace Sys2Proof.Machine

/-! ## Tests of tiles -/

/-- TIME_NS at the start of a tile's last passing test; 0 before one (Table 17-8). -/
def State.exposure (s : State) (t : Nat) : Nat := SMap.get zeroNat (s.cluster (t / 10)).lastPass t

/-- Elapsed count at which a tile last passed its test, plus 1; 0 before it has. TIME_NS serves only as a timestamp
(R295). -/
def State.passedAt (s : State) (t : Nat) : Nat := SMap.get zeroNat (s.cluster (t / 10)).passedAt t

/-- Of the free tiles of a cluster, the one whose last test passed earliest (R517). -/
def State.earliestFree (s : State) (c : Nat) : Option Nat :=
  (((upTo 10).map (fun i => 10 * c + i)).filter (fun t => s.freeTile t)).foldl (fun (acc : Option Nat) t =>
    match acc with
    | none => some t
    | some b => if s.passedAt t < s.passedAt b then some t else some b) none

/-- Tiles of a cluster in rotation order from `n`. -/
def rotation (c n : Nat) : List Nat := (upTo 10).map (fun i => 10 * c + (n + i) % 10)

/-- The next victim of the rotation. -/
def State.nextVictim (s : State) (c : Nat) : Option Nat :=
  let cl := s.cluster c
  (rotation c cl.next).find? (fun t => !(s.tile t).failed && !(cl.retire.any (fun r => r.1 == t)) &&
    !(cl.repaired.any (fun r => r.1 == t)))

/-- A test starts now on a physical tile (BLT_TEST_STAT.victim). -/
def State.startTest (s : State) (c t : Nat) (out : Bool) : State :=
  s.setCluster c { s.cluster c with test := some (t, out, s.elapsed.toNat, s.timeNs) }

/-- TILE_TEST_START (R517): the next victim's logical tile moves to a free tile; a victim without one is tested
once no test runs. -/
def execTileTestStart (c : Nat) (s : State) : Out :=
  attempt (if s.serving ∧ c < 8 ∧ s.inService ∧ s.bit (kBlt 0x20) 0 ∧ s.fwServes ∧ 9 ≤ (s.working c).length ∧
      (s.cluster c).due.isEmpty then
    match s.nextVictim c with
    | none => none
    | some t =>
      match s.logicalOf t with
      | some l =>
        match s.earliestFree c with
        | some d => s.moveStart l d
        | none => none
      | none =>
        if (s.cluster c).test.isSome ∨ (s.cluster c).move.any (fun m => m.2 == t) then none
        else
          let s := s.startTest c t false
          some (s.setCluster c { s.cluster c with next := (t % 10 + 1) % 10 })
    else none) s

/-- OUT_OF_TURN_TEST_START (R518): the oldest test due, ahead of the rotation; without a free tile the physical
tile is tested in place once no epoch is resident. -/
def execOutOfTurnTestStart (c : Nat) (s : State) : Out :=
  attempt (if s.serving ∧ c < 8 ∧ s.fwServes ∧ (s.cluster c).test.isNone then
    match (s.cluster c).due with
    | [] => none
    | t :: ts =>
      let cl := s.cluster c
      let begun : State := (s.setCluster c { cl with due := ts }).startTest c t true
      if (s.tile t).failed ∨ cl.retire.any (fun r => r.1 == t) then some (s.setCluster c { cl with due := ts })
      else if cl.move.isSome then none
      else
        match s.logicalOf t with
        | none => some begun
        | some l =>
          match s.earliestFree c with
          | some d => s.moveStart l d
          | none =>
            let tl := s.tile t
            if tl.residents.isEmpty ∧ tl.xfers.isEmpty then some (begun.setTile t { tl with swap := true })
            else if tl.swap then none
            else some (s.setTile t { tl with swap := true })
    else none) s

/-- A failing test recorded: class 0x04 with an action; the state and the entry's seq. -/
def State.testFault (s : State) (t action spare : Nat) (degraded : Bool) : State × B32 :=
  (s.fault { mkFault 4 action t (BitVec.ofNat 64 (s.exposure t)) with degraded := degraded, spare := spare },
    s.safety.nextSeq)

/-- A tile that passed: admission to it resumes, and a repaired one returns to service. -/
def State.testPass (s : State) (c t : Nat) (start : B64) : State :=
  let k := kBlt (0x40 + 4 * c)
  let s := s.setFld k 16 16 (s.fld k 16 16 + 1)
  let cl := s.cluster c
  let s := s.setCluster c { cl with lastPass := SMap.set zeroNat cl.lastPass t start.toNat
                                    passedAt := SMap.set zeroNat cl.passedAt t (s.elapsed.toNat + 1)
                                    repaired := cl.repaired.filter (fun r => r.1 != t) }
  let s := match cl.repaired.find? (fun r => r.1 == t) with
    | some r => s.raise 0x0B05 (mkParam [(0, 0xFF), (8, t), (16, 0xFF), (24, 3), (32, r.2.toNat)])
    | none => s
  let s := if cl.retire.any (fun r => r.1 == t) then s else (s.setTile t { s.tile t with swap := false }).settleTile t
  s.settleRetire c

/-- A failure that unused array spares cover: the skip registers are written and a further test is due. -/
def State.testRepair (s : State) (c t : Nat) (row col : B32) : State :=
  let x := s.testFault t 3 0xFFFF false
  let s := (x.1.setSkip t false row).setSkip t true col
  let cl := s.cluster c
  s.setCluster c { cl with repaired := cl.repaired ++ [(t, x.2)], due := cl.due ++ [t] }

/-- A failure beyond repair: the tile is due for retirement with cause 1 (R515). DEDUCED (log entry 136): the entry is
written before the logical tile moves, and names as the unit that takes over the free tile which passed earliest; a tile
that carries no logical tile has none (R527, R529). -/
def State.testFail (s : State) (c t : Nat) : State :=
  let carries := (s.logicalOf t).isSome
  let taker := if carries then s.earliestFree c else none
  let deg := decide (((s.working c).filter (· != t)).length ≤ 8) && s.exhausts 0 c
  let x := s.testFault t (if carries && s.willFree t then 2 else 4) (taker.getD 0xFFFF) deg
  (x.1.dueRetire t 1 x.2).settleRetire c

/-- TILE_TEST_END (R515, R517): 2,000 µs after the test's start, or once firmware serves again: it takes the result,
and no firmware detection runs during an update (R24, R522). -/
def execTileTestEnd (c : Nat) (r : TestResult) (s : State) : Out :=
  attempt (match (s.cluster c).test with
    | none => none
    | some (t, _, at_, start) =>
      if s.awake ∧ c < 8 ∧ s.fwServes ∧ at_ + usTicks 2000 ≤ s.elapsed.toNat then
        let cl := s.cluster c
        let s1 := s.setCluster c { cl with test := none }
        some (s.byCode (match r with
          | .pass => s1.testPass c t start
          | .repairable row col =>
            if cl.repaired.any (fun x => x.1 == t) then s1.testFail c t else s1.testRepair c t row col
          | .fail => s1.testFail c t))
      else none) s

/-! ## FAULT_n and SAFE_TOGGLE -/

/-- FAULT_HOLD_EXPIRE (R522): asserted for 1 ms and every report acknowledged. -/
def execFaultHoldExpire (s : State) : Out :=
  attempt (if s.awake ∧ s.pins.fault ∧ s.safety.reports.isEmpty ∧ s.safety.faultAt + msTicks 1 ≤ s.elapsed.toNat then
    some { s with pins := { s.pins with fault := false } } else none) s

/-- Firmware has written BLT_ALIVE within the last 5 ms. -/
def State.alive (s : State) : Bool :=
  match s.safety.aliveAt with
  | some a => decide (s.elapsed.toNat ≤ a + msTicks 5)
  | none => false

/-- SAFE_TOGGLE toggles (R523). -/
def State.toggling (s : State) : Bool := s.awake && s.inService && s.alive

/-- SAFE_TOGGLE_EDGE (R523): one edge at every 500 µs of the elapsed count. -/
def execSafeToggleEdge (s : State) : Out :=
  attempt (if s.toggling ∧ s.elapsed.toNat % usTicks 500 = 0 ∧ s.elapsed.toNat ≠ s.safety.edgeAt then
    some { s with pins := { s.pins with toggle := !s.pins.toggle }
                  safety := { s.safety with edgeAt := s.elapsed.toNat } } else none) s

/-- ALIVE_WRITE (R523, R530). -/
def execAliveWrite (rq : Requester) (s : State) : Out :=
  attempt (if s.awake then
    some (s.guardReg rq (kBlt 0x14) (fun s => { s with safety := { s.safety with aliveAt := some s.elapsed.toNat } }))
    else none) s

/-! ## The report queue and the channel -/

/-- The report of a seq leaves the queue (R525). -/
def State.ackReport (s : State) (seq : B32) : State :=
  { s with safety := { s.safety with reports := s.safety.reports.filter (fun e => e.seq != seq) } }

/-- FAULT_ACK_WRITE (R525). -/
def execFaultAckWrite (rq : Requester) (seq : B32) (s : State) : Out :=
  attempt (if s.awake then
    some (s.guardReg rq (kBlt 0x10) (fun s => if s.safety.spiSeen then s else s.ackReport seq)) else none) s

/-- The 32 bytes of a response (Table 17-6). -/
def State.safetyResponse (s : State) (cmd count : Nat) (crcErr : Bool) (rep : Option BltEntry) : BitVec 256 :=
  let flags := b2n s.inService + 2 * b2n s.pins.fault + 4 * b2n s.pins.degraded + 8 * b2n s.pins.halt +
    16 * b2n s.hostAbsent + 32 * b2n crcErr + 64 * b2n rep.isSome + 128 * b2n s.safety.overflow
  let r := match rep with
    | some e => natToBytes e.seq.toNat 4 ++ natToBytes e.cls 1 ++ natToBytes e.action 1 ++ natToBytes e.unit 2 ++
        natToBytes e.t.toNat 8 ++ natToBytes e.detail.toNat 8
    | none => List.replicate 24 0
  let pend := if s.pins.halt then 0 else min 255 s.safety.reports.length
  let b := natToBytes cmd 1 ++ natToBytes count 1 ++ natToBytes flags 1 ++ natToBytes s.pins.bootErr.toNat 1 ++ r ++
    natToBytes pend 1 ++ [0]
  BitVec.ofNat 256 (bytesToNat (b ++ natToBytes (crc16 b) 2))

def rCmd (r : BitVec 256) : Nat := bitsOf r.toNat 0 8
def rCount (r : BitVec 256) : Nat := bitsOf r.toNat 8 8
def rAck (r : BitVec 256) : B32 := BitVec.ofNat 32 (bitsOf r.toNat 32 32)
/-- The CRC-16 of a request holds (R524). -/
def rOk (r : BitVec 256) : Bool := decide (crc16 (natToBytes r.toNat 30) = bitsOf r.toNat 240 16)

/-- The channel answers: clocks run, or the device is halted (R526). -/
def State.channelOn (s : State) : Bool := s.awake || decide (s.boot.phase = .halted)

/-- The response that goes out in a transaction: the one prepared before, a STATUS response in the first one. -/
def State.outgoing (s : State) : BitVec 256 :=
  if s.safety.response = 0 then s.safetyResponse 1 0 false none else s.safety.response

/-- A transaction: `out` has gone out, and the next response is prepared. -/
def State.exchange (s : State) (out next : BitVec 256) (valid : Bool) : State :=
  { s with safety := { s.safety with
      sent := out, response := next, crcErr := !valid, spiSeen := s.safety.spiSeen || valid } }

/-- A valid request of a command: its effect `f` comes first, the response shows the state after it with the report `rep`
that NEXT returns, and `g` follows the response. In halt every request is answered with STATUS content (R526). -/
def State.safetyCmd (s : State) (r : BitVec 256) (cmd : Nat) (rep : Option BltEntry) (f g : State → State) : Option State :=
  if s.channelOn ∧ rOk r then
    if s.pins.halt then some (s.exchange s.outgoing (s.safetyResponse cmd (rCount r) false none) true)
    else some (g ((f s).exchange s.outgoing ((f s).safetyResponse cmd (rCount r) false rep) true))
  else none

/-- SAFETY_NOP: command 0x00, or a reserved one (Table 17-5). -/
def execSafetyNop (r : BitVec 256) (s : State) : Out :=
  attempt (if rCmd r = 0 ∨ 3 < rCmd r then s.safetyCmd r 0 none id id else none) s

/-- SAFETY_STATUS: the overflow flag ends with it. -/
def execSafetyStatus (r : BitVec 256) (s : State) : Out :=
  attempt (if rCmd r = 1 then
    s.safetyCmd r 1 none id (fun s => { s with safety := { s.safety with overflow := false } }) else none) s

/-- SAFETY_NEXT: the oldest unacknowledged report. -/
def execSafetyNext (r : BitVec 256) (s : State) : Out :=
  attempt (if rCmd r = 2 then s.safetyCmd r 2 s.safety.reports.head? id id else none) s

/-- SAFETY_ACK (R525). -/
def execSafetyAck (r : BitVec 256) (s : State) : Out :=
  attempt (if rCmd r = 3 then s.safetyCmd r 3 none (fun s => s.ackReport (rAck r)) id else none) s

/-- SAFETY_REQUEST_DISCARDED (R524): another length, or a CRC that fails. -/
def execSafetyRequestDiscarded (frame : List Byte) (s : State) : Out :=
  attempt (if s.channelOn ∧ (frame.length ≠ 32 ∨ !(rOk (BitVec.ofNat 256 (bytesToNat frame)))) then
    some ((s.exchange s.outgoing (s.safetyResponse 0 0 true none) false).addSat (kBlt 0x30) 1)
    else none) s

end Sys2Proof.Machine
end

