-- ==== Sys2Proof/Machine/Video.lean ====
section
/-!
DEFINITION. Video decode, scaling and encode (chapter 09): contexts and their checks, access units, frames on
decode cores, taint and budgets, output records, encode sessions and packet rings.
-/
namespace Sys2Proof.Machine

def State.vctx (s : State) (x : Nat) : Ctx := SMap.get Ctx.idle s.vid.ctxs x
def State.setVctx (s : State) (x : Nat) (v : Ctx) : State :=
  { s with vid := { s.vid with ctxs := SMap.set Ctx.idle s.vid.ctxs x v } }
def State.decJob (s : State) (c : Nat) : Option DecJob := SMap.get noJob s.vid.cores c
def State.setDecJob (s : State) (c : Nat) (v : Option DecJob) : State :=
  { s with vid := { s.vid with cores := SMap.set noJob s.vid.cores c v } }
def State.encJob (s : State) (c : Nat) : Option EncJob := SMap.get noEnc s.vid.encs c
def State.setEncJob (s : State) (c : Nat) (v : Option EncJob) : State :=
  { s with vid := { s.vid with encs := SMap.set noEnc s.vid.encs c v } }
def State.encSess (s : State) (e : Nat) : EncSess := SMap.get EncSess.idle s.vid.sess e

def kCtx (x off : Nat) : Nat := kVid (0x40 * x + off)
def kDec (c off : Nat) : Nat := kVid (0x8000 + 0x10 * c + off)
def kEnc (c off : Nat) : Nat := kVid (0x9000 + 0x10 * c + off)
def kSess (e off : Nat) : Nat := kVid (0xA000 + 0x10 * e + off)

/-! ## Context descriptors (R306 to R308, R324) -/

/-- Frame size F(W, H, b) (R307). -/
def frameSize (w h depth : Nat) : Nat :=
  let e := if depth = 10 then 2 else 1
  ceilDiv (w * e) 64 * 64 * (h + ceilDiv h 2) + ceilDiv w 16 * ceilDiv h 16 * 64

/-- The fields of a descriptor of 576 bytes: Table 09-2, then eight Table 09-4 records. -/
def ctxOf (b : List Byte) : Nat × CtxDesc :=
  let n (off len : Nat) : Nat := bytesToNat ((b.drop off).take len)
  (n 1 1, ⟨n 0 1 % 4, n 2 1, n 3 1, n 4 2, n 6 2, n 8 4, n 12 1, n 13 1, n 14 1, n 16 8 % 2 ^ 40, n 24 8,
    n 32 8 % 2 ^ 40, BitVec.ofNat 32 (n 40 4), (upTo 8).map (fun i => BitVec.ofNat 512 (n (64 + 64 * i) 64))⟩)

/-- Fields of an output record. -/
def recBit (r : BitVec 512) (i : Nat) : Bool := r.getLsbD i
def recNum (r : BitVec 512) (byte len : Nat) : Nat := bitsOf r.toNat (8 * byte) (8 * len)

/-- A page range lies in non-secure, unlocked regions: some valid entry covers every page, none secure or
locked. -/
def State.openRegion (s : State) (lo len : Nat) : Bool :=
  decide (0 < len) && decide (lo + len ≤ hbmTop) &&
  (upTo ((lo + len - 1) / 4096 + 1 - lo / 4096)).all (fun i =>
    let ms := s.matching ((lo / 4096 + i) * 4096)
    !ms.isEmpty && ms.all (fun e => !e.2.world && !e.2.lock))

/-- An output record's reserved bits. -/
def recFormat (r : BitVec 512) : Bool :=
  decide (bitsOf r.toNat 4 4 = 0) && decide (recNum r 2 6 = 0) && decide (recNum r 44 4 = 0) &&
  decide (bitsOf r.toNat (48 * 8 + 40) 24 = 0) && decide (recNum r 56 8 = 0)

/-- R324: the ranges of a record, enabled or not. -/
def recRange (r : BitVec 512) : Bool :=
  let fmt := bitsOf r.toNat 1 2
  let w := recNum r 12 2
  let h := recNum r 14 2
  let ow := recNum r 16 2
  let oh := recNum r 18 2
  (decide (2 ≤ recNum r 1 1) && decide (recNum r 1 1 ≤ 16) && decide (16 ≤ ow) && decide (ow ≤ 4096) &&
   decide (16 ≤ oh) && decide (oh ≤ 4096) && (decide (2 ≤ fmt) || (decide (ow % 2 = 0) && decide (oh % 2 = 0))) &&
   decide (ow ≤ w) && decide (w ≤ 16 * ow) && decide (oh ≤ h) && decide (h ≤ 16 * oh) &&
   (upTo 6).all (fun i => fpIsFin (BitVec.ofNat 32 (recNum r (20 + 4 * i) 4))) &&
   decide (recNum r 48 5 % 64 = 0))

/-- The reserved bits of a context descriptor and of its output records are 0 (Tables 09-2 and 09-4). -/
def ctxReserved (b : List Byte) : Bool :=
  let n (off len : Nat) : Nat := bytesToNat ((b.drop off).take len)
  decide (n 0 1 / 4 = 0) && decide (n 15 1 = 0) && decide (n 16 8 / 2 ^ 40 = 0) && decide (n 32 8 / 2 ^ 40 = 0) &&
  decide (n 44 20 = 0) && (ctxOf b).2.recs.all recFormat

/-- R308, R324, R397: the status of a context descriptor. -/
def State.ctxStatus (s : State) (b : List Byte) : Nat :=
  let c := ctxOf b
  let d := c.2
  if d.codec = 3 ∨ !(ctxReserved b) then stFormat
  else if !(d.maxDepth == 8 || d.maxDepth == 10) ∨ d.maxRefs = 0 ∨ 16 < d.maxRefs ∨ d.maxW < 16 ∨ 8192 < d.maxW ∨
      d.maxH < 16 ∨ 8192 < d.maxH ∨ d.maxAu = 0 ∨ d.mult = 0 ∨ d.pool % 64 ≠ 0 ∨
      (d.maxDepth = 10 ∧ d.codec = 0) ∨ (d.maxRefs ≠ 8 ∧ d.codec = 2) ∨
      d.poolLen < (d.maxRefs + 1) * frameSize d.maxW d.maxH d.maxDepth ∨
      localTop < d.pool + d.poolLen - 1 ∨ !s.openRegion d.pool d.poolLen ∨ !s.openRegion d.outAddr 512 ∨
      (s.vctx c.1).desc.isSome ∨ (s.iring d.iring).target.isSome ∨ !(d.recs.all recRange) then stRange
  else stOk

/-- A context is created (R306, R397): its intake ring is bound to it, and the control complex places its
output records at out_addr (log entry 29). -/
def State.createCtx (s : State) (b : List Byte) : State :=
  let c := ctxOf b
  let d := c.2
  let s := s.setVctx c.1 { Ctx.idle 0 with desc := some d }
  let s := s.setReg (kCtx c.1 0) (BitVec.ofNat 32 (1 + place d.codec 2 2 + 0xF00))
  let s := (s.setReg (kCtx c.1 4) 0).setReg (kCtx c.1 8) 0
  let s := s.setIring d.iring { s.iring d.iring with target := some (.au c.1) }
  (s.memAccess ⟨rqCore0, true, d.outAddr, 0, (b.drop 64).take 512, false⟩ none).1

/-- A context is free again. -/
def State.freeCtx (s : State) (x : Nat) : State := (s.setVctx x (Ctx.idle 0)).setReg (kCtx x 0) 0xF00

def State.ctxState (s : State) (x : Nat) : Nat := s.fld (kCtx x 0) 0 2
def State.setCtxState (s : State) (x st : Nat) : State := s.setFld (kCtx x 0) 0 2 st

/-! ## Completion entries (R320) -/

/-- Counter of VID_CTX_ST for a status. -/
def stCounter (status : Nat) : Option Nat :=
  if status = stDims then some 0 else if status = stFormat then some 1
  else if status = stRange ∨ status = stLen then some 2 else if status = stDamaged then some 3
  else if status = stSlow then some 4 else if status = stFault then some 5 else none

/-- An access unit that yields no sample completes with one entry on its context's result ring. -/
def State.completeUnit (s : State) (u : AuUnit) (status : Nat) (noOut : Bool) : State :=
  match (s.vctx u.ctx).desc with
  | none => s
  | some d =>
    let s := match stCounter status with
      | some k => s.addSat (kCtx u.ctx (0x10 + 4 * k)) 1
      | none => s
    s.dueEntry d.rring ⟨1, status, 2, noOut, 2, u.sample.word, u.ctx, 0, d.streamId, u.sample.tag, 0, [],
      u.sample.iring, none⟩

/-- The intake ring of a context may read on (R401). -/
def State.ctxNext (s : State) (x : Nat) : State :=
  match (s.vctx x).desc with
  | some d => s.irNext d.iring
  | none => s

/-! ## Access units (R310 to R313) -/

/-- The coded width and height of a header, by codec (R311). -/
def seqCoded (h : SeqHdr) (codec : Nat) : Nat × Nat :=
  if codec = 0 then (h.width * 16, h.height * 16) else if codec = 1 then (h.width, h.height)
  else (h.width + 1, h.height + 1)

/-- The references of a header, by codec (R311). -/
def seqRefs (h : SeqHdr) (codec : Nat) : Nat :=
  if codec = 0 then h.refs else if codec = 1 then h.refs + 1 else 8

/-- Profile, bit depth, chroma format and tools lie in the row of Table 09-1 of the codec. High has monochrome in its
profile, as AV1 Main has. -/
def seqSupported (h : SeqHdr) (codec : Nat) : Bool :=
  h.tools.isEmpty &&
  (match codec, h.profile with
   | 0, .h264High => h.depth == 8 && decide (h.chroma ≤ 1)
   | 1, .hevcMain => h.depth == 8 && h.chroma == 1
   | 1, .hevcMain10 => (h.depth == 8 || h.depth == 10) && h.chroma == 1
   | 2, .av1Main => (h.depth == 8 || h.depth == 10) && decide (h.chroma ≤ 1)
   | _, _ => false)

/-- A level above Table 09-1, or a picture or a decoded-picture buffer above the limits of the declared level. -/
def seqOverLevel (h : SeqHdr) (codec : Nat) : Bool :=
  let c := seqCoded h codec
  decide ((if codec = 2 then 63 else 62) < h.level) || decide (Config.levelPixels codec h.level < c.1 * c.2) ||
  decide (Config.levelDpb codec h.level c.1 c.2 < h.dpb)

/-- R311: the first failing check of a sequence-level header, with its limit code. -/
def seqFails (d : CtxDesc) (h : SeqHdr) : Option (Nat × Nat) :=
  let c := seqCoded h d.codec
  if !h.syntaxOk ∨ !seqSupported h d.codec then some (stFormat, 0)
  else if d.maxW < c.1 ∨ d.maxH < c.2 ∨ d.maxDepth < h.depth ∨ d.maxRefs < seqRefs h d.codec then some (stDims, 0)
  else if 8192 < c.1 ∨ 8192 < c.2 then some (stDims, 1)
  else if seqOverLevel h d.codec then some (stDims, 2)
  else none

/-- The sequence of a header that passed. Its buffers, one for each reference and one for the frame in progress, lie
one behind another from the pool's base (log entry 124). -/
def seqOf (d : CtxDesc) (h : SeqHdr) : VideoSeq :=
  let c := seqCoded h d.codec
  let n := seqRefs h d.codec
  ⟨c.1, c.2, h.depth, h.chroma == 0, n, (upTo (n + 1)).map (fun i => d.pool + i * frameSize c.1 c.2 h.depth)⟩

/-- A context's budget: budget_mult × avg, saturating (R315). -/
def State.setBudget (s : State) (x mult : Nat) : State :=
  s.setReg (kCtx x 8) (BitVec.ofNat 32 (min (mult * (s.reg (kCtx x 4)).toNat) (2 ^ 32 - 1)))

/-- Activation (R313, R315): references go, buffers are reserved, avg starts at the cost of a frame at 1 Gpix/s. -/
def State.activate (s : State) (x : Nat) (d : CtxDesc) (q : VideoSeq) : State :=
  let s := s.setVctx x { s.vctx x with seq := some q, waiting := none, refs := [] }
  let s := ((s.setCtxState x 2).setBit (kCtx x 0) 4 false).setReg (kCtx x 4)
    (BitVec.ofNat 32 (ceilDiv (q.width * q.height * 5) 8))
  s.setBudget x d.mult

/-- The frame of a context is on a decode core. -/
def State.ctxBusy (s : State) (x : Nat) : Bool :=
  (upTo 9).any (fun c => match s.decJob c with | some j => j.unit.ctx == x | none => false)

/-- A context that CTX_DESTROY waits for is freed once nothing of it is left: no frame on a core, no unit, and no frame to
be scaled. -/
def State.settleCtx (s : State) (x : Nat) : State :=
  if (s.vctx x).destroy && !s.ctxBusy x && s.vid.units.all (fun u => u.ctx != x) && s.vid.emitted.all (fun e => e.ctx != x)
  then s.freeCtx x else s

/-- The first access unit of a context that no core holds. -/
def State.firstUnit (s : State) (x : Nat) : Option AuUnit := s.vid.units.find? (fun u => u.ctx == x)

/-- The first unit of a context leaves the list, or is replaced. -/
def replaceUnit (x : Nat) (new : Option AuUnit) : List AuUnit → List AuUnit
  | [] => []
  | u :: us => if u.ctx = x then new.toList ++ us else u :: replaceUnit x new us

def State.setUnit (s : State) (x : Nat) (new : Option AuUnit) : State :=
  { s with vid := { s.vid with units := replaceUnit x new s.vid.units } }

/-- The one outcome of an access unit that is a completion entry; one that has had its outcome gets no other
(R320). -/
def State.unitStatus (s : State) (u : AuUnit) (status : Nat) (noOut : Bool) : State :=
  if u.done then s else s.completeUnit u status noOut

/-- The one outcome of an access unit that is a sample: its frame goes to the scale-and-crop engine (R320, R321). -/
def State.unitSample (s : State) (u : AuUnit) (f : DecFrame) : State :=
  if u.done then s
  else ({ s with vid := { s.vid with emitted := s.vid.emitted ++ [(⟨u.ctx, u.sample, f, 0⟩ : Emitted)] } }).addWrap (kCtx u.ctx 0xC) 1

/-- An access unit whose frames are decoded: the frame it shows again is emitted, unless it is tainted or not there
(R317); a unit without any other outcome has decoded and shown nothing (R320). -/
def State.finishUnit (s : State) (u : AuUnit) : State :=
  match u.existing with
  | some n =>
    match (s.vctx u.ctx).refs.find? (fun f => f.index == n) with
    | some f => if f.taint then s.unitStatus u stDamaged false else s.unitSample u f
    | none => s.unitStatus u stDamaged false
  | none => s.unitStatus u stOk true

/-- A parsed unit: it waits for a core with its frames, or ends at once when it holds none. -/
def State.readyUnit (s : State) (u : AuUnit) (au : AuSyntax) : State :=
  let u := { u with ready := true, rap := au.rap, left := au.frames, existing := au.existing }
  if au.frames = 0 then ((s.setUnit u.ctx none).finishUnit u).ctxNext u.ctx else s.setUnit u.ctx (some u)

/-- A unit that is not decoded. -/
def State.refuseUnit (s : State) (u : AuUnit) (status : Nat) : State :=
  ((s.setUnit u.ctx none).unitStatus u status false).ctxNext u.ctx

/-- A context refuses an access unit: entry into REJECTED raises 0x0803 (R312). -/
def State.rejectSeq (s : State) (u : AuUnit) (d : CtxDesc) (f : Nat × Nat) : State :=
  let s := (s.setVctx u.ctx { s.vctx u.ctx with failed := f, waiting := none }).setCtxState u.ctx 3
  (s.raise 0x0803 (mkParam [(0, u.ctx), (8, f.1), (16, f.2), (32, d.streamId.toNat)])).refuseUnit u f.1

/-- A unit of a context that is not REJECTED (R311, R313): a header that passes waits for a random-access point, which
activates it. A unit that comes before any sequence is active completes with DAMAGED (log entry 30). -/
def State.parseUnit (s : State) (u : AuUnit) (d : CtxDesc) (au : AuSyntax) : State :=
  let x := u.ctx
  match au.seq.bind (seqFails d) with
  | some f => s.rejectSeq u d f
  | none =>
    let s := match au.seq with
      | some h => s.setVctx x { s.vctx x with waiting := some (seqOf d h) }
      | none => s
    let s := match au.rap, (s.vctx x).waiting with
      | true, some q => s.activate x d q
      | _, _ => s
    if s.ctxState x = 2 then s.readyUnit u au else s.refuseUnit u stDamaged

/-- ACCESS_UNIT_RECEIVE (R310 to R313). -/
def execAccessUnitReceive (x : Nat) (au : AuSyntax) (s : State) : Out :=
  attempt (if s.awake ∧ x < 256 ∧ !s.ctxBusy x then
    match s.firstUnit x, (s.vctx x).desc with
    | some u, some d =>
      if u.ready then none
      else if s.ctxState x = 3 then
        match au.seq with
        | some h =>
          if seqFails d h = none ∧ au.rap then some ((s.activate x d (seqOf d h)).readyUnit u au)
          else some (s.refuseUnit u (s.vctx x).failed.1)
        | none => some (s.refuseUnit u (s.vctx x).failed.1)
      else some (s.parseUnit u d au)
    | _, _ => none
    else none) s

/-! ## Frames on cores (R309, R314 to R321) -/

/-- A free buffer of the active sequence: one that holds no reference and no frame still to be scaled. -/
def State.freeBuf (s : State) (x : Nat) : Option Nat :=
  ((s.vctx x).seq).bind (fun q =>
    let size := frameSize q.width q.height q.depth
    let used := (s.vctx x).refs ++ (s.vid.emitted.filter (fun e => e.ctx == x)).map (·.frame)
    q.bufs.find? (fun b => used.all (fun f =>
      decide (b + size ≤ f.buf) || decide (f.buf + frameSize f.width f.height f.depth ≤ b))))

/-- The next ready context in rotating order (R309). -/
def State.nextCtx (s : State) : Option Nat :=
  ((upTo 256).map (fun i => (s.vid.last + 1 + i) % 256)).find? (fun x =>
    s.ctxState x == 2 && !s.ctxBusy x && ((s.firstUnit x).elim false (·.ready)) && (s.freeBuf x).isSome)

/-- A core takes or gives up a frame: its status register, and the context's. -/
def State.holdCore (s : State) (c : Nat) (job : Option DecJob) (x : Nat) : State :=
  let s := s.setDecJob c job
  let busy := job.isSome
  let s := (s.setFld (kDec c 0) 8 8 (if busy then x else 0)).setBit (kDec c 0) 16 busy
  s.setFld (kCtx x 0) 8 4 (if busy then c else 0xF)

/-- A media unit has stopped and awaits firmware (R24). -/
def State.unitOwed (s : State) (u : UnitDue) : Bool := s.fw.unitsDue.contains u

/-- DECODE_FRAME_START (R309). With a unit's last frame the context may read on. -/
def execDecodeFrameStart (c : Nat) (s : State) : Out :=
  attempt (if s.awake ∧ c < 9 ∧ s.fld (kDec c 0) 0 2 = 1 ∧ !s.unitOwed (.dec c) ∧ s.decJob c = none then
    match s.nextCtx with
    | none => none
    | some x =>
      match s.firstUnit x, s.freeBuf x with
      | some u, some b =>
        let n := (s.vctx x).decIndex + 1
        let s := (s.setUnit x none).setVctx x { s.vctx x with decIndex := n }
        let s := { s with vid := { s.vid with last := x } }
        let s := s.holdCore c (some ⟨{ u with begun := true }, n, b, s.elapsed.toNat⟩) x
        some (if u.left ≤ 1 then s.ctxNext x else s)
      | _, _ => none
    else none) s

/-- The reference set after a frame: those the standard keeps, and a tainted frame always (R314). A
random-access point drops every earlier one (R317). DESIGN CHOICE (log entry 148): where that is more than the `most`
references of the sequence, the oldest go. -/
def refsAfter (most : Nat) (old : List DecFrame) (rap : Bool) (kept : List Nat) (f : DecFrame) : List DecFrame :=
  let all := (if rap then [] else old.filter (fun r => kept.contains r.index.toNat)) ++
    (if kept.contains f.index.toNat || f.taint then [f] else [])
  all.drop (all.length - most)

/-- A decode core as a requester (Table 11-2). -/
def rqDec (c : Nat) : Requester := ⟨BitVec.ofNat 16 (0x4000 + c), false, false⟩

/-- The bytes of reference frames, read in order; `none` where a read fails (R318). -/
def State.readRefs (s : State) (c : Nat) : List DecFrame → State × Option (List (List Byte))
  | [] => (s, some [])
  | f :: fs =>
    let a := s.memAccess ⟨rqDec c, false, f.buf, frameSize f.width f.height f.depth, [], false⟩ none
    if a.2.1 ≠ 0 then (a.1, none)
    else
      let r := a.1.readRefs c fs
      (r.1, r.2.map (fun l => a.2.2 :: l))

/-- A sample in a stored frame: P010 holds 10 bits in bits [15:6]. -/
def storedSample (depth v : Nat) : List Byte := if depth = 10 then natToBytes (v % 1024 * 64) 2 else natToBytes v 1

/-- A frame as it is stored (R305, R307): luma rows, chroma rows, motion data. The bytes behind a row's samples have
no stated value. -/
def storedFrame (w h depth : Nat) (mono : Bool) (px : Nat → Nat → Nat → Nat) : List Byte :=
  let e := if depth = 10 then 2 else 1
  let cw := ceilDiv w 2
  let grey : Nat := if depth = 10 then 512 else 128
  let pad (n : Nat) : List Byte := (upTo (rowStride w e - n * e)).map Config.imagePad
  let luma := (upTo h).flatMap (fun y => (upTo w).flatMap (fun x => storedSample depth (px 0 x y)) ++ pad w)
  let chroma := (upTo (ceilDiv h 2)).flatMap (fun y => (upTo cw).flatMap (fun x => (upTo 2).flatMap (fun c =>
    storedSample depth (if mono then grey else px (1 + c) x y))) ++ pad (2 * cw))
  luma ++ chroma ++ (upTo (ceilDiv w 16 * ceilDiv h 16 * 64)).map (fun i => BitVec.ofNat 8 (px 3 i 0))

/-- The decoded frame is written to its buffer. -/
def State.storeFrame (s : State) (c : Nat) (j : DecJob) (w h : Nat) (refs : List (List Byte)) : State × Nat :=
  match (s.vctx j.unit.ctx).desc, (s.vctx j.unit.ctx).seq with
  | some d, some q =>
    let r := s.memAccess ⟨rqDec c, true, j.buf, 0,
      storedFrame w h q.depth q.mono (Config.videoSample d.codec j.unit.data j.unit.decoded refs), false⟩ none
    (r.1, r.2.1)
  | _, _ => (s, 1)

/-- A frame leaves its core with its place in the reference set settled. -/
def State.endFrame (s : State) (c : Nat) (j : DecJob) (kept : List Nat) (f : DecFrame) : State :=
  let x := j.unit.ctx
  let v := s.vctx x
  let refs := refsAfter (v.seq.elim 0 (·.refs)) v.refs j.unit.rap kept f
  let s := (s.setVctx x { v with refs := refs }).setBit (kCtx x 0) 4 (refs.any (·.taint))
  s.holdCore c none x

/-- What follows a frame of a unit: its next frame, or its end. Under CTX_DESTROY no further frame starts, and a unit with
frames left ends with DISCARDED_ABORT. -/
def State.afterFrame (s : State) (u : AuUnit) : State :=
  if u.left ≤ 1 then (s.finishUnit u).settleCtx u.ctx
  else if (s.vctx u.ctx).destroy then (s.unitStatus u stAbort false).settleCtx u.ctx
  else
    { s with vid := { s.vid with units :=
        [{ u with rap := false, decoded := u.decoded + 1, left := u.left - 1 }] ++ s.vid.units } }

/-- A frame that ends tainted completes its unit with a status (R314, R316, R318). -/
def State.endTainted (s : State) (c : Nat) (j : DecJob) (kept : List Nat) (f : DecFrame) (status : Nat) : State :=
  ((s.endFrame c j kept { f with taint := true }).unitStatus j.unit status false).afterFrame { j.unit with done := true }

/-- A frame that decodes without error: avg and budget follow its cost (R315), and a shown one is emitted (R321). -/
def State.endClean (s : State) (c : Nat) (j : DecJob) (d : CtxDesc) (out : FrameOutcome) (avg : Nat) (f : DecFrame) :
    State :=
  let x := j.unit.ctx
  let s := ((s.endFrame c j out.kept f).setReg (kCtx x 4) (BitVec.ofNat 32 avg)).setBudget x d.mult
  if out.shown then (s.unitSample j.unit f).afterFrame { j.unit with done := true } else s.afterFrame j.unit

/-- A frame references a tainted one (R317). -/
def refTainted (refs : List DecFrame) : Bool := refs.any (·.taint)

/-- Every reference that a frame names is in the set. -/
def refsHere (have_ : List DecFrame) (wants : List Nat) : Bool :=
  wants.all (fun n => have_.any (fun f => f.index.toNat == n))

/-- R315: avg after a frame that completed without error. -/
def newAvg (avg cost : Nat) : Nat := ((avg : Int) + ((cost : Int) - (avg : Int)) / 16).toNat

/-- CTRL cycles from a start to now, four to a TIME cycle: a cost they allow, to the CTRL cycle within the first and
the last TIME cycle. -/
def costFits (start now cost : Nat) : Bool := decide ((now - start) * 4 ≤ cost + 3) && decide (cost ≤ (now - start) * 4 + 3)

/-- A frame's references are there to be read, none in a page that is being copied (R363). -/
def State.refsFree (s : State) (fs : List DecFrame) (j : DecJob) (w h depth : Nat) : Bool :=
  fs.all (fun f => !s.pageBusy f.buf (frameSize f.width f.height f.depth)) && !s.pageBusy j.buf (frameSize w h depth)

/-- DECODE_FRAME_COMPLETE (R305, R314, R315, R317, R318, R320, R321). DESIGN CHOICE (log entry 148): a frame that names a
reference which is not in the set ends as a damaged one. -/
def execDecodeFrameComplete (c : Nat) (out : FrameOutcome) (s : State) : Out :=
  attempt (if s.awake ∧ c < 9 then
    match s.decJob c with
    | none => none
    | some j =>
      let x := j.unit.ctx
      match (s.vctx x).desc, (s.vctx x).seq with
      | some d, some q =>
        let avg := (s.reg (kCtx x 4)).toNat
        let used := (if j.unit.rap then [] else (s.vctx x).refs).filter (fun f => out.refs.contains f.index.toNat)
        if (s.reg (kCtx x 8)).toNat < out.cost ∨ !costFits j.at_ s.elapsed.toNat out.cost ∨
            q.width < out.width ∨ q.height < out.height ∨ !s.refsFree used j out.width out.height q.depth then none
        else
          let r := s.readRefs c used
          let w := r.1.storeFrame c j out.width out.height (r.2.getD [])
          let s := w.1.add64 (kDec c 8) (out.width * out.height)
          let f : DecFrame := ⟨j.index, false, j.buf, out.width, out.height, q.depth, j.unit.rap, out.presOrder, out.cost, s.timeNs⟩
          some (if r.2.isNone ∨ w.2 ≠ 0 then s.endTainted c j out.kept f stFault
            else if !out.whole ∨ refTainted used ∨ !refsHere used out.refs then s.endTainted c j out.kept f stDamaged
            else s.endClean c j d out (newAvg avg out.cost) f)
      | _, _ => none
    else none) s

/-- DECODE_BUDGET_EXPIRE (R316): CTRL cycles run four to a TIME cycle. -/
def execDecodeBudgetExpire (c : Nat) (s : State) : Out :=
  attempt (if s.awake ∧ c < 9 then
    match s.decJob c with
    | none => none
    | some j =>
      let x := j.unit.ctx
      match (s.vctx x).seq with
      | some q =>
        let budget := (s.reg (kCtx x 8)).toNat
        if budget < (s.elapsed.toNat - j.at_) * 4 + 3 ∧ s.refsFree [] j q.width q.height q.depth then
          let w := s.storeFrame c j q.width q.height []
          some (w.1.endTainted c j (((s.vctx x).refs).map (·.index.toNat))
            ⟨j.index, true, j.buf, q.width, q.height, q.depth, j.unit.rap, 0, budget + 1, w.1.timeNs⟩ stSlow)
        else none
      | none => none
    else none) s

/-- Firmware's part after a decode core has failed: core 8 takes its place while it is a spare (R319). -/
def State.spareDec (s : State) (c : Nat) : State :=
  let s := s.setFld (kDec c 0) 0 2 2
  if s.fld (kDec 8 0) 0 2 = 0 then
    let s := s.setFld (kDec 8 0) 0 2 1
    let s := s.fault { mkFault 0xD 2 c 0 with spare := 8, degraded := s.exhausts 5 c }
    (s.raise 0x0801 (mkParam [(0, c), (8, 8)])).exhaust 5 c
  else s.fault (mkFault 0xD 4 c 0)

/-- The frame of a failed decode core is to be decoded again from its start. -/
def State.requeueDec (s : State) (c : Nat) : State :=
  match s.decJob c with
  | some j =>
    let x := j.unit.ctx
    let s := s.holdCore c none x
    let s := s.setVctx x { s.vctx x with decIndex := (s.vctx x).decIndex - 1 }
    { s with vid := { s.vid with units := [j.unit] ++ s.vid.units } }
  | none => s

/-- DEC_SPARED (R319): the frame is decoded again from its start on a core without a fault. -/
def execDecSpared (c : Nat) (s : State) : Out :=
  attempt (if s.awake ∧ c < 9 ∧ s.fld (kDec c 0) 0 2 = 1 ∧ !s.unitOwed (.dec c) then
    let s := s.requeueDec c
    some (if s.fwServes then s.spareDec c else s.oweUnit (.dec c))
    else none) s

/-! ## The scale-and-crop engine (R322 to R326) -/

/-- The decoded-frame descriptor (Table 09-3). -/
def decDesc (d : CtxDesc) (e : Emitted) (out : Nat) : List Byte :=
  let f := e.frame
  natToBytes e.ctx 1 ++ natToBytes (d.codec + 4 * b2n f.rap) 1 ++ natToBytes f.depth 1 ++ natToBytes out 1 ++
  natToBytes d.streamId.toNat 4 ++ natToBytes e.sample.word.toNat 8 ++ natToBytes f.index.toNat 4 ++
  natToBytes f.pres.toNat 4 ++ natToBytes f.width 2 ++ natToBytes f.height 2 ++ natToBytes f.cost 4 ++
  natToBytes e.sample.t.toNat 8 ++ natToBytes f.tDone.toNat 8 ++ natToBytes 0 16

/-- A frame as the engine has read it. -/
structure ScaleIn where
  bytes : List Byte
  width : Nat
  height : Nat
  depth : Nat
deriving DecidableEq, Repr

/-- The stored sample at element `x` of a row of the frame's planes (R305, R307). -/
def ScaleIn.at_ (f : ScaleIn) (row x : Nat) : Nat :=
  let e := if f.depth = 10 then 2 else 1
  let v := bytesToNat ((f.bytes.drop (row * rowStride f.width e + x * e)).take e)
  if f.depth = 10 then v / 64 else v

/-- A sample of component `c`, 0 Y, 1 Cb, 2 Cr, at its own resolution. -/
def ScaleIn.plane (f : ScaleIn) (c x y : Nat) : Nat := if c = 0 then f.at_ y x else f.at_ (f.height + y) (2 * x + (c - 1))

/-- Component `c` of the record's crop scaled to ow × oh; the chroma of a crop is the same part of the chroma
planes (log entry 119). -/
def ScaleIn.crop (f : ScaleIn) (r : BitVec 512) (c ow oh x y : Nat) : Nat :=
  let n (b : Nat) : Nat := recNum r b 2
  if c = 0 then scaled (f.plane 0) (n 8) (n 10) (n 12) (n 14) ow oh x y
  else scaled (f.plane c) (n 8 / 2) (n 10 / 2) (ceilDiv (n 12) 2) (ceilDiv (n 14) 2) ow oh x y

/-- A sample as NV12 (RNE from 10 bits) or in bits [15:6] of P010 (R325, log entry 127). -/
def semiSample (depth : Nat) (p010 : Bool) (v : Nat) : Nat :=
  if p010 then v * 64 else if depth = 10 then min 255 (rneDiv v 4).toNat else v

/-- An element of a planar output: 12 bits, RGB by BT.709, then q of R287, and how often it was clamped (R325). -/
def ScaleIn.planarPx (f : ScaleIn) (r : BitVec 512) (c x y : Nat) : Nat × Nat :=
  let v (k : Nat) : Nat := f.crop r k (recNum r 16 2) (recNum r 18 2) x y * 2 ^ (12 - f.depth)
  let p : Nat × Bool := if recBit r 3 then rgbOf c (v 0) (v 1) (v 2) else (v 0, false)
  let q := visionElem (bitsOf r.toNat 1 2 == 3) (BitVec.ofNat 32 (recNum r (20 + 4 * c) 4))
    (BitVec.ofNat 32 (recNum r (32 + 4 * c) 4)) p.1
  (q.1, b2n p.2 + b2n q.2)

/-- The channels of a planar record. -/
def recChans (r : BitVec 512) : Nat := if recBit r 3 then 3 else 1

/-- The bytes of an element of a record's format. -/
def recElem (r : BitVec 512) : Nat := if bitsOf r.toNat 1 2 % 2 = 1 then 2 else 1

/-- Image bytes of an output record's slot (R326). -/
def recBytes (r : BitVec 512) : Nat :=
  let oh := recNum r 18 2
  rowStride (recNum r 16 2) (recElem r) * (if bitsOf r.toNat 1 2 < 2 then oh + oh / 2 else recChans r * oh)

/-- The image of an output record. -/
def ScaleIn.image (f : ScaleIn) (r : BitVec 512) : List Byte :=
  let ow := recNum r 16 2
  let oh := recNum r 18 2
  let fmt := bitsOf r.toNat 1 2
  let elem : Nat → Nat → Nat :=
    if 2 ≤ fmt then planarAt oh (fun c x y => (f.planarPx r c x y).1)
    else semiAt oh (fun x y => semiSample f.depth (fmt == 1) (f.crop r 0 ow oh x y))
      (fun c x y => semiSample f.depth (fmt == 1) (f.crop r c (ow / 2) (oh / 2) x y))
  (upTo (recBytes r)).map (rowByte (rowStride ow (recElem r)) (recElem r) ow elem)

/-- Clamps of a planar record (R325). -/
def ScaleIn.clamps (f : ScaleIn) (r : BitVec 512) : Nat :=
  if bitsOf r.toNat 1 2 < 2 then 0
  else ((upTo (recChans r)).map (fun c => ((upTo (recNum r 18 2)).map (fun y =>
    ((upTo (recNum r 16 2)).map (fun x => (f.planarPx r c x y).2)).sum)).sum)).sum

/-- A decoded frame in a sample's frame list. -/
def decFrame (x : Nat) (n : B32) : Nat × B32 := (0x100 + x, n)

/-- A decoded frame is still consumed. -/
def State.decBusy (s : State) (x : Nat) (n : B32) : Bool :=
  s.commit.epochs.any (fun e => e.2.sample.frames.contains (decFrame x n)) ||
  s.commit.srcq.any (fun q => q.2.any (fun t => t.sample.frames.contains (decFrame x n))) ||
  s.vid.emitted.any (fun e => e.ctx == x && e.frame.index == n)

/-- The next free slot of a record's ring, in rotation. -/
def State.recSlot (s : State) (x o n : Nat) : Option Nat :=
  let v := s.vctx x
  let from_ := SMap.get zeroNat v.next o
  ((upTo n).map (fun i => (from_ + i) % n)).find? (fun k =>
    !(v.slots.any (fun u => u.1 == o && u.2.1 == k && s.decBusy x u.2.2)))

/-- The scale-and-crop engine as a requester. -/
def rqScale : Requester := ⟨0x6000, false, false⟩

/-- The engine reads the frame from its buffer. -/
def State.readFrame (s : State) (f : DecFrame) : State × Option ScaleIn :=
  let a := s.memAccess ⟨rqScale, false, f.buf, frameSize f.width f.height f.depth, [], false⟩ none
  (a.1, if a.2.1 = 0 then some ⟨a.2.2, f.width, f.height, f.depth⟩ else none)

/-- A written output: its slot is in use and its token goes to the SOURCE of each pipeline that binds it, and the frame's
intake sample is open once more for each (R399). -/
def State.scaled (s : State) (d : CtxDesc) (e : Emitted) (o k addr size : Nat) : State :=
  let x := e.ctx
  let v := s.vctx x
  let s := s.setVctx x { v with
    next := SMap.set zeroNat v.next o (k + 1)
    slots := v.slots.filter (fun u => s.decBusy x u.2.2) ++ [(o, k, e.frame.index)] }
  let s := match e.sample.iring with
    | some i => s.setIring i { s.iring i with open_ := (s.iring i).open_ + (s.sourcesOf .scaler x o).length }
    | none => s
  s.offer .scaler x o 0 { e.sample with frames := [decFrame x e.frame.index], stream := d.streamId } [] [(addr, size)]

/-- One output of an emitted frame: written and sent, or not produced and counted (R324, R326; one whose frame cannot
be read or whose slot cannot be written is counted the same, log entry 126). -/
def State.scaleOut (s : State) (d : CtxDesc) (e : Emitted) (o : Nat) (r : BitVec 512) : State :=
  let x := e.ctx
  let drop (s : State) : State := s.addSat (kCtx x 0x28) 1
  if e.frame.width < recNum r 8 2 + recNum r 12 2 ∨ e.frame.height < recNum r 10 2 + recNum r 14 2 then drop s
  else
    match s.recSlot x o (recNum r 1 1) with
    | none => drop s
    | some k =>
      let size := 64 + recBytes r
      let a := recNum r 48 5 + k * size
      let g := s.readFrame e.frame
      match g.2 with
      | none => drop g.1
      | some f =>
        let w := g.1.memAccess ⟨rqScale, true, a, 0, decDesc d e o ++ f.image r, false⟩ none
        if w.2.1 ≠ 0 then drop w.1
        else (w.1.addSat (kCtx x 0x2C) (f.clamps r)).scaled d e o k a size

/-- A page of the frame's buffer or of a ring of the record is being copied (R363). -/
def State.scaleWaits (s : State) (e : Emitted) (r : BitVec 512) : Bool :=
  s.pageBusy e.frame.buf (frameSize e.frame.width e.frame.height e.frame.depth) ||
  s.pageBusy (recNum r 48 5) (recNum r 1 1 * (64 + recBytes r))

/-- The oldest emitted frame has all its outputs: it leaves the engine, and its intake sample is open once less (R399). -/
def State.scaleDone (s : State) (e : Emitted) (es : List Emitted) : State :=
  let s : State := { s with vid := { s.vid with emitted := es } }
  let s := match e.sample.iring with
    | some i => s.setIring i { s.iring i with open_ := (s.iring i).open_ - 1 }
    | none => s
  s.settleCtx e.ctx

/-- The enabled records from `o` on, in order. -/
def CtxDesc.nextRec (d : CtxDesc) (o : Nat) : Option Nat :=
  (upTo 8).find? (fun p => decide (o ≤ p) && recBit ((d.recs[p]?).getD 0) 0)

/-- SCALER_OUTPUT_WRITE (R323 to R326): the next enabled record of the oldest emitted frame. -/
def execScalerOutputWrite (s : State) : Out :=
  attempt (if s.awake then
    match s.vid.emitted with
    | [] => none
    | e :: es =>
      match (s.vctx e.ctx).desc with
      | none => some (s.scaleDone e es)
      | some d =>
        match d.nextRec e.out with
        | none => some (s.scaleDone e es)
        | some o =>
          if s.scaleWaits e ((d.recs[o]?).getD 0) then none
          else
          let s := s.scaleOut d e o ((d.recs[o]?).getD 0)
          if (d.nextRec (o + 1)).isNone then some (s.scaleDone e es)
          else some { s with vid := { s.vid with emitted := [{ e with out := o + 1 }] ++ es } }
    else none) s

/-! ## Encode (R327 to R331) -/

def State.encRec (s : State) (e : Nat) : Option EncRec := s.boot.scroll.encs.find? (fun r => r.session == e)

/-- R329: the ring has room for the largest packet and any PAD before it. -/
def State.encRoom (s : State) (r : EncRec) : Bool :=
  let z := r.size
  let wr := (s.reg (kSess r.session 0)).toNat
  let rd := (s.reg (kSess r.session 4)).toNat
  let used := (wr + z - rd) % z
  let free := z - 64 - used
  let x := r.maxPkt + 64
  let t := z - wr
  (decide (x ≤ t) && decide (x ≤ free)) || (decide (t < x) && decide (t + x ≤ free))

/-- ENCODE_FRAME_START (R329): on the lowest free active core, or skipped. -/
def execEncodeFrameStart (e : Nat) (s : State) : Out :=
  attempt (if s.awake then
    match s.vid.coding.find? (fun j => j.session == e), s.encRec e with
    | some j, some r =>
      if (upTo 5).any (fun c => (s.encJob c).elim false (fun k => k.session == e)) then none
      else
        let rest := s.vid.coding.erase j
        if !s.encRoom r then
          some (({ s with vid := { s.vid with coding := rest } }).addSat (kSess e 0xC) 1)
        else
          match (upTo 5).find? (fun c => s.fld (kEnc c 0) 0 2 == 1 && !s.unitOwed (.enc c) && s.encJob c == none) with
          | none => none
          | some c =>
            let n := (s.encSess e).sinceKey
            let job := { j with key := n == 0 || decide (r.keyInt ≤ n) }
            let s := { s with vid := { s.vid with coding := rest } }
            let s := s.setEncJob c (some job)
            some ((s.setFld (kEnc c 0) 8 8 e).setBit (kEnc c 0) 16 true)
    | _, _ => none
    else none) s

/-- A packet or PAD header (R330). -/
def encHdr (kind : Nat) (j : EncJob) (len : Nat) : List Byte :=
  if kind = 1 then natToBytes 1 1 ++ natToBytes 0 3 ++ natToBytes len 4 ++ natToBytes 0 56
  else
    natToBytes 0 1 ++ natToBytes (b2n j.key) 1 ++ natToBytes j.flags.toNat 2 ++ natToBytes len 4 ++
    natToBytes j.devFcnt.toNat 4 ++ natToBytes j.csiFn 2 ++ natToBytes 0 2 ++ natToBytes j.tFs.toNat 8 ++ natToBytes 0 40

/-- An encode core as a requester. -/
def rqEnc (c : Nat) : Requester := ⟨BitVec.ofNat 16 (0x5000 + c), false, false⟩

/-- The settings of a session that its next packet depends on: structure, rate control with the sizes of earlier
packets where it has a target, the packet limit, the key flag and the bits of a sample (R327, R328). -/
def encSettings (r : EncRec) (key : Bool) (depth : Nat) (sizes : List Nat) : List Nat :=
  [r.qp, b2n r.target, r.tgtB, r.maxPkt, b2n key, depth] ++ (if r.target then sizes else [])

/-- A packet of a session written to its ring (R330): PAD when it would pass the ring end, payload, header, then WR. -/
def State.writePacket (s : State) (c : Nat) (r : EncRec) (j : EncJob) (pay : List Byte) : State :=
  let e := r.session
  let len := pay.length
  let size := 64 + ceilDiv len 64 * 64
  let wr := (s.reg (kSess e 0)).toNat
  let w (s : State) (a : Nat) (d : List Byte) : State := (s.memAccess ⟨rqEnc c, true, a, 0, d, false⟩ none).1
  let pads := decide (r.size < wr + size)
  let s := if pads then w s (r.base + wr) (encHdr 1 j (r.size - wr - 64)) else s
  let at_ := if pads then 0 else wr
  let s := w s (r.base + at_ + 64) (pay ++ List.replicate (size - 64 - len) 0)
  let s := w s (r.base + at_) (encHdr 0 j len)
  (s.setReg (kSess e 0) (BitVec.ofNat 32 ((at_ + size) % r.size))).addWrap (kSess e 8) 1

/-- An encode core is free again. -/
def State.freeEnc (s : State) (c : Nat) : State :=
  ((s.setEncJob c none).setFld (kEnc c 0) 8 8 0).setBit (kEnc c 0) 16 false

/-- The coding frame is encoded: its packet, at most max_packet_bytes, and what the session keeps, are functions of
the frame and the session's history (R328, log entry 18). -/
def State.encodeFrame (s : State) (c : Nat) (r : EncRec) (j : EncJob) (frame : List Byte) : State :=
  let e := r.session
  let q := s.encSess e
  let set := encSettings r j.key j.depth q.sizes
  let pay := (Config.encPayload r.av1 set q.kept frame).take r.maxPkt
  let s := ((s.writePacket c r j pay).add64 (kEnc c 8) j.pixels).freeEnc c
  let q1 : EncSess := ⟨if j.key then 1 else q.sinceKey + 1, Config.encKept r.av1 set q.kept frame, pay.length :: q.sizes⟩
  { s with vid := { s.vid with sess := SMap.set EncSess.idle s.vid.sess e q1 } }

/-- ENCODE_FRAME_DONE (R328, R330). A coding slot that cannot be read gives no packet and counts as skipped (log entry
126). -/
def execEncodeFrameDone (c : Nat) (s : State) : Out :=
  attempt (if s.awake ∧ c < 5 then
    match s.encJob c with
    | none => none
    | some j =>
      match s.encRec j.session with
      | none => none
      | some r =>
        if s.pageBusy j.addr j.len ∨ s.pageBusy r.base r.size then none
        else
          let a := s.memAccess ⟨rqEnc c, false, j.addr, j.len, [], false⟩ none
          some (if a.2.1 = 0 then a.1.encodeFrame c r j a.2.2 else (a.1.addSat (kSess r.session 0xC) 1).freeEnc c)
    else none) s

/-- Firmware's part after an encode core has failed: core 4 takes its place while it is a spare (R331). -/
def State.spareEnc (s : State) (c : Nat) : State :=
  let s := s.setFld (kEnc c 0) 0 2 2
  if s.fld (kEnc 4 0) 0 2 = 0 then
    let s := s.setFld (kEnc 4 0) 0 2 1
    let s := s.fault { mkFault 0xE 2 c 0 with spare := 4, degraded := s.exhausts 6 c }
    (s.raise 0x0802 (mkParam [(0, c), (8, 4)])).exhaust 6 c
  else s.fault (mkFault 0xE 4 c 0)

/-- The frame of a failed encode core is to be encoded again from its start. -/
def State.requeueEnc (s : State) (c : Nat) : State :=
  match s.encJob c with
  | some j =>
    let s := s.freeEnc c
    { s with vid := { s.vid with coding := [j] ++ s.vid.coding } }
  | none => s

/-- ENC_SPARED (R331): the frame is encoded again from its start. -/
def execEncSpared (c : Nat) (s : State) : Out :=
  attempt (if s.awake ∧ c < 5 ∧ s.fld (kEnc c 0) 0 2 = 1 ∧ !s.unitOwed (.enc c) then
    let s := s.requeueEnc c
    some (if s.fwServes then s.spareEnc c else s.oweUnit (.enc c))
    else none) s

/-- ENC_RD_WRITE (R329): a value that is not a multiple of 64 or lies beyond the ring is ignored. -/
def execEncRdWrite (rq : Requester) (e : Nat) (v : B32) (s : State) : Out :=
  attempt (if s.awake ∧ e < 32 then
    some (s.guardReg rq (kSess e 4) (fun s =>
      match s.encRec e with
      | some r => if v.toNat % 64 = 0 ∧ v.toNat < r.size then s.setReg (kSess e 4) v else s
      | none => s))
    else none) s

end Sys2Proof.Machine
end

