-- ==== Sys2Proof/Machine/Scroll.lean ====
section
/-!
DEFINITION. The scroll (R464 to R466): its directory, its records, and the checks its bindings meet when the device
reads it (R234, R273, R327, R334, R397, R420, R442). A binding that fails a check is not made and does not fail the
slot (R457).
-/
namespace Sys2Proof.Machine

/-- Bytes as an image from address 0. -/
def imageOf (bs : List Byte) : Image := ⟨Memory.writeBytes ([] : Memory) 0 bs, 0⟩

/-! ## Directory (R464, Tables 14-9, 14-10) -/

def scTopology : Nat := 0x101
def scDevice : Nat := 0x102
def scRegions : Nat := 0x103
def scFolios : Nat := 0x104
def scPipelines : Nat := 0x105
def scStreams : Nat := 0x106
def scAlign : Nat := 0x107
def scIris : Nat := 0x108
def scAster : Nat := 0x109
def scDecode : Nat := 0x10A
def scEncode : Nat := 0x10B
def scSign : Nat := 0x1FF

/-- Record bytes and the most records of a fixed-size section; Table 14-10 gives DECODE no most. -/
def scrRecord (t : Nat) : Option (Nat × Option Nat) :=
  [(scTopology, 144, some 1), (scDevice, 128, some 1), (scRegions, 16, some 32), (scFolios, 96, some 32),
   (scStreams, 96, some 24), (scAlign, 16, some 8), (scIris, 131072, some 1), (scAster, 128, some 64), (scDecode, 576, none),
   (scEncode, 32, some 32), (scSign, 1152, some 1)].lookup t

def scrTypes : List Nat :=
  [scTopology, scDevice, scRegions, scFolios, scPipelines, scStreams, scAlign, scIris, scAster, scDecode, scEncode, scSign]

/-- The header (Table 14-9), against the slot header. -/
def Image.scrHeaderOk (v : Image) (len seq arv : Nat) : Bool :=
  v.num 0 4 == 0x4C524353 && v.num 4 2 == 1 && v.num 8 8 == len && decide (3 ≤ v.num 16 2) && decide (v.num 16 2 ≤ 64) &&
  v.zero 18 2 && v.num 20 4 == seq && v.num 24 2 == arv && v.zero 26 102

/-- Checks 1 to 3 of R224, read for a scroll of `len` bytes. -/
def Image.scrDirOk (v : Image) (len : Nat) : Bool :=
  let l := v.secs
  (upTo l.length).all (fun i => v.zero (128 + 32 * i + 4) 4) &&
  l.all (fun x => scrTypes.contains x.type) &&
  countType l scTopology == 1 && countType l scDevice == 1 &&
  scrTypes.all (fun t => t == scIris || decide (countType l t ≤ 1)) && dirOk l scSign (fun _ => 64) &&
  l.all (fun x => x.size != 0 && decide (x.offset + x.size ≤ len) && (x.type != scIris || decide (x.index < 24)) &&
    (match scrRecord x.type with
     | some (n, most) => x.size % n == 0 && most.all (fun m => decide (x.size ≤ n * m))
     | none => true)) &&
  l.all (fun x => x.type != scSign || x.offset + x.size == len) && v.secCrcs

/-- Offsets of the records of a fixed-size section. -/
def Image.recs (v : Image) (t : Nat) : List Nat :=
  match v.find t, scrRecord t with
  | some x, some (n, _) => (upTo (x.size / n)).map (fun i => x.offset + n * i)
  | _, _ => []

/-! ## TOPOLOGY and DEVICE (R420, R421, R440) -/

/-- A device number lies in the torus of a TOPOLOGY record. -/
def Image.inTopo (v : Image) (o n : Nat) : Bool :=
  decide (n < 128) && (upTo 3).all (fun d => decide (coord n d ≤ v.num (o + d) 1))

def Image.homeOf (v : Image) (o n : Nat) : Nat := v.num (o + 16 + n) 1

def Image.topoOk (v : Image) (o : Nat) : Bool :=
  decide (v.num o 1 < 8) && decide (v.num (o + 1) 1 < 4) && decide (v.num (o + 2) 1 < 4) && decide (v.num (o + 3) 1 < 8) &&
  v.zero (o + 4) 12 &&
  (upTo 128).all (fun n => if v.inTopo o n then v.inTopo o (v.homeOf o n) else v.homeOf o n == 0xFF) &&
  (upTo 128).all (fun h => decide (((upTo 128).filter (fun n => v.homeOf o n == h)).length ≤ 64))

/-- The own device number of a DEVICE record. -/
def Image.ownDev (v : Image) (o : Nat) : Nat := v.num o 1 + 8 * v.num (o + 1) 1 + 32 * v.num (o + 2) 1

def Image.deviceOk (v : Image) (topo o : Nat) : Bool :=
  let cap := v.num (o + 4) 2
  decide (v.num o 1 < 8) && decide (v.num (o + 1) 1 < 4) && decide (v.num (o + 2) 1 < 4) && v.inTopo topo (v.ownDev o) &&
  v.zero (o + 3) 1 && (cap == 0 || (decide (150 ≤ cap) && decide (cap ≤ 600))) && decide (v.num (o + 6) 1 ≤ 10) &&
  v.zero (o + 7) 9 && v.zero (o + 96) 32

/-! ## Reserved bits of the other records -/

def Image.regionOk (v : Image) (o : Nat) : Bool :=
  decide (v.num o 1 < 32) && decide (v.num (o + 1) 1 < 64) && v.zero (o + 2) 6 && decide (v.num (o + 8) 4 < 2 ^ 28) &&
  decide (v.num (o + 12) 4 < 2 ^ 28)

def Image.folioRecOk (v : Image) (o : Nat) : Bool := decide (v.num (o + 64) 8 < 2 ^ 40) && v.zero (o + 88) 8

def Image.streamRecOk (v : Image) (o : Nat) : Bool :=
  v.zero (o + 9) 1 && (upTo 7).all (fun r => decide (v.num (o + 32 + 8 * r) 8 < 2 ^ 48)) && v.zero (o + 88) 8

def Image.alignRecOk (v : Image) (o : Nat) : Bool := decide (v.num o 1 < 8) && v.zero (o + 12) 4

def Image.asterRecOk (v : Image) (o : Nat) : Bool :=
  decide (v.num (o + 2) 1 < 16) && v.zero (o + 68) 4 && v.zero (o + 104) 24

def Image.encRecOk (v : Image) (o : Nat) : Bool := decide (v.num (o + 2) 1 < 4) && v.zero (o + 3) 1

/-- A DECODE record (Tables 09-2 and 09-4). -/
def Image.decRecOk (v : Image) (o : Nat) : Bool := ctxReserved (v.bytes o 576)

/-- Bytes of a PIPELINES record with `t` tiles and `b` buffers (Table 14-12). -/
def pipeRecLen (t b : Nat) : Nat := 256 + 4 * t + 16 * b

def Image.pipeRecOk (v : Image) (o : Nat) : Bool :=
  let nt := v.num (o + 5) 1
  let nb := v.num (o + 6) 1
  decide (v.num o 1 < 128) && decide (v.num (o + 1) 1 < 16) && decide (v.num (o + 2) 1 < 128) && decide (v.num (o + 3) 1 < 32) &&
  decide (v.num (o + 4) 1 < 128) && decide (nt < 128) && decide (nb < 128) && v.zero (o + 7) 1 && v.zero (o + 32) 32 &&
  v.num (o + 28) 4 == pipeRecLen nt nb &&
  (upTo nt).all (fun i =>
    let t := v.num (o + 64 + 4 * i) 4
    bitsOf t 6 2 == 0 && bitsOf t 15 1 == 0 && bitsOf t 22 10 == 0) &&
  (upTo 8).all (fun p => v.zero (o + 64 + 4 * nt + 8 * p + 3) 1 && v.zero (o + 64 + 4 * nt + 8 * p + 6) 2) &&
  (upTo 8).all (fun p => decide (v.num (o + 128 + 4 * nt + 16 * p + 1) 1 < 2) && v.zero (o + 128 + 4 * nt + 16 * p + 2) 6) &&
  (upTo nb).all (fun b => decide (v.num (o + 256 + 4 * nt + 16 * b) 8 < 2 ^ 40) &&
    decide (v.num (o + 256 + 4 * nt + 16 * b + 8) 8 < 2 ^ 40))

/-- The records of a PIPELINES section from `o` to `fin`, at most `n`; `none` when they do not fill it. -/
def Image.pipeOffs (v : Image) : Nat → Nat → Nat → Option (List Nat)
  | n, o, fin =>
    if o = fin then some []
    else match n with
      | 0 => none
      | n + 1 =>
        let len := v.num (o + 28) 4
        if 256 ≤ len ∧ o + len ≤ fin ∧ v.pipeRecOk o then (v.pipeOffs n (o + len) fin).map (fun l => o :: l) else none

def Image.pipeRecs (v : Image) : Option (List Nat) :=
  match v.find scPipelines with
  | some x => v.pipeOffs 128 x.offset (x.offset + x.size)
  | none => some []

/-! ## Records as data (Tables 14-11 to 14-13) -/

def Image.bit (v : Image) (o i : Nat) : Bool := bitOf (v.num o 1) i

def Image.folioRec (v : Image) (o : Nat) : FolioRec :=
  let f := v.num (o + 80) 8
  ⟨BitVec.ofNat 512 (v.num o 64), v.num (o + 64) 8, v.num (o + 72) 8, if f = 2 ^ 64 - 1 then none else some f, none, false⟩

def srcKindOf (k : Nat) : SrcKind :=
  match k with
  | 1 => .iris | 2 => .group | 3 => .scaler | 4 => .ring | _ => .none

def Image.pipeBind (v : Image) (o : Nat) : PipeBind :=
  let nt := v.num (o + 5) 1
  let nb := v.num (o + 6) 1
  let s0 := o + 64 + 4 * nt
  let k0 := s0 + 64
  let b0 := k0 + 128
  { pipe := v.num o 1, cls := v.num (o + 1) 1 % 4, twinDevK := v.bit (o + 1) 2, primary := v.bit (o + 1) 3
    maxIn := v.num (o + 2) 1, folio := v.num (o + 3) 1, twinDev := v.num (o + 4) 1, nBuffers := nb
    asterRes := BitVec.ofNat 64 (v.num (o + 8) 8)
    stemMap := (upTo 8).map (fun c => v.num (o + 16 + c) 1)
    spcMap := (upTo 4).map (fun d => v.num (o + 24 + d) 1)
    tiles := (upTo nt).map (fun i =>
      let t := v.num (o + 64 + 4 * i) 4
      (⟨bitsOf t 0 6, bitsOf t 8 7, bitsOf t 16 6⟩ : TileBind))
    sources := (upTo 8).map (fun p =>
      (⟨srcKindOf (v.num (s0 + 8 * p) 1), v.num (s0 + 8 * p + 1) 1, v.num (s0 + 8 * p + 2) 1,
        BitVec.ofNat 16 (v.num (s0 + 8 * p + 4) 2)⟩ : SrcBind))
    sinks := (upTo 8).map (fun p =>
      (⟨v.num (k0 + 16 * p) 1, v.bit (k0 + 16 * p + 1) 0, v.num (k0 + 16 * p + 8) 8⟩ : SinkBind))
    bases := (upTo nb).map (fun b => (v.num (b0 + 16 * b) 8, v.num (b0 + 16 * b + 8) 8)) }

def Image.streamRec (v : Image) (o : Nat) : StreamRec where
  stream := v.num o 1
  port := v.num (o + 1) 1
  exps := ((upTo 3).map (fun i => v.num (o + 2 + i) 1)).filter (fun e => e != 0xFF)
  dtype := v.num (o + 5) 1
  pipe := v.num (o + 6) 1
  black := decide (v.num (o + 7) 1 = 1)
  group := if v.num (o + 8) 1 = 0xFF then none else some (v.num (o + 8) 1)
  width := v.num (o + 10) 2
  height := v.num (o + 12) 2
  maxFps := v.num (o + 14) 2
  feUs := v.num (o + 16) 4
  lostMs := v.num (o + 20) 4
  parBase := v.num (o + 24) 8
  rings := (upTo 7).map (fun r => (v.num (o + 32 + 8 * r) 5, v.num (o + 37 + 8 * r) 1))

/-- An IRIS section's block passes R283 for its stream's input size; one that no record names, for its own. -/
def Image.irisOk (v : Image) (x : Sec) : Bool :=
  let m := v.mem.slice (v.base + x.offset) parBank
  let r := ((v.recs scStreams).map v.streamRec).find? (fun r => r.stream == x.index)
  paramOk (r.elim (irisVal m .width) (·.width)) (r.elim (irisVal m .height) (·.height)) m

/-- R224 read for a scroll whose header is right: cause 11 where it fails (Table 14-5). -/
def Image.scrollOk (v : Image) (len : Nat) : Bool :=
  v.scrDirOk len &&
  (match v.recs scTopology, v.recs scDevice with
   | [t], [d] => v.topoOk t && v.deviceOk t d
   | _, _ => false) &&
  (v.recs scRegions).all v.regionOk && (v.recs scFolios).all v.folioRecOk && (v.recs scStreams).all v.streamRecOk &&
  (v.recs scAlign).all v.alignRecOk && (v.recs scAster).all v.asterRecOk && (v.recs scDecode).all v.decRecOk &&
  (v.recs scEncode).all v.encRecOk &&
  v.pipeRecs.isSome &&
  v.secs.all (fun x => x.type != scIris || v.irisOk x)

def Image.alignRec (v : Image) (o : Nat) : AlignRec :=
  let w := v.num (o + 4) 4
  let h := v.num (o + 8) 4
  ⟨v.num o 1, BitVec.ofNat 24 (v.num (o + 1) 3), w, if h = 2 ^ 32 - 1 then w else h⟩

def Image.asterRec (v : Image) (o : Nat) : AsterRec where
  group := v.num o 1
  pipe := v.num (o + 1) 1
  candPerDet := v.num (o + 3) 1
  minplus := v.bit (o + 2) 0
  nmsAgn := v.bit (o + 2) 1
  repTent := v.bit (o + 2) 2
  embedPol := v.bit (o + 2) 3
  base := v.num (o + 4) 2
  size := v.num (o + 6) 2
  featBytes := v.num (o + 8) 2
  geoRep := v.num (o + 10) 1
  geoShift := v.num (o + 11) 1
  originX := sext (v.num (o + 12) 4) 32
  originY := sext (v.num (o + 16) 4) 32
  detMin := v.num (o + 20) 2
  birth := v.num (o + 22) 2
  maxDet := v.num (o + 24) 2
  nmsThr := v.num (o + 26) 2
  gate := v.num (o + 28) 4
  noise := (upTo 8).map (fun i => v.num (o + 32 + 4 * i) 4)
  confirm := v.num (o + 64) 1
  maxMissT := v.num (o + 65) 1
  maxMissC := v.num (o + 66) 1
  repMiss := v.num (o + 67) 1
  embBase := v.num (o + 72) 8
  shadow := v.num (o + 80) 8
  jobBase := v.num (o + 88) 8
  jobLen := v.num (o + 96) 8

def Image.encRec (v : Image) (o : Nat) : EncRec :=
  ⟨v.num o 1, v.num (o + 1) 1, v.num (o + 4) 2, v.num (o + 6) 2, v.bit (o + 2) 0, v.bit (o + 2) 1, v.num (o + 8) 4,
   v.num (o + 12) 4, v.num (o + 16) 8, v.num (o + 24) 8⟩

/-! ## Checks of the bindings -/

/-- A byte range inside the HBM. -/
def inHbm (a len : Nat) : Bool := decide (a + len ≤ hbmTop)

/-- A range lies in secure, unlocked lines: no entry, or one that is secure and none locked. -/
def State.secureOpen (s : State) (lo len : Nat) : Bool :=
  decide (0 < len) && inHbm lo len &&
  (upTo ((lo + len - 1) / 4096 + 1 - lo / 4096)).all (fun i =>
    let ms := s.matching ((lo / 4096 + i) * 4096)
    (ms.isEmpty || ms.any (fun e => e.2.world)) && ms.all (fun e => !e.2.lock))

/-- CSI-2 data types of Table 08-1. -/
def dataTypes : List Nat := [0x2A, 0x2B, 0x2C, 0x2D, 0x2E, 0x2F, 0x1E]

/-- Input pixels per second of a stream on its pipe (Table 08-2). -/
def StreamRec.load (r : StreamRec) : Nat := r.width * r.height * r.exps.length * r.maxFps

/-- Table 08-2 for a record whose pad byte is `pad` and whose exposure bytes are `es`, after the streams `l`. -/
def State.streamOk (s : State) (l : List StreamRec) (r : StreamRec) (pad : Nat) (es : List Nat) : Bool :=
  decide (r.stream < 24) && !(l.any (fun x => x.stream == r.stream)) && decide (r.port < 8) && es.headD 0xFF != 0xFF &&
  r.exps.all (fun e => decide (e < 16)) && pairwiseNot (fun (a b : Nat) => a == b) r.exps && dataTypes.contains r.dtype &&
  decide ((l.filter (fun x => x.port == r.port)).length < 4) &&
  l.all (fun x => x.port != r.port || x.exps.all (fun e => !(r.exps.contains e))) &&
  decide (16 ≤ r.width) && decide (r.width ≤ 4096) && decide (r.width % 2 = 0) && decide (16 ≤ r.height) &&
  decide (r.height ≤ 4096) && decide (1 ≤ r.maxFps) && decide (r.maxFps ≤ 240) && decide (r.pipe < 2) &&
  decide (((l.filter (fun x => x.pipe == r.pipe)).map StreamRec.load).sum + r.load ≤ 2500000000) && decide (pad < 2) &&
  decide (100 ≤ r.feUs) && decide (r.feUs ≤ 100000) && decide (10 ≤ r.lostMs) && decide (r.lostMs ≤ 10000) &&
  decide (r.parBase % 64 = 0) && s.openRegion r.parBase 393216 &&
  r.rings.all (fun x => x.2 == 0 || (decide (2 ≤ x.2) && decide (x.2 ≤ 16))) && decide (r.group.getD 0 < 8)

/-- R296, after the groups `l`. -/
def alignOk (l : List AlignRec) (r : AlignRec) : Bool :=
  let n := ((upTo 24).filter (fun i => r.members.getLsbD i)).length
  !(l.any (fun x => x.group == r.group || x.members &&& r.members != 0)) && decide (2 ≤ n) && decide (n ≤ 16) &&
  decide (100000 ≤ r.window) && decide (r.window ≤ 100000000) && decide (r.holdoff ≤ 100000000)

/-- Table 10-1 but for the Pipeline and Record slot items (R334), after the groups `l`. -/
def State.asterOk (s : State) (l : List AsterRec) (a : AsterRec) : Bool :=
  decide (a.group < 64) && !(l.any (fun x => x.group == a.group)) && decide (a.base % 16 = 0) && decide (a.size % 16 = 0) &&
  decide (16 ≤ a.size) && decide (a.size ≤ 4096) && decide (a.base + a.size ≤ 65536) &&
  l.all (fun x => !(spansMeet x.base x.size a.base a.size)) && decide (a.featBytes ≤ 1024) && decide (a.featBytes % 128 = 0) &&
  (if a.minplus then decide (128 ≤ a.featBytes) && a.geoRep == 0 && a.geoShift == 0
   else decide (a.geoRep ≤ 32) && decide (a.geoShift ≤ 15) && !(a.geoRep == 0 && a.featBytes == 0)) &&
  decide (1 ≤ a.maxDet) && decide (a.maxDet ≤ 4096) && decide (1 ≤ a.candPerDet) && decide (a.candPerDet ≤ 16) &&
  decide (1 ≤ a.noise[3]?.getD 0) && decide (1 ≤ a.noise[4]?.getD 0) && decide (1 ≤ a.confirm) && decide (a.confirm ≤ 63) &&
  decide (1 ≤ a.maxMissT) && decide (1 ≤ a.maxMissC) &&
  (a.featBytes == 0 || (decide (a.embBase % 64 = 0) && s.openRegion a.embBase (a.size * a.featBytes))) &&
  decide (a.shadow % 64 = 0) && s.secureOpen a.shadow (a.size * 64) && decide (a.jobBase % 64 = 0) &&
  s.openRegion a.jobBase a.jobLen && decide (a.jobSize a.maxDet a.size ≤ a.jobLen)

/-- Table 09-5, after the sessions `l`. -/
def encOk (streams : List StreamRec) (l : List EncRec) (r : EncRec) : Bool :=
  decide (r.session < 32) && !(l.any (fun x => x.session == r.session)) &&
  streams.any (fun x => x.stream == r.stream && ((x.rings[1]?).any (fun g => g.2 != 0))) && decide (1 ≤ r.keyInt) &&
  (r.target || decide (r.qp ≤ (if r.av1 then 255 else 51))) &&
  (!r.target || (decide (1024 ≤ r.tgtB) && decide (r.tgtB ≤ r.maxPkt))) && decide (4096 ≤ r.maxPkt) &&
  decide (r.maxPkt ≤ 16777216) && decide (r.base % 64 = 0) && decide (r.size % 64 = 0) && decide (4 * r.maxPkt ≤ r.size) &&
  decide (r.size ≤ 2 ^ 32) && inHbm r.base r.size

/-- The class in force (R2): the grade's default where the scroll is silent. -/
def State.pairedClass (s : State) (b : PipeBind) : Bool := b.cls == 1 || (b.cls == 0 && s.fuse.grade == 1)

/-- The port to a direct neighbour (R442). -/
def State.portTo (s : State) (dev : Nat) : Option Nat :=
  (upTo 6).find? (fun p => !(s.unusedPort s.boot.dev p) && s.neighbour s.boot.dev p == dev)

/-- Compute die of a logical tile: its cluster never changes (R515). -/
def dieOfLogical (l : Nat) : Nat := l / 16

/-- The intake rings that a binding names. -/
def PipeBind.rings (b : PipeBind) : List Nat := (b.sources.filter (fun x => x.kind == .ring)).map (·.id)

/-- Table 07-6, the items that do not depend on the folio; `kinds` are the source kind bytes. -/
def State.pipeItemsOk (s : State) (b : PipeBind) (kinds : List Nat) (folios : Nat) : Bool :=
  !(s.pipe b.pipe).named && decide (b.folio < folios) && decide (b.cls < 3) && decide (1 ≤ b.maxIn) && decide (b.maxIn ≤ 64) &&
  decide (1 ≤ b.tiles.length) && decide (b.tiles.length ≤ 64) && decide (b.nBuffers ≤ 64) &&
  b.tiles.all (fun t => s.inTorus t.device) &&
  b.stemMap.all (fun c => decide (c < 8) || c == 0xFF) && b.spcMap.all (fun d => decide (d < 4) || d == 0xFF) &&
  (!(s.pairedClass b) ||
    (if b.twinDevK then b.twinDev != s.boot.dev && (s.portTo b.twinDev).isSome
     else b.tiles.all (fun t => dieOfLogical t.twin != dieOfLogical t.logical))) &&
  kinds.all (fun k => decide (k ≤ 4)) &&
  b.sources.all (fun x => match x.kind with
    | .none => true
    | .iris => decide (x.id < 24) && decide (x.sub < 4)
    | .group => decide (x.id < 8) && decide (x.sub < 4)
    | .scaler => decide (x.sub < 8)
    | .ring => (s.iring x.id).target.isNone) &&
  pairwiseNot (fun (a b : Nat) => a == b) b.rings && b.sinks.all (fun k => !k.bound || decide (k.index < hbmTop))

/-! ## Applying the scroll -/

/-- LNK_TOPO, LNK_HOME, the port states and the power cap, as TOPOLOGY and DEVICE give them. -/
def State.applyDevice (s : State) (v : Image) (t d : Nat) : State :=
  let dev := v.ownDev d
  let home := v.homeOf t dev
  let mine := decide (home = dev)
  let served := if mine then ((upTo 128).filter (fun n => v.inTopo t n && v.homeOf t n == dev)).length else 0
  let s : State := { s with boot := { s.boot with dev := dev } }
  let s := s.setReg (kLnk 0 0x100) (BitVec.ofNat 32 (dev + place (v.num t 1) 8 3 + place (v.num (t + 1) 1) 11 2 +
    place (v.num (t + 2) 1) 13 2 + place (v.num (t + 3) 1) 15 3))
  let s := s.setReg (kLnk 0 0x104) (BitVec.ofNat 32 (home + place (b2n mine) 7 1 + place served 8 7))
  let s := (upTo 6).foldl (fun (s : State) p => if s.unusedPort dev p then s.setLnk p lsUnused else s) s
  let s := if v.num (d + 4) 2 = 0 then s else s.setFld (kPwr 0) 0 10 (v.num (d + 4) 2)
  if v.num (d + 6) 1 = 0 then s else s.setFld (kPwr 0) 10 4 (v.num (d + 6) 1)

/-- REGIONS records, in order; one that names an entry again is refused. -/
def State.applyRegions (s : State) (v : Image) : List Nat → List Nat → State
  | [], _ => s
  | o :: os, used =>
    let i := v.num o 1
    if i ∈ used then s.applyRegions v os used
    else
      (((s.setRgn i .base (BitVec.ofNat 32 (v.num (o + 8) 4))).setRgn i .last (BitVec.ofNat 32 (v.num (o + 12) 4))).setRgn
        i .attr (BitVec.ofNat 32 (v.num (o + 1) 1))).applyRegions v os (i :: used)

/-- A folio that the scroll names awaits verification; the record's load range lies in the HBM, 4 KiB aligned. -/
def State.nameFolio (s : State) (i : Nat) (f : FolioRec) : State :=
  if f.load % 4096 = 0 ∧ 0 < f.length ∧ inHbm f.load f.length then s.setReg (kTrs (0x200 + 4 * i)) 1 else s

/-- An IRIS section's parameters go into bank 0 and the shadow. -/
def State.applyIris (s : State) (r : StreamRec) (bs : List Byte) : State :=
  let s := (s.memAccess ⟨rqCore0, true, r.parBase, 0, bs, false⟩ none).1
  (s.memAccess ⟨rqCore0, true, r.parBase + 262144, 0, bs, false⟩ none).1

/-- A STREAMS record: bound to its pipe, its block supplied as bank 0 and shadow (R283). -/
def State.applyStream (s : State) (v : Image) (o : Nat) : State :=
  let r := v.streamRec o
  if s.streamOk s.boot.scroll.streams r (v.num (o + 7) 1) ((upTo 3).map (fun i => v.num (o + 2 + i) 1)) then
    let s : State := { s with boot := { s.boot with scroll := { s.boot.scroll with streams := s.boot.scroll.streams ++ [r] } } }
    let s := s.setBit (kIrs (0x20 * r.pipe)) (8 + r.stream) true
    match v.secs.find? (fun x => x.type == scIris && x.index == r.stream) with
    | some x => s.applyIris r (v.bytes x.offset parBank)
    | none => s
  else s

/-- A PIPELINES record: the pipeline is named and its intake rings are bound to it (R397). -/
def State.applyPipe (s : State) (v : Image) (o : Nat) : State :=
  let b := v.pipeBind o
  let kinds := (upTo 8).map (fun p => v.num (o + 64 + 4 * b.tiles.length + 8 * p) 1)
  if s.pipeItemsOk b kinds s.boot.scroll.folios.length then
    let load := ((s.boot.scroll.folios[b.folio]?).map (·.load)).getD 0
    let s := s.setPipe b.pipe { Pipe.unbound 0 with named := true, paired := s.pairedClass b, bind := some b, load := load }
    let s : State := { s with boot := { s.boot with scroll := { s.boot.scroll with pipes := s.boot.scroll.pipes ++ [b] } } }
    (upTo 8).foldl (fun (s : State) p => match b.sources[p]? with
      | some x => if x.kind = .ring then s.setIring x.id { s.iring x.id with target := some (.tensor b.pipe p) } else s
      | none => s) s
  else s

def State.applyAlign (s : State) (v : Image) (o : Nat) : State :=
  let r := v.alignRec o
  if alignOk s.boot.scroll.aligns r then
    { s with boot := { s.boot with scroll := { s.boot.scroll with aligns := s.boot.scroll.aligns ++ [r] } } } else s

def State.applyAster (s : State) (v : Image) (o : Nat) : State :=
  let r := v.asterRec o
  if s.asterOk s.boot.scroll.asters r then
    { s with boot := { s.boot with scroll := { s.boot.scroll with asters := s.boot.scroll.asters ++ [r] } } } else s

def State.applyContext (s : State) (v : Image) (o : Nat) : State :=
  let b := v.bytes o 576
  if s.ctxStatus b = stOk then s.createCtx b else s

def State.applyEnc (s : State) (v : Image) (o : Nat) : State :=
  let r := v.encRec o
  if encOk s.boot.scroll.streams s.boot.scroll.encs r then
    { s with boot := { s.boot with scroll := { s.boot.scroll with encs := s.boot.scroll.encs ++ [r] } } } else s

/-- The firmware area (R486, Table 15-5). -/
def fwArea : Nat := 0x2CFC000000
def fwAreaLen : Nat := 0x4000000

/-- A scroll that disables live update: it names entry 31, or places a folio or a SCRATCH base inside the area. -/
def State.updateOff (s : State) (v : Image) : Bool :=
  (v.recs scRegions).any (fun o => v.num o 1 == 31) ||
  s.boot.scroll.folios.any (fun f => spansMeet f.load f.length fwArea fwAreaLen) ||
  s.boot.scroll.pipes.any (fun b => b.bases.any (fun x =>
    [x.1, x.2].any (fun a => decide (fwArea ≤ a) && decide (a < fwArea + fwAreaLen))))

/-- The scroll read: sections in the order of their types. -/
def State.applyScroll (s : State) (v : Image) : State :=
  let t := (v.recs scTopology).headD 0
  let d := (v.recs scDevice).headD 0
  let s := (s.applyDevice v t d).applyRegions v (v.recs scRegions) []
  let folios := (v.recs scFolios).map v.folioRec
  let hash := bytesToNat ((sha512 (v.bytes t 144)).take 8)
  let s : State := { s with boot := { s.boot with scroll := { Scroll.empty with
    homes := (upTo 128).map (v.homeOf t), inkIdle := (upTo 80).map (fun i => v.num (d + 16 + i) 1)
    folios := folios, topoHash := BitVec.ofNat 64 hash } } }
  let s := (upTo folios.length).foldl (fun (s : State) i => match folios[i]? with
    | some f => s.nameFolio i f
    | none => s) s
  let s := (v.pipeRecs.getD []).foldl (fun (s : State) o => s.applyPipe v o) s
  let s := (v.recs scStreams).foldl (fun (s : State) o => s.applyStream v o) s
  let s := (v.recs scAlign).foldl (fun (s : State) o => s.applyAlign v o) s
  let s := (v.recs scAster).foldl (fun (s : State) o => s.applyAster v o) s
  let s := (v.recs scDecode).foldl (fun (s : State) o => s.applyContext v o) s
  let s := (v.recs scEncode).foldl (fun (s : State) o => s.applyEnc v o) s
  { s with boot := { s.boot with scroll := { s.boot.scroll with updOff := s.updateOff v } } }

end Sys2Proof.Machine
end

