-- ==== Sys2Proof/Machine/Boot.lean ====
section
/-!
DEFINITION. Reset, boot and trust (chapter 14): RESET_n, the boot sequencer, the first stage with slot selection,
copy, verification and decryption, the keys and their lock, the release of the cores, and anti-rollback.
-/
namespace Sys2Proof.Machine

/-! ## RESET_n and the supply (R447, R547) -/

/-- Every register and buffer at reset. The flash and the fuses stay; HBM and recovery RAM keep their contents
while their supply stays (`powered`); commands still waiting and the writes already issued are outside the
device. -/
def State.powerOn (s : State) (powered : Bool) : State :=
  { State.reset with
    pending := s.pending
    freeIx := s.freeIx
    fuse := s.fuse
    boot := { Boot.reset with
      nor := s.boot.nor
      rcv := if powered then s.boot.rcv else []
      rcvCe := if powered then s.boot.rcvCe else []
      rcvUe := if powered then s.boot.rcvUe else [] }
    mem := { MemSys.reset with
      hbm := if powered then s.mem.hbm else []
      ce := if powered then s.mem.ce else []
      ue := if powered then s.mem.ue else [] }
    host := { HostIf.reset with perst := s.host.perst, out := s.host.out } }

/-- RESET_N_ASSERT (R447): an assertion of at least 10 µs. A tripped device leaves only by its supply (R547). -/
def execResetNAssert (ns : Nat) (s : State) : Out :=
  attempt (if 10000 ≤ ns ∧ s.boot.phase ≠ .tripped then some (s.powerOn true) else none) s

/-- SUPPLY_REMOVAL (R547): the supply goes and returns. -/
def execSupplyRemoval (s : State) : Out := attempt (some (s.powerOn false)) s

/-! ## The boot sequencer (R445, R448) -/

/-- TRS_KEYSLOT_k. -/
def KeySlot.word (k : KeySlot) : Nat := b2n k.programmed + 2 * b2n k.revoked + 4 * b2n k.useImage + 8 * b2n k.useFolio

/-- State field of Iris pipes and of decode and encode cores: active, else the last one is the spare and another
has failed. -/
def unitState (up last : Bool) : Nat := if up then 1 else if last then 0 else 2

/-- The registers that fuses load (type F). -/
def State.loadFuses (s : State) : State :=
  let f := s.fuse
  let s := s.setReg 0 (BitVec.ofNat 32 (place f.grade 0 4 + place f.partCode 8 8 + place f.stepping 16 8))
  let s := s.setFld (kPwr 0) 0 10 f.capW
  let s := (upTo 4).foldl (fun (s : State) d => s.setReg (kPwr (0x240 + 4 * d)) (BitVec.ofNat 32 f.avs)) s
  let s := s.setReg (kPwr 0x300) (BitVec.ofNat 32 (place f.warnC 0 8 + place f.throttleC 8 8))
  let s := s.setReg (kTrs 0xC) (BitVec.ofNat 32 (ones f.arv))
  let s := (upTo 4).foldl (fun (s : State) k =>
    s.setReg (kTrs (0x600 + 4 * k)) (BitVec.ofNat 32 ((f.slots[k]?).elim 0 KeySlot.word))) s
  let s := (upTo 3).foldl (fun (s : State) i => s.setFld (kIrs (0x20 * i)) 0 2 (unitState (f.pipesUp.getLsbD i) (i == 2))) s
  let s := (upTo 9).foldl (fun (s : State) i => s.setFld (kDec i 0) 0 2 (unitState (f.decUp.getLsbD i) (i == 8))) s
  let s := (upTo 5).foldl (fun (s : State) i => s.setFld (kEnc i 0) 0 2 (unitState (f.encUp.getLsbD i) (i == 4))) s
  let s := (upTo 12).foldl (fun (s : State) n => s.setFld (kQcx (0x10 + 4 * n)) 4 2 (if n < ones f.coresOk then 0 else 3)) s
  (upTo 80).foldl (fun (s : State) t =>
    let remap := (f.remap.filter (fun r => r.1 == t)).map (fun r => (⟨r.2.1, r.2.2.1, r.2.2.2⟩ : Remap))
    let s := s.setTile t { s.tile t with failed := !f.tilesOk.getLsbD t, remap := remap }
    (s.setReg (kTil t 0x108) (SMap.get skipNone f.rowSkip t)).setReg (kTil t 0x10C) (SMap.get skipNone f.colSkip t)) s

/-- NOR_RST_n (Table 19-4): low while RESET_n is low, high from 50 µs after its release. Where no clock runs nothing
counts the 50 µs, and it counts as passed (log entry 135). -/
def State.norRstN (s : State) : Bool :=
  decide (s.boot.phase ≠ .held) && (decide (usTicks 50 ≤ s.elapsed.toNat) || !s.awake && !s.bit (kClk 0) 0)

/-- How a pin is driven. -/
inductive Drive where
  | low
  | high
  | highZ
deriving DecidableEq, Repr

/-- FSYNC k (Table 19-4, R294): high-impedance while RESET_n is low. -/
def State.fsyncPin (s : State) (k : Nat) : Drive :=
  if s.boot.phase = .held then .highZ else if s.pins.fsync.getLsbD k then .high else .low

/-- SS_MISO between two requests of the safety channel, when SS_CS_n is high (Table 19-4). -/
def State.ssMiso (_ : State) : Drive := .highZ

/-- XSPI_CS0_n and XSPI_CS1_n between two bursts: every burst of R469 begins and ends within one command (Table 19-4). -/
def State.xspiCsN (_ : State) (_ : Nat) : Drive := .high

/-- The sample of GOLDEN_n (R563): low only where every level of the 10 µs before the rising edge of RESET_n was driven
low. A level that changed, and an unconnected ball, read as high. -/
def goldenLow (levels : List (Option Bool)) : Bool := !levels.isEmpty && levels.all (fun l => l == some false)

/-- RESET_N_RELEASE (R445, R448, R563, R295). -/
def execResetNRelease (env : ReleaseEnv) (s : State) : Out :=
  attempt (if s.boot.phase = .held then
    let s : State := { s with elapsed := 0, boot := { s.boot with phase := .rom, releasedAt := 0 } }
    let s := s.setBit (kTrs 0) 2 (goldenLow env.golden)
    some (
      if !env.romOk then s.halt 1
      else if !env.pllLocks then s.halt 2
      else
        let s := s.setBit (kClk 0) 0 true
        if !env.fuseOk then s.halt 3
        else
          let s := s.loadFuses
          if s.fuse.coresOk = 0 then s.halt 4 else s)
    else none) s

/-- PLL_LOCK_LOSS (R532): every derived clock stops and the device halts with 0x02. -/
def execPllLockLoss (s : State) : Out :=
  attempt (if s.awake then some ((s.setBit (kClk 0) 0 false).halt 2) else none) s

/-! ## Slots (R451 to R453, R457) -/

/-- A slot as its header and status sectors give it; `cause` is that of Table 14-5, 0 for an ok header. -/
structure SlotHead where
  slot   : Nat
  base   : Nat
  cause  : Nat
  seq    : Nat
  arv    : Nat
  fwOff  : Nat
  fwLen  : Nat
  scrOff : Nat
  scrLen : Nat
  golden : Bool
  copied : Bool                -- the flash reads of its images complete
deriving DecidableEq, Repr

/-- The header is ok, its arv aside (R453, Table 14-3); `half` is the size of the slot. -/
def Image.slotOk (v : Image) (half : Nat) : Bool :=
  v.num 0 4 == 0x544F4C53 && v.num 4 2 == 1 && v.num 124 4 == crc32 (v.bytes 0 124) && decide (v.num 12 2 ≤ 64) &&
  v.num 16 8 % 4096 == 0 && decide (0x2000 ≤ v.num 16 8) && decide (v.num 16 8 + v.num 24 8 ≤ half) &&
  v.num 32 8 % 4096 == 0 && decide (v.num 32 8 + v.num 40 8 ≤ half) && decide (64 ≤ v.num 40 8) &&
  decide (v.num 40 8 ≤ 8388608) && v.num 40 8 % 64 == 0

def State.slotHead (s : State) (slot : Nat) (read copied : Bool) : SlotHead :=
  let half := s.boot.norSize / 2
  let base := slot * half
  let v := imageOf (s.norBytes base 128)
  let cause := if !read then 12 else if !(v.slotOk half) then 1 else if v.num 12 2 < s.fld (kTrs 0xC) 0 7 then 2 else 0
  ⟨slot, base, cause, v.num 8 4, v.num 12 2, v.num 16 8, v.num 24 8, v.num 32 8, v.num 40 8,
   bytesToNat (s.norBytes (base + 0x1000) 4) == 0x474F4C44, copied⟩

/-- Normal order: higher seq first; at equal seq the golden slot first, else a first. -/
def normalFirst (x y : SlotHead) : Bool :=
  decide (y.seq < x.seq) || (x.seq == y.seq && ((x.golden && !y.golden) || (x.golden == y.golden && decide (x.slot < y.slot))))

/-- Order of golden slots: higher seq first, equal seq a first. -/
def goldenFirst (x y : SlotHead) : Bool := decide (y.seq < x.seq) || (x.seq == y.seq && decide (x.slot < y.slot))

/-- The order in which slots are tried, and golden_missing (R453). -/
def slotOrder (strap : Bool) (hs : List SlotHead) : List SlotHead × Bool :=
  let cand := hs.filter (fun h => h.cause == 0)
  let normal (l : List SlotHead) : List SlotHead := sortBy normalFirst l
  if strap then
    let g := sortBy goldenFirst (cand.filter (·.golden))
    (g ++ normal (cand.filter (fun h => !h.golden)), g.isEmpty)
  else (normal cand, false)

/-! ## Copy, verify and decrypt (R454 to R456) -/

/-- What a slot that passes leaves: measurements, the lengths of the two parts, the plain scroll and the entries. -/
structure Loaded where
  mFw     : BitVec 512
  mScr    : BitVec 512
  parts   : Nat × Nat
  scr     : List Byte
  entries : Nat × Nat
deriving DecidableEq, Repr

/-- The header and lengths of a firmware image of `len` bytes (R452, Table 14-4). -/
def Image.fwHeadOk (v : Image) (len : Nat) : Bool :=
  v.num 0 4 == 0x57524946 && v.num 4 2 == 1 && v.zero 6 2 && v.zero 14 2 && v.zero 64 64 &&
  len == 128 + v.num 16 4 + v.num 20 4 + 1152 && decide (v.num 16 4 ≤ 8388608 - 4096) && decide (v.num 20 4 ≤ 16777216) &&
  v.num 16 4 % 64 == 0 && v.num 20 4 % 64 == 0

/-- The bytes from 128 up to the signature block, decrypted under K_img where the block says so; `none` for a tag
failure (R456), and where the key engine refuses the key (R460, log entry 150). -/
def Image.plain (v : Image) (kImg : Option (List Byte)) (off : Nat) : Option (List Byte) :=
  let body := v.bytes 128 (off - 128)
  if v.encrypted off then kImg.bind (fun k => gcmOpen k (v.bytes (off + 16) 12) (v.bytes 0 128) body (v.bytes (off + 28) 16))
  else some body

/-- The causes of Table 14-5 that a firmware copy meets, or its two parts. -/
def checkFw (slots : List KeySlot) (kImg : Option (List Byte)) (h : SlotHead) (fw : List Byte) : Except Nat (List Byte) :=
  let f := imageOf fw
  let fo := h.fwLen - 1152
  if !(f.fwHeadOk h.fwLen) || f.num 8 4 != h.seq || f.num 12 2 != h.arv then .error 3
  else match f.sigStatus slots fo false, f.plain kImg fo with
    | 1, _ => .error 4
    | 2, _ => .error 5
    | _, none => .error 6
    | _, some parts => .ok parts

/-- The causes that a scroll copy meets up to its decryption, or the plain scroll. -/
def checkScr (slots : List KeySlot) (kImg : Option (List Byte)) (h : SlotHead) (scr : List Byte) : Except Nat (List Byte) :=
  let c := imageOf scr
  let co := h.scrLen - 1152
  if h.scrLen < 1280 ∨ !(c.scrHeaderOk h.scrLen h.seq h.arv) then .error 7
  else match c.sigStatus slots co false, c.plain kImg co with
    | 1, _ => .error 8
    | 2, _ => .error 9
    | _, none => .error 10
    | _, some body => .ok (scr.take 128 ++ body ++ scr.drop co)

/-- Image SRAM of the control complex (R454). -/
def sramSec : Nat := 0xFF08000000
def sramHead : Nat := 0xFF087FF000
def sramNs : Nat := 0xFF08800000
def sramScroll : Nat := 0xFF09800000

def State.putSram (s : State) (a : Nat) (bs : List Byte) : State :=
  { s with boot := { s.boot with sram := s.boot.sram.writeBytes a bs } }

/-- The copies of a slot, then its checks; each image that passes stands decrypted in its place (R454 to R456). -/
def State.loadSlot (s : State) (h : SlotHead) (kImg : Option (List Byte)) : State × Except Nat Loaded :=
  let fw := s.norBytes (h.base + h.fwOff) h.fwLen
  let scr := s.norBytes (h.base + h.scrOff) h.scrLen
  let f := imageOf fw
  let fo := h.fwLen - 1152
  let sec := f.num 16 4
  let s := s.putSram sramHead (fw.take 128 ++ fw.drop fo)
  let s := if f.fwHeadOk h.fwLen then
      (s.putSram sramSec ((fw.drop 128).take sec)).putSram sramNs ((fw.take fo).drop (128 + sec)) else s
  let s := s.putSram sramScroll scr
  match checkFw s.fuse.slots kImg h fw with
  | .error c => (s, .error c)
  | .ok parts =>
    let s := (s.putSram sramSec (parts.take sec)).putSram sramNs (parts.drop sec)
    match checkScr s.fuse.slots kImg h scr with
    | .error c => (s, .error c)
    | .ok plain =>
      (s.putSram sramScroll plain,
        if (imageOf plain).scrollOk h.scrLen then
          .ok ⟨digestVec (sha512 (fw.take fo)), digestVec (sha512 (scr.take (h.scrLen - 1152))),
            (sec, parts.length - sec), plain, (f.num 24 4, f.num 28 4)⟩
        else .error 11)

/-- A cause recorded in TRS_BOOT_STAT. -/
def State.slotCause (s : State) (slot cause : Nat) : State := s.setFld (kTrs 0) (8 + 4 * slot) 4 cause

/-- One slot of the order tried, unless an earlier one boots (cause 12 where a read of its images does not complete):
the slot that boots with its place in the order, or the cause of the slot examined last. -/
def trySlot (kImg : Option (List Byte)) (acc : State × Except Nat (SlotHead × Nat × Loaded)) (x : SlotHead × Nat) :
    State × Except Nat (SlotHead × Nat × Loaded) :=
  match acc.2 with
  | .ok _ => acc
  | .error _ =>
    let r := if x.1.copied then acc.1.loadSlot x.1 kImg else (acc.1, .error 12)
    match r.2 with
    | .ok l => (r.1, .ok (x.1, x.2, l))
    | .error c => (r.1.slotCause x.1.slot c, .error c)

/-- The slots of an order tried in turn. -/
def State.trySlots (s : State) (kImg : Option (List Byte)) (hs : List SlotHead) (i last : Nat) :
    State × Except Nat (SlotHead × Nat × Loaded) := (hs.zipIdx i).foldl (trySlot kImg) (s, .error last)

/-! ## The Blotter scan (R528) -/

/-- The highest seq of the entries that hold a class of Table 17-2. -/
def State.lastSeq (s : State) : Option B32 :=
  (upTo 4096).foldl (fun (acc : Option B32) i =>
    let cls := (s.boot.rcv.read (32 * i + 4)).toNat
    let q := BitVec.ofNat 32 (bytesToNat (s.boot.rcv.readBytes (32 * i) 4))
    if 1 ≤ cls ∧ cls ≤ 0x14 then
      match acc with
      | none => some q
      | some x => if serialGe q x then some q else acc
    else acc) none

def State.blotterScan (s : State) : State :=
  let r := s.rcvWords (upTo 16384)
  let s := r.1
  match (if r.2 then s.lastSeq else none) with
  | some q => { s with safety := { s.safety with nextSeq := q + 1 } }
  | none =>
    { s with
      boot := { s.boot with
        rcv := s.boot.rcv.filter (fun c => decide (131072 ≤ c.1))
        rcvCe := s.boot.rcvCe.filter (fun w => decide (16384 ≤ w))
        rcvUe := s.boot.rcvUe.filter (fun w => decide (16384 ≤ w)) }
      safety := { s.safety with nextSeq := 1 } }

/-! ## Keys (R458 to R460) -/

/-- The device secret DS as bytes. -/
def State.secretBytes (s : State) : List Byte := vecBytes s.fuse.secret 64

/-- 36 words of a public key's 144 bytes. -/
def State.putPub (s : State) (off : Nat) (bs : List Byte) : State :=
  (upTo 36).foldl (fun (s : State) i =>
    s.setReg (kTrs (off + 4 * i)) (BitVec.ofNat 32 (bytesToNat ((bs.drop (4 * i)).take 4)))) s

/-- TRS_KEY_LOCK.lock: the key engine refuses what uses the device secret or K_img (R460). -/
def State.keyLocked (s : State) : Bool := s.bit (kTrs 0x10) 0

/-- K_img, unless the key engine refuses its derivation (R458, R460). -/
def State.imageKey (s : State) : Option (List Byte) :=
  if s.keyLocked then none else some (hmac s.secretBytes (ascii "pyrjor image key"))

/-- Acts 1 to 3 of R459: the public keys, the endorsement, d_id overwritten. -/
def State.deriveKeys (s : State) (mFw : BitVec 512) : State :=
  let ds := s.secretBytes
  let dId := ecKey (hmac ds (ascii "pyrjor identity"))
  let dAtt := ecKey (hmac ds (ascii "pyrjor attest" ++ vecBytes mFw 64))
  let pub := pubBytes dAtt
  let msg := pub ++ vecBytes mFw 64
  let s := (s.putPub 0x500 (pubBytes dId)).putPub 0x400 pub
  { s with
    freeIx := s.freeIx + 1
    boot := { s.boot with dId := 0, dAtt := dAtt, endorse := msg ++ ecSign dId (Config.nonce s.freeIx) msg } }

/-- Acts 1 to 5 of R459. DESIGN CHOICE (log entry 150): where the key engine refuses the derivations, the first stage goes
on without them. -/
def State.lockKeys (s : State) (mFw : BitVec 512) : State :=
  let s := if s.keyLocked then s else s.deriveKeys mFw
  let s : State := { s with boot := { s.boot with kImg := 0 } }
  (s.setBit (kTrs 0x10) 0 true).setBit (kTrs 0x20) 0 true

/-! ## The first stage -/

/-- Checks 0x05 to 0x0A of Table 14-1: the code of the first that fails. -/
def State.stageHalt (s : State) (env : BootEnv) : Option Nat :=
  if s.fuse.secret = 0 ∨ !(s.fuse.slots.any (fun k => k.programmed && !k.revoked && k.useImage)) then some 5
  else if !env.sfdpOk then some 6
  else if !env.rcvOk ∨ !([8, 16, 32, 64].contains env.rcvMib) then some 7
  else if env.hbmStacks = 0 then some 8
  else if (upTo 80).all (fun t => (s.tile t).failed || env.badTiles.contains t) then some 9
  else if !env.portOk then some 10
  else none

/-- The first TILE_MAP: logical tile `l` on working tile `l mod 8` of its cluster, none where there are fewer (log
entry 6). -/
def State.mapTiles (s : State) : State :=
  (upTo 64).foldl (fun (s : State) l =>
    { s with tileMap := SMap.set tileMap0 s.tileMap l ((s.working (l / 8))[l % 8]?) }) s

/-- What the checks leave: the parts' sizes, the bus mode, failed tiles, the tile map, PLL locks. -/
def State.inventory (s : State) (env : BootEnv) : State :=
  let s : State := { s with boot := { s.boot with norSize := env.density, rcvSize := env.rcvMib * 917504 } }
  let s := s.setBit (kTrs 0) 5 (!env.fast)
  let s := env.badTiles.foldl (fun (s : State) t => if t < 80 then s.setTile t { s.tile t with failed := true } else s) s
  (s.mapTiles.setFld (kClk 0) 1 15 0x7FFF).setFld (kClk 0) 16 8 env.hbmStacks.toNat

/-- The slot that boots: keys, locks, the scroll, and the entry of the other cores (R458, R459). -/
def State.handOver (s : State) (h : SlotHead) (place_ : Nat) (l : Loaded) : State :=
  let s := s.setFld (kTrs 0) 0 2 h.slot
  let s := if place_ = 0 then s else s.setBit (kTrs 0) 4 true
  let s : State := { s with
    boot := { s.boot with phase := .ready, seq := BitVec.ofNat 32 h.seq, arv := h.arv, mFw := l.mFw, mScr := l.mScr }
    fw := { s.fw with runSeq := BitVec.ofNat 32 h.seq, runArv := h.arv, parts := l.parts, entries := l.entries } }
  let s := (s.blotterScan).applyScroll (imageOf l.scr)
  let s := s.lockKeys l.mFw
  s.setReg64 (kTrs 0x18) (BitVec.ofNat 64 (sramNs + l.entries.2))

/-- FIRST_STAGE (R448, R453 to R459, R528). -/
def execFirstStage (env : BootEnv) (s : State) : Out :=
  attempt (if s.boot.phase = .rom then
    some (match s.stageHalt env with
      | some c => s.halt c
      | none =>
        let s := s.inventory env
        let a := s.slotHead 0 env.readA env.copyA
        let b := s.slotHead 1 env.readB env.copyB
        let s := [a, b].foldl (fun (s : State) h => if h.cause = 0
          then s.setReg (kTrs (4 + 4 * h.slot)) (BitVec.ofNat 32 h.seq) else s.slotCause h.slot h.cause) s
        let o := slotOrder (s.bit (kTrs 0) 2) [a, b]
        let s := s.setBit (kTrs 0) 3 o.2
        let k := (s.imageKey).map (·.take 32)
        let s : State := { s with boot := { s.boot with kImg := k.elim 0 (fun b => BitVec.ofNat 256 (bytesToNat b)) } }
        let r := s.trySlots k o.1 0 b.cause
        match r.2 with
        | .ok (h, i, l) => r.1.handOver h i l
        | .error c => r.1.halt (0x20 + c))
    else none) s

/-- STAGE_TIMEOUT (Table 14-1, 0x3F): 30 s after the release without a handover. -/
def execStageTimeout (s : State) : Out :=
  attempt (if (s.boot.phase = .rom ∨ s.boot.phase = .ready) ∧ msTicks 30000 ≤ s.elapsed.toNat then some (s.halt 0x3F) else none) s

/-- KEY_LOCK_SET (R460). -/
def execKeyLockSet (rq : Requester) (s : State) : Out :=
  attempt (if s.awake then some (s.guardReg rq (kTrs 0x10) (fun s =>
    { s.setBit (kTrs 0x10) 0 true with boot := { s.boot with kImg := 0 } })) else none) s

/-- SCR_LOCK_SET (R465). -/
def execScrLockSet (rq : Requester) (s : State) : Out :=
  attempt (if s.awake then some (s.guardReg rq (kTrs 0x20) (fun s => s.setBit (kTrs 0x20) 0 true)) else none) s

/-! ## Anti-rollback (R462) -/

/-- Fuse bits blown, lowest first, until `v` are. -/
def blowTo : Nat → BitVec 64 → Nat → BitVec 64
  | 0, b, _ => b
  | n + 1, b, v =>
    if ones b < v then
      match (upTo 64).find? (fun i => !b.getLsbD i) with
      | some i => blowTo n (b ||| BitVec.ofNat 64 (2 ^ i)) v
      | none => b
    else b

/-- The fuse count raised to `v`, when `v` is above it and at most 64. -/
def State.raiseArv (s : State) (v : Nat) : State :=
  if s.fld (kTrs 0xC) 0 7 < v ∧ v ≤ 64 then
    { s.setFld (kTrs 0xC) 0 7 v with fuse := { s.fuse with arv := blowTo 64 s.fuse.arv v } }
  else s

/-- ARV_RAISE (R462): a secure write of raise_to. -/
def execArvRaise (rq : Requester) (v : Nat) (s : State) : Out :=
  attempt (if s.awake then some (s.guardReg rq (kTrs 0xC) (fun s => s.raiseArv (v % 128))) else none) s

end Sys2Proof.Machine
end

