-- ==== Sys2Proof/Machine/Check.lean ====
section
/-!
DEFINITION. The CRC units and SHA-512 engines of CHK (chapter 16): their command queues, the writes held at a unit,
register feeds, init, check and the start of a scan, and the hiding of results (R499). A queue's front is the
command that executes next; a scan under way has left it.
-/
namespace Sys2Proof.Machine

def kCrc (u off : Nat) : Nat := kChk (0x100 * u + off)
def kSha (e off : Nat) : Nat := kChk (0x1000 + 0x100 * e + off)

/-! ## Busy (R495, R502) -/

def State.crcBusy (s : State) (u : Nat) : Bool :=
  !(s.crc u).queue.isEmpty || !(s.crc u).held.isEmpty || (s.crc u).scan.isSome
def State.shaBusy (s : State) (e : Nat) : Bool :=
  !(s.sha e).queue.isEmpty || !(s.sha e).held.isEmpty || (s.sha e).scan.isSome

/-- A folio verification holds the engine and the CRC unit of a number. -/
def State.unitTaken (s : State) (n : Nat) : Bool := s.boot.scroll.folios.any (fun f => f.engine == some n)

/-! ## Queueing -/

/-- Commands put at the end of a CRC unit's queue; a secure one hides the results (R499). -/
def CrcUnit.push (c : CrcUnit) (l : List ChkCmd) : CrcUnit :=
  { c with queue := c.queue ++ l, hidden := c.hidden || l.any (·.secure) }
def ShaEng.push (h : ShaEng) (l : List ChkCmd) : ShaEng :=
  { h with queue := h.queue ++ l, hidden := h.hidden || l.any (·.secure) }

/-- A write of commands to a CRC unit: queued when every command finds a free entry, otherwise held. -/
def State.crcQueue (s : State) (u : Nat) (rq : Requester) (l : List ChkCmd) : State :=
  let c := s.crc u
  if l.isEmpty then s
  else if c.held.isEmpty ∧ c.queue.length + l.length ≤ 4 then s.setCrc u (c.push l)
  else s.setCrc u { c with held := c.held ++ [(⟨rq.code, l⟩ : ChkHeld)] }

def State.shaQueue (s : State) (e : Nat) (rq : Requester) (l : List ChkCmd) : State :=
  let h := s.sha e
  if l.isEmpty then s
  else if h.held.isEmpty ∧ h.queue.length + l.length ≤ 4 then s.setSha e (h.push l)
  else s.setSha e { h with held := h.held ++ [(⟨rq.code, l⟩ : ChkHeld)] }

/-- Held writes accepted in arrival order while they fit. One without commands is a held clear of mismatch. -/
def State.crcAccept : Nat → Nat → State → State
  | 0, _, s => s
  | n + 1, u, s =>
    let c := s.crc u
    match c.held with
    | [] => s
    | h :: hs =>
      if h.cmds.isEmpty then State.crcAccept n u ((s.setCrc u { c with held := hs }).setBit (kCrc u 0x2C) 5 false)
      else if c.queue.length + h.cmds.length ≤ 4 then State.crcAccept n u (s.setCrc u { c.push h.cmds with held := hs })
      else s

def State.shaAccept : Nat → Nat → State → State
  | 0, _, s => s
  | n + 1, e, s =>
    let c := s.sha e
    match c.held with
    | [] => s
    | h :: hs =>
      if c.queue.length + h.cmds.length ≤ 4 then State.shaAccept n e (s.setSha e { c.push h.cmds with held := hs }) else s

/-- The front command leaves the queue to execute, and held writes follow; a secure one keeps the results hidden. -/
def State.crcPop (s : State) (u : Nat) (k : ChkCmd) : State :=
  let c := s.crc u
  let s := s.setCrc u { c with queue := c.queue.drop 1, hidden := c.hidden || k.secure }
  State.crcAccept c.held.length u s

def State.shaPop (s : State) (e : Nat) (k : ChkCmd) : State :=
  let h := s.sha e
  let s := s.setSha e { h with queue := h.queue.drop 1, hidden := h.hidden || k.secure }
  State.shaAccept h.held.length e s

/-- The command a CRC unit executes next: none while a scan runs or a verification holds the unit. -/
def State.crcNext (s : State) (u : Nat) : Option ChkCmd :=
  if s.awake ∧ u < 4 ∧ (s.crc u).scan.isNone ∧ !(s.unitTaken u) then (s.crc u).queue.head? else none
def State.shaNext (s : State) (e : Nat) : Option ChkCmd :=
  if s.awake ∧ e < 4 ∧ (s.sha e).scan.isNone ∧ !(s.unitTaken e) then (s.sha e).queue.head? else none

/-! ## Command writes (R495) -/

/-- The scan that a write to CTL queues: ADDR, LEN, nocache and cmp_on_end as they stand. -/
def State.crcScanOf (s : State) (u : Nat) : ChkOp :=
  .scan (s.reg64 (kCrc u 0x30)).toNat (s.reg64 (kCrc u 0x38)).toNat (s.bit (kCrc u 0) 9) (s.bit (kCrc u 0) 10) false
def State.shaScanOf (s : State) (e : Nat) : ChkOp :=
  .scan (s.reg64 (kSha e 8)).toNat (s.reg64 (kSha e 0x10)).toNat (s.bit (kSha e 0) 3) false (s.bit (kSha e 0) 2)

/-- Commands of a CTL write, one for each bit set: init, scan, check. -/
def State.ctlCmds (s : State) (u : Nat) (secure : Bool) (v : B32) : List ChkCmd :=
  ((if v.getLsbD 0 then [ChkOp.init] else []) ++ (if v.getLsbD 2 then [s.crcScanOf u] else []) ++
    (if v.getLsbD 1 then [ChkOp.check] else [])).map (fun o => ⟨o, secure⟩)

/-- The unit and offset of a CHK key: CRC unit or SHA engine. -/
def chkUnit (key : Nat) : Option (Bool × Nat × Nat) :=
  match decodeKey key with
  | some (.chk, _, off) =>
    if off < 0x400 then some (false, off / 0x100, off % 0x100)
    else if 0x1000 ≤ off ∧ off < 0x1400 then some (true, (off - 0x1000) / 0x100, off % 0x100)
    else none
  | _ => none

/-- A write to CHK_CRC_DIN_x, CHK_CRC_CTL or CHK_SHA_CTL. The bits final and nocache of CHK_SHA_CTL are stored first:
R495 locks every register but those that queue commands. -/
def State.chkCommand (s : State) (rq : Requester) (key : Nat) (v : B32) : Option State :=
  match chkUnit key with
  | some (false, u, off) =>
    if off = 0x28 then some (s.crcQueue u rq (s.ctlCmds u rq.secure v))
    else if off = 0x40 then some (s.crcQueue u rq [⟨.feed 1 (v &&& 0xFF), rq.secure⟩])
    else if off = 0x44 then some (s.crcQueue u rq [⟨.feed 2 (v &&& 0xFFFF), rq.secure⟩])
    else if off = 0x48 then some (s.crcQueue u rq [⟨.feed 4 v, rq.secure⟩])
    else none
  | some (true, e, off) =>
    if off = 0 then
      let s := s.setReg (kSha e 0) (v &&& 0xC)
      some (s.shaQueue e rq (((if v.getLsbD 0 then [ChkOp.init] else []) ++ (if v.getLsbD 1 then [s.shaScanOf e] else [])).map
        (fun o => (⟨o, rq.secure⟩ : ChkCmd))))
    else none
  | none => none

/-- CRC_COMMAND_WRITE (R495). -/
def execCrcCommandWrite (rq : Requester) (key : Nat) (v : B32) (s : State) : Out :=
  attempt (if s.awake then s.chkCommand rq key v else none) s

/-! ## CRC commands (R494 to R498, R573) -/

/-- RES of a unit. -/
def CrcUnit.res (c : CrcUnit) : Nat := crcResult c.width c.refout c.xorout c.state.toNat

/-- Bytes folded into a unit, counted in CNT. -/
def State.crcFeed (s : State) (u : Nat) (bs : List Byte) : State :=
  let c := s.crc u
  (s.setCrc u { c with state := BitVec.ofNat 64 (crcFold c.width c.poly.toNat c.refin c.state.toNat bs) }).add64 (kCrc u 0x50) bs.length

/-- A feed of `n` bytes, low first. -/
def State.dinExec (s : State) (u n : Nat) : Option State :=
  match s.crcNext u with
  | some ⟨.feed m v, sec⟩ =>
    if m = n then some ((s.crcPop u ⟨.feed m v, sec⟩).crcFeed u (natToBytes v.toNat n)) else none
  | _ => none

/-- DIN_B, DIN_H, DIN_W (R496). -/
def execDinB (u : Nat) (s : State) : Out := attempt (s.dinExec u 1) s
def execDinH (u : Nat) (s : State) : Out := attempt (s.dinExec u 2) s
def execDinW (u : Nat) (s : State) : Out := attempt (s.dinExec u 4) s

/-- The parameters of a unit taken, its state at init, CNT 0 (R573); a non-secure init ends the hiding (R499). -/
def State.crcReset (s : State) (u : Nat) (secure : Bool) : State :=
  let w := s.fld (kCrc u 0) 0 6 + 1
  let ini := s.reg64 (kCrc u 0x10)
  let c := s.crc u
  (s.setCrc u { c with
    width := w, poly := s.reg64 (kCrc u 8), init := ini, refin := s.bit (kCrc u 0) 6, refout := s.bit (kCrc u 0) 7
    xorout := s.bit (kCrc u 0) 8, state := BitVec.ofNat 64 (ini.toNat % 2 ^ w), hidden := secure }).setReg64 (kCrc u 0x50) 0

/-- CRC_INIT (R573). -/
def execCrcInit (u : Nat) (s : State) : Out :=
  attempt (match s.crcNext u with
    | some ⟨.init, sec⟩ => some ((s.crcPop u ⟨.init, sec⟩).crcReset u sec)
    | _ => none) s

/-- The compare of R498. -/
def State.crcCompare (s : State) (u : Nat) : State :=
  let c := s.crc u
  let res := c.res
  let ok := decide (res = (s.reg64 (kCrc u 0x18)).toNat % 2 ^ c.width)
  let s := s.setBit (kCrc u 0x2C) 4 ok
  if ok then s
  else
    let s := s.setBit (kCrc u 0x2C) 5 true
    if s.bit (kCrc u 0) 11 then s.raise 0x0401 (mkParam [(0, u), (32, res % 2 ^ 32)]) else s

/-- CRC_CHECK (R498). -/
def execCrcCheck (u : Nat) (s : State) : Out :=
  attempt (match s.crcNext u with
    | some ⟨.check, sec⟩ => some ((s.crcPop u ⟨.check, sec⟩).crcCompare u)
    | _ => none) s

/-- R497, check 1: the length is not 0 and the last byte lies in the device-local space. -/
def scanRange (addr len : Nat) : Bool := decide (0 < len) && decide (addr + len - 1 ≤ localTop)

/-- CRC_SCAN (R497): a scan out of range ends at once; another runs until CRC_SCAN_DONE. -/
def execCrcScan (u : Nat) (s : State) : Out :=
  attempt (match s.crcNext u with
    | some ⟨.scan addr len nc cmp fin, sec⟩ =>
      let k : ChkCmd := ⟨.scan addr len nc cmp fin, sec⟩
      let s := s.crcPop u k
      some (if scanRange addr len then s.setCrc u { s.crc u with scan := some k }
        else s.setFld (kCrc u 0x2C) 8 8 stRange)
    | _ => none) s

/-! ## SHA-512 commands (R502) -/

/-- SHA_INIT. -/
def execShaInit (e : Nat) (s : State) : Out :=
  attempt (match s.shaNext e with
    | some ⟨.init, sec⟩ =>
      let s := s.shaPop e ⟨.init, sec⟩
      some (((s.setSha e { s.sha e with state := shaIv, hidden := sec }).setReg64 (kSha e 0x18) 0).setBit (kSha e 4) 1 false)
    | _ => none) s

/-- SHA_SCAN: out of range, or not final and not whole blocks, it ends at once with RANGE. -/
def execShaScan (e : Nat) (s : State) : Out :=
  attempt (match s.shaNext e with
    | some ⟨.scan addr len nc cmp fin, sec⟩ =>
      let k : ChkCmd := ⟨.scan addr len nc cmp fin, sec⟩
      let s := s.shaPop e k
      some (if scanRange addr len ∧ (fin ∨ len % 128 = 0) then s.setSha e { s.sha e with scan := some k }
        else s.setFld (kSha e 4) 8 8 stRange)
    | _ => none) s

end Sys2Proof.Machine
end

