-- ==== Sys2Proof/Machine/Bind.lean ====
section
/-!
DEFINITION. Into service (R39, R234, R446, R467, R468, R486, R512): the release of the cores, folio verification and
locking, and the binding of pipelines.
-/
namespace Sys2Proof.Machine

/-! ## The release (R446, R469) -/

/-- Blotter entries held on the die are written, in their order. -/
def State.flushHeld (s : State) : State :=
  s.safety.bltHeld.foldl (fun (s : State) e => s.bltStore e) { s with safety := { s.safety with bltHeld := [] } }

/-- Classes without a spare after boot (R512, Table 17-3): those exhausted before go, then what fuses and self-test
left without one. -/
def State.bootExhaust (s : State) : State :=
  let s := s.safety.exhausted.foldl (fun (s : State) x => s.showExhaust x.1 x.2) s
  let s := (upTo 8).foldl (fun (s : State) c => s.checkTiles c) s
  let s := if ones s.fuse.coresOk < 12 then s.exhaust 3 11 else s
  let s := if s.fld (kIrs 0x40) 0 2 = 1 then s.exhaust 4 2 else s
  let s := if s.fld (kDec 8 0) 0 2 = 1 then s.exhaust 5 8 else s
  if s.fld (kEnc 4 0) 0 2 = 1 then s.exhaust 6 4 else s

/-- R486: entry 31 over the firmware area, pinned in two ways and filled, unless the scroll disables live update. -/
def State.firmwareArea (s : State) : State :=
  if s.boot.scroll.updOff then s
  else
    (((s.setRgn 31 .base (BitVec.ofNat 32 (fwArea / 4096))).setRgn 31 .last
      (BitVec.ofNat 32 ((fwArea + fwAreaLen) / 4096 - 1))).setRgn 31 .attr 0xF).setPin 7 0xC00000DF

/-- With no folio loaded, the slices that ink_idle names stay powered (R548). -/
def State.idleSlices (s : State) : State :=
  (upTo 80).foldl (fun (s : State) t =>
    s.setSlices t (if (s.tile t).failed then 0 else (s.boot.scroll.inkIdle[t]?).getD 0)) s

/-- TRS_RELEASE.go rises: held entries, exhausted classes and 0x0301 (R469, R470, R512). -/
def State.releaseGo (s : State) : State :=
  let s := s.setBit (kTrs 0x14) 0 true
  let s : State := { s with boot := { s.boot with phase := .serving, statAtHand := s.reg (kTrs 0) } }
  let b := s.reg (kTrs 0)
  let s := s.flushHeld
  let s := if b.getLsbD 3 || b.getLsbD 4 then
      s.raise 0x0301 (mkParam [(0, bitsOf b.toNat 0 2), (8, bitsOf b.toNat 8 4), (16, bitsOf b.toNat 12 4)]) else s
  (s.bootExhaust.firmwareArea.idleSlices).tryService

/-- RELEASE_GO (R446). -/
def execReleaseGo (rq : Requester) (s : State) : Out :=
  attempt (if s.boot.phase = .ready then some (s.guardReg rq (kTrs 0x14) (fun s => s.byCode s.releaseGo)) else none) s

/-! ## Folio verification (R467, R468) -/

/-- No verification and no command of CHK occupies a SHA-512 engine and the CRC unit of its number (R502). -/
def State.engineFree (s : State) (e : Nat) : Bool := !(s.shaBusy e) && !(s.crcBusy e) && !(s.unitTaken e)

def State.setFolio (s : State) (i : Nat) (f : FolioRec) : State :=
  { s with boot := { s.boot with scroll := { s.boot.scroll with folios := s.boot.scroll.folios.set i f } } }

/-- Act 1 of R468: region-table entry 32 + i over the load range. -/
def State.lockFolio (s : State) (i : Nat) (f : FolioRec) : State :=
  let r := 32 + i
  if (s.rgn r).lock then s
  else
    ((s.setReg (kRgn r 0) (BitVec.ofNat 32 (f.load / 4096))).setReg (kRgn r 4)
      (BitVec.ofNat 32 ((f.load + f.length - 1) / 4096))).setReg (kRgn r 8) 0x25

/-- A verification starts on the lowest free engine: locked and verifying. `own` marks core 0's own path. -/
def State.verifyStart (s : State) (i : Nat) (own : Bool) : Option State :=
  match s.boot.scroll.folios[i]?, (upTo 4).find? (fun e => s.engineFree e) with
  | some f, some e =>
    if s.folioState i = 1 then
      some (((s.setFolio i { f with engine := some e, secure := own }).lockFolio i f).setReg (kTrs (0x200 + 4 * i)) 2)
    else none
  | _, _ => none

/-- Firmware copies a flash-held folio from the booted slot to its load range (R467). -/
def State.copyFolio (s : State) (f : FolioRec) : State :=
  match f.flash with
  | some off =>
    let base := s.fld (kTrs 0) 0 2 * (s.boot.norSize / 2)
    (s.memAccess ⟨rqCore0, true, f.load, 0, s.norBytes (base + off) f.length, false⟩ none).1
  | none => s

/-- FOLIO_VERIFY (R467, R468): TRS_FOLIO_CMD.verify for the selected folio, or core 0's own path for a flash-held
one. -/
def execFolioVerify (rq : Requester) (core0 : Option Nat) (s : State) : Out :=
  attempt (if s.serving ∧ !s.updActive then
    match core0 with
    | none =>
      if !(regAllowed rq true (kTrs 0x104)) then some (s.refuseReg rq true (kTrs 0x104))
      else if s.bit (kTrs 0x104) 0 then none
      else (s.verifyStart (s.fld (kTrs 0x100) 0 5) false).map (fun s => s.setBit (kTrs 0x104) 0 true)
    | some i =>
      match s.boot.scroll.folios[i]? with
      | some f =>
        if rq = rqCore0 ∧ f.flash.isSome ∧ s.folioState i = 1 ∧ !(s.pageBusy f.load f.length) then (s.copyFolio f).verifyStart i true else none
      | none => none
    else none) s

/-- A pipeline of class PAIRED names the folio (R260). -/
def State.pairedFolio (s : State) (i : Nat) : Bool :=
  s.pipes.any (fun e => e.2.named && e.2.paired && e.2.bind.any (fun b => b.folio == i))

/-- Memory read by a list of units in turn; the first error ends it. -/
def State.readsBy (s : State) : List (Requester × List (Nat × Nat)) → State × Nat
  | [] => (s, 0)
  | x :: xs =>
    let r := s.memReads x.1 none x.2
    if r.2 = 0 then r.1.readsBy xs else r

/-- Memory that a verification reads on engine `e` up to the check at which it ends. DESIGN CHOICE (log entry 137): core 0
reads the header and the directory, CRC unit `e` the sections against their CRCs, core 0 the contents other than data and
engine `e` the bytes that the identity covers. -/
def Image.verifyReads (v : Image) (e stepping : Nat) : List (Requester × List (Nat × Nat)) :=
  (rqCore0, v.dirSpans) ::
  (if !v.dirFormat || !(v.dirRange stepping) then []
   else
    (⟨BitVec.ofNat 16 (0xC000 + e), true, false⟩, v.spansOf (fun _ => true)) ::
    (if !v.secCrcs then []
     else [(rqCore0, v.spansOf (fun x => !x.data)),
       (⟨BitVec.ofNat 16 (0xC004 + e), true, false⟩, [(v.base, ((v.find secSign).map (·.offset)).getD 0)])]))

/-- Acts 3 to 5 of R468: the status of a folio that engine `e` verifies. -/
def State.folioCheck (s : State) (i e : Nat) (f : FolioRec) : State × Nat :=
  let v : Image := ⟨s.mem.hbm, f.load⟩
  let r := s.readsBy (v.verifyReads e s.fuse.stepping)
  if r.2 ≠ 0 then r else (r.1, v.verify s.fuse.slots s.fuse.stepping (s.pairedFolio i) f.hash)

/-- FOLIO_VERIFY_DONE (R468, R470). -/
def execFolioVerifyDone (i : Nat) (s : State) : Out :=
  attempt (match s.boot.scroll.folios[i]? with
    | some f =>
      match f.engine with
      | some e =>
        if s.serving ∧ !s.pageBusy f.load f.length then
          let r := s.folioCheck i e f
          let s := r.1.setFolio i { f with engine := none }
          let s := if f.secure then s else s.setBit (kTrs 0x104) 0 false
          some (s.byCode (if r.2 = 0 then
              ((s.setReg (kTrs (0x200 + 4 * i)) 3).raise 0x0302 (mkParam [(0, i)])).tryService
            else (s.setReg (kTrs (0x200 + 4 * i)) (BitVec.ofNat 32 (4 + 256 * r.2))).raise 0x0303
              (mkParam [(0, i), (8, r.2)])))
        else none
      | none => none
    | none => none) s

/-! ## Binding (R234, Table 07-6) -/

/-- Windows that a pipeline's stages hold here: logical tile, first row, rows. -/
def State.windows (s : State) (p : Pipe) : List (Nat × Nat × Nat) :=
  p.sides.flatMap (fun sd => (upTo p.stages.length).filterMap (fun i =>
    match p.stage i with
    | some st =>
      if st.kind = .tile ∧ s.stageDev p i = s.boot.dev then (p.logical st sd).map (fun l => (l, st.inkRow, st.inkRows)) else none
    | none => none))

/-- Two windows on one logical tile share a row. -/
def windowsMeet (a b : Nat × Nat × Nat) : Bool := a.1 == b.1 && spansMeet a.2.1 a.2.2 b.2.1 b.2.2

/-- Bound pipelines other than `pipe`. -/
def State.others (s : State) (pipe : Nat) : List (Nat × Pipe) := s.pipes.filter (fun e => e.1 != pipe && e.2.bound)

/-- Stages against the tile, Stem and Spectral maps, the sources and the sinks. A device that only hosts TILE stages
of the pipeline binds no other unit (log entry 112). -/
def stagesBound (b : PipeBind) (hosted : Bool) (l : List Stage) : Bool :=
  l.all (fun st => match st.kind with
    | .tile => decide (st.unit < b.tiles.length)
    | _ => hosted) ||
  l.all (fun st => match st.kind with
    | .tile => decide (st.unit < b.tiles.length)
    | .stem => (b.stemMap[st.unit]?).any (fun c => decide (c < 8))
    | .spectral => (b.spcMap[st.unit]?).any (fun d => decide (d < 4))
    | .aster => true
    | .source => (b.sources[st.unit]?).any (fun x => x.kind != .none)
    | .sink => (b.sinks[st.unit]?).any (·.bound))

/-- SCRATCH buffers of a binding with their sizes: side bases. -/
def scratch (b : PipeBind) (bufs : List Buf) : List (Nat × Nat × Nat) :=
  (upTo bufs.length).filterMap (fun i => match bufs[i]?, b.bases[i]? with
    | some u, some x => if u.kind = 0 then some (x.1, x.2, u.size) else none
    | _, _ => none)

/-- Buffer bases of the SCRATCH buffers: 64-byte aligned, inside the HBM, and never shared by twin sides. -/
def basesOk (b : PipeBind) (paired : Bool) (bufs : List Buf) : Bool :=
  let l := scratch b bufs
  l.all (fun x => x.1 % 64 == 0 && inHbm x.1 x.2.2 && (!paired || (x.2.1 % 64 == 0 && inHbm x.2.1 x.2.2))) &&
  (!paired || b.twinDevK || l.all (fun x => l.all (fun y => !(spansMeet x.1 x.2.2 y.2.1 y.2.2))))

/-- The Pipeline and Record slot items of the Aster group (Table 10-1, R334). -/
def State.asterBound (s : State) (pipe : Nat) (l : List Stage) (edges : List Edge) : Bool :=
  let recs := s.boot.scroll.asters.filter (fun a => a.pipe == pipe)
  let ix := (upTo l.length).filter (fun i => (l[i]?).any (fun st => st.kind == .aster))
  match ix, recs with
  | [], [] => true
  | [i], [a] =>
    let out := edges.filter (fun e => e.producer == i && (l[e.consumer]?).any (fun st => st.kind == .sink))
    !out.isEmpty && out.all (fun e => decide (64 + 32 * a.size ≤ e.slotBytes))
  | _, _ => false

/-- The Aster reservation of a pipeline as bound: its window is long enough, powered, clear of stage windows, and
the same for every binding that reserves the tile. -/
def State.reservationOk (s : State) (pipe : Nat) (b : PipeBind) : Bool :=
  let w := Config.asterWindow pipe
  b.reserved.all (fun l =>
    decide (4096 ≤ w.2) && decide (w.1 + w.2 ≤ rowsTotal) &&
    (s.physOf l).any (fun t => (upTo 8).all (fun sl =>
      !(spansMeet w.1 w.2 (sl * 2048) 2048) || s.bit (kTil t 0x208) sl || (s.neededSlices t).testBit sl))) &&
  s.pipes.all (fun e => !e.2.bound ||
    ((s.windows e.2).all (fun x => !(b.reserved.contains x.1) || !(spansMeet w.1 w.2 x.2.1 x.2.2)) &&
     e.2.bind.all (fun o => (o.reserved.filter (fun l => b.reserved.contains l)).isEmpty || Config.asterWindow e.1 == w)))

/-- The stage windows of a new pipeline lie clear of the Aster windows of the pipelines that are bound (Table 07-6). -/
def State.clearOfReservations (s : State) (pipe : Nat) (p : Pipe) : Bool :=
  (s.others pipe).all (fun e => e.2.bind.all (fun o =>
    let w := Config.asterWindow e.1
    (s.windows p).all (fun x => !(o.reserved.contains x.1) || !(spansMeet w.1 w.2 x.2.1 x.2.2))))

/-- Every item that depends on the folio, for the pipeline `p` with its graph taken in; a pipeline with a stage on a
logical tile that has no physical tile does not bind (Table 17-3). -/
def State.bindOk (s : State) (pipe : Nat) (p : Pipe) (b : PipeBind) (nTiles : Nat) : Bool :=
  nTiles == b.tiles.length && p.bufs.length == b.nBuffers && stagesBound b (p.hosted s.boot.dev) p.stages && basesOk b p.paired p.bufs &&
  pairwiseNot windowsMeet (s.windows p) && (s.windows p).all (fun x => (s.physOf x.1).isSome) &&
  (s.others pipe).all (fun e => (s.windows e.2).all (fun x => !((s.windows p).any (windowsMeet x)))) &&
  (p.hosted s.boot.dev || s.asterBound pipe p.stages p.edges) && s.reservationOk pipe b && s.clearOfReservations pipe p

/-- The port to a twin device is ACTIVE with the twin as its peer (R442). -/
def State.twinReady (s : State) (p : Pipe) (b : PipeBind) : Bool :=
  !(p.paired && b.twinDevK) ||
  (s.portTo b.twinDev).any (fun q => s.lnkState q == lsActive && s.fld (kLnk q 0xC) 0 7 == b.twinDev && s.bit (kLnk q 0xC) 10)

/-- A refused pipeline: its binding is not made and its rings are free again; service may begin without it. -/
def State.refusePipe (s : State) (pipe : Nat) (p : Pipe) (b : PipeBind) : State :=
  (b.rings.foldl (fun (s : State) i => s.setIring i { s.iring i with target := none })
    (s.setPipe pipe { p with named := false })).tryService

/-- The books of a pipeline as bound: every credit at its producer (R242). -/
def State.openBooks (s : State) (pipe : Nat) (p : Pipe) : State :=
  p.sides.foldl (fun (s : State) sd => (upTo p.edges.length).foldl (fun (s : State) i =>
    match p.edge i with
    | some e => s.setBook (bookKey pipe sd i)
        ⟨List.replicate e.slots .held, List.replicate e.slots .empty, 0, 0, 0, 0, s.elapsed.toNat, none⟩
    | none => s) s) s

/-- Slices and nib memory of the tiles that a pipeline has stages on (R548, Table 07-3). -/
def State.openTiles (s : State) (pipe : Nat) : State :=
  (upTo 80).foldl (fun (s : State) t =>
    let hs := (s.hosts t).filter (fun h => h.1 == pipe)
    if hs.isEmpty then s
    else (s.setSlices t (s.fld (kTil t 0x208) 0 8 ||| s.neededSlices t)).loadHosts t hs) s

/-- An Aster group as bound: every entry FREE, in the table and in the shadow (R335). -/
def State.openGroup (s : State) (p : Pipe) (a : AsterRec) : State :=
  let s := a.entries.foldl (fun (s : State) i => s.trkWrite i 0) s
  let s := (s.memWrites (rqAster p.trackSide) none (cut512 a.shadow (List.replicate (64 * a.size) 0))).1
  s.setAstGroup a.group (AstGroup.idle 0)

/-- The binding is made (R234, R334). -/
def State.bindPipe (s : State) (pipe : Nat) (p : Pipe) (b : PipeBind) : State :=
  let s := ((s.setBit (kPipe pipe 0) 0 true).setBit (kPipe pipe 0) 1 p.paired).openBooks pipe p
  let s := s.openTiles pipe
  let s := (b.reserved.filterMap s.physOf).foldl (fun (s : State) t => s.setTile t { s.tile t with aster := true }) s
  let s := (s.boot.scroll.asters.filter (fun a => a.pipe == pipe)).foldl (fun (s : State) a => s.openGroup p a) s
  (b.rings.foldl (fun (s : State) i => s.irNext i) s).tryService

/-- What the binding reads of a folio: the header, the directory and every section but the data. -/
def Image.bindSpans (v : Image) : List (Nat × Nat) := v.dirSpans ++ v.spansOf (fun x => !x.data)

/-- A page that the binding reads or writes is being copied (R363). -/
def State.bindWaits (s : State) (pipe : Nat) (v : Image) : Bool :=
  v.bindSpans.any (fun x => s.pageBusy x.1 x.2) ||
    s.boot.scroll.asters.any (fun a => a.pipe == pipe && s.pageBusy a.shadow (64 * a.size))

/-- PIPELINE_BIND (R234, R442): once the folio is verified and a twin's port is ACTIVE, the binding is checked
against the folio as core 0 reads it, and made or refused. DESIGN CHOICE (log entry 137): a folio that cannot be read
leaves it for another time. -/
def execPipelineBind (pipe : Nat) (s : State) : Out :=
  attempt (let p := s.pipe pipe
    match p.bind with
    | some b =>
      if s.serving ∧ !s.updActive ∧ p.named ∧ !p.bound ∧ s.folioState b.folio = 3 ∧ s.twinReady p b then
        let v := s.folioOf p
        if s.bindWaits pipe v then none else
        let r := s.memReads rqCore0 none v.bindSpans
        let s := r.1
        some (if r.2 ≠ 0 then s else match v.parse with
          | some (g, l) =>
            let p1 := { p with bound := true, stages := l, edges := g.edges, bufs := g.bufs, layers := v.layers
                               splits := splitParts g l v.layers }
            let s1 := s.setPipe pipe p1
            if s1.bindOk pipe p1 b (v.num 18 1) then s1.bindPipe pipe p1 b else s.refusePipe pipe p b
          | none => s.refusePipe pipe p b)
      else none
    | none => none) s

end Sys2Proof.Machine
end

