-- ==== Sys2Proof/Machine/Scrub.lean ====
section
/-!
DEFINITION. What firmware does about the weight scrub (R503, R504, R519), and what it does once it serves again (R24,
R490).
-/
namespace Sys2Proof.Machine

/-! ## The weight scrub -/

/-- What firmware reads of a folio to find a block: the header, the directory and the CRCTAB section (log entry 137). -/
def State.crctabSpans (v : Image) : List (Nat × Nat) :=
  v.dirSpans ++ v.spansOf (fun x => x.type == secCrctab)

/-- A page that these reads touch is being copied (R363). -/
def State.crctabWaits (s : State) (folio : Nat) : Bool :=
  (s.boot.scroll.folios[folio]?).any (fun f => (State.crctabSpans ⟨s.mem.hbm, f.load⟩).any (fun x => s.pageBusy x.1 x.2))

/-- A block as an image's CRCTAB lists it. -/
def Image.scrubBlock (v : Image) (folio entry : Nat) : Option ScrubBlock :=
  match v.find secCrctab with
  | none => none
  | some x =>
    let o := x.offset + 16 * entry
    let b := v.num (o + 2) 4
    match v.secs[v.num o 2]? with
    | some d =>
      if 16 * entry < x.size then
        some ⟨folio, entry, v.num o 2, b, v.base + d.offset + b * 2 ^ 20, min (2 ^ 20) (d.size - b * 2 ^ 20), v.num (o + 8) 8⟩
      else none
    | none => none

/-- A block of a folio, its CRCTAB read as core 0. -/
def State.scrubBlock (s : State) (folio entry : Nat) : State × Option ScrubBlock :=
  match s.boot.scroll.folios[folio]? with
  | none => (s, none)
  | some f =>
    let v : Image := ⟨s.mem.hbm, f.load⟩
    let r := s.memReads rqCore0 none (State.crctabSpans v)
    (r.1, if r.2 = 0 then v.scrubBlock folio entry else none)

def scrubKey (folio entry : Nat) : Nat := folio * 65536 + entry

/-- A WEIGHT_LATENT fault (R504, R519): event 0x0402, class 0x09, and every pipeline that names the folio stops. -/
def State.weightLatent (s : State) (b : ScrubBlock) : State :=
  let s := s.raise 0x0402 (mkParam [(0, b.folio), (8, b.section_), (32, b.block)])
  let s := s.fault { mkFault 9 5 b.folio (BitVec.ofNat 64 (SMap.get zeroNat s.fw.scrubs (scrubKey b.folio b.entry))) with
    degraded := s.exhausts 9 b.folio }
  let s := s.exhaust 9 b.folio
  ((s.pipes.filter (fun e => e.2.bind.any (fun x => x.folio == b.folio))).map (·.1)).foldl
    (fun (s : State) p => s.stopPipe p) s

/-- Commands of a scrub: the unit's init and its scan with nocache and cmp_on_end, marked as the scrub's. -/
def scrubCmds (b : ScrubBlock) : List ChkCmd := [⟨.init, true⟩, ⟨.scan b.addr b.len true true true, true⟩]

/-- What firmware does when a scrub scan has ended (R504): it notes a clean block, reports a mismatch, and repeats
once a scan that met an uncorrectable line. The repeat is issued now where the unit is idle, else by a later
WEIGHT_SCRUB. -/
def State.scrubEnd (s : State) (u status : Nat) (ok : Bool) (b : ScrubBlock) : State :=
  let c := s.crc u
  if status = 1 ∧ !c.again then
    let s := s.setCrc u { c with again := true }
    if s.crcBusy u then s else s.crcQueue u rqCore0 (scrubCmds b)
  else
    let s := s.setCrc u { c with scrub := none, again := false }
    if status ≠ 0 then s
    else if ok then
      { s with fw := { s.fw with scrubs := SMap.set zeroNat s.fw.scrubs (scrubKey b.folio b.entry) s.timeNs.toNat } }
    else s.weightLatent b

/-- A scrub scan has ended: firmware takes its end at once, or once it serves again (R24, R522). -/
def State.scrubEnded (s : State) (u status : Nat) : State :=
  let ok := s.bit (kCrc u 0x2C) 4
  if s.fwServes then
    match (s.crc u).scrub with
    | some b => s.scrubEnd u status ok b
    | none => s
  else s.setCrc u { s.crc u with ended := some (status, ok) }

/-- Firmware takes the end of a scrub scan that it could not take before. -/
def State.scrubWake (s : State) (u : Nat) : State :=
  match (s.crc u).ended, (s.crc u).scrub with
  | some x, some b => (s.setCrc u { s.crc u with ended := none }).scrubEnd u x.1 x.2 b
  | _, _ => s

/-! ## Firmware serves again -/

/-- The sparing of a media unit that stopped while firmware did not serve. -/
def State.spareUnit (s : State) (u : UnitDue) : State :=
  match u with
  | .pipe p => s.sparePipe p
  | .dec c => s.spareDec c
  | .enc c => s.spareEnc c

/-- What fell due while firmware did not serve is done: rows first in their order, retirements, media units, then the ends
of scrub scans (R24). -/
def State.resumeFw (s : State) : State :=
  if s.fwServes then
    let due := s.fw.rowsDue
    let units := s.fw.unitsDue
    let s : State := { s with fw := { s.fw with rowsDue := [], unitsDue := [] } }
    let s := due.foldl (fun (s : State) r => s.spareNow r.tile r.row r.word r.epoch) s
    let s := (upTo 8).foldl (fun (s : State) c => s.settleRetire c) s
    let s := units.foldl (fun (s : State) u => s.spareUnit u) s
    (upTo 4).foldl (fun (s : State) u => s.scrubWake u) s
  else s

end Sys2Proof.Machine
end

