-- ==== Sys2Proof/Machine/Fw.lean ====
section
/-!
DEFINITION. The firmware complex (chapter 15): modes and roles, watchdogs and core restarts, the completion of a
mailbox command, live update, the event writer, and promotion.
-/
namespace Sys2Proof.Machine

/-! ## Modes and roles (R472 to R474) -/

def kWdt (n : Nat) : Nat := kQcx (0x40 + 4 * n)

/-- Firmware runs in role mode (R472). -/
def State.roleMode (s : State) : Bool :=
  !s.fw.begun || (!s.fw.moving.isEmpty && !s.updActive) ||
  (match s.fw.upd with | .running => true | .falling _ released => released | .none | .staged | .stopped => false)

/-- The core that a role passes to when core `n` does not hold it (R473): core 11, else its partner; 0xF none. -/
def State.taker (s : State) (n : Nat) : Nat :=
  if n = 11 then 0xF
  else if s.coreUp 11 then 11
  else
    let p := if n = 1 then 2 else if n = 2 then 1 else if 3 ≤ n then 3 + ((n - 3) ^^^ 1) else 0xF
    if p < 12 ∧ s.coreUp p then p else 0xF

/-- The core that holds a role in role mode. -/
def State.holder (s : State) (n : Nat) : Nat := if s.coreUp n then n else s.taker n

/-- The lowest core whose place core 11 holds: unavailable in role mode, failed or fused out in service mode. -/
def State.replaced (s : State) (gone : Nat → Bool) : Option Nat := (upTo 11).find? (fun n => gone (s.coreState n))

/-- QCX_CORE_STAT_n.role. -/
def State.coreRole (s : State) (n : Nat) : Nat :=
  if !s.coreUp n then 0xF
  else if s.fw.upd = .stopped then (if n = 0 then 0 else 0xF)
  else if s.roleMode then
    (if n = 11 then (s.replaced (fun c => c != 0)).getD 11 else n)
  else if n = 0 then 0
  else if n ≤ 10 then 0xE
  else match s.replaced (fun c => decide (2 ≤ c)) with
    | some 0 => 0
    | some _ => 0xE
    | none => 11

/-! ## The mailbox's answer (R482, Table 15-3) -/

/-- Byte field of the request. -/
def State.mbxReq (s : State) : List Byte := (upTo 16).flatMap (fun i => natToBytes (s.reg (kQcx (0x200 + 4 * i))).toNat 4)
def reqNum (r : List Byte) (off len : Nat) : Nat := bytesToNat ((r.drop off).take len)
def reqCmd (r : List Byte) : Nat := reqNum r 0 1
def reqDev (r : List Byte) : Nat := reqNum r 1 1 % 128
def reqRemote (r : List Byte) : Bool := bitOf (reqNum r 1 1) 7
def reqTag (r : List Byte) : Nat := reqNum r 4 4
def reqBuf (r : List Byte) : Nat := reqNum r 8 2
def reqOff (r : List Byte) : Nat := reqNum r 16 8
def reqLen (r : List Byte) : Nat := reqNum r 24 4
/-- Argument a0 to a3. -/
def reqArg (r : List Byte) (i : Nat) : Nat := reqNum r (32 + 8 * i) 8

/-- A response of 64 bytes: request, status, device, bytes written to the buffer, results from r0. -/
def mkResponse (req : List Byte) (status dev rlen : Nat) (results : List Nat) : List Byte :=
  natToBytes (reqCmd req) 1 ++ natToBytes status 1 ++ natToBytes dev 2 ++ natToBytes (reqTag req) 4 ++
  natToBytes rlen 4 ++ natToBytes 0 4 ++ (upTo 6).flatMap (fun i => natToBytes ((results[i]?).getD 0) 8)

/-- The own mailbox's command completes: response, go, then MSI-X vector 0 without moderation. -/
def State.mbxAnswer (s : State) (rsp : List Byte) : State :=
  let s := (upTo 16).foldl (fun (s : State) i => s.setReg (kQcx (0x240 + 4 * i)) (BitVec.ofNat 32 (reqNum rsp (4 * i) 4))) s
  ((s.setBit (kQcx 0x280) 0 false).sendMsix 0)

/-- The own mailbox holds a command that Table 15-4 does not list: it completes with FORMAT (R483). -/
def State.mbxReject (s : State) : State :=
  if s.bit (kQcx 0x280) 0 ∧ !s.updActive ∧ (reqCmd s.mbxReq = 0 ∨ 0xC < reqCmd s.mbxReq) then
    s.mbxAnswer (mkResponse s.mbxReq 0x12 s.boot.dev 0 [])
  else s

/-! ## Remote commands in CTRL messages (R484) -/

/-- Data that precedes a request or response, in parts of at most 512 bytes. The first bytes of a part give its
length. -/
def ctrlParts : Nat → List Byte → List (List Byte)
  | 0, _ => []
  | _, [] => []
  | n + 1, b :: bs => (b :: bs).take 504 :: ctrlParts n ((b :: bs).drop 504)

def State.sendData (s : State) (dst : Nat) (data : List Byte) : State :=
  (ctrlParts data.length data).foldl (fun (s : State) p => s.sendCtrl rqCore0.code.toNat dst ctrlData (natToBytes p.length 8 ++ p)) s

/-- A command of device `src` answered. -/
def State.guestAnswer (s : State) (src : Nat) (rsp data : List Byte) : State :=
  (s.sendData src data).sendCtrl rqCore0.code.toNat src ctrlResponse rsp

/-- The UPDATE under way completes: the own mailbox's, or that of the device that sent it. -/
def State.updateAnswer (s : State) (status : Nat) (results : List Nat) : State :=
  match s.fw.updGuest with
  | some (src, req) =>
    ({ s with fw := { s.fw with updGuest := none } }).guestAnswer src (mkResponse req status s.boot.dev 0 results) []
  | none => s.mbxAnswer (mkResponse s.mbxReq status s.boot.dev 0 results)

/-- seq and arv as INFO gives them in r0. -/
def seqArv (seq arv : Nat) : Nat := place seq 0 32 + place arv 32 16

/-! ## Core restarts (R476, R477) -/

/-- Spare swaps: the epochs resident on tiles of a cluster whose logical tile is being swapped out. -/
def State.swapActions (s : State) (c : Nat) : List B32 :=
  (upTo 10).flatMap (fun i =>
    let tl := s.tile (10 * c + i)
    if tl.swap then tl.residents.map (·.epoch) else [])

/-- Book restorations: the epochs not yet ended of the pipelines at an end whose imbalance the cluster has reported. -/
def State.bookActions (s : State) (c : Nat) : List B32 :=
  let ps := ((s.cluster c).failing.filter (·.raised.isSome)).flatMap (fun f => s.relPipes f.rel)
  (s.commit.epochs.filter (fun e => ps.contains e.2.pipe && !e.2.state.over)).map (·.1)

/-- A step of the pipeline uses ROW mode. -/
def Pipe.usesRow (p : Pipe) : Bool := p.stages.any (fun st => st.steps.any (fun x => x.bind.any bRow))

/-- ROW-mode cleanups (R189): the epochs that are ending, of a pipeline that uses ROW mode, which a tile of the cluster
still holds with the entries of its row-stat half. -/
def State.rowActions (s : State) (c : Nat) : List B32 :=
  (s.commit.epochs.filter (fun e => e.2.state == .ending && (s.pipe e.2.pipe).usesRow &&
    (upTo 10).any (fun i => (s.tile (10 * c + i)).holds e.1))).map (·.1)

/-- The epochs for which the control function of a cluster holds an action open (R477). -/
def State.openActions (s : State) (c : Nat) : List B32 :=
  (s.swapActions c ++ s.bookActions c ++ s.rowActions c).eraseDups

/-- The epochs whose open action core `n` holds: in role mode those of its clusters; in service mode those of every
cluster when `drawn` names the core of the complex. -/
def State.actionsOf (s : State) (n : Nat) (drawn : Bool) : List B32 :=
  ((upTo 8).flatMap (fun c =>
    if (if s.roleMode then s.holder (3 + c) == n else drawn && s.coreRole n == 0xE) then s.openActions c else [])).eraseDups

/-- A mailbox command that a core serves: one sent on, or one that waits for a frame. -/
def State.mbxServing (s : State) : Bool :=
  s.bit (kQcx 0x280) 0 && (s.fw.remoteAt.isSome || s.fw.destroying.any (fun d => d.1 == 128))

/-- The served command ends with DISCARDED_FAULT (R477). -/
def State.mbxAbandon (s : State) : State :=
  let s : State := { s with fw := { s.fw with remoteAt := none, destroying := s.fw.destroying.filter (fun d => d.1 != 128) } }
  s.mbxAnswer (mkResponse s.mbxReq 1 (if reqRemote s.mbxReq then reqDev s.mbxReq else s.boot.dev) 0 [])

/-- What a restart does to an update: before the stop UPDATE completes with DISCARDED_FAULT; before the report the
update falls back; a copy starts again. -/
def State.restartUpdate (s : State) : State :=
  match s.fw.upd with
  | .staged => ({ s with fw := { s.fw with upd := .none } }).updateAnswer 1 []
  | .running => { s with fw := { s.fw with upd := .falling 3 true } }
  | .none | .stopped | .falling _ _ => s

/-- A core restarts with cause 1 or 2; a second restart within 10 s of the elapsed count (R295) marks it failed for
good, which its one event and its one entry say (R476, classes 0x0A, 0x0B and 3; log entry 53). The draw settles in
service mode whether this core of the complex held the open actions and served the mailbox (log entry 48). Its tasks move
once firmware runs, after an update that is under way (R490). -/
def State.restartCore (s : State) (n cause : Nat) : State :=
  let role := s.roleMode
  let draw := Config.freeWord s.freeIx
  let es := s.actionsOf n (draw.getLsbD 0)
  let serves := s.mbxServing && draw.getLsbD 1
  let first := (es.head?).bind (fun e => (s.epochRec e).map (fun r => (e, r.pipe)))
  let again := SMap.get zeroNat s.fw.restartAt n
  let now := s.elapsed.toNat
  let failed := decide (again ≠ 0) && decide (now + 1 - again ≤ msTicks 10000)
  let s : State := { s with
    freeIx := s.freeIx + 1
    fw := { s.fw with clean := 0, restartAt := SMap.set zeroNat s.fw.restartAt n (now + 1)
                      moving := s.fw.moving.filter (· != n) ++ [n] } }
  let s := (s.setFld (kCore n) 4 2 (if failed then 2 else 1)).addFld (kCore n) 8 8 1
  let t := if role then s.taker n else 0xF
  let s := s.raise 0x0C01 (mkParam [(0, n), (8, if failed then 3 else cause), (16, t)])
  let s := s.fault (if failed then
      { mkFault 0xB 2 n 3 with epoch := first, spare := if n ≠ 11 ∧ s.coreUp 11 then 11 else 0xFFFF
                               degraded := s.exhausts 3 n }
    else { mkFault 0xA (b2n first.isSome) n (BitVec.ofNat 64 cause) with
      epoch := first, spare := if t = 0xF then 0xFFFF else t })
  let s := es.foldl (fun (s : State) e => (s.noteEpoch e).endCause e 1) s.stopAudits
  let s := if failed then s.exhaust 3 n else s
  let s := if serves then s.mbxAbandon else s
  s.restartUpdate

/-- A kick comes before the window of the last open_ms milliseconds, or not by the end of the period: the watchdog has
expired (R475). -/
def State.kickFails (s : State) (n : Nat) : Bool :=
  let t := s.elapsed.toNat - SMap.get zeroNat s.fw.kickAt n
  decide (t < msTicks (s.fld (kWdt n) 0 10 - s.fld (kWdt n) 10 10)) || decide (msTicks (s.fld (kWdt n) 0 10) ≤ t)

/-- WDT_KICK (R475). -/
def execWdtKick (rq : Requester) (n : Nat) (s : State) : Out :=
  attempt (if s.awake ∧ n < 12 then
    some (s.guardReg rq (kQcx (0x70 + 4 * n)) (fun s =>
      if s.bit (kWdt n) 20 && s.coreUp n then
        (if s.kickFails n then s.restartCore n 1
        else { s with fw := { s.fw with kickAt := SMap.set zeroNat s.fw.kickAt n s.elapsed.toNat } })
      else s))
    else none) s

/-- WDT_EXPIRE (R475, R476). -/
def execWdtExpire (n : Nat) (s : State) : Out :=
  attempt (if s.awake ∧ n < 12 ∧ s.bit (kWdt n) 20 ∧ s.coreUp n ∧
      SMap.get zeroNat s.fw.kickAt n + msTicks (s.fld (kWdt n) 0 10) ≤ s.elapsed.toNat then some (s.restartCore n 1)
    else none) s

/-- CORE_ERROR (R476). -/
def execCoreError (n : Nat) (s : State) : Out :=
  attempt (if s.serving ∧ n < 12 ∧ s.coreUp n then some (s.restartCore n 2) else none) s

/-- CORE_TASK_MOVE_DONE (R472, R476): no task move starts during an update (R490). -/
def execCoreTaskMoveDone (n : Nat) (s : State) : Out :=
  attempt (if s.awake ∧ !s.updActive ∧ s.fw.moving.contains n then
    some (s.byCode ({ s with fw := { s.fw with moving := s.fw.moving.filter (· != n) } }).resumeFw) else none) s

/-- CORE_REJOIN (R476): its watchdog period starts. -/
def execCoreRejoin (n : Nat) (s : State) : Out :=
  attempt (if s.awake ∧ n < 12 ∧ s.coreState n = 1 then
    some { s.setFld (kCore n) 4 2 0 with fw := { s.fw with kickAt := SMap.set zeroNat s.fw.kickAt n s.elapsed.toNat } }
    else none) s

/-! ## Live update (R485 to R490) -/

/-- Staging and retained areas of Table 15-5. -/
def stageArea : Nat := 0x2CFD000000
def keepSec : Nat := 0x2CFE800000
def keepNs : Nat := 0x2CFF000000

/-- A page of the firmware area is being copied: accesses to the area wait (R363). -/
def State.fwWaits (s : State) : Bool := s.pageBusy fwArea fwAreaLen

/-- A copy inside the firmware area or out of it, as core 0. -/
def State.fwWrite (s : State) (a : Nat) (bs : List Byte) : State := (s.memAccess ⟨rqCore0, true, a, 0, bs, false⟩ none).1
def State.fwRead (s : State) (a n : Nat) : State × List Byte :=
  let r := s.memAccess ⟨rqCore0, false, a, n, [], false⟩ none
  (r.1, r.2.2)

/-- The handover block (Table 15-6). -/
def State.handover (s : State) (ver : B64) (body : List Byte) : List Byte :=
  natToBytes 0x4F444E48 4 ++ natToBytes ver.toNat 4 ++ natToBytes (64 + body.length) 4 ++ natToBytes s.fw.runSeq.toNat 4 ++
  natToBytes s.fw.runArv 2 ++ natToBytes 0 2 ++ natToBytes s.fw.updates 4 ++ natToBytes s.timeNs.toNat 8 ++
  natToBytes (s.fw.clean * 32 / 5) 8 ++ natToBytes (crc64 body).toNat 8 ++ natToBytes 0 16 ++ body

/-- No epoch has an open action (R477): no spare swap, restoration or ROW-mode cleanup. -/
def State.noOpenAction (s : State) : Bool :=
  (upTo 8).all (fun c => (s.openActions c).isEmpty) && s.tiles.all (fun t => !t.2.swap) && s.clusters.all (fun c => c.2.move.isNone) && s.pipes.all (fun p => !p.2.held)

/-- Every watchdog parked: not armed. -/
def State.parkDogs (s : State) : State := (upTo 12).foldl (fun (s : State) n => s.setBit (kWdt n) 20 false) s

/-- UPDATE_STOP (R487): the body of the handover block is the firmware's own, and its version a free value. -/
def execUpdateStop (body : List Byte) (s : State) : Out :=
  attempt (if s.serving ∧ s.fw.upd = .staged ∧ s.noOpenAction ∧ 64 + body.length ≤ 1048576 ∧ !s.fwWaits then
    let ver := Config.freeWord s.freeIx
    let s : State := { s with freeIx := s.freeIx + 1 }
    let s := s.fwWrite keepSec (s.boot.sram.readBytes sramSec s.fw.parts.1)
    let s := s.fwWrite keepNs (s.boot.sram.readBytes sramNs s.fw.parts.2)
    let s := s.fwWrite fwArea (s.handover ver body)
    let s := (s.setBit 4 4 true).parkDogs.stopAudits
    some { s with fw := { s.fw with upd := .stopped, stopAt := s.elapsed.toNat } }
    else none) s

/-- Both parts of an image put into image SRAM. -/
def State.putParts (s : State) (sec ns : List Byte) : State := (s.putSram sramSec sec).putSram sramNs ns

/-- TRS_REL_ENTRY: the non-secure entry of the image that the cores are released to (R446, R487). -/
def State.setEntry (s : State) (off : Nat) : State := s.setReg64 (kTrs 0x18) (BitVec.ofNat 64 (sramNs + off))

/-- UPDATE_RELEASE (R487): the staged parts are in image SRAM and every core runs the new image. -/
def execUpdateRelease (s : State) : Out :=
  attempt (if s.serving ∧ s.fw.upd = .stopped ∧ !s.fwWaits then
    let a := s.fwRead (stageArea + 128) s.fw.newParts.1
    let b := a.1.fwRead (stageArea + 128 + s.fw.newParts.1) s.fw.newParts.2
    some { (b.1.putParts a.2 b.2).setEntry s.fw.newEntries.2 with fw := { b.1.fw with upd := .running } }
    else none) s

/-- 1.8 ms from the stop have passed. -/
def State.reportLate (s : State) : Bool := decide (s.fw.stopAt + usTicks 1800 ≤ s.elapsed.toNat)

/-- The new image is the running one (R488, R491). -/
def State.updateDone (s : State) : State :=
  let s := s.setBit 4 4 false
  let s := s.raise 0x0C02 (mkParam [(0, s.fw.newSeq.toNat), (32, s.fw.newArv)])
  let s := s.addFld (kQcx 0) 8 8 1
  let s : State := { s with fw := { s.fw with
    upd := .none, runSeq := s.fw.newSeq, runArv := s.fw.newArv, updates := s.fw.updates + 1, cleanStop := true
    parts := s.fw.newParts, entries := s.fw.newEntries } }
  (s.updateAnswer 0 [seqArv s.fw.runSeq.toNat s.fw.runArv]).mbxReject.resumeFw

/-- FW_REPORT_ACCEPT (R488). -/
def execFwReportAccept (rq : Requester) (s : State) : Out :=
  attempt (if s.awake then some (s.guardReg rq (kQcx 4) (fun s =>
    if s.fw.upd = .running ∧ !s.reportLate then s.byCode s.updateDone else s)) else none) s

/-- FW_REPORT_REJECT (R489). -/
def execFwReportReject (rq : Requester) (s : State) : Out :=
  attempt (if s.awake then some (s.guardReg rq (kQcx 4) (fun s =>
    if s.fw.upd = .running ∧ !s.reportLate then { s with fw := { s.fw with upd := .falling 1 true } } else s)) else none) s

/-- UPDATE_REPORT_TIMEOUT (R489). -/
def execUpdateReportTimeout (s : State) : Out :=
  attempt (if s.awake ∧ (s.fw.upd = .stopped ∨ s.fw.upd = .running) ∧ s.reportLate then
    some { s with fw := { s.fw with upd := .falling 2 (s.fw.upd == .running) } } else none) s

/-- UPDATE_FALLBACK (R489): the retained parts are back and the old image resumes. -/
def execUpdateFallback (s : State) : Out :=
  attempt (match s.fw.upd with
    | .falling r _ =>
      if s.awake ∧ !s.fwWaits then
        let a := s.fwRead keepSec s.fw.parts.1
        let b := a.1.fwRead keepNs s.fw.parts.2
        let t := s
        let s := ((b.1.putParts a.2 b.2).setEntry s.fw.entries.2).setBit 4 4 false
        let s : State := { s with fw := { s.fw with upd := .none, clean := 0 } }
        some (t.byCode ((s.raise 0x0C03 (mkParam [(0, r)])).updateAnswer (if r = 3 then 1 else 2) []).mbxReject.resumeFw)
      else none
    | .none | .staged | .stopped | .running => none) s

/-! ## Events (R478 to R481) -/

/-- The 32 bytes of an event entry (Table 15-2). -/
def Event.bytes (e : Event) (lost : Bool) (seq : B32) : List Byte :=
  natToBytes e.code.toNat 2 ++ natToBytes (e.dev % 128 + 128 * b2n lost) 1 ++ natToBytes 0 1 ++ natToBytes seq.toNat 4 ++
  natToBytes e.t.toNat 8 ++ natToBytes e.param.toNat 8 ++ natToBytes 0 8

/-- The event ring's address checks (R479). -/
def State.evtRange (s : State) : Bool :=
  decide ((s.reg64 (kQcx 0x300)).toNat % 64 ≠ 0) || decide (s.fld (kQcx 0x308) 1 5 < 4) || decide (16 < s.fld (kQcx 0x308) 1 5) ||
  decide ((s.reg64 (kQcx 0x310)).toNat % 4 ≠ 0) || decide ((s.reg64 (kQcx 0x318)).toNat % 4 ≠ 0)

/-- EVT_RING_ENABLE (R479): `v` is the word written to QCX_EVT_CFG and `cons` what the consumer word's read returns. A
word with enable 0 disables the ring. -/
def execEvtRingEnable (v : B32) (cons : Option B32) (s : State) : Out :=
  attempt (if !s.awake then none
    else if s.bit (kQcx 0x308) 0 then some (s.setFld (kQcx 0x308) 0 6 (bitsOf v.toNat 0 6))
    else if !v.getLsbD 0 ∨ s.host.evEnabling then none
    else
      let s := s.setFld (kQcx 0x308) 1 5 (bitsOf v.toNat 1 5)
      some (if s.evtRange then s.setFld (kQcx 0x308) 8 8 0x13
        else if s.isHome then s.evtLoad (if s.hostPath then cons else none)
        else { s with host := { s.host with evEnabling := true } })) s

/-- QCX_EVT_CFG by a register write: enable 1 starts the check, and what the read of the consumer word returns comes
with RR_CONSUMER_REREAD of ring 256; enable 0 disables the ring, and while that read is outstanding gives the enable
up (log entry 134). No rule freezes size_log2 of an enabled event ring. -/
def State.evtWrite (s : State) (v : B32) : State :=
  let size (s : State) : State := s.setFld (kQcx 0x308) 1 5 (bitsOf v.toNat 1 5)
  if s.host.evEnabling then { size s with host := { s.host with evEnabling := v.getLsbD 0 } }
  else if s.bit (kQcx 0x308) 0 then s.setFld (kQcx 0x308) 0 6 (bitsOf v.toNat 0 6)
  else if !v.getLsbD 0 then size s
  else if (size s).evtRange then (size s).setFld (kQcx 0x308) 8 8 0x13
  else if s.hostPath then { size s with host := { s.host with evEnabling := true } }
  else (size s).evtLoad none

/-- MSI-X vector 0 after an entry, moderated by QCX_EVT_MOD (R479, R412). -/
def State.evtModerate (s : State) : State :=
  let h := s.host
  let s : State := { s with host := { h with evSince := h.evSince + 1, evFirst := if h.evSince = 0 then s.elapsed.toNat else h.evFirst } }
  let cnt := s.fld (kQcx 0x320) 0 16
  if cnt ≠ 0 ∧ cnt ≤ h.evSince + 1 then ({ s with host := { s.host with evSince := 0 } }).sendMsix 0 else s

/-- An entry written, then the producer word. -/
def State.evtStore (s : State) (e : Event) : State :=
  let pos := s.host.evProd.toNat % 2 ^ s.fld (kQcx 0x308) 1 5
  let seq := s.host.evSeq + 1
  let s := s.postHost (s.reg64 (kQcx 0x300) + BitVec.ofNat 64 (32 * pos)) (e.bytes s.host.evLost seq)
  let s : State := { s with host := { s.host with evProd := s.host.evProd + 1, evSeq := seq, evLost := false } }
  (s.postWord (kQcx 0x310) s.host.evProd).evtModerate

/-- EVENT_WRITE (R478 to R481, R416): the oldest event goes to the ring once REATTACH entries are out, or from a
device that is not its own home to that home. -/
def execEventWrite (s : State) : Out :=
  attempt (if !s.awake then none
    else match s.host.evHeld with
      | [] => none
      | e :: es =>
        let s1 : State := { s with host := { s.host with evHeld := es } }
        if s.isHome then
          if s.bit (kQcx 0x308) 0 ∧ !s.hostAbsent ∧ 0 < s.evtFree ∧
              s.host.rrings.all (fun r => r.2.waiting.all (fun w => w.kind != 4)) then some (s1.evtStore e)
          else none
        else if s.hostPath then
          some ({ s1 with host := { s1.host with evLost := false } }.sendCtrl rqCore0.code.toNat s.home ctrlEvent (e.bytes s.host.evLost 0))
        else none) s

/-! ## Promotion (R463, R491) -/

/-- Flash bytes programmed: ones become zeros (log entry 9). -/
def State.norProgram (s : State) (f : Nat) (bs : List Byte) : State :=
  { s with boot := { s.boot with nor := (upTo bs.length).foldl (fun (m : Memory) i =>
      SMap.set Memory.erased m (f + i) (SMap.get Memory.erased m (f + i) &&& (bs[i]?.getD 0xFF))) s.boot.nor } }

/-- Flash bytes erased. -/
def State.norErase (s : State) (f n : Nat) : State :=
  { s with boot := { s.boot with nor := s.boot.nor.filter (fun c => decide (c.1 < f ∨ f + n ≤ c.1)) } }

/-- The booted slot and the flash offset of a slot. -/
def State.booted (s : State) : Nat := s.fld (kTrs 0) 0 2
def State.slotBase (s : State) (slot : Nat) : Nat := slot * (s.boot.norSize / 2)

/-- The booted slot promoted. -/
def State.promote (s : State) : State :=
  let b := s.booted
  let s := s.norProgram (s.slotBase b + 0x1000) (natToBytes 0x474F4C44 4)
  let s := s.norErase (s.slotBase (1 - b) + 0x1000) 0x1000
  let arv := s.bit (kQcx 0) 1
  let s := if arv then s.raiseArv s.boot.arv else s
  s.raise 0x0C04 (mkParam [(0, b), (8, b2n arv), (32, s.boot.seq.toNat)])

/-- CLEAN_SERVICE_EXPIRE (R491): 28,800 s on the clean-service clock. -/
def execCleanServiceExpire (s : State) : Out :=
  attempt (if s.serving ∧ s.inService ∧ !s.updActive ∧ !s.fw.cleanStop ∧ msTicks 28800000 ≤ s.fw.clean ∧
      bytesToNat (s.norBytes (s.slotBase s.booted + 0x1000) 4) ≠ 0x474F4C44 then some s.promote else none) s

end Sys2Proof.Machine
end

