-- ==== Sys2Proof/Machine/Power.lean ====
section
/-!
DEFINITION. Power, clocks and thermal control (chapter 18): PMBus samples and the power cap, droop, sensors and
their sites, throttling and the trip, and the loss of a PHY PLL.
-/
namespace Sys2Proof.Machine

def kRail (k off : Nat) : Nat := kPwr (0x100 + 0x10 * k + off)

/-! ## Skip counts (R539, R540, R546) -/

def State.skipP (s : State) : Nat := s.fld (kPwr 4) 6 6
def State.skipT (s : State) : Nat := s.fld (kPwr 4) 12 6

/-- s_p and s_t stored, with the applied count and capped. -/
def State.setSkips (s : State) (sp st : Nat) : State :=
  (((s.setFld (kPwr 4) 0 6 (max sp st)).setFld (kPwr 4) 6 6 sp).setFld (kPwr 4) 12 6 st).setBit (kPwr 4) 18 (decide (0 < sp))

/-! ## PMBus (R533 to R536) -/

/-- LINEAR11 Y × 2^N W, rounded by RNE to mW. -/
def linear11 (v : BitVec 16) : Int :=
  let y := sext (bitsOf v.toNat 0 11) 11 * 1000
  let n := sext (bitsOf v.toNat 11 5) 5
  if 0 ≤ n then y * 2 ^ n.toNat else rneDiv y (2 ^ (-n).toNat)

/-- The packet error check of the SMBus: CRC-8 over the bytes of a transfer. PRESUMED (log entry 149): its polynomial is
x^8 + x^2 + x + 1, from 0. -/
def pec (bs : List Byte) : Byte := BitVec.ofNat 8 (crcFold 8 0x07 false 0 bs)

/-- The address byte of a transfer. -/
def busAddr (a : Nat) (reads : Bool) : Byte := BitVec.ofNat 8 (2 * a + b2n reads)

/-- The answer to a READ_POUT at an address is acknowledged and passes its check, where rail k has one (R533, R535). -/
def State.pmbusGood (s : State) (k : Nat) (x : Option PmbusRead) : Option (BitVec 16) :=
  let a := s.fld (kRail k 0) 0 7
  x.bind (fun r =>
    let bytes := [busAddr a false, 0x96, busAddr a true] ++ natToBytes r.word.toNat 2
    if s.bit (kRail k 0) 16 ∧ r.pec ≠ pec bytes then none else some r.word)

/-- The transfers of one rail: PAGE, then READ_POUT, and READ_POUT once more where the first read failed (R534, R535). -/
def State.railXfers (s : State) (k : Nat) (x : Option PmbusRead × Option PmbusRead) : List PmbusXfer :=
  let a := s.fld (kRail k 0) 0 7
  let page := s.fld (kRail k 0) 8 8
  let chk := if s.bit (kRail k 0) 16 then some (pec [busAddr a false, 0x00, BitVec.ofNat 8 page]) else none
  [.page a page chk, .readPout a x.1] ++ (if (s.pmbusGood k x.1).isSome then [] else [.readPout a x.2])

/-- One rail read in a millisecond, with its retry: the value used, and RAIL_LOST or RAIL_RESTORED. -/
def State.pollRail (s : State) (k : Nat) (x : Option PmbusRead × Option PmbusRead) : State × Int :=
  let r := s.rail k
  let lost := s.bit (kPwr 4) (20 + k)
  match (s.pmbusGood k x.1).or (s.pmbusGood k x.2) with
  | some v =>
    let p := linear11 v
    let s := s.setRail k ⟨p, 0⟩
    let s := if lost then (s.setBit (kPwr 4) (20 + k) false).raise 0x0206 (mkParam [(0, k)]) else s
    (s, p)
  | none =>
    let n := r.fails + 1
    let s := s.setRail k { r with fails := n }
    if n < 10 then (s, r.good)
    else
      let s := if lost then s else (s.setBit (kPwr 4) (20 + k) true).raise 0x0205 (mkParam [(0, k)])
      (s, ((s.fld (kRail k 0) 20 10 * 1000 : Nat) : Int))

/-- Enabled rails in increasing k. -/
def State.rails (s : State) : List Nat := (upTo 8).filter (fun k => s.bit (kRail k 0) 7)

/-- What the regulator of rail k answers in a round. -/
def railAnswer (xs : List (Option PmbusRead × Option PmbusRead)) (k : Nat) : Option PmbusRead × Option PmbusRead :=
  (xs[k]?).getD (none, none)

/-- The transfers of a round of reads. -/
def State.pmbusRound (s : State) (xs : List (Option PmbusRead × Option PmbusRead)) : List PmbusXfer :=
  s.rails.flatMap (fun k => s.railXfers k (railAnswer xs k))

/-- The sample P: every enabled rail read in turn (R534, R536). -/
def State.pollRails (s : State) (xs : List (Option PmbusRead × Option PmbusRead)) : State × Int :=
  s.rails.foldl (fun (acc : State × Int) k =>
    let r := acc.1.pollRail k (railAnswer xs k)
    (r.1.setReg (kRail k 4) (BitVec.ofInt 32 r.2), acc.2 + r.2)) (s, 0)

/-- Sum and number of the samples in the window (R538). -/
def State.window (s : State) : Int × Nat :=
  let l := s.power.samples.take (s.fld (kPwr 0) 10 4 * 1000)
  (l.sum, l.length)

/-- A rounded to mW. -/
def State.avgMw (s : State) : Int := let w := s.window; if w.2 = 0 then 0 else rneDiv w.1 w.2

/-- 0x0201 and 0x0202 carry A and the cap (R540, R549). -/
def State.capEvent (s : State) (code : BitVec 16) : State :=
  s.raise code (mkParam [(0, toTwos s.avgMw 32), (32, s.fld (kPwr 0) 0 10)])

/-- s_p moves to a new value. -/
def State.moveSkipP (s : State) (new : Nat) : State :=
  let old := s.skipP
  let s := s.setSkips new s.skipT
  if old = 0 ∧ 0 < new then s.capEvent 0x0201 else if 0 < old ∧ new = 0 then s.capEvent 0x0202 else s

/-- The decision of R539 on the sample `p`. -/
def State.capDecide (s : State) (p : Int) : State :=
  let c : Int := ((s.fld (kPwr 0) 0 10 * 1000 : Nat) : Int)
  let w := s.window
  let n : Int := (w.2 : Int)
  if 64 * w.1 > 63 * c * n ∧ p > c then s.moveSkipP (min (s.skipP + 1) 56)
  else if w.1 < c * n ∧ 64 * p < 63 * c then s.moveSkipP (s.skipP - 1)
  else s

/-- PMBUS_POLL (R534 to R540, R543). Without a rail there is no sample and no cap. -/
def execPmbusPoll (xs : List (Option PmbusRead × Option PmbusRead)) (s : State) : Out :=
  attempt (if s.awake then
    some (if s.rails.isEmpty then s.moveSkipP 0
    else
      let r := s.pollRails xs
      let s : State := { r.1 with power := { r.1.power with samples := (r.2 :: r.1.power.samples).take 10000, bus := s.pmbusRound xs } }
      let s := (s.setReg (kPwr 8) (BitVec.ofInt 32 r.2)).setReg64 (kPwr 0x10) (s.reg64 (kPwr 0x10) + BitVec.ofInt 64 r.2)
      (s.setReg (kPwr 0xC) (BitVec.ofInt 32 s.avgMw)).capDecide r.2)
    else none) s

/-! ## The ARITH clock of a die (R540 to R542) -/

/-- The voltage below which a droop detector of a die fires. -/
def State.droopLevel (s : State) (d : Nat) : Nat := s.fld (kPwr (0x240 + 4 * d)) 0 10 - s.fld (kPwr (0x200 + 0x10 * d)) 0 7

/-- The detectors that fire (R541). -/
def State.droopFires (s : State) (x : DroopSample) : Nat :=
  ((x.mv.take 16).filter (fun v => decide (v < s.droopLevel x.die))).length

/-- DROOP_DETECT: each firing counts and the die's ARITH clock stretches. -/
def execDroopDetect (x : DroopSample) (s : State) : Out :=
  attempt (if s.awake ∧ x.die < 4 ∧ 0 < s.droopFires x then
    some ((s.addSat (kPwr (0x204 + 0x10 * x.die)) (s.droopFires x)).setDie x.die
      { s.die x.die with stretch := true, quiet := 0 })
    else none) s

/-- DROOP_STRETCH_END: no detector of the die has fired for 32 slots. -/
def execDroopStretchEnd (d : Nat) (s : State) : Out :=
  attempt (if s.awake ∧ d < 4 ∧ (s.die d).stretch ∧ 32 ≤ (s.die d).quiet then
    some (s.setDie d { s.die d with stretch := false }) else none) s

/-! ## Sensors (R544 to R547, R514) -/

/-- Sensor `i` is in use (PWR_TS_USE). -/
def State.sensorUsed (s : State) (i : Nat) : Bool := s.bit (kPwr (0x308 + 4 * (i / 32))) (i % 32)

/-- A conversion at or above 125 °C. -/
def tripDegrees : Int := 125000

/-- THERM_TRIP_n asserts and every clock stops (R547); FAULT_n asserts (R526). -/
def State.thermTrip (s : State) : State :=
  { s with pins := { s.pins with trip := true, fault := true }, boot := { s.boot with phase := .tripped } }

/-- SENSOR_CONVERT (R544, R547): the trip needs no firmware, so a halted device trips too. -/
def execSensorConvert (i : Nat) (mdegc : Int) (s : State) : Out :=
  attempt (if s.answers ∧ i < 64 then
    let hot := decide (tripDegrees ≤ mdegc)
    let old := s.sensor i
    let s1 := s.setSensor i { old with last := mdegc, hot := hot }
    some (if hot ∧ old.hot ∧ s.sensorUsed i then s1.thermTrip else s1)
    else none) s

/-- A sensor leaves use: its fault, class 0x14, and the pair's class 8 (R514, Table 17-3). -/
def State.dropSensor (s : State) (i : Nat) : State :=
  let partner := if i % 2 = 0 then i + 1 else i - 1
  let s := s.setBit (kPwr (0x308 + 4 * (i / 32))) (i % 32) false
  let rest := s.sensorUsed partner
  let s := s.fault { mkFault 0x14 (if rest then 2 else 4) i (BitVec.ofInt 64 (s.sensor i).last) with
    degraded := s.exhausts 8 (i / 2), spare := if rest then partner else 0xFFFF }
  s.exhaust 8 (i / 2)

/-- A reading outside -40 °C to 125 °C. -/
def outOfRange (t : Int) : Bool := decide (t < -40000) || decide (125000 < t)

/-- The difference of a pair at this millisecond, counted for both sensors while both are in use. -/
def State.pairCheck (s : State) (p : Nat) : State :=
  let a := s.sensor (2 * p)
  let b := s.sensor (2 * p + 1)
  let far := decide (8000 < (a.last - b.last).natAbs) && s.sensorUsed (2 * p) && s.sensorUsed (2 * p + 1)
  (s.setSensor (2 * p) { a with diff := if far then a.diff + 1 else 0 }).setSensor (2 * p + 1)
    { b with diff := if far then b.diff + 1 else 0 }

/-- Sensors in use that R514 takes out of use now. -/
def State.badSensors (s : State) : List Nat :=
  (upTo 64).filter (fun i => s.sensorUsed i && (outOfRange (s.sensor i).last || decide (10 ≤ (s.sensor i).diff)))

/-- The hotter of a site's sensors that are in use. -/
def State.siteOwn (s : State) (p : Nat) : Option Int :=
  let l := ([2 * p, 2 * p + 1].filter s.sensorUsed).map (fun i => (s.sensor i).last)
  l.head?.map (fun x => l.foldl max x)

/-- First site and number of sites of the die that holds a site. -/
def siteRange (p : Nat) : Nat × Nat := if p < 24 then (p / 6 * 6, 6) else if p < 28 then (p / 2 * 2, 2) else (28, 4)

/-- The temperature of a site (R544): its own, or the hotter of its neighbours on the die. -/
def State.siteTemp (s : State) (p : Nat) : Option Int :=
  match s.siteOwn p with
  | some t => some t
  | none =>
    let r := siteRange p
    let i := p - r.1
    match s.siteOwn (r.1 + (i + r.2 - 1) % r.2), s.siteOwn (r.1 + (i + 1) % r.2) with
    | some a, some b => some (max a b)
    | some a, none => some a
    | none, b => b

/-- The hottest site, lowest number first, and its temperature. -/
def State.hottest (s : State) : Option (Nat × Int) :=
  (upTo 32).foldl (fun (acc : Option (Nat × Int)) p =>
    match s.siteTemp p, acc with
    | some t, some x => if x.2 < t then some (p, t) else acc
    | some t, none => some (p, t)
    | none, _ => acc) none

/-- Warning and throttle of R545 and R546 on the hottest site. -/
def State.thermalDecide (s : State) (p : Nat) (t : Int) : State :=
  let param := mkParam [(0, p), (32, twos32 t)]
  let warn : Int := ((s.fld (kPwr 0x300) 0 8 * 1000 : Nat) : Int)
  let thr : Int := ((s.fld (kPwr 0x300) 8 8 * 1000 : Nat) : Int)
  let s := s.setReg (kPwr 0x304) (BitVec.ofNat 32 (toTwos t 21 + place p 27 5))
  let s :=
    if warn ≤ t ∧ !s.power.warned then ({ s with power := { s.power with warned := true } }).raise 0x0203 param
    else if t < warn - 5000 then { s with power := { s.power with warned := false } }
    else s
  let old := s.skipT
  if thr ≤ t then
    let s := s.setSkips s.skipP (min (old + 1) 56)
    if old = 0 then s.raise 0x0204 param else s
  else if t < thr - 2000 then s.setSkips s.skipP (old - 1)
  else s

/-- THERMAL_SAMPLE (R514, R544 to R546). -/
def execThermalSample (s : State) : Out :=
  attempt (if s.awake then
    let s := (upTo 64).foldl (fun (s : State) i => s.setReg (kPwr (0x400 + 4 * i)) (BitVec.ofInt 32 (s.sensor i).last)) s
    let s := (upTo 32).foldl (fun (s : State) p => s.pairCheck p) s
    let s := s.badSensors.foldl (fun (s : State) i => s.dropSensor i) s
    some (match s.hottest with
      | some (p, t) => s.thermalDecide p t
      | none => s)
    else none) s

/-! ## PHY PLLs (R532) -/

/-- PHY_PLL_LOSS: the lock bit clears and only that PHY's link goes down. -/
def execPhyPllLoss (phy : Phy) (s : State) : Out :=
  attempt (if s.awake then match phy with
    | .pcie =>
      let s := s.setBit (kClk 0) 1 false
      some (if s.host.link then s.linkDown else s)
    | .orrek p =>
      if p < 6 then
        let up := s.portOpen p || s.lnkState p == lsLaneCheck || s.lnkState p == lsAlign || s.lnkState p == lsParam
        let s := s.setBit (kClk 0) (2 + p) false
        some (if up then s.portDown p lsFailed 3 else s)
      else none
    | .csi p => if p < 8 then some (s.setBit (kClk 0) (8 + p) false) else none
    | .hbm k => if k < 8 then some (s.setBit (kClk 0) (16 + k) false) else none
    else none) s

end Sys2Proof.Machine
end

