-- ==== Sys2Proof/Machine/Regs.lean ====
section
/-!
DEFINITION. Reads and writes of registers (R7 to R11, R570, R571): what a read returns where a register reflects live
state, the LO/HI latches, the hiding of R499, the rule of every register whose write does more than its field types
say, and accesses to the register windows.
-/
namespace Sys2Proof.Machine

/-! ## Live registers (Reset column "-") -/

def b32 (n : Nat) : B32 := BitVec.ofNat 32 n

/-- Fields that no rule fixes at the moment of a read draw this value (log entry 49). -/
def State.drawn (s : State) (lo w : Nat) : Nat := bitsOf (Config.freeWord s.freeIx).toNat lo w

def State.liveGlb (s : State) (off : Nat) (v : B32) : B32 :=
  if off = 4 then
    setBits (setBits (setBits v 1 1 (b2n s.pins.degraded)) 2 1 (b2n s.pins.fault)) 3 1 (b2n s.hostAbsent)
  else v

def State.liveBlt (s : State) (off : Nat) (v : B32) : B32 :=
  if off = 0 then b32 (b2n s.pins.fault + place (b2n s.pins.degraded) 1 1 + place (b2n s.safety.spiSeen) 2 1 +
      place (b2n s.toggling) 3 1 + place s.safety.reports.length 8 8)
  else if off = 4 then s.safety.nextSeq
  else if off = 8 then b32 s.safety.bltHeld.length
  else if 0x40 ≤ off ∧ off < 0x60 then
    let c := (off - 0x40) / 4
    let victim := ((s.cluster c).test).elim 0x7F (·.1)
    let run := s.bit (kBlt 0x20) 0 && s.inService && decide (9 ≤ (s.working c).length)
    setBits v 0 12 (place victim 0 7 + place (s.working c).length 7 4 + place (b2n run) 11 1)
  else v

def State.liveLnk (s : State) (p off : Nat) (v : B32) : B32 :=
  if off = 0 then setBits v 0 3 p
  else if off = 0x100 ∨ off = 0x104 then s.reg (kLnk 0 off)
  else if 0x40 ≤ off ∧ off < 0xA0 ∧ off % 0x10 = 0 then
    let i := (off - 0x40) / 0x10
    setBits v 8 8 (SMap.get zeroNat (s.port p).rxFlits i - (s.reg (kLnk p (off + 0xC))).toNat)
  else v

/-- Bit i of CAM_GRP_STAT.present: the i-th member of the group. -/
def State.presentBits (s : State) (g : Nat) : Nat :=
  match s.alignRec g with
  | some a =>
    let l := a.streams
    (upTo l.length).foldl (fun (acc : Nat) i =>
      acc + place (b2n ((s.group g).present.any (fun m => l[i]? == some m.1))) i 1) 0
  | none => 0

def State.liveCam (s : State) (off : Nat) (v : B32) : B32 :=
  if off < 0x200 ∧ off % 0x40 = 0 then setBits v 3 1 (s.drawn 0 1)
  else if off = 0x2000 then s.timeNs.truncate 32
  else if off = 0x2004 then (s.timeNs >>> 32).truncate 32
  else if off = 0x2028 then s.elapsed.truncate 32
  else if off = 0x202C then (s.elapsed >>> 32).truncate 32
  else if 0x4000 ≤ off ∧ off % 0x20 = 0 then
    let g := (off - 0x4000) / 0x20
    let r := s.group g
    b32 (if r.open_ then s.presentBits g + place 1 16 1 + place (b2n r.holdEnd.isSome) 17 1
      else place (b2n r.holdEnd.isSome) 17 1)
  else v

def State.liveAst (s : State) (off : Nat) (v : B32) : B32 :=
  if 0x1000 ≤ off ∧ off < 0x1800 ∧ off % 0x20 = 0 then
    let g := (off - 0x1000) / 0x20
    match s.boot.scroll.asters.find? (fun a => a.group == g) with
    | some a =>
      let bound := (s.pipe a.pipe).bound
      let live := (a.entries.filter (fun i => (trkOf (s.trkImage i)).live)).length
      let j := (s.astGroup g).journal
      b32 (if bound then place live 0 13 + place 1 13 1 + place (b2n j.isSome) 14 1 + place (b2n (j.any (·.copying))) 15 1 else 0)
    | none => v
  else if 0x2040 ≤ off then (s.ast.latch >>> (8 * (off - 0x2040))).truncate 32
  else v

def State.liveQcx (s : State) (off : Nat) (v : B32) : B32 :=
  if off = 0 then setBits (setBits v 0 1 (b2n s.roleMode)) 16 16 (min 65535 (s.fw.clean / msTicks 3600000))
  else if 0x10 ≤ off ∧ off < 0x40 then setBits v 0 4 (s.coreRole ((off - 0x10) / 4))
  else if off = 0x328 then b32 s.host.evHeld.length
  else v

/-- The entry that TIL_INK_REMAP shows (Table 04-14). -/
def State.remapShown (s : State) (t : Nat) : B32 :=
  let bank := s.fld (kTil t 0x224) 0 4
  let entry := s.fld (kTil t 0x224) 4 4
  let l := (s.tile t).remap.filter (fun r => r.bank == bank)
  match l.find? (fun r => r.entry == entry) with
  | some r =>
    let later := (l.dropWhile (fun x => x.entry != entry)).drop 1
    b32 (place r.row 0 16 + place (b2n (later.any (fun x => x.row == r.row))) 30 1 + place 1 31 1)
  | none => 0

/-- TIL_ARR_STAT, of the step that holds the array; position within it is not part of the state, and the chunk is one of
its chunks (log entry 49). -/
def State.arrStat (s : State) (t : Nat) : B32 :=
  match (s.tile t).runs.find? (fun r => r.kind == .matrix) with
  | some r => b32 (1 + place (s.drawn 0 1) 1 1 + place (dsc r.desc 0 0 4) 2 4 + place (dsc r.desc 0 4 1) 6 1 +
      place (s.drawn 16 48 % (geoOf r.desc).kc % 65536) 16 16)
  | none => b32 (place (s.drawn 2 5) 2 5 + place (s.drawn 16 16) 16 16)

def sectionCode : SectionKind → Nat
  | .prologue => 0
  | .epilogue => 1
  | .settle => 2

/-- TIL_NIB_STAT. -/
def State.nibStat (s : State) (t : Nat) : B32 :=
  match (s.tile t).sect with
  | some x => b32 (1 + place (sectionCode x.kind) 1 2 + place x.pc 8 9)
  | none =>
    if (s.tile t).runs.any (fun r => r.kind == .vconv) then b32 (1 + place 3 1 2 + place (s.drawn 8 9) 8 9)
    else b32 (place (s.drawn 1 2) 1 2 + place (s.drawn 8 9) 8 9)

/-- TIL_EPO_RES and TIL_EPO_NUM_i. -/
def State.epoRes (s : State) (t : Nat) : B32 :=
  let tl := s.tile t
  let pos (r : Option Resident) (lo : Nat) : Nat := match r with
    | some x => place x.pipe 0 7 + 128
    | none => s.drawn lo 7
  b32 (pos tl.res0 0 + place (pos tl.res1 8) 8 8 + place (b2n tl.aster) 16 1 + place (b2n tl.swap) 17 1)
def State.epoNum (s : State) (r : Option Resident) : B32 := r.elim (b32 (s.drawn 16 32)) (·.epoch)

def State.liveTil (s : State) (t off : Nat) (v : B32) : B32 :=
  let tl := s.tile t
  if off = 0x110 then s.arrStat t
  else if off = 0x228 then s.remapShown t
  else if 0x320 ≤ off ∧ off < 0x340 then
    let q := (off - 0x320) / 4
    let es := ((tl.descs.filter (fun d => d.queue == q)).map (fun d => d.step.epoch)).eraseDups
    b32 (place (tl.outstanding q) 0 7 + place es.length 8 2)
  else if 0x470 ≤ off ∧ off < 0x488 then (if s.satDue t ((off - 0x470) / 4) then 0 else v)
  else if off = 0x500 then s.nibStat t
  else if off = 0x50C then b32 ((tl.rstats.filter (fun e => e.2.state != .idle)).length)
  else if off = 0x600 then s.epoRes t
  else if off = 0x604 then s.epoNum tl.res0
  else if off = 0x608 then s.epoNum tl.res1
  else v

/-- STM_STAT and SPC_STAT. How far a step has come is not part of the state: the current row is one of the step's output
rows and the current tile one of its tiles, by the tile's place on the grid (log entry 49). -/
def State.liveStm (s : State) (c off : Nat) (v : B32) : B32 :=
  if off = 4 then
    match (s.stem c).run with
    | some r => b32 (1 + place (dsc r.desc 0 0 1) 1 1 +
        place (dsc r.desc 12 0 16 + (Config.freeWord s.freeIx).toNat % dsc r.desc 14 0 16) 16 16)
    | none => b32 (place (s.drawn 1 1) 1 1 + place (s.drawn 16 16) 16 16)
  else v
def State.liveSpc (s : State) (d off : Nat) (v : B32) : B32 :=
  if off = 4 then
    match (s.spc d).run with
    | some r =>
      let vy := 64 * 2 ^ dsc r.desc 0 3 2 - dsc r.desc 14 0 7 + 1
      let vx := 64 * 2 ^ dsc r.desc 0 3 2 - dsc r.desc 15 0 7 + 1
      let nx := ceilDiv ((outSize (dsc r.desc 6 0 16) (dsc r.desc 18 0 7) (dsc r.desc 19 0 7) 1 (dsc r.desc 15 0 7) 1).getD 0) vx
      b32 (1 + place (dsc r.desc 8 0 16 / vy * nx +
        (Config.freeWord s.freeIx).toNat % (ceilDiv (dsc r.desc 10 0 16) vy * nx)) 16 16)
    | none => b32 (place (s.drawn 16 16) 16 16)
  else v

/-- Reads of CHK: RES, busy, queued (R494, R495, R502). -/
def State.liveChk (s : State) (key : Nat) (v : B32) : B32 :=
  match chkUnit key with
  | some (false, u, off) =>
    let c := s.crc u
    if off = 0x20 then b32 c.res
    else if off = 0x24 then b32 (c.res / 2 ^ 32)
    else if off = 0x2C then setBits v 0 4 (b2n (s.crcBusy u) + place c.queue.length 1 3)
    else v
  | some (true, e, off) => if off = 4 then setBits v 0 1 (b2n (s.shaBusy e)) else v
  | none => v

def State.liveRing (s : State) (off : Nat) (v : B32) : B32 :=
  if off < 0x4000 ∧ off % 0x40 = 0xC then
    match (s.iring (off / 0x40)).target with
    | some (.au _) => setBits v 16 2 3
    | some (.tensor _ _) => setBits v 16 2 2
    | none => setBits v 16 2 0
  else v

/-- The value a register shows at this moment, before any hiding. -/
def State.live (s : State) (key : Nat) : B32 :=
  let v := s.reg key
  match decodeKey key with
  | some (.glb, _, off) => s.liveGlb off v
  | some (.hst, _, off) => if off = 8 then setBits v 3 1 (b2n s.hostUp) else v
  | some (.pwr, _, off) => if off = 4 then setBits v 19 1 (b2n (!s.rails.isEmpty)) else v
  | some (.clk, _, _) => v
  | some (.trs, _, _) => v
  | some (.chk, _, _) => s.liveChk key v
  | some (.blt, _, off) => s.liveBlt off v
  | some (.lnk, p, off) => s.liveLnk p off v
  | some (.mem, _, _) => v
  | some (.cam, _, off) => s.liveCam off v
  | some (.irs, _, _) => v
  | some (.vid, _, _) => v
  | some (.ast, _, off) => s.liveAst off v
  | some (.qcx, _, off) => s.liveQcx off v
  | some (.til, t, off) => s.liveTil t off v
  | some (.stm, c, off) => s.liveStm c off v
  | some (.spc, d, off) => s.liveSpc d off v
  | some (.ring, _, off) => s.liveRing off v
  | none => 0

/-- R499: what a non-secure reader sees of a unit that hides its results. -/
def State.hide (s : State) (rq : Requester) (key : Nat) (v : B32) : B32 :=
  match chkUnit key with
  | some (false, u, off) =>
    if rq.secure || !(s.crc u).hidden then v
    else if off = 0x20 ∨ off = 0x24 ∨ off = 0x50 ∨ off = 0x54 then 0
    else if off = 0x2C then setBits v 4 1 0 else v
  | some (true, e, off) =>
    if rq.secure || !(s.sha e).hidden then v
    else if off = 0x18 ∨ off = 0x1C ∨ (0x40 ≤ off ∧ off < 0x80) then 0 else v
  | none => v

/-! ## LO and HI (R571) -/

/-- The LO registers of pairs whose table says that a read of LO latches HI. -/
def latchLo (b : Blk) (off : Nat) : Bool :=
  match b with
  | .hst => off == 0x10
  | .pwr => off == 0x10
  | .lnk => off == 0x30 || off == 0x38
  | .mem => off == 0x1000
  | .cam => off == 0x2000 || off == 0x2018 || off == 0x2028
  | .irs => decide (off < 0x60) && off % 0x20 == 8
  | .vid => (decide (0x8000 ≤ off) && decide (off < 0x8090) || decide (0x9000 ≤ off) && decide (off < 0x9050)) && off % 0x10 == 8
  | .chk => (decide (off < 0x400) && (off % 0x100 == 0x20 || off % 0x100 == 0x50)) ||
      (decide (0x1000 ≤ off) && decide (off < 0x1400) && off % 0x100 == 0x18)
  | .til => off == 0x120 || off == 0x128 || off == 0x130 || off == 0x700
  | .stm => off == 0x20 || off == 0x28
  | .spc => off == 0x20 || off == 0x28
  | .glb | .clk | .trs | .blt | .ast | .qcx | .ring => false

def isLo (key : Nat) : Bool := match decodeKey key with | some (b, _, off) => latchLo b off | none => false
def isHi (key : Nat) : Bool := decide (4 ≤ key) && isLo (key - 4)

def State.setLatch (s : State) (k : Nat) (v : Option B32) : State := { s with latch := SMap.set latchEmpty s.latch k v }

/-- Offsets that a halted device serves: TRS 0x0000 to 0x000C (R449). -/
def haltedReads (key : Nat) : Bool := decide (kTrs 0 ≤ key) && decide (key ≤ kTrs 0xC)

/-- A register read by a requester that may make it: the state after it, and the value. -/
def State.readReg (s : State) (rq : Requester) (key : Nat) : State × B32 :=
  if isLo key then (s.setLatch (key + 4) (some (s.live (key + 4))), s.hide rq key (s.live key))
  else if isHi key then
    match SMap.get latchEmpty s.latch key with
    | some v => (s.setLatch key none, s.hide rq key v)
    | none => (s, s.hide rq key (s.live key))
  else if key = kAst 0x2040 then
    let x := s.trkRead (s.fld (kAst 0x2000) 0 16)
    ({ x.1 with ast := { x.1.ast with latch := x.2 } }, x.2.truncate 32)
  else ({ s with freeIx := s.freeIx + 1 }, s.hide rq key (s.live key))

/-- A register read: refused and logged with data 0 where the requester may not make it (R393, R381); a halted device
serves four words of TRS. -/
def State.regRead (s : State) (rq : Requester) (key : Nat) : State × B32 :=
  if !s.awake then (s, if s.boot.phase = .halted ∧ haltedReads key then s.reg key else 0)
  else if !(regAllowed rq false key) then (s.refuseReg rq false key, 0)
  else s.readReg rq key

/-- LO_READ_LATCH (R571). -/
def execLoReadLatch (rq : Requester) (key : Nat) (s : State) : Out :=
  attempt (if s.answers ∧ isLo key then
    let r := s.regRead rq key
    some { r.1 with readback := r.2 }
    else none) s

/-- HI_READ (R571). -/
def execHiRead (rq : Requester) (key : Nat) (s : State) : Out :=
  attempt (if s.answers ∧ isHi key then
    let r := s.regRead rq key
    some { r.1 with readback := r.2 }
    else none) s

/-! ## Writes with a rule of their own -/

/-- The state after a command, which is the state before it when the command is turned away. -/
def ran (o : Out) (s : State) : State :=
  match o with
  | .next t => t
  | .fault _ => s
  | .refused _ => s

/-- A write applied by field type (R7). -/
def State.plainWrite (s : State) (key : Nat) (v : B32) : State :=
  match regAt key with
  | some d => s.setReg key (d.applyWrite (s.reg key) v)
  | none => s

/-- A field stored when its value lies in a range, and left unchanged otherwise. -/
def State.rangeFld (s : State) (key lo w minV maxV v : Nat) : State :=
  let x := bitsOf v lo w
  if minV ≤ x ∧ x ≤ maxV then s.setFld key lo w x else s

/-- HST (Table 12-7): detach, attach, heartbeat and BAR2 rules. -/
def State.writeHst (s : State) (off : Nat) (v : B32) : State :=
  if off = 4 then
    let s := if v.getLsbD 0 ∧ !s.hostAbsent then s.enterAbsent 2 else s
    if v.getLsbD 1 ∧ s.hostAbsent ∧ s.hostPath then s.attach else s
  else if off = 0x20 then (if v.toNat % 4 = 0 then s.plainWrite (kHst off) v else s)
  else if off = 0x28 then
    let on := v.getLsbD 0 && !s.bit (kHst 0x28) 0
    let s := (s.setBit (kHst 0x28) 0 (v.getLsbD 0)).rangeFld (kHst 0x28) 16 14 10 10000 v.toNat
    if on then { s with host := { s.host with hbAt := s.elapsed } } else s
  else if off = 0x30 then (if v.toNat % 2 ^ 30 = 0 then s.plainWrite (kHst off) v else s)
  else s.plainWrite (kHst off) v

/-- R534: more rails than a bus speed allows. -/
def railsOver (n : Nat) (fast : Bool) : Bool := decide ((if fast then 8 else 3) < n)

/-- PWR (Table 18-4, R534, R537). -/
def State.writePwr (s : State) (off : Nat) (v : B32) : State :=
  if off = 0 then (s.rangeFld (kPwr 0) 0 10 150 600 v.toNat).rangeFld (kPwr 0) 10 4 1 10 v.toNat
  else if off = 0x18 then (if railsOver s.rails.length (v.getLsbD 0) then s else s.plainWrite (kPwr off) v)
  else if 0x100 ≤ off ∧ off < 0x180 ∧ off % 0x10 = 0 then
    let n := (s.rails.filter (fun k => k != (off - 0x100) / 0x10)).length + b2n (v.getLsbD 7)
    if v.getLsbD 7 && railsOver n (s.bit (kPwr 0x18) 0) then s else s.plainWrite (kPwr off) v
  else if 0x200 ≤ off ∧ off < 0x240 ∧ off % 0x10 = 0 then s.rangeFld (kPwr off) 0 7 20 100 v.toNat
  else if off = 0x300 then (s.rangeFld (kPwr off) 0 8 60 120 v.toNat).rangeFld (kPwr off) 8 8 60 120 v.toNat
  else s.plainWrite (kPwr off) v

/-- TRS (Tables 14-15 and 14-16). -/
def State.writeTrs (s : State) (rq : Requester) (off : Nat) (v : B32) : State :=
  if off = 0xC then ran (execArvRaise rq (bitsOf v.toNat 8 7) s) s
  else if off = 0x10 then (if v.getLsbD 0 then ran (execKeyLockSet rq s) s else s)
  else if off = 0x14 then (if v.getLsbD 0 then ran (execReleaseGo rq s) s else s)
  else if off = 0x20 then (if v.getLsbD 0 then ran (execScrLockSet rq s) s else s)
  else if off = 0x104 then (if v.getLsbD 0 then ran (execFolioVerify rq none s) s else s)
  else s.plainWrite (kTrs off) v

/-- CHK (R495): commands queue; a busy unit ignores every other write but a clear of mismatch, which waits behind a
held write of the same requester. -/
def State.writeChk (s : State) (rq : Requester) (key : Nat) (v : B32) : State :=
  match s.chkCommand rq key v with
  | some t => t
  | none =>
    match chkUnit key with
    | some (false, u, off) =>
      let c := s.crc u
      if off = 0x2C then
        (if !v.getLsbD 5 then s
        else if c.held.any (fun h => h.rq == rq.code) then s.setCrc u { c with held := c.held ++ [(⟨rq.code, []⟩ : ChkHeld)] }
        else s.setBit (kCrc u 0x2C) 5 false)
      else if s.crcBusy u then s else s.plainWrite key v
    | some (true, e, _) => if s.shaBusy e then s else s.plainWrite key v
    | none => s

def State.writeBlt (s : State) (rq : Requester) (off : Nat) (v : B32) : State :=
  if off = 0x10 then ran (execFaultAckWrite rq v s) s
  else if off = 0x14 then ran (execAliveWrite rq s) s
  else s.plainWrite (kBlt off) v

/-- LNK_CTL (R424, R425). -/
def State.writeLnk (s : State) (rq : Requester) (p off : Nat) (v : B32) : State :=
  if off = 4 then
    let s := s.setFld (kLnk p 4) 16 16 (bitsOf v.toNat 16 16)
    let s := if v.getLsbD 0 != s.bit (kLnk p 4) 0 then ran (execLnkEnable rq p (v.getLsbD 0) s) s else s
    if v.getLsbD 1 then ran (execLnkRetrain rq p s) s else s
  else s.plainWrite (kLnk p off) v

def State.writeMem (s : State) (rq : Requester) (off : Nat) (v : B32) : State :=
  if off < 0x400 then
    match off % 0x10 with
    | 0 => ran (execRgnWrite rq (off / 0x10) .base v s) s
    | 4 => ran (execRgnWrite rq (off / 0x10) .last v s) s
    | 8 => ran (execRgnWrite rq (off / 0x10) .attr v s) s
    | _ => s
  else if off = 0x2104 then
    (if v.getLsbD 31 then ran (execRetAddGo rq v s) s else s.setFld (kMem 0x2104) 0 26 (v.toNat % 2 ^ 26))
  else if 0x3000 ≤ off ∧ off < 0x3020 then ran (execRsvPinWrite rq ((off - 0x3000) / 4) v s) s
  else s.plainWrite (kMem off) v

/-- CAM_TIME_CTL (Table 08-14): the 1.5 s start afresh when pps_en rises, and only an accepted edge arms PPS_LOST again
(R293). -/
def State.writeCam (s : State) (rq : Requester) (off : Nat) (v : B32) : State :=
  if off = 0x200C then
    let on := v.getLsbD 0 && !s.bit (kCam 0x200C) 0
    let s := s.setFld (kCam 0x200C) 0 2 (bitsOf v.toNat 0 2)
    let s := if on then { s with cam := { s.cam with ppsAt := s.elapsed.toNat } } else s
    if v.getLsbD 2 then ran (execOffsetGo rq s) s else s
  else s.plainWrite (kCam off) v

def State.writeIrs (s : State) (rq : Requester) (off : Nat) (v : B32) : State :=
  if 0x1000 ≤ off ∧ off < 0x1180 ∧ off % 0x10 = 0 then ran (execIrsBankWrite rq ((off - 0x1000) / 0x10) v s) s
  else s.plainWrite (kIrs off) v

def State.writeVid (s : State) (rq : Requester) (off : Nat) (v : B32) : State :=
  if 0xA000 ≤ off ∧ off < 0xA200 ∧ off % 0x10 = 4 then ran (execEncRdWrite rq ((off - 0xA000) / 0x10) v s) s
  else s.plainWrite (kVid off) v

def State.writeAst (s : State) (rq : Requester) (off : Nat) (v : B32) : State :=
  if off = 4 then (if v.getLsbD 0 then ran (execAstCntClear rq s) s else s) else s.plainWrite (kAst off) v

/-- QCX_WDT_CFG_n (Table 15-8): a period of time starts when the watchdog is armed. -/
def State.writeWdt (s : State) (n : Nat) (v : B32) : State :=
  let on := v.getLsbD 20 && !s.bit (kWdt n) 20
  let s := s.rangeFld (kWdt n) 0 10 1 1000 v.toNat
  let s := s.rangeFld (kWdt n) 10 10 1 (s.fld (kWdt n) 0 10) v.toNat
  let s := s.setBit (kWdt n) 20 (v.getLsbD 20)
  if on then { s with fw := { s.fw with kickAt := SMap.set zeroNat s.fw.kickAt n s.elapsed.toNat } } else s

/-- QCX (Table 15-8). -/
def State.writeQcx (s : State) (rq : Requester) (off : Nat) (v : B32) : State :=
  if off = 4 then
    match bitsOf v.toNat 0 2 with
    | 1 => ran (execFwReportAccept rq s) s
    | 2 => ran (execFwReportReject rq s) s
    | _ => s
  else if 0x40 ≤ off ∧ off < 0x70 then s.writeWdt ((off - 0x40) / 4) v
  else if 0x70 ≤ off ∧ off < 0xA0 then ran (execWdtKick rq ((off - 0x70) / 4) s) s
  else if 0x200 ≤ off ∧ off < 0x240 then (if s.bit (kQcx 0x280) 0 then s else s.plainWrite (kQcx off) v)
  else if off = 0x280 then (if v.getLsbD 0 ∧ !s.bit (kQcx 0x280) 0 then (s.setBit (kQcx 0x280) 0 true).mbxReject else s)
  else if off = 0x308 then s.evtWrite v
  else s.plainWrite (kQcx off) v

/-- TIL_INK_PWR: each bit of `on` that changes (R140, R141). -/
def State.writePwrOn (s : State) (rq : Requester) (t : Nat) (v : B32) : State :=
  (upTo 8).foldl (fun (s : State) sl =>
    if v.getLsbD sl then ran (execInkSlicePowerUp rq t sl s) s else ran (execInkSlicePowerOff rq t sl s) s) s

/-- TIL_SAT_CTL (Table 02-7). -/
def State.writeSat (s : State) (rq : Requester) (t : Nat) (v : B32) : State :=
  let s := (upTo 6).foldl (fun (s : State) n =>
    if v.getLsbD n then ran (execSatEnable rq t n s) s else (s.satRoll t n).setBit (kTil t 0x400) n false) s
  if v.getLsbD 8 then ran (execSatClear rq t s) s else s

def State.writeTil (s : State) (rq : Requester) (t off : Nat) (v : B32) : State :=
  if off = 0x104 then (if v.getLsbD 0 then ran (execArrCntClear rq t s) s else s)
  else if off = 0x108 then ran (execArrSkipWrite rq t false v s) s
  else if off = 0x10C then ran (execArrSkipWrite rq t true v s) s
  else if off = 0x208 then s.writePwrOn rq t v
  else if off = 0x218 then (if v.getLsbD 0 then ran (execInkCntClear rq t s) s else s)
  else if off = 0x228 then ran (execInkRemapWrite rq t v s) s
  else if off = 0x400 then s.writeSat rq t v
  else if 0x410 ≤ off ∧ off < 0x428 then (s.satRolls t).plainWrite (kTil t off) v
  else if off = 0x510 then (if v.getLsbD 0 then ran (execNibCntClear rq t s) s else s)
  else if off = 0x614 then (if v.getLsbD 0 then ran (execBookSnap rq t s) s else s)
  else if 0x1000 ≤ off ∧ off < 0x2000 then s.nibMemWrite t (kTil t off) v
  else s.plainWrite (kTil t off) v

/-- The registers of a result ring that R419 freezes while it is enabled: BASE, CFG and the word addresses. -/
def rrFrozen (off : Nat) : Bool := decide (off % 0x40 < 0xC) || (decide (0x10 ≤ off % 0x40) && decide (off % 0x40 < 0x20))

/-- IR_CFG (R398, R399): the fields of a disabled ring are stored and enable 1 starts its check; enable 0 of an enabled
ring drains it. While the read of an enable is outstanding the ring is still disabled: its fields are stored and enable 0
gives the enable up (log entry 134). -/
def State.writeIrCfg (s : State) (i : Nat) (v : B32) : State :=
  if (s.iring i).enabling then
    (s.setReg (kIr i 8) (v &&& 0x03FFFF3E)).setIring i { s.iring i with enabling := v.getLsbD 0 }
  else if s.bit (kIr i 8) 0 then (if v.getLsbD 0 then s else ran (execIrDisable i v s) s)
  else if s.irState i ≠ 0 then s
  else if v.getLsbD 0 then s.irStart i v
  else s.setReg (kIr i 8) (v &&& 0x03FFFF3E)

/-- RR_CFG (R411, R419), as IR_CFG while the read of an enable is outstanding (log entry 134). -/
def State.writeRrCfg (s : State) (j : Nat) (v : B32) : State :=
  if (s.rring j).enabling then
    (s.setReg (kRr j 8) (v &&& 0x3F3E)).setRring j { s.rring j with enabling := v.getLsbD 0 }
  else if s.bit (kRr j 8) 0 then (if v.getLsbD 0 then s else ran (execRrDisable j v s) s)
  else if v.getLsbD 0 then s.rrStart j v
  else s.setReg (kRr j 8) (v &&& 0x3F3E)

/-- Intake and result rings (R399, R419): beside their enable, their writable fields change only while the ring is
disabled; BUF_CTL (R395); a vector unmasked (R412). -/
def State.writeRing (s : State) (off : Nat) (v : B32) : State :=
  let key := barRing + off
  let ix := off % 0x4000 / 0x40
  if off < 0x4000 then
    (if off % 0x40 = 8 then s.writeIrCfg ix v
    else if s.irState ix ≠ 0 then s else s.plainWrite key v)
  else if off < 0x8000 ∧ off % 0x40 = 8 then s.writeRrCfg ix v
  else if off < 0x8000 ∧ rrFrozen off ∧ s.bit (kRr ix 8) 0 then s
  else if 0x10000 ≤ off ∧ off < 0x20000 ∧ off % 0x10 = 0xC then ran (execBufEntryWrite ((off - 0x10000) / 0x10) v s) s
  else if 0xF00000 ≤ off ∧ off < 0xF00400 ∧ off % 0x10 = 0xC ∧ !v.getLsbD 0 then ran (execMsixUnmask ((off - 0xF00000) / 0x10) s) s
  else s.plainWrite key v

/-- A write by a requester that may make it. -/
def State.writeReg (s : State) (rq : Requester) (key : Nat) (v : B32) : State :=
  match decodeKey key with
  | some (.glb, _, _) => s
  | some (.hst, _, off) => s.writeHst off v
  | some (.pwr, _, off) => s.writePwr off v
  | some (.clk, _, _) => s
  | some (.trs, _, off) => s.writeTrs rq off v
  | some (.chk, _, _) => s.writeChk rq key v
  | some (.blt, _, off) => s.writeBlt rq off v
  | some (.lnk, p, off) => s.writeLnk rq p off v
  | some (.mem, _, off) => s.writeMem rq off v
  | some (.cam, _, off) => s.writeCam rq off v
  | some (.irs, _, off) => s.writeIrs rq off v
  | some (.vid, _, off) => s.writeVid rq off v
  | some (.ast, _, off) => s.writeAst rq off v
  | some (.qcx, _, off) => s.writeQcx rq off v
  | some (.til, t, off) => s.writeTil rq t off v
  | some (.stm, c, off) =>
    if off = 0xC then (if v.getLsbD 0 then ran (execStmCntClear rq c s) s else s) else s.plainWrite (kStm c off) v
  | some (.spc, d, off) =>
    if off = 0xC then (if v.getLsbD 0 then ran (execSpcCntClear rq d s) s else s) else s.plainWrite (kSpc d off) v
  | some (.ring, _, off) => s.writeRing off v
  | none => s

/-- A register write: refused and logged where the requester may not make it; a halted device drops it (R449). -/
def State.regWrite (s : State) (rq : Requester) (key : Nat) (v : B32) : State :=
  if s.awake then s.guardReg rq key (fun s => s.writeReg rq key v) else s

/-- REGISTER_WRITE (R7 to R11, R570). -/
def execRegisterWrite (rq : Requester) (key : Nat) (v : B32) (s : State) : Out :=
  attempt (if s.awake ∧ key % 4 = 0 then some (s.regWrite rq key v) else none) s

/-! ## Accesses to the register windows -/

/-- Size of the register windows (Table 11-3). -/
def regSpace : Nat := 0x4000000

/-- Keys of the words that a byte range touches. -/
def keysOf (off len : Nat) : List Nat := (upTo ((off + len - 1) / 4 + 1 - off / 4)).map (fun i => (off / 4 + i) * 4)

/-- Words read in rising address, each once. -/
def State.readWords (s : State) (rq : Requester) : List Nat → State × List Byte
  | [] => (s, [])
  | k :: ks =>
    let r := s.regRead rq k
    let q := r.1.readWords rq ks
    (q.1, natToBytes r.2.toNat 4 ++ q.2)

/-- One word written; bytes the access does not carry keep the word's stored bits (log entry 50). -/
def State.writeWord (s : State) (rq : Requester) (key off : Nat) (data : List Byte) : State :=
  let old := s.reg key
  let bytes := (upTo 4).map (fun i =>
    if off ≤ key + i then (data[key + i - off]?).getD (BitVec.ofNat 8 (old.toNat / 256 ^ i)) else BitVec.ofNat 8 (old.toNat / 256 ^ i))
  s.regWrite rq key (b32 (bytesToNat bytes))

/-- An access inside the register windows: every word is checked before any is performed (R376, R381). -/
def State.regAccess (s : State) (a : Access) : State × Nat × List Byte :=
  let off := a.addr - ctlBase
  let ks := keysOf off (accessSize a)
  match (if s.awake then ks.find? (fun k => !(regAllowed a.rq a.write k)) else none) with
  | some k => (s.refuseReg a.rq a.write k, 0x30, [])
  | none =>
    if a.write then (ks.foldl (fun (s : State) k => s.writeWord a.rq k off a.data) s, 0, [])
    else
      let r := s.readWords a.rq ks
      (r.1, 0, (r.2.drop (off % 4)).take (accessSize a))

/-- Bytes that a range has in the register windows. -/
def inRegs (addr len : Nat) : Nat := if ctlBase ≤ addr then min len (ctlBase + regSpace - addr) else 0

/-- The refusal of an access that begins in the register windows and ends past them: of the first refused word and the
first refused line of the rest, the one whose check comes first (R376, R381). -/
def State.crossRefused (s : State) (a : Access) : Option Nat → Option (Nat × Verdict) → Option (State × Nat)
  | some k, some (l, v) =>
    some (if v.rank < 2 then (s.violation a.rq a.write l v, v.status) else (s.refuseReg a.rq a.write k, 0x30))
  | some k, none => some (s.refuseReg a.rq a.write k, 0x30)
  | none, some (l, v) => some (s.violation a.rq a.write l v, v.status)
  | none, none => none

/-- The first word of the first `n` bytes of an access that its register refuses. -/
def firstRefused (a : Access) (n : Nat) : Option Nat :=
  (keysOf (a.addr - ctlBase) n).find? (fun k => !(regAllowed a.rq a.write k))

/-- Bytes read before those of another access. -/
def readBefore (front : List Byte) (q : State × Nat × List Byte) : State × Nat × List Byte := (q.1, q.2.1, front ++ q.2.2)

/-- The two parts of an access of `len` bytes whose first `n` lie in the register windows, unless one is refused. -/
def State.crossParts (s : State) (a : Access) (ep : Option (B32 × Nat)) (len n : Nat) :
    Option (State × Nat) → State × Nat × List Byte
  | some r => (r.1, r.2, [])
  | none => readBefore (s.regAccess { a with len := n, data := a.data.take n }).2.2
      ((s.regAccess { a with len := n, data := a.data.take n }).1.memAccess
        { a with addr := a.addr + n, len := len - n, data := a.data.drop n } ep)

/-- An access whose first `n` bytes lie in the register windows and the rest past them: every word and line of it is
checked before any is performed (R376). -/
def State.crossAccess (s : State) (a : Access) (ep : Option (B32 × Nat)) (len n : Nat) : State × Nat × List Byte :=
  s.crossParts a ep len n (s.crossRefused a (firstRefused a n) (s.verdict a.rq a.write (a.addr + n) (len - n)))

/-- An access of `len` bytes, its first `n` in the register windows: its range is checked first (R35). -/
def State.accessBytes (s : State) (a : Access) (ep : Option (B32 × Nat)) (len n : Nat) : State × Nat × List Byte :=
  if len = 0 ∨ localTop < a.addr + len - 1 then (s, 0x13, [])
  else if n = 0 then s.memAccess a ep
  else if n = len then s.regAccess a
  else s.crossAccess a ep len n

/-- One access of any requester to any device-local address: its status and the bytes of a read. -/
def State.access (s : State) (a : Access) (ep : Option (B32 × Nat)) : State × Nat × List Byte :=
  s.accessBytes a ep (accessSize a) (inRegs a.addr (accessSize a))

/-- What a halted device answers to an access outside its register windows: a read returns 0 and a write is dropped
(R449). -/
def State.haltedAccess (s : State) (write : Bool) (len : Nat) : State × Nat × List Byte :=
  (s, 0, if write then [] else List.replicate len 0)

/-- MEMORY_ACCESS of a requester outside the tiles (R376, R381). A page being copied holds it back (R363), and an access
to the recovery RAM waits for go (R469). -/
def State.plainAccess (s : State) (a : Access) : Option State :=
  let n := accessSize a
  if !s.answers ∨ (s.awake ∧ (s.pageBusy a.addr n ∨ s.rcvWaits a.addr n)) then none
  else
    let r := if s.awake ∨ inRegs a.addr n = n then s.access a none else s.haltedAccess a.write n
    some { r.1 with mem := { r.1.mem with last := r.2.1, data := r.2.2 } }

/-! ## Host accesses through the BARs (R391 to R394) -/

/-- A host access at BAR2: HST_BAR2_BASE + off as the host. -/
def State.bar2 (s : State) (write : Bool) (off len : Nat) (data : List Byte) : Option (State × Nat × List Byte) :=
  let a := (s.reg64 (kHst 0x30)).toNat + off
  let n := if write then data.length else len
  if 2 ^ s.host.pcie.bar2Log2 < off + n then none
  else if !s.awake then some (s.haltedAccess write len)
  else if s.pageBusy a n ∨ s.rcvWaits a n then none
  else some (s.hostWindow write a len data)

/-- A host access at BAR0: the register windows. A refused read completes successfully with data 0. -/
def State.bar0 (s : State) (write : Bool) (off len : Nat) (data : List Byte) : Option (State × Nat × List Byte) :=
  let n := if write then data.length else len
  if regSpace < off + n ∨ n = 0 then none
  else
    let r := s.regAccess ⟨rqHost, write, ctlBase + off, len, data, false⟩
    some (r.1, 0, if r.2.1 = 0 then r.2.2 else List.replicate len 0)

/-- A host access at BAR4, word by word: an offset that Table 12-3 does not name reads as 0 and ignores writes. -/
def State.bar4 (s : State) (write : Bool) (off len : Nat) (data : List Byte) : Option (State × Nat × List Byte) :=
  let n := if write then data.length else len
  if 0x1000000 < off + n ∨ n = 0 then none
  else
    let ks := (keysOf off n).map (fun k => barRing + k)
    if write then some (ks.foldl (fun (s : State) k => s.writeWord rqHost k (barRing + off) data) s, 0, [])
    else
      let r := s.readWords rqHost ks
      some (r.1, 0, (r.2.drop (off % 4)).take len)

/-- A TLP that is poisoned, or fails ECRC while that is checked, is discarded and reported through AER (R393). -/
def State.tlpBad (s : State) (t : TlpCheck) : Option State :=
  let p := s.host.pcie
  match t with
  | .good => none
  | .poisoned => some { s with host := { s.host with pcie := { p with poisoned := true } } }
  | .ecrcBad => if p.ecrcChk then some { s with host := { s.host with pcie := { p with ecrcBad := true } } } else none

/-- A read's data, or its Completer Abort, which AER reports (R393). -/
def State.barDone (s : State) (write : Bool) (r : State × Nat × List Byte) : State :=
  let bad := !write && decide (r.2.1 ≠ 0)
  let h := r.1.host
  { r.1 with host := { h with
      barData := if write then s.host.barData else r.2.2
      abort := bad
      pcie := { h.pcie with aborted := h.pcie.aborted || bad } } }

/-- BAR2_ACCESS (R391 to R394, R449): a host access through a BAR, served while the link is up, whether or not the
device is in host-absent mode, and by a halted device too. -/
def execBar2Access (how : HostAccess) (off len : Nat) (data : List Byte) (s : State) : Out :=
  attempt (if s.answers ∧ s.host.link ∧ !s.host.pcie.d3hot then
    match s.tlpBad how.tlp with
    | some t => some t
    | none =>
      (match how.bar with
        | .bar0 => s.bar0 how.write off len data
        | .bar2 => s.bar2 how.write off len data
        | .bar4 => s.bar4 how.write off len data).map (s.barDone how.write)
    else none) s

end Sys2Proof.Machine
end

