-- ==== Sys2Proof/Machine/Scan.lean ====
section
/-!
DEFINITION. Accesses to memory as commands (R376, R150), the ends of the scans of CHK (R497, R498, R502), and the
scans of the weight scrub (R503).
-/
namespace Sys2Proof.Machine

/-! ## MEMORY_ACCESS -/

/-- The access of a transfer: its requester is the physical tile, its world non-secure, its address device-local
(R384, Table 11-2). -/
def dmaAccess (t : Nat) (x : Xfer) : Access :=
  ⟨⟨BitVec.ofNat 16 t, false, x.step.side⟩, x.op == dmaWrite, x.addr % 2 ^ 40, 512,
    if x.op = dmaWrite then vecBytes x.data 512 else [], false⟩

/-- The transfer is answered with a status, and a READ with its row. -/
def State.answerOwn (s : State) (t id status : Nat) (data : List Byte) : State :=
  let tl := s.tile t
  s.setTile t { tl with xfers := tl.xfers.map (fun (x : Xfer) =>
    if x.id = id then
      { x with answer := some status
               data := if status = 0 ∧ x.op = dmaRead then BitVec.ofNat 4096 (bytesToNat data) else x.data }
    else x) }

/-- An earlier-issued WRITE of the tile to one of the same memory lines has not taken effect (R155). -/
def State.writeWaits (s : State) (t : Nat) (x : Xfer) : Bool :=
  x.op == dmaWrite && (s.tile t).xfers.any (fun y => decide (y.id < x.id) && y.op == dmaWrite && y.answer.isNone && !y.away &&
    spansMeet (y.addr % 2 ^ 40 / 64 * 64) 512 (x.addr % 2 ^ 40 / 64 * 64) 512)

/-- The memory access that a tile's outstanding READ or WRITE of this device has issued (R150); WRITEs of a tile to one
line are performed in issue order (R155). -/
def State.dmaAccessed (s : State) (t id : Nat) : Option State :=
  if s.awake ∧ t < 80 then
    match (s.tile t).xfer id with
    | some x =>
      if x.answer.isSome ∨ x.away ∨ x.op = dmaPush ∨ s.pageBusy (x.addr % 2 ^ 40) 512 ∨ s.writeWaits t x then none
      else
        let r := s.access (dmaAccess t x) (some (x.step.epoch, x.step.pipe))
        some (r.1.answerOwn t id r.2.1 r.2.2)
    | none => none
  else none

/-- The epochs that a requester's own requests serve: those resident on a tile, that of an engine's step. -/
def State.servedBy (s : State) (rq : Requester) : List B32 :=
  match rqCls rq with
  | 0 => ((s.tile (rqInst rq)).residents).map (·.epoch)
  | 1 => ((s.stem (rqInst rq)).run.toList).map (·.step.epoch)
  | 2 => ((s.spc (rqInst rq)).run.toList).map (·.step.epoch)
  | _ => []

/-- A fabric request that fails parity is not performed: class 0x13, and its epoch ends with DISCARDED_FAULT (Table 17-2).
DESIGN CHOICE (log entry 142): for a request that names no epoch, those resident on its unit. -/
def State.fabricFault (s : State) (code : Nat) (es : List B32) : State :=
  let s := s.fault { mkFault 0x13 (b2n (!es.isEmpty)) code 0 with
    epoch := (es.head?).bind (fun e => (s.epochRec e).map (fun r => (e, r.pipe))) }
  es.foldl (fun (s : State) e => s.endCause e 1) s

/-- The request of a tile's outstanding transfer fails parity: the transfer is answered with DISCARDED_FAULT. -/
def State.dmaBad (s : State) (t id : Nat) : Option State :=
  if s.awake ∧ t < 80 then
    match (s.tile t).xfer id with
    | some x =>
      if x.answer.isSome ∨ x.away ∨ x.op = dmaPush then none
      else some ((s.fabricFault t [x.step.epoch]).answerOwn t id 1 [])
    | none => none
  else none

/-- MEMORY_ACCESS (R376; Table 17-2 for a request that fails parity). -/
def execMemoryAccess (m : MemRequest) (s : State) : Out :=
  attempt (match m with
    | .plain a => s.plainAccess a
    | .dma t id => s.dmaAccessed t id
    | .badPlain rq => if s.awake then some (s.fabricFault rq.code.toNat (s.servedBy rq)) else none
    | .badDma t id => s.dmaBad t id) s

/-! ## Scans -/

/-- The range cut into the parts that its 64-byte lines hold. -/
def lineCuts (addr len : Nat) : List (Nat × Nat) :=
  (linesOf addr len).map (fun l => (max addr l, min (addr + len) (l + 64) - max addr l))

/-- Parts read in rising order: the first that is refused or uncorrectable ends the scan (R497). -/
def State.scanParts (s : State) (rq : Requester) (nocache : Bool) : List (Nat × Nat) → State × Nat × List Byte
  | [] => (s, 0, [])
  | p :: ps =>
    let r := s.access ⟨rq, false, p.1, p.2, [], nocache⟩ none
    if r.2.1 = 0 then
      let t := r.1.scanParts rq nocache ps
      (t.1, t.2.1, r.2.2 ++ t.2.2)
    else (r.1, r.2.1, [])

/-- A scan's reads: line by line, each passing the region check in the world of the write that started it (R497). -/
def State.scanRead (s : State) (code addr len : Nat) (nocache secure : Bool) : State × Nat × List Byte :=
  s.scanParts ⟨BitVec.ofNat 16 code, secure, false⟩ nocache (lineCuts addr len)

/-- CRC_SCAN_DONE (R497, R498). -/
def execCrcScanDone (u : Nat) (s : State) : Out :=
  attempt (if s.awake ∧ u < 4 then
    match (s.crc u).scan with
    | some ⟨.scan addr len nc cmp fin, sec⟩ =>
      if s.pageBusy addr len then none
      else
        let s0 := s
        let r := s.scanRead (0xC000 + u) addr len nc sec
        let s := (r.1.setCrc u { r.1.crc u with scan := none }).setFld (kCrc u 0x2C) 8 8 r.2.1
        let s := if r.2.1 = 0 then (if cmp then (s.crcFeed u r.2.2).crcCompare u else s.crcFeed u r.2.2) else s
        some (if fin then s0.byCode (s.scrubEnded u r.2.1) else s)
    | _ => none
    else none) s

/-- A digest in CHK_SHA_DIGEST_0 to CHK_SHA_DIGEST_15. -/
def State.setDigest (s : State) (e : Nat) (d : List Byte) : State :=
  (upTo 16).foldl (fun (s : State) i =>
    s.setReg (kSha e (0x40 + 4 * i)) (BitVec.ofNat 32 (bytesToNat ((d.drop (4 * i)).take 4)))) s

/-- A message part hashed; a final one is padded with the length that CNT gives. -/
def State.shaFold (s : State) (e : Nat) (fin : Bool) (bs : List Byte) : State :=
  let s := s.add64 (kSha e 0x18) bs.length
  let m := if fin then bs ++ shaPad (s.reg64 (kSha e 0x18)).toNat else bs
  let h := s.sha e
  let v := shaBlocks (m.length / 128) h.state m
  let s := s.setSha e { h with state := v }
  if fin then (s.setDigest e (shaBytes v)).setBit (kSha e 4) 1 true else s

/-- SHA_SCAN_DONE (R502). -/
def execShaScanDone (e : Nat) (s : State) : Out :=
  attempt (if s.awake ∧ e < 4 then
    match (s.sha e).scan with
    | some ⟨.scan addr len nc _ fin, sec⟩ =>
      if s.pageBusy addr len then none
      else
        let r := s.scanRead (0xC004 + e) addr len nc sec
        let s := (r.1.setSha e { r.1.sha e with scan := none }).setFld (kSha e 4) 8 8 r.2.1
        some (if r.2.1 = 0 then s.shaFold e fin r.2.2 else s)
    | _ => none
    else none) s

/-- The scan of a block set up on an idle unit and queued (R503). -/
def State.scrubIssue (s : State) (u : Nat) (b : ScrubBlock) : State :=
  let s := s.setReg (kCrc u 0) 0x7FF
  let s := s.setReg64 (kCrc u 8) sigPoly
  let s := s.setReg64 (kCrc u 0x10) 0xFFFFFFFFFFFFFFFF
  let s := s.setReg64 (kCrc u 0x18) (BitVec.ofNat 64 b.crc)
  let s := s.setReg64 (kCrc u 0x30) (BitVec.ofNat 64 b.addr)
  let s := s.setReg64 (kCrc u 0x38) (BitVec.ofNat 64 b.len)
  (s.setCrc u { s.crc u with scrub := some b }).crcQueue u rqCore0 (scrubCmds b)

/-- WEIGHT_SCRUB (R503, R504): firmware sets an idle unit up for one block and queues its scan; on a unit whose scan is to
be repeated it is the repeat of that block. A CRCTAB that cannot be read leaves the block for another time. -/
def execWeightScrub (u folio entry : Nat) (s : State) : Out :=
  attempt (if s.serving ∧ s.fwServes ∧ u < 4 ∧ s.folioState folio = 3 ∧ !s.crcBusy u ∧ !s.unitTaken u then
    match (s.crc u).scrub with
    | some b => if b.folio = folio ∧ b.entry = entry ∧ (s.crc u).again then some (s.scrubIssue u b) else none
    | none =>
      if s.crctabWaits folio then none
      else
        let r := s.scrubBlock folio entry
        match r.2 with
        | some b => some (r.1.scrubIssue u b)
        | none => if r.1 = s then none else some r.1
    else none) s

end Sys2Proof.Machine
end

