-- ==== Sys2Proof/Machine/LinkMsg.lean ====
section
/-!
DEFINITION. READ, WRITE and PUSH messages at their destination (R384, R436, R441).
-/
namespace Sys2Proof.Machine

/-- The requester of a peer's message: class 0xA, the port it came in by, the device it came from (Table 11-2). -/
def rqPeer (p : Nat) (m : LnkMsg) : Requester := ⟨BitVec.ofNat 16 (0xA000 + p % 8 + 8 * mSrc m), false, mSide m⟩

/-- The answer to a READ (kind 8) or to a WRITE or PUSH (kind 9). -/
def answerMsg (own kind : Nat) (m : LnkMsg) (status chunks : Nat) (data : List Byte) : LnkMsg :=
  mkMsg own (mSrc m) kind (mSide m) (mHost m) (mOrigin m) chunks (mAddr m) (mTag m) status
    (if mHost m then mHostBytes m else 0) data

def State.sendAnswer (s : State) (kind : Nat) (m : LnkMsg) (status chunks : Nat) (data : List Byte) : State :=
  s.sendOnce (answerMsg s.boot.dev kind m status chunks data)

/-- A READ with host set, issued by a home on its PCIe link; `data` is what the host's completion carries. -/
def State.hostRead (s : State) (m : LnkMsg) (data : Option (List Byte)) : State :=
  match data with
  | some b =>
    if s.hostUp ∧ b.length = mHostBytes m then s.sendAnswer 8 m 0 (mChunks m) b else s.hdmaErr.sendAnswer 8 m 2 0 []
  | none => s.hdmaErr.sendAnswer 8 m 2 0 []

/-- LNK_READ (R384, R436, R441). -/
def execLnkRead (p : Nat) (m : LnkMsg) (hostData : Option (List Byte)) (s : State) : Out :=
  attempt (match s.takeMsg p 1 m with
    | none => none
    | some t =>
      if mHost m then some (t.hostRead m hostData)
      else if t.pageBusy (mAddr m % 2 ^ 40) (8 * mChunks m) then none
      else
        let r := t.access ⟨rqPeer p m, false, mAddr m % 2 ^ 40, 8 * mChunks m, [], false⟩ none
        some (if r.2.1 = 0 then r.1.sendAnswer 8 m 0 (mChunks m) r.2.2 else r.1.sendAnswer 8 m r.2.1 0 [])) s

/-- A WRITE with host set: posted on the PCIe link unless the request fails. -/
def State.hostWrite (s : State) (m : LnkMsg) (ok : Bool) : State :=
  if s.hostUp && ok then
    (s.postLocal (BitVec.ofNat 64 (mAddr m)) (m.payload.take (mHostBytes m))).sendAnswer 9 m 0 0 []
  else s.sendAnswer 9 m 2 0 []

/-- LNK_WRITE (R384, R436, R441). -/
def execLnkWrite (p : Nat) (m : LnkMsg) (hostOk : Bool) (s : State) : Out :=
  attempt (match s.takeMsg p 2 m with
    | none => none
    | some t =>
      if mHost m then some (t.hostWrite m hostOk)
      else if t.pageBusy (mAddr m % 2 ^ 40) m.payload.length then none
      else
        let r := t.access ⟨rqPeer p m, true, mAddr m % 2 ^ 40, 0, m.payload, false⟩ none
        some (r.1.sendAnswer 9 m r.2.1 0 [])) s

/-- Logical tile and row that a PUSH names (Table 13-5). -/
def pushTile (m : LnkMsg) : Nat := bitsOf (mAddr m) 32 6
def pushRow (m : LnkMsg) : Nat := bitsOf (mAddr m) 0 32

/-- A PUSH waits while its slice fills, its tile moves, or an outstanding transfer writes its row (R140, R154,
R244). -/
def State.pushWaits (s : State) (t : Nat) (m : LnkMsg) : Bool :=
  s.rowFilling t (pushRow m) || s.moving (pushTile m) ||
  s.tiles.any (fun e => e.2.xfers.any (fun y => s.xferTarget e.1 y == some (t, pushRow m)))

/-- The partial that a peer's PUSH to a row of tile `t` delivers (R66). The message names neither stage nor epoch: DESIGN
CHOICE (log entry 116), it is the lowest partial that the source device still owes the oldest running epoch. -/
def State.peerPart (s : State) (t : Nat) (m : LnkMsg) : Option (StepRef × Nat) :=
  let row := pushRow m
  ((s.hosts t).filter (fun h => h.2.1 == mSide m)).findSome? (fun h =>
    let p := s.pipe h.1
    let qs := p.splits.filter (fun q => q.stage == h.2.2 && decide (q.row ≤ row) && decide (row < q.row + q.rows) &&
      q.push.any (fun x => s.stageDev p x.1 == mSrc m && s.stageDev p x.1 != s.boot.dev))
    let es := sortBy (fun a b => olderThan a b) (s.epochsIn h.1)
    es.findSome? (fun e => (qs.find? (fun q =>
      let own : StepRef := ⟨h.1, h.2.1, q.stage, q.step, e⟩
      let r := (s.tile t).splitRow own row
      !((p.partIxs q.stage q.step row).take r.next).contains q.index && !(r.held.any (fun x => x.1 == q.index)))).map
        (fun q => (⟨h.1, h.2.1, q.stage, q.step, e⟩, q.index))))

/-- LNK_PUSH (R436): a tile that is gone is answered DISCARDED_FAULT. DEDUCED (log entry 145): an Inkwell row has no
device-local address (Table 01-5), so of R376 there is no line to check. -/
def execLnkPush (p : Nat) (m : LnkMsg) (s : State) : Out :=
  attempt (match s.takeMsg p 3 m with
    | none => none
    | some t =>
      match t.physOf (pushTile m) with
      | none => some (t.sendAnswer 9 m 1 0 [])
      | some ph =>
        if t.pushWaits ph m then none
        else
          let v := BitVec.ofNat 4096 (bytesToNat m.payload)
          let r := match t.peerPart ph m with
            | some o => (t.bankWait ph (bankOf (pushRow m))).splitArrive ph o.1 (pushRow m) o.2 v
            | none => (t.bankWait ph (bankOf (pushRow m))).inkWrite ph (pushRow m) rqDmaIn v
          some (r.1.sendAnswer 9 m r.2 0 [])) s

end Sys2Proof.Machine
end

