-- ==== Sys2Proof/Machine/Mailbox.lean ====
section
/-!
DEFINITION. The firmware mailbox (R482 to R484): the checks of a request, its buffer, every command of Table 15-4,
and the CTRL messages that carry commands, responses and events between devices (R481, R484).
-/
namespace Sys2Proof.Machine

/-! ## Checks (R483) -/

/-- Commands that use the buffer, and the bytes they read from it. -/
def cmdBuf (cmd : Nat) : Bool := cmd == 2 || cmd == 3 || cmd == 6 || cmd == 7 || cmd == 0xA || cmd == 0xB
def cmdIn (r : List Byte) : Nat :=
  match reqCmd r with
  | 2 => 64
  | 3 => 576
  | 6 | 7 | 0xB => reqLen r
  | _ => 0

/-- The least length a command needs of a device with `n` folios. -/
def cmdNeed (cmd n : Nat) : Nat := if cmd = 2 then 752 + 80 * n else if cmd = 3 then 576 else 0

def reqFormat (r : List Byte) : Bool :=
  reqNum r 2 2 != 0 || reqNum r 10 6 != 0 || reqNum r 28 4 != 0 || decide (4096 ≤ reqBuf r) ||
  decide (2 ^ 40 ≤ reqOff r) || reqCmd r == 0 || decide (0xC < reqCmd r)

/-- Arguments outside Table 15-4, as far as the request itself tells. -/
def reqArgs (r : List Byte) : Bool :=
  match reqCmd r with
  | 4 => decide (256 ≤ reqArg r 0)
  | 5 => decide (1 < reqArg r 0) || reqArg r 1 % 4096 != 0 || reqArg r 2 % 4096 != 0
  | 6 => decide (1 < reqArg r 0)
  | 8 | 9 => reqArg r 0 % 4 != 0 || decide (reqArg r 0 < ctlBase) || decide (ctlBase + regSpace ≤ reqArg r 0)
  | 0xA | 0xB => decide (localTop < reqArg r 0 + reqLen r - 1)
  | 0xC => decide (1 < reqArg r 0)
  | _ => false

/-- The request goes to another device. -/
def State.reqAway (s : State) (r : List Byte) : Bool := reqRemote r && reqDev r != s.boot.dev

/-- FLASH_ERASE and FLASH_WRITE: the range leaves the slot, whose size the executing device knows (Table 15-4). -/
def State.flashRange (s : State) (r : List Byte) : Bool :=
  match reqCmd r with
  | 5 => decide (s.boot.norSize / 2 < reqArg r 1 + reqArg r 2)
  | 6 => decide (s.boot.norSize / 2 < reqArg r 1 + reqLen r)
  | _ => false

/-- The folios of the executing device, which ATTEST's length counts: another device's are not known here. -/
def State.reqFolios (s : State) (r : List Byte) : Nat := if s.reqAway r then 0 else s.boot.scroll.folios.length

/-- The first failing check of the own mailbox's request, or 0. -/
def State.reqStatus (s : State) (r : List Byte) : Nat :=
  let buf := cmdBuf (reqCmd r)
  if reqFormat r then stFormat
  else if (reqRemote r ∧ !s.inTorus (reqDev r)) ∨ (buf ∧ (!s.bit (kBuf (reqBuf r) 0xC) 31 ∨ reqLen r = 0)) ∨ reqArgs r ∨
      (!s.reqAway r ∧ s.flashRange r) then stRange
  else if buf ∧ (s.bufSize (reqBuf r) < reqOff r + reqLen r ∨ reqLen r < cmdNeed (reqCmd r) (s.reqFolios r)) then stLen
  else stOk

/-- The same checks at the device that executes another's request: the buffer is not its own. -/
def State.guestStatus (s : State) (r : List Byte) : Nat :=
  let buf := cmdBuf (reqCmd r)
  if reqFormat r then stFormat
  else if (buf ∧ reqLen r = 0) ∨ reqArgs r ∨ s.flashRange r then stRange
  else if buf ∧ reqLen r < cmdNeed (reqCmd r) s.boot.scroll.folios.length then stLen
  else stOk

/-! ## The buffer -/

/-- Address of the request's bytes: a host bus address, or a device-local one. -/
def State.bufAt (s : State) (r : List Byte) : Nat := (s.reg64 (kBuf (reqBuf r) 0)).toNat + reqOff r
def State.bufMem (s : State) (r : List Byte) : Bool := s.bit (kBuf (reqBuf r) 0xC) 8

/-- The command's bytes of its buffer with the status of their read, `none` while a home makes it (R441): `data` is what a
host-memory read returns. -/
def State.bufRead (s : State) (r : List Byte) (data : Option (List Byte)) : State × Option (Nat × List Byte) :=
  let n := cmdIn r
  if n = 0 then (s, some (0, []))
  else if s.bufMem r then
    let a := s.access ⟨rqHost, false, s.bufAt r % 2 ^ 40, n, [], false⟩ none
    (a.1, some a.2)
  else
    let f := s.hostFetch .buffer (s.bufAt r) n data
    match f.2 with
    | none => (f.1, none)
    | some (some b) => if b.length = n then (f.1, some (0, b)) else (f.1.hdmaErr, some (stAbort, []))
    | some none => (f.1.hdmaErr, some (stAbort, []))

/-- Bytes that a command leaves in its buffer. -/
def State.bufWrite (s : State) (r : List Byte) (out : List Byte) : State × Nat :=
  if out.isEmpty then (s, 0)
  else if s.bufMem r then
    let w := s.access ⟨rqHost, true, s.bufAt r % 2 ^ 40, 0, out, false⟩ none
    (w.1, w.2.1)
  else (s.postHost (BitVec.ofNat 64 (s.bufAt r)) out, 0)

/-- A page that the command touches is being copied (R363). -/
def State.cmdWaits (s : State) (r : List Byte) : Bool :=
  ((reqCmd r == 0xA || reqCmd r == 0xB) && s.pageBusy (reqArg r 0) (reqLen r)) ||
  (reqCmd r == 7 && s.pageBusy stageArea (reqLen r))
/-- A page that the command or its own buffer touches is being copied. -/
def State.reqWaits (s : State) (r : List Byte) : Bool :=
  (cmdBuf (reqCmd r) && s.bufMem r && s.pageBusy (s.bufAt r % 2 ^ 40) (reqLen r)) || s.cmdWaits r

/-! ## Commands (Table 15-4) -/

/-- What a command answers: its status, its results and its bytes for the buffer. -/
structure MbxRes where
  status  : Nat
  results : List Nat
  out     : List Byte
deriving DecidableEq, Repr

/-- A command's effect on the device that executes it, from the request and the buffer's bytes; `none` while it is
not complete. -/
abbrev MbxFn := State → List Byte → List Byte → State × Option MbxRes

def mbxDone (status : Nat) : Option MbxRes := some ⟨status, [], []⟩

/-- INFO. -/
def doInfo : MbxFn := fun s _ _ =>
  (s, some ⟨0, [seqArv s.fw.runSeq.toNat s.fw.runArv, s.fw.updates, (s.live (kQcx 0)).toNat], []⟩)

/-- Entry of a folio in the attestation report. -/
def State.attestEntry (s : State) (i : Nat) (f : FolioRec) : List Byte :=
  vecBytes f.hash 64 ++ natToBytes i 1 ++ natToBytes (s.folioState i) 1 ++ natToBytes 0 14

/-- The attestation report up to its signature (Table 14-8). -/
def State.attestBody (s : State) (nonce : List Byte) : List Byte :=
  let fs := s.boot.scroll.folios
  natToBytes 0x54544152 4 ++ natToBytes 1 2 ++ natToBytes fs.length 2 ++ natToBytes (400 + 80 * fs.length) 4 ++ natToBytes 0 4 ++
  nonce ++ vecBytes s.boot.mFw 64 ++ vecBytes s.boot.mScr 64 ++ natToBytes s.boot.statAtHand.toNat 4 ++
  natToBytes s.boot.seq.toNat 4 ++ natToBytes s.boot.arv 2 ++ natToBytes (s.fld (kTrs 0xC) 0 7) 2 ++
  natToBytes (s.reg 0).toNat 4 ++ natToBytes 0 32 ++
  (upTo fs.length).flatMap (fun i => match fs[i]? with | some f => s.attestEntry i f | none => [])

/-- ATTEST (R461). -/
def doAttest : MbxFn := fun s _ data =>
  let n := s.boot.scroll.folios.length
  let body := s.attestBody data
  ({ s with freeIx := s.freeIx + 1 },
    some ⟨0, [400 + 80 * n], body ++ ecSign s.boot.dAtt (Config.nonce s.freeIx) body ++ s.boot.endorse⟩)

/-- CTX_CREATE (R306, R308, R324). -/
def doCtxCreate : MbxFn := fun s _ data =>
  let st := s.ctxStatus data
  (if st = 0 then s.createCtx data else s, mbxDone st)

/-- The access units of a context that no core has started complete with DISCARDED_ABORT; one that has had its outcome is
gone without another (R320). -/
def State.dropUnits (s : State) (x : Nat) : State :=
  let us := s.vid.units.filter (fun u => u.ctx == x)
  let s : State := { s with vid := { s.vid with units := s.vid.units.filter (fun u => u.ctx != x) } }
  us.foldl (fun (s : State) u => s.unitStatus u stAbort false) s

/-- The intake ring of a context has no target any more, and an access unit that is being read completes with
DISCARDED_ABORT. -/
def State.unbindIntake (s : State) (x : Nat) : State :=
  match (s.vctx x).desc with
  | some c =>
    let i := c.iring
    let d := (s.iring i).desc
    let s := s.setIring i { s.iring i with target := none }
    match d with
    | some d => s.irFail i d.rring stAbort d.sample d.tag
    | none => s
  | none => s

/-- CTX_DESTROY: the frame in progress, if any, is waited for, and so are its outputs (R323). -/
def doCtxDestroy : MbxFn := fun s r _ =>
  let x := reqArg r 0
  if (s.vctx x).desc.isNone then (s, mbxDone stRange)
  else
    let s := (s.unbindIntake x).dropUnits x
    let s := (s.setVctx x { s.vctx x with destroy := true }).settleCtx x
    (s, if (s.vctx x).destroy then none else mbxDone 0)

/-- FLASH_ERASE. -/
def doFlashErase : MbxFn := fun s r _ =>
  let off := reqArg r 1
  let n := reqArg r 2
  if reqArg r 0 = s.booted then (s, mbxDone stLocked)
  else (s.norErase (s.slotBase (reqArg r 0) + off) n, mbxDone 0)

/-- FLASH_WRITE. -/
def doFlashWrite : MbxFn := fun s r data =>
  let off := reqArg r 1
  if reqArg r 0 = s.booted then (s, mbxDone stLocked)
  else (s.norProgram (s.slotBase (reqArg r 0) + off) data, mbxDone 0)

/-- The checks of R485 on the staged copy of `len` bytes. -/
def State.updateStatus (s : State) (v : Image) (len : Nat) : Nat :=
  let fo := len - 1152
  if !(v.fwHeadOk len) then stFormat
  else if v.encrypted fo then stFormat
  else match v.sigStatus s.fuse.slots fo false with
    | 1 => stFormat
    | 2 => stDamaged
    | _ => if v.num 12 2 < s.fld (kTrs 0xC) 0 7 then stRange else stOk

/-- UPDATE (R485, R486): the image is copied to the staging area and the copy is checked. -/
def doUpdate : MbxFn := fun s r data =>
  if s.boot.scroll.updOff then (s, mbxDone stRange)
  else if keepSec - stageArea < reqLen r then (s, mbxDone stFormat)
  else
    let s := s.fwWrite stageArea data
    let v : Image := ⟨s.mem.hbm, stageArea⟩
    let st := s.updateStatus v (reqLen r)
    if st ≠ 0 then (s, mbxDone st)
    else
      ({ s with fw := { s.fw with
          upd := .staged, newSeq := BitVec.ofNat 32 (v.num 8 4), newArv := v.num 12 2
          newParts := (v.num 16 4, v.num 20 4), newEntries := (v.num 24 4, v.num 28 4) } }, none)

/-- REG_READ. -/
def doRegRead : MbxFn := fun s r _ =>
  let k := reqArg r 0 - ctlBase
  let x := s.regRead rqHost k
  (x.1, if regAllowed rqHost false k then some ⟨0, [x.2.toNat], []⟩ else mbxDone stViolation)

/-- REG_WRITE. -/
def doRegWrite : MbxFn := fun s r _ =>
  let k := reqArg r 0 - ctlBase
  (s.regWrite rqHost k (BitVec.ofNat 32 (reqArg r 1)), mbxDone (if regAllowed rqHost true k then 0 else stViolation))

/-- MEM_READ. -/
def doMemRead : MbxFn := fun s r _ =>
  let x := s.access ⟨rqHost, false, reqArg r 0, reqLen r, [], false⟩ none
  (x.1, some ⟨x.2.1, [], x.2.2⟩)

/-- MEM_WRITE. -/
def doMemWrite : MbxFn := fun s r data =>
  let x := s.access ⟨rqHost, true, reqArg r 0, 0, data, false⟩ none
  (x.1, mbxDone x.2.1)

/-- POLICY. -/
def doPolicy : MbxFn := fun s r _ => (s.setBit (kQcx 0) 1 (bitOf (reqArg r 0) 0), mbxDone 0)

/-! ## The own mailbox -/

/-- The own command completes with a result: its bytes go to the buffer, then the response. -/
def State.mbxComplete (s : State) (r : List Byte) (dev : Nat) (x : MbxRes) : State :=
  let w := s.bufWrite r x.out
  let st := if x.status = 0 then w.2 else x.status
  w.1.mbxAnswer (mkResponse r st dev (if w.2 = 0 then x.out.length else 0) (if st = 0 then x.results else []))

/-- A remote command leaves in CTRL messages, its data first (R484). -/
def State.mbxSend (s : State) (r data : List Byte) : State :=
  let s := (s.sendData (reqDev r) data).sendCtrl rqCore0.code.toNat (reqDev r) ctrlRequest r
  { s with fw := { s.fw with remoteAt := some s.elapsed.toNat } }

/-- The context of a source's CTX_DESTROY that waits for a frame. -/
def State.destroyOf (s : State) (src : Nat) : Option Nat := (s.fw.destroying.find? (fun d => d.1 == src)).map (·.2)
def State.addDestroy (s : State) (src x : Nat) : State :=
  { s with fw := { s.fw with destroying := s.fw.destroying ++ [(src, x)] } }
def State.endDestroy (s : State) (src : Nat) : State :=
  { s with fw := { s.fw with destroying := s.fw.destroying.filter (fun d => d.1 != src) } }

/-- What the mailbox keeps of a command that is not complete: the context a CTX_DESTROY waits for. -/
def State.mbxWait (s : State) (r : List Byte) : State := if reqCmd r = 4 then s.addDestroy 128 (reqArg r 0) else s

/-- The mailbox holds a request for command `cmd` that firmware may serve now. -/
def State.mbxReady (s : State) (cmd : Nat) : Bool :=
  s.serving && s.bit (kQcx 0x280) 0 && !s.updActive && s.fw.remoteAt.isNone &&
  !(s.fw.destroying.any (fun d => d.1 == 128)) && reqCmd s.mbxReq == cmd && !s.reqWaits s.mbxReq &&
  !(cmd == 7 && s.fw.upd != .none)

/-- A request is checked, its buffer read, and executed here or sent on (R482 to R484). -/
def State.mbxRun (s : State) (cmd : Nat) (data : Option (List Byte)) (f : MbxFn) : Option State :=
  if s.mbxReady cmd then
    let r := s.mbxReq
    let st := s.reqStatus r
    if st ≠ 0 then some (s.mbxComplete r s.boot.dev ⟨st, [], []⟩)
    else
      let b := s.bufRead r data
      match b.2 with
      | none => some b.1
      | some d =>
        if d.1 ≠ 0 then some (b.1.mbxComplete r s.boot.dev ⟨d.1, [], []⟩)
        else if s.reqAway r then some (b.1.mbxSend r d.2)
        else
          let x := f b.1 r d.2
          match x.2 with
          | some res => some (x.1.mbxComplete r s.boot.dev res)
          | none => some (x.1.mbxWait r)
  else none

def execMbxInfo (s : State) : Out := attempt (s.mbxRun 1 none doInfo) s
def execMbxAttest (data : Option (List Byte)) (s : State) : Out := attempt (s.mbxRun 2 data doAttest) s
def execMbxCtxCreate (data : Option (List Byte)) (s : State) : Out := attempt (s.mbxRun 3 data doCtxCreate) s
def execMbxFlashErase (s : State) : Out := attempt (s.mbxRun 5 none doFlashErase) s
def execMbxFlashWrite (data : Option (List Byte)) (s : State) : Out := attempt (s.mbxRun 6 data doFlashWrite) s
def execMbxUpdate (data : Option (List Byte)) (s : State) : Out := attempt (s.mbxRun 7 data doUpdate) s
def execMbxRegRead (s : State) : Out := attempt (s.mbxRun 8 none doRegRead) s
def execMbxRegWrite (s : State) : Out := attempt (s.mbxRun 9 none doRegWrite) s
def execMbxMemRead (s : State) : Out := attempt (s.mbxRun 0xA none doMemRead) s
def execMbxMemWrite (data : Option (List Byte)) (s : State) : Out := attempt (s.mbxRun 0xB data doMemWrite) s
def execMbxPolicy (s : State) : Out := attempt (s.mbxRun 0xC none doPolicy) s

/-- CTX_DESTROY on the own context: the command completes once the context is free. -/
def State.mbxDestroy (s : State) : Option State :=
  match s.destroyOf 128 with
  | some x =>
    if s.serving ∧ !s.updActive ∧ !(s.vctx x).destroy then some ((s.endDestroy 128).mbxComplete s.mbxReq s.boot.dev ⟨0, [], []⟩)
    else none
  | none => s.mbxRun 4 none doCtxDestroy

def execMbxCtxDestroy (s : State) : Out := attempt s.mbxDestroy s

/-- MBX_REMOTE_TIMEOUT (R484). -/
def execMbxRemoteTimeout (s : State) : Out :=
  attempt (match s.fw.remoteAt with
    | some t0 =>
      if s.serving ∧ !s.updActive ∧ t0 + msTicks 100 ≤ s.elapsed.toNat then
        some (({ s with fw := { s.fw with remoteAt := none } }).mbxAnswer (mkResponse s.mbxReq stFault (reqDev s.mbxReq) 0 []))
      else none
    | none => none) s

/-! ## CTRL messages at their destination -/

def State.ctrlPart (s : State) (src : Nat) : List Byte := SMap.get noBytes s.fw.ctrlPart src
def State.setCtrlPart (s : State) (src : Nat) (l : List Byte) : State :=
  { s with fw := { s.fw with ctrlPart := SMap.set noBytes s.fw.ctrlPart src l } }

/-- A data part: its length stands in its first 8 bytes. -/
def State.ctrlDataPart (s : State) (src : Nat) (pay : List Byte) : State :=
  s.setCtrlPart src (s.ctrlPart src ++ (pay.drop 8).take (bytesToNat (pay.take 8)))

/-- The command that a guest's request names, other than UPDATE and CTX_DESTROY. -/
def guestFn (cmd : Nat) : MbxFn :=
  match cmd with
  | 1 => doInfo
  | 2 => doAttest
  | 3 => doCtxCreate
  | 4 => doCtxDestroy
  | 5 => doFlashErase
  | 6 => doFlashWrite
  | 7 => doUpdate
  | 8 => doRegRead
  | 9 => doRegWrite
  | 0xA => doMemRead
  | 0xB => doMemWrite
  | _ => doPolicy

def State.setUpdGuest (s : State) (src : Nat) (r : List Byte) : State :=
  { s with fw := { s.fw with updGuest := some (src, r) } }

/-- The answer to device `src`. -/
def State.guestDone (s : State) (src : Nat) (r : List Byte) (x : MbxRes) : State :=
  (s.setCtrlPart src []).guestAnswer src (mkResponse r x.status s.boot.dev x.out.length x.results) x.out

/-- A command of device `src` executes (R484). `t` is the state without its message, `s` the one with it: a
CTX_DESTROY that waits for a frame leaves the message in its place. -/
def State.guestRun (s t : State) (src : Nat) (r : List Byte) : Option State :=
  let cmd := reqCmd r
  if !s.serving ∨ s.updActive ∨ (cmd = 7 ∧ s.fw.upd ≠ .none) ∨ s.cmdWaits r then none
  else if s.guestStatus r ≠ 0 then some (t.guestDone src r ⟨s.guestStatus r, [], []⟩)
  else if cmd = 4 then
    match s.destroyOf src with
    | some x => if (s.vctx x).destroy then none else some ((t.endDestroy src).guestDone src r ⟨0, [], []⟩)
    | none =>
      let y := doCtxDestroy t r []
      match y.2 with
      | some res => some (y.1.guestDone src r res)
      | none => some ((doCtxDestroy s r []).1.addDestroy src (reqArg r 0))
  else
    let y := guestFn cmd t r (s.ctrlPart src)
    match y.2 with
    | some res => some (y.1.guestDone src r res)
    | none => some ((y.1.setCtrlPart src []).setUpdGuest src r)

/-- The response to the own remote command: its data goes to the buffer, then it is answered. -/
def State.ctrlAnswer (s : State) (src : Nat) (pay : List Byte) : State :=
  let r := s.mbxReq
  let out := s.ctrlPart src
  let s := s.setCtrlPart src []
  if s.fw.remoteAt.isSome ∧ reqDev r = src ∧ reqTag pay = reqTag r then
    let s : State := { s with fw := { s.fw with remoteAt := none } }
    s.mbxComplete r src ⟨reqNum pay 1 1, (upTo 6).map (fun i => reqNum pay (16 + 8 * i) 8), out⟩
  else s

/-- An event of another device enters the store of this home, or is lost (R480, R481). -/
def State.ctrlEventIn (s : State) (pay : List Byte) : State :=
  let dev := reqNum pay 2 1
  let s : State := if bitOf dev 7 then { s with host := { s.host with evLost := true } } else s
  if s.host.evHeld.length < 256 then
    { s with host := { s.host with evHeld := s.host.evHeld ++
      [(⟨BitVec.ofNat 16 (reqNum pay 0 2), dev % 128, BitVec.ofNat 64 (reqNum pay 8 8), BitVec.ofNat 64 (reqNum pay 16 8)⟩ : Event)] } }
  else ({ s with host := { s.host with evLost := true } }).addSat (kQcx 0x324) 1

end Sys2Proof.Machine
end

