-- ==== Sys2Proof/Machine/Ctrl.lean ====
section
/-!
DEFINITION. CTRL messages at their destination (R481, R484): remote mailbox commands and events, and what devices tell one
another of the epochs, books and tiles that they share (log entries 47, 69, 112, 113, 141 and 146).
-/
namespace Sys2Proof.Machine

/-- A commit at another device's commit unit (log entry 112). -/
def State.ctrlCommitted (s : State) (pay : List Byte) : State := s.hostCommit (reqNum pay 0 4) (BitVec.ofNat 32 (reqNum pay 4 4))

/-- A tile of another device holds an epoch (log entry 69). -/
def State.ctrlResidentAt (s : State) (pay : List Byte) : State :=
  let x : Remote := ⟨reqNum pay 0 1, bitOf (reqNum pay 1 1) 0, reqNum pay 2 2, BitVec.ofNat 32 (reqNum pay 4 4)⟩
  if s.commit.remote.contains x || s.isGone x.pipe x.epoch then s
  else { s with commit := { s.commit with remote := s.commit.remote ++ [x] } }

/-- A step of a layer has completed on another device (log entry 146). -/
def State.ctrlLayerDone (s : State) (pay : List Byte) : State :=
  let x : StepRef := ⟨reqNum pay 0 1, bitOf (reqNum pay 1 1) 0, reqNum pay 2 2, reqNum pay 4 4, BitVec.ofNat 32 (reqNum pay 8 4)⟩
  if s.commit.layers.contains x || s.isGone x.pipe x.epoch then s
  else { s with commit := { s.commit with layers := s.commit.layers ++ [x] } }

/-- The device of a peer edge's producer asks for the counters of its consumer end: they go back with those that it sent
and the ticks since they last changed (log entry 113). -/
def State.ctrlBookAsked (s : State) (src : Nat) (pay : List Byte) : State :=
  let p := reqNum pay 0 1
  let sd := bitOf (reqNum pay 1 1) 0
  let e := reqNum pay 2 1
  let b := s.book (bookKey p sd e)
  let c := (((s.pipe p).edge e).bind (fun x => s.clusterOf (s.pipe p) x.consumer sd)).getD 0
  s.sendCtrl (clusterCode c) src ctrlBookTell ((pay.take 16) ++ natToBytes b.tr.toNat 4 ++ natToBytes b.cs.toNat 4 ++
    natToBytes (s.elapsed.toNat - b.changed) 8)

/-- The answer: it stands beside this end's counters. -/
def State.ctrlBookTold (s : State) (pay : List Byte) : State :=
  let k := bookKey (reqNum pay 0 1) (bitOf (reqNum pay 1 1) 0) (reqNum pay 2 1)
  let w (i : Nat) : B32 := BitVec.ofNat 32 (reqNum pay i 4)
  s.setBook k { s.book k with far := some ⟨w 16, w 20, w 8, w 12, s.elapsed.toNat - reqNum pay 24 8⟩ }

/-- This end of a peer edge is restored with the other one (R518, log entry 113). -/
def State.ctrlBookRestored (s : State) (pay : List Byte) : State :=
  let k := bookKey (reqNum pay 0 1) (bitOf (reqNum pay 1 1) 0) (reqNum pay 2 1)
  s.setBook k ((s.book k).restore s.elapsed.toNat)

/-- The home has entered host-absent mode: so does a device whose home it is (R441). -/
def State.ctrlHomeAbsent (s : State) (src : Nat) : State :=
  if !s.isHome ∧ src = s.home ∧ !s.hostAbsent then s.enterAbsent 3 else s

/-- What a CTRL message does that another unit than the mailbox takes. -/
def State.ctrlNotice (s : State) (m : LnkMsg) : State :=
  let pay := m.payload
  if mTag m = ctrlEvent then s.ctrlEventIn pay
  else if mTag m = ctrlCommit then s.ctrlCommitted pay
  else if mTag m = ctrlResident then s.ctrlResidentAt pay
  else if mTag m = ctrlLayer then s.ctrlLayerDone pay
  else if mTag m = ctrlBookAsk then s.ctrlBookAsked (mSrc m) pay
  else if mTag m = ctrlBookTell then s.ctrlBookTold pay
  else if mTag m = ctrlBookRestore then s.ctrlBookRestored pay
  else if mTag m = ctrlTwin then s.twinTold (reqNum pay 0 1) (reqNum pay 1 1) (bitOf (reqNum pay 2 1) 0)
  else if mTag m = ctrlAbsent then s.ctrlHomeAbsent (mSrc m)
  else s

/-- LNK_CTRL (R481, R484); the layout of the messages is log entry 47. -/
def execLnkCtrl (p : Nat) (m : LnkMsg) (s : State) : Out :=
  attempt (match s.takeMsg p 10 m with
    | none => none
    | some t =>
      let src := mSrc m
      if mTag m = ctrlData then some (t.ctrlDataPart src m.payload)
      else if mTag m = ctrlRequest then s.guestRun t src (m.payload.take 64)
      else if mTag m = ctrlResponse then (if s.serving ∧ !s.updActive then some (t.ctrlAnswer src m.payload) else none)
      else some (t.ctrlNotice m)) s

end Sys2Proof.Machine
end

