-- ==== Sys2Proof/Machine/Tick.lean ====
section
/-!
DEFINITION. Storage errors and the tick. A storage error appears by itself (log entry 10) and is an operand that no
command carries; the tick is what a step does when no command waits.
-/
namespace Sys2Proof.Machine

/-! ## Storage errors -/

/-- A word in error joins the correctable or the uncorrectable words; an uncorrectable word stays so. -/
def addError {α : Type} [DecidableEq α] (x : α) (isUe : Bool) (ce ue : List α) : List α × List α :=
  if x ∈ ue then (ce, ue) else if isUe then (ce.filter (· ≠ x), ue ++ [x]) else if x ∈ ce then (ce, ue) else (ce ++ [x], ue)

/-- An upset of an Inkwell word: of a powered slice alone (R130, R140). -/
def State.upsetInk (s : State) (t row w : Nat) (isUe : Bool) : State :=
  if t < 80 ∧ row < 16384 ∧ w < 16 ∧ s.bit (kTil t 0x208) (8 + row / 2048) then
    let tl := s.tile t
    let p := addError (row, w) isUe tl.inkCe tl.inkUe
    s.setTile t { tl with inkCe := p.1, inkUe := p.2 }
  else s

/-- An upset of an HBM line (R360, R361). -/
def State.upsetHbm (s : State) (line : Nat) (isUe : Bool) : State :=
  if line % 64 = 0 ∧ line < 0x2D00000000 then
    let p := addError line isUe s.mem.ce s.mem.ue
    { s with mem := { s.mem with ce := p.1, ue := p.2 } }
  else s

/-- An upset of a line of a page that no device address maps to: a free spare, or a page that a spare has replaced
(R367). -/
def State.upsetSpare (s : State) (k line : Nat) (isUe : Bool) : State :=
  let st := s.stack k
  let page := line / 64
  let off := if page < 5898240 then SMap.get zeroNat st.map page != 0
    else decide (page < 5898240 + 23040) && st.map.all (fun e => e.2 != page - 5898240 + 1)
  if k < 8 ∧ off then
    let p := addError line isUe st.offCe st.offUe
    s.setStack k { st with offCe := p.1, offUe := p.2 }
  else s

/-- An upset of a Reservoir word of a line that is present (R370). -/
def State.upsetRsv (s : State) (word : Nat) (isUe : Bool) : State :=
  if s.mem.rsv.any (fun e => e.2.any (fun l => l.line == word / 4)) then
    let p := addError word isUe s.mem.rsvCe s.mem.rsvUe
    { s with mem := { s.mem with rsvCe := p.1, rsvUe := p.2 } }
  else s

/-- An upset of a recovery RAM word (R383). -/
def State.upsetRcv (s : State) (word : Nat) (isUe : Bool) : State :=
  if word * 8 < s.boot.rcvSize then
    let p := addError word isUe s.boot.rcvCe s.boot.rcvUe
    { s with boot := { s.boot with rcvCe := p.1, rcvUe := p.2 } }
  else s

/-- An upset of a track-table word (R336). -/
def State.upsetTrack (s : State) (entry w : Nat) (isUe : Bool) : State :=
  if entry < 65536 ∧ w < 8 then
    let p := addError (entry, w) isUe s.ast.ce s.ast.ue
    { s with ast := { s.ast with ce := p.1, ue := p.2 } }
  else s

/-- An HBM byte changed beyond what the outer code sees (R504). -/
def State.upsetSilent (s : State) (addr : Nat) (mask : Byte) : State :=
  if addr < 0x2D00000000 then
    { s with mem := { s.mem with hbm := s.mem.hbm.write addr (s.mem.hbm.read addr ^^^ mask) } }
  else s

def State.upset (s : State) (u : Upset) : State :=
  match u with
  | .ink t row w isUe => s.upsetInk t row w isUe
  | .hbm line isUe => s.upsetHbm line isUe
  | .spare k line isUe => s.upsetSpare k line isUe
  | .rsv word isUe => s.upsetRsv word isUe
  | .rcv word isUe => s.upsetRcv word isUe
  | .track e w isUe => s.upsetTrack e w isUe
  | .silent a m => s.upsetSilent a m

/-! ## ARITH slots (R540 to R542) -/

/-- The bit-reversal of a slot's number over 6 bits. -/
def reverse6 (i : Nat) : Nat := (upTo 6).foldl (fun a b => a + place (b2n (i.testBit b)) (5 - b) 1) 0

/-- Slot `i` of a frame is skipped under a skip count (R540). -/
def slotSkipped (skip i : Nat) : Bool := decide (reverse6 (i % 64) < skip)

/-- One ARITH slot of a die passes: at a frame boundary the die takes the skip count `new` that the power controller has
written to it. -/
def DieClock.passSlot (new : Nat) (c : DieClock) : DieClock :=
  let skip := if c.slot % 64 = 0 then new else c.skip
  { c with skip := skip, slot := (c.slot + 1) % 64, gated := c.gated ++ [slotSkipped skip c.slot] }

/-- Slots of a die in one TIME cycle of 8 ARITH periods: a stretched slot lasts two of them, until 32 slots have passed
without a firing (R541). DESIGN CHOICE (log entry 46): the stretch begins and ends with a TIME cycle. -/
def DieClock.slots (c : DieClock) : Nat := if c.stretch ∧ c.quiet < 32 then 4 else 8

/-- A TIME cycle passes on a die; its stretched slots count in PWR_DROOP_CYC_d. -/
def State.passDie (s : State) (d : Nat) : State :=
  let c := s.die d
  let n := c.slots
  let c1 := (upTo n).foldl (fun x _ => x.passSlot (s.fld (kPwr 4) 0 6)) { c with gated := [] }
  let s := if n = 4 then s.addSat (kPwr (0x208 + 0x10 * d)) 4 else s
  s.setDie d { c1 with quiet := min 32 (c.quiet + n) }

def State.passSlots (s : State) : State := (upTo 4).foldl (fun (s : State) d => s.passDie d) s

/-! ## The tick (R292, R295, R491) -/

/-- One TIME cycle on the clocks: the elapsed count, TIME_NS, the clean-service clock while it runs. -/
def State.advance (s : State) : State :=
  { s with
    elapsed := s.elapsed + 1
    time := s.time + (s.reg (kCam 0x2008)).zeroExtend 88
    fw := { s.fw with clean := if s.inService ∧ !s.fw.cleanStop then s.fw.clean + 1 else s.fw.clean } }

/-- CLK_REFMON at the end of a second, which R295 measures on the elapsed count: a measured value, which nothing
constrains. -/
def State.refmon (s : State) : State :=
  if s.elapsed.toNat % 156250000 ≠ 0 then s
  else { s.setReg (kClk 4) ((Config.freeWord s.freeIx).truncate 32) with freeIx := s.freeIx + 1 }

/-- One TIME cycle passes while no command waits, in the order of R293. A halted device with its root clock only counts,
and one whose clocks stand idles. -/
def State.tick (s : State) : State :=
  if s.awake then
    let u := Config.upset s.freeIx
    let s1 := ({ s with freeIx := s.freeIx + 1 }).takeOffset.advance
    let t := (s1.settleArrivals s.elapsed.toNat).refmon.passSlots.settleAll
    match u with
    | some x => t.upset x
    | none => t
  else if s.boot.phase = .halted ∧ s.bit (kClk 0) 0 then s.advance
  else s

end Sys2Proof.Machine
end

