-- ==== Sys2Proof/Machine/Dispatch.lean ====
section
/-!
DEFINITION. The meaning of every command: one arm per constructor, each one direct call.
-/
namespace Sys2Proof.Machine

/-- The effect of a command on everything but the queue. -/
def exec (i : Instr) (s : State) : Host.Outcome State Fault Refusal :=
  match i with
  | .registerWrite rq key v => Sys2Proof.Machine.execRegisterWrite rq key v s
  | .loReadLatch rq key => Sys2Proof.Machine.execLoReadLatch rq key s
  | .hiRead rq key => Sys2Proof.Machine.execHiRead rq key s
  | .resetNAssert ns => Sys2Proof.Machine.execResetNAssert ns s
  | .resetNRelease env => Sys2Proof.Machine.execResetNRelease env s
  | .firstStage env => Sys2Proof.Machine.execFirstStage env s
  | .stageTimeout => Sys2Proof.Machine.execStageTimeout s
  | .releaseGo rq => Sys2Proof.Machine.execReleaseGo rq s
  | .keyLockSet rq => Sys2Proof.Machine.execKeyLockSet rq s
  | .scrLockSet rq => Sys2Proof.Machine.execScrLockSet rq s
  | .arvRaise rq v => Sys2Proof.Machine.execArvRaise rq v s
  | .folioVerify rq core0 => Sys2Proof.Machine.execFolioVerify rq core0 s
  | .folioVerifyDone folio => Sys2Proof.Machine.execFolioVerifyDone folio s
  | .pipelineBind pipe => Sys2Proof.Machine.execPipelineBind pipe s
  | .droopDetect die => Sys2Proof.Machine.execDroopDetect die s
  | .droopStretchEnd die => Sys2Proof.Machine.execDroopStretchEnd die s
  | .satEnable rq tile n => Sys2Proof.Machine.execSatEnable rq tile n s
  | .satClear rq tile => Sys2Proof.Machine.execSatClear rq tile s
  | .satWindowEnd tile n => Sys2Proof.Machine.execSatWindowEnd tile n s
  | .arrSkipWrite rq tile col v => Sys2Proof.Machine.execArrSkipWrite rq tile col v s
  | .arrCntClear rq tile => Sys2Proof.Machine.execArrCntClear rq tile s
  | .matrixStepStart st => Sys2Proof.Machine.execMatrixStepStart st s
  | .matrixStepComplete st => Sys2Proof.Machine.execMatrixStepComplete st s
  | .inkScrub tile bank => Sys2Proof.Machine.execInkScrub tile bank s
  | .inkScrubForced tile bank => Sys2Proof.Machine.execInkScrubForced tile bank s
  | .inkRemapWrite rq tile v => Sys2Proof.Machine.execInkRemapWrite rq tile v s
  | .inkSlicePowerUp rq tile slice => Sys2Proof.Machine.execInkSlicePowerUp rq tile slice s
  | .inkSliceFillDone tile slice => Sys2Proof.Machine.execInkSliceFillDone tile slice s
  | .inkSlicePowerOff rq tile slice => Sys2Proof.Machine.execInkSlicePowerOff rq tile slice s
  | .inkSlicePowerDown tile slice => Sys2Proof.Machine.execInkSlicePowerDown tile slice s
  | .inkCntClear rq tile => Sys2Proof.Machine.execInkCntClear rq tile s
  | .tileMove logical dst => Sys2Proof.Machine.execTileMove logical dst s
  | .tileMoveDone logical => Sys2Proof.Machine.execTileMoveDone logical s
  | .dmaDescriptorStart st => Sys2Proof.Machine.execDmaDescriptorStart st s
  | .dmaTransferIssue tile queue => Sys2Proof.Machine.execDmaTransferIssue tile queue s
  | .dmaTransferComplete tile xfer => Sys2Proof.Machine.execDmaTransferComplete tile xfer s
  | .dmaDelayedInkWrite tile xfer => Sys2Proof.Machine.execDmaDelayedInkWrite tile xfer s
  | .dmaLimitWrite rq tile queue v => Sys2Proof.Machine.execDmaLimitWrite rq tile queue v s
  | .nibSectionStart tile st kind block => Sys2Proof.Machine.execNibSectionStart tile st kind block s
  | .settleStart tile st row => Sys2Proof.Machine.execSettleStart tile st row s
  | .nibNop tile => Sys2Proof.Machine.execNibNop tile s
  | .nibEnd tile => Sys2Proof.Machine.execNibEnd tile s
  | .nibLoop tile a body => Sys2Proof.Machine.execNibLoop tile a body s
  | .nibAmov tile d imm => Sys2Proof.Machine.execNibAmov tile d imm s
  | .nibAadd tile d a imm => Sys2Proof.Machine.execNibAadd tile d a imm s
  | .nibAaddr tile d a b => Sys2Proof.Machine.execNibAaddr tile d a b s
  | .nibLd tile d a imm => Sys2Proof.Machine.execNibLd tile d a imm s
  | .nibSt tile a b imm => Sys2Proof.Machine.execNibSt tile a b imm s
  | .nibMov tile d a => Sys2Proof.Machine.execNibMov tile d a s
  | .nibBcast tile d imm => Sys2Proof.Machine.execNibBcast tile d imm s
  | .nibLane tile d a c imm => Sys2Proof.Machine.execNibLane tile d a c imm s
  | .nibIns tile d a c imm => Sys2Proof.Machine.execNibIns tile d a c imm s
  | .nibFadd tile d a b => Sys2Proof.Machine.execNibFadd tile d a b s
  | .nibFsub tile d a b => Sys2Proof.Machine.execNibFsub tile d a b s
  | .nibFmul tile d a b => Sys2Proof.Machine.execNibFmul tile d a b s
  | .nibFdiv tile d a b => Sys2Proof.Machine.execNibFdiv tile d a b s
  | .nibFsqrt tile d a => Sys2Proof.Machine.execNibFsqrt tile d a s
  | .nibFmin tile d a b => Sys2Proof.Machine.execNibFmin tile d a b s
  | .nibFmax tile d a b => Sys2Proof.Machine.execNibFmax tile d a b s
  | .nibFabs tile d a => Sys2Proof.Machine.execNibFabs tile d a s
  | .nibFneg tile d a => Sys2Proof.Machine.execNibFneg tile d a s
  | .nibIadd tile d a b => Sys2Proof.Machine.execNibIadd tile d a b s
  | .nibIsub tile d a b => Sys2Proof.Machine.execNibIsub tile d a b s
  | .nibAnd tile d a b => Sys2Proof.Machine.execNibAnd tile d a b s
  | .nibOr tile d a b => Sys2Proof.Machine.execNibOr tile d a b s
  | .nibXor tile d a b => Sys2Proof.Machine.execNibXor tile d a b s
  | .nibShl tile d a sh => Sys2Proof.Machine.execNibShl tile d a sh s
  | .nibSra tile d a sh => Sys2Proof.Machine.execNibSra tile d a sh s
  | .nibFclt tile d a b => Sys2Proof.Machine.execNibFclt tile d a b s
  | .nibFceq tile d a b => Sys2Proof.Machine.execNibFceq tile d a b s
  | .nibSel tile d a b c => Sys2Proof.Machine.execNibSel tile d a b c s
  | .nibUnpk tile d a fmt part => Sys2Proof.Machine.execNibUnpk tile d a fmt part s
  | .nibQnt tile d a b fmt part slot => Sys2Proof.Machine.execNibQnt tile d a b fmt part slot s
  | .nibQscale tile d a b => Sys2Proof.Machine.execNibQscale tile d a b s
  | .nibRamax tile d a => Sys2Proof.Machine.execNibRamax tile d a s
  | .nibRmax tile d a => Sys2Proof.Machine.execNibRmax tile d a s
  | .nibRsum tile d a => Sys2Proof.Machine.execNibRsum tile d a s
  | .nibTbl tile d a part => Sys2Proof.Machine.execNibTbl tile d a part s
  | .nibTblld tile a part imm => Sys2Proof.Machine.execNibTblld tile a part imm s
  | .nibTput tile a b fmt part imm => Sys2Proof.Machine.execNibTput tile a b fmt part imm s
  | .nibTget tile d b fmt part imm => Sys2Proof.Machine.execNibTget tile d b fmt part imm s
  | .nibGrow tile d a b c imm => Sys2Proof.Machine.execNibGrow tile d a b c imm s
  | .nibRstat tile a c imm => Sys2Proof.Machine.execNibRstat tile a c imm s
  | .nibRstget tile d a part imm => Sys2Proof.Machine.execNibRstget tile d a part imm s
  | .rstatContributionReceive tile pipe side msg => Sys2Proof.Machine.execRstatContributionReceive tile pipe side msg s
  | .rstatReleaseReceive tile pipe side msg => Sys2Proof.Machine.execRstatReleaseReceive tile pipe side msg s
  | .nibMemWrite rq tile idx high v => Sys2Proof.Machine.execNibMemWrite rq tile idx high v s
  | .nibCntClear rq tile => Sys2Proof.Machine.execNibCntClear rq tile s
  | .vconvStepStart st => Sys2Proof.Machine.execVconvStepStart st s
  | .vconvStepComplete st => Sys2Proof.Machine.execVconvStepComplete st s
  | .stemStepStart st => Sys2Proof.Machine.execStemStepStart st s
  | .stemStepComplete st => Sys2Proof.Machine.execStemStepComplete st s
  | .stmCntClear rq cluster => Sys2Proof.Machine.execStmCntClear rq cluster s
  | .spectralStepStart st => Sys2Proof.Machine.execSpectralStepStart st s
  | .spectralStepComplete st => Sys2Proof.Machine.execSpectralStepComplete st s
  | .spcCntClear rq die => Sys2Proof.Machine.execSpcCntClear rq die s
  | .signalStepStart st => Sys2Proof.Machine.execSignalStepStart st s
  | .tokenReceive w par => Sys2Proof.Machine.execTokenReceive w par s
  | .creditReceive w par => Sys2Proof.Machine.execCreditReceive w par s
  | .withdrawReceive stage w => Sys2Proof.Machine.execWithdrawReceive stage w s
  | .reportReceive w => Sys2Proof.Machine.execReportReceive w s
  | .epochAdmit pipe => Sys2Proof.Machine.execEpochAdmit pipe s
  | .epochCommit epoch => Sys2Proof.Machine.execEpochCommit epoch s
  | .sourceReceive pipe msg => Sys2Proof.Machine.execSourceReceive pipe msg s
  | .checkpointReceive ckpt => Sys2Proof.Machine.execCheckpointReceive ckpt s
  | .twinDecide pipe epoch stage step => Sys2Proof.Machine.execTwinDecide pipe epoch stage step s
  | .twinTimeout pipe epoch stage step => Sys2Proof.Machine.execTwinTimeout pipe epoch stage step s
  | .bookAudit cluster => Sys2Proof.Machine.execBookAudit cluster s
  | .bookReread cluster => Sys2Proof.Machine.execBookReread cluster s
  | .bookImbalance cluster => Sys2Proof.Machine.execBookImbalance cluster s
  | .bookSnap rq tile => Sys2Proof.Machine.execBookSnap rq tile s
  | .bookRestore cluster => Sys2Proof.Machine.execBookRestore cluster s
  | .csiFrameStart port vc fn hdrCorr => Sys2Proof.Machine.execCsiFrameStart port vc fn hdrCorr s
  | .csiLineReceive port vc dtype payload crcOk hdrCorr hdrLost => Sys2Proof.Machine.execCsiLineReceive port vc dtype payload crcOk hdrCorr hdrLost s
  | .csiFrameEnd port vc fn hdrCorr => Sys2Proof.Machine.execCsiFrameEnd port vc fn hdrCorr s
  | .feTimeout stream => Sys2Proof.Machine.execFeTimeout stream s
  | .streamLost stream => Sys2Proof.Machine.execStreamLost stream s
  | .alignDeadline group => Sys2Proof.Machine.execAlignDeadline group s
  | .alignHoldoffEnd group => Sys2Proof.Machine.execAlignHoldoffEnd group s
  | .irisVisionComplete stream crop => Sys2Proof.Machine.execIrisVisionComplete stream crop s
  | .irisStatsWrite stream => Sys2Proof.Machine.execIrisStatsWrite stream s
  | .irsBankWrite rq stream v => Sys2Proof.Machine.execIrsBankWrite rq stream v s
  | .pipeSpared pipe => Sys2Proof.Machine.execPipeSpared pipe s
  | .ppsEdge => Sys2Proof.Machine.execPpsEdge s
  | .offsetGo rq => Sys2Proof.Machine.execOffsetGo rq s
  | .ppsLost => Sys2Proof.Machine.execPpsLost s
  | .fsyncPulse k => Sys2Proof.Machine.execFsyncPulse k s
  | .fsyncPulseEnd k => Sys2Proof.Machine.execFsyncPulseEnd k s
  | .accessUnitReceive ctx au => Sys2Proof.Machine.execAccessUnitReceive ctx au s
  | .decodeFrameStart core => Sys2Proof.Machine.execDecodeFrameStart core s
  | .decodeFrameComplete core out => Sys2Proof.Machine.execDecodeFrameComplete core out s
  | .decodeBudgetExpire core => Sys2Proof.Machine.execDecodeBudgetExpire core s
  | .decSpared core => Sys2Proof.Machine.execDecSpared core s
  | .scalerOutputWrite => Sys2Proof.Machine.execScalerOutputWrite s
  | .encodeFrameStart session => Sys2Proof.Machine.execEncodeFrameStart session s
  | .encodeFrameDone core => Sys2Proof.Machine.execEncodeFrameDone core s
  | .encSpared core => Sys2Proof.Machine.execEncSpared core s
  | .encRdWrite rq session v => Sys2Proof.Machine.execEncRdWrite rq session v s
  | .asterEpochStart group epoch => Sys2Proof.Machine.execAsterEpochStart group epoch s
  | .asterJobProgram group tile => Sys2Proof.Machine.execAsterJobProgram group tile s
  | .asterCostsReady group => Sys2Proof.Machine.execAsterCostsReady group s
  | .journalCopyDone group => Sys2Proof.Machine.execJournalCopyDone group s
  | .macroSpared mac => Sys2Proof.Machine.execMacroSpared mac s
  | .astTrkDataRead rq => Sys2Proof.Machine.execAstTrkDataRead rq s
  | .astCntClear rq => Sys2Proof.Machine.execAstCntClear rq s
  | .memoryAccess m => Sys2Proof.Machine.execMemoryAccess m s
  | .pageRetireStart stack => Sys2Proof.Machine.execPageRetireStart stack s
  | .pageRetired stack => Sys2Proof.Machine.execPageRetired stack s
  | .retAddGo rq v => Sys2Proof.Machine.execRetAddGo rq v s
  | .hbmPatrolRead stack => Sys2Proof.Machine.execHbmPatrolRead stack s
  | .rgnWrite rq idx which v => Sys2Proof.Machine.execRgnWrite rq idx which v s
  | .rsvPinWrite rq j v => Sys2Proof.Machine.execRsvPinWrite rq j v s
  | .pinFill rq j => Sys2Proof.Machine.execPinFill rq j s
  | .pinFillDone j => Sys2Proof.Machine.execPinFillDone j s
  | .rcvAccess m => Sys2Proof.Machine.execRcvAccess m s
  | .functionLevelReset => Sys2Proof.Machine.execFunctionLevelReset s
  | .bar2Access how off len data => Sys2Proof.Machine.execBar2Access how off len data s
  | .bufEntryWrite b v => Sys2Proof.Machine.execBufEntryWrite b v s
  | .irEnable idx v prod => Sys2Proof.Machine.execIrEnable idx v prod s
  | .irDisable idx v => Sys2Proof.Machine.execIrDisable idx v s
  | .irDrainDone idx => Sys2Proof.Machine.execIrDrainDone idx s
  | .irPoll idx => Sys2Proof.Machine.execIrPoll idx s
  | .irProducerReturn idx prod => Sys2Proof.Machine.execIrProducerReturn idx prod s
  | .irDescriptorReturn idx desc => Sys2Proof.Machine.execIrDescriptorReturn idx desc s
  | .irDataReturn idx data => Sys2Proof.Machine.execIrDataReturn idx data s
  | .rrEnable j v cons => Sys2Proof.Machine.execRrEnable j v cons s
  | .rrDisable j v => Sys2Proof.Machine.execRrDisable j v s
  | .rrEntryWrite j => Sys2Proof.Machine.execRrEntryWrite j s
  | .rrConsumerReread j cons => Sys2Proof.Machine.execRrConsumerReread j cons s
  | .msixModerationExpire j => Sys2Proof.Machine.execMsixModerationExpire j s
  | .msixUnmask vec => Sys2Proof.Machine.execMsixUnmask vec s
  | .heartbeatRead word => Sys2Proof.Machine.execHeartbeatRead word s
  | .hostDetach => Sys2Proof.Machine.execHostDetach s
  | .hostAttach => Sys2Proof.Machine.execHostAttach s
  | .pcieLinkDown => Sys2Proof.Machine.execPcieLinkDown s
  | .pciePerst => Sys2Proof.Machine.execPciePerst s
  | .lnkEnable rq port on => Sys2Proof.Machine.execLnkEnable rq port on s
  | .lnkRetrain rq port => Sys2Proof.Machine.execLnkRetrain rq port s
  | .linkSignalDetect port lanes => Sys2Proof.Machine.execLinkSignalDetect port lanes s
  | .laneCheckDone port badRx badTx => Sys2Proof.Machine.execLaneCheckDone port badRx badTx s
  | .alignDone port rtt => Sys2Proof.Machine.execAlignDone port rtt s
  | .linkStateTimeout port => Sys2Proof.Machine.execLinkStateTimeout port s
  | .paramFlitReceive port p => Sys2Proof.Machine.execParamFlitReceive port p s
  | .linkFailedRetry port => Sys2Proof.Machine.execLinkFailedRetry port s
  | .laneErrorRetrain port => Sys2Proof.Machine.execLaneErrorRetrain port s
  | .linkSignalLost port => Sys2Proof.Machine.execLinkSignalLost port s
  | .flitSend port => Sys2Proof.Machine.execFlitSend port s
  | .flitReceive port flit => Sys2Proof.Machine.execFlitReceive port flit s
  | .lnkRead port msg hostData => Sys2Proof.Machine.execLnkRead port msg hostData s
  | .lnkWrite port msg hostOk => Sys2Proof.Machine.execLnkWrite port msg hostOk s
  | .lnkPush port msg => Sys2Proof.Machine.execLnkPush port msg s
  | .lnkFlow port msg => Sys2Proof.Machine.execLnkFlow port msg s
  | .lnkRstat port msg => Sys2Proof.Machine.execLnkRstat port msg s
  | .lnkCkpt port msg => Sys2Proof.Machine.execLnkCkpt port msg s
  | .lnkSource port msg => Sys2Proof.Machine.execLnkSource port msg s
  | .lnkRdata port msg => Sys2Proof.Machine.execLnkRdata port msg s
  | .lnkWack port msg => Sys2Proof.Machine.execLnkWack port msg s
  | .lnkCtrl port msg => Sys2Proof.Machine.execLnkCtrl port msg s
  | .mbxInfo => Sys2Proof.Machine.execMbxInfo s
  | .mbxAttest data => Sys2Proof.Machine.execMbxAttest data s
  | .mbxCtxCreate data => Sys2Proof.Machine.execMbxCtxCreate data s
  | .mbxCtxDestroy => Sys2Proof.Machine.execMbxCtxDestroy s
  | .mbxFlashErase => Sys2Proof.Machine.execMbxFlashErase s
  | .mbxFlashWrite data => Sys2Proof.Machine.execMbxFlashWrite data s
  | .mbxUpdate data => Sys2Proof.Machine.execMbxUpdate data s
  | .mbxRegRead => Sys2Proof.Machine.execMbxRegRead s
  | .mbxRegWrite => Sys2Proof.Machine.execMbxRegWrite s
  | .mbxMemRead => Sys2Proof.Machine.execMbxMemRead s
  | .mbxMemWrite data => Sys2Proof.Machine.execMbxMemWrite data s
  | .mbxPolicy => Sys2Proof.Machine.execMbxPolicy s
  | .mbxRemoteTimeout => Sys2Proof.Machine.execMbxRemoteTimeout s
  | .updateStop body => Sys2Proof.Machine.execUpdateStop body s
  | .updateRelease => Sys2Proof.Machine.execUpdateRelease s
  | .fwReportAccept rq => Sys2Proof.Machine.execFwReportAccept rq s
  | .fwReportReject rq => Sys2Proof.Machine.execFwReportReject rq s
  | .updateReportTimeout => Sys2Proof.Machine.execUpdateReportTimeout s
  | .updateFallback => Sys2Proof.Machine.execUpdateFallback s
  | .wdtKick rq n => Sys2Proof.Machine.execWdtKick rq n s
  | .wdtExpire n => Sys2Proof.Machine.execWdtExpire n s
  | .coreError n => Sys2Proof.Machine.execCoreError n s
  | .coreTaskMoveDone n => Sys2Proof.Machine.execCoreTaskMoveDone n s
  | .evtRingEnable v cons => Sys2Proof.Machine.execEvtRingEnable v cons s
  | .eventWrite => Sys2Proof.Machine.execEventWrite s
  | .cleanServiceExpire => Sys2Proof.Machine.execCleanServiceExpire s
  | .dinB u => Sys2Proof.Machine.execDinB u s
  | .dinH u => Sys2Proof.Machine.execDinH u s
  | .dinW u => Sys2Proof.Machine.execDinW u s
  | .crcInit u => Sys2Proof.Machine.execCrcInit u s
  | .crcCheck u => Sys2Proof.Machine.execCrcCheck u s
  | .crcScan u => Sys2Proof.Machine.execCrcScan u s
  | .crcScanDone u => Sys2Proof.Machine.execCrcScanDone u s
  | .shaInit e => Sys2Proof.Machine.execShaInit e s
  | .shaScan e => Sys2Proof.Machine.execShaScan e s
  | .shaScanDone e => Sys2Proof.Machine.execShaScanDone e s
  | .weightScrub u folio entry => Sys2Proof.Machine.execWeightScrub u folio entry s
  | .tileTestStart cluster => Sys2Proof.Machine.execTileTestStart cluster s
  | .tileTestEnd cluster r => Sys2Proof.Machine.execTileTestEnd cluster r s
  | .outOfTurnTestStart cluster => Sys2Proof.Machine.execOutOfTurnTestStart cluster s
  | .faultHoldExpire => Sys2Proof.Machine.execFaultHoldExpire s
  | .safetyNop req => Sys2Proof.Machine.execSafetyNop req s
  | .safetyStatus req => Sys2Proof.Machine.execSafetyStatus req s
  | .safetyNext req => Sys2Proof.Machine.execSafetyNext req s
  | .safetyAck req => Sys2Proof.Machine.execSafetyAck req s
  | .faultAckWrite rq seq => Sys2Proof.Machine.execFaultAckWrite rq seq s
  | .aliveWrite rq => Sys2Proof.Machine.execAliveWrite rq s
  | .safeToggleEdge => Sys2Proof.Machine.execSafeToggleEdge s
  | .pmbusPoll readings => Sys2Proof.Machine.execPmbusPoll readings s
  | .sensorConvert idx mdegc => Sys2Proof.Machine.execSensorConvert idx mdegc s
  | .thermalSample => Sys2Proof.Machine.execThermalSample s
  | .pllLockLoss => Sys2Proof.Machine.execPllLockLoss s
  | .phyPllLoss phy => Sys2Proof.Machine.execPhyPllLoss phy s
  | .pciePerstRelease => Sys2Proof.Machine.execPciePerstRelease s
  | .pcieLinkUp => Sys2Proof.Machine.execPcieLinkUp s
  | .supplyRemoval => Sys2Proof.Machine.execSupplyRemoval s
  | .safetyRequestDiscarded frame => Sys2Proof.Machine.execSafetyRequestDiscarded frame s
  | .crcCommandWrite rq key v => Sys2Proof.Machine.execCrcCommandWrite rq key v s
  | .coreRejoin n => Sys2Proof.Machine.execCoreRejoin n s
  | .streamMoveDone pipe => Sys2Proof.Machine.execStreamMoveDone pipe s

end Sys2Proof.Machine
end

