-- ==== Sys2Proof/Safety.lean ====
section
/-!
DEFINITION. What a safe state is: the bounds that the manual sets on the device's stores, and the canonical form of every
byte memory and of the register file.
-/
namespace Sys2Proof.Machine

/-- The state keeps the manual's bounds and its memories their canonical form. -/
structure Inv (s : State) : Prop where
  /-- The event store holds at most 256 events (R480). -/
  events  : s.host.evHeld.length ≤ 256
  /-- At most 64 reports wait for their acknowledgement (R525). -/
  reports : s.safety.reports.length ≤ 64
  /-- At most 16 Blotter entries are held on the die before go (R469). -/
  held    : s.safety.bltHeld.length ≤ 16
  /-- At most 10,000 power samples are kept (R538). -/
  samples : s.power.samples.length ≤ 10000
  /-- HBM, recovery RAM, image SRAM and boot flash are in canonical form. -/
  hbm     : Memory.wf s.mem.hbm = true
  rcv     : Memory.wf s.boot.rcv = true
  sram    : Memory.wf s.boot.sram = true
  nor     : SMap.wf Memory.erased s.boot.nor = true
  /-- The register file is in canonical form. -/
  regs    : SMap.wf regReset s.regs = true

/-- No fuse changes from `s` to `t` but the count of the anti-rollback fuses, and no blown one returns (R462). -/
def fusesKept (s t : State) : Prop :=
  t.fuse = { s.fuse with arv := t.fuse.arv } ∧ s.fuse.arv &&& t.fuse.arv = s.fuse.arv

/-- The section of tile t at its present word issues that word: the device runs, the tile holds the section, the word
at its place is w and is one the Nib executes, and a place follows it (R130, R133). -/
abbrev State.issues (s : State) (t : Nat) (c : Section) (w : B64) : Prop :=
  s.awake = true ∧ t < 80 ∧ (s.tile t).sect = some c ∧ s.nibWord t c.pc = w ∧ nibOk w = true ∧ c.pc < 511

/-- What serving a request of the mailbox leaves, in the order of the manual: a request that fails its check is
answered with its status, one whose buffer the host has yet to return waits, one whose buffer cannot be read is answered
with that failure, one for another device is sent there, and any other is carried out and answered, or waits for its
answer (R482 to R484). -/
def State.mailServed (s : State) (data : Option (List Byte)) (f : MbxFn) : State :=
  let r := s.mbxReq
  let b := s.bufRead r data
  if s.reqStatus r ≠ 0 then s.mbxComplete r s.boot.dev ⟨s.reqStatus r, [], []⟩
  else match b.2 with
    | none => b.1
    | some d =>
      if d.1 ≠ 0 then b.1.mbxComplete r s.boot.dev ⟨d.1, [], []⟩
      else if s.reqAway r then b.1.mbxSend r d.2
      else match (f b.1 r d.2).2 with
        | some res => (f b.1 r d.2).1.mbxComplete r s.boot.dev res
        | none => (f b.1 r d.2).1.mbxWait r

/-- u is s but for registers and the events that are held for the event ring, with the mark that one was lost. -/
def regsEvents (s u : State) : Prop :=
  u = { s with regs := u.regs, host := { s.host with evHeld := u.host.evHeld, evLost := u.host.evLost } }

/-- u is s but for the section that runs on tile t. -/
def onlySection (t : Nat) (s u : State) : Prop :=
  u = { s with tiles := u.tiles } ∧ (∀ j, j ≠ t → u.tile j = s.tile j) ∧
    { u.tile t with sect := none } = { s.tile t with sect := none }

/-- The nib instructions that compute on registers alone (R172), at tile t with given operands. -/
def aluCommands (t d a b c n fmt part slot : Nat) (imm : BitVec 20) (imm32 : B32) : List Instr :=
  [.nibNop t, .nibAmov t d imm32, .nibAadd t d a imm, .nibAaddr t d a b, .nibMov t d a, .nibBcast t d imm32, .nibLane t d a c imm,
   .nibIns t d a c imm, .nibFadd t d a b, .nibFsub t d a b, .nibFmul t d a b, .nibFdiv t d a b, .nibFsqrt t d a, .nibFmin t d a b,
   .nibFmax t d a b, .nibFabs t d a, .nibFneg t d a, .nibIadd t d a b, .nibIsub t d a b, .nibAnd t d a b, .nibOr t d a b,
   .nibXor t d a b, .nibShl t d a n, .nibSra t d a n, .nibFclt t d a b, .nibFceq t d a b, .nibSel t d a b c,
   .nibUnpk t d a fmt part, .nibQnt t d a b fmt part slot, .nibQscale t d a b, .nibRamax t d a, .nibRmax t d a, .nibRsum t d a,
   .nibTput t a b fmt part imm, .nibTget t d b fmt part imm]

end Sys2Proof.Machine
end

