-- ==== Sys2Proof/Certificates/Slice0/Obligations.lean ====
section
/-!
DEFINITION. The statements about this model. The first group are rules of the manual and properties of every state; the second
(the names that end in Complete) say, command by command, in which states exec answers a next state and which one it is.
-/
open Sys2Proof Sys2Proof.Machine

/-- For every state, command and queue: a step of the state whose queue begins with the command is exec of that command on the
state whose queue is the rest. The queue is the model's form of the senders of the manual, one command at a time, first in,
first out (log entry 51). -/
def Obligations.StepRunsFrontCommand : Prop :=
  ∀ (s : State) (c : Instr) (cs : List Instr), step { s with pending := c :: cs } = exec c { s with pending := cs }

/-- For every state with an empty queue a step answers the state after one TIME cycle, its queue still empty. A device that
runs has its elapsed count one higher, and so has a halted one whose root PLL is locked; any other is unchanged. That the
empty queue is a TIME cycle is the choice of the model (log entry 51), and so is the cycle of a halted device (log entry 84). -/
def Obligations.IdleStepIsOneTimeCycle : Prop :=
  ∀ s : State, s.pending = [] →
    step s = .next s.tick ∧ s.tick.pending = [] ∧ (s.awake = true → s.tick.elapsed = s.elapsed + 1) ∧
      (s.boot.phase = .halted → s.bit (kClk 0) 0 = true →
        s.tick.elapsed = s.elapsed + 1 ∧ s.tick.time = s.time + (s.reg (kCam 0x2008)).zeroExtend 88) ∧
      (s.awake = false → (s.boot.phase ≠ .halted ∨ s.bit (kClk 0) 0 = false) → s.tick = s)

/-- For every command and every state exec answers a next state, whose queue is that of the state before. That no command ends
in a fault or a refusal is the choice of the model (log entry 1), and so is the queue (log entry 51). -/
def Obligations.EveryCommandAnswersNext : Prop :=
  ∀ (c : Instr) (s : State), ∃ t, exec c s = .next t ∧ t.pending = s.pending

/-- The invariant Inv holds of the state after reset: the event store, the report queue, the held Blotter entries and the
power samples are within their bounds, and HBM, recovery RAM, image SRAM, boot flash and the register file are in canonical
form. That at most 16 Blotter entries are held is log entry 59. -/
def Obligations.InvAtReset : Prop :=
  Inv State.reset

/-- For every state that meets Inv, a step that answers a next state answers one that meets Inv: at most 256 events are stored
(R480), at most 64 reports wait (R525), at most 16 Blotter entries are held before go (R469; that a seventeenth is dropped is
the choice of the model, log entry 59), at most 10,000 power samples are kept (R538), and every byte memory and the register
file keep their canonical form. -/
def Obligations.InvKeptByEveryStep : Prop :=
  ∀ s t : State, Inv s → step s = .next t → Inv t

/-- For every state, a step that answers a next state keeps every fuse, but for the fuses of the anti-rollback count, of which
each blown one stays blown. Clearing never happens, by reset or by loss of the supply. -/
def Obligations.FusesStayBlown : Prop :=
  ∀ s t : State, step s = .next t → fusesKept s t

/-- For every field value that fits its field, the fields read from the word that encR (or encI) makes are those it was made
from; and every word whose reserved bits are 0 is the word made from the fields read from it. So no bit of an instruction word
is dropped. encR is the form with registers, format, part, slot and a 20-bit immediate, encI the form with a 32-bit immediate. -/
def Obligations.NibWordsRoundTrip : Prop :=
  (∀ (o d a b c f p sl : Nat) (imm : BitVec 20), o < 64 → d < 32 → a < 32 → b < 32 → c < 32 → f < 16 → p < 8 → sl < 4 →
      let n := nibOf (encR o d a b c f p sl imm)
      n.opc = o ∧ n.d = d ∧ n.a = a ∧ n.b = b ∧ n.c = c ∧ n.fmt = f ∧ n.part = p ∧ n.slot = sl ∧ n.imm = imm.toNat) ∧
  (∀ (o d : Nat) (imm : B32), o < 64 → d < 32 →
      let n := nibOf (encI o d imm)
      n.opc = o ∧ n.d = d ∧ n.imm32 = imm) ∧
  (∀ w : B64, bitsOf w.toNat 20 9 = 0 →
      let n := nibOf w
      encR n.opc n.d n.a n.b n.c n.fmt n.part n.slot (BitVec.ofNat 20 n.imm) = w) ∧
  (∀ w : B64, bitsOf w.toNat 32 21 = 0 →
      let n := nibOf w
      encI n.opc n.d n.imm32 = w)

/-- For every running device, physical tile and requester that may write the register: where no logical tile maps to the tile
through TILE_MAP, the write of TIL_ARR_ROWSKIP (col false) or TIL_ARR_COLSKIP (col true) puts the value into the register and
changes nothing else; where some logical tile maps to it, the write leaves the whole state as it is. -/
def Obligations.SkipRegisterWriteRule : Prop :=
  ∀ (s : State) (rq : Requester) (t : Nat) (col : Bool) (v : B32), s.awake = true → t < 80 →
    regAllowed rq true (kTil t (if col then 0x10C else 0x108)) = true →
    ((∀ l, l < 64 → s.physOf l ≠ some t) → exec (.arrSkipWrite rq t col v) s = .next (s.setReg (kTil t (if col then 0x10C else 0x108)) v)) ∧
    (∀ l, l < 64 → s.physOf l = some t → exec (.arrSkipWrite rq t col v) s = .next s)

/-- For every running device and every plain write of one or more whole, aligned 64-byte lines of HBM that the checks permit
and no page copy delays, to stacks whose PHY PLL is locked: exec answers a next state with status OK, in which no line of the
write is uncorrectable or awaits correction, and each byte of the range reads as the byte written. -/
def Obligations.WholeLineWriteMendsLines : Prop :=
  ∀ (s : State) (a : Access), s.awake = true → a.write = true → a.addr % 64 = 0 → a.data.length % 64 = 0 →
    0 < a.data.length → a.addr + a.data.length ≤ hbmTop → s.pageBusy a.addr a.data.length = false →
    s.verdict a.rq true a.addr a.data.length = none →
    (∀ l, l ∈ linesOf a.addr a.data.length → s.stackUp (stackOf l) = true) →
    ∃ t, exec (.memoryAccess (.plain a)) s = .next t ∧ t.mem.last = 0 ∧
      (∀ l, l % 64 = 0 → a.addr ≤ l → l < a.addr + a.data.length → l ∉ t.mem.ue ∧ l ∉ t.mem.ce) ∧
      (∀ i (hi : i < a.data.length), t.mem.hbm.read (a.addr + i) = a.data[i])

/-- On a running device a poll of the rails completes and adds the sample P, the sum over the enabled rails, to the 64-bit
PWR_ENERGY modulo 2^64; with no rail enabled there is no sample and PWR_ENERGY stays. An assertion of RESET_n of 10,000 ns or
more, on a device that has not tripped, leaves PWR_ENERGY at 0. -/
def Obligations.PowerSampleAddsToEnergy : Prop :=
  (∀ (s : State) (xs : List (Option PmbusRead × Option PmbusRead)), s.awake = true →
    ∃ t, exec (.pmbusPoll xs) s = .next t ∧
      t.reg64 (kPwr 0x10) =
        if s.rails = [] then s.reg64 (kPwr 0x10) else s.reg64 (kPwr 0x10) + BitVec.ofInt 64 (s.pollRails xs).2) ∧
  (∀ (s : State) (ns : Nat), 10000 ≤ ns → s.boot.phase ≠ .tripped →
    ∃ t, exec (.resetNAssert ns) s = .next t ∧ t.reg64 (kPwr 0x10) = 0)

/-- On a running device a TIME cycle adds to TIME_NS with its 24 fraction bits (the 88-bit count) the signed CAM_TIME_OFS in
whole ns where offset_go was written, and then CAM_TIME_INC, whatever else the cycle does. CAM_TIME_INC is 0x0666_6666 after
reset, and a permitted register write puts its value there and changes nothing else. That a step with an empty queue is the
TIME cycle is the choice of the model (log entry 51). -/
def Obligations.TimeGainsIncrementEachCycle : Prop :=
  (∀ s : State, s.awake = true →
    s.tick.time = s.time + (if s.bit (kCam 0x200C) 2 then s.reg64 (kCam 0x2010) ++ (0 : BitVec 24) else 0) +
      (s.reg (kCam 0x2008)).zeroExtend 88) ∧
  State.reset.reg (kCam 0x2008) = 0x06666666 ∧
  (∀ (s : State) (rq : Requester) (v : B32), s.awake = true → regAllowed rq true (kCam 0x2008) = true →
    exec (.registerWrite rq (kCam 0x2008) v) s = .next (s.setReg (kCam 0x2008) v))

/-- An assertion of RESET_n of 10,000 ns or more, on a device that has not tripped, completes in a state that is held in
reset: the retirement map, the correctable-error tracker and the retirement queue of every stack are empty, and every register
holds its reset value. HBM, the boot flash, the recovery RAM and the fuses are as before. That the tracker and the retirement
queue are emptied with the map is log entry 82; that HBM outlives RESET_n is the choice of the model (log entry 7). -/
def Obligations.ResetClearsRetirementAndRegisters : Prop :=
  ∀ (s : State) (ns : Nat), 10000 ≤ ns → s.boot.phase ≠ .tripped →
    ∃ t, exec (.resetNAssert ns) s = .next t ∧ t.boot.phase = .held ∧
      (∀ k, (t.stack k).map = [] ∧ (t.stack k).track = [] ∧ (t.stack k).queue = []) ∧
      (∀ k, t.reg k = regReset k) ∧
      t.mem.hbm = s.mem.hbm ∧ t.boot.nor = s.boot.nor ∧ t.boot.rcv = s.boot.rcv ∧ t.fuse = s.fuse

/-- After reset the device is held in reset with no command waiting and nothing listed in HBM, and these registers hold the
values of the manual: CAM_TIME_INC, MEM_RET_CFG, MEM_SCRUB, the configuration and the polynomial of CRC unit 3, TIL_SAT_WIN_0
and TIL_SAT_THR_5 of tile 79, TIL_INK_ROWS of tile 0, IR_CFG of ring 255 and the fraction of device time. That nothing is
listed in HBM at reset is the choice of the model (log entry 7). -/
def Obligations.ResetValuesOfTheManual : Prop :=
  State.reset.pending = [] ∧ State.reset.boot.phase = .held ∧ State.reset.mem.hbm = [] ∧ State.reset.time = 0 ∧
  State.reset.reg (kCam 0x2008) = 0x06666666 ∧ State.reset.reg (kMem 0x2100) = 0x10 ∧ State.reset.reg (kMem 0x2108) = 0x08 ∧
  State.reset.reg (kChk 0x300) = 0x1FF ∧ State.reset.reg (kChk 0x308) = 0xA9EA3693 ∧ State.reset.reg (kChk 0x30C) = 0x42F0E1EB ∧
  State.reset.reg (kTil 79 0x410) = 1000000 ∧ State.reset.reg (kTil 79 0x444) = 0xFFFFFFFF ∧
  State.reset.reg (kTil 0 0x200) = 16384 ∧ State.reset.reg (kIr 255 8) = 0x000A0000

/-- For every running device, requester and register whose write the requester is refused: exec answers a next state that
differs from the one before at most in registers and in the held events with the mark of a lost one, and of the registers at
most in MEM_VIOL_ADDR, MEM_VIOL_INFO, MEM_VIOL_CNT and the count of lost events. In particular the register itself keeps its
value where it is none of these. -/
def Obligations.RefusedRegisterWriteOnlyLogs : Prop :=
  ∀ (s : State) (rq : Requester) (k : Nat) (v : B32), s.awake = true → k % 4 = 0 → regAllowed rq true k = false →
    ∃ t, exec (.registerWrite rq k v) s = .next t ∧ regsEvents s t ∧
      (∀ j, j ≠ kMem 0x1000 → j ≠ kMem 0x1004 → j ≠ kMem 0x1008 → j ≠ kMem 0x100C → j ≠ kQcx 0x324 → t.reg j = s.reg j)

/-- For every plain write whose range lies in HBM, whether it is performed, refused or turned away: every address outside the
range reads as before in the next state. -/
def Obligations.PlainWriteFrame : Prop :=
  ∀ (s t : State) (a : Access), a.write = true → a.addr + a.data.length ≤ hbmTop →
    exec (.memoryAccess (.plain a)) s = .next t →
    ∀ c, (c < a.addr ∨ a.addr + a.data.length ≤ c) → t.mem.hbm.read c = s.mem.hbm.read c

/-- For every plain read of at least one byte whose range lies in HBM, the contents of HBM are the same in the next state,
whatever corrections, retirements, events and Reservoir changes it brings. -/
def Obligations.PlainReadFrame : Prop :=
  ∀ (s t : State) (a : Access), a.write = false → a.addr + a.len ≤ hbmTop → 0 < a.len →
    exec (.memoryAccess (.plain a)) s = .next t → t.mem.hbm = s.mem.hbm

/-- For every running device and every plain read of HBM that the checks permit, that no page copy delays, from stacks whose
PHY PLL is locked, and whose range meets no uncorrectable line and no uncorrectable Reservoir word: exec answers a next state
with status OK, the data are the bytes HBM holds, and HBM is unchanged. Correctable lines and Reservoir hits change neither. -/
def Obligations.PlainReadDeliversStoredBytes : Prop :=
  ∀ (s : State) (a : Access), s.awake = true → a.write = false → 0 < a.len → a.addr + a.len ≤ hbmTop →
    s.pageBusy a.addr a.len = false → s.verdict a.rq false a.addr a.len = none →
    (∀ l, l ∈ linesOf a.addr a.len → s.stackUp (stackOf l) = true) →
    (∀ l, l ∈ linesOf a.addr a.len → l ∉ s.mem.ue) →
    (∀ l, l ∈ linesOf a.addr a.len → ∀ w, w ∈ touched a.addr (a.addr + a.len) l → w ∉ s.mem.rsvUe) →
    ∃ t, exec (.memoryAccess (.plain a)) s = .next t ∧ t.mem.last = 0 ∧
      t.mem.data = s.mem.hbm.readBytes a.addr a.len ∧ t.mem.hbm = s.mem.hbm

/-- For the 35 nib instructions that touch neither Inkwell nor messages (the list of aluCommands, with every operand at every
value): at a tile whose section stands at a valid word before the last, the next state is the state before but for the section
of that tile. No register, no memory, no other tile, no Inkwell row, no event and no counter changes. -/
def Obligations.NibComputationFrame : Prop :=
  ∀ (s u : State) (t d a b c n fmt part slot : Nat) (imm : BitVec 20) (imm32 : B32) (k : Section) (i : Instr),
    (s.tile t).sect = some k → nibOk (s.nibWord t k.pc) = true → k.pc < 511 →
    i ∈ aluCommands t d a b c n fmt part slot imm imm32 → exec i s = .next u → onlySection t s u

/-- Every address maps to a stack below 8 and to a stack-local address from which the device-local address is recovered, and
every pair of a stack below 8 and a stack-local address comes back from the device-local address made of it. So no two HBM
addresses share a stack-local byte. -/
def Obligations.AddressInterleaveRoundTrip : Prop :=
  (∀ a, stackOf a < 8 ∧ deviceAddr (stackOf a) (stackLocal a) = a) ∧
  (∀ k l, k < 8 → stackOf (deviceAddr k l) = k ∧ stackLocal (deviceAddr k l) = l)

/-- For all FP32 values: with a NaN operand the sum, difference, product, quotient, minimum and maximum are 0x7FC0_0000,
whatever its sign and payload; sums and products do not depend on the order of their operands; and for every finite x, x - x
and x + (-x) are +0. -/
def Obligations.FloatNanCommuteCancel : Prop :=
  (∀ x y : B32, fpIsNan x = true ∨ fpIsNan y = true →
    fpAdd x y = 0x7FC00000 ∧ fpSub x y = 0x7FC00000 ∧ fpMul x y = 0x7FC00000 ∧
    fpDiv x y = 0x7FC00000 ∧ fpMin x y = 0x7FC00000 ∧ fpMax x y = 0x7FC00000) ∧
  (∀ x y : B32, fpAdd x y = fpAdd y x ∧ fpMul x y = fpMul y x) ∧
  (∀ x : B32, fpIsFin x = true → fpSub x x = 0 ∧ fpAdd x (fpNeg x) = 0)

/-- For the nine bytes 0x31 to 0x39 the link CRC-32, the CRC-64 of the signature set, the same polynomial plain, the 16-bit
set and the 5-bit set give the values of the worked example. -/
def Obligations.CrcCheckValues : Prop :=
  let m : List Byte := [0x31, 0x32, 0x33, 0x34, 0x35, 0x36, 0x37, 0x38, 0x39]
  crc32 m = 0xCBF43926 ∧ crc64 m = 0x995DC9BBDF1939FA ∧
  crcResult 64 false false (crcFold 64 0x42F0E1EBA9EA3693 false 0 m) = 0x6C40DF5F0B497347 ∧
  crc16 m = 0x29B1 ∧ crcResult 5 true true (crcFold 5 0x05 true 0x1F m) = 0x19

/-- RESET_n, supply removal, the release sequence with its checks of ROM, PLL and fuses, the first stage (a halt with its
code, or the slot that boots), the stage time limit, go and the loss of the root PLL. In every state and for all operands that
meet the conditions of a clause, exec answers a next state, and it is the one the clause writes: the effect that the rules
give the command, in the model's named operations, and everything else as before. The clauses are for RESET_N_ASSERT,
SUPPLY_REMOVAL, RESET_N_RELEASE, FIRST_STAGE, STAGE_TIMEOUT, RELEASE_GO, PLL_LOCK_LOSS. Where the manual leaves a point open
the clauses rest on the choice of the model in log entries 3, 7, 9, 85, 135, 150. -/
def Obligations.BootAndResetComplete : Prop :=
  -- RESET_N_ASSERT
  (∀ (s : State) (ns : Nat), 10000 ≤ ns → s.boot.phase ≠ .tripped → 
      exec (.resetNAssert ns) s =
        .next (s.powerOn true)) ∧
  -- SUPPLY_REMOVAL
  (∀ (s : State), 
      exec .supplyRemoval s =
        .next (s.powerOn false)) ∧
  -- RESET_N_RELEASE
  (∀ (s : State) (env : ReleaseEnv), s.boot.phase = .held → env.romOk = true → env.pllLocks = true →
      env.fuseOk = true → (((({ s with elapsed := 0, boot := { s.boot with phase := .rom, releasedAt := 0 } } : State).setBit (kTrs 0) 2 (goldenLow env.golden)).setBit (kClk 0) 0 true).loadFuses).fuse.coresOk ≠ 0 → 
      exec (.resetNRelease env) s =
        .next (((({ s with elapsed := 0, boot := { s.boot with phase := .rom, releasedAt := 0 } } : State).setBit (kTrs 0) 2 (goldenLow env.golden)).setBit (kClk 0) 0 true).loadFuses)) ∧
  -- RESET_N_RELEASE
  (∀ (s : State) (env : ReleaseEnv), s.boot.phase = .held → env.romOk = false → 
      exec (.resetNRelease env) s =
        .next ((({ s with elapsed := 0, boot := { s.boot with phase := .rom, releasedAt := 0 } } : State).setBit (kTrs 0) 2 (goldenLow env.golden)).halt 1)) ∧
  -- RESET_N_RELEASE
  (∀ (s : State) (env : ReleaseEnv), s.boot.phase = .held → env.romOk = true → env.pllLocks = false →
      exec (.resetNRelease env) s =
        .next ((({ s with elapsed := 0, boot := { s.boot with phase := .rom, releasedAt := 0 } } : State).setBit (kTrs 0) 2 (goldenLow env.golden)).halt 2)) ∧
  -- RESET_N_RELEASE
  (∀ (s : State) (env : ReleaseEnv), s.boot.phase = .held → env.romOk = true → env.pllLocks = true →
      env.fuseOk = false → 
      exec (.resetNRelease env) s =
        .next (((({ s with elapsed := 0, boot := { s.boot with phase := .rom, releasedAt := 0 } } : State).setBit (kTrs 0) 2 (goldenLow env.golden)).setBit (kClk 0) 0 true).halt 3)) ∧
  -- FIRST_STAGE
  (∀ (s : State) (env : BootEnv) (n : Nat), s.boot.phase = .rom → s.stageHalt env = some n → 
      exec (.firstStage env) s =
        .next (s.halt n)) ∧
  -- FIRST_STAGE
  (∀ (s : State) (env : BootEnv), s.boot.phase = .rom → s.stageHalt env = none → 
      exec (.firstStage env) s =
        .next (
        let s1 := s.inventory env
        let heads := [s1.slotHead 0 env.readA env.copyA, s1.slotHead 1 env.readB env.copyB]
        let s2 := heads.foldl (fun (u : State) h => if h.cause = 0
          then u.setReg (kTrs (4 + 4 * h.slot)) (BitVec.ofNat 32 h.seq) else u.slotCause h.slot h.cause) s1
        let order := slotOrder (s2.bit (kTrs 0) 2) heads
        let s3 := s2.setBit (kTrs 0) 3 order.2
        let k := (s3.imageKey).map (·.take 32)
        let s4 : State := { s3 with boot := { s3.boot with kImg := k.elim 0 (fun b => BitVec.ofNat 256 (bytesToNat b)) } }
        let r := s4.trySlots k order.1 0 (s1.slotHead 1 env.readB env.copyB).cause
        match r.2 with
        | .ok (h, i, l) => r.1.handOver h i l
        | .error x => r.1.halt (0x20 + x))) ∧
  -- STAGE_TIMEOUT
  (∀ (s : State), s.boot.phase = .rom ∨ s.boot.phase = .ready → msTicks 30000 ≤ s.elapsed.toNat → 
      exec .stageTimeout s =
        .next (s.halt 0x3F)) ∧
  -- RELEASE_GO
  (∀ (s : State) (rq : Requester), s.boot.phase = .ready → regAllowed rq true (kTrs 0x14) = true → 
      exec (.releaseGo rq) s =
        .next (s.byCode s.releaseGo)) ∧
  -- PLL_LOCK_LOSS
  (∀ (s : State), s.awake = true → 
      exec .pllLockLoss s =
        .next ((s.setBit (kClk 0) 0 false).halt 2))

/-- The two lock bits, the raise of the anti-rollback count, plain register writes and latched reads, the start and the end of
a folio verification and the binding of a pipeline. In every state and for all operands that meet the conditions of a clause,
exec answers a next state, and it is the one the clause writes: the effect that the rules give the command, in the model's
named operations, and everything else as before. The clauses are for KEY_LOCK_SET, SCR_LOCK_SET, ARV_RAISE, REGISTER_WRITE,
LO_READ_LATCH, HI_READ, FOLIO_VERIFY, FOLIO_VERIFY_DONE, PIPELINE_BIND. Where the manual leaves a point open the clauses rest
on the choice of the model in log entries 4, 50, 77, 137. -/
def Obligations.TrustAndRegisterCommandsComplete : Prop :=
  -- KEY_LOCK_SET
  (∀ (s : State) (rq : Requester), s.awake = true → regAllowed rq true (kTrs 0x10) = true → 
      exec (.keyLockSet rq) s =
        .next ({ s.setBit (kTrs 0x10) 0 true with boot := { s.boot with kImg := 0 } })) ∧
  -- SCR_LOCK_SET
  (∀ (s : State) (rq : Requester), s.awake = true → regAllowed rq true (kTrs 0x20) = true → 
      exec (.scrLockSet rq) s =
        .next (s.setBit (kTrs 0x20) 0 true)) ∧
  -- ARV_RAISE
  (∀ (s : State) (rq : Requester) (v : Nat), s.awake = true → regAllowed rq true (kTrs 0xC) = true → 
      exec (.arvRaise rq v) s =
        .next (s.raiseArv (v % 128))) ∧
  -- REGISTER_WRITE
  (∀ (s : State) (rq : Requester) (key : Nat) (v : B32), s.awake = true → key % 4 = 0 → regAllowed rq true (key) = true →
      exec (.registerWrite rq key v) s =
        .next (s.writeReg rq key v)) ∧
  -- LO_READ_LATCH
  (∀ (s : State) (rq : Requester) (key : Nat), s.awake = true → isLo key = true → regAllowed rq false key = true →
      exec (.loReadLatch rq key) s =
        .next ({ (s.readReg rq key).1 with readback := (s.readReg rq key).2 })) ∧
  -- HI_READ
  (∀ (s : State) (rq : Requester) (key : Nat), s.awake = true → isHi key = true → regAllowed rq false key = true →
      exec (.hiRead rq key) s =
        .next ({ (s.readReg rq key).1 with readback := (s.readReg rq key).2 })) ∧
  -- FOLIO_VERIFY
  (∀ (s : State) (rq : Requester) (e : Nat) (f : FolioRec), s.serving = true → s.updActive = false → regAllowed rq true (kTrs 0x104) = true →
      s.bit (kTrs 0x104) 0 = false → s.boot.scroll.folios[s.fld (kTrs 0x100) 0 5]? = some f → (upTo 4).find? (fun e => s.engineFree e) = some e →
      s.folioState (s.fld (kTrs 0x100) 0 5) = 1 → 
      exec (.folioVerify rq none) s =
        .next (
        let i := s.fld (kTrs 0x100) 0 5
        (((s.setFolio i { f with engine := some e, secure := false }).lockFolio i f).setReg (kTrs (0x200 + 4 * i)) 2).setBit (kTrs 0x104) 0 true)) ∧
  -- FOLIO_VERIFY
  (∀ (s : State) (i e : Nat) (f : FolioRec), s.serving = true → s.updActive = false → s.boot.scroll.folios[i]? = some f →
      f.flash.isSome = true → s.folioState i = 1 → s.pageBusy f.load f.length = false →
      (s.copyFolio f).boot.scroll.folios[i]? = some f → (upTo 4).find? (fun e => (s.copyFolio f).engineFree e) = some e → (s.copyFolio f).folioState i = 1 →
      exec (.folioVerify rqCore0 (some i)) s =
        .next ((((s.copyFolio f).setFolio i { f with engine := some e, secure := true }).lockFolio i f).setReg (kTrs (0x200 + 4 * i)) 2)) ∧
  -- FOLIO_VERIFY_DONE
  (∀ (s : State) (i e : Nat) (f : FolioRec), s.boot.scroll.folios[i]? = some f → f.engine = some e → s.serving = true →
      s.pageBusy f.load f.length = false → 
      exec (.folioVerifyDone i) s =
        .next (
        let r := s.folioCheck i e f
        let s1 := r.1.setFolio i { f with engine := none }
        let s2 := if f.secure then s1 else s1.setBit (kTrs 0x104) 0 false
        s2.byCode (if r.2 = 0 then ((s2.setReg (kTrs (0x200 + 4 * i)) 3).raise 0x0302 (mkParam [(0, i)])).tryService
        else (s2.setReg (kTrs (0x200 + 4 * i)) (BitVec.ofNat 32 (4 + 256 * r.2))).raise 0x0303 (mkParam [(0, i), (8, r.2)])))) ∧
  -- PIPELINE_BIND
  (∀ (s : State) (pipe : Nat) (b : PipeBind), (s.pipe pipe).bind = some b → s.serving = true → s.updActive = false →
      (s.pipe pipe).named = true → (s.pipe pipe).bound = false → s.folioState b.folio = 3 →
      s.twinReady (s.pipe pipe) b = true → s.bindWaits pipe (s.folioOf (s.pipe pipe)) = false → (s.memReads rqCore0 none (s.folioOf (s.pipe pipe)).bindSpans).2 = 0 →
      exec (.pipelineBind pipe) s =
        .next (
        let u := (s.memReads rqCore0 none (s.folioOf (s.pipe pipe)).bindSpans).1
        match (s.folioOf (s.pipe pipe)).parse with
        | some (g, l) =>
          let v := s.folioOf (s.pipe pipe)
          let p := { s.pipe pipe with bound := true, stages := l, edges := g.edges, bufs := g.bufs, layers := v.layers
                                      splits := splitParts g l v.layers }
          if (u.setPipe pipe p).bindOk pipe p b (v.num 18 1)
          then (u.setPipe pipe p).bindPipe pipe p b else u.refusePipe pipe (s.pipe pipe) b
        | none => u.refusePipe pipe (s.pipe pipe) b))

/-- Droop detection and its end, the poll of the PMBus rails, sensor conversions, the thermal sample and the loss of a PHY
PLL. In every state and for all operands that meet the conditions of a clause, exec answers a next state, and it is the one
the clause writes: the effect that the rules give the command, in the model's named operations, and everything else as before.
The clauses are for DROOP_DETECT, DROOP_STRETCH_END, PMBUS_POLL, SENSOR_CONVERT, THERMAL_SAMPLE, PHY_PLL_LOSS. Where the
manual leaves a point open the clauses rest on the choice of the model in log entries 5, 46, 95, 96, 97, 149. -/
def Obligations.PowerAndDroopCommandsComplete : Prop :=
  -- DROOP_DETECT
  (∀ (s : State) (x : DroopSample), s.awake = true → x.die < 4 → 0 < s.droopFires x →
      exec (.droopDetect x) s =
        .next ((s.addSat (kPwr (0x204 + 0x10 * x.die)) (s.droopFires x)).setDie x.die
        { s.die x.die with stretch := true, quiet := 0 })) ∧
  -- DROOP_STRETCH_END
  (∀ (s : State) (d : Nat), s.awake = true → d < 4 → (s.die d).stretch = true →
      32 ≤ (s.die d).quiet → 
      exec (.droopStretchEnd d) s =
        .next (s.setDie d { s.die d with stretch := false })) ∧
  -- PMBUS_POLL
  (∀ (s : State) (xs : List (Option PmbusRead × Option PmbusRead)), s.awake = true → s.rails.isEmpty = false → 
      exec (.pmbusPoll xs) s =
        .next (
        let r := s.pollRails xs
        let s1 : State := { r.1 with power := { r.1.power with samples := (r.2 :: r.1.power.samples).take 10000, bus := s.pmbusRound xs } }
        let s2 := (s1.setReg (kPwr 8) (BitVec.ofInt 32 r.2)).setReg64 (kPwr 0x10) (s1.reg64 (kPwr 0x10) + BitVec.ofInt 64 r.2)
        (s2.setReg (kPwr 0xC) (BitVec.ofInt 32 s2.avgMw)).capDecide r.2)) ∧
  -- PMBUS_POLL
  (∀ (s : State) (xs : List (Option PmbusRead × Option PmbusRead)), s.awake = true → s.rails.isEmpty = true → 
      exec (.pmbusPoll xs) s =
        .next (s.moveSkipP 0)) ∧
  -- SENSOR_CONVERT
  (∀ (s : State) (i : Nat) (m : Int), s.awake = true → i < 64 → 
      exec (.sensorConvert i m) s =
        .next (
        let hot := decide (tripDegrees ≤ m)
        let s1 := s.setSensor i { s.sensor i with last := m, hot := hot }
        if hot ∧ (s.sensor i).hot ∧ s.sensorUsed i then s1.thermTrip else s1)) ∧
  -- THERMAL_SAMPLE
  (∀ (s : State), s.awake = true → 
      exec .thermalSample s =
        .next (
        let s1 := (upTo 64).foldl (fun (u : State) i => u.setReg (kPwr (0x400 + 4 * i)) (BitVec.ofInt 32 (u.sensor i).last)) s
        let s2 := (upTo 32).foldl (fun (u : State) p => u.pairCheck p) s1
        let s3 := s2.badSensors.foldl (fun (u : State) i => u.dropSensor i) s2
        match s3.hottest with
        | some (p, t) => s3.thermalDecide p t
        | none => s3)) ∧
  -- PHY_PLL_LOSS
  (∀ (s : State), s.awake = true → 
      exec (.phyPllLoss .pcie) s =
        .next (if s.host.link then (s.setBit (kClk 0) 1 false).linkDown else s.setBit (kClk 0) 1 false)) ∧
  -- PHY_PLL_LOSS
  (∀ (s : State) (p : Nat), s.awake = true → p < 6 → 
      exec (.phyPllLoss (.orrek p)) s =
        .next (
        let open_ := s.portOpen p || s.lnkState p == lsLaneCheck || s.lnkState p == lsAlign || s.lnkState p == lsParam
        let s1 := s.setBit (kClk 0) (2 + p) false
        if open_ then s1.portDown p lsFailed 3 else s1)) ∧
  -- PHY_PLL_LOSS
  (∀ (s : State) (p : Nat), s.awake = true → p < 8 → 
      exec (.phyPllLoss (.csi p)) s =
        .next (s.setBit (kClk 0) (8 + p) false)) ∧
  -- PHY_PLL_LOSS
  (∀ (s : State) (k : Nat), s.awake = true → k < 8 → 
      exec (.phyPllLoss (.hbm k)) s =
        .next (s.setBit (kClk 0) (16 + k) false))

/-- Enabling, clearing and the window end of the saturation counters, the skip registers, the clear of the array counters and
the start of matrix and vector-convolution steps. In every state and for all operands that meet the conditions of a clause,
exec answers a next state, and it is the one the clause writes: the effect that the rules give the command, in the model's
named operations, and everything else as before. The clauses are for SAT_ENABLE, SAT_CLEAR, SAT_WINDOW_END, ARR_SKIP_WRITE,
ARR_CNT_CLEAR, MATRIX_STEP_START, VCONV_STEP_START. Where the manual leaves a point open the clauses rest on the choice of the
model in log entry 6. -/
def Obligations.ArrayCommandsComplete : Prop :=
  -- SAT_ENABLE
  (∀ (s : State) (rq : Requester) (t n : Nat), s.awake = true → t < 80 → n < 6 →
      s.bit (kTil t 0x400) n = false → regAllowed rq true (kTil t 0x400) = true → 
      exec (.satEnable rq t n) s =
        .next ((s.setBit (kTil t 0x400) n true).satWindow t n s.quarters)) ∧
  -- SAT_CLEAR
  (∀ (s : State) (rq : Requester) (t : Nat), s.awake = true → t < 80 → regAllowed rq true (kTil t 0x400) = true →
      exec (.satClear rq t) s =
        .next (s.satClear t)) ∧
  -- SAT_WINDOW_END
  (∀ (s : State) (t n e : Nat), s.awake = true → t < 80 → n < 6 →
      s.satEnd t n = some e → s.satDue t n = true → 
      exec (.satWindowEnd t n) s =
        .next (s.satWindow t n e)) ∧
  -- ARR_SKIP_WRITE
  (∀ (s : State) (rq : Requester) (t : Nat) (col : Bool) (v : B32), s.awake = true → t < 80 → (s.logicalOf t).isSome = false →
      regAllowed rq true (kTil t (if col then 0x10C else 0x108)) = true → 
      exec (.arrSkipWrite rq t col v) s =
        .next (s.setReg (kTil t (if col then 0x10C else 0x108)) v)) ∧
  -- ARR_SKIP_WRITE
  (∀ (s : State) (rq : Requester) (t : Nat) (col : Bool) (v : B32), s.awake = true → t < 80 → (s.logicalOf t).isSome = true →
      regAllowed rq true (kTil t (if col then 0x10C else 0x108)) = true → 
      exec (.arrSkipWrite rq t col v) s =
        .next (s)) ∧
  -- ARR_CNT_CLEAR
  (∀ (s : State) (rq : Requester) (t : Nat), s.awake = true → t < 80 → regAllowed rq true (kTil t 0x104) = true →
      exec (.arrCntClear rq t) s =
        .next (s.clearRegs (kTil t 0x120) 7)) ∧
  -- MATRIX_STEP_START
  (∀ (s : State) (st : StepRef) (t : Nat) (p : Pipe) (sg : Stage) (sp : Step), s.tileStep st kMatrix = some (t, p, sg, sp) → (s.tile t).arrayBusy .matrix = false → s.windowFilling t sg = false →
      s.skips st = false → checkMatrix sp.desc sg.inkRow sg.inkRows = none → 
      exec (.matrixStepStart ⟨st, false⟩) s =
        .next (((s.beginStep st).markCold st).startRun t ⟨st, .matrix, sp.desc, sp.bind, (geoOf sp.desc).nb, (geoOf sp.desc).m, [], [], [], [], 0, []⟩)) ∧
  -- VCONV_STEP_START
  (∀ (s : State) (st : StepRef) (t : Nat) (p : Pipe) (sg : Stage) (sp : Step), s.tileStep st kVconv = some (t, p, sg, sp) → (s.tile t).arrayBusy .vconv = false → s.windowFilling t sg = false →
      s.skips st = false → checkVconv sp.desc sg.inkRow sg.inkRows = none → 
      exec (.vconvStepStart ⟨st, false⟩) s =
        .next (((s.beginStep st).markCold st).startRun t ⟨st, .vconv, sp.desc, sp.bind, (vgeoOf sp.desc).nb, (vgeoOf sp.desc).m, [], [], [], [], 0, []⟩)) ∧
  -- MATRIX_STEP_START
  (∀ (s : State) (st : StepRef) (b : Bool) (t : Nat) (p : Pipe) (sg : Stage) (sp : Step), s.tileStep st kMatrix = some (t, p, sg, sp) → s.skips st = true → 
      exec (.matrixStepStart ⟨st, b⟩) s =
        .next (((s.beginStep st).finishStep st))) ∧
  -- VCONV_STEP_START
  (∀ (s : State) (st : StepRef) (b : Bool) (t : Nat) (p : Pipe) (sg : Stage) (sp : Step), s.tileStep st kVconv = some (t, p, sg, sp) → s.skips st = true → 
      exec (.vconvStepStart ⟨st, b⟩) s =
        .next (((s.beginStep st).finishStep st)))

/-- The completion of a matrix step and of a VCONV step that holds the tile. In every state and for all operands that meet the
conditions of a clause, exec answers a next state, and it is the one the clause writes: the effect that the rules give the
command, in the model's named operations, and everything else as before. The clauses are for MATRIX_STEP_COMPLETE,
VCONV_STEP_COMPLETE. Where the manual leaves a point open the clauses rest on the choice of the model in log entries 71, 106,
107, 108. -/
def Obligations.StepCompletionCommandsComplete : Prop :=
  -- MATRIX_STEP_COMPLETE
  (∀ (s : State) (st : StepRef) (t : Nat) (p : Pipe) (sg : Stage) (sp : Step) (r : Run), s.stepOf st = some (p, sg, sp) → s.tileOf p st.stage st.side = some t → (s.tile t).run st = some r →
      s.awake = true → r.kind = .matrix → r.ended = true →
      (s.tile t).sect.any (fun x => x.step == st) = false → 
      exec (.matrixStepComplete st) s =
        .next (
        let u := (s.dropRun t st).stageClamps st.epoch t r.clamps
        let n := (geoOf r.desc).nb * (geoOf r.desc).kc
        (u.stageCount st.epoch [⟨kTil t 0x120, n * 128, .wide⟩, ⟨kTil t 0x128, n * (geoOf r.desc).issue, .wide⟩,
          ⟨kTil t 0x130, (s.dropRun t st |>.stageClamps st.epoch t r.clamps).bubbles, .wide⟩, ⟨kTil t 0x138, 1, .wrap⟩]
          |>.bankWaits t).finishStep st)) ∧
  -- VCONV_STEP_COMPLETE
  (∀ (s : State) (st : StepRef) (t : Nat) (p : Pipe) (sg : Stage) (sp : Step) (r : Run), s.stepOf st = some (p, sg, sp) → s.tileOf p st.stage st.side = some t → (s.tile t).run st = some r →
      s.awake = true → r.kind = .vconv → r.ended = true →
      (s.tile t).sect.any (fun x => x.step == st) = false → 
      exec (.vconvStepComplete st) s =
        .next ((((s.dropRun t st).stageClamps st.epoch t r.clamps).bankWaits t).finishStep st))

/-- Scrubbing of a bank, the remap register, slice power and fill, the clear of the Inkwell counters and the move of a logical
tile. In every state and for all operands that meet the conditions of a clause, exec answers a next state, and it is the one
the clause writes: the effect that the rules give the command, in the model's named operations, and everything else as before.
The clauses are for INK_SCRUB, INK_SCRUB_FORCED, INK_REMAP_WRITE, INK_SLICE_POWER_UP, INK_SLICE_FILL_DONE,
INK_SLICE_POWER_OFF, INK_SLICE_POWER_DOWN, INK_CNT_CLEAR, TILE_MOVE, TILE_MOVE_DONE. Where the manual leaves a point open the
clauses rest on the choice of the model in log entries 6, 32, 103, 104, 105. -/
def Obligations.InkwellCommandsComplete : Prop :=
  -- INK_SCRUB
  (∀ (s : State) (t bank r : Nat), s.awake = true → t < 80 → bank < 16 →
      (s.tile t).failed = false → s.bit (kTil t 0x20C) 0 = true → (s.tile t).scrubQ.find? (fun r => bankOf r == bank) = some r →
      exec (.inkScrub t bank) s =
        .next (
        let s1 := s.setTile t { s.tile t with scrubQ := (s.tile t).scrubQ.filter (· != r) }
        if s.sliceOn t (sliceOf r) then (s1.bankWait t bank).scrubRow t r else s1)) ∧
  -- INK_SCRUB
  (∀ (s : State) (t bank l : Nat), s.awake = true → t < 80 → bank < 16 →
      (s.tile t).failed = false → s.bit (kTil t 0x20C) 0 = true → (s.tile t).scrubQ.find? (fun r => bankOf r == bank) = none →
      s.walkFrom t (SMap.get zeroNat (s.tile t).walk bank) = some l → 
      exec (.inkScrub t bank) s =
        .next (((s.bankWait t bank).scrubRow t (rowOf bank l)).walkPast t bank l)) ∧
  -- INK_SCRUB
  (∀ (s : State) (t bank l : Nat), s.awake = true → t < 80 → bank < 16 →
      (s.tile t).failed = false → s.bit (kTil t 0x20C) 0 = true → (s.tile t).scrubQ.find? (fun r => bankOf r == bank) = none →
      s.walkFrom t (SMap.get zeroNat (s.tile t).walk bank) = none → s.walkFrom t 0 = some l → 
      exec (.inkScrub t bank) s =
        .next ((((s.wrapBank t bank).bankWait t bank).scrubRow t (rowOf bank l)).walkPast t bank l)) ∧
  -- INK_SCRUB_FORCED
  (∀ (s : State) (t bank r : Nat), s.awake = true → t < 80 → bank < 16 →
      (s.tile t).failed = false → s.bit (kTil t 0x20C) 0 = true → (s.tile t).scrubQ.find? (fun r => bankOf r == bank) = some r →
      exec (.inkScrubForced t bank) s =
        .next (
        let s1 := s.setTile t { s.tile t with scrubQ := (s.tile t).scrubQ.filter (· != r) }
        if s.sliceOn t (sliceOf r) then (s1.bankWait t bank).scrubRow t r else s1)) ∧
  -- INK_SCRUB_FORCED
  (∀ (s : State) (t bank l : Nat), s.awake = true → t < 80 → bank < 16 →
      (s.tile t).failed = false → s.bit (kTil t 0x20C) 0 = true → (s.tile t).scrubQ.find? (fun r => bankOf r == bank) = none →
      s.walkFrom t (SMap.get zeroNat (s.tile t).walk bank) = some l → 
      exec (.inkScrubForced t bank) s =
        .next (((s.bankWait t bank).scrubRow t (rowOf bank l)).walkPast t bank l)) ∧
  -- INK_SCRUB_FORCED
  (∀ (s : State) (t bank l : Nat), s.awake = true → t < 80 → bank < 16 →
      (s.tile t).failed = false → s.bit (kTil t 0x20C) 0 = true → (s.tile t).scrubQ.find? (fun r => bankOf r == bank) = none →
      s.walkFrom t (SMap.get zeroNat (s.tile t).walk bank) = none → s.walkFrom t 0 = some l → 
      exec (.inkScrubForced t bank) s =
        .next ((((s.wrapBank t bank).bankWait t bank).scrubRow t (rowOf bank l)).walkPast t bank l)) ∧
  -- INK_REMAP_WRITE
  (∀ (s : State) (rq : Requester) (t : Nat) (v : B32), s.awake = true → t < 80 → regAllowed rq true (kTil t 0x228) = true →
      exec (.inkRemapWrite rq t v) s =
        .next (s.remapWrite t v)) ∧
  -- INK_SLICE_POWER_UP
  (∀ (s : State) (rq : Requester) (t sl : Nat), s.awake = true → t < 80 → sl < 8 →
      s.bit (kTil t 0x208) sl = false → regAllowed rq true (kTil t 0x208) = true → 
      exec (.inkSlicePowerUp rq t sl) s =
        .next (s.sliceUp t sl)) ∧
  -- INK_SLICE_FILL_DONE
  (∀ (s : State) (t sl : Nat), s.awake = true → t < 80 → sl < 8 →
      (s.tile t).filling.getLsbD sl = true → 
      exec (.inkSliceFillDone t sl) s =
        .next (((s.setTile t { s.tile t with filling := (s.tile t).filling &&& ~~~(BitVec.ofNat 8 (2 ^ sl)) }).setBit (kTil t 0x208) (8 + sl) true).bankWaits t)) ∧
  -- INK_SLICE_POWER_OFF
  (∀ (s : State) (rq : Requester) (t sl : Nat), s.awake = true → t < 80 → sl < 8 →
      s.bit (kTil t 0x208) sl = true → regAllowed rq true (kTil t 0x208) = true → 
      exec (.inkSlicePowerOff rq t sl) s =
        .next (s.setBit (kTil t 0x208) sl false)) ∧
  -- INK_SLICE_POWER_DOWN
  (∀ (s : State) (t sl : Nat), s.awake = true → t < 80 → sl < 8 →
      s.bit (kTil t 0x208) sl = false → s.sliceOn t sl = true → s.sliceInUse t sl = false →
      exec (.inkSlicePowerDown t sl) s =
        .next ((s.setBit (kTil t 0x208) (8 + sl) false).clearSlice t sl)) ∧
  -- INK_CNT_CLEAR
  (∀ (s : State) (rq : Requester) (t : Nat), s.awake = true → t < 80 → regAllowed rq true (kTil t 0x218) = true →
      exec (.inkCntClear rq t) s =
        .next ((upTo 16).foldl (fun (u : State) b => u.setReg (kTil t (0x240 + 4 * b)) 0) (s.setReg (kTil t 0x214) 0))) ∧
  -- TILE_MOVE
  (∀ (s : State) (l dst src : Nat), l < 64 → dst < 80 → s.physOf l = some src →
      s.serving = true → s.fwServes = true → dst / 10 = src / 10 →
      dst ≠ src → (s.cluster (src / 10)).move.isNone = true → s.freeTile dst = true →
      (s.tile src).residents.isEmpty = true → (s.tile src).xfers.isEmpty = true → s.hostsWait (s.hosts src) = false →
      exec (.tileMove l dst) s =
        .next (
        let u := (s.setTile src { s.tile src with swap := true }).copyTile src dst
        u.setCluster (src / 10) { u.cluster (src / 10) with move := some (l, dst) })) ∧
  -- TILE_MOVE_DONE
  (∀ (s : State) (l src dst : Nat), s.physOf l = some src → (s.cluster (src / 10)).move = some (l, dst) → s.awake = true →
      exec (.tileMoveDone l) s =
        .next (s.moveDone l src dst))

/-- A descriptor that starts, the issue and the completion of row transfers, a delayed Inkwell write and a write of a queue
limit. In every state and for all operands that meet the conditions of a clause, exec answers a next state, and it is the one
the clause writes: the effect that the rules give the command, in the model's named operations, and everything else as before.
The clauses are for DMA_DESCRIPTOR_START, DMA_TRANSFER_ISSUE, DMA_TRANSFER_COMPLETE, DMA_DELAYED_INK_WRITE, DMA_LIMIT_WRITE.
Where the manual leaves a point open the clauses rest on the choice of the model in log entries 1, 49. -/
def Obligations.DmaCommandsComplete : Prop :=
  -- DMA_DESCRIPTOR_START
  (∀ (s : State) (st : StepRef) (t : Nat) (p : Pipe) (sg : Stage) (sp : Step), s.tileStep st kDma = some (t, p, sg, sp) → s.skips st = false → ((s.beginStep st).markCold st).checkDma p st sg sp (((s.beginStep st).markCold st).dmaReloc p st sp) = none →
      exec (.dmaDescriptorStart ⟨st, false⟩) s =
        .next (
        let u := (s.beginStep st).markCold st
        let d := u.dmaReloc p st sp
        u.setTile t { u.tile t with
          descs := (u.tile t).descs ++ [(⟨st, hQueue sp.hdr, d, folds p sp (dOp d), 0, 0, []⟩ : DmaDesc)] })) ∧
  -- DMA_TRANSFER_ISSUE
  (∀ (s : State) (t q : Nat) (d : DmaDesc), s.awake = true → t < 80 → q < 8 →
      s.queueOpen t q = true → (s.tile t).nextDesc (s.issueWaits t) q = some d → dOp d.bits = dmaRead →
      exec (.dmaTransferIssue t q) s =
        .next (
        let addr := dAddr d.bits + d.issued * dStride d.bits
        let x : Xfer := ⟨s.nextXfer, d.step, q, dmaRead, d.issued, dInk d.bits + d.issued, addr, s.fld (kQcfg t q) 0 6 + 1, 0, none,
          none, false, false, decide (s.addrDev d.bits addr ≠ s.boot.dev)⟩
        (s.setDesc t { d with issued := d.issued + 1 }).launch t { d with issued := d.issued + 1 } x)) ∧
  -- DMA_TRANSFER_ISSUE
  (∀ (s : State) (t q : Nat) (d : DmaDesc), s.awake = true → t < 80 → q < 8 →
      s.queueOpen t q = true → (s.tile t).nextDesc (s.issueWaits t) q = some d → dOp d.bits = dmaWrite →
      ((s.bankWait t (bankOf (dInk d.bits + d.issued))).inkRead t (dInk d.bits + d.issued) rqDmaOut (some (d.step.epoch, d.step.pipe))).2.1 = 0 → 
      exec (.dmaTransferIssue t q) s =
        .next (
        let addr := dAddr d.bits + d.issued * dStride d.bits
        let r := (s.bankWait t (bankOf (dInk d.bits + d.issued))).inkRead t (dInk d.bits + d.issued) rqDmaOut (some (d.step.epoch, d.step.pipe))
        let x : Xfer := ⟨s.nextXfer, d.step, q, dmaWrite, d.issued, dInk d.bits + d.issued, addr, s.fld (kQcfg t q) 0 6 + 1, r.2.2, none,
          none, false, false, decide (s.addrDev d.bits addr ≠ s.boot.dev)⟩
        let e := { d with
          issued := d.issued + 1
          crcs := if d.fold then SMap.set (fun _ => 0) d.crcs d.issued (rowCrc r.2.2) else d.crcs }
        (r.1.setDesc t e).launch t e x)) ∧
  -- DMA_TRANSFER_ISSUE
  (∀ (s : State) (t q : Nat) (d : DmaDesc), s.awake = true → t < 80 → q < 8 →
      s.queueOpen t q = true → (s.tile t).nextDesc (s.issueWaits t) q = some d → dOp d.bits = dmaPush →
      ((s.bankWait t (bankOf (dInk d.bits + d.issued))).inkRead t (dInk d.bits + d.issued) rqDmaOut (some (d.step.epoch, d.step.pipe))).2.1 = 0 → 
      exec (.dmaTransferIssue t q) s =
        .next (
        let r := (s.bankWait t (bankOf (dInk d.bits + d.issued))).inkRead t (dInk d.bits + d.issued) rqDmaOut (some (d.step.epoch, d.step.pipe))
        let x : Xfer := ⟨s.nextXfer, d.step, q, dmaPush, d.issued, dInk d.bits + d.issued, dDstRow d.bits + d.issued,
          s.fld (kQcfg t q) 0 6 + 1, r.2.2, none, if dDstDev d.bits = s.boot.dev then some (dDstTile d.bits) else none, false, false,
          decide (dDstDev d.bits ≠ s.boot.dev)⟩
        let e := { d with
          issued := d.issued + 1
          crcs := if d.fold then SMap.set (fun _ => 0) d.crcs d.issued (rowCrc r.2.2) else d.crcs }
        (r.1.setDesc t e).launch t e x)) ∧
  -- DMA_TRANSFER_COMPLETE
  (∀ (s : State) (t id : Nat) (x : Xfer), s.awake = true → t < 80 → (s.tile t).xfer id = some x →
      (if x.dst.isSome then some 0 else x.answer) = some 0 → x.wait = false → s.landWaits t x = false →
      s.xferBlocked t x = false → 
      exec (.dmaTransferComplete t id) s =
        .next (s.landXfer t x)) ∧
  -- DMA_TRANSFER_COMPLETE
  (∀ (s : State) (t id : Nat) (x : Xfer), s.awake = true → t < 80 → (s.tile t).xfer id = some x →
      (if x.dst.isSome then some 0 else x.answer) = some 0 → x.wait = false → s.landWaits t x = false →
      s.xferBlocked t x = true → 
      exec (.dmaTransferComplete t id) s =
        .next (s.setTile t { s.tile t with xfers := (s.tile t).xfers.map (fun y => if y.id = id then { y with wait := true } else y) })) ∧
  -- DMA_DELAYED_INK_WRITE
  (∀ (s : State) (t id : Nat) (x : Xfer), s.awake = true → t < 80 → (s.tile t).xfer id = some x →
      x.wait = true → s.landWaits t x = false → s.xferBlocked t x = false →
      exec (.dmaDelayedInkWrite t id) s =
        .next (s.landXfer t x)) ∧
  -- DMA_LIMIT_WRITE
  (∀ (s : State) (rq : Requester) (t q : Nat) (v : B32), s.awake = true → t < 80 → q < 8 →
      regAllowed rq true (kQcfg t q) = true → 
      exec (.dmaLimitWrite rq t q v) s =
        .next (s.setReg (kQcfg t q) (v &&& 0x3F))) ∧
  -- DMA_DESCRIPTOR_START
  (∀ (s : State) (st : StepRef) (b : Bool) (t : Nat) (p : Pipe) (sg : Stage) (sp : Step), s.tileStep st kDma = some (t, p, sg, sp) → s.skips st = true → 
      exec (.dmaDescriptorStart ⟨st, b⟩) s =
        .next ((s.beginStep st).finishStep st))

/-- The start of a section and of a settle step, and NOP, END, LOOP, AMOV, AADD, AADDR, MOV, BCAST, LANE and INS of a section
that issues the word of the instruction. In every state and for all operands that meet the conditions of a clause, exec
answers a next state, and it is the one the clause writes: the effect that the rules give the command, in the model's named
operations, and everything else as before. The clauses are for NIB_SECTION_START, SETTLE_START, NOP, END, LOOP, AMOV, AADD,
AADDR, MOV, BCAST, LANE, INS. Where the manual leaves a point open the clauses rest on the choice of the model in log entry
66. -/
def Obligations.NibControlCommandsComplete : Prop :=
  -- NIB_SECTION_START
  (∀ (s : State) (t : Nat) (st : StepRef) (kind : SectionKind) (block : Nat) (r : Run) (b : BitVec 512), s.awake = true → t < 80 → (s.tile t).sect.isNone = true →
      kind ≠ .settle → (s.tile t).run st = some r → r.bind = some b →
      r.nextSection = some (kind, block) → r.sectionReady = true → (s.tile t).olderSection st.epoch = false →
      exec (.nibSectionStart t st kind block) s =
        .next (s.setSect t (r.section kind block b))) ∧
  -- SETTLE_START
  (∀ (s : State) (t : Nat) (st : StepRef) (row : Nat) (r : Run) (b : BitVec 512), s.awake = true → t < 80 → (s.tile t).sect.isNone = true →
      (s.tile t).run st = some r → r.bind = some b → r.settleQ.head? = some row →
      (s.tile t).olderSection st.epoch = false → 
      exec (.settleStart t st row) s =
        .next (
        let tl := s.tile t
        let k := tl.half st.epoch * 4096 + bRsBase b + row
        let e := SMap.get RsEntry.idle tl.rstats k
        (s.setTile t { tl with rstats := SMap.set RsEntry.idle tl.rstats k { e with state := .settling } }).setSect t (r.section .settle row b))) ∧
  -- NOP
  (∀ (s : State) (t : Nat) (c : Section), s.issues t c (encR 0x00 0 0 0 0 0 0 0 0) → 
      exec (.nibNop t) s =
        .next (s.nibNext t c)) ∧
  -- END
  (∀ (s : State) (t : Nat) (c : Section), s.issues t c (encR opEnd 0 0 0 0 0 0 0 0) → ¬(c.kind = .prologue ∧ (s.stepOf c.step).any (fun x => s.windowFilling t x.2.1)) → 
      exec (.nibEnd t) s =
        .next (s.endSection t c)) ∧
  -- LOOP
  (∀ (s : State) (t : Nat) (c : Section) (a n : Nat), s.issues t c (encR 0x02 0 a 0 0 0 0 0 (BitVec.ofNat 20 n)) → a < 32 → n < 512 →
      c.loops.length < 2 → (upTo n).any (fun i => decide (c.pc + 1 + i < 512) && (nibOf (s.nibWord t (c.pc + 1 + i))).opc == opEnd) = false → c.ar a ≠ 0 →
      exec (.nibLoop t a n) s =
        .next (s.setSect t { c with pc := c.pc + 1, loops := [(c.pc + 1, c.pc + n, (c.ar a).toNat)] ++ c.loops })) ∧
  -- LOOP
  (∀ (s : State) (t : Nat) (c : Section) (a n : Nat), s.issues t c (encR 0x02 0 a 0 0 0 0 0 (BitVec.ofNat 20 n)) → a < 32 → n < 512 →
      c.loops.length < 2 → (upTo n).any (fun i => decide (c.pc + 1 + i < 512) && (nibOf (s.nibWord t (c.pc + 1 + i))).opc == opEnd) = false → c.ar a = 0 →
      exec (.nibLoop t a n) s =
        .next (s.setSect t { c with pc := (loopNext (c.pc + n) c.loops).1, loops := (loopNext (c.pc + n) c.loops).2 })) ∧
  -- LOOP
  (∀ (s : State) (t : Nat) (c : Section) (a n : Nat), s.issues t c (encR 0x02 0 a 0 0 0 0 0 (BitVec.ofNat 20 n)) → a < 32 → n < 512 →
      2 ≤ c.loops.length → 
      exec (.nibLoop t a n) s =
        .next (s.nibAbort t c stFormat)) ∧
  -- AMOV
  (∀ (s : State) (t : Nat) (c : Section) (d : Nat) (imm : B32), s.issues t c (encI 0x03 d imm) → d < 32 → 
      exec (.nibAmov t d imm) s =
        .next (s.nibNext t (c.setA d imm))) ∧
  -- AADD
  (∀ (s : State) (t : Nat) (c : Section) (d a : Nat) (imm : BitVec 20), s.issues t c (encR 0x04 d a 0 0 0 0 0 imm) → d < 32 → a < 32 →
      exec (.nibAadd t d a imm) s =
        .next (s.nibNext t (c.setA d (c.ar a + BitVec.ofInt 32 (sext imm.toNat 20))))) ∧
  -- AADDR
  (∀ (s : State) (t : Nat) (c : Section) (d a b : Nat), s.issues t c (encR 0x05 d a b 0 0 0 0 0) → d < 32 → a < 32 →
      b < 32 → 
      exec (.nibAaddr t d a b) s =
        .next (s.nibNext t (c.setA d (c.ar a + c.ar b)))) ∧
  -- MOV
  (∀ (s : State) (t : Nat) (c : Section) (d a : Nat), s.issues t c (w1 0x08 d a) → d < 32 → a < 32 →
      exec (.nibMov t d a) s =
        .next (s.nibNext t (c.setV d (c.vr a)))) ∧
  -- BCAST
  (∀ (s : State) (t : Nat) (c : Section) (d : Nat) (imm : B32), s.issues t c (encI 0x09 d imm) → d < 32 → 
      exec (.nibBcast t d imm) s =
        .next (s.nibNext t (c.setV d (splat imm)))) ∧
  -- LANE
  (∀ (s : State) (t : Nat) (c : Section) (d a i : Nat) (imm : BitVec 20), s.issues t c (encR 0x0A d a 0 i 0 0 0 imm) → d < 32 → a < 32 →
      i < 32 → 
      exec (.nibLane t d a i imm) s =
        .next (s.nibNext t (c.setV d (splat (laneOf (c.vr a) (c.lane i imm.toNat)))))) ∧
  -- INS
  (∀ (s : State) (t : Nat) (c : Section) (d a i : Nat) (imm : BitVec 20), s.issues t c (encR 0x0B d a 0 i 0 0 0 imm) → d < 32 → a < 32 →
      i < 32 → 
      exec (.nibIns t d a i imm) s =
        .next (s.nibNext t (c.setV d (setLane (c.vr d) (c.lane i imm.toNat) (laneOf (c.vr a) 0)))))

/-- The floating-point arithmetic, comparison and reduction instructions of a section that issues the word of the instruction;
the word carries every operand field. In every state and for all operands that meet the conditions of a clause, exec answers a
next state, and it is the one the clause writes: the effect that the rules give the command, in the model's named operations,
and everything else as before. The clauses are for FADD, FSUB, FMUL, FDIV, FMIN, FMAX, FSQRT, FABS, FNEG, FCLT, FCEQ, RAMAX,
RMAX, RSUM. Where the manual leaves a point open the clauses rest on the choice of the model in log entries 12, 13. -/
def Obligations.NibFloatCommandsComplete : Prop :=
  -- FADD
  (∀ (s : State) (t : Nat) (c : Section) (d a b : Nat), s.issues t c (w2 0x0C d a b) → d < 32 → a < 32 →
      b < 32 → 
      exec (.nibFadd t d a b) s =
        .next (s.nibNext t (c.setV d (lanes2 fpAdd (c.vr a) (c.vr b))))) ∧
  -- FSUB
  (∀ (s : State) (t : Nat) (c : Section) (d a b : Nat), s.issues t c (w2 0x0D d a b) → d < 32 → a < 32 →
      b < 32 → 
      exec (.nibFsub t d a b) s =
        .next (s.nibNext t (c.setV d (lanes2 fpSub (c.vr a) (c.vr b))))) ∧
  -- FMUL
  (∀ (s : State) (t : Nat) (c : Section) (d a b : Nat), s.issues t c (w2 0x0E d a b) → d < 32 → a < 32 →
      b < 32 → 
      exec (.nibFmul t d a b) s =
        .next (s.nibNext t (c.setV d (lanes2 fpMul (c.vr a) (c.vr b))))) ∧
  -- FDIV
  (∀ (s : State) (t : Nat) (c : Section) (d a b : Nat), s.issues t c (w2 0x0F d a b) → d < 32 → a < 32 →
      b < 32 → 
      exec (.nibFdiv t d a b) s =
        .next (s.nibNext t (c.setV d (lanes2 fpDiv (c.vr a) (c.vr b))))) ∧
  -- FMIN
  (∀ (s : State) (t : Nat) (c : Section) (d a b : Nat), s.issues t c (w2 0x11 d a b) → d < 32 → a < 32 →
      b < 32 → 
      exec (.nibFmin t d a b) s =
        .next (s.nibNext t (c.setV d (lanes2 fpMin (c.vr a) (c.vr b))))) ∧
  -- FMAX
  (∀ (s : State) (t : Nat) (c : Section) (d a b : Nat), s.issues t c (w2 0x12 d a b) → d < 32 → a < 32 →
      b < 32 → 
      exec (.nibFmax t d a b) s =
        .next (s.nibNext t (c.setV d (lanes2 fpMax (c.vr a) (c.vr b))))) ∧
  -- FSQRT
  (∀ (s : State) (t : Nat) (c : Section) (d a : Nat), s.issues t c (w1 0x10 d a) → d < 32 → a < 32 →
      exec (.nibFsqrt t d a) s =
        .next (s.nibNext t (c.setV d (lanes1 fpSqrt (c.vr a))))) ∧
  -- FABS
  (∀ (s : State) (t : Nat) (c : Section) (d a : Nat), s.issues t c (w1 0x13 d a) → d < 32 → a < 32 →
      exec (.nibFabs t d a) s =
        .next (s.nibNext t (c.setV d (lanes1 fpAbs (c.vr a))))) ∧
  -- FNEG
  (∀ (s : State) (t : Nat) (c : Section) (d a : Nat), s.issues t c (w1 0x14 d a) → d < 32 → a < 32 →
      exec (.nibFneg t d a) s =
        .next (s.nibNext t (c.setV d (lanes1 fpNeg (c.vr a))))) ∧
  -- FCLT
  (∀ (s : State) (t : Nat) (c : Section) (d a b : Nat), s.issues t c (w2 0x1C d a b) → d < 32 → a < 32 →
      b < 32 → 
      exec (.nibFclt t d a b) s =
        .next (s.nibNext t (c.setV d (lanes2 (fun x y => if fpLt x y then 0xFFFFFFFF else 0) (c.vr a) (c.vr b))))) ∧
  -- FCEQ
  (∀ (s : State) (t : Nat) (c : Section) (d a b : Nat), s.issues t c (w2 0x1D d a b) → d < 32 → a < 32 →
      b < 32 → 
      exec (.nibFceq t d a b) s =
        .next (s.nibNext t (c.setV d (lanes2 (fun x y => if fpEq x y then 0xFFFFFFFF else 0) (c.vr a) (c.vr b))))) ∧
  -- RAMAX
  (∀ (s : State) (t : Nat) (c : Section) (d a : Nat), s.issues t c (w1 0x22 d a) → d < 32 → a < 32 →
      exec (.nibRamax t d a) s =
        .next (s.nibNext t (c.setV d (splat (rowAmax (c.vr a)))))) ∧
  -- RMAX
  (∀ (s : State) (t : Nat) (c : Section) (d a : Nat), s.issues t c (w1 0x23 d a) → d < 32 → a < 32 →
      exec (.nibRmax t d a) s =
        .next (s.nibNext t (c.setV d (splat (rowMax (c.vr a)))))) ∧
  -- RSUM
  (∀ (s : State) (t : Nat) (c : Section) (d a : Nat), s.issues t c (w1 0x24 d a) → d < 32 → a < 32 →
      exec (.nibRsum t d a) s =
        .next (s.nibNext t (c.setV d (splat (rowSum (c.vr a))))))

/-- The integer, logic, shift and select instructions of a section that issues the word of the instruction. In every state and
for all operands that meet the conditions of a clause, exec answers a next state, and it is the one the clause writes: the
effect that the rules give the command, in the model's named operations, and everything else as before. The clauses are for
IADD, ISUB, AND, OR, XOR, SHL, SRA, SEL. -/
def Obligations.NibIntegerCommandsComplete : Prop :=
  -- IADD
  (∀ (s : State) (t : Nat) (c : Section) (d a b : Nat), s.issues t c (w2 0x15 d a b) → d < 32 → a < 32 →
      b < 32 → 
      exec (.nibIadd t d a b) s =
        .next (s.nibNext t (c.setV d (lanes2 (· + ·) (c.vr a) (c.vr b))))) ∧
  -- ISUB
  (∀ (s : State) (t : Nat) (c : Section) (d a b : Nat), s.issues t c (w2 0x16 d a b) → d < 32 → a < 32 →
      b < 32 → 
      exec (.nibIsub t d a b) s =
        .next (s.nibNext t (c.setV d (lanes2 (· - ·) (c.vr a) (c.vr b))))) ∧
  -- AND
  (∀ (s : State) (t : Nat) (c : Section) (d a b : Nat), s.issues t c (w2 0x17 d a b) → d < 32 → a < 32 →
      b < 32 → 
      exec (.nibAnd t d a b) s =
        .next (s.nibNext t (c.setV d (c.vr a &&& c.vr b)))) ∧
  -- OR
  (∀ (s : State) (t : Nat) (c : Section) (d a b : Nat), s.issues t c (w2 0x18 d a b) → d < 32 → a < 32 →
      b < 32 → 
      exec (.nibOr t d a b) s =
        .next (s.nibNext t (c.setV d (c.vr a ||| c.vr b)))) ∧
  -- XOR
  (∀ (s : State) (t : Nat) (c : Section) (d a b : Nat), s.issues t c (w2 0x19 d a b) → d < 32 → a < 32 →
      b < 32 → 
      exec (.nibXor t d a b) s =
        .next (s.nibNext t (c.setV d (c.vr a ^^^ c.vr b)))) ∧
  -- SHL
  (∀ (s : State) (t : Nat) (c : Section) (d a n : Nat), s.issues t c (encR 0x1A d a 0 0 0 0 0 (BitVec.ofNat 20 n)) → d < 32 → a < 32 →
      n < 32 → 
      exec (.nibShl t d a n) s =
        .next (s.nibNext t (c.setV d (lanes1 (fun x => x <<< n) (c.vr a))))) ∧
  -- SRA
  (∀ (s : State) (t : Nat) (c : Section) (d a n : Nat), s.issues t c (encR 0x1B d a 0 0 0 0 0 (BitVec.ofNat 20 n)) → d < 32 → a < 32 →
      n < 32 → 
      exec (.nibSra t d a n) s =
        .next (s.nibNext t (c.setV d (lanes1 (fun x => x.sshiftRight n) (c.vr a))))) ∧
  -- SEL
  (∀ (s : State) (t : Nat) (c : Section) (d a b i : Nat), s.issues t c (encR 0x1E d a b i 0 0 0 0) → d < 32 → a < 32 →
      b < 32 → i < 32 → 
      exec (.nibSel t d a b i) s =
        .next (s.nibNext t (c.setV d (packRow ((upTo 128).map (fun j =>
          if laneOf (c.vr i) j ≠ 0 then laneOf (c.vr a) j else laneOf (c.vr b) j))))))

/-- UNPK, QNT, QSCALE, TPUT, TGET and TBL of a section that issues the word of the instruction; TBL without its table ends the
epoch with FORMAT. In every state and for all operands that meet the conditions of a clause, exec answers a next state, and it
is the one the clause writes: the effect that the rules give the command, in the model's named operations, and everything else
as before. The clauses are for UNPK, QNT, QSCALE, TPUT, TGET, TBL. Where the manual leaves a point open the clauses rest on
the choice of the model in log entry 67. -/
def Obligations.NibFormatCommandsComplete : Prop :=
  -- UNPK
  (∀ (s : State) (t : Nat) (c : Section) (d a fmt part : Nat), s.issues t c (encR 0x1F d a 0 0 fmt part 0 0) → d < 32 → a < 32 →
      fmt < 16 → part < 8 → 
      exec (.nibUnpk t d a fmt part) s =
        .next (s.nibNext t (c.setV d (packRow ((upTo 128).map (fun i =>
          elemToFp32 fmt (elemOf (c.vr a) (fmtBits fmt) part i))))))) ∧
  -- QNT
  (∀ (s : State) (t : Nat) (c : Section) (d a b fmt part slot : Nat), s.issues t c (encR 0x20 d a b 0 fmt part slot 0) → d < 32 → a < 32 →
      b < 32 → fmt < 16 → part < 8 →
      slot < 4 → 
      exec (.nibQnt t d a b fmt part slot) s =
        .next (s.nibNext t (
          let qs := (upTo 128).map (fun i => quantise fmt (laneOf (c.vr a) i) (laneOf (c.vr b) i))
          let hits := (qs.filter (·.2)).length
          { c.setV d (setElems (c.vr d) (fmtBits fmt) part (qs.map (·.1))) with
            clamps := if hits = 0 then c.clamps else c.clamps ++ [(2 + slot, hits)] }))) ∧
  -- QSCALE
  (∀ (s : State) (t : Nat) (c : Section) (d a b : Nat), s.issues t c (w2 0x21 d a b) → d < 32 → a < 32 →
      b < 32 → 
      exec (.nibQscale t d a b) s =
        .next (s.nibNext t (
          let qs := (upTo 128).map (fun i => qscaleLane (laneOf (c.vr a) i) (laneOf (c.vr b) i))
          let hits := (qs.filter (·.2)).length
          { c.setV d (packRow (qs.map (·.1))) with
            clamps := if hits = 0 then c.clamps else c.clamps ++ [(1, hits)] }))) ∧
  -- TPUT
  (∀ (s : State) (t : Nat) (c : Section) (a b fmt part : Nat) (imm : BitVec 20), s.issues t c (encR 0x27 0 a b 0 fmt part 0 imm) → a < 32 → b < 32 →
      fmt < 16 → part < 8 → 
      exec (.nibTput t a b fmt part imm) s =
        .next (s.nibNext t { c with trans := (SMap.set noTrans c.trans (c.lane b imm.toNat)
          (transRow ((upTo 128).map (fun i => elemOf (c.vr a) (fmtBits fmt) part i)))) })) ∧
  -- TGET
  (∀ (s : State) (t : Nat) (c : Section) (d b fmt part : Nat) (imm : BitVec 20), s.issues t c (encR 0x28 d 0 b 0 fmt part 0 imm) → d < 32 → b < 32 →
      fmt < 16 → part < 8 → 
      exec (.nibTget t d b fmt part imm) s =
        .next (s.nibNext t (c.setV d (setElems (c.vr d) (fmtBits fmt) part
          ((upTo 128).map (fun i => bitsOf (SMap.get noTrans c.trans i).toNat (16 * c.lane b imm.toNat) (fmtBits fmt))))))) ∧
  -- TBL
  (∀ (s : State) (t : Nat) (c : Section) (d a part j : Nat) (r0 r1 r2 : Row), s.issues t c (encR 0x25 d a 0 0 0 part 0 0) → d < 32 → a < 32 →
      part < 8 → c.tables.find? (fun e => e.1 == part) = some (j, r0, r1, r2) → 
      exec (.nibTbl t d a part) s =
        .next (s.nibNext t (c.setV d (lanes1 (tblLane r0 r1 r2) (c.vr a))))) ∧
  -- TBL
  (∀ (s : State) (t : Nat) (c : Section) (d a part : Nat), s.issues t c (encR 0x25 d a 0 0 0 part 0 0) → d < 32 → a < 32 →
      part < 8 → c.tables.find? (fun e => e.1 == part) = none → 
      exec (.nibTbl t d a part) s =
        .next (s.nibAbort t c stFormat))

/-- LD, ST, TBLLD, GROW, RSTAT and RSTGET of a section that issues the word of the instruction, with rows in the window,
filled and readable. In every state and for all operands that meet the conditions of a clause, exec answers a next state, and
it is the one the clause writes: the effect that the rules give the command, in the model's named operations, and everything
else as before. The clauses are for LD, ST, TBLLD, GROW, RSTAT, RSTGET. Where the manual leaves a point open the clauses rest
on the choice of the model in log entries 25, 35. -/
def Obligations.NibMemoryCommandsComplete : Prop :=
  -- LD
  (∀ (s : State) (t : Nat) (c : Section) (d a : Nat) (imm : BitVec 20) (p : Pipe) (sg : Stage) (sp : Step), s.issues t c (encR 0x06 d a 0 0 0 0 0 imm) → d < 32 → a < 32 →
      s.stepOf c.step = some (p, sg, sp) → sg.inWindow (c.row a imm.toNat) 1 = true → s.rowFilling t (c.row a imm.toNat) = false →
      (s.rowReads t c.ep [c.row a imm.toNat]).2.1 = 0 → 
      exec (.nibLd t d a imm) s =
        .next ((s.rowReads t c.ep [c.row a imm.toNat]).1.nibNext t (c.setV d ((s.rowReads t c.ep [c.row a imm.toNat]).2.2.headD 0)))) ∧
  -- ST
  (∀ (s : State) (t : Nat) (c : Section) (a b : Nat) (imm : BitVec 20) (p : Pipe) (sg : Stage) (sp : Step) (r : Run), s.issues t c (encR 0x07 0 a b 0 0 0 0 imm) → a < 32 → b < 32 →
      s.stepOf c.step = some (p, sg, sp) → (s.tile t).run c.step = some r → sg.inWindow (c.row a imm.toNat) 1 = true →
      ¬ (c.kind = .epilogue ∧ r.epiForbids c.block (c.row a imm.toNat) = true) → s.rowFilling t (c.row a imm.toNat) = false → (s.inkWrite t (c.row a imm.toNat) rqVector (c.vr b)).2 = 0 →
      exec (.nibSt t a b imm) s =
        .next ((s.inkWrite t (c.row a imm.toNat) rqVector (c.vr b)).1.nibNext t c)) ∧
  -- TBLLD
  (∀ (s : State) (t : Nat) (c : Section) (a part : Nat) (imm : BitVec 20) (r : B32) (p : Pipe) (sg : Stage) (sp : Step), s.issues t c (encR 0x26 0 a 0 0 0 part 0 imm) → a < 32 → part < 8 →
      r = c.ar a + BitVec.ofInt 32 (sext imm.toNat 20) → s.stepOf c.step = some (p, sg, sp) → [r.toNat, (r + 1).toNat, (r + 2).toNat].all (fun x => sg.inWindow x 1) = true →
      [r.toNat, (r + 1).toNat, (r + 2).toNat].any (fun x => s.rowFilling t x) = false → (s.rowReads t c.ep [r.toNat, (r + 1).toNat, (r + 2).toNat]).2.1 = 0 → 
      exec (.nibTblld t a part imm) s =
        .next (
        let q := s.rowReads t c.ep [r.toNat, (r + 1).toNat, (r + 2).toNat]
        match q.2.2 with
        | [x, y, z] => q.1.nibNext t { c with tables := (c.tables.filter (fun e => e.1 != part)) ++ [(part, x, y, z)] }
        | _ => q.1)) ∧
  -- GROW
  (∀ (s : State) (t : Nat) (c : Section) (d a b i : Nat) (imm : BitVec 20) (p : Pipe) (sg : Stage) (sp : Step), s.issues t c (encR 0x29 d a b i 0 0 0 imm) → d < 32 → a < 32 →
      b < 32 → i < 32 → ¬ ((laneOf (c.vr b) (c.lane i imm.toNat)).toInt < 0 ∨ (((((s.tile t).run c.step).bind (·.bind)).elim 0 bGather : Nat) : Int) ≤ (laneOf (c.vr b) (c.lane i imm.toNat)).toInt) →
      s.stepOf c.step = some (p, sg, sp) → sg.inWindow ((c.ar a + BitVec.ofInt 32 (laneOf (c.vr b) (c.lane i imm.toNat)).toInt).toNat) 1 = true → s.rowFilling t ((c.ar a + BitVec.ofInt 32 (laneOf (c.vr b) (c.lane i imm.toNat)).toInt).toNat) = false →
      (s.rowReads t c.ep [(c.ar a + BitVec.ofInt 32 (laneOf (c.vr b) (c.lane i imm.toNat)).toInt).toNat]).2.1 = 0 → 
      exec (.nibGrow t d a b i imm) s =
        .next ((s.rowReads t c.ep [(c.ar a + BitVec.ofInt 32 (laneOf (c.vr b) (c.lane i imm.toNat)).toInt).toNat]).1.nibNext t (c.setV d ((s.rowReads t c.ep [(c.ar a + BitVec.ofInt 32 (laneOf (c.vr b) (c.lane i imm.toNat)).toInt).toNat]).2.2.headD 0)))) ∧
  -- GROW
  (∀ (s : State) (t : Nat) (c : Section) (d a b i : Nat) (imm : BitVec 20), s.issues t c (encR 0x29 d a b i 0 0 0 imm) → d < 32 → a < 32 →
      b < 32 → i < 32 → (laneOf (c.vr b) (c.lane i imm.toNat)).toInt < 0 ∨ (((((s.tile t).run c.step).bind (·.bind)).elim 0 bGather : Nat) : Int) ≤ (laneOf (c.vr b) (c.lane i imm.toNat)).toInt →
      exec (.nibGrow t d a b i imm) s =
        .next (s.nibNext t { c.setV d 0 with gfault := c.gfault + 1 })) ∧
  -- RSTAT
  (∀ (s : State) (t : Nat) (c : Section) (a i : Nat) (imm : BitVec 20) (b : BitVec 512), s.issues t c (encR 0x2A 0 a 0 i 0 0 0 imm) → a < 32 → i < 32 →
      ((s.tile t).run c.step).bind (·.bind) = some b → c.row a imm.toNat < 4096 → (c.ar i).toNat < 64 →
      exec (.nibRstat t a i imm) s =
        .next (
        let x := c.vr a
        (s.nibNext t c).sendRs t c.step.pipe c.step.side (bOwner b) (mkRs 0 (c.ar i).toNat (c.row a imm.toNat) c.step.epoch
          (rowAmax x) (rowMax x) (rowSum x) (rowSum (mapLanes (fun v => fpMul v v) x))))) ∧
  -- RSTGET
  (∀ (s : State) (t : Nat) (c : Section) (d a part : Nat) (imm : BitVec 20), s.issues t c (encR 0x2B d a 0 0 0 part 0 imm) → d < 32 → a < 32 →
      part < 8 → c.row a imm.toNat < 4096 → (SMap.get RsEntry.idle (s.tile t).rstats ((s.tile t).half c.step.epoch * 4096 + c.row a imm.toNat)).state = .released ∨ (SMap.get RsEntry.idle (s.tile t).rstats ((s.tile t).half c.step.epoch * 4096 + c.row a imm.toNat)).state = .settling →
      exec (.nibRstget t d a part imm) s =
        .next (
        let r := SMap.get RsEntry.idle (s.tile t).rstats ((s.tile t).half c.step.epoch * 4096 + c.row a imm.toNat)
        s.nibNext t (c.setV d (packRow (List.replicate 128 (match part with | 0 => r.amax | 1 => r.max | 2 => r.sum | _ => r.sumsq))))))

/-- A contribution and a release that arrive at a tile, a write of a nib-memory word and the clear of the gather-fault
counter. In every state and for all operands that meet the conditions of a clause, exec answers a next state, and it is the
one the clause writes: the effect that the rules give the command, in the model's named operations, and everything else as
before. The clauses are for RSTAT_CONTRIBUTION_RECEIVE, RSTAT_RELEASE_RECEIVE, NIB_MEM_WRITE, NIB_CNT_CLEAR. Where the manual
leaves a point open the clauses rest on the choice of the model in log entries 25, 35, 68, 69. -/
def Obligations.RowStatAndNibMemoryCommandsComplete : Prop :=
  -- RSTAT_CONTRIBUTION_RECEIVE
  (∀ (s : State) (t pipe : Nat) (side : Bool) (msg : BitVec 256) (s1 : State) (b : BitVec 512) (n k : Nat) (x : State × Nat × Row) (sum : Row) (y : State × Nat), s.awake = true → rsKind msg = 0 → s.takeRs ⟨t, pipe, side, msg⟩ = some s1 →
      (s1.tile t).holds (rsEpoch msg) = true → s1.epochLive (rsEpoch msg) = true → (s1.owned t pipe side (rsEpoch msg)).find? (fun x => decide (bRsBase x.1 ≤ rsEntry msg) && decide (rsEntry msg < bRsBase x.1 + x.2)) = some (b, n) →
      rsBlock msg < bExpected b → k = (s1.tile t).half (rsEpoch msg) * 4096 + rsEntry msg → (SMap.get RsEntry.idle (s1.tile t).rstats k).bitmap.getLsbD (rsBlock msg) = false →
      (s1.hosts t).any (fun h => h.1 == pipe && h.2.1 == side && ((s1.pipe pipe).stage h.2.2).any (fun sg => sg.inWindow (bPsum b + (rsEntry msg - bRsBase b)) 1)) = true → s1.rowFilling t (bPsum b + (rsEntry msg - bRsBase b)) = false → x = s1.inkRead t (bPsum b + (rsEntry msg - bRsBase b)) rqVector (some (rsEpoch msg, pipe)) →
      x.2.1 = 0 → sum = setLane (setLane x.2.2 (2 * rsBlock msg) (rsVal msg 2)) (2 * rsBlock msg + 1) (rsVal msg 3) → y = x.1.inkWrite t (bPsum b + (rsEntry msg - bRsBase b)) rqVector sum →
      y.2 = 0 → 
      exec (.rstatContributionReceive t pipe side msg) s =
        .next (
        let old := SMap.get RsEntry.idle (s1.tile t).rstats k
        let first := old.state == .idle
        let r := { old with
          state := if old.state = .idle then .collecting else old.state
          bitmap := old.bitmap ||| BitVec.ofNat 64 (2 ^ rsBlock msg)
          amax := if first then rsVal msg 0 else maxNum old.amax (rsVal msg 0)
          max := if first then rsVal msg 1 else maxNum old.max (rsVal msg 1) }
        let u := y.1.setTile t { y.1.tile t with rstats := SMap.set RsEntry.idle (y.1.tile t).rstats k r }
        if ((upTo 64).filter (fun i => r.bitmap.getLsbD i)).length = bExpected b then
          (bContribs b).foldl (fun (v : State) f => v.sendRs t pipe side f (mkRs 1 0 (rsEntry msg) (rsEpoch msg) r.amax r.max
            (partialSum sum (bExpected b) 0) (partialSum sum (bExpected b) 1))) u
        else u)) ∧
  -- RSTAT_RELEASE_RECEIVE
  (∀ (s : State) (t pipe : Nat) (side : Bool) (msg : BitVec 256) (s1 : State) (r : Run), s.awake = true → rsKind msg = 1 → s.takeRs ⟨t, pipe, side, msg⟩ = some s1 →
      (s1.tile t).runs.find? (fun r => r.step.epoch == rsEpoch msg && r.step.pipe == pipe && r.step.side == side && r.rowMode &&
        r.bind.any (fun b => decide (bRsBase b ≤ rsEntry msg) && decide (rsEntry msg < bRsBase b + r.rows))) = some r → 
      exec (.rstatReleaseReceive t pipe side msg) s =
        .next (
        let k := (s1.tile t).half (rsEpoch msg) * 4096 + rsEntry msg
        let new := { SMap.get RsEntry.idle (s1.tile t).rstats k with
          state := .released, amax := rsVal msg 0, max := rsVal msg 1, sum := rsVal msg 2, sumsq := rsVal msg 3 }
        (s1.setTile t { s1.tile t with rstats := SMap.set RsEntry.idle (s1.tile t).rstats k new }).setRun t
          { r with settleQ := r.settleQ ++ [rsEntry msg - r.bind.elim 0 bRsBase] })) ∧
  -- NIB_MEM_WRITE
  (∀ (s : State) (rq : Requester) (t i : Nat) (high : Bool) (v : B32), s.awake = true → t < 80 → i < 512 →
      (s.tile t).residents.isEmpty = true → regAllowed rq true (kTil t (0x1000 + 8 * i + 4 * b2n high)) = true → 
      exec (.nibMemWrite rq t i high v) s =
        .next (s.setReg (kTil t (0x1000 + 8 * i + 4 * b2n high)) v)) ∧
  -- NIB_CNT_CLEAR
  (∀ (s : State) (rq : Requester) (t : Nat), s.awake = true → t < 80 → regAllowed rq true (kTil t 0x510) = true →
      exec (.nibCntClear rq t) s =
        .next (s.setReg (kTil t 0x508) 0))

/-- The start of a step that passes its checks, with its output, the completion with its counts, and the clears of the
counters. In every state and for all operands that meet the conditions of a clause, exec answers a next state, and it is the
one the clause writes: the effect that the rules give the command, in the model's named operations, and everything else as
before. The clauses are for STEM_STEP_START, STEM_STEP_COMPLETE, SPECTRAL_STEP_START, SPECTRAL_STEP_COMPLETE, STM_CNT_CLEAR,
SPC_CNT_CLEAR. Where the manual leaves a point open the clauses rest on the choice of the model in log entries 33, 36, 39, 70,
71, 109, 110. -/
def Obligations.EngineCommandsComplete : Prop :=
  -- STEM_STEP_START
  (∀ (s : State) (st : StepRef) (p : Pipe) (sg : Stage) (sp : Step) (b : PipeBind) (u : Nat), s.engineStep st .stem kStem = some (p, sg, sp, b) → b.stemOf st.side sg.unit = some u → (s.stem u).run.isSome = false →
      s.olderOnEngine st .stem kStem (fun b sd x => b.stemOf sd x.unit == some u) = false → s.skips st = false → checkStem (((s.beginStep st).markCold st).stemReloc p st sp) (p.inGrant st.stage sg st.side) = none →
      s.stemBusy (((s.beginStep st).markCold st).stemReloc p st sp) = false → 
      exec (.stemStepStart ⟨st, false⟩) s =
        .next (((s.beginStep st).markCold st).stemRun st u (((s.beginStep st).markCold st).stemReloc p st sp))) ∧
  -- STEM_STEP_COMPLETE
  (∀ (s : State) (st : StepRef) (p : Pipe) (sg : Stage) (sp : Step) (u : Nat) (r : EngineRun), s.stepOf st = some (p, sg, sp) → p.bind.bind (fun b => b.stemOf st.side sg.unit) = some u → (s.stem u).run = some r →
      s.awake = true → sg.kind = .stem → r.step = st →
      exec (.stemStepComplete st) s =
        .next (((s.setStem u (Engine.idle u)).stageCount st.epoch (r.counts ++ s.waitCycles (kStm u 0x20))).finishStep st)) ∧
  -- STEM_STEP_START
  (∀ (s : State) (st : StepRef) (w : Bool) (p : Pipe) (sg : Stage) (sp : Step) (b : PipeBind) (u : Nat), s.engineStep st .stem kStem = some (p, sg, sp, b) → b.stemOf st.side sg.unit = some u → (s.stem u).run.isSome = false →
      s.olderOnEngine st .stem kStem (fun b sd x => b.stemOf sd x.unit == some u) = false → s.skips st = true → 
      exec (.stemStepStart ⟨st, w⟩) s =
        .next ((s.beginStep st).finishStep st)) ∧
  -- SPECTRAL_STEP_START
  (∀ (s : State) (st : StepRef) (p : Pipe) (sg : Stage) (sp : Step) (b : PipeBind) (u : Nat), s.engineStep st .spectral kSpectral = some (p, sg, sp, b) → b.spcOf st.side sg.unit = some u → (s.spc u).run.isSome = false →
      s.olderOnEngine st .spectral kSpectral (fun b sd x => b.spcOf sd x.unit == some u) = false → s.skips st = false → checkSpc (((s.beginStep st).markCold st).spcReloc p st sp) (p.inGrant st.stage sg st.side) = none →
      s.spcBusy (((s.beginStep st).markCold st).spcReloc p st sp) = false → 
      exec (.spectralStepStart ⟨st, false⟩) s =
        .next (((s.beginStep st).markCold st).spcRun st u (((s.beginStep st).markCold st).spcReloc p st sp))) ∧
  -- SPECTRAL_STEP_COMPLETE
  (∀ (s : State) (st : StepRef) (p : Pipe) (sg : Stage) (sp : Step) (u : Nat) (r : EngineRun), s.stepOf st = some (p, sg, sp) → p.bind.bind (fun b => b.spcOf st.side sg.unit) = some u → (s.spc u).run = some r →
      s.awake = true → sg.kind = .spectral → r.step = st →
      exec (.spectralStepComplete st) s =
        .next (((s.setSpc u (Engine.idle u)).stageCount st.epoch (r.counts ++ s.waitCycles (kSpc u 0x20))).finishStep st)) ∧
  -- SPECTRAL_STEP_START
  (∀ (s : State) (st : StepRef) (w : Bool) (p : Pipe) (sg : Stage) (sp : Step) (b : PipeBind) (u : Nat), s.engineStep st .spectral kSpectral = some (p, sg, sp, b) → b.spcOf st.side sg.unit = some u → (s.spc u).run.isSome = false →
      s.olderOnEngine st .spectral kSpectral (fun b sd x => b.spcOf sd x.unit == some u) = false → s.skips st = true → 
      exec (.spectralStepStart ⟨st, w⟩) s =
        .next ((s.beginStep st).finishStep st)) ∧
  -- STM_CNT_CLEAR
  (∀ (s : State) (rq : Requester) (u : Nat), s.awake = true → u < 8 → regAllowed rq true (kStm u 0xC) = true →
      exec (.stmCntClear rq u) s =
        .next (s.clearRegs (kStm u 0x10) 9)) ∧
  -- SPC_CNT_CLEAR
  (∀ (s : State) (rq : Requester) (u : Nat), s.awake = true → u < 4 → regAllowed rq true (kSpc u 0xC) = true →
      exec (.spcCntClear rq u) s =
        .next ((s.setReg (kSpc u 0x10) 0).clearRegs (kSpc u 0x20) 5))

/-- The start of a SIGNAL step and the receipt of each flow-control word, with good and with failing parity. In every state
and for all operands that meet the conditions of a clause, exec answers a next state, and it is the one the clause writes: the
effect that the rules give the command, in the model's named operations, and everything else as before. The clauses are for
SIGNAL_STEP_START, TOKEN_RECEIVE, CREDIT_RECEIVE, WITHDRAW_RECEIVE, REPORT_RECEIVE. Where the manual leaves a point open the
clauses rest on the choice of the model in log entries 24, 73, 112, 142. -/
def Obligations.FlowWordCommandsComplete : Prop :=
  -- SIGNAL_STEP_START
  (∀ (s : State) (st : StepRef) (p : Pipe) (sg : Stage) (sp : Step), s.stepOf st = some (p, sg, sp) → sg.kind = .tile → (s.tileStep st kSignal).isSome = true →
      exec (.signalStepStart st) s =
        .next ((if (s.beginStep st).skips st then s.beginStep st else (s.beginStep st).markCold st).finishStep st)) ∧
  -- SIGNAL_STEP_START
  (∀ (s : State) (st : StepRef) (p : Pipe) (sg : Stage) (sp : Step) (x : Pipe × Stage × Step × PipeBind), s.stepOf st = some (p, sg, sp) → sg.kind = .stem → s.engineStep st .stem kSignal = some x →
      s.olderOnEngine st .stem kSignal (fun b sd y => b.stemOf sd y.unit == x.2.2.2.stemOf st.side sg.unit) = false → 
      exec (.signalStepStart st) s =
        .next ((if (s.beginStep st).skips st then s.beginStep st else (s.beginStep st).markCold st).finishStep st)) ∧
  -- SIGNAL_STEP_START
  (∀ (s : State) (st : StepRef) (p : Pipe) (sg : Stage) (sp : Step) (x : Pipe × Stage × Step × PipeBind), s.stepOf st = some (p, sg, sp) → sg.kind = .spectral → s.engineStep st .spectral kSignal = some x →
      s.olderOnEngine st .spectral kSignal (fun b sd y => b.spcOf sd y.unit == x.2.2.2.spcOf st.side sg.unit) = false → 
      exec (.signalStepStart st) s =
        .next ((if (s.beginStep st).skips st then s.beginStep st else (s.beginStep st).markCold st).finishStep st)) ∧
  -- TOKEN_RECEIVE
  (∀ (s : State) (w : B64) (f : Flight), s.flightOf w wToken = some f → s.awake = true → s.unitMoves (s.pipe (wPipe w)) f.stage (wSide w) = false →
      exec (.tokenReceive w .badWord) s =
        .next ((s.takeFlight f).parityFault (s.unitCode (s.pipe (wPipe w)) f.stage (wSide w)) (wPipe w)
        (parityEnds .badWord (wEpoch w) (s.residentOn (s.pipe (wPipe w)) f.stage (wSide w))))) ∧
  -- CREDIT_RECEIVE
  (∀ (s : State) (w : B64) (f : Flight), s.flightOf w wCredit = some f → s.awake = true → s.unitMoves (s.pipe (wPipe w)) f.stage (wSide w) = false →
      exec (.creditReceive w .badWord) s =
        .next ((s.takeFlight f).parityFault (s.unitCode (s.pipe (wPipe w)) f.stage (wSide w)) (wPipe w)
        (parityEnds .badWord (wEpoch w) (s.residentOn (s.pipe (wPipe w)) f.stage (wSide w))))) ∧
  -- TOKEN_RECEIVE
  (∀ (s : State) (w : B64) (f : Flight), s.flightOf w wToken = some f → s.awake = true → s.unitMoves (s.pipe (wPipe w)) f.stage (wSide w) = false →
      exec (.tokenReceive w .badEpoch) s =
        .next ((s.takeFlight f).parityFault (s.unitCode (s.pipe (wPipe w)) f.stage (wSide w)) (wPipe w)
        (parityEnds .badEpoch (wEpoch w) (s.residentOn (s.pipe (wPipe w)) f.stage (wSide w))))) ∧
  -- CREDIT_RECEIVE
  (∀ (s : State) (w : B64) (f : Flight), s.flightOf w wCredit = some f → s.awake = true → s.unitMoves (s.pipe (wPipe w)) f.stage (wSide w) = false →
      exec (.creditReceive w .badEpoch) s =
        .next ((s.takeFlight f).parityFault (s.unitCode (s.pipe (wPipe w)) f.stage (wSide w)) (wPipe w)
        (parityEnds .badEpoch (wEpoch w) (s.residentOn (s.pipe (wPipe w)) f.stage (wSide w))))) ∧
  -- TOKEN_RECEIVE
  (∀ (s : State) (w : B64) (f : Flight), s.flightOf w wToken = some f → s.awake = true → s.unitMoves (s.pipe (wPipe w)) f.stage (wSide w) = false →
      s.unitHolds (s.pipe (wPipe w)) f.stage (wSide w) (wEpoch w) = false → s.numberTaken (wPipe w) (wEpoch w) = false → 
      exec (.tokenReceive w .good) s =
        .next (
        let p := s.pipe (wPipe w)
        let v := (s.takeFlight f).openHosted (wPipe w) (wEpoch w)
        let u := v.tokenArrive p (wPipe w) (wSide w) (wEdge w) (wSlot w) (wEpoch w) (v.deadAt (wPipe w) f.stage (wSide w) (wEpoch w))
        ((u.settleUnit p f.stage (wSide w)).checkStaged (wEpoch w)).tryEnd (wEpoch w))) ∧
  -- CREDIT_RECEIVE
  (∀ (s : State) (w : B64) (f : Flight), s.flightOf w wCredit = some f → s.awake = true → s.unitMoves (s.pipe (wPipe w)) f.stage (wSide w) = false →
      exec (.creditReceive w .good) s =
        .next (
        let u := (s.takeFlight f).creditArrive (bookKey (wPipe w) (wSide w) (wEdge w)) (wSlot w)
        let source : Bool := match (s.pipe (wPipe w)).stage f.stage with
          | some sg => sg.kind == .source
          | none => false
        (if source then u.sourceFreed (wPipe w) else u).tryEnd (wEpoch w))) ∧
  -- WITHDRAW_RECEIVE
  (∀ (s : State) (stage : Nat) (w : B64) (f : Flight), s.commit.flight.find? (fun f => f.word == w && f.stage == stage && wKind f.word == wWithdraw) = some f → s.awake = true → s.unitMoves (s.pipe (wPipe w)) stage (wSide w) = false →
      exec (.withdrawReceive stage ⟨w, .good⟩) s =
        .next (
        let pipe := wPipe w
        let p := s.pipe pipe
        let sd := wSide w
        let e := wEpoch w
        let s1 := s.takeFlight f
        let r := (s1.epochRec e).filter (fun r => r.pipe == pipe)
        let s2 := (p.edgesFrom stage).foldl (fun (u : State) ed => u.unwrite pipe sd ed e) s1
        let s3 := (p.edgesInto stage).foldl (fun (u : State) ed => u.returnEpoch p pipe sd ed e) s2
        let s4 := match p.stage stage, p.bind with
          | some st, some b =>
            match st.kind with
            | .tile => match s3.tileOf p stage sd with
              | some t => s3.withdrawTile t pipe stage sd (r.any (fun (x : Epoch) => x.latent.contains (sd, stage))) e
              | none => s3
            | .stem => match b.stemOf sd st.unit with
              | some c => s3.setStem c ((s3.stem c).stop stage sd e)
              | none => s3
            | .spectral => match b.spcOf sd st.unit with
              | some d => s3.setSpc d ((s3.spc d).stop stage sd e)
              | none => s3
            | .aster => s3.freeJournal pipe e
            | _ => s3
          | _, _ => s3
        s4.sendAck pipe sd stage (r.elim 2 (fun x => if isFault x.status then 1 else 2)) e)) ∧
  -- WITHDRAW_RECEIVE
  (∀ (s : State) (stage : Nat) (w : B64) (f : Flight), s.commit.flight.find? (fun f => f.word == w && f.stage == stage && wKind f.word == wWithdraw) = some f → s.awake = true → s.unitMoves (s.pipe (wPipe w)) stage (wSide w) = false →
      exec (.withdrawReceive stage ⟨w, .badWord⟩) s =
        .next (
        let pipe := wPipe w
        let p := s.pipe pipe
        let sd := wSide w
        let e := wEpoch w
        let s1 := (s.takeFlight f).parityFault (s.unitCode p stage sd) pipe (parityEnds .badWord e (s.residentOn p stage sd))
        let r := (s1.epochRec e).filter (fun r => r.pipe == pipe)
        let s2 := (p.edgesFrom stage).foldl (fun (u : State) ed => u.unwrite pipe sd ed e) s1
        let s3 := (p.edgesInto stage).foldl (fun (u : State) ed => u.returnEpoch p pipe sd ed e) s2
        let s4 := match p.stage stage, p.bind with
          | some st, some b =>
            match st.kind with
            | .tile => match s3.tileOf p stage sd with
              | some t => s3.withdrawTile t pipe stage sd (r.any (fun (x : Epoch) => x.latent.contains (sd, stage))) e
              | none => s3
            | .stem => match b.stemOf sd st.unit with
              | some c => s3.setStem c ((s3.stem c).stop stage sd e)
              | none => s3
            | .spectral => match b.spcOf sd st.unit with
              | some d => s3.setSpc d ((s3.spc d).stop stage sd e)
              | none => s3
            | .aster => s3.freeJournal pipe e
            | _ => s3
          | _, _ => s3
        s4.sendAck pipe sd stage (r.elim 2 (fun x => if isFault x.status then 1 else 2)) e)) ∧
  -- WITHDRAW_RECEIVE
  (∀ (s : State) (stage : Nat) (w : B64) (f : Flight), s.commit.flight.find? (fun f => f.word == w && f.stage == stage && wKind f.word == wWithdraw) = some f → s.awake = true → s.unitMoves (s.pipe (wPipe w)) stage (wSide w) = false →
      exec (.withdrawReceive stage ⟨w, .badEpoch⟩) s =
        .next (
        let pipe := wPipe w
        let p := s.pipe pipe
        let sd := wSide w
        let e := wEpoch w
        let s1 := (s.takeFlight f).parityFault (s.unitCode p stage sd) pipe (parityEnds .badEpoch e (s.residentOn p stage sd))
        let r := (s1.epochRec e).filter (fun r => r.pipe == pipe)
        let s2 := (p.edgesFrom stage).foldl (fun (u : State) ed => u.unwrite pipe sd ed e) s1
        let s3 := (p.edgesInto stage).foldl (fun (u : State) ed => u.returnEpoch p pipe sd ed e) s2
        let s4 := match p.stage stage, p.bind with
          | some st, some b =>
            match st.kind with
            | .tile => match s3.tileOf p stage sd with
              | some t => s3.withdrawTile t pipe stage sd (r.any (fun (x : Epoch) => x.latent.contains (sd, stage))) e
              | none => s3
            | .stem => match b.stemOf sd st.unit with
              | some c => s3.setStem c ((s3.stem c).stop stage sd e)
              | none => s3
            | .spectral => match b.spcOf sd st.unit with
              | some d => s3.setSpc d ((s3.spc d).stop stage sd e)
              | none => s3
            | .aster => s3.freeJournal pipe e
            | _ => s3
          | _, _ => s3
        s4.sendAck pipe sd stage (r.elim 2 (fun x => if isFault x.status then 1 else 2)) e)) ∧
  -- REPORT_RECEIVE
  (∀ (s : State) (w : B64) (f : Flight) (r : Epoch), s.flightOf w wReport = some f → s.awake = true → (s.pipe (wPipe w)).hosted s.boot.dev = false →
      ((s.takeFlight f).epochRec (wEpoch w)).filter (fun r => r.pipe == wPipe w) = some r → f.ack = false → wSlot w = 0 →
      f.word = w → 
      exec (.reportReceive ⟨w, .good⟩) s =
        .next (
        let key := (wSide w, wEdge w)
        (((s.takeFlight f).setEpoch (wEpoch w) { r with oks := if r.oks.contains key then r.oks else r.oks ++ [key] }).checkStaged
          (wEpoch w)).tryEnd (wEpoch w))) ∧
  -- REPORT_RECEIVE
  (∀ (s : State) (w : B64) (f : Flight) (r : Epoch), s.flightOf w wReport = some f → s.awake = true → (s.pipe (wPipe w)).hosted s.boot.dev = false →
      ((s.takeFlight f).epochRec (wEpoch w)).filter (fun r => r.pipe == wPipe w) = some r → f.ack = false → wSlot w ≠ 0 →
      f.word = w → 
      exec (.reportReceive ⟨w, .good⟩) s =
        .next ((s.takeFlight f).endCause (wEpoch w) (if isFault (wSlot w) then 1 else 2))) ∧
  -- REPORT_RECEIVE
  (∀ (s : State) (w : B64) (f : Flight) (s1 : State) (r : Epoch), s.flightOf w wReport = some f → s.awake = true → s1 = s.takeFlight f →
      (s.pipe (wPipe w)).hosted s.boot.dev = false → (s1.epochRec (wEpoch w)).filter (fun r => r.pipe == wPipe w) = some r → f.ack = true →
      f.word = w → r.state = .ending → 
      exec (.reportReceive ⟨w, .good⟩) s =
        .next (
        let key := (wSide w, wEdge w)
        (s1.setEpoch (wEpoch w) { r with acks := if r.acks.contains key then r.acks else r.acks ++ [key] }).tryEnd (wEpoch w))) ∧
  -- REPORT_RECEIVE
  (∀ (s : State) (w : B64) (f : Flight) (s1 : State) (r : Epoch), s.flightOf w wReport = some f → s.awake = true → s1 = (s.takeFlight f).parityFault 0x8000 (wPipe w) (parityEnds .badWord (wEpoch w) (s.takeFlight f).residentHere) →
      (s.pipe (wPipe w)).hosted s.boot.dev = false → (s1.epochRec (wEpoch w)).filter (fun r => r.pipe == wPipe w) = some r → f.ack = true →
      f.word = w → r.state = .ending → 
      exec (.reportReceive ⟨w, .badWord⟩) s =
        .next (
        let key := (wSide w, wEdge w)
        (s1.setEpoch (wEpoch w) { r with acks := if r.acks.contains key then r.acks else r.acks ++ [key] }).tryEnd (wEpoch w))) ∧
  -- REPORT_RECEIVE
  (∀ (s : State) (w : B64) (f : Flight) (s1 : State) (r : Epoch), s.flightOf w wReport = some f → s.awake = true → s1 = (s.takeFlight f).parityFault 0x8000 (wPipe w) (parityEnds .badEpoch (wEpoch w) (s.takeFlight f).residentHere) →
      (s.pipe (wPipe w)).hosted s.boot.dev = false → (s1.epochRec (wEpoch w)).filter (fun r => r.pipe == wPipe w) = some r → f.ack = true →
      f.word = w → r.state = .ending → 
      exec (.reportReceive ⟨w, .badEpoch⟩) s =
        .next (
        let key := (wSide w, wEdge w)
        (s1.setEpoch (wEpoch w) { r with acks := if r.acks.contains key then r.acks else r.acks ++ [key] }).tryEnd (wEpoch w))) ∧
  -- REPORT_RECEIVE
  (∀ (s : State) (w : B64) (f : Flight), s.flightOf w wReport = some f → s.awake = true → f.ack = false →
      exec (.reportReceive ⟨w, .badWord⟩) s =
        .next ((s.takeFlight f).parityFault 0x8000 (wPipe w) (parityEnds .badWord (wEpoch w) (s.takeFlight f).residentHere))) ∧
  -- REPORT_RECEIVE
  (∀ (s : State) (w : B64) (f : Flight), s.flightOf w wReport = some f → s.awake = true → f.ack = false →
      exec (.reportReceive ⟨w, .badEpoch⟩) s =
        .next ((s.takeFlight f).parityFault 0x8000 (wPipe w) (parityEnds .badEpoch (wEpoch w) (s.takeFlight f).residentHere))) ∧
  -- REPORT_RECEIVE
  (∀ (s : State) (w : B64) (f : Flight) (r : Epoch), s.flightOf w wReport = some f → s.awake = true → (s.pipe (wPipe w)).hosted s.boot.dev = true →
      ((s.takeFlight f).epochRec (wEpoch w)).filter (fun r => r.pipe == wPipe w) = some r → 
      exec (.reportReceive ⟨w, .good⟩) s =
        .next ((s.takeFlight f).hostReport (s.pipe (wPipe w)) (wEpoch w) r f))

/-- Admission of a sample, commit of an epoch, the receipt of a source item or a checkpoint from the twin device, and the
decision and the timeout of the comparator. In every state and for all operands that meet the conditions of a clause, exec
answers a next state, and it is the one the clause writes: the effect that the rules give the command, in the model's named
operations, and everything else as before. The clauses are for EPOCH_ADMIT, EPOCH_COMMIT, SOURCE_RECEIVE, CHECKPOINT_RECEIVE,
TWIN_DECIDE, TWIN_TIMEOUT. Where the manual leaves a point open the clauses rest on the choice of the model in log entries 40,
41, 42, 43, 52, 72, 112, 131. -/
def Obligations.EpochCommandsComplete : Prop :=
  -- EPOCH_ADMIT
  (∀ (s : State) (pipe port : Nat) (t : SrcTok) (ts : List SrcTok), s.mayAdmit pipe = true → s.readyPort pipe = some (port, t, ts) → s.admitWaits pipe port t = false →
      t.head.isEmpty = true → t.segs.isEmpty = true → (s.itemBytes pipe t).2.1 = 0 →
      exec (.epochAdmit pipe) s =
        .next ((({ (s.itemBytes pipe t).1 with commit := { (s.itemBytes pipe t).1.commit with srcq := SMap.set noToks (s.itemBytes pipe t).1.commit.srcq (pipe * 8 + port) ts } } : State).admitItem pipe port t).forwardItem pipe port s.commit.next (s.itemBytes pipe t).2.2)) ∧
  -- EPOCH_ADMIT
  (∀ (s : State) (pipe port : Nat) (t : SrcTok) (ts : List SrcTok) (slots : List (Bool × Nat × Nat)), s.mayAdmit pipe = true → s.readyPort pipe = some (port, t, ts) → s.admitWaits pipe port t = false →
      ¬ (t.head.isEmpty = true ∧ t.segs.isEmpty = true) → s.sourceSlots pipe port = some slots → (s.gather t).2.1 = 0 →
      (s.gather t).2.2.length ≤ s.sourceBytes pipe port → (((s.gather t).1.fillSlots pipe slots).writeSlots pipe slots (s.gather t).2.2).2 = 0 → 
      exec (.epochAdmit pipe) s =
        .next (
        let w := ((s.gather t).1.fillSlots pipe slots).writeSlots pipe slots (s.gather t).2.2
        let u : State := { w.1 with commit := { w.1.commit with srcq := SMap.set noToks w.1.commit.srcq (pipe * 8 + port) ts } }
        (u.admitItem pipe port { t with slots := slots }).forwardItem pipe port s.commit.next (s.gather t).2.2)) ∧
  -- EPOCH_COMMIT
  (∀ (s : State) (e : B32) (r : Epoch) (x : State × Nat), s.epochRec e = some r → s.awake = true → s.mayCommit e r = true →
      s.firstStaged e r = true → ((s.pipe r.pipe).sides.contains false && s.sinksWait (s.pipe r.pipe) r.pipe e) = false → x = (if (s.pipe r.pipe).sides.contains false then s.readSinks (s.pipe r.pipe) r.pipe e else (s, 0)) →
      exec (.epochCommit e) s =
        .next (
        if x.2 = 0 then x.1.commitEpoch e r else x.1.endCause e (if isFault x.2 then 1 else 2))) ∧
  -- SOURCE_RECEIVE
  (∀ (s : State) (pipe : Nat) (m : LnkMsg) (slots : List (Bool × Nat × Nat)) (b : PipeBind) (u : State × Sample), s.awake = true → srcPipe m = pipe → s.commit.srcFly.contains m = true →
      (s.pipe pipe).bound = true → s.sourceSlots pipe (srcPort m) = some slots → (s.pipe pipe).bind = some b →
      (s.pipe pipe).stopped = false → s.slotsWait pipe slots (SMap.get noBytes s.commit.srcPart (partKey m)).length = false → u = (({ s with commit := { s.commit with srcFly := s.commit.srcFly.erase m, srcPart := SMap.set noBytes s.commit.srcPart (partKey m) [] } } : State).twinSample ((b.sources[srcPort m]?).elim .none (·.kind)) (SMap.get noBytes s.commit.srcPart (partKey m))) →
      ((u.1.fillSlots pipe slots).writeSlots pipe slots (SMap.get noBytes s.commit.srcPart (partKey m))).2 = 0 → 
      exec (.sourceReceive pipe m) s =
        .next (
        let data := SMap.get noBytes s.commit.srcPart (partKey m)
        ((u.1.fillSlots pipe slots).writeSlots pipe slots data).1.pushSource pipe (srcPort m)
          ⟨slots, u.2, [], [], data.length, some (BitVec.ofNat 32 (mTag m))⟩)) ∧
  -- CHECKPOINT_RECEIVE
  (∀ (s : State) (x : BitVec 128) (m : CkMsg) (e : B32) (r : Epoch), s.commit.ckFly.find? (fun m => m.bits == x) = some m → s.awake = true → ({ s with commit := { s.commit with ckFly := s.commit.ckFly.erase m } } : State).ckptEpoch m = some e →
      ({ s with commit := { s.commit with ckFly := s.commit.ckFly.erase m } } : State).epochRec e = some r → ({ s with commit := { s.commit with ckFly := s.commit.ckFly.erase m } } : State).epochLive e = true → 
      exec (.checkpointReceive x) s =
        .next (({ s with commit := { s.commit with ckFly := s.commit.ckFly.erase m } } : State).setEpoch e { r with
          peer := if m.tile = 0x7F then some (ckEpoch x) else r.peer
          ckpts := r.ckpts ++ [(⟨ckSide x, ckStage x, ckStep x, ckCrc x, s.elapsed.toNat, m.tile⟩ : Ckpt)] })) ∧
  -- TWIN_DECIDE
  (∀ (s : State) (pipe : Nat) (e : B32) (stage step : Nat) (r : Epoch) (a b : Ckpt), s.epochRec e = some r → (r.ckptsAt stage step).find? (fun c => !c.side) = some a → (r.ckptsAt stage step).find? (fun c => c.side) = some b →
      s.awake = true → r.pipe = pipe → a.crc = b.crc →
      exec (.twinDecide pipe e stage step) s =
        .next (s.setEpoch e { r with ckpts := (r.ckpts.erase a).erase b })) ∧
  -- TWIN_DECIDE
  (∀ (s : State) (pipe : Nat) (e : B32) (stage step : Nat) (r : Epoch) (a b : Ckpt), s.epochRec e = some r → (r.ckptsAt stage step).find? (fun c => !c.side) = some a → (r.ckptsAt stage step).find? (fun c => c.side) = some b →
      s.awake = true → r.pipe = pipe → a.crc ≠ b.crc →
      exec (.twinDecide pipe e stage step) s =
        .next (s.twinFault pipe e stage step false)) ∧
  -- TWIN_TIMEOUT
  (∀ (s : State) (pipe : Nat) (e : B32) (stage step : Nat) (r : Epoch) (a : Ckpt), s.epochRec e = some r → r.ckptsAt stage step = [a] → s.awake = true →
      r.pipe = pipe → a.at_ + usTicks 76 ≤ s.elapsed.toNat → 
      exec (.twinTimeout pipe e stage step) s =
        .next (s.twinFault pipe e stage step true))

/-- The audit of the books of a cluster, the re-read and the fault of a failing relation, and the snapshot and restore of a
stage. In every state and for all operands that meet the conditions of a clause, exec answers a next state, and it is the one
the clause writes: the effect that the rules give the command, in the model's named operations, and everything else as before.
The clauses are for BOOK_AUDIT, BOOK_REREAD, BOOK_IMBALANCE, BOOK_SNAP, BOOK_RESTORE. Where the manual leaves a point open the
clauses rest on the choice of the model in log entries 39, 44, 45, 113, 132. -/
def Obligations.BookCommandsComplete : Prop :=
  -- BOOK_AUDIT
  (∀ (s : State) (c : Nat), s.serving = true → c < 8 → s.auditsRun = true →
      (s.cluster c).audit = true → 
      exec (.bookAudit c) s =
        .next ((s.setCluster c { s.cluster c with audit := false }).auditPass c)) ∧
  -- BOOK_REREAD
  (∀ (s : State) (c : Nat), s.serving = true → c < 8 → s.auditsRun = true →
      (s.rereads c).isEmpty = false → 
      exec (.bookReread c) s =
        .next (s.lookAt c (s.rereads c))) ∧
  -- BOOK_IMBALANCE
  (∀ (s : State) (c : Nat) (f : Found), s.serving = true → c < 8 → s.auditsRun = true →
      s.dueRel c = some f → 
      exec (.bookImbalance c) s =
        .next (
        (s.setCluster c { s.cluster c with failing := (s.cluster c).failing.map (fun x =>
          if x.rel = f.rel then { x with raised := some (s.elapsed.toNat, s.safety.nextSeq) } else x) }).imbalance f.rel)) ∧
  -- BOOK_SNAP
  (∀ (s : State) (rq : Requester) (t : Nat), s.awake = true → t < 80 → regAllowed rq true (kTil t 0x614) = true →
      exec (.bookSnap rq t) s =
        .next (s.bookSnap t)) ∧
  -- BOOK_RESTORE
  (∀ (s : State) (c : Nat) (late rs : List Found), s.serving = true → c < 8 → s.fwServes = true →
      late = (s.cluster c).failing.filter s.restoreLate → rs = (s.cluster c).failing.filter (fun f => s.restorable f && !(s.restoreLate f)) → ¬ (late.isEmpty = true ∧ rs.isEmpty = true) →
      exec (.bookRestore c) s =
        .next (
        let u := rs.foldl (fun (u : State) f => u.restoreRel f.rel) s
        let v := s.byCode (late.foldl (fun (v : State) f => v.restoreFail f) u)
        v.setCluster c { v.cluster c with failing := (v.cluster c).failing.filter (fun f => !(late.contains f)), audit := true }))

/-- The start of a frame on a port, the lines it receives, its end and the two time limits of intake. In every state and for
all operands that meet the conditions of a clause, exec answers a next state, and it is the one the clause writes: the effect
that the rules give the command, in the model's named operations, and everything else as before. The clauses are for
CSI_FRAME_START, CSI_LINE_RECEIVE, CSI_FRAME_END, FE_TIMEOUT, STREAM_LOST. Where the manual leaves a point open the clauses
rest on the choice of the model in log entries 28, 120, 123. -/
def Obligations.CameraIntakeCommandsComplete : Prop :=
  -- CSI_FRAME_START
  (∀ (s : State) (port vc : Nat) (fn : BitVec 16) (hc : Bool), s.awake = true → s.csiUp port = true → s.findStream port vc = none →
      exec (.csiFrameStart port vc fn hc) s =
        .next ((s.corrected port hc).orphan port)) ∧
  -- CSI_FRAME_START
  (∀ (s : State) (port vc : Nat) (fn : BitVec 16) (hc : Bool) (r : StreamRec), s.awake = true → s.csiUp port = true → s.findStream port vc = some (r, 0) →
      s.paramsWait r = false → 
      exec (.csiFrameStart port vc fn hc) s =
        .next (
        let u := s.corrected port hc
        (if (u.stream r.stream).frame.isSome then u.closeFrame r.stream true else u).openFrame r fn.toNat hc)) ∧
  -- CSI_FRAME_START
  (∀ (s : State) (port vc : Nat) (fn : BitVec 16) (hc : Bool) (r : StreamRec) (k : Nat), s.awake = true → s.csiUp port = true → s.findStream port vc = some (r, k + 1) →
      exec (.csiFrameStart port vc fn hc) s =
        .next ((s.corrected port hc).expStart r.stream (k + 1) fn.toNat hc)) ∧
  -- CSI_LINE_RECEIVE
  (∀ (s : State) (port vc dtype : Nat) (payload : List Byte) (crcOk hc : Bool), s.awake = true → s.csiUp port = true → 
      exec (.csiLineReceive port vc dtype payload crcOk hc true) s =
        .next (
        let u := s.addFld (kCam (0x40 * port + 4)) 16 16 1
        match s.findStream port vc with
        | some (r, k) => u.lineLost r.stream k
        | none => u)) ∧
  -- CSI_LINE_RECEIVE
  (∀ (s : State) (port vc dtype : Nat) (payload : List Byte) (crcOk hc : Bool) (r : StreamRec) (k px n spp : Nat) (o : OpenFrame), s.awake = true → s.csiUp port = true → s.findStream port vc = some (r, k) →
      dtypeGroup dtype = some (px, n, spp) → r.dtype = dtype → ((s.corrected port hc).stream r.stream).frame = some o →
      exec (.csiLineReceive port vc dtype payload crcOk hc false) s =
        .next (
        let u := s.corrected port hc
        let u := if crcOk then u else u.addSat (kCam (0x40 * port + 8)) 1
        u.takeLine r k crcOk hc (payload.length / n * px) (repairLine r spp (lineSamples (payload.length / n) dtype n payload)))) ∧
  -- CSI_LINE_RECEIVE
  (∀ (s : State) (port vc dtype : Nat) (payload : List Byte) (crcOk hc : Bool) (r : StreamRec) (k px n spp : Nat), s.awake = true → s.csiUp port = true → s.findStream port vc = some (r, k) →
      dtypeGroup dtype = some (px, n, spp) → r.dtype ≠ dtype ∨ ((s.corrected port hc).stream r.stream).frame = none → 
      exec (.csiLineReceive port vc dtype payload crcOk hc false) s =
        .next ((s.corrected port hc).orphan port)) ∧
  -- CSI_FRAME_END
  (∀ (s : State) (port vc : Nat) (fn : BitVec 16) (hc : Bool) (r : StreamRec) (k : Nat), s.awake = true → s.csiUp port = true → (s.corrected port hc).findStream port vc = some (r, k) →
      exec (.csiFrameEnd port vc fn hc) s =
        .next (
        let v := (s.corrected port hc).expEnd r.stream k fn.toNat hc
        if k = 0 then v.closeFrame r.stream false else v)) ∧
  -- FE_TIMEOUT
  (∀ (s : State) (st : Nat) (r : StreamRec) (o : OpenFrame), s.awake = true → s.streamRec st = some r → (s.stream st).frame = some o →
      o.lastPkt + usTicks r.feUs ≤ s.elapsed.toNat → 
      exec (.feTimeout st) s =
        .next (s.closeFrame st true)) ∧
  -- STREAM_LOST
  (∀ (s : State) (st : Nat) (r : StreamRec), s.awake = true → s.streamRec st = some r → (s.stream st).lost = false →
      (s.stream st).lastFs + msTicks r.lostMs ≤ s.elapsed.toNat → 
      exec (.streamLost st) s =
        .next ((s.setStream st { s.stream st with lost := true }).raise 0x0601
          (mkParam [(0, st), (32, (s.reg (kCam (0x1000 + 0x40 * st))).toNat)])))

/-- The deadline and the hold-off of an alignment group, the completion of a vision output, writes of statistics and of a
parameter bank, and the sparing of a pipe with its stream move. In every state and for all operands that meet the conditions
of a clause, exec answers a next state, and it is the one the clause writes: the effect that the rules give the command, in
the model's named operations, and everything else as before. The clauses are for ALIGN_DEADLINE, ALIGN_HOLDOFF_END,
IRIS_VISION_COMPLETE, IRIS_STATS_WRITE, IRS_BANK_WRITE, PIPE_SPARED, STREAM_MOVE_DONE. Where the manual leaves a point open
the clauses rest on the choice of the model in log entries 27, 79, 98, 117, 118, 119, 122, 123. -/
def Obligations.AlignmentAndIrisCommandsComplete : Prop :=
  -- ALIGN_DEADLINE
  (∀ (s : State) (grp : Nat), s.awake = true → (s.group grp).open_ = true → (s.group grp).deadline ≤ s.elapsed.toNat →
      exec (.alignDeadline grp) s =
        .next (s.releaseInst grp false s.timeNs)) ∧
  -- ALIGN_HOLDOFF_END
  (∀ (s : State) (grp t : Nat), s.awake = true → (s.group grp).holdEnd = some t → t ≤ s.elapsed.toNat →
      exec (.alignHoldoffEnd grp) s =
        .next (s.setGroup grp { s.group grp with holdEnd := none, absent := [] })) ∧
  -- IRIS_VISION_COMPLETE
  (∀ (s : State) (st crop : Nat) (f : Frame) (r : StreamRec), s.awake = true → crop < 4 → s.cam.frames.find? (fun f => f.stream == st && f.todo.contains (crop + 2)) = some f →
      s.streamRec st = some r → s.outBusy r f (crop + 2) = false → 
      exec (.irisVisionComplete st crop) s =
        .next (
        let o := crop + 2
        let s1 := s.addSat (kIrs (0x1008 + 0x10 * st)) ((irisIn r f).clamps o)
        let a := ringAddr r f.params o (f.slot o)
        let w := s1.irisWrite f.pipe (a + 64) ((irisIn r f).image o)
        let f1 := { f with todo := f.todo.filter (· != o), vis := f.vis ++ [o] }
        let s2 :=
          if w.2 ≠ 0 then (w.1.dropFrames [(st, f.devFcnt)] 4).putFrame (f.dropOut o)
          else
            let s3 := w.1.putFrame f1
            match f.group, f.release with
            | none, _ => s3.sendVision r f1 o s3.timeNs
            | some _, some t => s3.sendVision r f1 o t
            | some _, none => s3
        (match f.group with | some (q, _) => s2.sendReady q | none => s2).settlePlain)) ∧
  -- IRIS_STATS_WRITE
  (∀ (s : State) (st : Nat) (f : Frame) (r : StreamRec), s.awake = true → s.cam.frames.find? (fun f => f.stream == st && f.todo.contains 6) = some f → s.streamRec st = some r →
      s.outBusy r f 6 = false → 
      exec (.irisStatsWrite st) s =
        .next (
        let a := ringAddr r f.params 6 (f.slot 6)
        let w := s.irisWrite f.pipe (a + 64) (irisIn r f).stats
        let head := natToBytes f.devFcnt.toNat 4 ++ natToBytes f.csiFn 2 ++ natToBytes f.flags.toNat 2 ++ natToBytes 0 52
        let w := if w.2 = 0 then w.1.irisWrite f.pipe (a + 4) head else w
        let w := if w.2 = 0 then w.1.irisWrite f.pipe a (natToBytes ((s.stream st).seq + 1).toNat 4) else w
        let u := if w.2 = 0 then w.1.setStream st { w.1.stream st with seq := (s.stream st).seq + 1 } else w.1
        (u.putFrame { f with todo := f.todo.filter (· != 6) }).purgeFrames)) ∧
  -- IRS_BANK_WRITE
  (∀ (s : State) (rq : Requester) (st : Nat) (v : B32), s.awake = true → st < 24 → regAllowed rq true (kIrs (0x1000 + 0x10 * st)) = true →
      exec (.irsBankWrite rq st v) s =
        .next ((s.setBit (kIrs (0x1000 + 0x10 * st)) 0 (v.getLsbD 0)).setBit (kIrs (0x1000 + 0x10 * st)) 1 true)) ∧
  -- PIPE_SPARED
  (∀ (s : State) (p : Nat) (u : State), s.awake = true → p < 3 → s.fld (kIrs (0x20 * p)) 0 2 = 1 →
      u = (s.setFld (kIrs (0x20 * p)) 0 2 2).dropPipeFrames p → u.fwServes = true → u.fld (kIrs 0x40) 0 2 = 0 →
      p < 2 → 
      exec (.pipeSpared p) s =
        .next (
        let s1 := (u.setFld (kIrs 0x40) 0 2 1).movePipe p 2
        let s2 := s1.fault { mkFault 0xC 2 p 0 with spare := 2, degraded := s1.exhausts 4 p }
        (s2.raise 0x0701 (mkParam [(0, p), (8, 2)])).exhaust 4 p)) ∧
  -- PIPE_SPARED
  (∀ (s : State) (p q : Nat) (u : State), s.awake = true → p < 3 → s.fld (kIrs (0x20 * p)) 0 2 = 1 →
      u = (s.setFld (kIrs (0x20 * p)) 0 2 2).dropPipeFrames p → u.fwServes = true → u.fld (kIrs 0x40) 0 2 ≠ 0 ∨ p = 2 →
      (upTo 3).find? (fun q => q ≠ p ∧ u.fld (kIrs (0x20 * q)) 0 2 = 1 ∧ u.pipeLoad p + u.pipeLoad q ≤ 2500000000) = some q → 
      exec (.pipeSpared p) s =
        .next ((u.movePipe p q).fault { mkFault 0xC 2 p 0 with spare := q })) ∧
  -- PIPE_SPARED
  (∀ (s : State) (p : Nat) (u : State), s.awake = true → p < 3 → s.fld (kIrs (0x20 * p)) 0 2 = 1 →
      u = (s.setFld (kIrs (0x20 * p)) 0 2 2).dropPipeFrames p → u.fwServes = true → u.fld (kIrs 0x40) 0 2 ≠ 0 ∨ p = 2 →
      (upTo 3).find? (fun q => q ≠ p ∧ u.fld (kIrs (0x20 * q)) 0 2 = 1 ∧ u.pipeLoad p + u.pipeLoad q ≤ 2500000000) = none → 
      exec (.pipeSpared p) s =
        .next (({ u with cam := { u.cam with moving := u.cam.moving.filter (fun m => m.2 != p) } } : State).fault (mkFault 0xC 4 p 0))) ∧
  -- PIPE_SPARED
  (∀ (s : State) (p : Nat) (u : State), s.awake = true → p < 3 → s.fld (kIrs (0x20 * p)) 0 2 = 1 →
      u = (s.setFld (kIrs (0x20 * p)) 0 2 2).dropPipeFrames p → u.fwServes = false → 
      exec (.pipeSpared p) s =
        .next (u.oweUnit (.pipe p))) ∧
  -- STREAM_MOVE_DONE
  (∀ (s : State) (p q : Nat), s.awake = true → s.fwServes = true → s.cam.moving.find? (fun m => m.1 == p) = some (p, q) →
      exec (.streamMoveDone p) s =
        .next (
        let bits := s.fld (kIrs (0x20 * p)) 8 24
        let u := (s.setFld (kIrs (0x20 * q)) 8 24 (s.fld (kIrs (0x20 * q)) 8 24 ||| bits)).setFld (kIrs (0x20 * p)) 8 24 0
        { u with cam := { u.cam with moving := u.cam.moving.filter (fun x => x.1 != p) } }))

/-- A PPS edge, the jump by the loaded offset, the loss of PPS and the start and the end of an FSYNC pulse. In every state and
for all operands that meet the conditions of a clause, exec answers a next state, and it is the one the clause writes: the
effect that the rules give the command, in the model's named operations, and everything else as before. The clauses are for
PPS_EDGE, OFFSET_GO, PPS_LOST, FSYNC_PULSE, FSYNC_PULSE_END. Where the manual leaves a point open the clauses rest on the
choice of the model in log entry 51. -/
def Obligations.TimeCommandsComplete : Prop :=
  -- PPS_EDGE
  (∀ (s : State), s.awake = true → s.bit (kCam 0x200C) 0 = true → s.cam.ppsEdge.elim true (fun t => decide (t + msTicks 500 ≤ s.elapsed.toNat)) = true →
      exec .ppsEdge s =
        .next (
        let u : State := { s.setReg64 (kCam 0x2018) s.timeNs with cam := { s.cam with ppsAt := s.elapsed.toNat, ppsLost := false, ppsEdge := some s.elapsed.toNat } }
        if u.bit (kCam 0x200C) 1 then (u.setBit (kCam 0x200C) 1 false).stepTime (u.reg64 (kCam 0x2020) ++ (0 : BitVec 24)) else u)) ∧
  -- OFFSET_GO
  (∀ (s : State) (rq : Requester), s.awake = true → regAllowed rq true (kCam 0x200C) = true → 
      exec (.offsetGo rq) s =
        .next (s.setBit (kCam 0x200C) 2 true)) ∧
  -- PPS_LOST
  (∀ (s : State), s.awake = true → s.bit (kCam 0x200C) 0 = true → s.cam.ppsLost = false →
      s.cam.ppsAt + msTicks 1500 ≤ s.elapsed.toNat → 
      exec .ppsLost s =
        .next (({ s with cam := { s.cam with ppsLost := true } } : State).raise 0x0602 (s.reg64 (kCam 0x2018)))) ∧
  -- FSYNC_PULSE
  (∀ (s : State) (k : Nat), s.awake = true → k < 8 → s.bit (kFsync k 0) 0 = true →
      (s.fsyncRt k).emitted < s.fsyncNow k → s.fsyncReached k (s.fsyncNow k) = true → 
      exec (.fsyncPulse k) s =
        .next (
        (s.setFsync k ⟨s.fsyncNow k, some (s.elapsed.toNat + max 1 (s.fld (kFsync k 0) 16 16)), s.bit (kFsync k 0) 1⟩).driveFsync k
          (!(s.bit (kFsync k 0) 1)))) ∧
  -- FSYNC_PULSE_END
  (∀ (s : State) (k t : Nat), s.awake = true → k < 8 → (s.fsyncRt k).until_ = some t →
      t ≤ s.elapsed.toNat → 
      exec (.fsyncPulseEnd k) s =
        .next (
        (s.setFsync k { s.fsyncRt k with until_ := none }).driveFsync k (s.fsyncRt k).low))

/-- The receipt of an access unit with each of its outcomes, the start, the completion and the abandoning of a frame, the
sparing of a decode core and the writing of a scaler output. In every state and for all operands that meet the conditions of a
clause, exec answers a next state, and it is the one the clause writes: the effect that the rules give the command, in the
model's named operations, and everything else as before. The clauses are for ACCESS_UNIT_RECEIVE, DECODE_FRAME_START,
DECODE_FRAME_COMPLETE, DECODE_BUDGET_EXPIRE, DEC_SPARED, SCALER_OUTPUT_WRITE. Where the manual leaves a point open the clauses
rest on the choice of the model in log entries 18, 30, 124, 125, 126, 127, 128, 148. -/
def Obligations.VideoDecodeCommandsComplete : Prop :=
  -- ACCESS_UNIT_RECEIVE
  (∀ (s : State) (x : Nat) (au : AuSyntax) (u : AuUnit) (d : CtxDesc) (h : SeqHdr), s.awake = true → x < 256 → s.ctxBusy x = false →
      s.firstUnit x = some u → (s.vctx x).desc = some d → u.ready = false →
      u.ctx = x → s.ctxState x = 3 → au.seq = some h →
      seqFails d h = none → au.rap = true → 
      exec (.accessUnitReceive x au) s =
        .next ((s.activate x d (seqOf d h)).readyUnit u au)) ∧
  -- ACCESS_UNIT_RECEIVE
  (∀ (s : State) (x : Nat) (au : AuSyntax) (u : AuUnit) (d : CtxDesc), s.awake = true → x < 256 → s.ctxBusy x = false →
      s.firstUnit x = some u → (s.vctx x).desc = some d → u.ready = false →
      u.ctx = x → s.ctxState x = 3 → (∀ h, au.seq = some h → seqFails d h ≠ none ∨ au.rap = false) →
      exec (.accessUnitReceive x au) s =
        .next (s.refuseUnit u (s.vctx x).failed.1)) ∧
  -- ACCESS_UNIT_RECEIVE
  (∀ (s : State) (x : Nat) (au : AuSyntax) (u : AuUnit) (d : CtxDesc) (f : Nat × Nat), s.awake = true → x < 256 → s.ctxBusy x = false →
      s.firstUnit x = some u → (s.vctx x).desc = some d → u.ready = false →
      u.ctx = x → s.ctxState x ≠ 3 → au.seq.bind (seqFails d) = some f →
      exec (.accessUnitReceive x au) s =
        .next (s.rejectSeq u d f)) ∧
  -- ACCESS_UNIT_RECEIVE
  (∀ (s : State) (x : Nat) (au : AuSyntax) (u : AuUnit) (d : CtxDesc) (h : SeqHdr), s.awake = true → x < 256 → s.ctxBusy x = false →
      s.firstUnit x = some u → (s.vctx x).desc = some d → u.ready = false →
      u.ctx = x → s.ctxState x ≠ 3 → au.seq = some h →
      seqFails d h = none → au.rap = true → 
      exec (.accessUnitReceive x au) s =
        .next (((s.setVctx x { s.vctx x with waiting := some (seqOf d h) }).activate x d (seqOf d h)).readyUnit u au)) ∧
  -- ACCESS_UNIT_RECEIVE
  (∀ (s : State) (x : Nat) (au : AuSyntax) (u : AuUnit) (d : CtxDesc) (q : VideoSeq), s.awake = true → x < 256 → s.ctxBusy x = false →
      s.firstUnit x = some u → (s.vctx x).desc = some d → u.ready = false →
      u.ctx = x → s.ctxState x ≠ 3 → au.seq = none →
      (s.vctx x).waiting = some q → au.rap = true → 
      exec (.accessUnitReceive x au) s =
        .next ((s.activate x d q).readyUnit u au)) ∧
  -- ACCESS_UNIT_RECEIVE
  (∀ (s : State) (x : Nat) (au : AuSyntax) (u : AuUnit) (d : CtxDesc) (h : SeqHdr), s.awake = true → x < 256 → s.ctxBusy x = false →
      s.firstUnit x = some u → (s.vctx x).desc = some d → u.ready = false →
      u.ctx = x → s.ctxState x ≠ 3 → au.seq = some h →
      seqFails d h = none → au.rap = false → s.ctxState x = 2 →
      exec (.accessUnitReceive x au) s =
        .next ((s.setVctx x { s.vctx x with waiting := some (seqOf d h) }).readyUnit u au)) ∧
  -- ACCESS_UNIT_RECEIVE
  (∀ (s : State) (x : Nat) (au : AuSyntax) (u : AuUnit) (d : CtxDesc), s.awake = true → x < 256 → s.ctxBusy x = false →
      s.firstUnit x = some u → (s.vctx x).desc = some d → u.ready = false →
      u.ctx = x → s.ctxState x ≠ 3 → au.seq = none →
      au.rap = false ∨ (s.vctx x).waiting = none → s.ctxState x = 2 → 
      exec (.accessUnitReceive x au) s =
        .next (s.readyUnit u au)) ∧
  -- ACCESS_UNIT_RECEIVE
  (∀ (s : State) (x : Nat) (au : AuSyntax) (u : AuUnit) (d : CtxDesc) (h : SeqHdr), s.awake = true → x < 256 → s.ctxBusy x = false →
      s.firstUnit x = some u → (s.vctx x).desc = some d → u.ready = false →
      u.ctx = x → s.ctxState x ≠ 3 → au.seq = some h →
      seqFails d h = none → au.rap = false → s.ctxState x ≠ 2 →
      exec (.accessUnitReceive x au) s =
        .next ((s.setVctx x { s.vctx x with waiting := some (seqOf d h) }).refuseUnit u stDamaged)) ∧
  -- ACCESS_UNIT_RECEIVE
  (∀ (s : State) (x : Nat) (au : AuSyntax) (u : AuUnit) (d : CtxDesc), s.awake = true → x < 256 → s.ctxBusy x = false →
      s.firstUnit x = some u → (s.vctx x).desc = some d → u.ready = false →
      u.ctx = x → s.ctxState x ≠ 3 → au.seq = none →
      au.rap = false ∨ (s.vctx x).waiting = none → s.ctxState x ≠ 2 → 
      exec (.accessUnitReceive x au) s =
        .next (s.refuseUnit u stDamaged)) ∧
  -- DECODE_FRAME_START
  (∀ (s : State) (c x : Nat) (u : AuUnit) (b : Nat), s.awake = true → c < 9 → s.fld (kDec c 0) 0 2 = 1 →
      s.unitOwed (.dec c) = false → s.decJob c = none → s.nextCtx = some x →
      s.firstUnit x = some u → s.freeBuf x = some b → 
      exec (.decodeFrameStart c) s =
        .next (
        let n := (s.vctx x).decIndex + 1
        let s1 := (s.setUnit x none).setVctx x { s.vctx x with decIndex := n }
        let s2 : State := { s1 with vid := { s1.vid with last := x } }
        let s3 := s2.holdCore c (some ⟨{ u with begun := true }, n, b, s2.elapsed.toNat⟩) x
        if u.left ≤ 1 then s3.ctxNext x else s3)) ∧
  -- DECODE_FRAME_COMPLETE
  (∀ (s : State) (c : Nat) (out : FrameOutcome) (j : DecJob) (d : CtxDesc) (q : VideoSeq) (used : List DecFrame) (r : State × Option (List (List Byte))) (w : State × Nat), s.awake = true → c < 9 → s.decJob c = some j →
      (s.vctx j.unit.ctx).desc = some d → (s.vctx j.unit.ctx).seq = some q → out.cost ≤ (s.reg (kCtx j.unit.ctx 8)).toNat →
      costFits j.at_ s.elapsed.toNat out.cost = true → out.width ≤ q.width ∧ out.height ≤ q.height → used = (if j.unit.rap then [] else (s.vctx j.unit.ctx).refs).filter (fun f => out.refs.contains f.index.toNat) →
      s.refsFree used j out.width out.height q.depth = true → r = s.readRefs c used → w = r.1.storeFrame c j out.width out.height (r.2.getD []) →
      r.2 = none ∨ w.2 ≠ 0 → 
      exec (.decodeFrameComplete c out) s =
        .next (
        let u := w.1.add64 (kDec c 8) (out.width * out.height)
        let f : DecFrame := ⟨j.index, false, j.buf, out.width, out.height, q.depth, j.unit.rap, out.presOrder, out.cost, u.timeNs⟩
        u.endTainted c j out.kept f stFault)) ∧
  -- DECODE_FRAME_COMPLETE
  (∀ (s : State) (c : Nat) (out : FrameOutcome) (j : DecJob) (d : CtxDesc) (q : VideoSeq) (used : List DecFrame) (r : State × Option (List (List Byte))) (w : State × Nat), s.awake = true → c < 9 → s.decJob c = some j →
      (s.vctx j.unit.ctx).desc = some d → (s.vctx j.unit.ctx).seq = some q → out.cost ≤ (s.reg (kCtx j.unit.ctx 8)).toNat →
      costFits j.at_ s.elapsed.toNat out.cost = true → out.width ≤ q.width ∧ out.height ≤ q.height → used = (if j.unit.rap then [] else (s.vctx j.unit.ctx).refs).filter (fun f => out.refs.contains f.index.toNat) →
      s.refsFree used j out.width out.height q.depth = true → r = s.readRefs c used → w = r.1.storeFrame c j out.width out.height (r.2.getD []) →
      r.2 ≠ none → w.2 = 0 → out.whole = false ∨ refTainted used = true ∨ refsHere used out.refs = false →
      exec (.decodeFrameComplete c out) s =
        .next (
        let u := w.1.add64 (kDec c 8) (out.width * out.height)
        let f : DecFrame := ⟨j.index, false, j.buf, out.width, out.height, q.depth, j.unit.rap, out.presOrder, out.cost, u.timeNs⟩
        u.endTainted c j out.kept f stDamaged)) ∧
  -- DECODE_FRAME_COMPLETE
  (∀ (s : State) (c : Nat) (out : FrameOutcome) (j : DecJob) (d : CtxDesc) (q : VideoSeq) (used : List DecFrame) (r : State × Option (List (List Byte))) (w : State × Nat), s.awake = true → c < 9 → s.decJob c = some j →
      (s.vctx j.unit.ctx).desc = some d → (s.vctx j.unit.ctx).seq = some q → out.cost ≤ (s.reg (kCtx j.unit.ctx 8)).toNat →
      costFits j.at_ s.elapsed.toNat out.cost = true → out.width ≤ q.width ∧ out.height ≤ q.height → used = (if j.unit.rap then [] else (s.vctx j.unit.ctx).refs).filter (fun f => out.refs.contains f.index.toNat) →
      s.refsFree used j out.width out.height q.depth = true → r = s.readRefs c used → w = r.1.storeFrame c j out.width out.height (r.2.getD []) →
      r.2 ≠ none → w.2 = 0 → out.whole = true →
      refTainted used = false → refsHere used out.refs = true → 
      exec (.decodeFrameComplete c out) s =
        .next (
        let u := w.1.add64 (kDec c 8) (out.width * out.height)
        let f : DecFrame := ⟨j.index, false, j.buf, out.width, out.height, q.depth, j.unit.rap, out.presOrder, out.cost, u.timeNs⟩
        let x := j.unit.ctx
        let v := ((u.endFrame c j out.kept f).setReg (kCtx x 4)
          (BitVec.ofNat 32 (newAvg (s.reg (kCtx x 4)).toNat out.cost))).setBudget x d.mult
        if out.shown then (v.unitSample j.unit f).afterFrame { j.unit with done := true } else v.afterFrame j.unit)) ∧
  -- DECODE_BUDGET_EXPIRE
  (∀ (s : State) (c : Nat) (j : DecJob) (q : VideoSeq), s.awake = true → c < 9 → s.decJob c = some j →
      (s.vctx j.unit.ctx).seq = some q → (s.reg (kCtx j.unit.ctx 8)).toNat < (s.elapsed.toNat - j.at_) * 4 + 3 → s.refsFree [] j q.width q.height q.depth = true →
      exec (.decodeBudgetExpire c) s =
        .next (
        let w := s.storeFrame c j q.width q.height []
        w.1.endTainted c j (((s.vctx j.unit.ctx).refs).map (·.index.toNat))
          ⟨j.index, true, j.buf, q.width, q.height, q.depth, j.unit.rap, 0, (s.reg (kCtx j.unit.ctx 8)).toNat + 1, w.1.timeNs⟩ stSlow)) ∧
  -- DEC_SPARED
  (∀ (s : State) (c : Nat) (u : State), s.awake = true → c < 9 → s.fld (kDec c 0) 0 2 = 1 →
      s.unitOwed (.dec c) = false → u = s.requeueDec c → u.fwServes = true →
      (u.setFld (kDec c 0) 0 2 2).fld (kDec 8 0) 0 2 = 0 → 
      exec (.decSpared c) s =
        .next (
        let v := (u.setFld (kDec c 0) 0 2 2).setFld (kDec 8 0) 0 2 1
        let v := v.fault { mkFault 0xD 2 c 0 with spare := 8, degraded := v.exhausts 5 c }
        (v.raise 0x0801 (mkParam [(0, c), (8, 8)])).exhaust 5 c)) ∧
  -- DEC_SPARED
  (∀ (s : State) (c : Nat) (u : State), s.awake = true → c < 9 → s.fld (kDec c 0) 0 2 = 1 →
      s.unitOwed (.dec c) = false → u = s.requeueDec c → u.fwServes = true →
      (u.setFld (kDec c 0) 0 2 2).fld (kDec 8 0) 0 2 ≠ 0 → 
      exec (.decSpared c) s =
        .next ((u.setFld (kDec c 0) 0 2 2).fault (mkFault 0xD 4 c 0))) ∧
  -- DEC_SPARED
  (∀ (s : State) (c : Nat) (u : State), s.awake = true → c < 9 → s.fld (kDec c 0) 0 2 = 1 →
      s.unitOwed (.dec c) = false → u = s.requeueDec c → u.fwServes = false →
      exec (.decSpared c) s =
        .next (u.oweUnit (.dec c))) ∧
  -- SCALER_OUTPUT_WRITE
  (∀ (s : State) (e : Emitted) (es : List Emitted), s.awake = true → s.vid.emitted = e :: es → (s.vctx e.ctx).desc = none →
      exec .scalerOutputWrite s =
        .next (s.scaleDone e es)) ∧
  -- SCALER_OUTPUT_WRITE
  (∀ (s : State) (e : Emitted) (es : List Emitted) (d : CtxDesc), s.awake = true → s.vid.emitted = e :: es → (s.vctx e.ctx).desc = some d →
      d.nextRec e.out = none → 
      exec .scalerOutputWrite s =
        .next (s.scaleDone e es)) ∧
  -- SCALER_OUTPUT_WRITE
  (∀ (s : State) (e : Emitted) (es : List Emitted) (d : CtxDesc) (o : Nat), s.awake = true → s.vid.emitted = e :: es → (s.vctx e.ctx).desc = some d →
      d.nextRec e.out = some o → s.scaleWaits e ((d.recs[o]?).getD 0) = false → (d.nextRec (o + 1)).isNone = true →
      exec .scalerOutputWrite s =
        .next ((s.scaleOut d e o ((d.recs[o]?).getD 0)).scaleDone e es)) ∧
  -- SCALER_OUTPUT_WRITE
  (∀ (s : State) (e : Emitted) (es : List Emitted) (d : CtxDesc) (o : Nat), s.awake = true → s.vid.emitted = e :: es → (s.vctx e.ctx).desc = some d →
      d.nextRec e.out = some o → s.scaleWaits e ((d.recs[o]?).getD 0) = false → (d.nextRec (o + 1)).isNone = false →
      exec .scalerOutputWrite s =
        .next (
        let u := s.scaleOut d e o ((d.recs[o]?).getD 0)
        { u with vid := { u.vid with emitted := [{ e with out := o + 1 }] ++ es } }))

/-- The start of a frame on an encode core, the packet written to the ring with or without a PAD, the sparing of an encode
core and the write of the read pointer. In every state and for all operands that meet the conditions of a clause, exec answers
a next state, and it is the one the clause writes: the effect that the rules give the command, in the model's named
operations, and everything else as before. The clauses are for ENCODE_FRAME_START, ENCODE_FRAME_DONE, ENC_SPARED,
ENC_RD_WRITE. Where the manual leaves a point open the clauses rest on the choice of the model in log entries 18, 56, 126. -/
def Obligations.VideoEncodeCommandsComplete : Prop :=
  -- ENCODE_FRAME_START
  (∀ (s : State) (e : Nat) (j : EncJob) (r : EncRec), s.awake = true → s.vid.coding.find? (fun j => j.session == e) = some j → s.encRec e = some r →
      (upTo 5).any (fun c => (s.encJob c).elim false (fun k => k.session == e)) = false → s.encRoom r = false → 
      exec (.encodeFrameStart e) s =
        .next (({ s with vid := { s.vid with coding := s.vid.coding.erase j } } : State).addSat (kSess e 0xC) 1)) ∧
  -- ENCODE_FRAME_START
  (∀ (s : State) (e : Nat) (j : EncJob) (r : EncRec) (c : Nat), s.awake = true → s.vid.coding.find? (fun j => j.session == e) = some j → s.encRec e = some r →
      (upTo 5).any (fun c => (s.encJob c).elim false (fun k => k.session == e)) = false → s.encRoom r = true → (upTo 5).find? (fun c => s.fld (kEnc c 0) 0 2 == 1 && !s.unitOwed (.enc c) && s.encJob c == none) = some c →
      exec (.encodeFrameStart e) s =
        .next (
        let n := (s.encSess e).sinceKey
        let u : State := { s with vid := { s.vid with coding := s.vid.coding.erase j } }
        let u := u.setEncJob c (some { j with key := n == 0 || decide (r.keyInt ≤ n) })
        (u.setFld (kEnc c 0) 8 8 e).setBit (kEnc c 0) 16 true)) ∧
  -- ENCODE_FRAME_DONE
  (∀ (s : State) (c : Nat) (j : EncJob) (r : EncRec) (a : State × Nat × List Byte), s.awake = true → c < 5 → s.encJob c = some j →
      s.encRec j.session = some r → s.pageBusy j.addr j.len = false → s.pageBusy r.base r.size = false →
      a = s.memAccess ⟨rqEnc c, false, j.addr, j.len, [], false⟩ none → a.2.1 = 0 → 
      exec (.encodeFrameDone c) s =
        .next (
        let e := r.session
        let q := a.1.encSess e
        let set := encSettings r j.key j.depth q.sizes
        let pay := (Config.encPayload r.av1 set q.kept a.2.2).take r.maxPkt
        let u := ((a.1.writePacket c r j pay).add64 (kEnc c 8) j.pixels).freeEnc c
        let n := if j.key then 1 else q.sinceKey + 1
        let q1 : EncSess := ⟨n, Config.encKept r.av1 set q.kept a.2.2, pay.length :: q.sizes⟩
        { u with vid := { u.vid with sess := SMap.set EncSess.idle u.vid.sess e q1 } })) ∧
  -- ENCODE_FRAME_DONE
  (∀ (s : State) (c : Nat) (j : EncJob) (r : EncRec) (a : State × Nat × List Byte), s.awake = true → c < 5 → s.encJob c = some j →
      s.encRec j.session = some r → s.pageBusy j.addr j.len = false → s.pageBusy r.base r.size = false →
      a = s.memAccess ⟨rqEnc c, false, j.addr, j.len, [], false⟩ none → a.2.1 ≠ 0 → 
      exec (.encodeFrameDone c) s =
        .next ((a.1.addSat (kSess r.session 0xC) 1).freeEnc c)) ∧
  -- ENC_SPARED
  (∀ (s : State) (c : Nat) (u : State), s.awake = true → c < 5 → s.fld (kEnc c 0) 0 2 = 1 →
      s.unitOwed (.enc c) = false → u = s.requeueEnc c → u.fwServes = true →
      (u.setFld (kEnc c 0) 0 2 2).fld (kEnc 4 0) 0 2 = 0 → 
      exec (.encSpared c) s =
        .next (
        let v := (u.setFld (kEnc c 0) 0 2 2).setFld (kEnc 4 0) 0 2 1
        let v := v.fault { mkFault 0xE 2 c 0 with spare := 4, degraded := v.exhausts 6 c }
        (v.raise 0x0802 (mkParam [(0, c), (8, 4)])).exhaust 6 c)) ∧
  -- ENC_SPARED
  (∀ (s : State) (c : Nat) (u : State), s.awake = true → c < 5 → s.fld (kEnc c 0) 0 2 = 1 →
      s.unitOwed (.enc c) = false → u = s.requeueEnc c → u.fwServes = true →
      (u.setFld (kEnc c 0) 0 2 2).fld (kEnc 4 0) 0 2 ≠ 0 → 
      exec (.encSpared c) s =
        .next ((u.setFld (kEnc c 0) 0 2 2).fault (mkFault 0xE 4 c 0))) ∧
  -- ENC_SPARED
  (∀ (s : State) (c : Nat) (u : State), s.awake = true → c < 5 → s.fld (kEnc c 0) 0 2 = 1 →
      s.unitOwed (.enc c) = false → u = s.requeueEnc c → u.fwServes = false →
      exec (.encSpared c) s =
        .next (u.oweUnit (.enc c))) ∧
  -- ENC_RD_WRITE
  (∀ (s : State) (rq : Requester) (e : Nat) (v : B32) (r : EncRec), s.awake = true → e < 32 → regAllowed rq true (kSess e 4) = true →
      s.encRec e = some r → 
      exec (.encRdWrite rq e v) s =
        .next (if v.toNat % 64 = 0 ∧ v.toNat < r.size then s.setReg (kSess e 4) v else s)) ∧
  -- ENC_RD_WRITE
  (∀ (s : State) (rq : Requester) (e : Nat) (v : B32), s.awake = true → e < 32 → regAllowed rq true (kSess e 4) = true →
      s.encRec e = none → 
      exec (.encRdWrite rq e v) s =
        .next (s))

/-- The start of an Aster epoch, the programming of its jobs, the association when the costs are ready, the copy of a journal,
the sparing of a macro and the reads and clears of its registers. In every state and for all operands that meet the conditions
of a clause, exec answers a next state, and it is the one the clause writes: the effect that the rules give the command, in
the model's named operations, and everything else as before. The clauses are for ASTER_EPOCH_START, ASTER_JOB_PROGRAM,
ASTER_COSTS_READY, JOURNAL_COPY_DONE, MACRO_SPARED, AST_TRK_DATA_READ, AST_CNT_CLEAR. Where the manual leaves a point open the
clauses rest on the choice of the model in log entries 37, 38, 81, 138. -/
def Obligations.AsterCommandsComplete : Prop :=
  -- ASTER_EPOCH_START
  (∀ (s : State) (g : Nat) (e : B32) (a : AsterRec) (r : Epoch) (st : Nat), s.astRec g = some a → s.epochRec e = some r → (s.pipe a.pipe).asterStage = some st →
      s.awake = true → r.pipe = a.pipe → s.epochLive e = true →
      (s.astGroup g).journal = none → s.openJournals < 8 → s.commit.epochs.any (fun x => x.2.pipe == a.pipe && olderThan x.1 e) = false →
      s.asterHolds (s.pipe a.pipe) a.pipe st e = true → s.astWaits a = false → s.detWaits (s.pipe a.pipe) a.pipe st e = false →
      exec (.asterEpochStart g e) s =
        .next (s.asterStart a (s.pipe a.pipe) st e r.sample)) ∧
  -- ASTER_JOB_PROGRAM
  (∀ (s : State) (g l : Nat) (a : AsterRec) (j : Journal) (t : Nat) (part : JobPart) (st : Nat), s.astRec g = some a → (s.astGroup g).journal = some j → s.physOf l = some t →
      j.parts.find? (fun x => x.tile == l && !x.done) = some part → (s.pipe a.pipe).asterStage = some st → s.awake = true →
      s.epochLive j.epoch = true → j.copying = false → (s.tile t).failed = false →
      (s.tile t).swap = false → (s.tile t).res1 = none → (s.tile t).arrayBusy .matrix = false →
      s.rowsFilling t (Config.asterWindow a.pipe).1 (Config.asterWindow a.pipe).2 = false → s.astWaits a = false → 
      exec (.asterJobProgram g l) s =
        .next (
        let win := Config.asterWindow a.pipe
        let c : JobCtx := ⟨a, t, win.1, win.2, j.dets.length, j.live.length,
          ⟨BitVec.ofNat 16 t, false, (s.pipe a.pipe).trackSide⟩, j.epoch⟩
        let x := s.jobPasses c ((upTo (part.b1 - part.b0)).map (fun i => part.b0 + i)) (passes c.d (a.passSize win.2))
        if x.2 ≠ 0 then x.1.asterFail (s.pipe a.pipe) a.pipe st j.epoch x.2
        else x.1.setJournal g { j with parts := j.parts.map (fun y => if y.tile = l then { y with done := true } else y) })) ∧
  -- ASTER_COSTS_READY
  (∀ (s : State) (g : Nat) (a : AsterRec) (j : Journal) (r : Epoch) (st : Nat), s.astRec g = some a → (s.astGroup g).journal = some j → (s.pipe a.pipe).asterStage = some st →
      s.epochRec j.epoch = some r → s.awake = true → j.ready = false →
      j.copying = false → s.epochLive j.epoch = true → j.jobOpen = false →
      s.astWaits a = false → s.recordsWait (s.pipe a.pipe) a.pipe st j.epoch (64 + 32 * a.size) = false → 
      exec (.asterCostsReady g) s =
        .next (
        let p := s.pipe a.pipe
        let x := s.memReads (rqAster p.trackSide) (some (j.epoch, a.pipe))
          (if j.parts.isEmpty then [] else
            pieces (a.costAt j.dets.length j.live.length) (512 * (ceilDiv j.live.length 128 * j.dets.length)))
        if x.2 ≠ 0 then x.1.asterFail p a.pipe st j.epoch x.2
        else if x.1.groupLost a then x.1.asterFail p a.pipe st j.epoch 1
        else x.1.asterAssign a p st j r.sample)) ∧
  -- JOURNAL_COPY_DONE
  (∀ (s : State) (g : Nat) (a : AsterRec) (j : Journal), s.astRec g = some a → (s.astGroup g).journal = some j → s.awake = true →
      j.copying = true → s.astWaits a = false → 
      exec (.journalCopyDone g) s =
        .next (
        let u := s.setAstGroup g { s.astGroup g with journal := none }
        let u := j.images.foldl (fun s x => s.trkWrite x.1 x.2) u
        let rq := rqAster (s.pipe a.pipe).trackSide
        let u := j.images.foldl (fun (s : State) x =>
          (s.memWrites rq none [(a.shadow + 64 * (x.1 - a.base), vecBytes x.2 64)]).1) u
        j.embeds.foldl (fun (s : State) x => (s.memWrites rq none (cut512 (a.embBase + x.1 * a.featBytes) x.2)).1) u)) ∧
  -- MACRO_SPARED
  (∀ (s : State) (m : Nat), s.awake = true → s.ast.due.contains m = true → s.macroSpares ≠ 0 →
      s.macroBusy m = false → (upTo 1024).any (fun i => s.trkWaits (m * 1024 + i)) = false → 
      exec (.macroSpared m) s =
        .next (
        let bad := ((s.ast.ue.filter (fun x => macroOf x.1 == m)).map (·.1)).eraseDups
        let u := bad.foldl (fun (s : State) i => s.trkRestore i) s
        let left := u.macroSpares - 1
        let u : State := { u with ast := { u.ast with
          ce := u.ast.ce.filter (fun x => macroOf x.1 != m)
          macros := SMap.set macroSelf u.ast.macros m (68 - s.macroSpares)
          ues := SMap.set zeroNat u.ast.ues m 0
          due := if left = 0 then [] else u.ast.due.filter (· != m)
          lost := if left = 0 then u.ast.lost ++ u.ast.due.filter (· != m) else u.ast.lost } }
        let u := (u.setFld (kAst 0) 24 8 left).raise 0x0902 (mkParam [(0, s.physMacro m), (8, 68 - s.macroSpares)])
        if left = 0 then u.exhaust 7 (s.physMacro m) else u)) ∧
  -- AST_TRK_DATA_READ
  (∀ (s : State) (rq : Requester), s.awake = true → rq.secure = true → s.trkWaits (s.fld (kAst 0x2000) 0 16) = false →
      exec (.astTrkDataRead rq) s =
        .next (
        let x := s.trkRead (s.fld (kAst 0x2000) 0 16)
        { x.1 with ast := { x.1.ast with latch := x.2 }, readback := x.2.truncate 32 })) ∧
  -- AST_TRK_DATA_READ
  (∀ (s : State) (rq : Requester), s.awake = true → rq.secure = false → 
      exec (.astTrkDataRead rq) s =
        .next ({ s.refuseReg rq false (kAst 0x2040) with readback := 0 })) ∧
  -- AST_CNT_CLEAR
  (∀ (s : State) (rq : Requester), s.awake = true → regAllowed rq true (kAst 4) = true → 
      exec (.astCntClear rq) s =
        .next ((upTo 64).foldl (fun s g => s.setReg (kGrp g 0x10) 0) s))

/-- Accesses of every requester form, page retirement, the patrol reader, writes of a region entry and of a pin, the fill of a
pinned region and the recovery RAM. In every state and for all operands that meet the conditions of a clause, exec answers a
next state, and it is the one the clause writes: the effect that the rules give the command, in the model's named operations,
and everything else as before. The clauses are for MEMORY_ACCESS, PAGE_RETIRE_START, PAGE_RETIRED, RET_ADD_GO,
HBM_PATROL_READ, RGN_WRITE, RSV_PIN_WRITE, PIN_FILL, PIN_FILL_DONE, RCV_ACCESS. Where the manual leaves a point open the
clauses rest on the choice of the model in log entries 7, 49, 54, 58, 61, 96, 100, 142. -/
def Obligations.MemoryCommandsComplete : Prop :=
  -- MEMORY_ACCESS
  (∀ (s : State) (a : Access), s.awake = true → s.pageBusy a.addr (accessSize a) = false → s.rcvWaits a.addr (accessSize a) = false →
      exec (.memoryAccess (.plain a)) s =
        .next (
        let r := s.access a none
        { r.1 with mem := { r.1.mem with last := r.2.1, data := r.2.2 } })) ∧
  -- MEMORY_ACCESS
  (∀ (s : State) (a : Access), s.boot.phase = .halted → inRegs a.addr (accessSize a) = accessSize a → 
      exec (.memoryAccess (.plain a)) s =
        .next (
        let r := s.access a none
        { r.1 with mem := { r.1.mem with last := r.2.1, data := r.2.2 } })) ∧
  -- MEMORY_ACCESS
  (∀ (s : State) (a : Access), s.boot.phase = .halted → inRegs a.addr (accessSize a) ≠ accessSize a → 
      exec (.memoryAccess (.plain a)) s =
        .next (
        { s with mem := { s.mem with last := 0, data := if a.write then [] else List.replicate (accessSize a) 0 } })) ∧
  -- MEMORY_ACCESS
  (∀ (s : State) (rq : Requester), s.awake = true → 
      exec (.memoryAccess (.badPlain rq)) s =
        .next (s.fabricFault rq.code.toNat (s.servedBy rq))) ∧
  -- MEMORY_ACCESS
  (∀ (s : State) (t id : Nat) (x : Xfer), s.awake = true → t < 80 → (s.tile t).xfer id = some x →
      x.answer = none → x.away = false → x.op ≠ dmaPush →
      exec (.memoryAccess (.badDma t id)) s =
        .next ((s.fabricFault t [x.step.epoch]).answerOwn t id 1 [])) ∧
  -- MEMORY_ACCESS
  (∀ (s : State) (t id : Nat) (x : Xfer), s.awake = true → t < 80 → (s.tile t).xfer id = some x →
      x.answer = none → x.away = false → x.op ≠ dmaPush →
      s.pageBusy (x.addr % 2 ^ 40) 512 = false → s.writeWaits t x = false → 
      exec (.memoryAccess (.dma t id)) s =
        .next (
        let r := s.access (dmaAccess t x) (some (x.step.epoch, x.step.pipe))
        r.1.answerOwn t id r.2.1 r.2.2)) ∧
  -- PAGE_RETIRE_START
  (∀ (s : State) (k p : Nat) (ps : List Nat), s.awake = true → k < 8 → (s.stack k).queue = p :: ps →
      (s.stack k).copying = none → (s.stack k).spareFor p < sparePages → 
      exec (.pageRetireStart k) s =
        .next (
        let st := s.stack k
        let taken := st.spareFor p :: st.takenWith p
        let u := s.setStack k { st with queue := ps, copying := some (p, st.spareFor p), taken := taken }
        let u := (u.setFld (kHbm k 0) 0 15 (sparePages - taken.length)).mendPage k p
        if sparePages ≤ taken.length then u.sparesGone k p else u)) ∧
  -- PAGE_RETIRED
  (∀ (s : State) (k p f : Nat), s.awake = true → k < 8 → (s.stack k).copying = some (p, f) →
      exec (.pageRetired k) s =
        .next (
        let bad := if p < stackPages then (upTo 64).filter (fun i => s.mem.ue.contains (deviceAddr k (p * 4096 + i * 64))) else []
        let u := s.setStack k ((s.stack k).replaced p f bad)
        let u := if u.mem.retAdd = some (k, p) then
            ({ u with mem := { u.mem with retAdd := none } } : State).setBit (kMem 0x2104) 31 false else u
        (u.addSat (kHbm k 0xC) 1).raise 0x0503 (mkParam [(0, deviceAddr k (p * 4096)), (40, k)]))) ∧
  -- RET_ADD_GO
  (∀ (s : State) (rq : Requester) (v : B32), s.awake = true → v.getLsbD 31 = true → regAllowed rq true (kMem 0x2104) = true →
      s.bit (kMem 0x2104) 31 = true ∨ stackPages ≤ bitsOf v.toNat 0 23 ∨ (s.setFld (kMem 0x2104) 0 26 (v.toNat % 2 ^ 26)).bit (kHbm (bitsOf v.toNat 23 3) 0) 15 = true → 
      exec (.retAddGo rq v) s =
        .next (s.setFld (kMem 0x2104) 0 26 (v.toNat % 2 ^ 26))) ∧
  -- RET_ADD_GO
  (∀ (s : State) (rq : Requester) (v : B32), s.awake = true → v.getLsbD 31 = true → regAllowed rq true (kMem 0x2104) = true →
      ¬ (s.bit (kMem 0x2104) 31 = true ∨ stackPages ≤ bitsOf v.toNat 0 23 ∨ (s.setFld (kMem 0x2104) 0 26 (v.toNat % 2 ^ 26)).bit (kHbm (bitsOf v.toNat 23 3) 0) 15 = true) → 
      exec (.retAddGo rq v) s =
        .next (
        let u := (s.setFld (kMem 0x2104) 0 26 (v.toNat % 2 ^ 26)).queueRetire (bitsOf v.toNat 23 3) (bitsOf v.toNat 0 23)
        ({ u with mem := { u.mem with retAdd := some (bitsOf v.toNat 23 3, bitsOf v.toNat 0 23) } } : State).setBit (kMem 0x2104) 31 true)) ∧
  -- HBM_PATROL_READ
  (∀ (s : State) (k : Nat), s.awake = true → k < 8 → s.fld (kMem 0x2108) 0 8 ≠ 0 →
      ((s.stack k).copying).any (fun c => c.1 == s.patrolPage k (s.stack k).patrol) = false → 
      exec (.hbmPatrolRead k) s =
        .next (
        let n := (s.stack k).patrol
        let u := s.setStack k { s.stack k with patrol := (n + 1) % patrolLines }
        match s.patrolLine k n with
        | some l => (u.hbmLine l none).1
        | none => u.patrolOff k n)) ∧
  -- RGN_WRITE
  (∀ (s : State) (rq : Requester) (i : Nat) (v : B32), s.awake = true → i < 64 → regAllowed rq true (kRgn i 0) = true →
      (s.rgn i).lock = false → 
      exec (.rgnWrite rq i .base v) s =
        .next (s.setReg (kRgn i 0) (v &&& 0x0FFFFFFF))) ∧
  -- RGN_WRITE
  (∀ (s : State) (rq : Requester) (i : Nat) (v : B32), s.awake = true → i < 64 → regAllowed rq true (kRgn i 0) = true →
      (s.rgn i).lock = true → 
      exec (.rgnWrite rq i .base v) s =
        .next (s)) ∧
  -- RGN_WRITE
  (∀ (s : State) (rq : Requester) (i : Nat) (v : B32), s.awake = true → i < 64 → regAllowed rq true (kRgn i 4) = true →
      (s.rgn i).lock = false → 
      exec (.rgnWrite rq i .last v) s =
        .next (s.setReg (kRgn i 4) (v &&& 0x0FFFFFFF))) ∧
  -- RGN_WRITE
  (∀ (s : State) (rq : Requester) (i : Nat) (v : B32), s.awake = true → i < 64 → regAllowed rq true (kRgn i 4) = true →
      (s.rgn i).lock = true → 
      exec (.rgnWrite rq i .last v) s =
        .next (s)) ∧
  -- RGN_WRITE
  (∀ (s : State) (rq : Requester) (i : Nat) (v : B32), s.awake = true → i < 64 → regAllowed rq true (kRgn i 8) = true →
      (s.rgn i).lock = false → 
      exec (.rgnWrite rq i .attr v) s =
        .next (s.setReg (kRgn i 8) (v &&& 0x3F))) ∧
  -- RGN_WRITE
  (∀ (s : State) (rq : Requester) (i : Nat) (v : B32), s.awake = true → i < 64 → regAllowed rq true (kRgn i 8) = true →
      (s.rgn i).lock = true → 
      exec (.rgnWrite rq i .attr v) s =
        .next (s)) ∧
  -- RSV_PIN_WRITE
  (∀ (s : State) (rq : Requester) (j : Nat) (v : B32), s.awake = true → j < 8 → regAllowed rq true (kPin j) = true →
      s.pinRefuses j v = false → 
      exec (.rsvPinWrite rq j v) s =
        .next (
        (s.setReg (kPin j) ((v &&& 0xFFFF00FF) ||| (s.reg (kPin j) &&& 0x80))).dropWays s)) ∧
  -- RSV_PIN_WRITE
  (∀ (s : State) (rq : Requester) (j : Nat) (v : B32), s.awake = true → j < 8 → regAllowed rq true (kPin j) = true →
      s.pinRefuses j v = true → 
      exec (.rsvPinWrite rq j v) s =
        .next (s)) ∧
  -- PIN_FILL
  (∀ (s : State) (rq : Requester) (j : Nat), s.awake = true → j < 8 → regAllowed rq true (kPin j) = true →
      s.bit (kPin j) 7 = false → 
      exec (.pinFill rq j) s =
        .next (s.setBit (kPin j) 7 true)) ∧
  -- PIN_FILL_DONE
  (∀ (s : State) (j : Nat), s.awake = true → j < 8 → s.bit (kPin j) 7 = true →
      (s.pinLines j).any (fun a => s.pageBusy a 128) = false → 
      exec (.pinFillDone j) s =
        .next (
        ((s.pinLines j).foldl (fun s a => s.fillLine a) s).setBit (kPin j) 7 false)) ∧
  -- RCV_ACCESS
  (∀ (s : State) (m : RcvRequest), s.awake = true → s.go = true → 
      exec (.rcvAccess m) s =
        .next (
        let len := if m.write then m.data.length else m.len
        let addr := ctlBase + 0x10000000 + m.off
        let r : State × Nat × List Byte :=
          if len = 0 ∨ localTop < addr + len - 1 then (s, 0x13, [])
          else if s.boot.rcvSize < m.off + len then
            (s.violation m.rq m.write (max addr (ctlBase + 0x10000000 + s.boot.rcvSize) / 64 * 64) ⟨1, 1, 0x30, none⟩, 0x30, [])
          else if !rqQuill m.rq then (s.violation m.rq m.write (addr / 64 * 64) ⟨2, 2, 0x30, none⟩, 0x30, [])
          else s.rcvAccess m.write m.off len m.data
        { r.1 with mem := { r.1.mem with last := r.2.1, data := r.2.2 } }))

/-- Enabling an intake ring with its checks, disabling and draining it, the poll, and the returns of the producer word, a
descriptor and its data, good or failed. In every state and for all operands that meet the conditions of a clause, exec
answers a next state, and it is the one the clause writes: the effect that the rules give the command, in the model's named
operations, and everything else as before. The clauses are for IR_ENABLE, IR_DISABLE, IR_DRAIN_DONE, IR_POLL,
IR_PRODUCER_RETURN, IR_DESCRIPTOR_RETURN, IR_DATA_RETURN. Where the manual leaves a point open the clauses rest on the choice
of the model in log entries 1, 134, 139, 140. -/
def Obligations.HostRingCommandsComplete : Prop :=
  -- IR_ENABLE
  (∀ (s : State) (i : Nat) (v : B32) (prod : Option B32) (e : Nat), s.awake = true → i < 256 → v.getLsbD 0 = true →
      s.bit (kIr i 8) 0 = false → s.irState i = 0 → (s.iring i).enabling = false →
      (s.setReg (kIr i 8) (v &&& 0x03FFFF3E)).irRefuses i v = some e → 
      exec (.irEnable i v prod) s =
        .next ((s.setReg (kIr i 8) (v &&& 0x03FFFF3E)).setIrErr i e)) ∧
  -- IR_ENABLE
  (∀ (s : State) (i : Nat) (v : B32) (prod : Option B32), s.awake = true → i < 256 → v.getLsbD 0 = true →
      s.bit (kIr i 8) 0 = false → s.irState i = 0 → (s.iring i).enabling = false →
      (s.setReg (kIr i 8) (v &&& 0x03FFFF3E)).irRefuses i v = none → (s.setReg (kIr i 8) (v &&& 0x03FFFF3E)).isHome = true → (s.setReg (kIr i 8) (v &&& 0x03FFFF3E)).hostPath = false ∨ prod = none →
      exec (.irEnable i v prod) s =
        .next (
        let u := (s.setReg (kIr i 8) (v &&& 0x03FFFF3E))
        (u.setIring i { u.iring i with enabling := false }).hdmaErr.setIrErr i 2)) ∧
  -- IR_ENABLE
  (∀ (s : State) (i : Nat) (v : B32) (prod : Option B32) (p : B32), s.awake = true → i < 256 → v.getLsbD 0 = true →
      s.bit (kIr i 8) 0 = false → s.irState i = 0 → (s.iring i).enabling = false →
      (s.setReg (kIr i 8) (v &&& 0x03FFFF3E)).irRefuses i v = none → (s.setReg (kIr i 8) (v &&& 0x03FFFF3E)).isHome = true → (s.setReg (kIr i 8) (v &&& 0x03FFFF3E)).hostPath = true →
      prod = some p → 
      exec (.irEnable i v prod) s =
        .next (
        let u := (s.setReg (kIr i 8) (v &&& 0x03FFFF3E))
        let u := u.setIring i { u.iring i with enabling := false }
        let u := (u.setBit (kIr i 8) 0 true).setReg (kIr i 0x20) p
        let u := (u.setIrErr i 0).setIrState i 1
        (u.setIring i { u.iring i with prod := p, polled := false, asked := false }).postWord (kIr i 0x18) p)) ∧
  -- IR_ENABLE
  (∀ (s : State) (i : Nat) (v : B32) (prod : Option B32), s.awake = true → i < 256 → v.getLsbD 0 = true →
      s.bit (kIr i 8) 0 = false → s.irState i = 0 → (s.iring i).enabling = false →
      (s.setReg (kIr i 8) (v &&& 0x03FFFF3E)).irRefuses i v = none → (s.setReg (kIr i 8) (v &&& 0x03FFFF3E)).isHome = false → (s.setReg (kIr i 8) (v &&& 0x03FFFF3E)).hostPath = true →
      exec (.irEnable i v prod) s =
        .next (
        let u := (s.setReg (kIr i 8) (v &&& 0x03FFFF3E))
        u.setIring i { u.iring i with enabling := true })) ∧
  -- IR_DISABLE
  (∀ (s : State) (i : Nat) (v : B32), s.awake = true → i < 256 → v.getLsbD 0 = false →
      s.bit (kIr i 8) 0 = true → s.irState i = 1 ∨ s.irState i = 3 → 
      exec (.irDisable i v) s =
        .next (((s.setBit (kIr i 8) 0 false).setIrState i 2).setIring i { s.iring i with polled := false, asked := false })) ∧
  -- IR_DRAIN_DONE
  (∀ (s : State) (i : Nat), s.awake = true → i < 256 → s.irState i = 2 →
      (s.iring i).open_ = 0 → (s.iring i).desc = none → 
      exec (.irDrainDone i) s =
        .next (s.setIrState i 0)) ∧
  -- IR_POLL
  (∀ (s : State) (i : Nat), s.awake = true → i < 256 → s.irState i = 1 →
      s.hostAbsent = false → s.hostPath = true → 
      exec (.irPoll i) s =
        .next (s.setIring i { s.iring i with polled := true })) ∧
  -- IR_POLL
  (∀ (s : State) (i : Nat), s.awake = true → i < 256 → s.irState i = 1 →
      s.hostAbsent = false → s.hostPath = false → 
      exec (.irPoll i) s =
        .next (s.hdmaErr.irHalt i 2 0)) ∧
  -- IR_PRODUCER_RETURN
  (∀ (s : State) (i : Nat) (prod : Option B32) (u : State) (p : B32), s.awake = true → i < 256 → s.irState i = 1 →
      (s.iring i).polled = true → (s.iring i).enabling = false → s.fetchWord (.producer i) (kIr i 0x10) prod = (u, some (some p)) →
      (p - u.reg (kIr i 0x20)).toNat ≤ 2 ^ u.fld (kIr i 8) 1 5 → 
      exec (.irProducerReturn i prod) s =
        .next ((u.setIring i { u.iring i with prod := p, polled := false }).irNext i)) ∧
  -- IR_PRODUCER_RETURN
  (∀ (s : State) (i : Nat) (prod : Option B32) (u : State) (p : B32), s.awake = true → i < 256 → s.irState i = 1 →
      (s.iring i).polled = true → (s.iring i).enabling = false → s.fetchWord (.producer i) (kIr i 0x10) prod = (u, some (some p)) →
      2 ^ u.fld (kIr i 8) 1 5 < (p - u.reg (kIr i 0x20)).toNat → 
      exec (.irProducerReturn i prod) s =
        .next (u.irHalt i 0x13 p)) ∧
  -- IR_PRODUCER_RETURN
  (∀ (s : State) (i : Nat) (prod : Option B32) (u : State), s.awake = true → i < 256 → s.irState i = 1 →
      (s.iring i).polled = true → (s.iring i).enabling = false → s.fetchWord (.producer i) (kIr i 0x10) prod = (u, some none) →
      exec (.irProducerReturn i prod) s =
        .next (u.hdmaErr.irHalt i 2 0)) ∧
  -- IR_PRODUCER_RETURN
  (∀ (s : State) (i : Nat) (prod : Option B32) (u : State) (w : Option B32), s.awake = true → i < 256 → (s.iring i).enabling = true →
      s.fetchWord (.producer i) (kIr i 0x10) prod = (u, some w) → 
      exec (.irProducerReturn i prod) s =
        .next (u.irLoad i w)) ∧
  -- IR_PRODUCER_RETURN
  (∀ (s : State) (i : Nat) (prod : Option B32) (u : State), s.awake = true → i < 256 → (s.iring i).enabling = true ∨ (s.irState i = 1 ∧ (s.iring i).polled = true) →
      s.fetchWord (.producer i) (kIr i 0x10) prod = (u, none) → 
      exec (.irProducerReturn i prod) s =
        .next (u)) ∧
  -- IR_DESCRIPTOR_RETURN
  (∀ (s : State) (i : Nat) (desc : Option (BitVec 512)) (u : State) (l : List Byte) (t : Target) (d : BitVec 512) (st : Nat), s.awake = true → i < 256 → s.irState i = 1 →
      (s.iring i).asked = true → s.hostFetch (.desc i) (s.irDescAt i) 64 (desc.map (fun d => natToBytes d.toNat 64)) = (u, some (some l)) → (u.iring i).target = some t →
      d = BitVec.ofNat 512 (bytesToNat l) → (u.setIring i { u.iring i with asked := false }).descStatus t d = some st → 
      exec (.irDescriptorReturn i desc) s =
        .next (
        let v := u.setIring i { u.iring i with asked := false }
        v.irFail i (u.fld (kIr i 8) 8 8) st (BitVec.ofNat 64 (bitsOf d.toNat 64 64)) (BitVec.ofNat 32 (bitsOf d.toNat 224 32)))) ∧
  -- IR_DESCRIPTOR_RETURN
  (∀ (s : State) (i : Nat) (desc : Option (BitVec 512)) (u : State) (l : List Byte) (t : Target) (d : BitVec 512), s.awake = true → i < 256 → s.irState i = 1 →
      (s.iring i).asked = true → s.hostFetch (.desc i) (s.irDescAt i) 64 (desc.map (fun d => natToBytes d.toNat 64)) = (u, some (some l)) → (u.iring i).target = some t →
      d = BitVec.ofNat 512 (bytesToNat l) → (u.setIring i { u.iring i with asked := false }).descStatus t d = none → 
      exec (.irDescriptorReturn i desc) s =
        .next (
        let n := d.toNat
        let u := u.setIring i { u.iring i with asked := false }
        let buf := bitsOf n 32 12
        let mem := u.bit (kBuf buf 0xC) 8
        let addr := (u.reg64 (kBuf buf 0)).toNat
        let base := (if mem then addr % 2 ^ 40 else addr) + bitsOf n 128 40
        let slots := match t with
          | .tensor p port => (u.sourceSlots p port).getD []
          | .au _ => []
        let u := match t with
          | .tensor p _ => u.fillSlots p slots
          | .au _ => u
        u.setIring i { u.iring i with desc := some ⟨BitVec.ofNat 64 (bitsOf n 64 64), BitVec.ofNat 32 (bitsOf n 224 32), base, bitsOf n 192 32, mem, slots, u.fld (kIr i 8) 8 8, false⟩ })) ∧
  -- IR_DESCRIPTOR_RETURN
  (∀ (s : State) (i : Nat) (desc : Option (BitVec 512)) (u : State), s.awake = true → i < 256 → s.irState i = 1 →
      (s.iring i).asked = true → s.hostFetch (.desc i) (s.irDescAt i) 64 (desc.map (fun d => natToBytes d.toNat 64)) = (u, some none) → 
      exec (.irDescriptorReturn i desc) s =
        .next (u.hdmaErr.irHalt i 2 0)) ∧
  -- IR_DESCRIPTOR_RETURN
  (∀ (s : State) (i : Nat) (desc : Option (BitVec 512)) (u : State), s.awake = true → i < 256 → s.irState i = 1 →
      (s.iring i).asked = true → s.hostFetch (.desc i) (s.irDescAt i) 64 (desc.map (fun d => natToBytes d.toNat 64)) = (u, none) → 
      exec (.irDescriptorReturn i desc) s =
        .next (u)) ∧
  -- IR_DATA_RETURN
  (∀ (s : State) (i : Nat) (data : Option (List Byte)) (d : IrDesc) (x : State × Option (Option (List Byte))) (t : Target) (r : State × Nat × List Byte), s.awake = true → i < 256 → (s.iring i).desc = some d →
      (s.iring i).target = some (t) → s.itemWaits (t) d = false → x = s.hostFetch (.data i) d.addr d.length data →
      d.mem = true ∨ x.2 ≠ none → r = (if d.mem then s.hostWindow false d.addr d.length []
       else match x.2 with
         | some (some b) => if b.length = d.length then (x.1, 0, b) else (x.1.hdmaErr, 2, [])
         | _ => (x.1.hdmaErr, 2, [])) → r.2.1 ≠ 0 →
      exec (.irDataReturn i data) s =
        .next (
        let u := match t with
          | .tensor p _ => r.1.unfillSlots p d.slots
          | .au _ => r.1
        u.irFail i d.rring r.2.1 d.sample d.tag)) ∧
  -- IR_DATA_RETURN
  (∀ (s : State) (i : Nat) (data : Option (List Byte)) (d : IrDesc) (x : State × Option (Option (List Byte))) (p port : Nat) (r : State × Nat × List Byte), s.awake = true → i < 256 → (s.iring i).desc = some d →
      (s.iring i).target = some (.tensor p port) → s.itemWaits (.tensor p port) d = false → x = s.hostFetch (.data i) d.addr d.length data →
      d.mem = true ∨ x.2 ≠ none → r = (if d.mem then s.hostWindow false d.addr d.length []
       else match x.2 with
         | some (some b) => if b.length = d.length then (x.1, 0, b) else (x.1.hdmaErr, 2, [])
         | _ => (x.1.hdmaErr, 2, [])) → r.2.1 = 0 →
      (r.1.writeSlots p d.slots r.2.2).2 ≠ 0 → 
      exec (.irDataReturn i data) s =
        .next (
        let w := r.1.writeSlots p d.slots r.2.2
        (w.1.unfillSlots p d.slots).irFail i d.rring w.2 d.sample d.tag)) ∧
  -- IR_DATA_RETURN
  (∀ (s : State) (i : Nat) (data : Option (List Byte)) (d : IrDesc) (x : State × Option (Option (List Byte))) (p port : Nat) (r : State × Nat × List Byte), s.awake = true → i < 256 → (s.iring i).desc = some d →
      (s.iring i).target = some (.tensor p port) → s.itemWaits (.tensor p port) d = false → x = s.hostFetch (.data i) d.addr d.length data →
      d.mem = true ∨ x.2 ≠ none → r = (if d.mem then s.hostWindow false d.addr d.length []
       else match x.2 with
         | some (some b) => if b.length = d.length then (x.1, 0, b) else (x.1.hdmaErr, 2, [])
         | _ => (x.1.hdmaErr, 2, [])) → r.2.1 = 0 →
      (r.1.writeSlots p d.slots r.2.2).2 = 0 → 
      exec (.irDataReturn i data) s =
        .next (
        let w := r.1.writeSlots p d.slots r.2.2
        let sm : Sample := ⟨2, d.sample, [], some i, d.rring, d.tag, 0, 0, r.1.timeNs⟩
        let u := w.1.setIring i { w.1.iring i with desc := none, open_ := (w.1.iring i).open_ + 1 }
        let u := if (u.pipe p).stopped then u.completeStopped p d.slots sm
                 else u.pushSource p port ⟨d.slots, sm, [], [], d.length, none⟩
        (u.irAdvance i d.stale).irNext i)) ∧
  -- IR_DATA_RETURN
  (∀ (s : State) (i : Nat) (data : Option (List Byte)) (d : IrDesc) (x : State × Option (Option (List Byte))) (y : Nat) (r : State × Nat × List Byte), s.awake = true → i < 256 → (s.iring i).desc = some d →
      (s.iring i).target = some (.au y) → s.itemWaits (.au y) d = false → x = s.hostFetch (.data i) d.addr d.length data →
      d.mem = true ∨ x.2 ≠ none → r = (if d.mem then s.hostWindow false d.addr d.length []
       else match x.2 with
         | some (some b) => if b.length = d.length then (x.1, 0, b) else (x.1.hdmaErr, 2, [])
         | _ => (x.1.hdmaErr, 2, [])) → r.2.1 = 0 →
      exec (.irDataReturn i data) s =
        .next (
        let sm : Sample := ⟨2, d.sample, [], some i, d.rring, d.tag, 0, 0, r.1.timeNs⟩
        let u := r.1.setIring i { r.1.iring i with desc := none, open_ := (r.1.iring i).open_ + 1 }
        let u : State := { u with vid := { u.vid with units := u.vid.units ++ [(⟨y, r.2.2, sm, false, false, 0, 0, none, false, false⟩ : AuUnit)] } }
        (u.irAdvance i d.stale).irNext i)) ∧
  -- IR_DATA_RETURN
  (∀ (s : State) (i : Nat) (data : Option (List Byte)) (d : IrDesc) (t : Target) (u : State), s.awake = true → i < 256 → (s.iring i).desc = some d →
      (s.iring i).target = some t → s.itemWaits (t) d = false → d.mem = false →
      s.hostFetch (.data i) d.addr d.length data = (u, none) → 
      exec (.irDataReturn i data) s =
        .next (u))

/-- Enabling a result ring with its checks, disabling it, the write of an entry, the read of the consumer index, the end of
moderation and the unmasking of a vector. In every state and for all operands that meet the conditions of a clause, exec
answers a next state, and it is the one the clause writes: the effect that the rules give the command, in the model's named
operations, and everything else as before. The clauses are for RR_ENABLE, RR_DISABLE, RR_ENTRY_WRITE, RR_CONSUMER_REREAD,
MSIX_MODERATION_EXPIRE, MSIX_UNMASK. Where the manual leaves a point open the clauses rest on the choice of the model in log
entries 14, 55, 134, 140. -/
def Obligations.ResultRingCommandsComplete : Prop :=
  -- RR_ENABLE
  (∀ (s : State) (j : Nat) (v : B32) (cons : Option B32) (e : Nat), s.awake = true → j < 256 → v.getLsbD 0 = true →
      s.bit (kRr j 8) 0 = false → (s.rring j).enabling = false → (s.setReg (kRr j 8) (v &&& 0x3F3E)).rrRefuses j v = some e →
      exec (.rrEnable j v cons) s =
        .next ((s.setReg (kRr j 8) (v &&& 0x3F3E)).setFld (kRr j 0x24) 8 8 e)) ∧
  -- RR_ENABLE
  (∀ (s : State) (j : Nat) (v : B32) (cons : Option B32), s.awake = true → j < 256 → v.getLsbD 0 = true →
      s.bit (kRr j 8) 0 = false → (s.rring j).enabling = false → (s.setReg (kRr j 8) (v &&& 0x3F3E)).rrRefuses j v = none →
      (s.setReg (kRr j 8) (v &&& 0x3F3E)).isHome = true → (s.setReg (kRr j 8) (v &&& 0x3F3E)).hostPath = false ∨ cons = none → 
      exec (.rrEnable j v cons) s =
        .next (
        let u := (s.setReg (kRr j 8) (v &&& 0x3F3E))
        (u.setRring j { u.rring j with enabling := false }).hdmaErr.setFld (kRr j 0x24) 8 8 2)) ∧
  -- RR_ENABLE
  (∀ (s : State) (j : Nat) (v : B32) (cons : Option B32) (p : B32), s.awake = true → j < 256 → v.getLsbD 0 = true →
      s.bit (kRr j 8) 0 = false → (s.rring j).enabling = false → (s.setReg (kRr j 8) (v &&& 0x3F3E)).rrRefuses j v = none →
      (s.setReg (kRr j 8) (v &&& 0x3F3E)).isHome = true → (s.setReg (kRr j 8) (v &&& 0x3F3E)).hostPath = true → cons = some p →
      exec (.rrEnable j v cons) s =
        .next (
        let u := (s.setReg (kRr j 8) (v &&& 0x3F3E))
        let u := u.setRring j { u.rring j with enabling := false }
        let u := ((u.setBit (kRr j 8) 0 true).setReg (kRr j 0x20) p).setFld (kRr j 0x24) 0 2 1
        (u.setRring j { u.rring j with cons := p, since := 0 }).postWord (kRr j 0x10) p)) ∧
  -- RR_ENABLE
  (∀ (s : State) (j : Nat) (v : B32) (cons : Option B32), s.awake = true → j < 256 → v.getLsbD 0 = true →
      s.bit (kRr j 8) 0 = false → (s.rring j).enabling = false → (s.setReg (kRr j 8) (v &&& 0x3F3E)).rrRefuses j v = none →
      (s.setReg (kRr j 8) (v &&& 0x3F3E)).isHome = false → (s.setReg (kRr j 8) (v &&& 0x3F3E)).hostPath = true → 
      exec (.rrEnable j v cons) s =
        .next (
        let u := (s.setReg (kRr j 8) (v &&& 0x3F3E))
        u.setRring j { u.rring j with enabling := true })) ∧
  -- RR_DISABLE
  (∀ (s : State) (j : Nat) (v : B32), s.awake = true → j < 256 → v.getLsbD 0 = false →
      s.bit (kRr j 8) 0 = true → 
      exec (.rrDisable j v) s =
        .next (
        let r := s.rring j
        let u := ((s.setBit (kRr j 8) 0 false).setFld (kRr j 0x24) 0 2 0).setRring j { r with waiting := [], since := 0 }
        r.waiting.foldl (fun s e => (s.addSat (kRr j 0x2C) 1).entryDone e) u)) ∧
  -- RR_ENTRY_WRITE
  (∀ (s : State) (j : Nat) (e : ResEntry) (es : List ResEntry), s.awake = true → j < 256 → s.bit (kRr j 8) 0 = true →
      s.hostAbsent = false → (s.rring j).waiting = e :: es → (s.rrPlace j e).1 + (s.rrPlace j e).2.1 ≤ s.rrFree j →
      exec (.rrEntryWrite j) s =
        .next (((s.setRring j { s.rring j with waiting := es }).setFld (kRr j 0x24) 0 2 1).rrWrite j e)) ∧
  -- RR_ENTRY_WRITE
  (∀ (s : State) (j : Nat) (e : ResEntry) (es : List ResEntry), s.awake = true → j < 256 → s.bit (kRr j 8) 0 = true →
      s.hostAbsent = false → (s.rring j).waiting = e :: es → s.rrFree j < (s.rrPlace j e).1 + (s.rrPlace j e).2.1 →
      exec (.rrEntryWrite j) s =
        .next (s.setFld (kRr j 0x24) 0 2 2)) ∧
  -- RR_CONSUMER_REREAD
  (∀ (s : State) (j : Nat) (cons : Option B32) (u : State) (c : B32), s.awake = true → j < 256 → s.consAsked j = true →
      (s.rring j).enabling = false → s.fetchWord (.consumer j) (kCons j) cons = (u, some (some c)) → (u.reg (kRr j 0x20) - c).toNat ≤ 2 ^ u.fld (kRr j 8) 1 5 →
      exec (.rrConsumerReread j cons) s =
        .next (u.setRring j { u.rring j with cons := c })) ∧
  -- RR_CONSUMER_REREAD
  (∀ (s : State) (j : Nat) (cons : Option B32) (u : State) (c : B32), s.awake = true → j < 256 → s.consAsked j = true →
      (s.rring j).enabling = false → s.fetchWord (.consumer j) (kCons j) cons = (u, some (some c)) → 2 ^ u.fld (kRr j 8) 1 5 < (u.reg (kRr j 0x20) - c).toNat →
      exec (.rrConsumerReread j cons) s =
        .next (u.setBit (kRr j 0x24) 2 true)) ∧
  -- RR_CONSUMER_REREAD
  (∀ (s : State) (j : Nat) (cons : Option B32) (u : State), s.awake = true → j < 256 → s.consAsked j = true →
      (s.rring j).enabling = false → s.fetchWord (.consumer j) (kCons j) cons = (u, some none) → 
      exec (.rrConsumerReread j cons) s =
        .next (u.hdmaErr)) ∧
  -- RR_CONSUMER_REREAD
  (∀ (s : State) (j : Nat) (cons : Option B32) (u : State) (w : Option B32), s.awake = true → j < 256 → s.consAsked j = true →
      (s.rring j).enabling = true → s.fetchWord (.consumer j) (kCons j) cons = (u, some w) → 
      exec (.rrConsumerReread j cons) s =
        .next (u.rrLoad j w)) ∧
  -- RR_CONSUMER_REREAD
  (∀ (s : State) (cons : Option B32) (u : State) (c : B32), s.awake = true → s.consAsked 256 = true → s.host.evEnabling = false →
      s.fetchWord (.consumer 256) (kCons 256) cons = (u, some (some c)) → (u.host.evProd - c).toNat ≤ 2 ^ u.fld (kQcx 0x308) 1 5 → 
      exec (.rrConsumerReread 256 cons) s =
        .next ({ u with host := { u.host with evCons := c } })) ∧
  -- RR_CONSUMER_REREAD
  (∀ (s : State) (cons : Option B32) (u : State) (c : B32), s.awake = true → s.consAsked 256 = true → s.host.evEnabling = false →
      s.fetchWord (.consumer 256) (kCons 256) cons = (u, some (some c)) → 2 ^ u.fld (kQcx 0x308) 1 5 < (u.host.evProd - c).toNat → 
      exec (.rrConsumerReread 256 cons) s =
        .next (u)) ∧
  -- RR_CONSUMER_REREAD
  (∀ (s : State) (cons : Option B32) (u : State), s.awake = true → s.consAsked 256 = true → s.host.evEnabling = false →
      s.fetchWord (.consumer 256) (kCons 256) cons = (u, some none) → 
      exec (.rrConsumerReread 256 cons) s =
        .next (u.hdmaErr)) ∧
  -- RR_CONSUMER_REREAD
  (∀ (s : State) (cons : Option B32) (u : State) (w : Option B32), s.awake = true → s.consAsked 256 = true → s.host.evEnabling = true →
      s.fetchWord (.consumer 256) (kCons 256) cons = (u, some w) → 
      exec (.rrConsumerReread 256 cons) s =
        .next (u.evtLoad w)) ∧
  -- RR_CONSUMER_REREAD
  (∀ (s : State) (j : Nat) (cons : Option B32) (u : State), s.awake = true → s.consAsked j = true → s.fetchWord (.consumer j) (kCons j) cons = (u, none) →
      exec (.rrConsumerReread j cons) s =
        .next (u)) ∧
  -- MSIX_MODERATION_EXPIRE
  (∀ (s : State) (j us : Nat), s.awake = true → j < 256 → us = s.fld (kRr j 0xC) 16 16 →
      us ≠ 0 → (s.rring j).since ≠ 0 → (s.rring j).firstAt + usTicks us ≤ s.elapsed.toNat →
      exec (.msixModerationExpire j) s =
        .next ((s.setRring j { s.rring j with since := 0 }).sendMsix (s.fld (kRr j 8) 8 6))) ∧
  -- MSIX_MODERATION_EXPIRE
  (∀ (s : State) (us : Nat), s.awake = true → us = s.fld (kQcx 0x320) 16 16 → us ≠ 0 →
      s.host.evSince ≠ 0 → s.host.evFirst + usTicks us ≤ s.elapsed.toNat → 
      exec (.msixModerationExpire 256) s =
        .next (({ s with host := { s.host with evSince := 0 } } : State).sendMsix 0)) ∧
  -- MSIX_UNMASK
  (∀ (s : State) (vec : Nat), s.awake = true → vec < 64 → s.bit (kMsix vec 0xC) 0 = true →
      exec (.msixUnmask vec) s =
        .next (
        let k := kPba + 4 * (vec / 32)
        let u := s.setBit (kMsix vec 0xC) 0 false
        if u.bit k (vec % 32) then (u.setBit k (vec % 32) false).sendMsix vec else u))

/-- A function level reset, a read or write of a BAR0, BAR2 or BAR4 with a good TLP and the discard of one that is not good,
the write of a buffer entry and the read of the heartbeat, with a new word, an old one or none. In every state and for all
operands that meet the conditions of a clause, exec answers a next state, and it is the one the clause writes: the effect that
the rules give the command, in the model's named operations, and everything else as before. The clauses are for
FUNCTION_LEVEL_RESET, BAR2_ACCESS, BUF_ENTRY_WRITE, HEARTBEAT_READ. Where the manual leaves a point open the clauses rest on
the choice of the model in log entries 58, 129, 140. -/
def Obligations.HostInterfaceCommandsComplete : Prop :=
  -- FUNCTION_LEVEL_RESET
  (∀ (s : State), s.awake = true → 
      exec .functionLevelReset s =
        .next (s.resetRings.enterAbsent 3)) ∧
  -- BAR2_ACCESS
  (∀ (s : State) (tlp : TlpCheck) (write : Bool) (off len : Nat) (data : List Byte) (n : Nat), s.answers = true → s.host.link = true → s.host.pcie.d3hot = false →
      s.tlpBad tlp = none → n = (if write then data.length else len) → off + n ≤ regSpace →
      n ≠ 0 → 
      exec (.bar2Access ⟨.bar0, tlp, write⟩ off len data) s =
        .next (
        let r := s.regAccess ⟨rqHost, write, ctlBase + off, len, data, false⟩
        s.barDone write (r.1, 0, if r.2.1 = 0 then r.2.2 else List.replicate len 0))) ∧
  -- BAR2_ACCESS
  (∀ (s : State) (tlp : TlpCheck) (write : Bool) (off len : Nat) (data : List Byte) (a n : Nat), s.answers = true → s.host.link = true → s.host.pcie.d3hot = false →
      s.awake = true → s.tlpBad tlp = none → n = (if write then data.length else len) →
      a = (s.reg64 (kHst 0x30)).toNat + off → off + n ≤ 2 ^ s.host.pcie.bar2Log2 → s.pageBusy a n = false →
      s.rcvWaits a n = false → 
      exec (.bar2Access ⟨.bar2, tlp, write⟩ off len data) s =
        .next (s.barDone write (s.hostWindow write a len data))) ∧
  -- BAR2_ACCESS
  (∀ (s : State) (tlp : TlpCheck) (write : Bool) (off len : Nat) (data : List Byte), s.answers = true → s.host.link = true → s.host.pcie.d3hot = false →
      s.awake = false → s.tlpBad tlp = none → off + (if write then data.length else len) ≤ 2 ^ s.host.pcie.bar2Log2 →
      exec (.bar2Access ⟨.bar2, tlp, write⟩ off len data) s =
        .next (s.barDone write (s, 0, if write then [] else List.replicate len 0))) ∧
  -- BAR2_ACCESS
  (∀ (s : State) (tlp : TlpCheck) (write : Bool) (off len : Nat) (data : List Byte) (n : Nat), s.answers = true → s.host.link = true → s.host.pcie.d3hot = false →
      s.tlpBad tlp = none → n = (if write then data.length else len) → off + n ≤ 0x1000000 →
      n ≠ 0 → 
      exec (.bar2Access ⟨.bar4, tlp, write⟩ off len data) s =
        .next (
        let ks := (keysOf off n).map (fun k => barRing + k)
        s.barDone write (
          if write then (ks.foldl (fun (u : State) k => u.writeWord rqHost k (barRing + off) data) s, 0, [])
          else ((s.readWords rqHost ks).1, 0, ((s.readWords rqHost ks).2.drop (off % 4)).take len)))) ∧
  -- BAR2_ACCESS
  (∀ (s : State) (bar : HostBar) (tlp : TlpCheck) (write : Bool) (off len : Nat) (data : List Byte) (u : State), s.answers = true → s.host.link = true → s.host.pcie.d3hot = false →
      s.tlpBad tlp = some u → 
      exec (.bar2Access ⟨bar, tlp, write⟩ off len data) s =
        .next (u)) ∧
  -- BUF_ENTRY_WRITE
  (∀ (s : State) (b : Nat) (v : B32), s.awake = true → b < 4096 → 
      exec (.bufEntryWrite b v) s =
        .next (
        let w := v &&& 0x800001FF
        let size := (s.reg (kBuf b 8)).toNat + bitsOf w.toNat 0 8 * 2 ^ 32
        s.setReg (kBuf b 0xC) (if size = 0 then w &&& 0x7FFFFFFF else w))) ∧
  -- HEARTBEAT_READ
  (∀ (s : State) (word : Option B32) (u : State) (w : B32), s.awake = true → s.bit (kHst 0x28) 0 = true → s.hostAbsent = false ∨ s.hostLink = true →
      s.fetchWord .heartbeat (kHst 0x20) word = (u, some (some w)) → w ≠ u.reg (kHst 0x2C) → 
      exec (.heartbeatRead word) s =
        .next ({ u.setReg (kHst 0x2C) w with host := { u.host with hbAt := u.elapsed } })) ∧
  -- HEARTBEAT_READ
  (∀ (s : State) (word : Option B32) (u : State) (w : B32), s.awake = true → s.bit (kHst 0x28) 0 = true → s.hostAbsent = false ∨ s.hostLink = true →
      s.fetchWord .heartbeat (kHst 0x20) word = (u, some (some w)) → w = u.reg (kHst 0x2C) → 
      exec (.heartbeatRead word) s =
        .next (
        let v := u
        if v.hostAbsent = false ∧ msTicks (v.fld (kHst 0x28) 16 14) ≤ (v.elapsed - v.host.hbAt).toNat then v.enterAbsent 1 else v)) ∧
  -- HEARTBEAT_READ
  (∀ (s : State) (word : Option B32) (u : State), s.awake = true → s.bit (kHst 0x28) 0 = true → s.hostAbsent = false ∨ s.hostLink = true →
      s.fetchWord .heartbeat (kHst 0x20) word = (u, some none) → 
      exec (.heartbeatRead word) s =
        .next (
        let v := u.hdmaErr
        if v.hostAbsent = false ∧ msTicks (v.fld (kHst 0x28) 16 14) ≤ (v.elapsed - v.host.hbAt).toNat then v.enterAbsent 1 else v)) ∧
  -- HEARTBEAT_READ
  (∀ (s : State) (word : Option B32) (u : State), s.awake = true → s.bit (kHst 0x28) 0 = true → s.hostAbsent = false ∨ s.hostLink = true →
      s.fetchWord .heartbeat (kHst 0x20) word = (u, none) → 
      exec (.heartbeatRead word) s =
        .next (u))

/-- Leaving and joining the host, the loss of the PCIe link or of Bus Master Enable, PERST and its release and the link that
comes up. In every state and for all operands that meet the conditions of a clause, exec answers a next state, and it is the
one the clause writes: the effect that the rules give the command, in the model's named operations, and everything else as
before. The clauses are for HOST_DETACH, HOST_ATTACH, PCIE_LINK_DOWN, PCIE_PERST, PCIE_PERST_RELEASE, PCIE_LINK_UP. Where the
manual leaves a point open the clauses rest on the choice of the model in log entries 129, 133. -/
def Obligations.HostConnectionCommandsComplete : Prop :=
  -- HOST_DETACH
  (∀ (s : State), s.awake = true → s.hostAbsent = false → 
      exec .hostDetach s =
        .next (s.enterAbsent 2)) ∧
  -- HOST_ATTACH
  (∀ (s : State), s.awake = true → s.hostAbsent = true → s.hostPath = true →
      exec .hostAttach s =
        .next (s.attach)) ∧
  -- PCIE_LINK_DOWN
  (∀ (s : State), s.answers = true → s.host.link = true → 
      exec .pcieLinkDown s =
        .next (
        let u : State := { s with freeIx := s.freeIx + 1 }
        if s.host.bme = true ∧ (Config.freeWord s.freeIx).getLsbD 0 = true then
          ({ u with host := { u.host with bme := false } } : State).pathGone
        else u.linkDown)) ∧
  -- PCIE_PERST
  (∀ (s : State), s.host.perst = false → 
      exec .pciePerst s =
        .next (
        let u : State := { s with host := { s.host with perst := true, pcie := PcieFn.reset } }
        if u.host.link then u.linkDown else u)) ∧
  -- PCIE_PERST_RELEASE
  (∀ (s : State), s.host.perst = true → 
      exec .pciePerstRelease s =
        .next ({ s with host := { s.host with perst := false } })) ∧
  -- PCIE_LINK_UP
  (∀ (s : State), s.answers = true → s.host.perst = false → s.hostUp = false →
      exec .pcieLinkUp s =
        .next ({ s with host := { s.host with link := true, bme := true, seenUp := true } }))

/-- The enable bit, a retrain, the detection of a signal, a lane check with too few and with enough good lanes, and the end of
an alignment from ALIGN and from RETRAIN. In every state and for all operands that meet the conditions of a clause, exec
answers a next state, and it is the one the clause writes: the effect that the rules give the command, in the model's named
operations, and everything else as before. The clauses are for LNK_ENABLE, LNK_RETRAIN, LINK_SIGNAL_DETECT, LANE_CHECK_DONE,
ALIGN_DONE. Where the manual leaves a point open the clauses rest on the choice of the model in log entries 130, 144. -/
def Obligations.LinkTrainingCommandsComplete : Prop :=
  -- LNK_ENABLE
  (∀ (s : State) (rq : Requester) (p : Nat) (on : Bool), s.awake = true → p < 6 → regAllowed rq true (kLnk p 4) = true →
      exec (.lnkEnable rq p on) s =
        .next (
        let u := s.setBit (kLnk p 4) 0 on
        if s.lnkState p = lsUnused then u
        else if on then (if s.lnkState p = lsDisabled then u.setLnk p lsDetect else u)
        else u.lnkOff p)) ∧
  -- LNK_RETRAIN
  (∀ (s : State) (rq : Requester) (p : Nat), s.awake = true → p < 6 → regAllowed rq true (kLnk p 4) = true →
      exec (.lnkRetrain rq p) s =
        .next (if s.lnkState p = lsActive then (s.setBit (kLnk p 4) 1 true).startRetrain p else s)) ∧
  -- LINK_SIGNAL_DETECT
  (∀ (s : State) (p lanes : Nat), s.awake = true → p < 6 → s.lnkState p = lsDetect →
      8 ≤ lanes → 
      exec (.linkSignalDetect p lanes) s =
        .next (((s.restartPort p).setLnk p lsLaneCheck).addSat (kLnk p 0x28) 1)) ∧
  -- LANE_CHECK_DONE
  (∀ (s : State) (p : Nat) (badRx badTx : BitVec 17), s.awake = true → p < 6 → s.lnkState p = lsLaneCheck ∨ (s.lnkState p = lsRetrain ∧ (s.port p).aligning = false) →
      min (goodLanes badRx).length (goodLanes badTx).length < 8 → 
      exec (.laneCheckDone p badRx badTx) s =
        .next (((s.setReg (kLnk p 0x10) ((badRx ||| badTx).zeroExtend 32)).setPort p { s.port p with badRx := badRx, badTx := badTx }).portDown p lsFailed 1)) ∧
  -- LANE_CHECK_DONE
  (∀ (s : State) (p : Nat) (badRx badTx : BitVec 17) (half used moved : Bool) (fresh : List Nat), s.awake = true → p < 6 → s.lnkState p = lsLaneCheck ∨ (s.lnkState p = lsRetrain ∧ (s.port p).aligning = false) →
      8 ≤ min (goodLanes badRx).length (goodLanes badTx).length → half = decide (min (goodLanes badRx).length (goodLanes badTx).length < 16) → used = (lane16Used badRx half || lane16Used badTx half) →
      moved = (laneMap badRx half != laneMap (s.port p).badRx (s.bit (kLnk p 8) 4) ||
        laneMap badTx half != laneMap (s.port p).badTx (s.bit (kLnk p 8) 4)) → fresh = lanesOf ((badRx &&& ~~~(s.port p).badRx) ||| (badTx &&& ~~~(s.port p).badTx)) → 
      exec (.laneCheckDone p badRx badTx) s =
        .next (
        let u := (s.setReg (kLnk p 0x10) ((badRx ||| badTx).zeroExtend 32)).setPort p { s.port p with badRx := badRx, badTx := badTx }
        let newEx := used && u.exhausts 2 p
        let u := (u.setBit (kLnk p 8) 4 half).setBit (kLnk p 8) 5 used
        let lane := (fresh ++ lanesOf (badRx ||| badTx)).headD 0
        let u := if moved then u.raise 0x0A03 (mkParam [(0, p), (8, lane), (16, b2n half)]) else u
        let u := fresh.foldl (fun (u : State) l =>
          u.fault { mkFault 0x11 (if moved ∧ !half then 2 else 0) p (mkParam [(0, l), (8, b2n half)]) with
            degraded := newEx && fresh.head? == some l }) u
        let u := if used then u.exhaust 2 p else u
        if u.lnkState p = lsLaneCheck then u.setLnk p lsAlign else u.setPort p { u.port p with aligning := true, alignAt := u.elapsed.toNat })) ∧
  -- ALIGN_DONE
  (∀ (s : State) (p : Nat) (rtt : BitVec 16), s.awake = true → p < 6 → s.lnkState p = lsAlign →
      exec (.alignDone p rtt) s =
        .next (
        let u := (s.setReg (kLnk p 0x14) (rtt.zeroExtend 32)).setLnk p lsParam
        u.setPort p { u.port p with param := some (u.ownParam p) })) ∧
  -- ALIGN_DONE
  (∀ (s : State) (p : Nat) (rtt : BitVec 16), s.awake = true → p < 6 → s.lnkState p = lsRetrain →
      (s.port p).aligning = true → 
      exec (.alignDone p rtt) s =
        .next (
        let u := (s.setReg (kLnk p 0x14) (rtt.zeroExtend 32)).setLnk p lsActive
        u.setPort p { u.port p with resend := (u.port p).replay.map (·.2), again := 0 }))

/-- The time limits of the states of training, a parameter flit that matches and one that does not, the retry of a failed
port, the retrain that errors cause and the loss of signal. In every state and for all operands that meet the conditions of a
clause, exec answers a next state, and it is the one the clause writes: the effect that the rules give the command, in the
model's named operations, and everything else as before. The clauses are for LINK_STATE_TIMEOUT, PARAM_FLIT_RECEIVE,
LINK_FAILED_RETRY, LANE_ERROR_RETRAIN, LINK_SIGNAL_LOST. Where the manual leaves a point open the clauses rest on the choice
of the model in log entries 20, 144. -/
def Obligations.LinkLimitAndParameterCommandsComplete : Prop :=
  -- LINK_STATE_TIMEOUT
  (∀ (s : State) (p : Nat), s.awake = true → p < 6 → s.lnkState p = lsAlign →
      (s.port p).since + usTicks 100 ≤ s.elapsed.toNat → 
      exec (.linkStateTimeout p) s =
        .next (s.portDown p lsDetect 2)) ∧
  -- LINK_STATE_TIMEOUT
  (∀ (s : State) (p : Nat), s.awake = true → p < 6 → s.lnkState p = lsParam →
      (s.port p).since + usTicks 100 ≤ s.elapsed.toNat → 
      exec (.linkStateTimeout p) s =
        .next (s.setLnk p lsDetect)) ∧
  -- LINK_STATE_TIMEOUT
  (∀ (s : State) (p : Nat), s.awake = true → p < 6 → s.lnkState p = lsRetrain →
      (s.port p).since + usTicks 8 ≤ s.elapsed.toNat ∨
        ((s.port p).aligning = true ∧ (s.port p).alignAt + usTicks 2 ≤ s.elapsed.toNat) → 
      exec (.linkStateTimeout p) s =
        .next (s.portDown p lsFailed 2)) ∧
  -- PARAM_FLIT_RECEIVE
  (∀ (s : State) (p r : Nat) (f : ParamFlit), s.awake = true → p < 6 → s.lnkState p = lsParam →
      s.paramReason p f = some r → 
      exec (.paramFlitReceive p f) s =
        .next (((s.setLnk p lsMiswired).flushPort p).raise 0x0A04
          (mkParam [(0, p), (8, r), (16, f.dev % 128), (24, f.port % 8)]))) ∧
  -- PARAM_FLIT_RECEIVE
  (∀ (s : State) (p : Nat) (f : ParamFlit), s.awake = true → p < 6 → s.lnkState p = lsParam →
      s.paramReason p f = none → 
      exec (.paramFlitReceive p f) s =
        .next (
        let u := (s.setLnk p lsActive).setReg (kLnk p 0xC) (BitVec.ofNat 32 (f.dev % 128 + place f.port 7 3 + 2 ^ 10))
        let u := u.setPort p { u.port p with up := true }
        u.raise 0x0A01 (mkParam [(0, p), (8, b2n (u.bit (kLnk p 8) 4)), (16, f.dev)]))) ∧
  -- LINK_FAILED_RETRY
  (∀ (s : State) (p : Nat), s.awake = true → p < 6 → s.lnkState p = lsFailed →
      (s.port p).since + msTicks 100 ≤ s.elapsed.toNat → 
      exec (.linkFailedRetry p) s =
        .next (s.setLnk p lsDetect)) ∧
  -- LANE_ERROR_RETRAIN
  (∀ (s : State) (p : Nat), s.awake = true → p < 6 → s.lnkState p = lsActive →
      s.fld (kLnk p 4) 16 16 ≠ 0 ∨ 8 ≤ (s.port p).again → 
      exec (.laneErrorRetrain p) s =
        .next (s.startRetrain p)) ∧
  -- LINK_SIGNAL_LOST
  (∀ (s : State) (p : Nat), s.awake = true → p < 6 → s.lnkState p = lsActive →
      exec (.linkSignalLost p) s =
        .next (s.portDown p lsFailed 3))

/-- The sending of a flit and the receipt of one, good, repeated, out of order or with a failing CRC. In every state and for
all operands that meet the conditions of a clause, exec answers a next state, and it is the one the clause writes: the effect
that the rules give the command, in the model's named operations, and everything else as before. The clauses are for
FLIT_SEND, FLIT_RECEIVE. -/
def Obligations.LinkFlitCommandsComplete : Prop :=
  -- FLIT_SEND
  (∀ (s : State) (p : Nat), s.awake = true → p < 6 → s.lnkState p = lsActive →
      2047 ≤ (s.port p).idleIn → 
      exec (.flitSend p) s =
        .next (s.sendIdle p)) ∧
  -- FLIT_SEND
  (∀ (s : State) (p : Nat) (f : BitVec 2048) (fs : List (BitVec 2048)), s.awake = true → p < 6 → s.lnkState p = lsActive →
      (s.port p).idleIn < 2047 → (s.port p).resend = f :: fs → 
      exec (.flitSend p) s =
        .next (
        let pt := s.port p
        (s.setPort p { pt with wire := s.mkFlit p (fSeq f) (fVc f) (fChunks f), nak := false, resend := fs, idleIn := pt.idleIn + 1 }).addSat
          (kLnk p 0x24) 1)) ∧
  -- FLIT_SEND
  (∀ (s : State) (p : Nat), s.awake = true → p < 6 → s.lnkState p = lsActive →
      (s.port p).idleIn < 2047 → (s.port p).resend = [] → s.nextVc p = none →
      exec (.flitSend p) s =
        .next (s.sendIdle p)) ∧
  -- FLIT_SEND
  (∀ (s : State) (p v : Nat), s.awake = true → p < 6 → s.lnkState p = lsActive →
      (s.port p).idleIn < 2047 → (s.port p).resend = [] → s.nextVc p = some v →
      exec (.flitSend p) s =
        .next (if (s.port p).replay.length < 256 then s.sendNumbered p v else s.sendIdle p)) ∧
  -- FLIT_RECEIVE
  (∀ (s : State) (p : Nat) (f : BitVec 2048), s.awake = true → p < 6 → s.lnkState p = lsActive →
      fOk f = false → 
      exec (.flitReceive p f) s =
        .next ((s.addSat (kLnk p 0x20) 1).discardFlit p true)) ∧
  -- FLIT_RECEIVE
  (∀ (s : State) (p : Nat) (f : BitVec 2048), s.awake = true → p < 6 → s.lnkState p = lsActive →
      fOk f = true → fVc f = 7 → 
      exec (.flitReceive p f) s =
        .next (s.takeControl p f)) ∧
  -- FLIT_RECEIVE
  (∀ (s : State) (p : Nat) (f : BitVec 2048), s.awake = true → p < 6 → s.lnkState p = lsActive →
      fOk f = true → fVc f ≠ 7 → 6 ≤ fVc f ∨ fSeq f ≠ ((s.takeControl p f).port p).rxNext →
      exec (.flitReceive p f) s =
        .next ((s.takeControl p f).discardFlit p false)) ∧
  -- FLIT_RECEIVE
  (∀ (s : State) (p : Nat) (f : BitVec 2048), s.awake = true → p < 6 → s.lnkState p = lsActive →
      fOk f = true → fVc f < 6 → fSeq f = ((s.takeControl p f).port p).rxNext →
      exec (.flitReceive p f) s =
        .next (
        let u := s.takeControl p f
        let v := fVc f
        let pt := u.port p
        let cs := fChunks f
        let marked := (upTo cs.length).map (fun i => (cs[i]?.getD 0, decide (i + 1 = cs.length)))
        let u := u.setPort p { pt with
          rxNext := (pt.rxNext + 1) % 4096, gap := false
          rxFlits := SMap.set zeroNat pt.rxFlits v (SMap.get zeroNat pt.rxFlits v + 1) }
        let u := u.add64 (kLnk p 0x38) 1
        (u.setRx p v (SMap.get noRx (u.port p).rxq v ++ marked) 0).forwardAll p v))

/-- A message that stands first in a virtual channel of its class is taken and leaves the receive queue; a READ or WRITE
reaches the host or the memory and a PUSH the Inkwell or a split-K sum. In every state and for all operands that meet the
conditions of a clause, exec answers a next state, and it is the one the clause writes: the effect that the rules give the
command, in the model's named operations, and everything else as before. The clauses are for LNK_READ, LNK_WRITE, LNK_PUSH.
Where the manual leaves a point open the clauses rest on the choice of the model in log entries 21, 23, 63, 116, 145. -/
def Obligations.LinkMessageCommandsComplete : Prop :=
  -- LNK_READ
  (∀ (s : State) (p v freed : Nat) (m : LnkMsg) (rest : List (B64 × Bool)) (u : State) (hostData : Option (List Byte)), s.awake = true → p < 6 → mKind m = 1 →
      mDst m = s.boot.dev → v = 0 ∨ (v = 1 ∧ (frontMsg (SMap.get noRx (s.port p).rxq 0)).map (·.1) ≠ some m) → frontMsg (SMap.get noRx (s.port p).rxq v) = some (m, rest, freed) →
      u = (s.setRx p v rest freed).forwardAll p v → mHost m = true → 
      exec (.lnkRead p m hostData) s =
        .next (u.hostRead m hostData)) ∧
  -- LNK_READ
  (∀ (s : State) (p v freed : Nat) (m : LnkMsg) (rest : List (B64 × Bool)) (u : State) (hostData : Option (List Byte)), s.awake = true → p < 6 → mKind m = 1 →
      mDst m = s.boot.dev → v = 0 ∨ (v = 1 ∧ (frontMsg (SMap.get noRx (s.port p).rxq 0)).map (·.1) ≠ some m) → frontMsg (SMap.get noRx (s.port p).rxq v) = some (m, rest, freed) →
      u = (s.setRx p v rest freed).forwardAll p v → mHost m = false → u.pageBusy (mAddr m % 2 ^ 40) (8 * mChunks m) = false →
      exec (.lnkRead p m hostData) s =
        .next (
        let r := u.access ⟨rqPeer p m, false, mAddr m % 2 ^ 40, 8 * mChunks m, [], false⟩ none
        if r.2.1 = 0 then r.1.sendAnswer 8 m 0 (mChunks m) r.2.2 else r.1.sendAnswer 8 m r.2.1 0 [])) ∧
  -- LNK_WRITE
  (∀ (s : State) (p v freed : Nat) (m : LnkMsg) (rest : List (B64 × Bool)) (u : State) (ok : Bool), s.awake = true → p < 6 → mKind m = 2 →
      mDst m = s.boot.dev → v = 4 ∨ (v = 5 ∧ (frontMsg (SMap.get noRx (s.port p).rxq 4)).map (·.1) ≠ some m) → frontMsg (SMap.get noRx (s.port p).rxq v) = some (m, rest, freed) →
      u = (s.setRx p v rest freed).forwardAll p v → mHost m = true → 
      exec (.lnkWrite p m ok) s =
        .next (u.hostWrite m ok)) ∧
  -- LNK_WRITE
  (∀ (s : State) (p v freed : Nat) (m : LnkMsg) (rest : List (B64 × Bool)) (u : State) (ok : Bool), s.awake = true → p < 6 → mKind m = 2 →
      mDst m = s.boot.dev → v = 4 ∨ (v = 5 ∧ (frontMsg (SMap.get noRx (s.port p).rxq 4)).map (·.1) ≠ some m) → frontMsg (SMap.get noRx (s.port p).rxq v) = some (m, rest, freed) →
      u = (s.setRx p v rest freed).forwardAll p v → mHost m = false → u.pageBusy (mAddr m % 2 ^ 40) m.payload.length = false →
      exec (.lnkWrite p m ok) s =
        .next (
        let r := u.access ⟨rqPeer p m, true, mAddr m % 2 ^ 40, 0, m.payload, false⟩ none
        r.1.sendAnswer 9 m r.2.1 0 [])) ∧
  -- LNK_PUSH
  (∀ (s : State) (p v freed : Nat) (m : LnkMsg) (rest : List (B64 × Bool)) (u : State), s.awake = true → p < 6 → mKind m = 3 →
      mDst m = s.boot.dev → v = 4 ∨ (v = 5 ∧ (frontMsg (SMap.get noRx (s.port p).rxq 4)).map (·.1) ≠ some m) → frontMsg (SMap.get noRx (s.port p).rxq v) = some (m, rest, freed) →
      u = (s.setRx p v rest freed).forwardAll p v → u.physOf (pushTile m) = none → 
      exec (.lnkPush p m) s =
        .next (u.sendAnswer 9 m 1 0 [])) ∧
  -- LNK_PUSH
  (∀ (s : State) (p v freed : Nat) (m : LnkMsg) (rest : List (B64 × Bool)) (u : State) (ph : Nat), s.awake = true → p < 6 → mKind m = 3 →
      mDst m = s.boot.dev → v = 4 ∨ (v = 5 ∧ (frontMsg (SMap.get noRx (s.port p).rxq 4)).map (·.1) ≠ some m) → frontMsg (SMap.get noRx (s.port p).rxq v) = some (m, rest, freed) →
      u = (s.setRx p v rest freed).forwardAll p v → u.physOf (pushTile m) = some ph → u.pushWaits ph m = false →
      u.peerPart ph m = none → 
      exec (.lnkPush p m) s =
        .next (
        let r := (u.bankWait ph (bankOf (pushRow m))).inkWrite ph (pushRow m) rqDmaIn (BitVec.ofNat 4096 (bytesToNat m.payload))
        r.1.sendAnswer 9 m r.2 0 [])) ∧
  -- LNK_PUSH
  (∀ (s : State) (p v freed : Nat) (m : LnkMsg) (rest : List (B64 × Bool)) (u : State) (ph : Nat) (o : StepRef × Nat), s.awake = true → p < 6 → mKind m = 3 →
      mDst m = s.boot.dev → v = 4 ∨ (v = 5 ∧ (frontMsg (SMap.get noRx (s.port p).rxq 4)).map (·.1) ≠ some m) → frontMsg (SMap.get noRx (s.port p).rxq v) = some (m, rest, freed) →
      u = (s.setRx p v rest freed).forwardAll p v → u.physOf (pushTile m) = some ph → u.pushWaits ph m = false →
      u.peerPart ph m = some o → 
      exec (.lnkPush p m) s =
        .next (
        let r := (u.bankWait ph (bankOf (pushRow m))).splitArrive ph o.1 (pushRow m) o.2 (BitVec.ofNat 4096 (bytesToNat m.payload))
        r.1.sendAnswer 9 m r.2 0 []))

/-- A message that stands first in a virtual channel of its class is taken and leaves the receive queue; its word, row,
checkpoint, item part, answer or control part goes to the unit that it names. In every state and for all operands that meet
the conditions of a clause, exec answers a next state, and it is the one the clause writes: the effect that the rules give the
command, in the model's named operations, and everything else as before. The clauses are for LNK_FLOW, LNK_RSTAT, LNK_CKPT,
LNK_SOURCE, LNK_RDATA, LNK_WACK, LNK_CTRL. Where the manual leaves a point open the clauses rest on the choice of the model in
log entries 23, 24, 47, 69, 112, 113, 141, 146. -/
def Obligations.LinkFlowAndControlMessagesComplete : Prop :=
  -- LNK_FLOW
  (∀ (s : State) (p v freed : Nat) (m : LnkMsg) (rest : List (B64 × Bool)) (u : State), s.awake = true → p < 6 → mKind m = 4 →
      mDst m = s.boot.dev → v = 0 ∨ (v = 1 ∧ (frontMsg (SMap.get noRx (s.port p).rxq 0)).map (·.1) ≠ some m) → frontMsg (SMap.get noRx (s.port p).rxq v) = some (m, rest, freed) →
      u = (s.setRx p v rest freed).forwardAll p v → 
      exec (.lnkFlow p m) s =
        .next (
        let w := BitVec.ofNat 64 (payNat m 0 8)
        let pl := u.pipe (wPipe w)
        if wKind w = wWithdraw then
          if pl.hosted u.boot.dev then u.hostWithdraw (wPipe w) (wSide w) (wEpoch w) else u.peerWithdraw (wPipe w) (wEpoch w)
        else
          let stage := if wKind w = wReport then some (wEdge w)
            else (pl.edge (wEdge w)).map (fun e => if wKind w = wToken then e.consumer else e.producer)
          match stage with
          | some st => u.fly ⟨w, st, wKind w == wReport && mTag m == 1⟩
          | none => u)) ∧
  -- LNK_RSTAT
  (∀ (s : State) (p v freed : Nat) (m : LnkMsg) (rest : List (B64 × Bool)) (u : State), s.awake = true → p < 6 → mKind m = 5 →
      mDst m = s.boot.dev → v = 0 ∨ (v = 1 ∧ (frontMsg (SMap.get noRx (s.port p).rxq 0)).map (·.1) ≠ some m) → frontMsg (SMap.get noRx (s.port p).rxq v) = some (m, rest, freed) →
      u = (s.setRx p v rest freed).forwardAll p v → 
      exec (.lnkRstat p m) s =
        .next (
        match u.physOf (bitsOf (mTag m) 0 6) with
        | some t =>
          { u with commit := { u.commit with
              rsFly := u.commit.rsFly ++ [⟨t, bitsOf (mTag m) 8 7, mSide m, BitVec.ofNat 256 (payNat m 0 32)⟩] } }
        | none => u)) ∧
  -- LNK_CKPT
  (∀ (s : State) (p v freed : Nat) (m : LnkMsg) (rest : List (B64 × Bool)) (u : State), s.awake = true → p < 6 → mKind m = 6 →
      mDst m = s.boot.dev → v = 0 ∨ (v = 1 ∧ (frontMsg (SMap.get noRx (s.port p).rxq 0)).map (·.1) ≠ some m) → frontMsg (SMap.get noRx (s.port p).rxq v) = some (m, rest, freed) →
      u = (s.setRx p v rest freed).forwardAll p v → 
      exec (.lnkCkpt p m) s =
        .next ({ u with commit := { u.commit with ckFly := u.commit.ckFly ++ [⟨BitVec.ofNat 128 (payNat m 0 16), 0x7F⟩] } })) ∧
  -- LNK_SOURCE
  (∀ (s : State) (p v freed : Nat) (m : LnkMsg) (rest : List (B64 × Bool)) (u : State), s.awake = true → p < 6 → mKind m = 7 →
      mDst m = s.boot.dev → v = 4 ∨ (v = 5 ∧ (frontMsg (SMap.get noRx (s.port p).rxq 4)).map (·.1) ≠ some m) → frontMsg (SMap.get noRx (s.port p).rxq v) = some (m, rest, freed) →
      u = (s.setRx p v rest freed).forwardAll p v → 
      exec (.lnkSource p m) s =
        .next (
        let k := (srcPipe m * 8 + srcPort m) * 2 ^ 32 + mTag m
        let old := SMap.get noBytes u.commit.srcPart k
        let pad := old ++ List.replicate (srcOff m - old.length) 0
        let new := pad.take (srcOff m) ++ m.payload ++ pad.drop (srcOff m + m.payload.length)
        { u with commit := { u.commit with
            srcPart := SMap.set noBytes u.commit.srcPart k new
            srcFly := if srcLast m then u.commit.srcFly ++ [m] else u.commit.srcFly } })) ∧
  -- LNK_RDATA
  (∀ (s : State) (p v freed : Nat) (m : LnkMsg) (rest : List (B64 × Bool)) (u : State), s.awake = true → p < 6 → mKind m = 8 →
      mDst m = s.boot.dev → v = 2 ∨ (v = 3 ∧ (frontMsg (SMap.get noRx (s.port p).rxq 2)).map (·.1) ≠ some m) → frontMsg (SMap.get noRx (s.port p).rxq v) = some (m, rest, freed) →
      u = (s.setRx p v rest freed).forwardAll p v → 
      exec (.lnkRdata p m) s =
        .next (
        let v := u.takeResponse m
        if mHost m = true ∧ mStatus m = 1 ∧ v.isHome = false ∧ v.hostAbsent = false then v.enterAbsent 3 else v)) ∧
  -- LNK_WACK
  (∀ (s : State) (p v freed : Nat) (m : LnkMsg) (rest : List (B64 × Bool)) (u : State), s.awake = true → p < 6 → mKind m = 9 →
      mDst m = s.boot.dev → v = 2 ∨ (v = 3 ∧ (frontMsg (SMap.get noRx (s.port p).rxq 2)).map (·.1) ≠ some m) → frontMsg (SMap.get noRx (s.port p).rxq v) = some (m, rest, freed) →
      u = (s.setRx p v rest freed).forwardAll p v → 
      exec (.lnkWack p m) s =
        .next (
        let v := u.takeResponse m
        if mHost m = true ∧ mStatus m = 1 ∧ v.isHome = false ∧ v.hostAbsent = false then v.enterAbsent 3 else v)) ∧
  -- LNK_CTRL
  (∀ (s : State) (p v freed : Nat) (m : LnkMsg) (rest : List (B64 × Bool)) (u : State), s.awake = true → p < 6 → mKind m = 10 →
      mDst m = s.boot.dev → v = 0 ∨ (v = 1 ∧ (frontMsg (SMap.get noRx (s.port p).rxq 0)).map (·.1) ≠ some m) → frontMsg (SMap.get noRx (s.port p).rxq v) = some (m, rest, freed) →
      u = (s.setRx p v rest freed).forwardAll p v → mTag m = ctrlData → 
      exec (.lnkCtrl p m) s =
        .next (u.ctrlDataPart (mSrc m) m.payload)) ∧
  -- LNK_CTRL
  (∀ (s : State) (p v freed : Nat) (m : LnkMsg) (rest : List (B64 × Bool)) (u w : State), s.awake = true → p < 6 → mKind m = 10 →
      mDst m = s.boot.dev → v = 0 ∨ (v = 1 ∧ (frontMsg (SMap.get noRx (s.port p).rxq 0)).map (·.1) ≠ some m) → frontMsg (SMap.get noRx (s.port p).rxq v) = some (m, rest, freed) →
      u = (s.setRx p v rest freed).forwardAll p v → mTag m = ctrlRequest → s.guestRun u (mSrc m) (m.payload.take 64) = some w →
      exec (.lnkCtrl p m) s =
        .next (w)) ∧
  -- LNK_CTRL
  (∀ (s : State) (p v freed : Nat) (m : LnkMsg) (rest : List (B64 × Bool)) (u : State), s.awake = true → p < 6 → mKind m = 10 →
      mDst m = s.boot.dev → v = 0 ∨ (v = 1 ∧ (frontMsg (SMap.get noRx (s.port p).rxq 0)).map (·.1) ≠ some m) → frontMsg (SMap.get noRx (s.port p).rxq v) = some (m, rest, freed) →
      u = (s.setRx p v rest freed).forwardAll p v → mTag m = ctrlResponse → s.serving = true →
      s.updActive = false → 
      exec (.lnkCtrl p m) s =
        .next (u.ctrlAnswer (mSrc m) m.payload)) ∧
  -- LNK_CTRL
  (∀ (s : State) (p v freed : Nat) (m : LnkMsg) (rest : List (B64 × Bool)) (u : State), s.awake = true → p < 6 → mKind m = 10 →
      mDst m = s.boot.dev → v = 0 ∨ (v = 1 ∧ (frontMsg (SMap.get noRx (s.port p).rxq 0)).map (·.1) ≠ some m) → frontMsg (SMap.get noRx (s.port p).rxq v) = some (m, rest, freed) →
      u = (s.setRx p v rest freed).forwardAll p v → mTag m = ctrlEvent → 
      exec (.lnkCtrl p m) s =
        .next (u.ctrlEventIn m.payload)) ∧
  -- LNK_CTRL
  (∀ (s : State) (p v freed : Nat) (m : LnkMsg) (rest : List (B64 × Bool)) (u : State), s.awake = true → p < 6 → mKind m = 10 →
      mDst m = s.boot.dev → v = 0 ∨ (v = 1 ∧ (frontMsg (SMap.get noRx (s.port p).rxq 0)).map (·.1) ≠ some m) → frontMsg (SMap.get noRx (s.port p).rxq v) = some (m, rest, freed) →
      u = (s.setRx p v rest freed).forwardAll p v → mTag m = ctrlCommit → 
      exec (.lnkCtrl p m) s =
        .next (u.ctrlCommitted m.payload)) ∧
  -- LNK_CTRL
  (∀ (s : State) (p v freed : Nat) (m : LnkMsg) (rest : List (B64 × Bool)) (u : State), s.awake = true → p < 6 → mKind m = 10 →
      mDst m = s.boot.dev → v = 0 ∨ (v = 1 ∧ (frontMsg (SMap.get noRx (s.port p).rxq 0)).map (·.1) ≠ some m) → frontMsg (SMap.get noRx (s.port p).rxq v) = some (m, rest, freed) →
      u = (s.setRx p v rest freed).forwardAll p v → mTag m = ctrlResident → 
      exec (.lnkCtrl p m) s =
        .next (u.ctrlResidentAt m.payload)) ∧
  -- LNK_CTRL
  (∀ (s : State) (p v freed : Nat) (m : LnkMsg) (rest : List (B64 × Bool)) (u : State), s.awake = true → p < 6 → mKind m = 10 →
      mDst m = s.boot.dev → v = 0 ∨ (v = 1 ∧ (frontMsg (SMap.get noRx (s.port p).rxq 0)).map (·.1) ≠ some m) → frontMsg (SMap.get noRx (s.port p).rxq v) = some (m, rest, freed) →
      u = (s.setRx p v rest freed).forwardAll p v → mTag m = ctrlLayer → 
      exec (.lnkCtrl p m) s =
        .next (u.ctrlLayerDone m.payload)) ∧
  -- LNK_CTRL
  (∀ (s : State) (p v freed : Nat) (m : LnkMsg) (rest : List (B64 × Bool)) (u : State), s.awake = true → p < 6 → mKind m = 10 →
      mDst m = s.boot.dev → v = 0 ∨ (v = 1 ∧ (frontMsg (SMap.get noRx (s.port p).rxq 0)).map (·.1) ≠ some m) → frontMsg (SMap.get noRx (s.port p).rxq v) = some (m, rest, freed) →
      u = (s.setRx p v rest freed).forwardAll p v → mTag m = ctrlBookAsk → 
      exec (.lnkCtrl p m) s =
        .next (u.ctrlBookAsked (mSrc m) m.payload)) ∧
  -- LNK_CTRL
  (∀ (s : State) (p v freed : Nat) (m : LnkMsg) (rest : List (B64 × Bool)) (u : State), s.awake = true → p < 6 → mKind m = 10 →
      mDst m = s.boot.dev → v = 0 ∨ (v = 1 ∧ (frontMsg (SMap.get noRx (s.port p).rxq 0)).map (·.1) ≠ some m) → frontMsg (SMap.get noRx (s.port p).rxq v) = some (m, rest, freed) →
      u = (s.setRx p v rest freed).forwardAll p v → mTag m = ctrlBookTell → 
      exec (.lnkCtrl p m) s =
        .next (u.ctrlBookTold m.payload)) ∧
  -- LNK_CTRL
  (∀ (s : State) (p v freed : Nat) (m : LnkMsg) (rest : List (B64 × Bool)) (u : State), s.awake = true → p < 6 → mKind m = 10 →
      mDst m = s.boot.dev → v = 0 ∨ (v = 1 ∧ (frontMsg (SMap.get noRx (s.port p).rxq 0)).map (·.1) ≠ some m) → frontMsg (SMap.get noRx (s.port p).rxq v) = some (m, rest, freed) →
      u = (s.setRx p v rest freed).forwardAll p v → mTag m = ctrlBookRestore → 
      exec (.lnkCtrl p m) s =
        .next (u.ctrlBookRestored m.payload)) ∧
  -- LNK_CTRL
  (∀ (s : State) (p v freed : Nat) (m : LnkMsg) (rest : List (B64 × Bool)) (u : State), s.awake = true → p < 6 → mKind m = 10 →
      mDst m = s.boot.dev → v = 0 ∨ (v = 1 ∧ (frontMsg (SMap.get noRx (s.port p).rxq 0)).map (·.1) ≠ some m) → frontMsg (SMap.get noRx (s.port p).rxq v) = some (m, rest, freed) →
      u = (s.setRx p v rest freed).forwardAll p v → mTag m = ctrlTwin → 
      exec (.lnkCtrl p m) s =
        .next (u.twinTold (reqNum m.payload 0 1) (reqNum m.payload 1 1) (bitOf (reqNum m.payload 2 1) 0))) ∧
  -- LNK_CTRL
  (∀ (s : State) (p v freed : Nat) (m : LnkMsg) (rest : List (B64 × Bool)) (u : State), s.awake = true → p < 6 → mKind m = 10 →
      mDst m = s.boot.dev → v = 0 ∨ (v = 1 ∧ (frontMsg (SMap.get noRx (s.port p).rxq 0)).map (·.1) ≠ some m) → frontMsg (SMap.get noRx (s.port p).rxq v) = some (m, rest, freed) →
      u = (s.setRx p v rest freed).forwardAll p v → mTag m = ctrlAbsent → 
      exec (.lnkCtrl p m) s =
        .next (if u.isHome = false ∧ mSrc m = u.home ∧ u.hostAbsent = false then u.enterAbsent 3 else u)) ∧
  -- LNK_CTRL
  (∀ (s : State) (p v freed : Nat) (m : LnkMsg) (rest : List (B64 × Bool)) (u : State), s.awake = true → p < 6 → mKind m = 10 →
      mDst m = s.boot.dev → v = 0 ∨ (v = 1 ∧ (frontMsg (SMap.get noRx (s.port p).rxq 0)).map (·.1) ≠ some m) → frontMsg (SMap.get noRx (s.port p).rxq v) = some (m, rest, freed) →
      u = (s.setRx p v rest freed).forwardAll p v → 11 < mTag m → 
      exec (.lnkCtrl p m) s =
        .next (u))

/-- The twelve commands of the mailbox: what serving a request leaves, in the order of the checks, and the time limit of a
remote command. In every state and for all operands that meet the conditions of a clause, exec answers a next state, and it is
the one the clause writes: the effect that the rules give the command, in the model's named operations, and everything else as
before. The clauses are for INFO, ATTEST, CTX_CREATE, FLASH_ERASE, FLASH_WRITE, UPDATE, REG_READ, REG_WRITE, MEM_READ,
MEM_WRITE, POLICY, CTX_DESTROY, MBX_REMOTE_TIMEOUT. Where the manual leaves a point open the clauses rest on the choice of the
model in log entries 48, 49, 91, 92. -/
def Obligations.MailboxCommandsComplete : Prop :=
  -- INFO
  (∀ (s : State), s.mbxReady 1 = true → 
      exec .mbxInfo s =
        .next (s.mailServed none doInfo)) ∧
  -- ATTEST
  (∀ (s : State) (data : Option (List Byte)), s.mbxReady 2 = true → 
      exec (.mbxAttest data) s =
        .next (s.mailServed data doAttest)) ∧
  -- CTX_CREATE
  (∀ (s : State) (data : Option (List Byte)), s.mbxReady 3 = true → 
      exec (.mbxCtxCreate data) s =
        .next (s.mailServed data doCtxCreate)) ∧
  -- FLASH_ERASE
  (∀ (s : State), s.mbxReady 5 = true → 
      exec .mbxFlashErase s =
        .next (s.mailServed none doFlashErase)) ∧
  -- FLASH_WRITE
  (∀ (s : State) (data : Option (List Byte)), s.mbxReady 6 = true → 
      exec (.mbxFlashWrite data) s =
        .next (s.mailServed data doFlashWrite)) ∧
  -- UPDATE
  (∀ (s : State) (data : Option (List Byte)), s.mbxReady 7 = true → 
      exec (.mbxUpdate data) s =
        .next (s.mailServed data doUpdate)) ∧
  -- REG_READ
  (∀ (s : State), s.mbxReady 8 = true → 
      exec .mbxRegRead s =
        .next (s.mailServed none doRegRead)) ∧
  -- REG_WRITE
  (∀ (s : State), s.mbxReady 9 = true → 
      exec .mbxRegWrite s =
        .next (s.mailServed none doRegWrite)) ∧
  -- MEM_READ
  (∀ (s : State), s.mbxReady 10 = true → 
      exec .mbxMemRead s =
        .next (s.mailServed none doMemRead)) ∧
  -- MEM_WRITE
  (∀ (s : State) (data : Option (List Byte)), s.mbxReady 11 = true → 
      exec (.mbxMemWrite data) s =
        .next (s.mailServed data doMemWrite)) ∧
  -- POLICY
  (∀ (s : State), s.mbxReady 12 = true → 
      exec .mbxPolicy s =
        .next (s.mailServed none doPolicy)) ∧
  -- CTX_DESTROY
  (∀ (s : State), s.destroyOf 128 = none → s.mbxReady 4 = true → 
      exec .mbxCtxDestroy s =
        .next (s.mailServed none doCtxDestroy)) ∧
  -- CTX_DESTROY
  (∀ (s : State) (x : Nat), s.destroyOf 128 = some x → s.serving = true → s.updActive = false →
      (s.vctx x).destroy = false → 
      exec .mbxCtxDestroy s =
        .next ((s.endDestroy 128).mbxComplete s.mbxReq s.boot.dev ⟨0, [], []⟩)) ∧
  -- MBX_REMOTE_TIMEOUT
  (∀ (s : State) (t : Nat), s.fw.remoteAt = some t → s.serving = true → s.updActive = false →
      t + msTicks 100 ≤ s.elapsed.toNat → 
      exec .mbxRemoteTimeout s =
        .next (
        ({ s with fw := { s.fw with remoteAt := none } } : State).mbxAnswer (mkResponse s.mbxReq stFault (reqDev s.mbxReq) 0 [])))

/-- The stop of the old image, the release of the new, its report and the fall back to the old image. In every state and for
all operands that meet the conditions of a clause, exec answers a next state, and it is the one the clause writes: the effect
that the rules give the command, in the model's named operations, and everything else as before. The clauses are for
UPDATE_STOP, UPDATE_RELEASE, FW_REPORT_ACCEPT, FW_REPORT_REJECT, UPDATE_REPORT_TIMEOUT, UPDATE_FALLBACK. Where the manual
leaves a point open the clauses rest on the choice of the model in log entries 19, 89, 93. -/
def Obligations.UpdateCommandsComplete : Prop :=
  -- UPDATE_STOP
  (∀ (s : State) (body : List Byte), s.serving = true → s.fw.upd = .staged → s.noOpenAction = true →
      64 + body.length ≤ 1048576 → s.fwWaits = false → 
      exec (.updateStop body) s =
        .next (
        let u : State := { s with freeIx := s.freeIx + 1 }
        let u := u.fwWrite keepSec (u.boot.sram.readBytes sramSec u.fw.parts.1)
        let u := u.fwWrite keepNs (u.boot.sram.readBytes sramNs u.fw.parts.2)
        let u := u.fwWrite fwArea (u.handover (Config.freeWord s.freeIx) body)
        let u := (u.setBit 4 4 true).parkDogs.stopAudits
        { u with fw := { u.fw with upd := .stopped, stopAt := u.elapsed.toNat } })) ∧
  -- UPDATE_RELEASE
  (∀ (s : State), s.serving = true → s.fw.upd = .stopped → s.fwWaits = false →
      exec .updateRelease s =
        .next (
        let a := s.fwRead (stageArea + 128) s.fw.newParts.1
        let b := a.1.fwRead (stageArea + 128 + s.fw.newParts.1) s.fw.newParts.2
        { (b.1.putParts a.2 b.2).setEntry s.fw.newEntries.2 with fw := { b.1.fw with upd := .running } })) ∧
  -- FW_REPORT_ACCEPT
  (∀ (s : State) (rq : Requester), s.awake = true → regAllowed rq true (kQcx 4) = true → 
      exec (.fwReportAccept rq) s =
        .next (if s.fw.upd = .running ∧ s.reportLate = false then s.byCode s.updateDone else s)) ∧
  -- FW_REPORT_REJECT
  (∀ (s : State) (rq : Requester), s.awake = true → regAllowed rq true (kQcx 4) = true → 
      exec (.fwReportReject rq) s =
        .next (if s.fw.upd = .running ∧ s.reportLate = false then { s with fw := { s.fw with upd := .falling 1 true } } else s)) ∧
  -- UPDATE_REPORT_TIMEOUT
  (∀ (s : State), s.awake = true → s.fw.upd = .stopped ∨ s.fw.upd = .running → s.reportLate = true →
      exec .updateReportTimeout s =
        .next ({ s with fw := { s.fw with upd := .falling 2 (s.fw.upd == .running) } })) ∧
  -- UPDATE_FALLBACK
  (∀ (s : State) (r : Nat) (o : Bool), s.fw.upd = .falling r o → s.awake = true → s.fwWaits = false →
      exec .updateFallback s =
        .next (
        let a := s.fwRead keepSec s.fw.parts.1
        let b := a.1.fwRead keepNs s.fw.parts.2
        let u := ((b.1.putParts a.2 b.2).setEntry s.fw.entries.2).setBit 4 4 false
        let u : State := { u with fw := { u.fw with upd := .none, clean := 0 } }
        s.byCode ((u.raise 0x0C03 (mkParam [(0, r)])).updateAnswer (if r = 3 then 1 else 2) []).mbxReject.resumeFw))

/-- The kick and the expiry of a watchdog, the error of a core, the end of the move of its tasks, its return, the enable of
the event ring, the write of an event and the hour of clean service. In every state and for all operands that meet the
conditions of a clause, exec answers a next state, and it is the one the clause writes: the effect that the rules give the
command, in the model's named operations, and everything else as before. The clauses are for WDT_KICK, WDT_EXPIRE, CORE_ERROR,
CORE_TASK_MOVE_DONE, CORE_REJOIN, EVT_RING_ENABLE, EVENT_WRITE, CLEAN_SERVICE_EXPIRE. Where the manual leaves a point open the
clauses rest on the choice of the model in log entries 48, 53, 55, 134. -/
def Obligations.CoreAndEventCommandsComplete : Prop :=
  -- WDT_KICK
  (∀ (s : State) (rq : Requester) (n : Nat), s.awake = true → n < 12 → regAllowed rq true (kQcx (0x70 + 4 * n)) = true →
      exec (.wdtKick rq n) s =
        .next (
        if s.bit (kWdt n) 20 && s.coreUp n then
          (if s.kickFails n then s.restartCore n 1
          else { s with fw := { s.fw with kickAt := SMap.set zeroNat s.fw.kickAt n s.elapsed.toNat } })
        else s)) ∧
  -- WDT_EXPIRE
  (∀ (s : State) (n : Nat), s.awake = true → n < 12 → s.bit (kWdt n) 20 = true →
      s.coreUp n = true → SMap.get zeroNat s.fw.kickAt n + msTicks (s.fld (kWdt n) 0 10) ≤ s.elapsed.toNat → 
      exec (.wdtExpire n) s =
        .next (s.restartCore n 1)) ∧
  -- CORE_ERROR
  (∀ (s : State) (n : Nat), s.serving = true → n < 12 → s.coreUp n = true →
      exec (.coreError n) s =
        .next (s.restartCore n 2)) ∧
  -- CORE_TASK_MOVE_DONE
  (∀ (s : State) (n : Nat), s.awake = true → s.updActive = false → s.fw.moving.contains n = true →
      exec (.coreTaskMoveDone n) s =
        .next (s.byCode ({ s with fw := { s.fw with moving := s.fw.moving.filter (· != n) } } : State).resumeFw)) ∧
  -- CORE_REJOIN
  (∀ (s : State) (n : Nat), s.awake = true → n < 12 → s.coreState n = 1 →
      exec (.coreRejoin n) s =
        .next (
        { s.setFld (kCore n) 4 2 0 with fw := { s.fw with kickAt := SMap.set zeroNat s.fw.kickAt n s.elapsed.toNat } })) ∧
  -- EVT_RING_ENABLE
  (∀ (s : State) (v : B32) (cons : Option B32), s.awake = true → s.bit (kQcx 0x308) 0 = true → v.getLsbD 0 = false →
      exec (.evtRingEnable v cons) s =
        .next (s.setFld (kQcx 0x308) 0 6 (bitsOf v.toNat 0 6))) ∧
  -- EVT_RING_ENABLE
  (∀ (s : State) (v : B32) (cons : Option B32), s.awake = true → s.bit (kQcx 0x308) 0 = false → v.getLsbD 0 = true →
      s.host.evEnabling = false → (s.setFld (kQcx 0x308) 1 5 (bitsOf v.toNat 1 5)).evtRange = true → 
      exec (.evtRingEnable v cons) s =
        .next ((s.setFld (kQcx 0x308) 1 5 (bitsOf v.toNat 1 5)).setFld (kQcx 0x308) 8 8 0x13)) ∧
  -- EVT_RING_ENABLE
  (∀ (s : State) (v : B32) (cons : Option B32), s.awake = true → s.bit (kQcx 0x308) 0 = false → v.getLsbD 0 = true →
      s.host.evEnabling = false → (s.setFld (kQcx 0x308) 1 5 (bitsOf v.toNat 1 5)).evtRange = false → (s.setFld (kQcx 0x308) 1 5 (bitsOf v.toNat 1 5)).isHome = true →
      (s.setFld (kQcx 0x308) 1 5 (bitsOf v.toNat 1 5)).hostPath = false ∨ cons = none → 
      exec (.evtRingEnable v cons) s =
        .next (
        let u := (s.setFld (kQcx 0x308) 1 5 (bitsOf v.toNat 1 5))
        ({ u with host := { u.host with evEnabling := false } } : State).hdmaErr.setFld (kQcx 0x308) 8 8 2)) ∧
  -- EVT_RING_ENABLE
  (∀ (s : State) (v : B32) (cons : Option B32) (p : B32), s.awake = true → s.bit (kQcx 0x308) 0 = false → v.getLsbD 0 = true →
      s.host.evEnabling = false → (s.setFld (kQcx 0x308) 1 5 (bitsOf v.toNat 1 5)).evtRange = false → (s.setFld (kQcx 0x308) 1 5 (bitsOf v.toNat 1 5)).isHome = true →
      (s.setFld (kQcx 0x308) 1 5 (bitsOf v.toNat 1 5)).hostPath = true → cons = some p → 
      exec (.evtRingEnable v cons) s =
        .next (
        let u := (s.setFld (kQcx 0x308) 1 5 (bitsOf v.toNat 1 5))
        let u : State := { u with host := { u.host with evEnabling := false } }
        let u := u.setBit (kQcx 0x308) 0 true
        let u : State := { u with host := { u.host with evProd := p, evCons := p, evSince := 0 } }
        u.postWord (kQcx 0x310) p)) ∧
  -- EVT_RING_ENABLE
  (∀ (s : State) (v : B32) (cons : Option B32), s.awake = true → s.bit (kQcx 0x308) 0 = false → v.getLsbD 0 = true →
      s.host.evEnabling = false → (s.setFld (kQcx 0x308) 1 5 (bitsOf v.toNat 1 5)).evtRange = false → (s.setFld (kQcx 0x308) 1 5 (bitsOf v.toNat 1 5)).isHome = false →
      exec (.evtRingEnable v cons) s =
        .next (
        let u := (s.setFld (kQcx 0x308) 1 5 (bitsOf v.toNat 1 5))
        { u with host := { u.host with evEnabling := true } })) ∧
  -- EVENT_WRITE
  (∀ (s : State) (e : Event) (es : List Event), s.awake = true → s.host.evHeld = e :: es → s.isHome = true →
      s.bit (kQcx 0x308) 0 = true → s.hostAbsent = false → 0 < s.evtFree →
      s.host.rrings.all (fun r => r.2.waiting.all (fun w => w.kind != 4)) = true → 
      exec .eventWrite s =
        .next (
        ({ s with host := { s.host with evHeld := es } } : State).evtStore e)) ∧
  -- EVENT_WRITE
  (∀ (s : State) (e : Event) (es : List Event), s.awake = true → s.host.evHeld = e :: es → s.isHome = false →
      s.hostPath = true → 
      exec .eventWrite s =
        .next (
        ({ s with host := { s.host with evHeld := es, evLost := false } } : State).sendCtrl rqCore0.code.toNat s.home ctrlEvent (e.bytes s.host.evLost 0))) ∧
  -- CLEAN_SERVICE_EXPIRE
  (∀ (s : State), s.serving = true → s.inService = true → s.updActive = false →
      s.fw.cleanStop = false → msTicks 28800000 ≤ s.fw.clean → bytesToNat (s.norBytes (s.slotBase s.booted + 0x1000) 4) ≠ 0x474F4C44 →
      exec .cleanServiceExpire s =
        .next (s.promote))

/-- Feeding, initialising, checking and scanning with a CRC unit, initialising and scanning with a SHA-512 engine, the weight
scrub and a write of the command register. In every state and for all operands that meet the conditions of a clause, exec
answers a next state, and it is the one the clause writes: the effect that the rules give the command, in the model's named
operations, and everything else as before. The clauses are for DIN_B, DIN_H, DIN_W, CRC_INIT, CRC_CHECK, CRC_SCAN,
CRC_SCAN_DONE, SHA_INIT, SHA_SCAN, SHA_SCAN_DONE, WEIGHT_SCRUB, CRC_COMMAND_WRITE. Where the manual leaves a point open the
clauses rest on the choice of the model in log entries 5, 94, 137. -/
def Obligations.CheckUnitCommandsComplete : Prop :=
  -- DIN_B
  (∀ (s : State) (u : Nat) (v : B32) (sec : Bool), s.crcNext u = some ⟨.feed 1 v, sec⟩ → 
      exec (.dinB u) s =
        .next ((s.crcPop u ⟨.feed 1 v, sec⟩).crcFeed u (natToBytes v.toNat 1))) ∧
  -- DIN_H
  (∀ (s : State) (u : Nat) (v : B32) (sec : Bool), s.crcNext u = some ⟨.feed 2 v, sec⟩ → 
      exec (.dinH u) s =
        .next ((s.crcPop u ⟨.feed 2 v, sec⟩).crcFeed u (natToBytes v.toNat 2))) ∧
  -- DIN_W
  (∀ (s : State) (u : Nat) (v : B32) (sec : Bool), s.crcNext u = some ⟨.feed 4 v, sec⟩ → 
      exec (.dinW u) s =
        .next ((s.crcPop u ⟨.feed 4 v, sec⟩).crcFeed u (natToBytes v.toNat 4))) ∧
  -- CRC_INIT
  (∀ (s : State) (u : Nat) (sec : Bool), s.crcNext u = some ⟨.init, sec⟩ → 
      exec (.crcInit u) s =
        .next ((s.crcPop u ⟨.init, sec⟩).crcReset u sec)) ∧
  -- CRC_CHECK
  (∀ (s : State) (u : Nat) (sec : Bool), s.crcNext u = some ⟨.check, sec⟩ → 
      exec (.crcCheck u) s =
        .next ((s.crcPop u ⟨.check, sec⟩).crcCompare u)) ∧
  -- CRC_SCAN
  (∀ (s : State) (u addr len : Nat) (nc cmp fin sec : Bool), s.crcNext u = some ⟨.scan addr len nc cmp fin, sec⟩ → 
      exec (.crcScan u) s =
        .next (
        let k : ChkCmd := ⟨.scan addr len nc cmp fin, sec⟩
        let w := s.crcPop u k
        if scanRange addr len then w.setCrc u { w.crc u with scan := some k } else w.setFld (kCrc u 0x2C) 8 8 stRange)) ∧
  -- CRC_SCAN_DONE
  (∀ (s : State) (u addr len : Nat) (nc cmp fin sec : Bool), s.awake = true → u < 4 → (s.crc u).scan = some ⟨.scan addr len nc cmp fin, sec⟩ →
      s.pageBusy addr len = false → 
      exec (.crcScanDone u) s =
        .next (
        let r := s.scanRead (0xC000 + u) addr len nc sec
        let w := (r.1.setCrc u { r.1.crc u with scan := none }).setFld (kCrc u 0x2C) 8 8 r.2.1
        let w := if r.2.1 = 0 then (if cmp then (w.crcFeed u r.2.2).crcCompare u else w.crcFeed u r.2.2) else w
        if fin then s.byCode (w.scrubEnded u r.2.1) else w)) ∧
  -- SHA_INIT
  (∀ (s : State) (e : Nat) (sec : Bool), s.shaNext e = some ⟨.init, sec⟩ → 
      exec (.shaInit e) s =
        .next (
        let w := s.shaPop e ⟨.init, sec⟩
        ((w.setSha e { w.sha e with state := shaIv, hidden := sec }).setReg64 (kSha e 0x18) 0).setBit (kSha e 4) 1 false)) ∧
  -- SHA_SCAN
  (∀ (s : State) (e addr len : Nat) (nc cmp fin sec : Bool), s.shaNext e = some ⟨.scan addr len nc cmp fin, sec⟩ → 
      exec (.shaScan e) s =
        .next (
        let k : ChkCmd := ⟨.scan addr len nc cmp fin, sec⟩
        let w := s.shaPop e k
        if scanRange addr len ∧ (fin ∨ len % 128 = 0) then w.setSha e { w.sha e with scan := some k }
        else w.setFld (kSha e 4) 8 8 stRange)) ∧
  -- SHA_SCAN_DONE
  (∀ (s : State) (e addr len : Nat) (nc cmp fin sec : Bool), s.awake = true → e < 4 → (s.sha e).scan = some ⟨.scan addr len nc cmp fin, sec⟩ →
      s.pageBusy addr len = false → 
      exec (.shaScanDone e) s =
        .next (
        let r := s.scanRead (0xC004 + e) addr len nc sec
        let w := (r.1.setSha e { r.1.sha e with scan := none }).setFld (kSha e 4) 8 8 r.2.1
        if r.2.1 = 0 then w.shaFold e fin r.2.2 else w)) ∧
  -- WEIGHT_SCRUB
  (∀ (s : State) (u folio entry : Nat) (b : ScrubBlock), s.serving = true → s.fwServes = true → u < 4 →
      s.folioState folio = 3 → s.crcBusy u = false → s.unitTaken u = false →
      (s.crc u).scrub = some b → b.folio = folio → b.entry = entry →
      (s.crc u).again = true → 
      exec (.weightScrub u folio entry) s =
        .next (
        let w := s.setReg (kCrc u 0) 0x7FF
        let w := w.setReg64 (kCrc u 8) sigPoly
        let w := w.setReg64 (kCrc u 0x10) 0xFFFFFFFFFFFFFFFF
        let w := w.setReg64 (kCrc u 0x18) (BitVec.ofNat 64 b.crc)
        let w := w.setReg64 (kCrc u 0x30) (BitVec.ofNat 64 b.addr)
        let w := w.setReg64 (kCrc u 0x38) (BitVec.ofNat 64 b.len)
        (w.setCrc u { w.crc u with scrub := some b }).crcQueue u rqCore0 (scrubCmds b))) ∧
  -- WEIGHT_SCRUB
  (∀ (s : State) (u folio entry : Nat) (v : State) (b : ScrubBlock), s.serving = true → s.fwServes = true → u < 4 →
      s.folioState folio = 3 → s.crcBusy u = false → s.unitTaken u = false →
      (s.crc u).scrub = none → s.crctabWaits folio = false → s.scrubBlock folio entry = (v, some b) →
      exec (.weightScrub u folio entry) s =
        .next (
        let w := v.setReg (kCrc u 0) 0x7FF
        let w := w.setReg64 (kCrc u 8) sigPoly
        let w := w.setReg64 (kCrc u 0x10) 0xFFFFFFFFFFFFFFFF
        let w := w.setReg64 (kCrc u 0x18) (BitVec.ofNat 64 b.crc)
        let w := w.setReg64 (kCrc u 0x30) (BitVec.ofNat 64 b.addr)
        let w := w.setReg64 (kCrc u 0x38) (BitVec.ofNat 64 b.len)
        (w.setCrc u { w.crc u with scrub := some b }).crcQueue u rqCore0 (scrubCmds b))) ∧
  -- CRC_COMMAND_WRITE
  (∀ (s : State) (rq : Requester) (key : Nat) (v : B32) (w : State), s.awake = true → s.chkCommand rq key v = some w → 
      exec (.crcCommandWrite rq key v) s =
        .next (w))

/-- The start and the end of the test of a physical tile and the test out of turn that a fault asks for. In every state and
for all operands that meet the conditions of a clause, exec answers a next state, and it is the one the clause writes: the
effect that the rules give the command, in the model's named operations, and everything else as before. The clauses are for
TILE_TEST_START, TILE_TEST_END, OUT_OF_TURN_TEST_START. Where the manual leaves a point open the clauses rest on the choice of
the model in log entries 6, 62, 63, 64, 136. -/
def Obligations.InFieldTestCommandsComplete : Prop :=
  -- TILE_TEST_START
  (∀ (s : State) (c t l d : Nat) (u : State), s.serving = true → c < 8 → s.inService = true →
      s.bit (kBlt 0x20) 0 = true → s.fwServes = true → 9 ≤ (s.working c).length →
      (s.cluster c).due = [] → s.nextVictim c = some t → s.logicalOf t = some l →
      s.earliestFree c = some d → s.moveStart l d = some u → 
      exec (.tileTestStart c) s =
        .next (u)) ∧
  -- TILE_TEST_START
  (∀ (s : State) (c t : Nat), s.serving = true → c < 8 → s.inService = true →
      s.bit (kBlt 0x20) 0 = true → s.fwServes = true → 9 ≤ (s.working c).length →
      (s.cluster c).due = [] → s.nextVictim c = some t → s.logicalOf t = none →
      (s.cluster c).test = none → (s.cluster c).move.any (fun m => m.2 == t) = false → 
      exec (.tileTestStart c) s =
        .next (
        let u := s.startTest c t false
        u.setCluster c { u.cluster c with next := (t % 10 + 1) % 10 })) ∧
  -- TILE_TEST_END
  (∀ (s : State) (c t a : Nat) (o : Bool) (start : B64) (r : TestResult), (s.cluster c).test = some (t, o, a, start) → s.awake = true → c < 8 →
      s.fwServes = true → a + usTicks 2000 ≤ s.elapsed.toNat → 
      exec (.tileTestEnd c r) s =
        .next (
        let u := s.setCluster c { s.cluster c with test := none }
        s.byCode (match r with
        | .pass => u.testPass c t start
        | .repairable row col =>
          if (s.cluster c).repaired.any (fun x => x.1 == t) then u.testFail c t else u.testRepair c t row col
        | .fail => u.testFail c t))) ∧
  -- OUT_OF_TURN_TEST_START
  (∀ (s : State) (c t : Nat) (ts : List Nat), s.serving = true → c < 8 → s.fwServes = true →
      (s.cluster c).test = none → (s.cluster c).due = t :: ts → (s.tile t).failed = true ∨ (s.cluster c).retire.any (fun r => r.1 == t) = true →
      exec (.outOfTurnTestStart c) s =
        .next (s.setCluster c { s.cluster c with due := ts })) ∧
  -- OUT_OF_TURN_TEST_START
  (∀ (s : State) (c t : Nat) (ts : List Nat), s.serving = true → c < 8 → s.fwServes = true →
      (s.cluster c).test = none → (s.cluster c).due = t :: ts → (s.tile t).failed = false →
      (s.cluster c).retire.any (fun r => r.1 == t) = false → (s.cluster c).move = none → s.logicalOf t = none →
      exec (.outOfTurnTestStart c) s =
        .next ((s.setCluster c { s.cluster c with due := ts }).startTest c t true)) ∧
  -- OUT_OF_TURN_TEST_START
  (∀ (s : State) (c t : Nat) (ts : List Nat) (l d : Nat) (u : State), s.serving = true → c < 8 → s.fwServes = true →
      (s.cluster c).test = none → (s.cluster c).due = t :: ts → (s.tile t).failed = false →
      (s.cluster c).retire.any (fun r => r.1 == t) = false → (s.cluster c).move = none → s.logicalOf t = some l →
      s.earliestFree c = some d → s.moveStart l d = some u → 
      exec (.outOfTurnTestStart c) s =
        .next (u)) ∧
  -- OUT_OF_TURN_TEST_START
  (∀ (s : State) (c t : Nat) (ts : List Nat) (l : Nat), s.serving = true → c < 8 → s.fwServes = true →
      (s.cluster c).test = none → (s.cluster c).due = t :: ts → (s.tile t).failed = false →
      (s.cluster c).retire.any (fun r => r.1 == t) = false → (s.cluster c).move = none → s.logicalOf t = some l →
      s.earliestFree c = none → (s.tile t).residents = [] → (s.tile t).xfers = [] →
      exec (.outOfTurnTestStart c) s =
        .next (((s.setCluster c { s.cluster c with due := ts }).startTest c t true).setTile t { s.tile t with swap := true })) ∧
  -- OUT_OF_TURN_TEST_START
  (∀ (s : State) (c t : Nat) (ts : List Nat) (l : Nat), s.serving = true → c < 8 → s.fwServes = true →
      (s.cluster c).test = none → (s.cluster c).due = t :: ts → (s.tile t).failed = false →
      (s.cluster c).retire.any (fun r => r.1 == t) = false → (s.cluster c).move = none → s.logicalOf t = some l →
      s.earliestFree c = none → (s.tile t).residents ≠ [] ∨ (s.tile t).xfers ≠ [] → (s.tile t).swap = false →
      exec (.outOfTurnTestStart c) s =
        .next (s.setTile t { s.tile t with swap := true }))

/-- The hold of FAULT_n, each request of the safety channel with a good or a failing CRC, the two registers and the edge of
SAFE_TOGGLE. In every state and for all operands that meet the conditions of a clause, exec answers a next state, and it is
the one the clause writes: the effect that the rules give the command, in the model's named operations, and everything else as
before. The clauses are for FAULT_HOLD_EXPIRE, SAFETY_NOP, SAFETY_STATUS, SAFETY_NEXT, SAFETY_ACK, SAFETY_REQUEST_DISCARDED,
FAULT_ACK_WRITE, ALIVE_WRITE, SAFE_TOGGLE_EDGE. Where the manual leaves a point open the clauses rest on the choice of the
model in log entry 60. -/
def Obligations.SafetyChannelCommandsComplete : Prop :=
  -- FAULT_HOLD_EXPIRE
  (∀ (s : State), s.awake = true → s.pins.fault = true → s.safety.reports = [] →
      s.safety.faultAt + msTicks 1 ≤ s.elapsed.toNat → 
      exec .faultHoldExpire s =
        .next ({ s with pins := { s.pins with fault := false } })) ∧
  -- SAFETY_NOP
  (∀ (s : State) (r : BitVec 256), s.channelOn = true → rOk r = true → rCmd r = 0 ∨ 3 < rCmd r →
      exec (.safetyNop r) s =
        .next (
        if s.pins.halt then s.exchange s.outgoing (s.safetyResponse 0 (rCount r) false none) true
        else
          let u := s
          let u := u.exchange s.outgoing (u.safetyResponse 0 (rCount r) false none) true
          u)) ∧
  -- SAFETY_STATUS
  (∀ (s : State) (r : BitVec 256), s.channelOn = true → rOk r = true → rCmd r = 1 →
      exec (.safetyStatus r) s =
        .next (
        if s.pins.halt then s.exchange s.outgoing (s.safetyResponse 1 (rCount r) false none) true
        else
          let u := s
          let u := u.exchange s.outgoing (u.safetyResponse 1 (rCount r) false none) true
          { u with safety := { u.safety with overflow := false } })) ∧
  -- SAFETY_NEXT
  (∀ (s : State) (r : BitVec 256), s.channelOn = true → rOk r = true → rCmd r = 2 →
      exec (.safetyNext r) s =
        .next (
        if s.pins.halt then s.exchange s.outgoing (s.safetyResponse 2 (rCount r) false none) true
        else
          let u := s
          let u := u.exchange s.outgoing (u.safetyResponse 2 (rCount r) false s.safety.reports.head?) true
          u)) ∧
  -- SAFETY_ACK
  (∀ (s : State) (r : BitVec 256), s.channelOn = true → rOk r = true → rCmd r = 3 →
      exec (.safetyAck r) s =
        .next (
        if s.pins.halt then s.exchange s.outgoing (s.safetyResponse 3 (rCount r) false none) true
        else
          let u := s.ackReport (rAck r)
          let u := u.exchange s.outgoing (u.safetyResponse 3 (rCount r) false none) true
          u)) ∧
  -- SAFETY_REQUEST_DISCARDED
  (∀ (s : State) (frame : List Byte), s.channelOn = true → frame.length ≠ 32 ∨ rOk (BitVec.ofNat 256 (bytesToNat frame)) = false → 
      exec (.safetyRequestDiscarded frame) s =
        .next ((s.exchange s.outgoing (s.safetyResponse 0 0 true none) false).addSat (kBlt 0x30) 1)) ∧
  -- FAULT_ACK_WRITE
  (∀ (s : State) (rq : Requester) (seq : B32), s.awake = true → regAllowed rq true (kBlt 0x10) = true → 
      exec (.faultAckWrite rq seq) s =
        .next (if s.safety.spiSeen then s else s.ackReport seq)) ∧
  -- ALIVE_WRITE
  (∀ (s : State) (rq : Requester), s.awake = true → regAllowed rq true (kBlt 0x14) = true → 
      exec (.aliveWrite rq) s =
        .next ({ s with safety := { s.safety with aliveAt := some s.elapsed.toNat } })) ∧
  -- SAFE_TOGGLE_EDGE
  (∀ (s : State), s.toggling = true → s.elapsed.toNat % usTicks 500 = 0 → s.elapsed.toNat ≠ s.safety.edgeAt →
      exec .safeToggleEdge s =
        .next ({ s with pins := { s.pins with toggle := !s.pins.toggle }, safety := { s.safety with edgeAt := s.elapsed.toNat } }))
end

