-- ==== Sys2Proof/Laws/SMap.lean ====
section
/-!
SUPPORT. Laws of sparse storage: a read after a write, and the canonical form that every operation keeps.
-/
namespace Sys2Proof.Machine

variable {α : Type}

theorem SMap.get_erase_self (dflt : Nat → α) (m : SMap α) (k : Nat) : SMap.get dflt (SMap.erase m k) k = dflt k := by
  induction m with
  | nil => rfl
  | cons e m ih =>
    obtain ⟨a, v⟩ := e
    by_cases h : a = k
    · simpa [SMap.erase, h] using ih
    · simpa [SMap.erase, SMap.get, h] using ih

theorem SMap.get_erase_other (dflt : Nat → α) (m : SMap α) {k j : Nat} (h : j ≠ k) :
    SMap.get dflt (SMap.erase m k) j = SMap.get dflt m j := by
  induction m with
  | nil => rfl
  | cons e m ih =>
    obtain ⟨a, v⟩ := e
    by_cases ha : a = k
    · subst ha
      simp [SMap.erase, SMap.get, ih, Ne.symm h]
    · rw [show SMap.erase ((a, v) :: m) k = (a, v) :: SMap.erase m k by simp [SMap.erase, ha]]
      simp [SMap.get, ih]

theorem SMap.get_insert_self (dflt : Nat → α) (m : SMap α) (k : Nat) (v : α)
    (h : SMap.get dflt m k = dflt k ∨ ∀ e ∈ m, e.1 ≠ k) (hk : ∀ e ∈ m, e.1 ≠ k) :
    SMap.get dflt (SMap.insert m k v) k = v := by
  induction m with
  | nil => simp [SMap.insert, SMap.get]
  | cons e m ih =>
    obtain ⟨a, w⟩ := e
    have ha : a ≠ k := hk (a, w) (by simp)
    have hm : ∀ e ∈ m, e.1 ≠ k := fun e he => hk e (List.mem_cons_of_mem _ he)
    by_cases hl : k < a
    · simp [SMap.insert, hl, SMap.get]
    · simp [SMap.insert, hl, SMap.get, ha, ih (Or.inr hm) hm]

theorem SMap.get_insert_other (dflt : Nat → α) (m : SMap α) (k : Nat) (v : α) {j : Nat} (h : j ≠ k) :
    SMap.get dflt (SMap.insert m k v) j = SMap.get dflt m j := by
  induction m with
  | nil => simp [SMap.insert, SMap.get, Ne.symm h]
  | cons e m ih =>
    obtain ⟨a, w⟩ := e
    by_cases hl : k < a
    · simp [SMap.insert, hl, SMap.get, Ne.symm h]
    · simp [SMap.insert, hl, SMap.get, ih]

theorem SMap.not_mem_erase (m : SMap α) (k : Nat) : ∀ e ∈ SMap.erase m k, e.1 ≠ k := by
  induction m with
  | nil => simp [SMap.erase]
  | cons e m ih =>
    obtain ⟨a, v⟩ := e
    by_cases h : a = k
    · simpa [SMap.erase, h] using ih
    · intro x hx
      simp only [SMap.erase, h, if_false, List.mem_cons] at hx
      rcases hx with rfl | hx
      · exact h
      · exact ih x hx

/-- A read at the key just written returns the value written. -/
@[simp] theorem SMap.get_set_self [DecidableEq α] (dflt : Nat → α) (m : SMap α) (k : Nat) (v : α) :
    SMap.get dflt (SMap.set dflt m k v) k = v := by
  unfold SMap.set
  split
  · rename_i h; rw [SMap.get_erase_self, h]
  · exact SMap.get_insert_self dflt _ k v (Or.inr (SMap.not_mem_erase m k)) (SMap.not_mem_erase m k)

/-- A read at another key returns what it returned before. -/
theorem SMap.get_set_other [DecidableEq α] (dflt : Nat → α) (m : SMap α) {k j : Nat} (v : α) (h : j ≠ k) :
    SMap.get dflt (SMap.set dflt m k v) j = SMap.get dflt m j := by
  unfold SMap.set
  split
  · exact SMap.get_erase_other dflt m h
  · rw [SMap.get_insert_other dflt _ k v h, SMap.get_erase_other dflt m h]

theorem SMap.get_set [DecidableEq α] (dflt : Nat → α) (m : SMap α) (k j : Nat) (v : α) :
    SMap.get dflt (SMap.set dflt m k v) j = if j = k then v else SMap.get dflt m j := by
  by_cases h : j = k
  · subst h; simp
  · simp [h, SMap.get_set_other dflt m v h]

/-! ## The canonical form -/

theorem SMap.erase_insert_self (m : SMap α) (k : Nat) (v : α) : SMap.erase (SMap.insert m k v) k = SMap.erase m k := by
  induction m with
  | nil => simp [SMap.insert, SMap.erase]
  | cons e m ih =>
    obtain ⟨j, w⟩ := e
    unfold SMap.insert
    split
    · simp [SMap.erase]
    · simp only [SMap.erase]
      split
      · exact ih
      · rw [ih]

theorem SMap.erase_erase (m : SMap α) (k : Nat) : SMap.erase (SMap.erase m k) k = SMap.erase m k := by
  induction m with
  | nil => rfl
  | cons e m ih =>
    obtain ⟨j, w⟩ := e
    simp only [SMap.erase]
    split
    · exact ih
    · rename_i h
      simp only [SMap.erase]
      rw [if_neg h, ih]

/-- Of two writes of a key the later stands. -/
theorem SMap.set_set [DecidableEq α] (dflt : Nat → α) (m : SMap α) (k : Nat) (v w : α) :
    SMap.set dflt (SMap.set dflt m k v) k w = SMap.set dflt m k w := by
  have h : SMap.erase (SMap.set dflt m k v) k = SMap.erase m k := by
    unfold SMap.set
    split
    · exact SMap.erase_erase m k
    · rw [SMap.erase_insert_self, SMap.erase_erase]
  unfold SMap.set at h ⊢
  rw [h]

theorem SMap.above_iff (k : Nat) (m : SMap α) : SMap.above k m = true ↔ ∀ e ∈ m, k < e.1 := by
  induction m with
  | nil => simp [SMap.above]
  | cons e m ih => obtain ⟨a, v⟩ := e; simp [SMap.above, ih]

variable [DecidableEq α]

theorem SMap.wf_cons (dflt : Nat → α) (e : Nat × α) (m : SMap α) :
    SMap.wf dflt (e :: m) = true ↔ (∀ x ∈ m, e.1 < x.1) ∧ e.2 ≠ dflt e.1 ∧ SMap.wf dflt m = true := by
  obtain ⟨a, v⟩ := e
  simp [SMap.wf, SMap.above_iff, and_assoc]

theorem SMap.wf_filter (dflt : Nat → α) (p : Nat × α → Bool) (m : SMap α) (h : SMap.wf dflt m = true) :
    SMap.wf dflt (m.filter p) = true := by
  induction m with
  | nil => rfl
  | cons e m ih =>
    rw [SMap.wf_cons] at h
    by_cases hp : p e
    · rw [List.filter_cons_of_pos hp, SMap.wf_cons]
      exact ⟨fun x hx => h.1 x (List.mem_of_mem_filter hx), h.2.1, ih h.2.2⟩
    · rw [List.filter_cons_of_neg hp]
      exact ih h.2.2

omit [DecidableEq α] in
theorem SMap.erase_eq_filter (m : SMap α) (k : Nat) : SMap.erase m k = m.filter (fun e => decide (e.1 ≠ k)) := by
  induction m with
  | nil => rfl
  | cons e m ih =>
    obtain ⟨a, v⟩ := e
    by_cases h : a = k <;> simp [SMap.erase, h, ih]

omit [DecidableEq α] in
theorem SMap.mem_insert (m : SMap α) (k : Nat) (v : α) (e : Nat × α) :
    e ∈ SMap.insert m k v ↔ e = (k, v) ∨ e ∈ m := by
  induction m with
  | nil => simp [SMap.insert]
  | cons x m ih =>
    obtain ⟨a, w⟩ := x
    by_cases h : k < a
    · simp [SMap.insert, h]
    · simp only [SMap.insert, h, if_false, List.mem_cons, ih]
      tauto

theorem SMap.wf_insert (dflt : Nat → α) (m : SMap α) (k : Nat) (v : α) (h : SMap.wf dflt m = true)
    (hk : ∀ e ∈ m, e.1 ≠ k) (hv : v ≠ dflt k) : SMap.wf dflt (SMap.insert m k v) = true := by
  induction m with
  | nil => simp [SMap.insert, SMap.wf, SMap.above, hv]
  | cons e m ih =>
    obtain ⟨a, w⟩ := e
    rw [SMap.wf_cons] at h
    have ha : a ≠ k := hk (a, w) (by simp)
    by_cases hl : k < a
    · simp only [SMap.insert, hl, if_true]
      rw [SMap.wf_cons, SMap.wf_cons]
      refine ⟨?_, hv, h⟩
      intro x hx
      rcases List.mem_cons.1 hx with rfl | hx
      · exact hl
      · exact lt_trans hl (h.1 x hx)
    · simp only [SMap.insert, hl, if_false]
      rw [SMap.wf_cons]
      refine ⟨?_, h.2.1, ih h.2.2 (fun e he => hk e (List.mem_cons_of_mem _ he))⟩
      intro x hx
      rcases (SMap.mem_insert m k v x).1 hx with rfl | hx
      · show a < k
        omega
      · exact h.1 x hx

/-- A write keeps the canonical form. -/
theorem SMap.wf_set (dflt : Nat → α) (m : SMap α) (k : Nat) (v : α) (h : SMap.wf dflt m = true) :
    SMap.wf dflt (SMap.set dflt m k v) = true := by
  unfold SMap.set
  have he : SMap.wf dflt (SMap.erase m k) = true := by rw [SMap.erase_eq_filter]; exact SMap.wf_filter dflt _ m h
  split
  · exact he
  · rename_i hv; exact SMap.wf_insert dflt _ k v he (SMap.not_mem_erase m k) hv

theorem SMap.wf_dropWhere (dflt : Nat → α) (p : Nat → Bool) (m : SMap α) (h : SMap.wf dflt m = true) :
    SMap.wf dflt (SMap.dropWhere p m) = true := SMap.wf_filter dflt _ m h

/-- Two maps in canonical form that read alike are the same data. -/
theorem SMap.ext_get (dflt : Nat → α) (m n : SMap α) (hm : SMap.wf dflt m = true) (hn : SMap.wf dflt n = true)
    (h : ∀ k, SMap.get dflt m k = SMap.get dflt n k) : m = n := by
  have above_get : ∀ (l : SMap α) (k : Nat), (∀ x ∈ l, k < x.1) → SMap.get dflt l k = dflt k := by
    intro l
    induction l with
    | nil => intro k _; rfl
    | cons e l ih =>
      intro k hk
      obtain ⟨a, v⟩ := e
      have : k < a := hk (a, v) (by simp)
      simp [SMap.get, Nat.ne_of_gt this, ih k (fun x hx => hk x (List.mem_cons_of_mem _ hx))]
  induction m generalizing n with
  | nil =>
    cases n with
    | nil => rfl
    | cons e n =>
      obtain ⟨a, v⟩ := e
      rw [SMap.wf_cons] at hn
      have := h a
      simp [SMap.get] at this
      exact absurd this.symm hn.2.1
  | cons e m ih =>
    obtain ⟨a, v⟩ := e
    rw [SMap.wf_cons] at hm
    cases n with
    | nil =>
      have := h a
      simp [SMap.get] at this
      exact absurd this hm.2.1
    | cons e' n =>
      obtain ⟨b, w⟩ := e'
      have hn' := hn
      rw [SMap.wf_cons] at hn
      have hab : a = b := by
        rcases Nat.lt_trichotomy a b with hlt | heq | hgt
        · have h1 := h a
          rw [above_get ((b, w) :: n) a (by
            intro x hx
            rcases List.mem_cons.1 hx with rfl | hx
            · exact hlt
            · exact lt_trans hlt (hn.1 x hx))] at h1
          simp [SMap.get] at h1
          exact absurd h1 hm.2.1
        · exact heq
        · have h1 := h b
          rw [above_get ((a, v) :: m) b (by
            intro x hx
            rcases List.mem_cons.1 hx with rfl | hx
            · exact hgt
            · exact lt_trans hgt (hm.1 x hx))] at h1
          simp [SMap.get] at h1
          exact absurd h1.symm hn.2.1
      subst hab
      have hv : v = w := by have := h a; simpa [SMap.get] using this
      subst hv
      congr 1
      apply ih n hm.2.2 hn.2.2
      intro k
      by_cases hk : a = k
      · subst hk
        rw [above_get m a hm.1, above_get n a hn.1]
      · have := h k
        simpa [SMap.get, hk] using this

/-! ## Byte memory -/

theorem Memory.wf_write (m : Memory) (a : Nat) (b : Byte) (h : Memory.wf m = true) : Memory.wf (m.write a b) = true :=
  SMap.wf_set _ m a b h

/-- Writing bytes keeps the canonical form. -/
theorem Memory.wf_writeBytes (bs : List Byte) : ∀ (m : Memory) (a : Nat), Memory.wf m = true →
    Memory.wf (m.writeBytes a bs) = true := by
  induction bs with
  | nil => intro m a h; exact h
  | cons b bs ih => intro m a h; exact ih _ _ (Memory.wf_write m a b h)

theorem Memory.read_write (m : Memory) (a c : Nat) (b : Byte) :
    (m.write a b).read c = if c = a then b else m.read c := SMap.get_set _ m a c b

/-- A byte outside the written range reads as before. -/
theorem Memory.read_writeBytes_outside (bs : List Byte) : ∀ (m : Memory) (a c : Nat),
    c < a ∨ a + bs.length ≤ c → (m.writeBytes a bs).read c = m.read c := by
  induction bs with
  | nil => intro m a c _; rfl
  | cons b bs ih =>
    intro m a c h
    have h1 : c < a + 1 ∨ a + 1 + bs.length ≤ c := by
      simp only [List.length_cons] at h; omega
    have h2 : c ≠ a := by simp only [List.length_cons] at h; omega
    show ((m.write a b).writeBytes (a + 1) bs).read c = _
    rw [ih _ _ _ h1, Memory.read_write, if_neg h2]

/-- Byte `i` of the written range reads as byte `i` of what was written. -/
theorem Memory.read_writeBytes_inside (bs : List Byte) : ∀ (m : Memory) (a i : Nat) (hi : i < bs.length),
    (m.writeBytes a bs).read (a + i) = bs[i] := by
  induction bs with
  | nil => intro m a i h; simp at h
  | cons b bs ih =>
    intro m a i h
    cases i with
    | zero =>
      show ((m.write a b).writeBytes (a + 1) bs).read a = b
      rw [Memory.read_writeBytes_outside _ _ _ _ (Or.inl (Nat.lt_succ_self a)), Memory.read_write, if_pos rfl]
    | succ i =>
      have hi : i < bs.length := by simpa using h
      have := ih (m.write a b) (a + 1) i hi
      show ((m.write a b).writeBytes (a + 1) bs).read (a + (i + 1)) = bs[i]'hi
      rw [show a + (i + 1) = a + 1 + i by omega]
      exact this

end Sys2Proof.Machine
end

