-- ==== Sys2Proof/Laws/State.lean ====
section
/-!
SUPPORT. The updates of State: what each leaves in every field, what a register or a unit reads as after one, and how the two
outcomes of a command that may be turned away are written.
-/
namespace Sys2Proof.Machine
set_option maxRecDepth 2000

theorem attempt_some {o : Option State} {s t : State} (h : o = some t) : attempt o s = .next t := by rw [h]; rfl

theorem getD_ite (p : Prop) [Decidable p] (a b s : State) : (if p then some a else some b).getD s = if p then a else b := by split <;> rfl

theorem getD_ite' {p q : Prop} [Decidable p] [Decidable q] (h : p ↔ q) (a b s : State) : (if p then some a else some b).getD s = if q then a else b := by
  by_cases hq : q
  · rw [if_pos (h.2 hq), if_pos hq]; rfl
  · rw [if_neg (fun x => hq (h.1 x)), if_neg hq]; rfl

theorem reg_setReg (s : State) (k j : Nat) (v : B32) : (s.setReg k v).reg j = if j = k then v else s.reg j := SMap.get_set _ _ _ _ _

theorem State.setReg_setReg (s : State) (k : Nat) (v w : B32) : (s.setReg k v).setReg k w = s.setReg k w :=
  congrArg (fun m => { s with regs := m }) (SMap.set_set _ _ _ _ _)

theorem State.reg_setReg (s : State) (k j : Nat) (v : B32) : (s.setReg k v).reg j = if j = k then v else s.reg j :=
  SMap.get_set _ _ _ _ _
theorem State.tile_setTile (s : State) (k j : Nat) (v : Tile) : (s.setTile k v).tile j = if j = k then v else s.tile j :=
  SMap.get_set _ _ _ _ _
theorem State.cluster_setCluster (s : State) (k j : Nat) (v : Cluster) : (s.setCluster k v).cluster j = if j = k then v else s.cluster j :=
  SMap.get_set _ _ _ _ _
theorem State.pipe_setPipe (s : State) (k j : Nat) (v : Pipe) : (s.setPipe k v).pipe j = if j = k then v else s.pipe j :=
  SMap.get_set _ _ _ _ _
theorem State.book_setBook (s : State) (k j : Nat) (v : Book) : (s.setBook k v).book j = if j = k then v else s.book j :=
  SMap.get_set _ _ _ _ _
theorem State.port_setPort (s : State) (k j : Nat) (v : Port) : (s.setPort k v).port j = if j = k then v else s.port j :=
  SMap.get_set _ _ _ _ _
theorem State.iring_setIring (s : State) (k j : Nat) (v : IRing) : (s.setIring k v).iring j = if j = k then v else s.iring j :=
  SMap.get_set _ _ _ _ _
theorem State.rring_setRring (s : State) (k j : Nat) (v : RRing) : (s.setRring k v).rring j = if j = k then v else s.rring j :=
  SMap.get_set _ _ _ _ _
theorem State.crc_setCrc (s : State) (k j : Nat) (v : CrcUnit) : (s.setCrc k v).crc j = if j = k then v else s.crc j :=
  SMap.get_set _ _ _ _ _
theorem State.sha_setSha (s : State) (k j : Nat) (v : ShaEng) : (s.setSha k v).sha j = if j = k then v else s.sha j :=
  SMap.get_set _ _ _ _ _
theorem State.stack_setStack (s : State) (k j : Nat) (v : Stack) : (s.setStack k v).stack j = if j = k then v else s.stack j :=
  SMap.get_set _ _ _ _ _
theorem State.rail_setRail (s : State) (k j : Nat) (v : Rail) : (s.setRail k v).rail j = if j = k then v else s.rail j :=
  SMap.get_set _ _ _ _ _
theorem State.sensor_setSensor (s : State) (k j : Nat) (v : Sensor) : (s.setSensor k v).sensor j = if j = k then v else s.sensor j :=
  SMap.get_set _ _ _ _ _
theorem State.die_setDie (s : State) (k j : Nat) (v : DieClock) : (s.setDie k v).die j = if j = k then v else s.die j :=
  SMap.get_set _ _ _ _ _
theorem State.stem_setStem (s : State) (k j : Nat) (v : Engine) : (s.setStem k v).stem j = if j = k then v else s.stem j :=
  SMap.get_set _ _ _ _ _
theorem State.spc_setSpc (s : State) (k j : Nat) (v : Engine) : (s.setSpc k v).spc j = if j = k then v else s.spc j :=
  SMap.get_set _ _ _ _ _

@[simp] theorem State.setFld_pending (s : State) (k lo w v : Nat) : (s.setFld k lo w v).pending = s.pending := rfl
@[simp] theorem State.setFld_latch (s : State) (k lo w v : Nat) : (s.setFld k lo w v).latch = s.latch := rfl
@[simp] theorem State.setFld_readback (s : State) (k lo w v : Nat) : (s.setFld k lo w v).readback = s.readback := rfl
@[simp] theorem State.setFld_elapsed (s : State) (k lo w v : Nat) : (s.setFld k lo w v).elapsed = s.elapsed := rfl
@[simp] theorem State.setFld_time (s : State) (k lo w v : Nat) : (s.setFld k lo w v).time = s.time := rfl
@[simp] theorem State.setFld_freeIx (s : State) (k lo w v : Nat) : (s.setFld k lo w v).freeIx = s.freeIx := rfl
@[simp] theorem State.setFld_fuse (s : State) (k lo w v : Nat) : (s.setFld k lo w v).fuse = s.fuse := rfl
@[simp] theorem State.setFld_pins (s : State) (k lo w v : Nat) : (s.setFld k lo w v).pins = s.pins := rfl
@[simp] theorem State.setFld_boot (s : State) (k lo w v : Nat) : (s.setFld k lo w v).boot = s.boot := rfl
@[simp] theorem State.setFld_safety (s : State) (k lo w v : Nat) : (s.setFld k lo w v).safety = s.safety := rfl
@[simp] theorem State.setFld_host (s : State) (k lo w v : Nat) : (s.setFld k lo w v).host = s.host := rfl
@[simp] theorem State.setFld_fw (s : State) (k lo w v : Nat) : (s.setFld k lo w v).fw = s.fw := rfl
@[simp] theorem State.setFld_ports (s : State) (k lo w v : Nat) : (s.setFld k lo w v).ports = s.ports := rfl
@[simp] theorem State.setFld_crcs (s : State) (k lo w v : Nat) : (s.setFld k lo w v).crcs = s.crcs := rfl
@[simp] theorem State.setFld_shas (s : State) (k lo w v : Nat) : (s.setFld k lo w v).shas = s.shas := rfl
@[simp] theorem State.setFld_power (s : State) (k lo w v : Nat) : (s.setFld k lo w v).power = s.power := rfl
@[simp] theorem State.setFld_mem (s : State) (k lo w v : Nat) : (s.setFld k lo w v).mem = s.mem := rfl
@[simp] theorem State.setFld_pipes (s : State) (k lo w v : Nat) : (s.setFld k lo w v).pipes = s.pipes := rfl
@[simp] theorem State.setFld_books (s : State) (k lo w v : Nat) : (s.setFld k lo w v).books = s.books := rfl
@[simp] theorem State.setFld_commit (s : State) (k lo w v : Nat) : (s.setFld k lo w v).commit = s.commit := rfl
@[simp] theorem State.setFld_tiles (s : State) (k lo w v : Nat) : (s.setFld k lo w v).tiles = s.tiles := rfl
@[simp] theorem State.setFld_clusters (s : State) (k lo w v : Nat) : (s.setFld k lo w v).clusters = s.clusters := rfl
@[simp] theorem State.setFld_tileMap (s : State) (k lo w v : Nat) : (s.setFld k lo w v).tileMap = s.tileMap := rfl
@[simp] theorem State.setFld_stems (s : State) (k lo w v : Nat) : (s.setFld k lo w v).stems = s.stems := rfl
@[simp] theorem State.setFld_spcs (s : State) (k lo w v : Nat) : (s.setFld k lo w v).spcs = s.spcs := rfl
@[simp] theorem State.setFld_cam (s : State) (k lo w v : Nat) : (s.setFld k lo w v).cam = s.cam := rfl
@[simp] theorem State.setFld_vid (s : State) (k lo w v : Nat) : (s.setFld k lo w v).vid = s.vid := rfl
@[simp] theorem State.setFld_ast (s : State) (k lo w v : Nat) : (s.setFld k lo w v).ast = s.ast := rfl
@[simp] theorem State.setBit_pending (s : State) (k i : Nat) (b : Bool) : (s.setBit k i b).pending = s.pending := rfl
@[simp] theorem State.setBit_latch (s : State) (k i : Nat) (b : Bool) : (s.setBit k i b).latch = s.latch := rfl
@[simp] theorem State.setBit_readback (s : State) (k i : Nat) (b : Bool) : (s.setBit k i b).readback = s.readback := rfl
@[simp] theorem State.setBit_elapsed (s : State) (k i : Nat) (b : Bool) : (s.setBit k i b).elapsed = s.elapsed := rfl
@[simp] theorem State.setBit_time (s : State) (k i : Nat) (b : Bool) : (s.setBit k i b).time = s.time := rfl
@[simp] theorem State.setBit_freeIx (s : State) (k i : Nat) (b : Bool) : (s.setBit k i b).freeIx = s.freeIx := rfl
@[simp] theorem State.setBit_fuse (s : State) (k i : Nat) (b : Bool) : (s.setBit k i b).fuse = s.fuse := rfl
@[simp] theorem State.setBit_pins (s : State) (k i : Nat) (b : Bool) : (s.setBit k i b).pins = s.pins := rfl
@[simp] theorem State.setBit_boot (s : State) (k i : Nat) (b : Bool) : (s.setBit k i b).boot = s.boot := rfl
@[simp] theorem State.setBit_safety (s : State) (k i : Nat) (b : Bool) : (s.setBit k i b).safety = s.safety := rfl
@[simp] theorem State.setBit_host (s : State) (k i : Nat) (b : Bool) : (s.setBit k i b).host = s.host := rfl
@[simp] theorem State.setBit_fw (s : State) (k i : Nat) (b : Bool) : (s.setBit k i b).fw = s.fw := rfl
@[simp] theorem State.setBit_ports (s : State) (k i : Nat) (b : Bool) : (s.setBit k i b).ports = s.ports := rfl
@[simp] theorem State.setBit_crcs (s : State) (k i : Nat) (b : Bool) : (s.setBit k i b).crcs = s.crcs := rfl
@[simp] theorem State.setBit_shas (s : State) (k i : Nat) (b : Bool) : (s.setBit k i b).shas = s.shas := rfl
@[simp] theorem State.setBit_power (s : State) (k i : Nat) (b : Bool) : (s.setBit k i b).power = s.power := rfl
@[simp] theorem State.setBit_mem (s : State) (k i : Nat) (b : Bool) : (s.setBit k i b).mem = s.mem := rfl
@[simp] theorem State.setBit_pipes (s : State) (k i : Nat) (b : Bool) : (s.setBit k i b).pipes = s.pipes := rfl
@[simp] theorem State.setBit_books (s : State) (k i : Nat) (b : Bool) : (s.setBit k i b).books = s.books := rfl
@[simp] theorem State.setBit_commit (s : State) (k i : Nat) (b : Bool) : (s.setBit k i b).commit = s.commit := rfl
@[simp] theorem State.setBit_tiles (s : State) (k i : Nat) (b : Bool) : (s.setBit k i b).tiles = s.tiles := rfl
@[simp] theorem State.setBit_clusters (s : State) (k i : Nat) (b : Bool) : (s.setBit k i b).clusters = s.clusters := rfl
@[simp] theorem State.setBit_tileMap (s : State) (k i : Nat) (b : Bool) : (s.setBit k i b).tileMap = s.tileMap := rfl
@[simp] theorem State.setBit_stems (s : State) (k i : Nat) (b : Bool) : (s.setBit k i b).stems = s.stems := rfl
@[simp] theorem State.setBit_spcs (s : State) (k i : Nat) (b : Bool) : (s.setBit k i b).spcs = s.spcs := rfl
@[simp] theorem State.setBit_cam (s : State) (k i : Nat) (b : Bool) : (s.setBit k i b).cam = s.cam := rfl
@[simp] theorem State.setBit_vid (s : State) (k i : Nat) (b : Bool) : (s.setBit k i b).vid = s.vid := rfl
@[simp] theorem State.setBit_ast (s : State) (k i : Nat) (b : Bool) : (s.setBit k i b).ast = s.ast := rfl
@[simp] theorem State.setReg64_pending (s : State) (k : Nat) (v : B64) : (s.setReg64 k v).pending = s.pending := rfl
@[simp] theorem State.setReg64_latch (s : State) (k : Nat) (v : B64) : (s.setReg64 k v).latch = s.latch := rfl
@[simp] theorem State.setReg64_readback (s : State) (k : Nat) (v : B64) : (s.setReg64 k v).readback = s.readback := rfl
@[simp] theorem State.setReg64_elapsed (s : State) (k : Nat) (v : B64) : (s.setReg64 k v).elapsed = s.elapsed := rfl
@[simp] theorem State.setReg64_time (s : State) (k : Nat) (v : B64) : (s.setReg64 k v).time = s.time := rfl
@[simp] theorem State.setReg64_freeIx (s : State) (k : Nat) (v : B64) : (s.setReg64 k v).freeIx = s.freeIx := rfl
@[simp] theorem State.setReg64_fuse (s : State) (k : Nat) (v : B64) : (s.setReg64 k v).fuse = s.fuse := rfl
@[simp] theorem State.setReg64_pins (s : State) (k : Nat) (v : B64) : (s.setReg64 k v).pins = s.pins := rfl
@[simp] theorem State.setReg64_boot (s : State) (k : Nat) (v : B64) : (s.setReg64 k v).boot = s.boot := rfl
@[simp] theorem State.setReg64_safety (s : State) (k : Nat) (v : B64) : (s.setReg64 k v).safety = s.safety := rfl
@[simp] theorem State.setReg64_host (s : State) (k : Nat) (v : B64) : (s.setReg64 k v).host = s.host := rfl
@[simp] theorem State.setReg64_fw (s : State) (k : Nat) (v : B64) : (s.setReg64 k v).fw = s.fw := rfl
@[simp] theorem State.setReg64_ports (s : State) (k : Nat) (v : B64) : (s.setReg64 k v).ports = s.ports := rfl
@[simp] theorem State.setReg64_crcs (s : State) (k : Nat) (v : B64) : (s.setReg64 k v).crcs = s.crcs := rfl
@[simp] theorem State.setReg64_shas (s : State) (k : Nat) (v : B64) : (s.setReg64 k v).shas = s.shas := rfl
@[simp] theorem State.setReg64_power (s : State) (k : Nat) (v : B64) : (s.setReg64 k v).power = s.power := rfl
@[simp] theorem State.setReg64_mem (s : State) (k : Nat) (v : B64) : (s.setReg64 k v).mem = s.mem := rfl
@[simp] theorem State.setReg64_pipes (s : State) (k : Nat) (v : B64) : (s.setReg64 k v).pipes = s.pipes := rfl
@[simp] theorem State.setReg64_books (s : State) (k : Nat) (v : B64) : (s.setReg64 k v).books = s.books := rfl
@[simp] theorem State.setReg64_commit (s : State) (k : Nat) (v : B64) : (s.setReg64 k v).commit = s.commit := rfl
@[simp] theorem State.setReg64_tiles (s : State) (k : Nat) (v : B64) : (s.setReg64 k v).tiles = s.tiles := rfl
@[simp] theorem State.setReg64_clusters (s : State) (k : Nat) (v : B64) : (s.setReg64 k v).clusters = s.clusters := rfl
@[simp] theorem State.setReg64_tileMap (s : State) (k : Nat) (v : B64) : (s.setReg64 k v).tileMap = s.tileMap := rfl
@[simp] theorem State.setReg64_stems (s : State) (k : Nat) (v : B64) : (s.setReg64 k v).stems = s.stems := rfl
@[simp] theorem State.setReg64_spcs (s : State) (k : Nat) (v : B64) : (s.setReg64 k v).spcs = s.spcs := rfl
@[simp] theorem State.setReg64_cam (s : State) (k : Nat) (v : B64) : (s.setReg64 k v).cam = s.cam := rfl
@[simp] theorem State.setReg64_vid (s : State) (k : Nat) (v : B64) : (s.setReg64 k v).vid = s.vid := rfl
@[simp] theorem State.setReg64_ast (s : State) (k : Nat) (v : B64) : (s.setReg64 k v).ast = s.ast := rfl
@[simp] theorem State.addFld_pending (s : State) (k lo w n : Nat) : (s.addFld k lo w n).pending = s.pending := rfl
@[simp] theorem State.addFld_latch (s : State) (k lo w n : Nat) : (s.addFld k lo w n).latch = s.latch := rfl
@[simp] theorem State.addFld_readback (s : State) (k lo w n : Nat) : (s.addFld k lo w n).readback = s.readback := rfl
@[simp] theorem State.addFld_elapsed (s : State) (k lo w n : Nat) : (s.addFld k lo w n).elapsed = s.elapsed := rfl
@[simp] theorem State.addFld_time (s : State) (k lo w n : Nat) : (s.addFld k lo w n).time = s.time := rfl
@[simp] theorem State.addFld_freeIx (s : State) (k lo w n : Nat) : (s.addFld k lo w n).freeIx = s.freeIx := rfl
@[simp] theorem State.addFld_fuse (s : State) (k lo w n : Nat) : (s.addFld k lo w n).fuse = s.fuse := rfl
@[simp] theorem State.addFld_pins (s : State) (k lo w n : Nat) : (s.addFld k lo w n).pins = s.pins := rfl
@[simp] theorem State.addFld_boot (s : State) (k lo w n : Nat) : (s.addFld k lo w n).boot = s.boot := rfl
@[simp] theorem State.addFld_safety (s : State) (k lo w n : Nat) : (s.addFld k lo w n).safety = s.safety := rfl
@[simp] theorem State.addFld_host (s : State) (k lo w n : Nat) : (s.addFld k lo w n).host = s.host := rfl
@[simp] theorem State.addFld_fw (s : State) (k lo w n : Nat) : (s.addFld k lo w n).fw = s.fw := rfl
@[simp] theorem State.addFld_ports (s : State) (k lo w n : Nat) : (s.addFld k lo w n).ports = s.ports := rfl
@[simp] theorem State.addFld_crcs (s : State) (k lo w n : Nat) : (s.addFld k lo w n).crcs = s.crcs := rfl
@[simp] theorem State.addFld_shas (s : State) (k lo w n : Nat) : (s.addFld k lo w n).shas = s.shas := rfl
@[simp] theorem State.addFld_power (s : State) (k lo w n : Nat) : (s.addFld k lo w n).power = s.power := rfl
@[simp] theorem State.addFld_mem (s : State) (k lo w n : Nat) : (s.addFld k lo w n).mem = s.mem := rfl
@[simp] theorem State.addFld_pipes (s : State) (k lo w n : Nat) : (s.addFld k lo w n).pipes = s.pipes := rfl
@[simp] theorem State.addFld_books (s : State) (k lo w n : Nat) : (s.addFld k lo w n).books = s.books := rfl
@[simp] theorem State.addFld_commit (s : State) (k lo w n : Nat) : (s.addFld k lo w n).commit = s.commit := rfl
@[simp] theorem State.addFld_tiles (s : State) (k lo w n : Nat) : (s.addFld k lo w n).tiles = s.tiles := rfl
@[simp] theorem State.addFld_clusters (s : State) (k lo w n : Nat) : (s.addFld k lo w n).clusters = s.clusters := rfl
@[simp] theorem State.addFld_tileMap (s : State) (k lo w n : Nat) : (s.addFld k lo w n).tileMap = s.tileMap := rfl
@[simp] theorem State.addFld_stems (s : State) (k lo w n : Nat) : (s.addFld k lo w n).stems = s.stems := rfl
@[simp] theorem State.addFld_spcs (s : State) (k lo w n : Nat) : (s.addFld k lo w n).spcs = s.spcs := rfl
@[simp] theorem State.addFld_cam (s : State) (k lo w n : Nat) : (s.addFld k lo w n).cam = s.cam := rfl
@[simp] theorem State.addFld_vid (s : State) (k lo w n : Nat) : (s.addFld k lo w n).vid = s.vid := rfl
@[simp] theorem State.addFld_ast (s : State) (k lo w n : Nat) : (s.addFld k lo w n).ast = s.ast := rfl
@[simp] theorem State.addSat_pending (s : State) (k n : Nat) : (s.addSat k n).pending = s.pending := rfl
@[simp] theorem State.addSat_latch (s : State) (k n : Nat) : (s.addSat k n).latch = s.latch := rfl
@[simp] theorem State.addSat_readback (s : State) (k n : Nat) : (s.addSat k n).readback = s.readback := rfl
@[simp] theorem State.addSat_elapsed (s : State) (k n : Nat) : (s.addSat k n).elapsed = s.elapsed := rfl
@[simp] theorem State.addSat_time (s : State) (k n : Nat) : (s.addSat k n).time = s.time := rfl
@[simp] theorem State.addSat_freeIx (s : State) (k n : Nat) : (s.addSat k n).freeIx = s.freeIx := rfl
@[simp] theorem State.addSat_fuse (s : State) (k n : Nat) : (s.addSat k n).fuse = s.fuse := rfl
@[simp] theorem State.addSat_pins (s : State) (k n : Nat) : (s.addSat k n).pins = s.pins := rfl
@[simp] theorem State.addSat_boot (s : State) (k n : Nat) : (s.addSat k n).boot = s.boot := rfl
@[simp] theorem State.addSat_safety (s : State) (k n : Nat) : (s.addSat k n).safety = s.safety := rfl
@[simp] theorem State.addSat_host (s : State) (k n : Nat) : (s.addSat k n).host = s.host := rfl
@[simp] theorem State.addSat_fw (s : State) (k n : Nat) : (s.addSat k n).fw = s.fw := rfl
@[simp] theorem State.addSat_ports (s : State) (k n : Nat) : (s.addSat k n).ports = s.ports := rfl
@[simp] theorem State.addSat_crcs (s : State) (k n : Nat) : (s.addSat k n).crcs = s.crcs := rfl
@[simp] theorem State.addSat_shas (s : State) (k n : Nat) : (s.addSat k n).shas = s.shas := rfl
@[simp] theorem State.addSat_power (s : State) (k n : Nat) : (s.addSat k n).power = s.power := rfl
@[simp] theorem State.addSat_mem (s : State) (k n : Nat) : (s.addSat k n).mem = s.mem := rfl
@[simp] theorem State.addSat_pipes (s : State) (k n : Nat) : (s.addSat k n).pipes = s.pipes := rfl
@[simp] theorem State.addSat_books (s : State) (k n : Nat) : (s.addSat k n).books = s.books := rfl
@[simp] theorem State.addSat_commit (s : State) (k n : Nat) : (s.addSat k n).commit = s.commit := rfl
@[simp] theorem State.addSat_tiles (s : State) (k n : Nat) : (s.addSat k n).tiles = s.tiles := rfl
@[simp] theorem State.addSat_clusters (s : State) (k n : Nat) : (s.addSat k n).clusters = s.clusters := rfl
@[simp] theorem State.addSat_tileMap (s : State) (k n : Nat) : (s.addSat k n).tileMap = s.tileMap := rfl
@[simp] theorem State.addSat_stems (s : State) (k n : Nat) : (s.addSat k n).stems = s.stems := rfl
@[simp] theorem State.addSat_spcs (s : State) (k n : Nat) : (s.addSat k n).spcs = s.spcs := rfl
@[simp] theorem State.addSat_cam (s : State) (k n : Nat) : (s.addSat k n).cam = s.cam := rfl
@[simp] theorem State.addSat_vid (s : State) (k n : Nat) : (s.addSat k n).vid = s.vid := rfl
@[simp] theorem State.addSat_ast (s : State) (k n : Nat) : (s.addSat k n).ast = s.ast := rfl
@[simp] theorem State.setReg_pending (s : State) (k : Nat) (v : B32) : (s.setReg k v).pending = s.pending := rfl
@[simp] theorem State.setReg_latch (s : State) (k : Nat) (v : B32) : (s.setReg k v).latch = s.latch := rfl
@[simp] theorem State.setReg_readback (s : State) (k : Nat) (v : B32) : (s.setReg k v).readback = s.readback := rfl
@[simp] theorem State.setReg_elapsed (s : State) (k : Nat) (v : B32) : (s.setReg k v).elapsed = s.elapsed := rfl
@[simp] theorem State.setReg_time (s : State) (k : Nat) (v : B32) : (s.setReg k v).time = s.time := rfl
@[simp] theorem State.setReg_freeIx (s : State) (k : Nat) (v : B32) : (s.setReg k v).freeIx = s.freeIx := rfl
@[simp] theorem State.setReg_fuse (s : State) (k : Nat) (v : B32) : (s.setReg k v).fuse = s.fuse := rfl
@[simp] theorem State.setReg_pins (s : State) (k : Nat) (v : B32) : (s.setReg k v).pins = s.pins := rfl
@[simp] theorem State.setReg_boot (s : State) (k : Nat) (v : B32) : (s.setReg k v).boot = s.boot := rfl
@[simp] theorem State.setReg_safety (s : State) (k : Nat) (v : B32) : (s.setReg k v).safety = s.safety := rfl
@[simp] theorem State.setReg_host (s : State) (k : Nat) (v : B32) : (s.setReg k v).host = s.host := rfl
@[simp] theorem State.setReg_fw (s : State) (k : Nat) (v : B32) : (s.setReg k v).fw = s.fw := rfl
@[simp] theorem State.setReg_ports (s : State) (k : Nat) (v : B32) : (s.setReg k v).ports = s.ports := rfl
@[simp] theorem State.setReg_crcs (s : State) (k : Nat) (v : B32) : (s.setReg k v).crcs = s.crcs := rfl
@[simp] theorem State.setReg_shas (s : State) (k : Nat) (v : B32) : (s.setReg k v).shas = s.shas := rfl
@[simp] theorem State.setReg_power (s : State) (k : Nat) (v : B32) : (s.setReg k v).power = s.power := rfl
@[simp] theorem State.setReg_mem (s : State) (k : Nat) (v : B32) : (s.setReg k v).mem = s.mem := rfl
@[simp] theorem State.setReg_pipes (s : State) (k : Nat) (v : B32) : (s.setReg k v).pipes = s.pipes := rfl
@[simp] theorem State.setReg_books (s : State) (k : Nat) (v : B32) : (s.setReg k v).books = s.books := rfl
@[simp] theorem State.setReg_commit (s : State) (k : Nat) (v : B32) : (s.setReg k v).commit = s.commit := rfl
@[simp] theorem State.setReg_tiles (s : State) (k : Nat) (v : B32) : (s.setReg k v).tiles = s.tiles := rfl
@[simp] theorem State.setReg_clusters (s : State) (k : Nat) (v : B32) : (s.setReg k v).clusters = s.clusters := rfl
@[simp] theorem State.setReg_tileMap (s : State) (k : Nat) (v : B32) : (s.setReg k v).tileMap = s.tileMap := rfl
@[simp] theorem State.setReg_stems (s : State) (k : Nat) (v : B32) : (s.setReg k v).stems = s.stems := rfl
@[simp] theorem State.setReg_spcs (s : State) (k : Nat) (v : B32) : (s.setReg k v).spcs = s.spcs := rfl
@[simp] theorem State.setReg_cam (s : State) (k : Nat) (v : B32) : (s.setReg k v).cam = s.cam := rfl
@[simp] theorem State.setReg_vid (s : State) (k : Nat) (v : B32) : (s.setReg k v).vid = s.vid := rfl
@[simp] theorem State.setReg_ast (s : State) (k : Nat) (v : B32) : (s.setReg k v).ast = s.ast := rfl
@[simp] theorem State.setTile_pending (s : State) (t : Nat) (v : Tile) : (s.setTile t v).pending = s.pending := rfl
@[simp] theorem State.setTile_regs (s : State) (t : Nat) (v : Tile) : (s.setTile t v).regs = s.regs := rfl
@[simp] theorem State.setTile_latch (s : State) (t : Nat) (v : Tile) : (s.setTile t v).latch = s.latch := rfl
@[simp] theorem State.setTile_readback (s : State) (t : Nat) (v : Tile) : (s.setTile t v).readback = s.readback := rfl
@[simp] theorem State.setTile_elapsed (s : State) (t : Nat) (v : Tile) : (s.setTile t v).elapsed = s.elapsed := rfl
@[simp] theorem State.setTile_time (s : State) (t : Nat) (v : Tile) : (s.setTile t v).time = s.time := rfl
@[simp] theorem State.setTile_freeIx (s : State) (t : Nat) (v : Tile) : (s.setTile t v).freeIx = s.freeIx := rfl
@[simp] theorem State.setTile_fuse (s : State) (t : Nat) (v : Tile) : (s.setTile t v).fuse = s.fuse := rfl
@[simp] theorem State.setTile_pins (s : State) (t : Nat) (v : Tile) : (s.setTile t v).pins = s.pins := rfl
@[simp] theorem State.setTile_boot (s : State) (t : Nat) (v : Tile) : (s.setTile t v).boot = s.boot := rfl
@[simp] theorem State.setTile_safety (s : State) (t : Nat) (v : Tile) : (s.setTile t v).safety = s.safety := rfl
@[simp] theorem State.setTile_host (s : State) (t : Nat) (v : Tile) : (s.setTile t v).host = s.host := rfl
@[simp] theorem State.setTile_fw (s : State) (t : Nat) (v : Tile) : (s.setTile t v).fw = s.fw := rfl
@[simp] theorem State.setTile_ports (s : State) (t : Nat) (v : Tile) : (s.setTile t v).ports = s.ports := rfl
@[simp] theorem State.setTile_crcs (s : State) (t : Nat) (v : Tile) : (s.setTile t v).crcs = s.crcs := rfl
@[simp] theorem State.setTile_shas (s : State) (t : Nat) (v : Tile) : (s.setTile t v).shas = s.shas := rfl
@[simp] theorem State.setTile_power (s : State) (t : Nat) (v : Tile) : (s.setTile t v).power = s.power := rfl
@[simp] theorem State.setTile_mem (s : State) (t : Nat) (v : Tile) : (s.setTile t v).mem = s.mem := rfl
@[simp] theorem State.setTile_pipes (s : State) (t : Nat) (v : Tile) : (s.setTile t v).pipes = s.pipes := rfl
@[simp] theorem State.setTile_books (s : State) (t : Nat) (v : Tile) : (s.setTile t v).books = s.books := rfl
@[simp] theorem State.setTile_commit (s : State) (t : Nat) (v : Tile) : (s.setTile t v).commit = s.commit := rfl
@[simp] theorem State.setTile_clusters (s : State) (t : Nat) (v : Tile) : (s.setTile t v).clusters = s.clusters := rfl
@[simp] theorem State.setTile_tileMap (s : State) (t : Nat) (v : Tile) : (s.setTile t v).tileMap = s.tileMap := rfl
@[simp] theorem State.setTile_stems (s : State) (t : Nat) (v : Tile) : (s.setTile t v).stems = s.stems := rfl
@[simp] theorem State.setTile_spcs (s : State) (t : Nat) (v : Tile) : (s.setTile t v).spcs = s.spcs := rfl
@[simp] theorem State.setTile_cam (s : State) (t : Nat) (v : Tile) : (s.setTile t v).cam = s.cam := rfl
@[simp] theorem State.setTile_vid (s : State) (t : Nat) (v : Tile) : (s.setTile t v).vid = s.vid := rfl
@[simp] theorem State.setTile_ast (s : State) (t : Nat) (v : Tile) : (s.setTile t v).ast = s.ast := rfl
@[simp] theorem State.setCluster_pending (s : State) (c : Nat) (v : Cluster) : (s.setCluster c v).pending = s.pending := rfl
@[simp] theorem State.setCluster_regs (s : State) (c : Nat) (v : Cluster) : (s.setCluster c v).regs = s.regs := rfl
@[simp] theorem State.setCluster_latch (s : State) (c : Nat) (v : Cluster) : (s.setCluster c v).latch = s.latch := rfl
@[simp] theorem State.setCluster_readback (s : State) (c : Nat) (v : Cluster) : (s.setCluster c v).readback = s.readback := rfl
@[simp] theorem State.setCluster_elapsed (s : State) (c : Nat) (v : Cluster) : (s.setCluster c v).elapsed = s.elapsed := rfl
@[simp] theorem State.setCluster_time (s : State) (c : Nat) (v : Cluster) : (s.setCluster c v).time = s.time := rfl
@[simp] theorem State.setCluster_freeIx (s : State) (c : Nat) (v : Cluster) : (s.setCluster c v).freeIx = s.freeIx := rfl
@[simp] theorem State.setCluster_fuse (s : State) (c : Nat) (v : Cluster) : (s.setCluster c v).fuse = s.fuse := rfl
@[simp] theorem State.setCluster_pins (s : State) (c : Nat) (v : Cluster) : (s.setCluster c v).pins = s.pins := rfl
@[simp] theorem State.setCluster_boot (s : State) (c : Nat) (v : Cluster) : (s.setCluster c v).boot = s.boot := rfl
@[simp] theorem State.setCluster_safety (s : State) (c : Nat) (v : Cluster) : (s.setCluster c v).safety = s.safety := rfl
@[simp] theorem State.setCluster_host (s : State) (c : Nat) (v : Cluster) : (s.setCluster c v).host = s.host := rfl
@[simp] theorem State.setCluster_fw (s : State) (c : Nat) (v : Cluster) : (s.setCluster c v).fw = s.fw := rfl
@[simp] theorem State.setCluster_ports (s : State) (c : Nat) (v : Cluster) : (s.setCluster c v).ports = s.ports := rfl
@[simp] theorem State.setCluster_crcs (s : State) (c : Nat) (v : Cluster) : (s.setCluster c v).crcs = s.crcs := rfl
@[simp] theorem State.setCluster_shas (s : State) (c : Nat) (v : Cluster) : (s.setCluster c v).shas = s.shas := rfl
@[simp] theorem State.setCluster_power (s : State) (c : Nat) (v : Cluster) : (s.setCluster c v).power = s.power := rfl
@[simp] theorem State.setCluster_mem (s : State) (c : Nat) (v : Cluster) : (s.setCluster c v).mem = s.mem := rfl
@[simp] theorem State.setCluster_pipes (s : State) (c : Nat) (v : Cluster) : (s.setCluster c v).pipes = s.pipes := rfl
@[simp] theorem State.setCluster_books (s : State) (c : Nat) (v : Cluster) : (s.setCluster c v).books = s.books := rfl
@[simp] theorem State.setCluster_commit (s : State) (c : Nat) (v : Cluster) : (s.setCluster c v).commit = s.commit := rfl
@[simp] theorem State.setCluster_tiles (s : State) (c : Nat) (v : Cluster) : (s.setCluster c v).tiles = s.tiles := rfl
@[simp] theorem State.setCluster_tileMap (s : State) (c : Nat) (v : Cluster) : (s.setCluster c v).tileMap = s.tileMap := rfl
@[simp] theorem State.setCluster_stems (s : State) (c : Nat) (v : Cluster) : (s.setCluster c v).stems = s.stems := rfl
@[simp] theorem State.setCluster_spcs (s : State) (c : Nat) (v : Cluster) : (s.setCluster c v).spcs = s.spcs := rfl
@[simp] theorem State.setCluster_cam (s : State) (c : Nat) (v : Cluster) : (s.setCluster c v).cam = s.cam := rfl
@[simp] theorem State.setCluster_vid (s : State) (c : Nat) (v : Cluster) : (s.setCluster c v).vid = s.vid := rfl
@[simp] theorem State.setCluster_ast (s : State) (c : Nat) (v : Cluster) : (s.setCluster c v).ast = s.ast := rfl
@[simp] theorem State.setPipe_pending (s : State) (p : Nat) (v : Pipe) : (s.setPipe p v).pending = s.pending := rfl
@[simp] theorem State.setPipe_regs (s : State) (p : Nat) (v : Pipe) : (s.setPipe p v).regs = s.regs := rfl
@[simp] theorem State.setPipe_latch (s : State) (p : Nat) (v : Pipe) : (s.setPipe p v).latch = s.latch := rfl
@[simp] theorem State.setPipe_readback (s : State) (p : Nat) (v : Pipe) : (s.setPipe p v).readback = s.readback := rfl
@[simp] theorem State.setPipe_elapsed (s : State) (p : Nat) (v : Pipe) : (s.setPipe p v).elapsed = s.elapsed := rfl
@[simp] theorem State.setPipe_time (s : State) (p : Nat) (v : Pipe) : (s.setPipe p v).time = s.time := rfl
@[simp] theorem State.setPipe_freeIx (s : State) (p : Nat) (v : Pipe) : (s.setPipe p v).freeIx = s.freeIx := rfl
@[simp] theorem State.setPipe_fuse (s : State) (p : Nat) (v : Pipe) : (s.setPipe p v).fuse = s.fuse := rfl
@[simp] theorem State.setPipe_pins (s : State) (p : Nat) (v : Pipe) : (s.setPipe p v).pins = s.pins := rfl
@[simp] theorem State.setPipe_boot (s : State) (p : Nat) (v : Pipe) : (s.setPipe p v).boot = s.boot := rfl
@[simp] theorem State.setPipe_safety (s : State) (p : Nat) (v : Pipe) : (s.setPipe p v).safety = s.safety := rfl
@[simp] theorem State.setPipe_host (s : State) (p : Nat) (v : Pipe) : (s.setPipe p v).host = s.host := rfl
@[simp] theorem State.setPipe_fw (s : State) (p : Nat) (v : Pipe) : (s.setPipe p v).fw = s.fw := rfl
@[simp] theorem State.setPipe_ports (s : State) (p : Nat) (v : Pipe) : (s.setPipe p v).ports = s.ports := rfl
@[simp] theorem State.setPipe_crcs (s : State) (p : Nat) (v : Pipe) : (s.setPipe p v).crcs = s.crcs := rfl
@[simp] theorem State.setPipe_shas (s : State) (p : Nat) (v : Pipe) : (s.setPipe p v).shas = s.shas := rfl
@[simp] theorem State.setPipe_power (s : State) (p : Nat) (v : Pipe) : (s.setPipe p v).power = s.power := rfl
@[simp] theorem State.setPipe_mem (s : State) (p : Nat) (v : Pipe) : (s.setPipe p v).mem = s.mem := rfl
@[simp] theorem State.setPipe_books (s : State) (p : Nat) (v : Pipe) : (s.setPipe p v).books = s.books := rfl
@[simp] theorem State.setPipe_commit (s : State) (p : Nat) (v : Pipe) : (s.setPipe p v).commit = s.commit := rfl
@[simp] theorem State.setPipe_tiles (s : State) (p : Nat) (v : Pipe) : (s.setPipe p v).tiles = s.tiles := rfl
@[simp] theorem State.setPipe_clusters (s : State) (p : Nat) (v : Pipe) : (s.setPipe p v).clusters = s.clusters := rfl
@[simp] theorem State.setPipe_tileMap (s : State) (p : Nat) (v : Pipe) : (s.setPipe p v).tileMap = s.tileMap := rfl
@[simp] theorem State.setPipe_stems (s : State) (p : Nat) (v : Pipe) : (s.setPipe p v).stems = s.stems := rfl
@[simp] theorem State.setPipe_spcs (s : State) (p : Nat) (v : Pipe) : (s.setPipe p v).spcs = s.spcs := rfl
@[simp] theorem State.setPipe_cam (s : State) (p : Nat) (v : Pipe) : (s.setPipe p v).cam = s.cam := rfl
@[simp] theorem State.setPipe_vid (s : State) (p : Nat) (v : Pipe) : (s.setPipe p v).vid = s.vid := rfl
@[simp] theorem State.setPipe_ast (s : State) (p : Nat) (v : Pipe) : (s.setPipe p v).ast = s.ast := rfl
@[simp] theorem State.setBook_pending (s : State) (k : Nat) (v : Book) : (s.setBook k v).pending = s.pending := rfl
@[simp] theorem State.setBook_regs (s : State) (k : Nat) (v : Book) : (s.setBook k v).regs = s.regs := rfl
@[simp] theorem State.setBook_latch (s : State) (k : Nat) (v : Book) : (s.setBook k v).latch = s.latch := rfl
@[simp] theorem State.setBook_readback (s : State) (k : Nat) (v : Book) : (s.setBook k v).readback = s.readback := rfl
@[simp] theorem State.setBook_elapsed (s : State) (k : Nat) (v : Book) : (s.setBook k v).elapsed = s.elapsed := rfl
@[simp] theorem State.setBook_time (s : State) (k : Nat) (v : Book) : (s.setBook k v).time = s.time := rfl
@[simp] theorem State.setBook_freeIx (s : State) (k : Nat) (v : Book) : (s.setBook k v).freeIx = s.freeIx := rfl
@[simp] theorem State.setBook_fuse (s : State) (k : Nat) (v : Book) : (s.setBook k v).fuse = s.fuse := rfl
@[simp] theorem State.setBook_pins (s : State) (k : Nat) (v : Book) : (s.setBook k v).pins = s.pins := rfl
@[simp] theorem State.setBook_boot (s : State) (k : Nat) (v : Book) : (s.setBook k v).boot = s.boot := rfl
@[simp] theorem State.setBook_safety (s : State) (k : Nat) (v : Book) : (s.setBook k v).safety = s.safety := rfl
@[simp] theorem State.setBook_host (s : State) (k : Nat) (v : Book) : (s.setBook k v).host = s.host := rfl
@[simp] theorem State.setBook_fw (s : State) (k : Nat) (v : Book) : (s.setBook k v).fw = s.fw := rfl
@[simp] theorem State.setBook_ports (s : State) (k : Nat) (v : Book) : (s.setBook k v).ports = s.ports := rfl
@[simp] theorem State.setBook_crcs (s : State) (k : Nat) (v : Book) : (s.setBook k v).crcs = s.crcs := rfl
@[simp] theorem State.setBook_shas (s : State) (k : Nat) (v : Book) : (s.setBook k v).shas = s.shas := rfl
@[simp] theorem State.setBook_power (s : State) (k : Nat) (v : Book) : (s.setBook k v).power = s.power := rfl
@[simp] theorem State.setBook_mem (s : State) (k : Nat) (v : Book) : (s.setBook k v).mem = s.mem := rfl
@[simp] theorem State.setBook_pipes (s : State) (k : Nat) (v : Book) : (s.setBook k v).pipes = s.pipes := rfl
@[simp] theorem State.setBook_commit (s : State) (k : Nat) (v : Book) : (s.setBook k v).commit = s.commit := rfl
@[simp] theorem State.setBook_tiles (s : State) (k : Nat) (v : Book) : (s.setBook k v).tiles = s.tiles := rfl
@[simp] theorem State.setBook_clusters (s : State) (k : Nat) (v : Book) : (s.setBook k v).clusters = s.clusters := rfl
@[simp] theorem State.setBook_tileMap (s : State) (k : Nat) (v : Book) : (s.setBook k v).tileMap = s.tileMap := rfl
@[simp] theorem State.setBook_stems (s : State) (k : Nat) (v : Book) : (s.setBook k v).stems = s.stems := rfl
@[simp] theorem State.setBook_spcs (s : State) (k : Nat) (v : Book) : (s.setBook k v).spcs = s.spcs := rfl
@[simp] theorem State.setBook_cam (s : State) (k : Nat) (v : Book) : (s.setBook k v).cam = s.cam := rfl
@[simp] theorem State.setBook_vid (s : State) (k : Nat) (v : Book) : (s.setBook k v).vid = s.vid := rfl
@[simp] theorem State.setBook_ast (s : State) (k : Nat) (v : Book) : (s.setBook k v).ast = s.ast := rfl
@[simp] theorem State.setPort_pending (s : State) (p : Nat) (v : Port) : (s.setPort p v).pending = s.pending := rfl
@[simp] theorem State.setPort_regs (s : State) (p : Nat) (v : Port) : (s.setPort p v).regs = s.regs := rfl
@[simp] theorem State.setPort_latch (s : State) (p : Nat) (v : Port) : (s.setPort p v).latch = s.latch := rfl
@[simp] theorem State.setPort_readback (s : State) (p : Nat) (v : Port) : (s.setPort p v).readback = s.readback := rfl
@[simp] theorem State.setPort_elapsed (s : State) (p : Nat) (v : Port) : (s.setPort p v).elapsed = s.elapsed := rfl
@[simp] theorem State.setPort_time (s : State) (p : Nat) (v : Port) : (s.setPort p v).time = s.time := rfl
@[simp] theorem State.setPort_freeIx (s : State) (p : Nat) (v : Port) : (s.setPort p v).freeIx = s.freeIx := rfl
@[simp] theorem State.setPort_fuse (s : State) (p : Nat) (v : Port) : (s.setPort p v).fuse = s.fuse := rfl
@[simp] theorem State.setPort_pins (s : State) (p : Nat) (v : Port) : (s.setPort p v).pins = s.pins := rfl
@[simp] theorem State.setPort_boot (s : State) (p : Nat) (v : Port) : (s.setPort p v).boot = s.boot := rfl
@[simp] theorem State.setPort_safety (s : State) (p : Nat) (v : Port) : (s.setPort p v).safety = s.safety := rfl
@[simp] theorem State.setPort_host (s : State) (p : Nat) (v : Port) : (s.setPort p v).host = s.host := rfl
@[simp] theorem State.setPort_fw (s : State) (p : Nat) (v : Port) : (s.setPort p v).fw = s.fw := rfl
@[simp] theorem State.setPort_crcs (s : State) (p : Nat) (v : Port) : (s.setPort p v).crcs = s.crcs := rfl
@[simp] theorem State.setPort_shas (s : State) (p : Nat) (v : Port) : (s.setPort p v).shas = s.shas := rfl
@[simp] theorem State.setPort_power (s : State) (p : Nat) (v : Port) : (s.setPort p v).power = s.power := rfl
@[simp] theorem State.setPort_mem (s : State) (p : Nat) (v : Port) : (s.setPort p v).mem = s.mem := rfl
@[simp] theorem State.setPort_pipes (s : State) (p : Nat) (v : Port) : (s.setPort p v).pipes = s.pipes := rfl
@[simp] theorem State.setPort_books (s : State) (p : Nat) (v : Port) : (s.setPort p v).books = s.books := rfl
@[simp] theorem State.setPort_commit (s : State) (p : Nat) (v : Port) : (s.setPort p v).commit = s.commit := rfl
@[simp] theorem State.setPort_tiles (s : State) (p : Nat) (v : Port) : (s.setPort p v).tiles = s.tiles := rfl
@[simp] theorem State.setPort_clusters (s : State) (p : Nat) (v : Port) : (s.setPort p v).clusters = s.clusters := rfl
@[simp] theorem State.setPort_tileMap (s : State) (p : Nat) (v : Port) : (s.setPort p v).tileMap = s.tileMap := rfl
@[simp] theorem State.setPort_stems (s : State) (p : Nat) (v : Port) : (s.setPort p v).stems = s.stems := rfl
@[simp] theorem State.setPort_spcs (s : State) (p : Nat) (v : Port) : (s.setPort p v).spcs = s.spcs := rfl
@[simp] theorem State.setPort_cam (s : State) (p : Nat) (v : Port) : (s.setPort p v).cam = s.cam := rfl
@[simp] theorem State.setPort_vid (s : State) (p : Nat) (v : Port) : (s.setPort p v).vid = s.vid := rfl
@[simp] theorem State.setPort_ast (s : State) (p : Nat) (v : Port) : (s.setPort p v).ast = s.ast := rfl
@[simp] theorem State.setIring_pending (s : State) (i : Nat) (v : IRing) : (s.setIring i v).pending = s.pending := rfl
@[simp] theorem State.setIring_regs (s : State) (i : Nat) (v : IRing) : (s.setIring i v).regs = s.regs := rfl
@[simp] theorem State.setIring_latch (s : State) (i : Nat) (v : IRing) : (s.setIring i v).latch = s.latch := rfl
@[simp] theorem State.setIring_readback (s : State) (i : Nat) (v : IRing) : (s.setIring i v).readback = s.readback := rfl
@[simp] theorem State.setIring_elapsed (s : State) (i : Nat) (v : IRing) : (s.setIring i v).elapsed = s.elapsed := rfl
@[simp] theorem State.setIring_time (s : State) (i : Nat) (v : IRing) : (s.setIring i v).time = s.time := rfl
@[simp] theorem State.setIring_freeIx (s : State) (i : Nat) (v : IRing) : (s.setIring i v).freeIx = s.freeIx := rfl
@[simp] theorem State.setIring_fuse (s : State) (i : Nat) (v : IRing) : (s.setIring i v).fuse = s.fuse := rfl
@[simp] theorem State.setIring_pins (s : State) (i : Nat) (v : IRing) : (s.setIring i v).pins = s.pins := rfl
@[simp] theorem State.setIring_boot (s : State) (i : Nat) (v : IRing) : (s.setIring i v).boot = s.boot := rfl
@[simp] theorem State.setIring_safety (s : State) (i : Nat) (v : IRing) : (s.setIring i v).safety = s.safety := rfl
@[simp] theorem State.setIring_fw (s : State) (i : Nat) (v : IRing) : (s.setIring i v).fw = s.fw := rfl
@[simp] theorem State.setIring_ports (s : State) (i : Nat) (v : IRing) : (s.setIring i v).ports = s.ports := rfl
@[simp] theorem State.setIring_crcs (s : State) (i : Nat) (v : IRing) : (s.setIring i v).crcs = s.crcs := rfl
@[simp] theorem State.setIring_shas (s : State) (i : Nat) (v : IRing) : (s.setIring i v).shas = s.shas := rfl
@[simp] theorem State.setIring_power (s : State) (i : Nat) (v : IRing) : (s.setIring i v).power = s.power := rfl
@[simp] theorem State.setIring_mem (s : State) (i : Nat) (v : IRing) : (s.setIring i v).mem = s.mem := rfl
@[simp] theorem State.setIring_pipes (s : State) (i : Nat) (v : IRing) : (s.setIring i v).pipes = s.pipes := rfl
@[simp] theorem State.setIring_books (s : State) (i : Nat) (v : IRing) : (s.setIring i v).books = s.books := rfl
@[simp] theorem State.setIring_commit (s : State) (i : Nat) (v : IRing) : (s.setIring i v).commit = s.commit := rfl
@[simp] theorem State.setIring_tiles (s : State) (i : Nat) (v : IRing) : (s.setIring i v).tiles = s.tiles := rfl
@[simp] theorem State.setIring_clusters (s : State) (i : Nat) (v : IRing) : (s.setIring i v).clusters = s.clusters := rfl
@[simp] theorem State.setIring_tileMap (s : State) (i : Nat) (v : IRing) : (s.setIring i v).tileMap = s.tileMap := rfl
@[simp] theorem State.setIring_stems (s : State) (i : Nat) (v : IRing) : (s.setIring i v).stems = s.stems := rfl
@[simp] theorem State.setIring_spcs (s : State) (i : Nat) (v : IRing) : (s.setIring i v).spcs = s.spcs := rfl
@[simp] theorem State.setIring_cam (s : State) (i : Nat) (v : IRing) : (s.setIring i v).cam = s.cam := rfl
@[simp] theorem State.setIring_vid (s : State) (i : Nat) (v : IRing) : (s.setIring i v).vid = s.vid := rfl
@[simp] theorem State.setIring_ast (s : State) (i : Nat) (v : IRing) : (s.setIring i v).ast = s.ast := rfl
@[simp] theorem State.setRring_pending (s : State) (j : Nat) (v : RRing) : (s.setRring j v).pending = s.pending := rfl
@[simp] theorem State.setRring_regs (s : State) (j : Nat) (v : RRing) : (s.setRring j v).regs = s.regs := rfl
@[simp] theorem State.setRring_latch (s : State) (j : Nat) (v : RRing) : (s.setRring j v).latch = s.latch := rfl
@[simp] theorem State.setRring_readback (s : State) (j : Nat) (v : RRing) : (s.setRring j v).readback = s.readback := rfl
@[simp] theorem State.setRring_elapsed (s : State) (j : Nat) (v : RRing) : (s.setRring j v).elapsed = s.elapsed := rfl
@[simp] theorem State.setRring_time (s : State) (j : Nat) (v : RRing) : (s.setRring j v).time = s.time := rfl
@[simp] theorem State.setRring_freeIx (s : State) (j : Nat) (v : RRing) : (s.setRring j v).freeIx = s.freeIx := rfl
@[simp] theorem State.setRring_fuse (s : State) (j : Nat) (v : RRing) : (s.setRring j v).fuse = s.fuse := rfl
@[simp] theorem State.setRring_pins (s : State) (j : Nat) (v : RRing) : (s.setRring j v).pins = s.pins := rfl
@[simp] theorem State.setRring_boot (s : State) (j : Nat) (v : RRing) : (s.setRring j v).boot = s.boot := rfl
@[simp] theorem State.setRring_safety (s : State) (j : Nat) (v : RRing) : (s.setRring j v).safety = s.safety := rfl
@[simp] theorem State.setRring_fw (s : State) (j : Nat) (v : RRing) : (s.setRring j v).fw = s.fw := rfl
@[simp] theorem State.setRring_ports (s : State) (j : Nat) (v : RRing) : (s.setRring j v).ports = s.ports := rfl
@[simp] theorem State.setRring_crcs (s : State) (j : Nat) (v : RRing) : (s.setRring j v).crcs = s.crcs := rfl
@[simp] theorem State.setRring_shas (s : State) (j : Nat) (v : RRing) : (s.setRring j v).shas = s.shas := rfl
@[simp] theorem State.setRring_power (s : State) (j : Nat) (v : RRing) : (s.setRring j v).power = s.power := rfl
@[simp] theorem State.setRring_mem (s : State) (j : Nat) (v : RRing) : (s.setRring j v).mem = s.mem := rfl
@[simp] theorem State.setRring_pipes (s : State) (j : Nat) (v : RRing) : (s.setRring j v).pipes = s.pipes := rfl
@[simp] theorem State.setRring_books (s : State) (j : Nat) (v : RRing) : (s.setRring j v).books = s.books := rfl
@[simp] theorem State.setRring_commit (s : State) (j : Nat) (v : RRing) : (s.setRring j v).commit = s.commit := rfl
@[simp] theorem State.setRring_tiles (s : State) (j : Nat) (v : RRing) : (s.setRring j v).tiles = s.tiles := rfl
@[simp] theorem State.setRring_clusters (s : State) (j : Nat) (v : RRing) : (s.setRring j v).clusters = s.clusters := rfl
@[simp] theorem State.setRring_tileMap (s : State) (j : Nat) (v : RRing) : (s.setRring j v).tileMap = s.tileMap := rfl
@[simp] theorem State.setRring_stems (s : State) (j : Nat) (v : RRing) : (s.setRring j v).stems = s.stems := rfl
@[simp] theorem State.setRring_spcs (s : State) (j : Nat) (v : RRing) : (s.setRring j v).spcs = s.spcs := rfl
@[simp] theorem State.setRring_cam (s : State) (j : Nat) (v : RRing) : (s.setRring j v).cam = s.cam := rfl
@[simp] theorem State.setRring_vid (s : State) (j : Nat) (v : RRing) : (s.setRring j v).vid = s.vid := rfl
@[simp] theorem State.setRring_ast (s : State) (j : Nat) (v : RRing) : (s.setRring j v).ast = s.ast := rfl
@[simp] theorem State.setCrc_pending (s : State) (u : Nat) (v : CrcUnit) : (s.setCrc u v).pending = s.pending := rfl
@[simp] theorem State.setCrc_regs (s : State) (u : Nat) (v : CrcUnit) : (s.setCrc u v).regs = s.regs := rfl
@[simp] theorem State.setCrc_latch (s : State) (u : Nat) (v : CrcUnit) : (s.setCrc u v).latch = s.latch := rfl
@[simp] theorem State.setCrc_readback (s : State) (u : Nat) (v : CrcUnit) : (s.setCrc u v).readback = s.readback := rfl
@[simp] theorem State.setCrc_elapsed (s : State) (u : Nat) (v : CrcUnit) : (s.setCrc u v).elapsed = s.elapsed := rfl
@[simp] theorem State.setCrc_time (s : State) (u : Nat) (v : CrcUnit) : (s.setCrc u v).time = s.time := rfl
@[simp] theorem State.setCrc_freeIx (s : State) (u : Nat) (v : CrcUnit) : (s.setCrc u v).freeIx = s.freeIx := rfl
@[simp] theorem State.setCrc_fuse (s : State) (u : Nat) (v : CrcUnit) : (s.setCrc u v).fuse = s.fuse := rfl
@[simp] theorem State.setCrc_pins (s : State) (u : Nat) (v : CrcUnit) : (s.setCrc u v).pins = s.pins := rfl
@[simp] theorem State.setCrc_boot (s : State) (u : Nat) (v : CrcUnit) : (s.setCrc u v).boot = s.boot := rfl
@[simp] theorem State.setCrc_safety (s : State) (u : Nat) (v : CrcUnit) : (s.setCrc u v).safety = s.safety := rfl
@[simp] theorem State.setCrc_host (s : State) (u : Nat) (v : CrcUnit) : (s.setCrc u v).host = s.host := rfl
@[simp] theorem State.setCrc_fw (s : State) (u : Nat) (v : CrcUnit) : (s.setCrc u v).fw = s.fw := rfl
@[simp] theorem State.setCrc_ports (s : State) (u : Nat) (v : CrcUnit) : (s.setCrc u v).ports = s.ports := rfl
@[simp] theorem State.setCrc_shas (s : State) (u : Nat) (v : CrcUnit) : (s.setCrc u v).shas = s.shas := rfl
@[simp] theorem State.setCrc_power (s : State) (u : Nat) (v : CrcUnit) : (s.setCrc u v).power = s.power := rfl
@[simp] theorem State.setCrc_mem (s : State) (u : Nat) (v : CrcUnit) : (s.setCrc u v).mem = s.mem := rfl
@[simp] theorem State.setCrc_pipes (s : State) (u : Nat) (v : CrcUnit) : (s.setCrc u v).pipes = s.pipes := rfl
@[simp] theorem State.setCrc_books (s : State) (u : Nat) (v : CrcUnit) : (s.setCrc u v).books = s.books := rfl
@[simp] theorem State.setCrc_commit (s : State) (u : Nat) (v : CrcUnit) : (s.setCrc u v).commit = s.commit := rfl
@[simp] theorem State.setCrc_tiles (s : State) (u : Nat) (v : CrcUnit) : (s.setCrc u v).tiles = s.tiles := rfl
@[simp] theorem State.setCrc_clusters (s : State) (u : Nat) (v : CrcUnit) : (s.setCrc u v).clusters = s.clusters := rfl
@[simp] theorem State.setCrc_tileMap (s : State) (u : Nat) (v : CrcUnit) : (s.setCrc u v).tileMap = s.tileMap := rfl
@[simp] theorem State.setCrc_stems (s : State) (u : Nat) (v : CrcUnit) : (s.setCrc u v).stems = s.stems := rfl
@[simp] theorem State.setCrc_spcs (s : State) (u : Nat) (v : CrcUnit) : (s.setCrc u v).spcs = s.spcs := rfl
@[simp] theorem State.setCrc_cam (s : State) (u : Nat) (v : CrcUnit) : (s.setCrc u v).cam = s.cam := rfl
@[simp] theorem State.setCrc_vid (s : State) (u : Nat) (v : CrcUnit) : (s.setCrc u v).vid = s.vid := rfl
@[simp] theorem State.setCrc_ast (s : State) (u : Nat) (v : CrcUnit) : (s.setCrc u v).ast = s.ast := rfl
@[simp] theorem State.setSha_pending (s : State) (e : Nat) (v : ShaEng) : (s.setSha e v).pending = s.pending := rfl
@[simp] theorem State.setSha_regs (s : State) (e : Nat) (v : ShaEng) : (s.setSha e v).regs = s.regs := rfl
@[simp] theorem State.setSha_latch (s : State) (e : Nat) (v : ShaEng) : (s.setSha e v).latch = s.latch := rfl
@[simp] theorem State.setSha_readback (s : State) (e : Nat) (v : ShaEng) : (s.setSha e v).readback = s.readback := rfl
@[simp] theorem State.setSha_elapsed (s : State) (e : Nat) (v : ShaEng) : (s.setSha e v).elapsed = s.elapsed := rfl
@[simp] theorem State.setSha_time (s : State) (e : Nat) (v : ShaEng) : (s.setSha e v).time = s.time := rfl
@[simp] theorem State.setSha_freeIx (s : State) (e : Nat) (v : ShaEng) : (s.setSha e v).freeIx = s.freeIx := rfl
@[simp] theorem State.setSha_fuse (s : State) (e : Nat) (v : ShaEng) : (s.setSha e v).fuse = s.fuse := rfl
@[simp] theorem State.setSha_pins (s : State) (e : Nat) (v : ShaEng) : (s.setSha e v).pins = s.pins := rfl
@[simp] theorem State.setSha_boot (s : State) (e : Nat) (v : ShaEng) : (s.setSha e v).boot = s.boot := rfl
@[simp] theorem State.setSha_safety (s : State) (e : Nat) (v : ShaEng) : (s.setSha e v).safety = s.safety := rfl
@[simp] theorem State.setSha_host (s : State) (e : Nat) (v : ShaEng) : (s.setSha e v).host = s.host := rfl
@[simp] theorem State.setSha_fw (s : State) (e : Nat) (v : ShaEng) : (s.setSha e v).fw = s.fw := rfl
@[simp] theorem State.setSha_ports (s : State) (e : Nat) (v : ShaEng) : (s.setSha e v).ports = s.ports := rfl
@[simp] theorem State.setSha_crcs (s : State) (e : Nat) (v : ShaEng) : (s.setSha e v).crcs = s.crcs := rfl
@[simp] theorem State.setSha_power (s : State) (e : Nat) (v : ShaEng) : (s.setSha e v).power = s.power := rfl
@[simp] theorem State.setSha_mem (s : State) (e : Nat) (v : ShaEng) : (s.setSha e v).mem = s.mem := rfl
@[simp] theorem State.setSha_pipes (s : State) (e : Nat) (v : ShaEng) : (s.setSha e v).pipes = s.pipes := rfl
@[simp] theorem State.setSha_books (s : State) (e : Nat) (v : ShaEng) : (s.setSha e v).books = s.books := rfl
@[simp] theorem State.setSha_commit (s : State) (e : Nat) (v : ShaEng) : (s.setSha e v).commit = s.commit := rfl
@[simp] theorem State.setSha_tiles (s : State) (e : Nat) (v : ShaEng) : (s.setSha e v).tiles = s.tiles := rfl
@[simp] theorem State.setSha_clusters (s : State) (e : Nat) (v : ShaEng) : (s.setSha e v).clusters = s.clusters := rfl
@[simp] theorem State.setSha_tileMap (s : State) (e : Nat) (v : ShaEng) : (s.setSha e v).tileMap = s.tileMap := rfl
@[simp] theorem State.setSha_stems (s : State) (e : Nat) (v : ShaEng) : (s.setSha e v).stems = s.stems := rfl
@[simp] theorem State.setSha_spcs (s : State) (e : Nat) (v : ShaEng) : (s.setSha e v).spcs = s.spcs := rfl
@[simp] theorem State.setSha_cam (s : State) (e : Nat) (v : ShaEng) : (s.setSha e v).cam = s.cam := rfl
@[simp] theorem State.setSha_vid (s : State) (e : Nat) (v : ShaEng) : (s.setSha e v).vid = s.vid := rfl
@[simp] theorem State.setSha_ast (s : State) (e : Nat) (v : ShaEng) : (s.setSha e v).ast = s.ast := rfl
@[simp] theorem State.setStack_pending (s : State) (k : Nat) (v : Stack) : (s.setStack k v).pending = s.pending := rfl
@[simp] theorem State.setStack_regs (s : State) (k : Nat) (v : Stack) : (s.setStack k v).regs = s.regs := rfl
@[simp] theorem State.setStack_latch (s : State) (k : Nat) (v : Stack) : (s.setStack k v).latch = s.latch := rfl
@[simp] theorem State.setStack_readback (s : State) (k : Nat) (v : Stack) : (s.setStack k v).readback = s.readback := rfl
@[simp] theorem State.setStack_elapsed (s : State) (k : Nat) (v : Stack) : (s.setStack k v).elapsed = s.elapsed := rfl
@[simp] theorem State.setStack_time (s : State) (k : Nat) (v : Stack) : (s.setStack k v).time = s.time := rfl
@[simp] theorem State.setStack_freeIx (s : State) (k : Nat) (v : Stack) : (s.setStack k v).freeIx = s.freeIx := rfl
@[simp] theorem State.setStack_fuse (s : State) (k : Nat) (v : Stack) : (s.setStack k v).fuse = s.fuse := rfl
@[simp] theorem State.setStack_pins (s : State) (k : Nat) (v : Stack) : (s.setStack k v).pins = s.pins := rfl
@[simp] theorem State.setStack_boot (s : State) (k : Nat) (v : Stack) : (s.setStack k v).boot = s.boot := rfl
@[simp] theorem State.setStack_safety (s : State) (k : Nat) (v : Stack) : (s.setStack k v).safety = s.safety := rfl
@[simp] theorem State.setStack_host (s : State) (k : Nat) (v : Stack) : (s.setStack k v).host = s.host := rfl
@[simp] theorem State.setStack_fw (s : State) (k : Nat) (v : Stack) : (s.setStack k v).fw = s.fw := rfl
@[simp] theorem State.setStack_ports (s : State) (k : Nat) (v : Stack) : (s.setStack k v).ports = s.ports := rfl
@[simp] theorem State.setStack_crcs (s : State) (k : Nat) (v : Stack) : (s.setStack k v).crcs = s.crcs := rfl
@[simp] theorem State.setStack_shas (s : State) (k : Nat) (v : Stack) : (s.setStack k v).shas = s.shas := rfl
@[simp] theorem State.setStack_power (s : State) (k : Nat) (v : Stack) : (s.setStack k v).power = s.power := rfl
@[simp] theorem State.setStack_pipes (s : State) (k : Nat) (v : Stack) : (s.setStack k v).pipes = s.pipes := rfl
@[simp] theorem State.setStack_books (s : State) (k : Nat) (v : Stack) : (s.setStack k v).books = s.books := rfl
@[simp] theorem State.setStack_commit (s : State) (k : Nat) (v : Stack) : (s.setStack k v).commit = s.commit := rfl
@[simp] theorem State.setStack_tiles (s : State) (k : Nat) (v : Stack) : (s.setStack k v).tiles = s.tiles := rfl
@[simp] theorem State.setStack_clusters (s : State) (k : Nat) (v : Stack) : (s.setStack k v).clusters = s.clusters := rfl
@[simp] theorem State.setStack_tileMap (s : State) (k : Nat) (v : Stack) : (s.setStack k v).tileMap = s.tileMap := rfl
@[simp] theorem State.setStack_stems (s : State) (k : Nat) (v : Stack) : (s.setStack k v).stems = s.stems := rfl
@[simp] theorem State.setStack_spcs (s : State) (k : Nat) (v : Stack) : (s.setStack k v).spcs = s.spcs := rfl
@[simp] theorem State.setStack_cam (s : State) (k : Nat) (v : Stack) : (s.setStack k v).cam = s.cam := rfl
@[simp] theorem State.setStack_vid (s : State) (k : Nat) (v : Stack) : (s.setStack k v).vid = s.vid := rfl
@[simp] theorem State.setStack_ast (s : State) (k : Nat) (v : Stack) : (s.setStack k v).ast = s.ast := rfl
@[simp] theorem State.setRail_pending (s : State) (k : Nat) (v : Rail) : (s.setRail k v).pending = s.pending := rfl
@[simp] theorem State.setRail_regs (s : State) (k : Nat) (v : Rail) : (s.setRail k v).regs = s.regs := rfl
@[simp] theorem State.setRail_latch (s : State) (k : Nat) (v : Rail) : (s.setRail k v).latch = s.latch := rfl
@[simp] theorem State.setRail_readback (s : State) (k : Nat) (v : Rail) : (s.setRail k v).readback = s.readback := rfl
@[simp] theorem State.setRail_elapsed (s : State) (k : Nat) (v : Rail) : (s.setRail k v).elapsed = s.elapsed := rfl
@[simp] theorem State.setRail_time (s : State) (k : Nat) (v : Rail) : (s.setRail k v).time = s.time := rfl
@[simp] theorem State.setRail_freeIx (s : State) (k : Nat) (v : Rail) : (s.setRail k v).freeIx = s.freeIx := rfl
@[simp] theorem State.setRail_fuse (s : State) (k : Nat) (v : Rail) : (s.setRail k v).fuse = s.fuse := rfl
@[simp] theorem State.setRail_pins (s : State) (k : Nat) (v : Rail) : (s.setRail k v).pins = s.pins := rfl
@[simp] theorem State.setRail_boot (s : State) (k : Nat) (v : Rail) : (s.setRail k v).boot = s.boot := rfl
@[simp] theorem State.setRail_safety (s : State) (k : Nat) (v : Rail) : (s.setRail k v).safety = s.safety := rfl
@[simp] theorem State.setRail_host (s : State) (k : Nat) (v : Rail) : (s.setRail k v).host = s.host := rfl
@[simp] theorem State.setRail_fw (s : State) (k : Nat) (v : Rail) : (s.setRail k v).fw = s.fw := rfl
@[simp] theorem State.setRail_ports (s : State) (k : Nat) (v : Rail) : (s.setRail k v).ports = s.ports := rfl
@[simp] theorem State.setRail_crcs (s : State) (k : Nat) (v : Rail) : (s.setRail k v).crcs = s.crcs := rfl
@[simp] theorem State.setRail_shas (s : State) (k : Nat) (v : Rail) : (s.setRail k v).shas = s.shas := rfl
@[simp] theorem State.setRail_mem (s : State) (k : Nat) (v : Rail) : (s.setRail k v).mem = s.mem := rfl
@[simp] theorem State.setRail_pipes (s : State) (k : Nat) (v : Rail) : (s.setRail k v).pipes = s.pipes := rfl
@[simp] theorem State.setRail_books (s : State) (k : Nat) (v : Rail) : (s.setRail k v).books = s.books := rfl
@[simp] theorem State.setRail_commit (s : State) (k : Nat) (v : Rail) : (s.setRail k v).commit = s.commit := rfl
@[simp] theorem State.setRail_tiles (s : State) (k : Nat) (v : Rail) : (s.setRail k v).tiles = s.tiles := rfl
@[simp] theorem State.setRail_clusters (s : State) (k : Nat) (v : Rail) : (s.setRail k v).clusters = s.clusters := rfl
@[simp] theorem State.setRail_tileMap (s : State) (k : Nat) (v : Rail) : (s.setRail k v).tileMap = s.tileMap := rfl
@[simp] theorem State.setRail_stems (s : State) (k : Nat) (v : Rail) : (s.setRail k v).stems = s.stems := rfl
@[simp] theorem State.setRail_spcs (s : State) (k : Nat) (v : Rail) : (s.setRail k v).spcs = s.spcs := rfl
@[simp] theorem State.setRail_cam (s : State) (k : Nat) (v : Rail) : (s.setRail k v).cam = s.cam := rfl
@[simp] theorem State.setRail_vid (s : State) (k : Nat) (v : Rail) : (s.setRail k v).vid = s.vid := rfl
@[simp] theorem State.setRail_ast (s : State) (k : Nat) (v : Rail) : (s.setRail k v).ast = s.ast := rfl
@[simp] theorem State.setSensor_pending (s : State) (i : Nat) (v : Sensor) : (s.setSensor i v).pending = s.pending := rfl
@[simp] theorem State.setSensor_regs (s : State) (i : Nat) (v : Sensor) : (s.setSensor i v).regs = s.regs := rfl
@[simp] theorem State.setSensor_latch (s : State) (i : Nat) (v : Sensor) : (s.setSensor i v).latch = s.latch := rfl
@[simp] theorem State.setSensor_readback (s : State) (i : Nat) (v : Sensor) : (s.setSensor i v).readback = s.readback := rfl
@[simp] theorem State.setSensor_elapsed (s : State) (i : Nat) (v : Sensor) : (s.setSensor i v).elapsed = s.elapsed := rfl
@[simp] theorem State.setSensor_time (s : State) (i : Nat) (v : Sensor) : (s.setSensor i v).time = s.time := rfl
@[simp] theorem State.setSensor_freeIx (s : State) (i : Nat) (v : Sensor) : (s.setSensor i v).freeIx = s.freeIx := rfl
@[simp] theorem State.setSensor_fuse (s : State) (i : Nat) (v : Sensor) : (s.setSensor i v).fuse = s.fuse := rfl
@[simp] theorem State.setSensor_pins (s : State) (i : Nat) (v : Sensor) : (s.setSensor i v).pins = s.pins := rfl
@[simp] theorem State.setSensor_boot (s : State) (i : Nat) (v : Sensor) : (s.setSensor i v).boot = s.boot := rfl
@[simp] theorem State.setSensor_safety (s : State) (i : Nat) (v : Sensor) : (s.setSensor i v).safety = s.safety := rfl
@[simp] theorem State.setSensor_host (s : State) (i : Nat) (v : Sensor) : (s.setSensor i v).host = s.host := rfl
@[simp] theorem State.setSensor_fw (s : State) (i : Nat) (v : Sensor) : (s.setSensor i v).fw = s.fw := rfl
@[simp] theorem State.setSensor_ports (s : State) (i : Nat) (v : Sensor) : (s.setSensor i v).ports = s.ports := rfl
@[simp] theorem State.setSensor_crcs (s : State) (i : Nat) (v : Sensor) : (s.setSensor i v).crcs = s.crcs := rfl
@[simp] theorem State.setSensor_shas (s : State) (i : Nat) (v : Sensor) : (s.setSensor i v).shas = s.shas := rfl
@[simp] theorem State.setSensor_mem (s : State) (i : Nat) (v : Sensor) : (s.setSensor i v).mem = s.mem := rfl
@[simp] theorem State.setSensor_pipes (s : State) (i : Nat) (v : Sensor) : (s.setSensor i v).pipes = s.pipes := rfl
@[simp] theorem State.setSensor_books (s : State) (i : Nat) (v : Sensor) : (s.setSensor i v).books = s.books := rfl
@[simp] theorem State.setSensor_commit (s : State) (i : Nat) (v : Sensor) : (s.setSensor i v).commit = s.commit := rfl
@[simp] theorem State.setSensor_tiles (s : State) (i : Nat) (v : Sensor) : (s.setSensor i v).tiles = s.tiles := rfl
@[simp] theorem State.setSensor_clusters (s : State) (i : Nat) (v : Sensor) : (s.setSensor i v).clusters = s.clusters := rfl
@[simp] theorem State.setSensor_tileMap (s : State) (i : Nat) (v : Sensor) : (s.setSensor i v).tileMap = s.tileMap := rfl
@[simp] theorem State.setSensor_stems (s : State) (i : Nat) (v : Sensor) : (s.setSensor i v).stems = s.stems := rfl
@[simp] theorem State.setSensor_spcs (s : State) (i : Nat) (v : Sensor) : (s.setSensor i v).spcs = s.spcs := rfl
@[simp] theorem State.setSensor_cam (s : State) (i : Nat) (v : Sensor) : (s.setSensor i v).cam = s.cam := rfl
@[simp] theorem State.setSensor_vid (s : State) (i : Nat) (v : Sensor) : (s.setSensor i v).vid = s.vid := rfl
@[simp] theorem State.setSensor_ast (s : State) (i : Nat) (v : Sensor) : (s.setSensor i v).ast = s.ast := rfl
@[simp] theorem State.setStem_pending (s : State) (c : Nat) (v : Engine) : (s.setStem c v).pending = s.pending := rfl
@[simp] theorem State.setStem_regs (s : State) (c : Nat) (v : Engine) : (s.setStem c v).regs = s.regs := rfl
@[simp] theorem State.setStem_latch (s : State) (c : Nat) (v : Engine) : (s.setStem c v).latch = s.latch := rfl
@[simp] theorem State.setStem_readback (s : State) (c : Nat) (v : Engine) : (s.setStem c v).readback = s.readback := rfl
@[simp] theorem State.setStem_elapsed (s : State) (c : Nat) (v : Engine) : (s.setStem c v).elapsed = s.elapsed := rfl
@[simp] theorem State.setStem_time (s : State) (c : Nat) (v : Engine) : (s.setStem c v).time = s.time := rfl
@[simp] theorem State.setStem_freeIx (s : State) (c : Nat) (v : Engine) : (s.setStem c v).freeIx = s.freeIx := rfl
@[simp] theorem State.setStem_fuse (s : State) (c : Nat) (v : Engine) : (s.setStem c v).fuse = s.fuse := rfl
@[simp] theorem State.setStem_pins (s : State) (c : Nat) (v : Engine) : (s.setStem c v).pins = s.pins := rfl
@[simp] theorem State.setStem_boot (s : State) (c : Nat) (v : Engine) : (s.setStem c v).boot = s.boot := rfl
@[simp] theorem State.setStem_safety (s : State) (c : Nat) (v : Engine) : (s.setStem c v).safety = s.safety := rfl
@[simp] theorem State.setStem_host (s : State) (c : Nat) (v : Engine) : (s.setStem c v).host = s.host := rfl
@[simp] theorem State.setStem_fw (s : State) (c : Nat) (v : Engine) : (s.setStem c v).fw = s.fw := rfl
@[simp] theorem State.setStem_ports (s : State) (c : Nat) (v : Engine) : (s.setStem c v).ports = s.ports := rfl
@[simp] theorem State.setStem_crcs (s : State) (c : Nat) (v : Engine) : (s.setStem c v).crcs = s.crcs := rfl
@[simp] theorem State.setStem_shas (s : State) (c : Nat) (v : Engine) : (s.setStem c v).shas = s.shas := rfl
@[simp] theorem State.setStem_power (s : State) (c : Nat) (v : Engine) : (s.setStem c v).power = s.power := rfl
@[simp] theorem State.setStem_mem (s : State) (c : Nat) (v : Engine) : (s.setStem c v).mem = s.mem := rfl
@[simp] theorem State.setStem_pipes (s : State) (c : Nat) (v : Engine) : (s.setStem c v).pipes = s.pipes := rfl
@[simp] theorem State.setStem_books (s : State) (c : Nat) (v : Engine) : (s.setStem c v).books = s.books := rfl
@[simp] theorem State.setStem_commit (s : State) (c : Nat) (v : Engine) : (s.setStem c v).commit = s.commit := rfl
@[simp] theorem State.setStem_tiles (s : State) (c : Nat) (v : Engine) : (s.setStem c v).tiles = s.tiles := rfl
@[simp] theorem State.setStem_clusters (s : State) (c : Nat) (v : Engine) : (s.setStem c v).clusters = s.clusters := rfl
@[simp] theorem State.setStem_tileMap (s : State) (c : Nat) (v : Engine) : (s.setStem c v).tileMap = s.tileMap := rfl
@[simp] theorem State.setStem_spcs (s : State) (c : Nat) (v : Engine) : (s.setStem c v).spcs = s.spcs := rfl
@[simp] theorem State.setStem_cam (s : State) (c : Nat) (v : Engine) : (s.setStem c v).cam = s.cam := rfl
@[simp] theorem State.setStem_vid (s : State) (c : Nat) (v : Engine) : (s.setStem c v).vid = s.vid := rfl
@[simp] theorem State.setStem_ast (s : State) (c : Nat) (v : Engine) : (s.setStem c v).ast = s.ast := rfl
@[simp] theorem State.setSpc_pending (s : State) (d : Nat) (v : Engine) : (s.setSpc d v).pending = s.pending := rfl
@[simp] theorem State.setSpc_regs (s : State) (d : Nat) (v : Engine) : (s.setSpc d v).regs = s.regs := rfl
@[simp] theorem State.setSpc_latch (s : State) (d : Nat) (v : Engine) : (s.setSpc d v).latch = s.latch := rfl
@[simp] theorem State.setSpc_readback (s : State) (d : Nat) (v : Engine) : (s.setSpc d v).readback = s.readback := rfl
@[simp] theorem State.setSpc_elapsed (s : State) (d : Nat) (v : Engine) : (s.setSpc d v).elapsed = s.elapsed := rfl
@[simp] theorem State.setSpc_time (s : State) (d : Nat) (v : Engine) : (s.setSpc d v).time = s.time := rfl
@[simp] theorem State.setSpc_freeIx (s : State) (d : Nat) (v : Engine) : (s.setSpc d v).freeIx = s.freeIx := rfl
@[simp] theorem State.setSpc_fuse (s : State) (d : Nat) (v : Engine) : (s.setSpc d v).fuse = s.fuse := rfl
@[simp] theorem State.setSpc_pins (s : State) (d : Nat) (v : Engine) : (s.setSpc d v).pins = s.pins := rfl
@[simp] theorem State.setSpc_boot (s : State) (d : Nat) (v : Engine) : (s.setSpc d v).boot = s.boot := rfl
@[simp] theorem State.setSpc_safety (s : State) (d : Nat) (v : Engine) : (s.setSpc d v).safety = s.safety := rfl
@[simp] theorem State.setSpc_host (s : State) (d : Nat) (v : Engine) : (s.setSpc d v).host = s.host := rfl
@[simp] theorem State.setSpc_fw (s : State) (d : Nat) (v : Engine) : (s.setSpc d v).fw = s.fw := rfl
@[simp] theorem State.setSpc_ports (s : State) (d : Nat) (v : Engine) : (s.setSpc d v).ports = s.ports := rfl
@[simp] theorem State.setSpc_crcs (s : State) (d : Nat) (v : Engine) : (s.setSpc d v).crcs = s.crcs := rfl
@[simp] theorem State.setSpc_shas (s : State) (d : Nat) (v : Engine) : (s.setSpc d v).shas = s.shas := rfl
@[simp] theorem State.setSpc_power (s : State) (d : Nat) (v : Engine) : (s.setSpc d v).power = s.power := rfl
@[simp] theorem State.setSpc_mem (s : State) (d : Nat) (v : Engine) : (s.setSpc d v).mem = s.mem := rfl
@[simp] theorem State.setSpc_pipes (s : State) (d : Nat) (v : Engine) : (s.setSpc d v).pipes = s.pipes := rfl
@[simp] theorem State.setSpc_books (s : State) (d : Nat) (v : Engine) : (s.setSpc d v).books = s.books := rfl
@[simp] theorem State.setSpc_commit (s : State) (d : Nat) (v : Engine) : (s.setSpc d v).commit = s.commit := rfl
@[simp] theorem State.setSpc_tiles (s : State) (d : Nat) (v : Engine) : (s.setSpc d v).tiles = s.tiles := rfl
@[simp] theorem State.setSpc_clusters (s : State) (d : Nat) (v : Engine) : (s.setSpc d v).clusters = s.clusters := rfl
@[simp] theorem State.setSpc_tileMap (s : State) (d : Nat) (v : Engine) : (s.setSpc d v).tileMap = s.tileMap := rfl
@[simp] theorem State.setSpc_stems (s : State) (d : Nat) (v : Engine) : (s.setSpc d v).stems = s.stems := rfl
@[simp] theorem State.setSpc_cam (s : State) (d : Nat) (v : Engine) : (s.setSpc d v).cam = s.cam := rfl
@[simp] theorem State.setSpc_vid (s : State) (d : Nat) (v : Engine) : (s.setSpc d v).vid = s.vid := rfl
@[simp] theorem State.setSpc_ast (s : State) (d : Nat) (v : Engine) : (s.setSpc d v).ast = s.ast := rfl

end Sys2Proof.Machine
end

