-- ==== Sys2Proof/Laws/Flits.lean ====
section
/-!
SUPPORT. Flits formed with their CRC, and what serving a request of the mailbox leaves.
-/
namespace Sys2Proof.Machine
set_option maxRecDepth 2000

/-- The low bytes of a number. -/
theorem natToBytes_add (n : Nat) : ∀ v c : Nat, natToBytes (v + c * 256 ^ n) n = natToBytes v n := by
  induction n with
  | zero => intro v c; rfl
  | succ n ih =>
    intro v c
    have h1 : v + c * 256 ^ (n + 1) = v + 256 * (c * 256 ^ n) := by rw [Nat.pow_succ]; ring
    simp only [natToBytes, h1]
    rw [Nat.add_mul_div_left _ _ (by omega), ih]
    congr 1
    apply BitVec.eq_of_toNat_eq
    simp only [BitVec.toNat_ofNat]
    omega

theorem bitReverse_lt (v : Nat) : bitReverse 32 v < 2 ^ 32 := by
  have key : ∀ (l : List Nat) (a : Nat),
      l.foldl (fun acc i => if v.testBit i then acc + 2 ^ (32 - 1 - i) else acc) a ≤ a + (l.map (fun i => 2 ^ (32 - 1 - i))).sum := by
    intro l
    induction l with
    | nil => intro a; simp
    | cons i l ih =>
      intro a
      simp only [List.foldl_cons, List.map_cons, List.sum_cons]
      refine (ih _).trans ?_
      split
      · rw [Nat.add_assoc]
      · exact Nat.add_le_add_left (Nat.le_add_left _ _) _
  exact Nat.lt_of_le_of_lt (key (upTo 32) 0) (by decide)

theorem crc32_lt (bs : List Byte) : crc32 bs < 2 ^ 32 := by
  unfold crc32 crcResult
  simp only [if_true]
  exact Nat.xor_lt_two_pow (bitReverse_lt _) (by omega)

/-- A flit with the header and body `v` and its CRC. -/
abbrev flitOf (v : Nat) : BitVec 2048 := BitVec.ofNat 2048 (v + place (crc32 (natToBytes v 252)) 2016 32)

theorem flitOf_toNat (v : Nat) (h : v < 2 ^ 2016) : (flitOf v).toNat = v + crc32 (natToBytes v 252) * 2 ^ 2016 := by
  have hc := crc32_lt (natToBytes v 252)
  unfold flitOf
  generalize crc32 (natToBytes v 252) = c at hc ⊢
  rw [BitVec.toNat_ofNat]
  unfold place
  rw [Nat.mod_eq_of_lt hc, Nat.shiftLeft_eq]
  apply Nat.mod_eq_of_lt
  have h2 : (2:Nat)^2048 = 2^32 * 2^2016 := by rw [← pow_add]
  rw [h2]
  calc v + c * 2 ^ 2016 < 2 ^ 2016 + c * 2 ^ 2016 := Nat.add_lt_add_right h _
    _ = (c + 1) * 2 ^ 2016 := by rw [Nat.add_mul, Nat.one_mul, Nat.add_comm]
    _ ≤ 2 ^ 32 * 2 ^ 2016 := Nat.mul_le_mul_right _ hc

/-- A flit formed with its CRC passes the check (R428). -/
theorem fOk_flitOf (v : Nat) (h : v < 2 ^ 2016) : fOk (flitOf v) = true := by
  have h0 := flitOf_toNat v h
  have hc := crc32_lt (natToBytes v 252)
  unfold fOk
  rw [h0]
  have h1 : natToBytes (v + crc32 (natToBytes v 252) * 2 ^ 2016) 252 = natToBytes v 252 := by
    have := natToBytes_add 252 v (crc32 (natToBytes v 252))
    rwa [show (256:Nat) ^ 252 = 2 ^ 2016 by rw [show (256:Nat) = 2 ^ 8 by rfl, ← pow_mul]] at this
  rw [h1]
  unfold bitsOf
  rw [Nat.shiftRight_eq_div_pow, Nat.add_mul_div_right _ _ (by positivity), Nat.div_eq_of_lt h, Nat.zero_add,
    Nat.mod_eq_of_lt hc]
  exact decide_eq_true rfl

/-- The fields of such a flit are those of its header. -/
theorem bitsOf_flitOf (v lo w : Nat) (h : v < 2 ^ 2016) (hl : lo + w ≤ 2016) : bitsOf (flitOf v).toNat lo w = bitsOf v lo w := by
  rw [flitOf_toNat v h]
  unfold bitsOf
  have h1 : crc32 (natToBytes v 252) * 2 ^ 2016 = (crc32 (natToBytes v 252) * 2 ^ (2016 - lo - w) * 2 ^ w) * 2 ^ lo := by
    rw [Nat.mul_assoc, Nat.mul_assoc, ← pow_add, ← pow_add]
    congr 2
    omega
  rw [Nat.shiftRight_eq_div_pow, Nat.shiftRight_eq_div_pow, h1, Nat.add_mul_div_right _ _ (by positivity),
    Nat.add_mul_mod_self_right]

/-- The control fields of a flit leave the number expected next. -/
theorem takeControl_rxNext (s : State) (p : Nat) (f : BitVec 2048) : ((s.takeControl p f).port p).rxNext = (s.port p).rxNext := by
  have key : ∀ (l : List Nat) (u : State) (g : State → Nat → B32), 
      (l.foldl (fun (s : State) v => s.setReg (kLnk p (0x48 + 0x10 * v)) (g s v)) u).port p = u.port p := by
    intro l
    induction l with
    | nil => intro u g; rfl
    | cons v l ih => intro u g; rw [List.foldl_cons, ih]; rfl
  unfold State.takeControl
  refine (congrArg Port.rxNext (key (upTo 6) _ _)).trans ?_
  unfold State.port State.setPort
  rw [SMap.get_set_self]

/-- Some flit fails its check. -/
theorem bad_flit : ∃ f : BitVec 2048, fOk f = false := by
  by_contra hn
  have h (f : BitVec 2048) : fOk f = true := by
    by_contra hf
    exact hn ⟨f, by simpa using hf⟩
  have key (c : Nat) (hc : c < 2 ^ 32) : crc32 (natToBytes 0 252) = c := by
    have h1 := of_decide_eq_true (h (BitVec.ofNat 2048 (0 + c * 256 ^ 252)))
    have h2 : (BitVec.ofNat 2048 (0 + c * 256 ^ 252)).toNat = 0 + c * 256 ^ 252 := by
      rw [BitVec.toNat_ofNat]
      apply Nat.mod_eq_of_lt
      rw [Nat.zero_add, show (256:Nat) ^ 252 = 2 ^ 2016 by rw [show (256:Nat) = 2 ^ 8 by rfl, ← pow_mul], show (2:Nat)^2048 = 2^32 * 2^2016 by rw [← pow_add]]
      exact Nat.mul_lt_mul_of_pos_right hc (by positivity)
    rw [h2, natToBytes_add] at h1
    rw [h1]
    unfold bitsOf
    rw [Nat.zero_add, Nat.shiftRight_eq_div_pow, show (256:Nat) ^ 252 = 2 ^ 2016 by rw [show (256:Nat) = 2 ^ 8 by rfl, ← pow_mul],
      Nat.mul_div_cancel _ (by positivity), Nat.mod_eq_of_lt hc]
  exact absurd ((key 0 (by decide)).symm.trans (key 1 (by decide))) (by decide)

theorem mbxRun_served (s : State) (k : Nat) (data : Option (List Byte)) (f : MbxFn) (h : s.mbxReady k = true) :
    s.mbxRun k data f = some (s.mailServed data f) := by
  unfold State.mbxRun
  rw [if_pos h]
  by_cases h1 : s.reqStatus s.mbxReq ≠ 0
  · exact (if_pos h1).trans (congrArg some (if_pos h1).symm)
  · refine (if_neg h1).trans (Eq.trans ?_ (congrArg some (if_neg h1).symm))
    generalize s.bufRead s.mbxReq data = b
    rcases b with ⟨b, _ | d⟩
    · rfl
    · dsimp only
      by_cases h2 : d.1 ≠ 0
      · exact (if_pos h2).trans (congrArg some (if_pos h2).symm)
      · refine (if_neg h2).trans (Eq.trans ?_ (congrArg some (if_neg h2).symm))
        by_cases h3 : s.reqAway s.mbxReq = true
        · exact (if_pos h3).trans (congrArg some (if_pos h3).symm)
        · refine (if_neg h3).trans (Eq.trans ?_ (congrArg some (if_neg h3).symm))
          generalize f b s.mbxReq d.2 = x
          rcases x with ⟨a, _ | res⟩ <;> rfl

end Sys2Proof.Machine
end

