-- ==== Sys2Proof/Laws/Floats.lean ====
section
/-!
SUPPORT. Floating-point values: sums and products commute, negation of the bits is negation of the value, opposite values cancel.
-/
namespace Sys2Proof.Machine
set_option maxRecDepth 2000

theorem addFin_comm (n1 : Bool) (m1 : Nat) (e1 : Int) (n2 : Bool) (m2 : Nat) (e2 : Int) :
    FVal.addFin n1 m1 e1 n2 m2 e2 = FVal.addFin n2 m2 e2 n1 m1 e1 := by
  unfold FVal.addFin
  simp only [Int.min_comm e1 e2]
  rw [Int.add_comm, Bool.and_comm]

theorem fv_add_comm (a b : FVal) : a.add b = b.add a := by
  cases a <;> cases b <;> simp only [FVal.add]
  · rename_i a b
    by_cases h : a = b
    · rw [if_pos h, if_pos h.symm, h]
    · rw [if_neg h, if_neg (Ne.symm h)]
  · exact addFin_comm _ _ _ _ _ _

theorem fv_mul_comm (a b : FVal) : a.mul b = b.mul a := by
  cases a <;> cases b <;> simp only [FVal.mul]
  · rw [bne_comm]
  · rw [bne_comm]
  · rw [bne_comm]
  · rw [bne_comm, Nat.mul_comm, Int.add_comm]

theorem neg_decode (x : B32) (h : fpIsNan x = false) : fp32Decode (fpNeg x) = (fp32Decode x).neg := by
  unfold fpNeg
  rw [h]
  simp only [Bool.false_eq_true, if_false]
  unfold fp32Decode
  have hx : (x ^^^ (0x80000000 : B32)).toNat = if x.toNat < 2 ^ 31 then x.toNat + 2 ^ 31 else x.toNat - 2 ^ 31 := by
    have := x.isLt
    rw [BitVec.toNat_xor]
    split
    · rename_i h
      have := Nat.two_pow_add_eq_or_of_lt h 1
      rw [show (0x80000000 : B32).toNat = 2 ^ 31 by rfl]
      have e : x.toNat ^^^ 2 ^ 31 = 2 ^ 31 * 1 ||| x.toNat := by
        apply Nat.eq_of_testBit_eq
        intro i
        rw [Nat.testBit_xor, Nat.testBit_or, Nat.mul_one, Nat.testBit_two_pow]
        by_cases hi : 31 = i
        · subst hi
          simp [Nat.testBit_lt_two_pow h]
        · simp [hi]
      omega
    · rename_i h
      rw [show (0x80000000 : B32).toNat = 2 ^ 31 by rfl]
      have hy : x.toNat - 2 ^ 31 < 2 ^ 31 := by omega
      have e0 := Nat.two_pow_add_eq_or_of_lt hy 1
      have e : x.toNat ^^^ 2 ^ 31 = x.toNat - 2 ^ 31 := by
        conv => lhs; rw [show x.toNat = 2 ^ 31 * 1 ||| (x.toNat - 2 ^ 31) by omega]
        apply Nat.eq_of_testBit_eq
        intro i
        rw [Nat.testBit_xor, Nat.testBit_or, Nat.mul_one, Nat.testBit_two_pow]
        by_cases hi : 31 = i
        · subst hi
          rw [Nat.testBit_lt_two_pow hy]; rfl
        · simp [hi]
      exact e
  have hlt := x.isLt
  unfold FFmt.decodeIeee
  rw [hx]
  have b1 : bitsOf (if x.toNat < 2 ^ 31 then x.toNat + 2 ^ 31 else x.toNat - 2 ^ 31) 0 FFmt.fp32.mbits = bitsOf x.toNat 0 FFmt.fp32.mbits := by
    unfold bitsOf FFmt.fp32; simp only [Nat.shiftRight_eq_div_pow]; split <;> omega
  have b2 : bitsOf (if x.toNat < 2 ^ 31 then x.toNat + 2 ^ 31 else x.toNat - 2 ^ 31) FFmt.fp32.mbits FFmt.fp32.ebits = bitsOf x.toNat FFmt.fp32.mbits FFmt.fp32.ebits := by
    unfold bitsOf FFmt.fp32; simp only [Nat.shiftRight_eq_div_pow]; split <;> omega
  have b3 : bitOf (if x.toNat < 2 ^ 31 then x.toNat + 2 ^ 31 else x.toNat - 2 ^ 31) (FFmt.fp32.mbits + FFmt.fp32.ebits) = !bitOf x.toNat (FFmt.fp32.mbits + FFmt.fp32.ebits) := by
    unfold bitOf FFmt.fp32
    simp only [Nat.testBit_eq_decide_div_mod_eq]
    split
    · rw [decide_eq_true (by omega), decide_eq_false (by omega)]; rfl
    · rw [decide_eq_false (by omega), decide_eq_true (by omega)]; rfl
  simp only [b1, b2, b3]
  split
  · split <;> rfl
  · unfold FFmt.finite; split <;> rfl

theorem cancel (n : Bool) (m : Nat) (e : Int) : fp32Round ((FVal.fin n m e).add (FVal.fin (!n) m e)) = 0 := by
  have h : (FVal.fin n m e).add (FVal.fin (!n) m e) = .fin false 0 e := by
    unfold FVal.add FVal.addFin
    simp only
    rw [if_pos (by cases n <;> simp)]
    cases n <;> simp
  rw [h]
  unfold fp32Round fp32RoundS
  have hr : (roundMag 24 (-149) 0 e false).1 = 0 := by
    unfold roundMag
    simp only
    split
    · exact Nat.zero_shiftLeft _
    · simp
  unfold FFmt.pack
  simp only [hr, if_true]
  rfl

end Sys2Proof.Machine
end

