-- ==== Sys2Proof/Laws/Frames.lean ====
section
/-!
SUPPORT. What the shared operations of memory leave in HBM: raising events, recording faults, correcting lines and the Reservoir
change no byte of it, and a write changes none outside its range.
-/
namespace Sys2Proof.Machine
set_option maxRecDepth 2000

theorem hbm_addFld (s : State) (k lo w n : Nat) : (s.addFld k lo w n).mem = s.mem := rfl
theorem hbm_addSat (s : State) (k n : Nat) : (s.addSat k n).mem = s.mem := rfl
theorem hbm_raise (s : State) (c : BitVec 16) (p : B64) : (s.raise c p).mem = s.mem := by
  unfold State.raise; split <;> rfl
theorem hbm_bltStore (s : State) (e : BltEntry) : (s.bltStore e).mem = s.mem := by
  unfold State.bltStore; repeat' (first | rfl | split)
theorem hbm_setReg (s : State) (k : Nat) (v : B32) : (s.setReg k v).mem = s.mem := rfl
theorem hbm_report (s : State) (e : BltEntry) : (s.report e).mem = s.mem := by
  unfold State.report
  split
  · rw [hbm_raise]
  · rfl
theorem hbm_noteEpoch (s : State) (e : B32) : (s.noteEpoch e).mem = s.mem := rfl
theorem hbm_logged (s : State) (e : BltEntry) : (if s.go then s.bltStore e
    else if s.safety.bltHeld.length < 16 then { s with safety := { s.safety with bltHeld := s.safety.bltHeld ++ [e] } }
    else s).mem = s.mem := by
  split
  · exact hbm_bltStore _ _
  · split <;> rfl
theorem hbm_fault (s : State) (e : BltEntry) : (s.fault e).mem = s.mem := by
  unfold State.fault
  cases e.epoch with
  | none =>
    simp only
    split
    · rw [hbm_report, hbm_logged]
    · rw [hbm_logged]
  | some x =>
    simp only
    split
    · rw [hbm_report, hbm_logged, hbm_noteEpoch]
    · rw [hbm_logged, hbm_noteEpoch]
theorem hbm_violation (s : State) (rq : Requester) (w : Bool) (a : Nat) (v : Verdict) : (s.violation rq w a v).mem = s.mem := by
  unfold State.violation
  simp only
  split
  · rw [hbm_addFld, hbm_addFld]
  · rw [hbm_raise, hbm_setReg, hbm_setReg, hbm_setReg, hbm_addFld]
theorem hbm_queueRetire (s : State) (k p : Nat) : (s.queueRetire k p).mem.hbm = s.mem.hbm := by
  unfold State.queueRetire; simp only; split <;> rfl
theorem hbm_trackCe (s : State) (k p : Nat) : (s.trackCe k p).mem.hbm = s.mem.hbm := by
  unfold State.trackCe; simp only; split
  · rw [hbm_queueRetire]; rfl
  · rfl
theorem hbm_uncorrectable (s : State) (k l p : Nat) (ep : Option (B32 × Nat)) :
    (s.hbmUncorrectable k l p ep).mem.hbm = s.mem.hbm := by
  unfold State.hbmUncorrectable
  rw [hbm_queueRetire, hbm_fault, hbm_raise]; rfl
theorem hbm_line (s : State) (l : Nat) (ep : Option (B32 × Nat)) : (s.hbmLine l ep).1.mem.hbm = s.mem.hbm := by
  unfold State.hbmLine
  simp only
  split
  · rfl
  · split
    · exact hbm_uncorrectable _ _ _ _ _
    · split
      · rw [hbm_trackCe]; rfl
      · rfl
theorem hbm_mergeReads (ep : Option (B32 × Nat)) (ls : List Nat) : ∀ s : State, (s.mergeReads ep ls).1.mem.hbm = s.mem.hbm := by
  induction ls with
  | nil => intro s; rfl
  | cons l ls ih =>
    intro s
    unfold State.mergeReads
    simp only
    split
    · rw [ih, hbm_line]
    · exact hbm_line _ _ _
theorem hbm_rsvDrop (s : State) (a : Nat) : (s.rsvDrop a).mem.hbm = s.mem.hbm := rfl
theorem hbm_rsvTouch (s : State) (a : Nat) : (s.rsvTouch a).mem.hbm = s.mem.hbm := rfl
theorem hbm_rsvAlloc (s : State) (a : Nat) : (s.rsvAlloc a).mem.hbm = s.mem.hbm := by
  unfold State.rsvAlloc
  simp only
  repeat' (first | rfl | split)
theorem hbm_rsvFill (s : State) (l : Nat) : (s.rsvFill l).mem.hbm = s.mem.hbm := by
  unfold State.rsvFill
  simp only
  split
  · rw [hbm_rsvAlloc, hbm_line]
  · exact hbm_line _ _ _
theorem hbm_rsvWrite (s : State) (lo hi l : Nat) : (s.rsvWrite lo hi l).mem.hbm = s.mem.hbm := by
  unfold State.rsvWrite
  simp only
  split
  · split
    · rw [hbm_rsvDrop]; split <;> rfl
    · rw [hbm_rsvTouch]; split <;> rfl
  · split
    · exact hbm_rsvFill _ _
    · rfl
theorem hbm_rsvFold (lo hi : Nat) (ls : List Nat) : ∀ s : State, (ls.foldl (fun s l => s.rsvWrite lo hi l) s).mem.hbm = s.mem.hbm := by
  induction ls with
  | nil => intro s; rfl
  | cons l ls ih => intro s; rw [List.foldl_cons, ih, hbm_rsvWrite]
theorem hbm_write_frame (s : State) (a : Access) (ep : Option (B32 × Nat)) (c : Nat) (hc : c < a.addr ∨ a.addr + a.data.length ≤ c) :
    (s.hbmWrite a ep).1.mem.hbm.read c = s.mem.hbm.read c := by
  unfold State.hbmWrite
  simp only
  split
  · rw [hbm_rsvFold]
    rw [← hbm_mergeReads ep (mergeLines a.addr a.data.length) s]
    exact Memory.read_writeBytes_outside _ _ _ _ hc
  · rw [hbm_mergeReads]
theorem inRegs_below {a n : Nat} (h : a + n ≤ hbmTop) : inRegs a n = 0 ∨ n = 0 := by
  unfold inRegs
  have : hbmTop < ctlBase := by decide
  by_cases hn : n = 0
  · exact Or.inr hn
  · left; rw [if_neg (by omega)]
theorem mem_write_frame (s : State) (a : Access) (ep : Option (B32 × Nat)) (c : Nat) (hw : a.write = true)
    (ht : a.addr + a.data.length ≤ hbmTop) (hc : c < a.addr ∨ a.addr + a.data.length ≤ c) :
    (s.memAccess a ep).1.mem.hbm.read c = s.mem.hbm.read c := by
  unfold State.memAccess accessSize
  simp only [hw, if_true]
  split
  · rfl
  · rename_i hn
    split
    · rw [hbm_violation]
    · rw [if_pos (by have : a.data.length ≠ 0 := fun h => hn (Or.inl h); omega)]
      exact hbm_write_frame _ _ _ _ hc
theorem errs_rsvAlloc (s : State) (a : Nat) : (s.rsvAlloc a).mem.ue = s.mem.ue ∧ (s.rsvAlloc a).mem.ce = s.mem.ce ∧ (s.rsvAlloc a).mem.last = s.mem.last := by
  unfold State.rsvAlloc
  simp only
  repeat' (first | exact ⟨rfl, rfl, rfl⟩ | split)

theorem errs_queueRetire (s : State) (k p : Nat) : (s.queueRetire k p).mem.ue = s.mem.ue ∧ (s.queueRetire k p).mem.ce = s.mem.ce := by
  unfold State.queueRetire; simp only; split <;> exact ⟨rfl, rfl⟩

theorem errs_trackCe (s : State) (k p : Nat) : (s.trackCe k p).mem.ue = s.mem.ue ∧ (s.trackCe k p).mem.ce = s.mem.ce := by
  unfold State.trackCe; simp only; split
  · rw [(errs_queueRetire _ _ _).1, (errs_queueRetire _ _ _).2]; exact ⟨rfl, rfl⟩
  · exact ⟨rfl, rfl⟩

/-- A read of a line leaves the uncorrectable lines as they are and adds no correctable one (R360, R361). -/
theorem errs_hbmLine (s : State) (l : Nat) (ep : Option (B32 × Nat)) :
    (s.hbmLine l ep).1.mem.ue = s.mem.ue ∧ ∀ x ∈ (s.hbmLine l ep).1.mem.ce, x ∈ s.mem.ce := by
  unfold State.hbmLine
  simp only
  split
  · exact ⟨rfl, fun _ h => h⟩
  · split
    · unfold State.hbmUncorrectable
      rw [(errs_queueRetire _ _ _).1, (errs_queueRetire _ _ _).2, hbm_fault, hbm_raise]
      exact ⟨rfl, fun _ h => h⟩
    · split
      · rw [(errs_trackCe _ _ _).1, (errs_trackCe _ _ _).2]
        exact ⟨rfl, fun _ h => (List.mem_filter.1 h).1⟩
      · exact ⟨rfl, fun _ h => h⟩

theorem errs_rsvFill (s : State) (l : Nat) : (s.rsvFill l).mem.ue = s.mem.ue ∧ ∀ x ∈ (s.rsvFill l).mem.ce, x ∈ s.mem.ce := by
  unfold State.rsvFill
  simp only
  split
  · rw [(errs_rsvAlloc _ _).1, (errs_rsvAlloc _ _).2.1]; exact errs_hbmLine _ _ _
  · exact errs_hbmLine _ _ _

theorem errs_rsvWrite (s : State) (lo hi l : Nat) :
    (s.rsvWrite lo hi l).mem.ue = s.mem.ue ∧ ∀ x ∈ (s.rsvWrite lo hi l).mem.ce, x ∈ s.mem.ce := by
  unfold State.rsvWrite
  simp only
  split
  · split <;> split <;> exact ⟨rfl, fun _ h => h⟩
  · split
    · exact errs_rsvFill _ _
    · exact ⟨rfl, fun _ h => h⟩

theorem errs_rsvFold (lo hi : Nat) (ls : List Nat) : ∀ s : State,
    (ls.foldl (fun s l => s.rsvWrite lo hi l) s).mem.ue = s.mem.ue ∧
      ∀ x ∈ (ls.foldl (fun s l => s.rsvWrite lo hi l) s).mem.ce, x ∈ s.mem.ce := by
  induction ls with
  | nil => intro s; exact ⟨rfl, fun _ h => h⟩
  | cons l ls ih =>
    intro s
    rw [List.foldl_cons, (ih _).1]
    exact ⟨(errs_rsvWrite s lo hi l).1, fun x h => (errs_rsvWrite s lo hi l).2 x ((ih _).2 x h)⟩

theorem mem_linesOf {a n l : Nat} (h0 : l % 64 = 0) (h1 : a % 64 = 0) (h2 : a ≤ l) (h3 : l < a + n) : l ∈ linesOf a n := by
  unfold linesOf upTo
  rw [List.mem_map]
  exact ⟨l / 64 - a / 64, List.mem_range.2 (by omega), by omega⟩

theorem mergeLines_whole {a n : Nat} (h1 : a % 64 = 0) (h2 : n % 64 = 0) (h3 : 0 < n) : mergeLines a n = [] := by
  unfold mergeLines linesOf upTo
  rw [List.filter_eq_nil_iff]
  intro l hl
  rw [List.mem_map] at hl
  obtain ⟨i, hi, rfl⟩ := hl
  have := List.mem_range.1 hi
  rw [Bool.or_eq_true, decide_eq_true_iff, decide_eq_true_iff]
  omega

theorem hbm_readLine (s : State) (a : Access) (l : Nat) (ep : Option (B32 × Nat)) : (s.readLine a l ep).1.mem.hbm = s.mem.hbm := by
  unfold State.readLine
  simp only
  split
  · exact hbm_line _ _ _
  · split
    · split
      · rw [hbm_rsvDrop, hbm_fault, hbm_addFld]
      · split
        · rw [hbm_rsvDrop, hbm_addFld]
        · rw [hbm_rsvTouch]
    · split
      · rw [hbm_rsvFill, hbm_line]
      · exact hbm_line _ _ _

theorem hbm_readLines (a : Access) (ep : Option (B32 × Nat)) (ls : List Nat) : ∀ s : State, (s.readLines a ep ls).1.mem.hbm = s.mem.hbm := by
  induction ls with
  | nil => intro s; rfl
  | cons l ls ih =>
    intro s
    unfold State.readLines
    simp only
    split
    · rw [ih, hbm_readLine]
    · exact hbm_readLine _ _ _ _

theorem hbm_memRead (s : State) (a : Access) (ep : Option (B32 × Nat)) (hw : a.write = false) (ht : a.addr < hbmTop) :
    (s.memAccess a ep).1.mem.hbm = s.mem.hbm := by
  unfold State.memAccess accessSize
  simp only [hw, Bool.false_eq_true, if_false]
  split
  · rfl
  · split
    · rw [hbm_violation]
    · unfold State.hbmRead
      simp only
      split <;> exact hbm_readLines _ _ _ _

/-- No line becomes uncorrectable and no Reservoir word either. -/
structure Good (s t : State) : Prop where
  ue : t.mem.ue = s.mem.ue
  rsv : ∀ w, w ∈ t.mem.rsvUe → w ∈ s.mem.rsvUe
  clk : t.reg (kClk 0) = s.reg (kClk 0)
theorem Good.refl (s : State) : Good s s := ⟨rfl, fun _ h => h, rfl⟩
theorem Good.trans {s t u : State} (h : Good s t) (k : Good t u) : Good s u :=
  ⟨k.ue.trans h.ue, fun w x => h.rsv w (k.rsv w x), k.clk.trans h.clk⟩
theorem Good.up {s t : State} (h : Good s t) (k : Nat) : t.stackUp k = s.stackUp k := by
  unfold State.stackUp State.bit; rw [h.clk]
theorem good_eq {s t : State} (h : t.mem.ue = s.mem.ue) (k : t.mem.rsvUe = s.mem.rsvUe) (c : t.reg (kClk 0) = s.reg (kClk 0)) :
    Good s t := ⟨h, fun w x => k ▸ x, c⟩
theorem clk_hbm (k : Nat) (o : Nat) (h : o < 0x1000) : kClk 0 ≠ kHbm k o := by unfold kClk kHbm kMem; omega
theorem clk_setReg (s : State) (k : Nat) (v : B32) (h : kClk 0 ≠ k) : (s.setReg k v).reg (kClk 0) = s.reg (kClk 0) :=
  (reg_setReg _ _ _ _).trans (if_neg h)
theorem clk_raise (s : State) (c : BitVec 16) (p : B64) : (s.raise c p).reg (kClk 0) = s.reg (kClk 0) := by
  unfold State.raise
  split
  · rfl
  · exact clk_setReg _ _ _ (by decide)
theorem clk_report (s : State) (e : BltEntry) : (s.report e).reg (kClk 0) = s.reg (kClk 0) := by
  unfold State.report
  split
  · exact clk_raise _ _ _
  · rfl
theorem clk_logged (s : State) (e : BltEntry) : (if s.go then s.bltStore e
    else if s.safety.bltHeld.length < 16 then { s with safety := { s.safety with bltHeld := s.safety.bltHeld ++ [e] } }
    else s).reg (kClk 0) = s.reg (kClk 0) := by
  repeat' (first | rfl | split)
theorem clk_fault (s : State) (e : BltEntry) : (s.fault e).reg (kClk 0) = s.reg (kClk 0) := by
  have hn : ∀ x : B32, (s.noteEpoch x).reg (kClk 0) = s.reg (kClk 0) := fun _ => rfl
  unfold State.fault
  dsimp only
  split
  · split
    · exact (clk_report _ _).trans ((clk_logged _ _).trans (hn _))
    · exact (clk_report _ _).trans (clk_logged _ _)
  · split
    · exact (clk_logged _ _).trans (hn _)
    · exact clk_logged _ _
theorem good_addSat (s : State) (k n : Nat) (h : kClk 0 ≠ k) : Good s (s.addSat k n) := good_eq rfl rfl (clk_setReg _ _ _ h)
theorem good_addFld (s : State) (k lo w n : Nat) (h : kClk 0 ≠ k) : Good s (s.addFld k lo w n) :=
  good_eq rfl rfl (clk_setReg _ _ _ h)
theorem good_queueRetire (s : State) (k p : Nat) : Good s (s.queueRetire k p) := by
  unfold State.queueRetire; simp only; split <;> exact good_eq rfl rfl rfl
theorem good_trackCe (s : State) (k p : Nat) : Good s (s.trackCe k p) := by
  unfold State.trackCe; simp only; split
  · refine Good.trans ?_ (good_queueRetire _ _ _)
    exact good_eq rfl rfl rfl
  · exact good_eq rfl rfl rfl
theorem good_uncorrectable (s : State) (k l p : Nat) (ep : Option (B32 × Nat)) : Good s (s.hbmUncorrectable k l p ep) := by
  unfold State.hbmUncorrectable
  refine Good.trans (good_addSat s (kHbm k 8) 1 (clk_hbm _ _ (by decide))) (Good.trans ?_ (good_queueRetire _ _ _))
  exact good_eq (by rw [hbm_fault, hbm_raise]) (by rw [hbm_fault, hbm_raise]) (by rw [clk_fault, clk_raise])
theorem good_corrected (s : State) (l k p : Nat) : Good s (({ s.addSat (kHbm k 4) 1 with mem :=
    { (s.addSat (kHbm k 4) 1).mem with ce := (s.addSat (kHbm k 4) 1).mem.ce.filter (· != l) } }).trackCe k p) := by
  refine Good.trans ?_ (good_trackCe _ _ _)
  exact good_eq rfl rfl (clk_setReg _ _ _ (clk_hbm _ _ (by decide)))
theorem good_hbmLine {s : State} {l : Nat} {ep : Option (B32 × Nat)} (h : l ∉ s.mem.ue) (hu : s.stackUp (stackOf l) = true) :
    (s.hbmLine l ep).2 = true ∧ Good s (s.hbmLine l ep).1 := by
  unfold State.hbmLine
  simp only [if_neg h, hu, Bool.not_true, Bool.false_eq_true, if_false]
  split
  · exact ⟨rfl, good_corrected _ _ _ _⟩
  · exact ⟨rfl, Good.refl _⟩
theorem good_rsvDrop (s : State) (a : Nat) : Good s (s.rsvDrop a) := ⟨rfl, fun w h => (List.mem_filter.1 h).1, rfl⟩
theorem good_rsvAlloc (s : State) (a : Nat) : Good s (s.rsvAlloc a) := by
  unfold State.rsvAlloc
  simp only
  split
  · exact good_eq rfl rfl rfl
  · split
    · exact Good.trans (good_rsvDrop _ _) (good_eq rfl rfl rfl)
    · exact Good.refl _
theorem good_anyLine (s : State) (l : Nat) (ep : Option (B32 × Nat)) : Good s (s.hbmLine l ep).1 := by
  unfold State.hbmLine
  simp only
  split
  · exact Good.refl _
  · split
    · exact good_uncorrectable _ _ _ _ _
    · split
      · exact good_corrected _ _ _ _
      · exact Good.refl _
theorem good_rsvFill (s : State) (l : Nat) : Good s (s.rsvFill l) := by
  unfold State.rsvFill
  simp only
  split
  · exact Good.trans (good_anyLine _ _ _) (good_rsvAlloc _ _)
  · exact good_anyLine _ _ _
theorem good_readLine {s : State} {a : Access} {l : Nat} {ep : Option (B32 × Nat)} (h : l ∉ s.mem.ue)
    (hu : s.stackUp (stackOf l) = true) (hr : ∀ w, w ∈ touched a.addr (a.addr + a.len) l → w ∉ s.mem.rsvUe) :
    (s.readLine a l ep).2 = true ∧ Good s (s.readLine a l ep).1 := by
  unfold State.readLine
  simp only
  split
  · exact good_hbmLine h hu
  · split
    · have he : (touched a.addr (a.addr + a.len) l).filter (fun w => s.mem.rsvUe.contains w) = [] := by
        rw [List.filter_eq_nil_iff]
        intro w hw
        simpa using hr w hw
      rw [he]
      simp only [List.isEmpty_nil, Bool.not_true, Bool.false_eq_true, if_false]
      split
      · exact ⟨rfl, Good.trans (good_addFld _ _ _ _ _ (by decide)) (good_rsvDrop _ _)⟩
      · exact ⟨rfl, good_eq rfl rfl rfl⟩
    · rw [if_pos (good_hbmLine h hu).1]
      exact ⟨rfl, Good.trans (good_hbmLine h hu).2 (good_rsvFill _ _)⟩
theorem good_readLines (a : Access) (ep : Option (B32 × Nat)) (ls : List Nat) : ∀ s : State, (∀ l ∈ ls, l ∉ s.mem.ue) →
    (∀ l ∈ ls, s.stackUp (stackOf l) = true) → (∀ l ∈ ls, ∀ w, w ∈ touched a.addr (a.addr + a.len) l → w ∉ s.mem.rsvUe) → (s.readLines a ep ls).2 = true := by
  induction ls with
  | nil => intro s _ _ _; rfl
  | cons l ls ih =>
    intro s h1 hu h2
    have hl := good_readLine (a := a) (ep := ep) (h1 l List.mem_cons_self) (hu l List.mem_cons_self) (h2 l List.mem_cons_self)
    unfold State.readLines
    simp only [hl.1, if_true]
    apply ih
    · intro m hm; rw [hl.2.ue]; exact h1 m (List.mem_cons_of_mem _ hm)
    · intro m hm; rw [hl.2.up]; exact hu m (List.mem_cons_of_mem _ hm)
    · intro m hm w hw hc; exact h2 m (List.mem_cons_of_mem _ hm) w hw (hl.2.rsv w hc)

/-- The interleave of the eight stacks undone (R357). -/
theorem xor3 : ∀ a b c : Fin 8, ((a.1 ^^^ b.1 ^^^ c.1) ^^^ b.1 ^^^ c.1) % 8 = a.1 ∧ (a.1 ^^^ b.1 ^^^ c.1) < 8 ∧ (a.1 ^^^ b.1 ^^^ c.1) ^^^ b.1 ^^^ c.1 = a.1 := by decide

end Sys2Proof.Machine
end

