-- ==== Sys2Proof/Laws/Kept.lean ====
section
/-!
SUPPORT. What every command keeps: the queue, the fuses but for a count that only rises, and the invariant. The relation is
reflexive and transitive, so each operation has one lemma, in the form that carries it from a state to the state after the
operation.
-/
namespace Sys2Proof.Machine

/-- `t` keeps the queue and the fuses of `s`, and the invariant where `s` has it. -/
structure Kept (s t : State) : Prop where
  pending : t.pending = s.pending
  fuses   : fusesKept s t
  inv     : Inv s → Inv t

/-- Every state that an optional result holds keeps what `s` has. -/
structure KeptO (s : State) (o : Option State) : Prop where
  out : ∀ t, o = some t → Kept s t

/-- Every next state of an outcome keeps what `s` has. -/
structure KeptX (s : State) (o : Host.Outcome State Fault Refusal) : Prop where
  out : ∀ t, o = .next t → Kept s t

/-- Storage that is in canonical form stays so. -/
structure KeepWf {α : Type} [DecidableEq α] (dflt : Nat → α) (m n : SMap α) : Prop where
  out : SMap.wf dflt m = true → SMap.wf dflt n = true

section
variable {α : Type} [DecidableEq α] {dflt : Nat → α} {m : SMap α}

theorem keepWf_refl : KeepWf dflt m m := ⟨id⟩
theorem keepWf_nil : KeepWf dflt m [] := ⟨fun _ => rfl⟩
theorem keepWf_set {k : Nat} {v : α} : KeepWf dflt m (SMap.set dflt m k v) := ⟨SMap.wf_set _ _ _ _⟩
theorem keepWf_filter {p : Nat × α → Bool} : KeepWf dflt m (m.filter p) := ⟨SMap.wf_filter _ _ _⟩
theorem keepWf_dropWhere {p : Nat → Bool} : KeepWf dflt m (SMap.dropWhere p m) := ⟨SMap.wf_dropWhere _ _ _⟩

end

theorem keepWf_write {m : Memory} {a : Nat} {b : Byte} : KeepWf Memory.blank m (m.write a b) := ⟨Memory.wf_write _ _ _⟩
theorem keepWf_writeBytes {m : Memory} {a : Nat} {bs : List Byte} : KeepWf Memory.blank m (m.writeBytes a bs) :=
  ⟨Memory.wf_writeBytes _ _ _⟩

/-- A store does not grow. -/
structure Shrinks {α : Type} (l m : List α) : Prop where
  out : m.length ≤ l.length

theorem shrinks_refl {α : Type} {l : List α} : Shrinks l l := ⟨le_refl _⟩
theorem shrinks_nil {α : Type} {l : List α} : Shrinks l [] := ⟨Nat.zero_le _⟩
theorem shrinks_filter {α : Type} {l : List α} {p : α → Bool} : Shrinks l (l.filter p) := ⟨List.length_filter_le _ _⟩
theorem shrinks_tail {α : Type} {l m : List α} {e : α} (h : l = e :: m) : Shrinks l m :=
  ⟨by rw [h]; exact Nat.le_succ _⟩

theorem insertBy_length {α : Type} (before : α → α → Bool) (x : α) (l : List α) :
    (insertBy before x l).length = l.length + 1 := by
  induction l with
  | nil => rfl
  | cons y ys ih => unfold insertBy; split <;> simp [ih]

theorem sortBy_length {α : Type} (before : α → α → Bool) (l : List α) : (sortBy before l).length = l.length := by
  induction l with
  | nil => rfl
  | cons x xs ih => simp [sortBy, insertBy_length, ih]

theorem fusesKept_refl (s : State) : fusesKept s s := ⟨rfl, BitVec.and_self⟩

theorem fusesKept_trans {s t u : State} (h : fusesKept s t) (k : fusesKept t u) : fusesKept s u := by
  refine ⟨?_, ?_⟩
  · rw [k.1, h.1]
  · rw [← h.2, BitVec.and_assoc, k.2]

theorem Kept.refl (s : State) : Kept s s := ⟨rfl, fusesKept_refl s, id⟩

theorem Kept.trans {s t u : State} (h : Kept s t) (k : Kept t u) : Kept s u :=
  ⟨k.pending.trans h.pending, fusesKept_trans h.fuses k.fuses, fun i => k.inv (h.inv i)⟩

/-- An update that keeps the bounded stores and the canonical form of what the invariant reads. -/
theorem kept_of_eq {s0 t u : State} (h : Kept s0 t)
    (e1 : u.pending = t.pending) (e2 : u.fuse = t.fuse)
    (e3 : Shrinks t.host.evHeld u.host.evHeld) (e4 : Shrinks t.safety.reports u.safety.reports)
    (e5 : Shrinks t.safety.bltHeld u.safety.bltHeld) (e6 : Shrinks t.power.samples u.power.samples)
    (e7 : KeepWf Memory.blank t.mem.hbm u.mem.hbm)
    (e8 : KeepWf Memory.blank t.boot.rcv u.boot.rcv)
    (e9 : KeepWf Memory.blank t.boot.sram u.boot.sram)
    (e10 : KeepWf Memory.erased t.boot.nor u.boot.nor)
    (e11 : KeepWf regReset t.regs u.regs) : Kept s0 u := by
  refine h.trans ⟨e1, ⟨?_, ?_⟩, fun i => ⟨?_, ?_, ?_, ?_, ?_, ?_, ?_, ?_, ?_⟩⟩
  · rw [e2]
  · rw [e2, BitVec.and_self]
  · exact e3.out.trans i.events
  · exact e4.out.trans i.reports
  · exact e5.out.trans i.held
  · exact e6.out.trans i.samples
  · exact e7.out i.hbm
  · exact e8.out i.rcv
  · exact e9.out i.sram
  · exact e10.out i.nor
  · exact e11.out i.regs

/-- The same for a state written out as a record. -/
theorem kept_mk {s0 t : State} {pe : List Instr} {re : SMap B32} {la : SMap (Option B32)} {rb : B32} {el : B64}
    {ti : BitVec 88} {fr : Nat} {fu : Fuse} {pi : Pins} {bo : Boot} {sa : Safety} {ho : HostIf} {fw : Firmware}
    {po : SMap Port} {cr : SMap CrcUnit} {sh : SMap ShaEng} {pw : Power} {me : MemSys} {pp : SMap Pipe} {bk : SMap Book}
    {co : Commit} {tl : SMap Tile} {cl : SMap Cluster} {tm : SMap (Option Nat)} {st : SMap Engine} {sp : SMap Engine}
    {ca : Cam} {vi : Vid} {as_ : Aster}
    (e1 : pe = t.pending) (h : Kept s0 t) (e2 : fu = t.fuse) (e3 : Shrinks t.host.evHeld ho.evHeld)
    (e4 : Shrinks t.safety.reports sa.reports) (e5 : Shrinks t.safety.bltHeld sa.bltHeld) (e6 : Shrinks t.power.samples pw.samples)
    (e7 : KeepWf Memory.blank t.mem.hbm me.hbm)
    (e8 : KeepWf Memory.blank t.boot.rcv bo.rcv)
    (e9 : KeepWf Memory.blank t.boot.sram bo.sram)
    (e10 : KeepWf Memory.erased t.boot.nor bo.nor)
    (e11 : KeepWf regReset t.regs re) :
    Kept s0 (State.mk pe re la rb el ti fr fu pi bo sa ho fw po cr sh pw me pp bk co tl cl tm st sp ca vi as_) :=
  kept_of_eq h e1 e2 e3 e4 e5 e6 e7 e8 e9 e10 e11

theorem keptO_none (s0 : State) : KeptO s0 none := ⟨fun _ h => nomatch h⟩

theorem keptO_some {s0 t : State} (h : Kept s0 t) : KeptO s0 (some t) := ⟨fun _ e => Option.some.inj e ▸ h⟩

theorem keptO_map {s0 : State} {f : State → State} {o : Option State} (ho : KeptO s0 o)
    (hf : ∀ t, Kept s0 t → Kept s0 (f t)) : KeptO s0 (o.map f) := by
  refine ⟨fun t h => ?_⟩
  cases o with
  | none => cases h
  | some a => exact Option.some.inj h ▸ hf a (ho.out a rfl)

theorem keptO_mapOf {β : Type} {s0 : State} {f : β → State} {o : Option β} (hf : ∀ b, Kept s0 (f b)) :
    KeptO s0 (o.map f) := by
  refine ⟨fun t h => ?_⟩
  cases o with
  | none => cases h
  | some a => exact Option.some.inj h ▸ hf a

theorem keptO_pair {γ : Type} {s0 : State} {p : State × γ} (h : Kept s0 p.1) : KeptO s0 ((some p).map Prod.fst) :=
  keptO_some h

theorem keptO_noneFst {γ : Type} (s0 : State) : KeptO s0 ((none : Option (State × γ)).map Prod.fst) := keptO_none s0

theorem keptO_iteFst {γ : Type} {s0 : State} {a b : Option (State × γ)} {c : Prop} {_ : Decidable c}
    (ha : KeptO s0 (a.map Prod.fst)) (hb : KeptO s0 (b.map Prod.fst)) : KeptO s0 ((if c then a else b).map Prod.fst) := by
  split
  · exact ha
  · exact hb

theorem keptO_of {γ : Type} {s0 : State} {o : Option (State × γ)} {r : State × γ} (ho : KeptO s0 (o.map Prod.fst))
    (e : o = some r) : Kept s0 r.1 := ho.out r.1 (by rw [e]; rfl)

theorem keptO_mapFst {γ : Type} {s0 : State} {f : State × γ → State} {o : Option (State × γ)}
    (ho : KeptO s0 (o.map Prod.fst)) (hf : ∀ x, Kept s0 x.1 → Kept s0 (f x)) : KeptO s0 (o.map f) := by
  refine ⟨fun t h => ?_⟩
  cases o with
  | none => cases h
  | some a => exact Option.some.inj h ▸ hf a (keptO_of ho rfl)

theorem keptX_attempt {s0 s : State} {o : Option State} (hs : Kept s0 s) (ho : KeptO s0 o) : KeptX s0 (attempt o s) := by
  refine ⟨fun t h => ?_⟩
  cases o with
  | none => exact Host.Outcome.next.inj h ▸ hs
  | some a => exact Host.Outcome.next.inj h ▸ ho.out a rfl

theorem kept_pair {γ : Type} {s0 t : State} {y : γ} (h : Kept s0 t) : Kept s0 (t, y).1 := h

theorem kept_ite {s0 a b : State} {c : Prop} {_ : Decidable c} (ha : Kept s0 a) (hb : Kept s0 b) :
    Kept s0 (if c then a else b) := by
  split
  · exact ha
  · exact hb

theorem kept_ite_fst {γ : Type} {s0 : State} {a b : State × γ} {c : Prop} {_ : Decidable c} (ha : Kept s0 a.1)
    (hb : Kept s0 b.1) : Kept s0 (if c then a else b).1 := by
  split
  · exact ha
  · exact hb

theorem keptO_ite {s0 : State} {a b : Option State} {c : Prop} {_ : Decidable c} (ha : KeptO s0 a) (hb : KeptO s0 b) :
    KeptO s0 (if c then a else b) := by
  split
  · exact ha
  · exact hb

theorem kept_foldl {β : Type} {s0 : State} {f : State → β → State} (l : List β)
    (hf : ∀ t x, Kept s0 t → Kept s0 (f t x)) : ∀ {s : State}, Kept s0 s → Kept s0 (l.foldl f s) := by
  induction l with
  | nil => exact id
  | cons x l ih => exact fun h => ih (hf _ x h)

theorem kept_foldl_fst {β γ : Type} {s0 : State} {f : State × γ → β → State × γ} (l : List β)
    (hf : ∀ t x, Kept s0 t.1 → Kept s0 (f t x).1) : ∀ {a : State × γ}, Kept s0 a.1 → Kept s0 (l.foldl f a).1 := by
  induction l with
  | nil => exact id
  | cons x l ih => exact fun h => ih (hf _ x h)

theorem kept_foldr {β : Type} {s0 : State} {f : β → State → State} {s : State} (l : List β)
    (hf : ∀ x t, Kept s0 t → Kept s0 (f x t)) (h : Kept s0 s) : Kept s0 (l.foldr f s) := by
  induction l with
  | nil => exact h
  | cons x l ih => exact hf x _ ih

/-! ## The operations that write what the invariant reads -/

theorem kept_setReg {s0 s : State} {k : Nat} {v : B32} (h : Kept s0 s) : Kept s0 (s.setReg k v) :=
  h.trans ⟨rfl, ⟨rfl, BitVec.and_self⟩, fun i =>
    ⟨i.events, i.reports, i.held, i.samples, i.hbm, i.rcv, i.sram, i.nor, SMap.wf_set _ _ _ _ i.regs⟩⟩

theorem kept_raise {s0 s : State} {c : BitVec 16} {p : B64} (h : Kept s0 s) : Kept s0 (s.raise c p) := by
  unfold State.raise
  split
  · rename_i hl
    refine h.trans ⟨rfl, ⟨rfl, BitVec.and_self⟩, fun i =>
      ⟨?_, i.reports, i.held, i.samples, i.hbm, i.rcv, i.sram, i.nor, i.regs⟩⟩
    show (s.host.evHeld ++ [_]).length ≤ 256
    rw [List.length_append]
    exact hl
  · exact kept_setReg (kept_mk rfl h rfl shrinks_refl shrinks_refl shrinks_refl shrinks_refl
      keepWf_refl keepWf_refl keepWf_refl keepWf_refl keepWf_refl)

theorem kept_bltStore {s0 s : State} {e : BltEntry} (h : Kept s0 s) : Kept s0 (s.bltStore e) :=
  h.trans ⟨rfl, ⟨rfl, BitVec.and_self⟩, fun i =>
    ⟨i.events, i.reports, i.held, i.samples, i.hbm, Memory.wf_writeBytes _ _ _ i.rcv, i.sram, i.nor, i.regs⟩⟩

theorem kept_report {s0 s : State} {e : BltEntry} (h : Kept s0 s) : Kept s0 (s.report e) := by
  unfold State.report
  split
  · rename_i hl
    refine kept_raise (h.trans ⟨rfl, ⟨rfl, BitVec.and_self⟩, fun i =>
      ⟨i.events, ?_, i.held, i.samples, i.hbm, i.rcv, i.sram, i.nor, i.regs⟩⟩)
    show (s.safety.reports ++ [e]).length ≤ 64
    rw [List.length_append]
    exact hl
  · exact kept_mk rfl h rfl shrinks_refl shrinks_refl shrinks_refl shrinks_refl
      keepWf_refl keepWf_refl keepWf_refl keepWf_refl keepWf_refl

theorem kept_noteEpoch {s0 s : State} {e : B32} (h : Kept s0 s) : Kept s0 (s.noteEpoch e) := by
  unfold State.noteEpoch
  exact kept_mk rfl h rfl shrinks_refl shrinks_refl shrinks_refl shrinks_refl
    keepWf_refl keepWf_refl keepWf_refl keepWf_refl keepWf_refl

/-- An entry stored, held back before go, or lost. -/
theorem kept_logged {s0 s : State} (h : Kept s0 s) (e' : BltEntry) : Kept s0 (if s.go then s.bltStore e'
      else if s.safety.bltHeld.length < 16 then
        { s with safety := { s.safety with bltHeld := s.safety.bltHeld ++ [e'] } }
      else s) := by
  split
  · exact kept_bltStore h
  · split
    · rename_i hl
      refine h.trans ⟨rfl, ⟨rfl, BitVec.and_self⟩, fun i =>
        ⟨i.events, i.reports, ?_, i.samples, i.hbm, i.rcv, i.sram, i.nor, i.regs⟩⟩
      show (s.safety.bltHeld ++ [_]).length ≤ 16
      rw [List.length_append]
      exact hl
    · exact h

theorem kept_fault {s0 s : State} {e : BltEntry} (h : Kept s0 s) : Kept s0 (s.fault e) := by
  have h1 : Kept s0 (match e.epoch with
    | some x => s.noteEpoch x.1
    | none => s) := by
    split
    · exact kept_noteEpoch h
    · exact h
  unfold State.fault
  dsimp only
  split
  · exact kept_report (kept_logged h1 _)
  · exact kept_logged h1 _

end Sys2Proof.Machine
end

