-- ==== Sys2Proof/Laws/KeptMemory.lean ====
section
/-!
SUPPORT. What the state keeps (`Kept`): the operations on registers, memory, links, credits and host structures, and the commands of these files.
One lemma for each operation and each command: its next state keeps the queue, the fuses and the invariant.
-/
namespace Sys2Proof.Machine

/-! ## Ops -/

theorem kept_setFld {s0 : State} {s : State} {k : Nat} {lo : Nat} {w : Nat} {v : Nat} (h : Kept s0 s) :
    Kept s0 (State.setFld s k lo w v) := by
  unfold State.setFld
  repeat' first
    | with_reducible assumption
    | with_reducible apply kept_setReg

theorem kept_setBit {s0 : State} {s : State} {k : Nat} {i : Nat} {b : Bool} (h : Kept s0 s) :
    Kept s0 (State.setBit s k i b) := by
  unfold State.setBit
  repeat' first
    | with_reducible assumption
    | with_reducible apply kept_setFld

theorem kept_addSat {s0 : State} {s : State} {k : Nat} {n : Nat} (h : Kept s0 s) :
    Kept s0 (State.addSat s k n) := by
  unfold State.addSat
  repeat' first
    | with_reducible assumption
    | with_reducible apply kept_setReg

theorem kept_addWrap {s0 : State} {s : State} {k : Nat} {n : Nat} (h : Kept s0 s) :
    Kept s0 (State.addWrap s k n) := by
  unfold State.addWrap
  repeat' first
    | with_reducible assumption
    | with_reducible apply kept_setReg

theorem kept_addFld {s0 : State} {s : State} {k : Nat} {lo : Nat} {w : Nat} {n : Nat} (h : Kept s0 s) :
    Kept s0 (State.addFld s k lo w n) := by
  unfold State.addFld
  repeat' first
    | with_reducible assumption
    | with_reducible apply kept_setFld

theorem kept_setReg64 {s0 : State} {s : State} {k : Nat} {v : B64} (h : Kept s0 s) :
    Kept s0 (State.setReg64 s k v) := by
  unfold State.setReg64
  repeat' first
    | with_reducible assumption
    | with_reducible apply kept_setReg

theorem kept_add64 {s0 : State} {s : State} {k : Nat} {n : Nat} (h : Kept s0 s) :
    Kept s0 (State.add64 s k n) := by
  unfold State.add64
  repeat' first
    | with_reducible assumption
    | with_reducible apply kept_setReg64

theorem kept_setDie {s0 : State} {s : State} {d : Nat} {v : DieClock} (h : Kept s0 s) :
    Kept s0 (State.setDie s d v) := by
  unfold State.setDie
  repeat' first
    | with_reducible assumption
    | with_reducible rfl
    | dsimp only
    | with_reducible exact shrinks_refl
    | with_reducible exact keepWf_refl
    | exact keepWf_refl
    | exact shrinks_refl
    | with_reducible exact shrinks_tail (by assumption)
    | with_reducible refine kept_mk rfl ?_ ?_ ?_ ?_ ?_ ?_ ?_ ?_ ?_ ?_ ?_

theorem kept_setTile {s0 : State} {s : State} {t : Nat} {v : Tile} (h : Kept s0 s) :
    Kept s0 (State.setTile s t v) := by
  unfold State.setTile
  repeat' first
    | with_reducible assumption
    | with_reducible rfl
    | dsimp only
    | with_reducible exact shrinks_refl
    | with_reducible exact keepWf_refl
    | exact keepWf_refl
    | exact shrinks_refl
    | with_reducible exact shrinks_tail (by assumption)
    | with_reducible refine kept_mk rfl ?_ ?_ ?_ ?_ ?_ ?_ ?_ ?_ ?_ ?_ ?_

theorem kept_setCluster {s0 : State} {s : State} {c : Nat} {v : Cluster} (h : Kept s0 s) :
    Kept s0 (State.setCluster s c v) := by
  unfold State.setCluster
  repeat' first
    | with_reducible assumption
    | with_reducible rfl
    | dsimp only
    | with_reducible exact shrinks_refl
    | with_reducible exact keepWf_refl
    | exact keepWf_refl
    | exact shrinks_refl
    | with_reducible exact shrinks_tail (by assumption)
    | with_reducible refine kept_mk rfl ?_ ?_ ?_ ?_ ?_ ?_ ?_ ?_ ?_ ?_ ?_

theorem kept_setPipe {s0 : State} {s : State} {p : Nat} {v : Pipe} (h : Kept s0 s) :
    Kept s0 (State.setPipe s p v) := by
  unfold State.setPipe
  repeat' first
    | with_reducible assumption
    | with_reducible rfl
    | dsimp only
    | with_reducible exact shrinks_refl
    | with_reducible exact keepWf_refl
    | exact keepWf_refl
    | exact shrinks_refl
    | with_reducible exact shrinks_tail (by assumption)
    | with_reducible refine kept_mk rfl ?_ ?_ ?_ ?_ ?_ ?_ ?_ ?_ ?_ ?_ ?_

theorem kept_setBook {s0 : State} {s : State} {k : Nat} {v : Book} (h : Kept s0 s) :
    Kept s0 (State.setBook s k v) := by
  unfold State.setBook
  repeat' first
    | with_reducible assumption
    | with_reducible rfl
    | dsimp only
    | with_reducible exact shrinks_refl
    | with_reducible exact keepWf_refl
    | exact keepWf_refl
    | exact shrinks_refl
    | with_reducible exact shrinks_tail (by assumption)
    | with_reducible refine kept_mk rfl ?_ ?_ ?_ ?_ ?_ ?_ ?_ ?_ ?_ ?_ ?_

theorem kept_setPort {s0 : State} {s : State} {p : Nat} {v : Port} (h : Kept s0 s) :
    Kept s0 (State.setPort s p v) := by
  unfold State.setPort
  repeat' first
    | with_reducible assumption
    | with_reducible rfl
    | dsimp only
    | with_reducible exact shrinks_refl
    | with_reducible exact keepWf_refl
    | exact keepWf_refl
    | exact shrinks_refl
    | with_reducible exact shrinks_tail (by assumption)
    | with_reducible refine kept_mk rfl ?_ ?_ ?_ ?_ ?_ ?_ ?_ ?_ ?_ ?_ ?_

theorem kept_setIring {s0 : State} {s : State} {i : Nat} {v : IRing} (h : Kept s0 s) :
    Kept s0 (State.setIring s i v) := by
  unfold State.setIring
  repeat' first
    | with_reducible assumption
    | with_reducible rfl
    | dsimp only
    | with_reducible exact shrinks_refl
    | with_reducible exact keepWf_refl
    | exact keepWf_refl
    | exact shrinks_refl
    | with_reducible exact shrinks_tail (by assumption)
    | with_reducible refine kept_mk rfl ?_ ?_ ?_ ?_ ?_ ?_ ?_ ?_ ?_ ?_ ?_

theorem kept_setRring {s0 : State} {s : State} {j : Nat} {v : RRing} (h : Kept s0 s) :
    Kept s0 (State.setRring s j v) := by
  unfold State.setRring
  repeat' first
    | with_reducible assumption
    | with_reducible rfl
    | dsimp only
    | with_reducible exact shrinks_refl
    | with_reducible exact keepWf_refl
    | exact keepWf_refl
    | exact shrinks_refl
    | with_reducible exact shrinks_tail (by assumption)
    | with_reducible refine kept_mk rfl ?_ ?_ ?_ ?_ ?_ ?_ ?_ ?_ ?_ ?_ ?_

theorem kept_setCrc {s0 : State} {s : State} {u : Nat} {v : CrcUnit} (h : Kept s0 s) :
    Kept s0 (State.setCrc s u v) := by
  unfold State.setCrc
  repeat' first
    | with_reducible assumption
    | with_reducible rfl
    | dsimp only
    | with_reducible exact shrinks_refl
    | with_reducible exact keepWf_refl
    | exact keepWf_refl
    | exact shrinks_refl
    | with_reducible exact shrinks_tail (by assumption)
    | with_reducible refine kept_mk rfl ?_ ?_ ?_ ?_ ?_ ?_ ?_ ?_ ?_ ?_ ?_

theorem kept_setSha {s0 : State} {s : State} {e : Nat} {v : ShaEng} (h : Kept s0 s) :
    Kept s0 (State.setSha s e v) := by
  unfold State.setSha
  repeat' first
    | with_reducible assumption
    | with_reducible rfl
    | dsimp only
    | with_reducible exact shrinks_refl
    | with_reducible exact keepWf_refl
    | exact keepWf_refl
    | exact shrinks_refl
    | with_reducible exact shrinks_tail (by assumption)
    | with_reducible refine kept_mk rfl ?_ ?_ ?_ ?_ ?_ ?_ ?_ ?_ ?_ ?_ ?_

theorem kept_setStack {s0 : State} {s : State} {k : Nat} {v : Stack} (h : Kept s0 s) :
    Kept s0 (State.setStack s k v) := by
  unfold State.setStack
  repeat' first
    | with_reducible assumption
    | with_reducible rfl
    | dsimp only
    | with_reducible exact shrinks_refl
    | with_reducible exact keepWf_refl
    | exact keepWf_refl
    | exact shrinks_refl
    | with_reducible exact shrinks_tail (by assumption)
    | with_reducible refine kept_mk rfl ?_ ?_ ?_ ?_ ?_ ?_ ?_ ?_ ?_ ?_ ?_

theorem kept_setRail {s0 : State} {s : State} {k : Nat} {v : Rail} (h : Kept s0 s) :
    Kept s0 (State.setRail s k v) := by
  unfold State.setRail
  repeat' first
    | with_reducible assumption
    | with_reducible rfl
    | dsimp only
    | with_reducible exact shrinks_refl
    | with_reducible exact keepWf_refl
    | exact keepWf_refl
    | exact shrinks_refl
    | with_reducible exact shrinks_tail (by assumption)
    | with_reducible refine kept_mk rfl ?_ ?_ ?_ ?_ ?_ ?_ ?_ ?_ ?_ ?_ ?_

theorem kept_setSensor {s0 : State} {s : State} {i : Nat} {v : Sensor} (h : Kept s0 s) :
    Kept s0 (State.setSensor s i v) := by
  unfold State.setSensor
  repeat' first
    | with_reducible assumption
    | with_reducible rfl
    | dsimp only
    | with_reducible exact shrinks_refl
    | with_reducible exact keepWf_refl
    | exact keepWf_refl
    | exact shrinks_refl
    | with_reducible exact shrinks_tail (by assumption)
    | with_reducible refine kept_mk rfl ?_ ?_ ?_ ?_ ?_ ?_ ?_ ?_ ?_ ?_ ?_

theorem kept_setStem {s0 : State} {s : State} {c : Nat} {v : Engine} (h : Kept s0 s) :
    Kept s0 (State.setStem s c v) := by
  unfold State.setStem
  repeat' first
    | with_reducible assumption
    | with_reducible rfl
    | dsimp only
    | with_reducible exact shrinks_refl
    | with_reducible exact keepWf_refl
    | exact keepWf_refl
    | exact shrinks_refl
    | with_reducible exact shrinks_tail (by assumption)
    | with_reducible refine kept_mk rfl ?_ ?_ ?_ ?_ ?_ ?_ ?_ ?_ ?_ ?_ ?_

theorem kept_setSpc {s0 : State} {s : State} {d : Nat} {v : Engine} (h : Kept s0 s) :
    Kept s0 (State.setSpc s d v) := by
  unfold State.setSpc
  repeat' first
    | with_reducible assumption
    | with_reducible rfl
    | dsimp only
    | with_reducible exact shrinks_refl
    | with_reducible exact keepWf_refl
    | exact keepWf_refl
    | exact shrinks_refl
    | with_reducible exact shrinks_tail (by assumption)
    | with_reducible refine kept_mk rfl ?_ ?_ ?_ ?_ ?_ ?_ ?_ ?_ ?_ ?_ ?_

theorem kept_tryService {s0 : State} {s : State} (h : Kept s0 s) :
    Kept s0 (State.tryService s) := by
  unfold State.tryService
  repeat' first
    | with_reducible assumption
    | with_reducible rfl
    | with_reducible apply kept_setBit
    | with_reducible apply kept_raise
    | dsimp only
    | with_reducible apply kept_ite
    | with_reducible apply kept_ite_fst
    | with_reducible exact shrinks_refl
    | with_reducible exact keepWf_refl
    | exact keepWf_refl
    | exact shrinks_refl
    | with_reducible exact shrinks_tail (by assumption)
    | with_reducible refine kept_mk rfl ?_ ?_ ?_ ?_ ?_ ?_ ?_ ?_ ?_ ?_ ?_

theorem kept_postLocal {s0 : State} {s : State} {addr : B64} {data : List Byte} (h : Kept s0 s) :
    Kept s0 (State.postLocal s addr data) := by
  unfold State.postLocal
  repeat' first
    | with_reducible assumption
    | with_reducible rfl
    | dsimp only
    | with_reducible apply kept_ite
    | with_reducible apply kept_ite_fst
    | with_reducible exact shrinks_refl
    | with_reducible exact keepWf_refl
    | with_reducible exact shrinks_nil
    | exact keepWf_refl
    | exact shrinks_refl
    | with_reducible exact shrinks_tail (by assumption)
    | with_reducible refine kept_mk rfl ?_ ?_ ?_ ?_ ?_ ?_ ?_ ?_ ?_ ?_ ?_

theorem kept_showExhaust {s0 : State} {s : State} {cls : Nat} {unit : Nat} (h : Kept s0 s) :
    Kept s0 (State.showExhaust s cls unit) := by
  unfold State.showExhaust
  repeat' first
    | with_reducible assumption
    | with_reducible rfl
    | with_reducible apply kept_setBit
    | with_reducible apply kept_raise
    | dsimp only
    | with_reducible exact shrinks_refl
    | with_reducible exact keepWf_refl
    | with_reducible exact shrinks_nil
    | exact keepWf_refl
    | exact shrinks_refl
    | with_reducible exact shrinks_tail (by assumption)
    | with_reducible refine kept_mk rfl ?_ ?_ ?_ ?_ ?_ ?_ ?_ ?_ ?_ ?_ ?_

theorem kept_exhaust {s0 : State} {s : State} {cls : Nat} {unit : Nat} (h : Kept s0 s) :
    Kept s0 (State.exhaust s cls unit) := by
  unfold State.exhaust
  repeat' first
    | with_reducible assumption
    | with_reducible rfl
    | with_reducible apply kept_showExhaust
    | dsimp only
    | with_reducible apply kept_ite
    | with_reducible apply kept_ite_fst
    | with_reducible exact shrinks_refl
    | with_reducible exact keepWf_refl
    | with_reducible exact shrinks_nil
    | exact keepWf_refl
    | exact shrinks_refl
    | with_reducible exact shrinks_tail (by assumption)
    | with_reducible refine kept_mk rfl ?_ ?_ ?_ ?_ ?_ ?_ ?_ ?_ ?_ ?_ ?_

theorem kept_byCode {s0 s1 s : State} (h : Kept s0 s) : Kept s0 (State.byCode s1 s) := by
  unfold State.byCode
  refine kept_mk rfl h rfl ⟨?_⟩ shrinks_refl shrinks_refl shrinks_refl keepWf_refl keepWf_refl keepWf_refl keepWf_refl keepWf_refl
  rw [List.length_append, sortBy_length, ← List.length_append, List.take_append_drop]

theorem kept_halt {s0 : State} {s : State} {code : Nat} (h : Kept s0 s) :
    Kept s0 (State.halt s code) := by
  unfold State.halt
  repeat' first
    | with_reducible assumption
    | with_reducible rfl
    | with_reducible apply kept_setBit
    | with_reducible apply kept_setFld
    | dsimp only
    | with_reducible exact shrinks_refl
    | with_reducible exact keepWf_refl
    | exact keepWf_refl
    | exact shrinks_refl
    | with_reducible exact shrinks_tail (by assumption)
    | with_reducible refine kept_mk rfl ?_ ?_ ?_ ?_ ?_ ?_ ?_ ?_ ?_ ?_ ?_

/-! ## Mem -/

theorem kept_violation {s0 : State} {s : State} {rq : Requester} {write : Bool} {addr : Nat} {v : Verdict} (h : Kept s0 s) :
    Kept s0 (State.violation s rq write addr v) := by
  unfold State.violation
  repeat' first
    | with_reducible assumption
    | with_reducible apply kept_addFld
    | with_reducible apply kept_setReg
    | with_reducible apply kept_raise
    | dsimp only
    | with_reducible apply kept_ite

theorem kept_queueRetire {s0 : State} {s : State} {k : Nat} {page : Nat} (h : Kept s0 s) :
    Kept s0 (State.queueRetire s k page) := by
  unfold State.queueRetire
  repeat' first
    | with_reducible assumption
    | with_reducible apply kept_setStack
    | dsimp only
    | with_reducible apply kept_ite

theorem kept_trackCe {s0 : State} {s : State} {k : Nat} {page : Nat} (h : Kept s0 s) :
    Kept s0 (State.trackCe s k page) := by
  unfold State.trackCe
  repeat' first
    | with_reducible assumption
    | with_reducible apply kept_queueRetire
    | with_reducible apply kept_setStack
    | dsimp only
    | with_reducible intro _
    | with_reducible apply kept_ite

theorem kept_hbmUncorrectable {s0 : State} {s : State} {k : Nat} {line : Nat} {page : Nat} {ep : Option (B32 × Nat)} (h : Kept s0 s) :
    Kept s0 (State.hbmUncorrectable s k line page ep) := by
  unfold State.hbmUncorrectable
  repeat' first
    | with_reducible assumption
    | with_reducible apply kept_queueRetire
    | with_reducible apply kept_addSat
    | with_reducible apply kept_fault
    | with_reducible apply kept_raise

theorem kept_hbmLine {s0 : State} {s : State} {line : Nat} {ep : Option (B32 × Nat)} (h : Kept s0 s) :
    Kept s0 (State.hbmLine s line ep).1 := by
  unfold State.hbmLine
  repeat' first
    | with_reducible assumption
    | with_reducible rfl
    | with_reducible apply kept_hbmUncorrectable
    | with_reducible apply kept_trackCe
    | with_reducible apply kept_addSat
    | dsimp only
    | with_reducible apply kept_ite
    | with_reducible apply kept_ite_fst
    | with_reducible exact shrinks_refl
    | with_reducible exact keepWf_refl
    | with_reducible exact keepWf_filter
    | with_reducible exact shrinks_filter
    | exact keepWf_refl
    | exact shrinks_refl
    | with_reducible exact shrinks_tail (by assumption)
    | with_reducible refine kept_mk rfl ?_ ?_ ?_ ?_ ?_ ?_ ?_ ?_ ?_ ?_ ?_

theorem kept_setRsv {s0 : State} {s : State} {a : Nat} {l : List RsvLine} (h : Kept s0 s) :
    Kept s0 (State.setRsv s a l) := by
  unfold State.setRsv
  repeat' first
    | with_reducible assumption
    | with_reducible rfl
    | dsimp only
    | with_reducible exact shrinks_refl
    | with_reducible exact keepWf_refl
    | exact keepWf_refl
    | exact shrinks_refl
    | with_reducible exact shrinks_tail (by assumption)
    | with_reducible refine kept_mk rfl ?_ ?_ ?_ ?_ ?_ ?_ ?_ ?_ ?_ ?_ ?_

theorem kept_rsvTouch {s0 : State} {s : State} {a : Nat} (h : Kept s0 s) :
    Kept s0 (State.rsvTouch s a) := by
  unfold State.rsvTouch
  repeat' first
    | with_reducible assumption
    | with_reducible apply kept_setRsv

theorem kept_rsvDrop {s0 : State} {s : State} {a : Nat} (h : Kept s0 s) :
    Kept s0 (State.rsvDrop s a) := by
  unfold State.rsvDrop
  repeat' first
    | with_reducible assumption
    | with_reducible rfl
    | with_reducible apply kept_setRsv
    | dsimp only
    | with_reducible exact shrinks_refl
    | with_reducible exact keepWf_refl
    | with_reducible exact keepWf_filter
    | with_reducible exact shrinks_filter
    | exact keepWf_refl
    | exact shrinks_refl
    | with_reducible exact shrinks_tail (by assumption)
    | with_reducible refine kept_mk rfl ?_ ?_ ?_ ?_ ?_ ?_ ?_ ?_ ?_ ?_ ?_

theorem kept_rsvAlloc {s0 : State} {s : State} {a : Nat} (h : Kept s0 s) :
    Kept s0 (State.rsvAlloc s a) := by
  unfold State.rsvAlloc
  repeat' first
    | with_reducible assumption
    | with_reducible apply kept_rsvDrop
    | with_reducible apply kept_setRsv
    | dsimp only
    | split

theorem kept_rsvFill {s0 : State} {s : State} {line : Nat} (h : Kept s0 s) :
    Kept s0 (State.rsvFill s line) := by
  unfold State.rsvFill
  repeat' first
    | with_reducible assumption
    | with_reducible apply kept_rsvAlloc
    | with_reducible apply kept_hbmLine
    | dsimp only
    | with_reducible apply kept_ite

theorem kept_readLine {s0 : State} {s : State} {a : Access} {line : Nat} {ep : Option (B32 × Nat)} (h : Kept s0 s) :
    Kept s0 (State.readLine s a line ep).1 := by
  unfold State.readLine
  repeat' first
    | with_reducible assumption
    | with_reducible apply kept_rsvFill
    | with_reducible apply kept_rsvDrop
    | with_reducible apply kept_rsvTouch
    | with_reducible apply kept_hbmLine
    | with_reducible apply kept_addFld
    | with_reducible apply kept_fault
    | dsimp only
    | with_reducible apply kept_ite
    | with_reducible apply kept_ite_fst

theorem kept_readLines {s0 : State} {s : State} {a : Access} {ep : Option (B32 × Nat)} {a3 : List Nat} (h : Kept s0 s) :
    Kept s0 (State.readLines s a ep a3).1 := by
  induction a3 generalizing s a ep with
  | nil =>
    unfold State.readLines
    repeat' first
      | with_reducible assumption
  | cons x l ih =>
    unfold State.readLines
    repeat' first
      | with_reducible apply ih
      | with_reducible assumption
      | with_reducible apply kept_readLine
      | dsimp only
      | with_reducible apply kept_ite
      | with_reducible apply kept_ite_fst

theorem kept_mergeReads {s0 : State} {s : State} {ep : Option (B32 × Nat)} {a2 : List Nat} (h : Kept s0 s) :
    Kept s0 (State.mergeReads s ep a2).1 := by
  induction a2 generalizing s ep with
  | nil =>
    unfold State.mergeReads
    repeat' first
      | with_reducible assumption
  | cons x l ih =>
    unfold State.mergeReads
    repeat' first
      | with_reducible apply ih
      | with_reducible assumption
      | with_reducible apply kept_hbmLine
      | dsimp only
      | with_reducible apply kept_ite
      | with_reducible apply kept_ite_fst

theorem kept_rsvWrite {s0 : State} {s : State} {lo : Nat} {hi : Nat} {line : Nat} (h : Kept s0 s) :
    Kept s0 (State.rsvWrite s lo hi line) := by
  unfold State.rsvWrite
  repeat' first
    | with_reducible assumption
    | with_reducible rfl
    | with_reducible apply kept_rsvFill
    | with_reducible apply kept_rsvDrop
    | with_reducible apply kept_rsvTouch
    | with_reducible apply kept_addFld
    | dsimp only
    | with_reducible apply kept_ite
    | with_reducible apply kept_ite_fst
    | with_reducible exact shrinks_refl
    | with_reducible exact keepWf_refl
    | with_reducible exact keepWf_filter
    | with_reducible exact shrinks_filter
    | exact keepWf_refl
    | exact shrinks_refl
    | with_reducible exact shrinks_tail (by assumption)
    | with_reducible refine kept_mk rfl ?_ ?_ ?_ ?_ ?_ ?_ ?_ ?_ ?_ ?_ ?_

theorem kept_hbmWrite {s0 : State} {s : State} {a : Access} {ep : Option (B32 × Nat)} (h : Kept s0 s) :
    Kept s0 (State.hbmWrite s a ep).1 := by
  unfold State.hbmWrite
  repeat' first
    | with_reducible assumption
    | with_reducible rfl
    | with_reducible apply kept_rsvWrite
    | with_reducible apply kept_mergeReads
    | dsimp only
    | with_reducible intro _
    | with_reducible apply kept_foldl
    | with_reducible apply kept_foldl_fst
    | with_reducible apply kept_ite
    | with_reducible apply kept_ite_fst
    | with_reducible exact shrinks_refl
    | with_reducible exact keepWf_refl
    | with_reducible exact keepWf_writeBytes
    | with_reducible exact keepWf_filter
    | with_reducible exact shrinks_filter
    | exact keepWf_refl
    | exact shrinks_refl
    | with_reducible exact shrinks_tail (by assumption)
    | with_reducible refine kept_mk rfl ?_ ?_ ?_ ?_ ?_ ?_ ?_ ?_ ?_ ?_ ?_

theorem kept_hbmRead {s0 : State} {s : State} {a : Access} {ep : Option (B32 × Nat)} (h : Kept s0 s) :
    Kept s0 (State.hbmRead s a ep).1 := by
  unfold State.hbmRead
  repeat' first
    | with_reducible assumption
    | with_reducible apply kept_readLines
    | dsimp only
    | with_reducible apply kept_ite
    | with_reducible apply kept_ite_fst

theorem kept_rcvWords {s0 : State} {s : State} {a1 : List Nat} (h : Kept s0 s) :
    Kept s0 (State.rcvWords s a1).1 := by
  induction a1 generalizing s with
  | nil =>
    unfold State.rcvWords
    repeat' first
      | with_reducible assumption
  | cons x l ih =>
    unfold State.rcvWords
    repeat' first
      | with_reducible apply ih
      | with_reducible assumption
      | with_reducible rfl
      | with_reducible apply kept_addFld
      | with_reducible apply kept_fault
      | with_reducible apply kept_raise
      | dsimp only
      | with_reducible apply kept_ite
      | with_reducible apply kept_ite_fst
      | split
      | with_reducible exact shrinks_refl
      | with_reducible exact keepWf_refl
      | with_reducible exact keepWf_filter
      | with_reducible exact shrinks_filter
      | with_reducible exact shrinks_nil
      | exact keepWf_refl
      | exact shrinks_refl
      | with_reducible exact shrinks_tail (by assumption)
      | with_reducible refine kept_mk rfl ?_ ?_ ?_ ?_ ?_ ?_ ?_ ?_ ?_ ?_ ?_

theorem kept_rcvAccess {s0 : State} {s : State} {write : Bool} {off : Nat} {len : Nat} {data : List Byte} (h : Kept s0 s) :
    Kept s0 (State.rcvAccess s write off len data).1 := by
  unfold State.rcvAccess
  repeat' first
    | with_reducible assumption
    | with_reducible rfl
    | with_reducible apply kept_rcvWords
    | dsimp only
    | with_reducible apply kept_ite
    | with_reducible apply kept_ite_fst
    | with_reducible exact shrinks_refl
    | with_reducible exact keepWf_refl
    | with_reducible exact keepWf_writeBytes
    | with_reducible exact keepWf_filter
    | with_reducible exact shrinks_filter
    | with_reducible exact shrinks_nil
    | exact keepWf_refl
    | exact shrinks_refl
    | with_reducible exact shrinks_tail (by assumption)
    | with_reducible refine kept_mk rfl ?_ ?_ ?_ ?_ ?_ ?_ ?_ ?_ ?_ ?_ ?_

theorem kept_memAccess {s0 : State} {s : State} {a : Access} {ep : Option (B32 × Nat)} (h : Kept s0 s) :
    Kept s0 (State.memAccess s a ep).1 := by
  unfold State.memAccess
  repeat' first
    | with_reducible assumption
    | with_reducible rfl
    | with_reducible apply kept_rcvAccess
    | with_reducible apply kept_hbmRead
    | with_reducible apply kept_hbmWrite
    | with_reducible apply kept_violation
    | dsimp only
    | with_reducible apply kept_ite
    | with_reducible apply kept_ite_fst
    | split
    | with_reducible exact shrinks_refl
    | with_reducible exact keepWf_refl
    | with_reducible exact keepWf_writeBytes
    | with_reducible exact shrinks_nil
    | exact keepWf_refl
    | exact shrinks_refl
    | with_reducible exact shrinks_tail (by assumption)
    | with_reducible refine kept_mk rfl ?_ ?_ ?_ ?_ ?_ ?_ ?_ ?_ ?_ ?_ ?_

/-! ## Link -/

theorem kept_answerXfer {s0 : State} {s : State} {tag : Nat} {status : Nat} {data : List Byte} (h : Kept s0 s) :
    Kept s0 (State.answerXfer s tag status data) := by
  unfold State.answerXfer
  repeat' first
    | with_reducible assumption
    | with_reducible apply kept_setTile

theorem kept_answerFetch {s0 : State} {s : State} {m : LnkMsg} (h : Kept s0 s) :
    Kept s0 (State.answerFetch s m) := by
  unfold State.answerFetch
  repeat' first
    | with_reducible assumption
    | with_reducible rfl
    | dsimp only
    | with_reducible apply kept_ite
    | with_reducible apply kept_ite_fst
    | with_reducible exact shrinks_refl
    | with_reducible exact keepWf_refl
    | exact keepWf_refl
    | exact shrinks_refl
    | with_reducible exact shrinks_tail (by assumption)
    | with_reducible refine kept_mk rfl ?_ ?_ ?_ ?_ ?_ ?_ ?_ ?_ ?_ ?_ ?_

theorem kept_takeResponse {s0 : State} {s : State} {m : LnkMsg} (h : Kept s0 s) :
    Kept s0 (State.takeResponse s m) := by
  unfold State.takeResponse
  repeat' first
    | with_reducible assumption
    | with_reducible apply kept_answerFetch
    | with_reducible apply kept_answerXfer
    | dsimp only
    | with_reducible apply kept_ite

theorem kept_enqueueMsg {s0 : State} {s : State} {p : Nat} {m : LnkMsg} (h : Kept s0 s) :
    Kept s0 (State.enqueueMsg s p m) := by
  unfold State.enqueueMsg
  repeat' first
    | with_reducible assumption
    | with_reducible apply kept_setPort

theorem kept_sendOnce {s0 : State} {s : State} {m : LnkMsg} (h : Kept s0 s) :
    Kept s0 (State.sendOnce s m) := by
  unfold State.sendOnce
  repeat' first
    | with_reducible assumption
    | with_reducible apply kept_enqueueMsg
    | with_reducible apply kept_addSat
    | dsimp only
    | with_reducible apply kept_ite
    | with_reducible apply kept_ite_fst
    | split

theorem kept_unrouted {s0 : State} {s : State} {p : Nat} {m : LnkMsg} (h : Kept s0 s) :
    Kept s0 (State.unrouted s p m) := by
  unfold State.unrouted
  repeat' first
    | with_reducible assumption
    | with_reducible apply kept_sendOnce
    | with_reducible apply kept_takeResponse
    | with_reducible apply kept_addSat
    | dsimp only
    | with_reducible apply kept_ite

theorem kept_sendMsg {s0 : State} {s : State} {m : LnkMsg} (h : Kept s0 s) :
    Kept s0 (State.sendMsg s m) := by
  unfold State.sendMsg
  repeat' first
    | with_reducible assumption
    | with_reducible apply kept_unrouted
    | with_reducible apply kept_enqueueMsg
    | dsimp only
    | with_reducible apply kept_ite
    | with_reducible apply kept_ite_fst
    | split

theorem kept_setRx {s0 : State} {s : State} {p : Nat} {v : Nat} {q : List (B64 × Bool)} {freed : Nat} (h : Kept s0 s) :
    Kept s0 (State.setRx s p v q freed) := by
  unfold State.setRx
  repeat' first
    | with_reducible assumption
    | with_reducible apply kept_setPort
    | with_reducible apply kept_addWrap

theorem kept_forward {s0 : State} {a : Nat} {a1 : State} {a2 : Nat} {a3 : Nat} (h : Kept s0 a1) :
    Kept s0 (State.forward a a1 a2 a3) := by
  induction a generalizing a1 a2 a3 with
  | zero =>
    unfold State.forward
    repeat' first
      | with_reducible assumption
  | succ n ih =>
    unfold State.forward
    repeat' first
      | with_reducible apply ih
      | with_reducible assumption
      | with_reducible apply kept_setRx
      | with_reducible apply kept_unrouted
      | with_reducible apply kept_addSat
      | dsimp only
      | with_reducible apply kept_ite
      | with_reducible apply kept_ite_fst
      | split

theorem kept_forwardAll {s0 : State} {s : State} {p : Nat} {v : Nat} (h : Kept s0 s) :
    Kept s0 (State.forwardAll s p v) := by
  unfold State.forwardAll
  repeat' first
    | with_reducible assumption
    | with_reducible apply kept_forward

theorem kept_pull {s0 : State} {s : State} {p : Nat} {v : Nat} {k : Nat} {w : Nat} (h : Kept s0 s) :
    Kept s0 (State.pull s p v k w) := by
  unfold State.pull
  repeat' first
    | with_reducible assumption
    | with_reducible apply kept_forwardAll
    | with_reducible apply kept_setRx
    | with_reducible apply kept_setPort
    | dsimp only
    | with_reducible apply kept_ite
    | with_reducible apply kept_ite_fst
    | split

theorem kept_fill {s0 : State} {a : Nat} {a1 : State} {a2 : Nat} {a3 : Nat} (h : Kept s0 a1) :
    Kept s0 (State.fill a a1 a2 a3) := by
  induction a generalizing a1 a2 a3 with
  | zero =>
    unfold State.fill
    repeat' first
      | with_reducible assumption
  | succ n ih =>
    unfold State.fill
    repeat' first
      | with_reducible apply ih
      | with_reducible assumption
      | with_reducible apply kept_pull
      | with_reducible apply kept_setPort
      | dsimp only
      | with_reducible apply kept_ite
      | with_reducible apply kept_ite_fst
      | split

theorem kept_flushPort {s0 : State} {s : State} {p : Nat} (h : Kept s0 s) :
    Kept s0 (State.flushPort s p) := by
  unfold State.flushPort
  repeat' first
    | with_reducible assumption
    | with_reducible apply kept_forwardAll
    | with_reducible apply kept_unrouted
    | with_reducible apply kept_setPort
    | dsimp only
    | with_reducible intro _
    | with_reducible apply kept_foldl

theorem kept_postHost {s0 : State} {s : State} {addr : B64} {data : List Byte} (h : Kept s0 s) :
    Kept s0 (State.postHost s addr data) := by
  unfold State.postHost
  repeat' first
    | with_reducible assumption
    | with_reducible apply kept_sendMsg
    | with_reducible apply kept_postLocal
    | dsimp only
    | with_reducible intro _
    | with_reducible apply kept_foldl
    | with_reducible apply kept_foldl_fst
    | with_reducible apply kept_ite

theorem kept_startFetch {s0 : State} {s : State} {w : HostWord} {addr : Nat} {len : Nat} (h : Kept s0 s) :
    Kept s0 (State.startFetch s w addr len) := by
  unfold State.startFetch
  repeat' first
    | with_reducible assumption
    | with_reducible rfl
    | with_reducible apply kept_sendMsg
    | dsimp only
    | with_reducible intro _
    | with_reducible apply kept_foldl
    | with_reducible apply kept_foldl_fst
    | split
    | with_reducible exact shrinks_refl
    | with_reducible exact keepWf_refl
    | with_reducible exact shrinks_nil
    | exact keepWf_refl
    | exact shrinks_refl
    | with_reducible exact shrinks_tail (by assumption)
    | with_reducible refine kept_mk rfl ?_ ?_ ?_ ?_ ?_ ?_ ?_ ?_ ?_ ?_ ?_

theorem kept_hostFetch {s0 : State} {s : State} {w : HostWord} {addr : Nat} {len : Nat} {own : Option (List Byte)} (h : Kept s0 s) :
    Kept s0 (State.hostFetch s w addr len own).1 := by
  unfold State.hostFetch
  repeat' first
    | with_reducible assumption
    | with_reducible rfl
    | with_reducible apply kept_startFetch
    | dsimp only
    | with_reducible apply kept_ite
    | with_reducible apply kept_ite_fst
    | split
    | with_reducible exact shrinks_refl
    | with_reducible exact keepWf_refl
    | with_reducible exact keepWf_filter
    | with_reducible exact shrinks_filter
    | exact keepWf_refl
    | exact shrinks_refl
    | with_reducible exact shrinks_tail (by assumption)
    | with_reducible refine kept_mk rfl ?_ ?_ ?_ ?_ ?_ ?_ ?_ ?_ ?_ ?_ ?_

theorem kept_dropFetch {s0 : State} {s : State} {w : HostWord} (h : Kept s0 s) :
    Kept s0 (State.dropFetch s w) := by
  unfold State.dropFetch
  repeat' first
    | with_reducible assumption
    | with_reducible rfl
    | dsimp only
    | with_reducible exact shrinks_refl
    | with_reducible exact keepWf_refl
    | with_reducible exact keepWf_filter
    | with_reducible exact shrinks_filter
    | exact keepWf_refl
    | exact shrinks_refl
    | with_reducible exact shrinks_tail (by assumption)
    | with_reducible refine kept_mk rfl ?_ ?_ ?_ ?_ ?_ ?_ ?_ ?_ ?_ ?_ ?_

theorem kept_fetchWord {s0 : State} {s : State} {w : HostWord} {kAddr : Nat} {own : Option B32} (h : Kept s0 s) :
    Kept s0 (State.fetchWord s w kAddr own).1 := by
  unfold State.fetchWord
  repeat' first
    | with_reducible assumption
    | with_reducible apply kept_hostFetch

/-! ## Flow -/

theorem kept_setEpoch {s0 : State} {s : State} {e : B32} {r : Epoch} (h : Kept s0 s) :
    Kept s0 (State.setEpoch s e r) := by
  unfold State.setEpoch
  repeat' first
    | with_reducible assumption
    | with_reducible rfl
    | dsimp only
    | with_reducible apply kept_ite
    | with_reducible apply kept_ite_fst
    | with_reducible exact shrinks_refl
    | with_reducible exact keepWf_refl
    | exact keepWf_refl
    | exact shrinks_refl
    | with_reducible exact shrinks_tail (by assumption)
    | with_reducible refine kept_mk rfl ?_ ?_ ?_ ?_ ?_ ?_ ?_ ?_ ?_ ?_ ?_

theorem kept_dropEpoch {s0 : State} {s : State} {e : B32} (h : Kept s0 s) :
    Kept s0 (State.dropEpoch s e) := by
  unfold State.dropEpoch
  repeat' first
    | with_reducible assumption
    | with_reducible rfl
    | dsimp only
    | split
    | with_reducible exact shrinks_refl
    | with_reducible exact keepWf_refl
    | with_reducible exact keepWf_filter
    | with_reducible exact shrinks_filter
    | exact keepWf_refl
    | exact shrinks_refl
    | with_reducible exact shrinks_tail (by assumption)
    | with_reducible refine kept_mk rfl ?_ ?_ ?_ ?_ ?_ ?_ ?_ ?_ ?_ ?_ ?_

theorem kept_setProg {s0 : State} {s : State} {p : Progress} (h : Kept s0 s) :
    Kept s0 (State.setProg s p) := by
  unfold State.setProg
  repeat' first
    | with_reducible assumption
    | with_reducible rfl
    | dsimp only
    | with_reducible exact shrinks_refl
    | with_reducible exact keepWf_refl
    | with_reducible exact keepWf_filter
    | with_reducible exact shrinks_filter
    | with_reducible exact shrinks_nil
    | exact keepWf_refl
    | exact shrinks_refl
    | with_reducible exact shrinks_tail (by assumption)
    | with_reducible refine kept_mk rfl ?_ ?_ ?_ ?_ ?_ ?_ ?_ ?_ ?_ ?_ ?_

theorem kept_noteGone {s0 : State} {s : State} {pipe : Nat} {e : B32} (h : Kept s0 s) :
    Kept s0 (State.noteGone s pipe e) := by
  unfold State.noteGone
  repeat' first
    | with_reducible assumption
    | with_reducible rfl
    | dsimp only
    | with_reducible exact shrinks_refl
    | with_reducible exact keepWf_refl
    | with_reducible exact keepWf_filter
    | with_reducible exact shrinks_filter
    | with_reducible exact shrinks_nil
    | exact keepWf_refl
    | exact shrinks_refl
    | with_reducible exact shrinks_tail (by assumption)
    | with_reducible refine kept_mk rfl ?_ ?_ ?_ ?_ ?_ ?_ ?_ ?_ ?_ ?_ ?_

theorem kept_openHosted {s0 : State} {s : State} {pipe : Nat} {e : B32} (h : Kept s0 s) :
    Kept s0 (State.openHosted s pipe e) := by
  unfold State.openHosted
  repeat' first
    | with_reducible assumption
    | with_reducible rfl
    | dsimp only
    | with_reducible apply kept_ite
    | with_reducible apply kept_ite_fst
    | with_reducible exact shrinks_refl
    | with_reducible exact keepWf_refl
    | with_reducible exact shrinks_nil
    | exact keepWf_refl
    | exact shrinks_refl
    | with_reducible exact shrinks_tail (by assumption)
    | with_reducible refine kept_mk rfl ?_ ?_ ?_ ?_ ?_ ?_ ?_ ?_ ?_ ?_ ?_

theorem kept_fly {s0 : State} {s : State} {f : Flight} (h : Kept s0 s) :
    Kept s0 (State.fly s f) := by
  unfold State.fly
  repeat' first
    | with_reducible assumption
    | with_reducible rfl
    | dsimp only
    | with_reducible exact shrinks_refl
    | with_reducible exact keepWf_refl
    | with_reducible exact shrinks_nil
    | exact keepWf_refl
    | exact shrinks_refl
    | with_reducible exact shrinks_tail (by assumption)
    | with_reducible refine kept_mk rfl ?_ ?_ ?_ ?_ ?_ ?_ ?_ ?_ ?_ ?_ ?_

theorem kept_takeFlight {s0 : State} {s : State} {f : Flight} (h : Kept s0 s) :
    Kept s0 (State.takeFlight s f) := by
  unfold State.takeFlight
  repeat' first
    | with_reducible assumption
    | with_reducible rfl
    | dsimp only
    | with_reducible exact shrinks_refl
    | with_reducible exact keepWf_refl
    | exact keepWf_refl
    | exact shrinks_refl
    | with_reducible exact shrinks_tail (by assumption)
    | with_reducible refine kept_mk rfl ?_ ?_ ?_ ?_ ?_ ?_ ?_ ?_ ?_ ?_ ?_

theorem kept_sendFlow {s0 : State} {s : State} {origin : Nat} {dev : Nat} {w : B64} {ack : Bool} (h : Kept s0 s) :
    Kept s0 (State.sendFlow s origin dev w ack) := by
  unfold State.sendFlow
  repeat' first
    | with_reducible assumption
    | with_reducible apply kept_sendMsg

theorem kept_sendWord {s0 : State} {s : State} {p : Pipe} {origin : Nat} {stage : Nat} {w : B64} (h : Kept s0 s) :
    Kept s0 (State.sendWord s p origin stage w) := by
  unfold State.sendWord
  repeat' first
    | with_reducible assumption
    | with_reducible apply kept_sendFlow
    | with_reducible apply kept_fly
    | dsimp only
    | with_reducible apply kept_ite

theorem kept_sendReport {s0 : State} {s : State} {pipe : Nat} {side : Bool} {stage : Nat} {status : Nat} {e : B32} (h : Kept s0 s) :
    Kept s0 (State.sendReport s pipe side stage status e) := by
  unfold State.sendReport
  repeat' first
    | with_reducible assumption
    | with_reducible apply kept_fly

theorem kept_sendAck {s0 : State} {s : State} {pipe : Nat} {side : Bool} {stage : Nat} {status : Nat} {e : B32} (h : Kept s0 s) :
    Kept s0 (State.sendAck s pipe side stage status e) := by
  unfold State.sendAck
  repeat' first
    | with_reducible assumption
    | with_reducible apply kept_fly

theorem kept_sendCtrl {s0 : State} {s : State} {origin : Nat} {dst : Nat} {tag : Nat} {payload : List Byte} (h : Kept s0 s) :
    Kept s0 (State.sendCtrl s origin dst tag payload) := by
  unfold State.sendCtrl
  repeat' first
    | with_reducible assumption
    | with_reducible apply kept_sendMsg

theorem kept_creditArrive {s0 : State} {s : State} {key : Nat} {slot : Nat} (h : Kept s0 s) :
    Kept s0 (State.creditArrive s key slot) := by
  unfold State.creditArrive
  repeat' first
    | with_reducible assumption
    | with_reducible apply kept_setBook

theorem kept_returnSlot {s0 : State} {s : State} {p : Pipe} {pipe : Nat} {side : Bool} {edge : Nat} {slot : Nat} {e : B32} (h : Kept s0 s) :
    Kept s0 (State.returnSlot s p pipe side edge slot e) := by
  unfold State.returnSlot
  repeat' first
    | with_reducible assumption
    | with_reducible apply kept_creditArrive
    | with_reducible apply kept_sendWord
    | with_reducible apply kept_setBook
    | dsimp only
    | with_reducible apply kept_ite
    | with_reducible apply kept_ite_fst
    | split

theorem kept_tokenArrive {s0 : State} {s : State} {p : Pipe} {pipe : Nat} {side : Bool} {edge : Nat} {slot : Nat} {e : B32} {dead : Bool} (h : Kept s0 s) :
    Kept s0 (State.tokenArrive s p pipe side edge slot e dead) := by
  unfold State.tokenArrive
  repeat' first
    | with_reducible assumption
    | with_reducible apply kept_returnSlot
    | with_reducible apply kept_setBook
    | dsimp only
    | with_reducible apply kept_ite

theorem kept_sendToken {s0 : State} {s : State} {p : Pipe} {pipe : Nat} {side : Bool} {edge : Nat} {slot : Nat} {e : B32} (h : Kept s0 s) :
    Kept s0 (State.sendToken s p pipe side edge slot e) := by
  unfold State.sendToken
  repeat' first
    | with_reducible assumption
    | with_reducible apply kept_tokenArrive
    | with_reducible apply kept_sendWord
    | with_reducible apply kept_setBook
    | dsimp only
    | with_reducible apply kept_ite
    | with_reducible apply kept_ite_fst
    | split

theorem kept_returnEpoch {s0 : State} {s : State} {p : Pipe} {pipe : Nat} {side : Bool} {edge : Nat} {e : B32} (h : Kept s0 s) :
    Kept s0 (State.returnEpoch s p pipe side edge e) := by
  unfold State.returnEpoch
  repeat' first
    | with_reducible assumption
    | with_reducible apply kept_returnSlot
    | dsimp only
    | with_reducible intro _
    | with_reducible apply kept_foldl

theorem kept_unwrite {s0 : State} {s : State} {pipe : Nat} {side : Bool} {edge : Nat} {e : B32} (h : Kept s0 s) :
    Kept s0 (State.unwrite s pipe side edge e) := by
  unfold State.unwrite
  repeat' first
    | with_reducible assumption
    | with_reducible apply kept_setBook

theorem kept_entryDone {s0 : State} {s : State} {e : ResEntry} (h : Kept s0 s) :
    Kept s0 (State.entryDone s e) := by
  unfold State.entryDone
  repeat' first
    | with_reducible assumption
    | with_reducible apply kept_returnEpoch
    | with_reducible apply kept_setIring
    | dsimp only
    | with_reducible intro _
    | with_reducible apply kept_foldl
    | with_reducible apply kept_foldl_fst
    | split

theorem kept_dueEntry {s0 : State} {s : State} {j : Nat} {e : ResEntry} (h : Kept s0 s) :
    Kept s0 (State.dueEntry s j e) := by
  unfold State.dueEntry
  repeat' first
    | with_reducible assumption
    | with_reducible apply kept_entryDone
    | with_reducible apply kept_setRring
    | with_reducible apply kept_addSat
    | dsimp only
    | with_reducible apply kept_ite

theorem kept_dropFrames {s0 : State} {s : State} {frames : List (Nat × B32)} {k : Nat} (h : Kept s0 s) :
    Kept s0 (State.dropFrames s frames k) := by
  unfold State.dropFrames
  repeat' first
    | with_reducible assumption
    | with_reducible apply kept_addSat
    | dsimp only
    | with_reducible intro _
    | with_reducible apply kept_foldl

theorem kept_returnSinks {s0 : State} {s : State} {p : Pipe} {pipe : Nat} {e : B32} (h : Kept s0 s) :
    Kept s0 (State.returnSinks s p pipe e) := by
  unfold State.returnSinks
  repeat' first
    | with_reducible assumption
    | with_reducible apply kept_returnEpoch
    | dsimp only
    | with_reducible intro _
    | with_reducible apply kept_foldl
    | with_reducible apply kept_foldl_fst
    | with_reducible apply kept_ite
    | with_reducible apply kept_ite_fst
    | split

theorem kept_endLocal {s0 : State} {s : State} {e : B32} {status : Nat} (h : Kept s0 s) :
    Kept s0 (State.endLocal s e status) := by
  unfold State.endLocal
  repeat' first
    | with_reducible assumption
    | with_reducible apply kept_returnSinks
    | with_reducible apply kept_sendWord
    | with_reducible apply kept_setEpoch
    | with_reducible apply kept_setBit
    | dsimp only
    | with_reducible intro _
    | with_reducible apply kept_foldl
    | with_reducible apply kept_foldl_fst
    | with_reducible apply kept_ite
    | with_reducible apply kept_ite_fst
    | split

theorem kept_hostFail {s0 : State} {s : State} {p : Pipe} {pipe : Nat} {e : B32} {status : Nat} (h : Kept s0 s) :
    Kept s0 (State.hostFail s p pipe e status) := by
  unfold State.hostFail
  repeat' first
    | with_reducible assumption
    | with_reducible apply kept_sendReport
    | dsimp only
    | with_reducible apply kept_ite
    | with_reducible apply kept_ite_fst
    | split

theorem kept_endCause {s0 : State} {s : State} {e : B32} {status : Nat} (h : Kept s0 s) :
    Kept s0 (State.endCause s e status) := by
  unfold State.endCause
  repeat' first
    | with_reducible assumption
    | with_reducible apply kept_hostFail
    | with_reducible apply kept_endLocal
    | with_reducible apply kept_sendFlow
    | dsimp only
    | with_reducible apply kept_ite
    | with_reducible apply kept_ite_fst
    | split

theorem kept_boundary {s0 : State} {s : State} {p : Pipe} (h : Kept s0 s) :
    Kept s0 (State.boundary s p) := by
  unfold State.boundary
  repeat' first
    | with_reducible assumption
    | with_reducible apply kept_setCluster
    | dsimp only
    | with_reducible intro _
    | with_reducible apply kept_foldl
    | with_reducible apply kept_foldl_fst
    | with_reducible apply kept_ite

theorem kept_stopAudits {s0 : State} {s : State} (h : Kept s0 s) :
    Kept s0 (State.stopAudits s) := by
  unfold State.stopAudits
  repeat' first
    | with_reducible assumption
    | with_reducible apply kept_setCluster
    | dsimp only
    | with_reducible intro _
    | with_reducible apply kept_foldl
    | with_reducible apply kept_foldl_fst
    | with_reducible apply kept_ite

theorem kept_noteEnd {s0 : State} {s : State} {e : B32} {r : Epoch} (h : Kept s0 s) :
    Kept s0 (State.noteEnd s e r) := by
  unfold State.noteEnd
  repeat' first
    | with_reducible assumption
    | with_reducible apply kept_fault
    | dsimp only
    | with_reducible apply kept_ite

theorem kept_endHosted {s0 : State} {s : State} {p : Pipe} {e : B32} {r : Epoch} (h : Kept s0 s) :
    Kept s0 (State.endHosted s p e r) := by
  unfold State.endHosted
  repeat' first
    | with_reducible assumption
    | with_reducible apply kept_boundary
    | with_reducible apply kept_sendFlow
    | with_reducible apply kept_noteGone
    | with_reducible apply kept_dropEpoch
    | dsimp only
    | with_reducible intro _
    | with_reducible apply kept_foldl

theorem kept_tryEnd {s0 : State} {s : State} {e : B32} (h : Kept s0 s) :
    Kept s0 (State.tryEnd s e) := by
  unfold State.tryEnd
  repeat' first
    | with_reducible assumption
    | with_reducible apply kept_endHosted
    | with_reducible apply kept_noteEnd
    | with_reducible apply kept_boundary
    | with_reducible apply kept_dropFrames
    | with_reducible apply kept_dueEntry
    | with_reducible apply kept_dropEpoch
    | with_reducible apply kept_addWrap
    | with_reducible apply kept_setBit
    | with_reducible apply kept_setFld
    | dsimp only
    | with_reducible apply kept_ite
    | with_reducible apply kept_ite_fst
    | split

theorem kept_stageCount {s0 : State} {s : State} {e : B32} {l : List StagedCount} (h : Kept s0 s) :
    Kept s0 (State.stageCount s e l) := by
  unfold State.stageCount
  repeat' first
    | with_reducible assumption
    | with_reducible apply kept_setEpoch
    | dsimp only
    | split

theorem kept_stageClamps {s0 : State} {s : State} {e : B32} {tile : Nat} {l : List (Nat × Nat)} (h : Kept s0 s) :
    Kept s0 (State.stageClamps s e tile l) := by
  unfold State.stageClamps
  repeat' first
    | with_reducible assumption
    | with_reducible apply kept_setEpoch
    | dsimp only
    | split

theorem kept_failStep {s0 : State} {s : State} {st : StepRef} {status : Nat} (h : Kept s0 s) :
    Kept s0 (State.failStep s st status) := by
  unfold State.failStep
  repeat' first
    | with_reducible assumption
    | with_reducible apply kept_endCause
    | with_reducible apply kept_sendReport
    | dsimp only
    | with_reducible apply kept_ite

/-! ## MemCmd -/

theorem kept_refuseReg {s0 : State} {s : State} {rq : Requester} {write : Bool} {key : Nat} (h : Kept s0 s) :
    Kept s0 (State.refuseReg s rq write key) := by
  unfold State.refuseReg
  repeat' first
    | with_reducible assumption
    | with_reducible apply kept_violation

theorem kept_guardReg {s0 : State} {s : State} {rq : Requester} {key : Nat} {f : State → State} (h : Kept s0 s) (hf : ∀ t, Kept s0 t → Kept s0 (f t)) :
    Kept s0 (State.guardReg s rq key f) := by
  unfold State.guardReg
  repeat' first
    | with_reducible assumption
    | with_reducible apply hf
    | with_reducible apply kept_refuseReg
    | dsimp only
    | with_reducible apply kept_ite

theorem kept_mendPage {s0 : State} {s : State} {k : Nat} {page : Nat} (h : Kept s0 s) :
    Kept s0 (State.mendPage s k page) := by
  unfold State.mendPage
  repeat' first
    | with_reducible assumption
    | with_reducible rfl
    | with_reducible apply kept_addSat
    | dsimp only
    | with_reducible exact shrinks_refl
    | with_reducible exact keepWf_refl
    | with_reducible exact keepWf_filter
    | with_reducible exact shrinks_filter
    | exact keepWf_refl
    | exact shrinks_refl
    | with_reducible exact shrinks_tail (by assumption)
    | with_reducible refine kept_mk rfl ?_ ?_ ?_ ?_ ?_ ?_ ?_ ?_ ?_ ?_ ?_

theorem kept_sparesGone {s0 : State} {s : State} {k : Nat} {page : Nat} (h : Kept s0 s) :
    Kept s0 (State.sparesGone s k page) := by
  unfold State.sparesGone
  repeat' first
    | with_reducible assumption
    | with_reducible rfl
    | with_reducible apply kept_exhaust
    | with_reducible apply kept_setBit
    | with_reducible apply kept_raise
    | dsimp only
    | with_reducible apply kept_ite
    | with_reducible apply kept_ite_fst
    | with_reducible exact shrinks_refl
    | with_reducible exact keepWf_refl
    | with_reducible exact shrinks_nil
    | exact keepWf_refl
    | exact shrinks_refl
    | with_reducible exact shrinks_tail (by assumption)
    | with_reducible refine kept_mk rfl ?_ ?_ ?_ ?_ ?_ ?_ ?_ ?_ ?_ ?_ ?_

theorem kept_execPageRetireStart {s0 : State} {k : Nat} {s : State} (h : Kept s0 s) :
    KeptX s0 (execPageRetireStart k s) := by
  unfold execPageRetireStart
  repeat' first
    | with_reducible assumption
    | with_reducible exact keptO_none _
    | with_reducible apply keptO_some
    | with_reducible apply keptX_attempt
    | with_reducible apply kept_sparesGone
    | with_reducible apply kept_mendPage
    | with_reducible apply kept_setStack
    | with_reducible apply kept_setFld
    | dsimp only
    | with_reducible apply keptO_ite
    | with_reducible apply kept_ite
    | with_reducible apply kept_ite_fst
    | split

theorem kept_execPageRetired {s0 : State} {k : Nat} {s : State} (h : Kept s0 s) :
    KeptX s0 (execPageRetired k s) := by
  unfold execPageRetired
  repeat' first
    | with_reducible assumption
    | with_reducible rfl
    | with_reducible exact keptO_none _
    | with_reducible apply keptO_some
    | with_reducible apply keptX_attempt
    | with_reducible apply kept_setStack
    | with_reducible apply kept_addSat
    | with_reducible apply kept_setBit
    | with_reducible apply kept_raise
    | dsimp only
    | with_reducible apply keptO_ite
    | with_reducible apply kept_ite
    | with_reducible apply kept_ite_fst
    | split
    | with_reducible exact shrinks_refl
    | with_reducible exact keepWf_refl
    | with_reducible exact keepWf_filter
    | with_reducible exact shrinks_filter
    | with_reducible exact shrinks_nil
    | exact keepWf_refl
    | exact shrinks_refl
    | with_reducible exact shrinks_tail (by assumption)
    | with_reducible refine kept_mk rfl ?_ ?_ ?_ ?_ ?_ ?_ ?_ ?_ ?_ ?_ ?_

theorem kept_retAddGo {s0 : State} {s : State} {v : B32} (h : Kept s0 s) :
    Kept s0 (State.retAddGo s v) := by
  unfold State.retAddGo
  repeat' first
    | with_reducible assumption
    | with_reducible rfl
    | with_reducible apply kept_queueRetire
    | with_reducible apply kept_setBit
    | with_reducible apply kept_setFld
    | dsimp only
    | with_reducible apply kept_ite
    | with_reducible apply kept_ite_fst
    | with_reducible exact shrinks_refl
    | with_reducible exact keepWf_refl
    | exact keepWf_refl
    | exact shrinks_refl
    | with_reducible exact shrinks_tail (by assumption)
    | with_reducible refine kept_mk rfl ?_ ?_ ?_ ?_ ?_ ?_ ?_ ?_ ?_ ?_ ?_

theorem kept_execRetAddGo {s0 : State} {rq : Requester} {v : B32} {s : State} (h : Kept s0 s) :
    KeptX s0 (execRetAddGo rq v s) := by
  unfold execRetAddGo
  repeat' first
    | with_reducible assumption
    | with_reducible exact keptO_none _
    | with_reducible apply keptO_some
    | with_reducible apply keptX_attempt
    | with_reducible apply kept_retAddGo
    | with_reducible apply kept_guardReg
    | dsimp only
    | with_reducible intro _
    | with_reducible apply keptO_ite

theorem kept_patrolOff {s0 : State} {s : State} {k : Nat} {n : Nat} (h : Kept s0 s) :
    Kept s0 (State.patrolOff s k n) := by
  unfold State.patrolOff
  repeat' first
    | with_reducible assumption
    | with_reducible apply kept_hbmUncorrectable
    | with_reducible apply kept_trackCe
    | with_reducible apply kept_setStack
    | with_reducible apply kept_addSat
    | dsimp only
    | with_reducible apply kept_ite

theorem kept_execHbmPatrolRead {s0 : State} {k : Nat} {s : State} (h : Kept s0 s) :
    KeptX s0 (execHbmPatrolRead k s) := by
  unfold execHbmPatrolRead
  repeat' first
    | with_reducible assumption
    | with_reducible exact keptO_none _
    | with_reducible apply keptO_some
    | with_reducible apply keptX_attempt
    | with_reducible apply kept_patrolOff
    | with_reducible apply kept_hbmLine
    | with_reducible apply kept_setStack
    | dsimp only
    | with_reducible apply keptO_ite
    | with_reducible apply kept_ite
    | with_reducible apply kept_ite_fst
    | split

theorem kept_setRgn {s0 : State} {s : State} {i : Nat} {which : RgnReg} {v : B32} (h : Kept s0 s) :
    Kept s0 (State.setRgn s i which v) := by
  unfold State.setRgn
  repeat' first
    | with_reducible assumption
    | with_reducible apply kept_setReg
    | dsimp only
    | with_reducible apply kept_ite
    | with_reducible apply kept_ite_fst
    | split

theorem kept_execRgnWrite {s0 : State} {rq : Requester} {i : Nat} {which : RgnReg} {v : B32} {s : State} (h : Kept s0 s) :
    KeptX s0 (execRgnWrite rq i which v s) := by
  unfold execRgnWrite
  repeat' first
    | with_reducible assumption
    | with_reducible exact keptO_none _
    | with_reducible apply keptO_some
    | with_reducible apply keptX_attempt
    | with_reducible apply kept_setRgn
    | with_reducible apply kept_guardReg
    | dsimp only
    | with_reducible intro _
    | with_reducible apply keptO_ite

theorem kept_dropWays {s0 : State} {s : State} {old : State} (h : Kept s0 s) (h2 : Kept s0 old) :
    Kept s0 (State.dropWays s old) := by
  unfold State.dropWays
  repeat' first
    | with_reducible assumption
    | with_reducible apply kept_rsvDrop
    | dsimp only
    | with_reducible intro _
    | with_reducible apply kept_foldl

theorem kept_setPin {s0 : State} {s : State} {j : Nat} {v : B32} (h : Kept s0 s) :
    Kept s0 (State.setPin s j v) := by
  unfold State.setPin
  repeat' first
    | with_reducible assumption
    | with_reducible apply kept_dropWays
    | with_reducible apply kept_setReg
    | dsimp only
    | with_reducible apply kept_ite

theorem kept_execRsvPinWrite {s0 : State} {rq : Requester} {j : Nat} {v : B32} {s : State} (h : Kept s0 s) :
    KeptX s0 (execRsvPinWrite rq j v s) := by
  unfold execRsvPinWrite
  repeat' first
    | with_reducible assumption
    | with_reducible exact keptO_none _
    | with_reducible apply keptO_some
    | with_reducible apply keptX_attempt
    | with_reducible apply kept_setPin
    | with_reducible apply kept_guardReg
    | dsimp only
    | with_reducible intro _
    | with_reducible apply keptO_ite

theorem kept_execPinFill {s0 : State} {rq : Requester} {j : Nat} {s : State} (h : Kept s0 s) :
    KeptX s0 (execPinFill rq j s) := by
  unfold execPinFill
  repeat' first
    | with_reducible assumption
    | with_reducible exact keptO_none _
    | with_reducible apply keptO_some
    | with_reducible apply keptX_attempt
    | with_reducible apply kept_guardReg
    | with_reducible apply kept_setBit
    | dsimp only
    | with_reducible intro _
    | with_reducible apply keptO_ite

theorem kept_fillLine {s0 : State} {s : State} {a : Nat} (h : Kept s0 s) :
    Kept s0 (State.fillLine s a) := by
  unfold State.fillLine
  repeat' first
    | with_reducible assumption
    | with_reducible apply kept_rsvAlloc
    | with_reducible apply kept_rsvDrop
    | with_reducible apply kept_rsvTouch
    | with_reducible apply kept_hbmLine
    | dsimp only
    | with_reducible apply kept_ite

theorem kept_execPinFillDone {s0 : State} {j : Nat} {s : State} (h : Kept s0 s) :
    KeptX s0 (execPinFillDone j s) := by
  unfold execPinFillDone
  repeat' first
    | with_reducible assumption
    | with_reducible exact keptO_none _
    | with_reducible apply keptO_some
    | with_reducible apply keptX_attempt
    | with_reducible apply kept_fillLine
    | with_reducible apply kept_setBit
    | dsimp only
    | with_reducible intro _
    | with_reducible apply kept_foldl
    | with_reducible apply kept_foldl_fst
    | with_reducible apply keptO_ite

theorem kept_execRcvAccess {s0 : State} {m : RcvRequest} {s : State} (h : Kept s0 s) :
    KeptX s0 (execRcvAccess m s) := by
  unfold execRcvAccess
  repeat' first
    | with_reducible assumption
    | with_reducible rfl
    | with_reducible exact keptO_none _
    | with_reducible apply keptO_some
    | with_reducible apply keptX_attempt
    | with_reducible apply kept_rcvAccess
    | with_reducible apply kept_violation
    | dsimp only
    | with_reducible apply keptO_ite
    | with_reducible apply kept_ite
    | with_reducible apply kept_ite_fst
    | with_reducible exact shrinks_refl
    | with_reducible exact keepWf_refl
    | with_reducible exact shrinks_nil
    | exact keepWf_refl
    | exact shrinks_refl
    | with_reducible exact shrinks_tail (by assumption)
    | with_reducible refine kept_mk rfl ?_ ?_ ?_ ?_ ?_ ?_ ?_ ?_ ?_ ?_ ?_

/-! ## Hostif -/

theorem kept_hdmaErr {s0 : State} {s : State} (h : Kept s0 s) :
    Kept s0 (State.hdmaErr s) := by
  unfold State.hdmaErr
  repeat' first
    | with_reducible assumption
    | with_reducible apply kept_addSat

theorem kept_postWord {s0 : State} {s : State} {kAddr : Nat} {v : B32} (h : Kept s0 s) :
    Kept s0 (State.postWord s kAddr v) := by
  unfold State.postWord
  repeat' first
    | with_reducible assumption
    | with_reducible apply kept_postHost

theorem kept_sendMsix {s0 : State} {s : State} {vec : Nat} (h : Kept s0 s) :
    Kept s0 (State.sendMsix s vec) := by
  unfold State.sendMsix
  repeat' first
    | with_reducible assumption
    | with_reducible apply kept_postHost
    | with_reducible apply kept_setBit
    | dsimp only
    | with_reducible apply kept_ite

theorem kept_tellAbsent {s0 : State} {s : State} (h : Kept s0 s) :
    Kept s0 (State.tellAbsent s) := by
  unfold State.tellAbsent
  repeat' first
    | with_reducible assumption
    | with_reducible apply kept_sendCtrl
    | dsimp only
    | with_reducible intro _
    | with_reducible apply kept_foldl
    | with_reducible apply kept_foldl_fst
    | with_reducible apply kept_ite

theorem kept_enterAbsent {s0 : State} {s : State} {cause : Nat} (h : Kept s0 s) :
    Kept s0 (State.enterAbsent s cause) := by
  unfold State.enterAbsent
  repeat' first
    | with_reducible assumption
    | with_reducible rfl
    | with_reducible apply kept_tellAbsent
    | with_reducible apply kept_entryDone
    | with_reducible apply kept_setRring
    | with_reducible apply kept_setReg64
    | with_reducible apply kept_addSat
    | with_reducible apply kept_setFld
    | dsimp only
    | with_reducible intro _
    | with_reducible apply kept_foldl
    | with_reducible apply kept_foldl_fst
    | with_reducible apply kept_ite
    | with_reducible exact shrinks_refl
    | with_reducible exact keepWf_refl
    | with_reducible exact shrinks_nil
    | exact keepWf_refl
    | exact shrinks_refl
    | with_reducible exact shrinks_tail (by assumption)
    | with_reducible refine kept_mk rfl ?_ ?_ ?_ ?_ ?_ ?_ ?_ ?_ ?_ ?_ ?_

theorem kept_setIrState {s0 : State} {s : State} {i : Nat} {st : Nat} (h : Kept s0 s) :
    Kept s0 (State.setIrState s i st) := by
  unfold State.setIrState
  repeat' first
    | with_reducible assumption
    | with_reducible apply kept_setFld

theorem kept_setIrErr {s0 : State} {s : State} {i : Nat} {e : Nat} (h : Kept s0 s) :
    Kept s0 (State.setIrErr s i e) := by
  unfold State.setIrErr
  repeat' first
    | with_reducible assumption
    | with_reducible apply kept_setFld

theorem kept_markSlots {s0 : State} {s : State} {pipe : Nat} {slots : List (Bool × Nat × Nat)} {x : PSlot} (h : Kept s0 s) :
    Kept s0 (State.markSlots s pipe slots x) := by
  unfold State.markSlots
  repeat' first
    | with_reducible assumption
    | with_reducible apply kept_setBook
    | dsimp only
    | with_reducible intro _
    | with_reducible apply kept_foldl

theorem kept_fillSlots {s0 : State} {s : State} {pipe : Nat} {slots : List (Bool × Nat × Nat)} (h : Kept s0 s) :
    Kept s0 (State.fillSlots s pipe slots) := by
  unfold State.fillSlots
  repeat' first
    | with_reducible assumption
    | with_reducible apply kept_markSlots

theorem kept_unfillSlots {s0 : State} {s : State} {pipe : Nat} {slots : List (Bool × Nat × Nat)} (h : Kept s0 s) :
    Kept s0 (State.unfillSlots s pipe slots) := by
  unfold State.unfillSlots
  repeat' first
    | with_reducible assumption
    | with_reducible apply kept_markSlots

theorem kept_irNext {s0 : State} {s : State} {i : Nat} (h : Kept s0 s) :
    Kept s0 (State.irNext s i) := by
  unfold State.irNext
  repeat' first
    | with_reducible assumption
    | with_reducible apply kept_setIring
    | dsimp only
    | with_reducible apply kept_ite
    | with_reducible apply kept_ite_fst
    | split

theorem kept_irHalt {s0 : State} {s : State} {i : Nat} {status : Nat} {prod : B32} (h : Kept s0 s) :
    Kept s0 (State.irHalt s i status prod) := by
  unfold State.irHalt
  repeat' first
    | with_reducible assumption
    | with_reducible apply kept_setIrErr
    | with_reducible apply kept_setIrState
    | with_reducible apply kept_dueEntry
    | with_reducible apply kept_setIring

theorem kept_irAdvance {s0 : State} {s : State} {i : Nat} {stale : Bool} (h : Kept s0 s) :
    Kept s0 (State.irAdvance s i stale) := by
  unfold State.irAdvance
  repeat' first
    | with_reducible assumption
    | with_reducible apply kept_postWord
    | with_reducible apply kept_addWrap
    | dsimp only
    | with_reducible apply kept_ite

theorem kept_countUnit {s0 : State} {s : State} {t : Option Target} {status : Nat} (h : Kept s0 s) :
    Kept s0 (State.countUnit s t status) := by
  unfold State.countUnit
  repeat' first
    | with_reducible assumption
    | with_reducible apply kept_addSat
    | dsimp only
    | with_reducible apply kept_ite
    | with_reducible apply kept_ite_fst
    | split

theorem kept_irFail {s0 : State} {s : State} {i : Nat} {rr : Nat} {status : Nat} {sample : B64} {tag : B32} (h : Kept s0 s) :
    Kept s0 (State.irFail s i rr status sample tag) := by
  unfold State.irFail
  repeat' first
    | with_reducible assumption
    | with_reducible apply kept_countUnit
    | with_reducible apply kept_irAdvance
    | with_reducible apply kept_irNext
    | with_reducible apply kept_dueEntry
    | with_reducible apply kept_setIring

theorem kept_irLoad {s0 : State} {s : State} {i : Nat} {prod : Option B32} (h : Kept s0 s) :
    Kept s0 (State.irLoad s i prod) := by
  unfold State.irLoad
  repeat' first
    | with_reducible assumption
    | with_reducible apply kept_setIrErr
    | with_reducible apply kept_setIrState
    | with_reducible apply kept_postWord
    | with_reducible apply kept_hdmaErr
    | with_reducible apply kept_setIring
    | with_reducible apply kept_setBit
    | with_reducible apply kept_setReg
    | dsimp only
    | split

theorem kept_irStart {s0 : State} {s : State} {i : Nat} {v : B32} (h : Kept s0 s) :
    Kept s0 (State.irStart s i v) := by
  unfold State.irStart
  repeat' first
    | with_reducible assumption
    | with_reducible apply kept_irLoad
    | with_reducible apply kept_setIrErr
    | with_reducible apply kept_setIring
    | with_reducible apply kept_setReg
    | dsimp only
    | with_reducible apply kept_ite
    | with_reducible apply kept_ite_fst
    | split

theorem kept_execIrEnable {s0 : State} {i : Nat} {v : B32} {prod : Option B32} {s : State} (h : Kept s0 s) :
    KeptX s0 (execIrEnable i v prod s) := by
  unfold execIrEnable
  repeat' first
    | with_reducible assumption
    | with_reducible exact keptO_none _
    | with_reducible apply keptO_some
    | with_reducible apply keptX_attempt
    | with_reducible apply kept_irStart
    | with_reducible apply kept_irLoad
    | with_reducible apply kept_setIrErr
    | with_reducible apply kept_setReg
    | dsimp only
    | with_reducible apply keptO_ite
    | with_reducible apply kept_ite
    | with_reducible apply kept_ite_fst
    | split

theorem kept_execIrDisable {s0 : State} {i : Nat} {v : B32} {s : State} (h : Kept s0 s) :
    KeptX s0 (execIrDisable i v s) := by
  unfold execIrDisable
  repeat' first
    | with_reducible assumption
    | with_reducible exact keptO_none _
    | with_reducible apply keptO_some
    | with_reducible apply keptX_attempt
    | with_reducible apply kept_setIrState
    | with_reducible apply kept_setIring
    | with_reducible apply kept_setBit
    | dsimp only
    | with_reducible apply keptO_ite

theorem kept_execIrDrainDone {s0 : State} {i : Nat} {s : State} (h : Kept s0 s) :
    KeptX s0 (execIrDrainDone i s) := by
  unfold execIrDrainDone
  repeat' first
    | with_reducible assumption
    | with_reducible exact keptO_none _
    | with_reducible apply keptO_some
    | with_reducible apply keptX_attempt
    | with_reducible apply kept_setIrState
    | dsimp only
    | with_reducible apply keptO_ite

theorem kept_execIrPoll {s0 : State} {i : Nat} {s : State} (h : Kept s0 s) :
    KeptX s0 (execIrPoll i s) := by
  unfold execIrPoll
  repeat' first
    | with_reducible assumption
    | with_reducible exact keptO_none _
    | with_reducible apply keptO_some
    | with_reducible apply keptX_attempt
    | with_reducible apply kept_irHalt
    | with_reducible apply kept_hdmaErr
    | with_reducible apply kept_setIring
    | dsimp only
    | with_reducible apply keptO_ite
    | with_reducible apply kept_ite

theorem kept_irPolled {s0 : State} {s : State} {i : Nat} {prod : Option B32} (h : Kept s0 s) :
    Kept s0 (State.irPolled s i prod) := by
  unfold State.irPolled
  repeat' first
    | with_reducible assumption
    | with_reducible apply kept_irHalt
    | with_reducible apply kept_irNext
    | with_reducible apply kept_hdmaErr
    | with_reducible apply kept_setIring
    | dsimp only
    | with_reducible apply kept_ite
    | with_reducible apply kept_ite_fst
    | split

theorem kept_execIrProducerReturn {s0 : State} {i : Nat} {prod : Option B32} {s : State} (h : Kept s0 s) :
    KeptX s0 (execIrProducerReturn i prod s) := by
  unfold execIrProducerReturn
  repeat' first
    | with_reducible assumption
    | with_reducible exact keptO_none _
    | with_reducible apply keptO_some
    | with_reducible apply keptX_attempt
    | with_reducible apply kept_irPolled
    | with_reducible apply kept_irLoad
    | with_reducible apply kept_fetchWord
    | dsimp only
    | with_reducible apply keptO_ite
    | with_reducible apply kept_ite
    | with_reducible apply kept_ite_fst
    | split

theorem kept_irDescriptor {s0 : State} {s : State} {i : Nat} {desc : Option (BitVec 512)} (h : Kept s0 s) :
    Kept s0 (State.irDescriptor s i desc) := by
  unfold State.irDescriptor
  repeat' first
    | with_reducible assumption
    | with_reducible apply kept_irFail
    | with_reducible apply kept_irHalt
    | with_reducible apply kept_fillSlots
    | with_reducible apply kept_hdmaErr
    | with_reducible apply kept_setIring
    | dsimp only
    | with_reducible apply kept_ite
    | with_reducible apply kept_ite_fst
    | split

theorem kept_execIrDescriptorReturn {s0 : State} {i : Nat} {desc : Option (BitVec 512)} {s : State} (h : Kept s0 s) :
    KeptX s0 (execIrDescriptorReturn i desc s) := by
  unfold execIrDescriptorReturn
  repeat' first
    | with_reducible assumption
    | with_reducible exact keptO_none _
    | with_reducible apply keptO_some
    | with_reducible apply keptX_attempt
    | with_reducible apply kept_irDescriptor
    | with_reducible apply kept_hostFetch
    | dsimp only
    | with_reducible intro _
    | with_reducible apply keptO_map
    | with_reducible apply keptO_mapOf
    | with_reducible apply keptO_ite
    | with_reducible apply kept_ite
    | with_reducible apply kept_ite_fst
    | split

theorem kept_writeSlots {s0 : State} {s : State} {pipe : Nat} {slots : List (Bool × Nat × Nat)} {data : List Byte} (h : Kept s0 s) :
    Kept s0 (State.writeSlots s pipe slots data).1 := by
  unfold State.writeSlots
  repeat' first
    | with_reducible assumption
    | with_reducible apply kept_memAccess
    | dsimp only
    | with_reducible intro _
    | with_reducible apply kept_foldl
    | with_reducible apply kept_foldl_fst
    | with_reducible apply kept_ite
    | with_reducible apply kept_ite_fst
    | split

theorem kept_pushSource {s0 : State} {s : State} {pipe : Nat} {port : Nat} {t : SrcTok} (h : Kept s0 s) :
    Kept s0 (State.pushSource s pipe port t) := by
  unfold State.pushSource
  repeat' first
    | with_reducible assumption
    | with_reducible rfl
    | dsimp only
    | with_reducible exact shrinks_refl
    | with_reducible exact keepWf_refl
    | with_reducible exact shrinks_nil
    | exact keepWf_refl
    | exact shrinks_refl
    | with_reducible exact shrinks_tail (by assumption)
    | with_reducible refine kept_mk rfl ?_ ?_ ?_ ?_ ?_ ?_ ?_ ?_ ?_ ?_ ?_

theorem kept_completeStopped {s0 : State} {s : State} {pipe : Nat} {slots : List (Bool × Nat × Nat)} {sm : Sample} (h : Kept s0 s) :
    Kept s0 (State.completeStopped s pipe slots sm) := by
  unfold State.completeStopped
  repeat' first
    | with_reducible assumption
    | with_reducible apply kept_unfillSlots
    | with_reducible apply kept_dropFrames
    | with_reducible apply kept_dueEntry
    | with_reducible apply kept_addWrap
    | dsimp only
    | split

theorem kept_hostWindow {s0 : State} {s : State} {write : Bool} {a : Nat} {len : Nat} {data : List Byte} (h : Kept s0 s) :
    Kept s0 (State.hostWindow s write a len data).1 := by
  unfold State.hostWindow
  repeat' first
    | with_reducible assumption
    | with_reducible apply kept_memAccess
    | with_reducible apply kept_violation
    | dsimp only
    | with_reducible apply kept_ite
    | with_reducible apply kept_ite_fst

theorem kept_irItem {s0 : State} {s : State} {i : Nat} {t : Target} {d : IrDesc} {status : Nat} {data : List Byte} (h : Kept s0 s) :
    Kept s0 (State.irItem s i t d status data) := by
  unfold State.irItem
  repeat' first
    | with_reducible assumption
    | with_reducible rfl
    | with_reducible apply kept_completeStopped
    | with_reducible apply kept_pushSource
    | with_reducible apply kept_writeSlots
    | with_reducible apply kept_irFail
    | with_reducible apply kept_irAdvance
    | with_reducible apply kept_irNext
    | with_reducible apply kept_unfillSlots
    | with_reducible apply kept_setIring
    | dsimp only
    | with_reducible apply kept_ite
    | with_reducible apply kept_ite_fst
    | split
    | with_reducible exact shrinks_refl
    | with_reducible exact keepWf_refl
    | with_reducible exact shrinks_nil
    | exact keepWf_refl
    | exact shrinks_refl
    | with_reducible exact shrinks_tail (by assumption)
    | with_reducible refine kept_mk rfl ?_ ?_ ?_ ?_ ?_ ?_ ?_ ?_ ?_ ?_ ?_

theorem kept_execIrDataReturn {s0 : State} {i : Nat} {data : Option (List Byte)} {s : State} (h : Kept s0 s) :
    KeptX s0 (execIrDataReturn i data s) := by
  unfold execIrDataReturn
  repeat' first
    | with_reducible assumption
    | with_reducible exact keptO_none _
    | with_reducible apply keptO_some
    | with_reducible apply keptX_attempt
    | with_reducible apply kept_irItem
    | with_reducible apply kept_hostWindow
    | with_reducible apply kept_hdmaErr
    | with_reducible apply kept_hostFetch
    | dsimp only
    | with_reducible apply keptO_ite
    | with_reducible apply kept_ite
    | with_reducible apply kept_ite_fst
    | split

theorem kept_rrModerate {s0 : State} {s : State} {j : Nat} (h : Kept s0 s) :
    Kept s0 (State.rrModerate s j) := by
  unfold State.rrModerate
  repeat' first
    | with_reducible assumption
    | with_reducible apply kept_sendMsix
    | with_reducible apply kept_setRring
    | dsimp only
    | with_reducible apply kept_ite

theorem kept_rrWrite {s0 : State} {s : State} {j : Nat} {e : ResEntry} (h : Kept s0 s) :
    Kept s0 (State.rrWrite s j e) := by
  unfold State.rrWrite
  repeat' first
    | with_reducible assumption
    | with_reducible apply kept_rrModerate
    | with_reducible apply kept_postWord
    | with_reducible apply kept_entryDone
    | with_reducible apply kept_postHost
    | with_reducible apply kept_setIring
    | with_reducible apply kept_addWrap
    | with_reducible apply kept_setReg
    | dsimp only
    | with_reducible apply kept_ite
    | with_reducible apply kept_ite_fst
    | split

theorem kept_execRrEntryWrite {s0 : State} {j : Nat} {s : State} (h : Kept s0 s) :
    KeptX s0 (execRrEntryWrite j s) := by
  unfold execRrEntryWrite
  repeat' first
    | with_reducible assumption
    | with_reducible exact keptO_none _
    | with_reducible apply keptO_some
    | with_reducible apply keptX_attempt
    | with_reducible apply kept_rrWrite
    | with_reducible apply kept_setRring
    | with_reducible apply kept_setFld
    | dsimp only
    | with_reducible apply keptO_ite
    | with_reducible apply kept_ite
    | with_reducible apply kept_ite_fst
    | split

theorem kept_rrLoad {s0 : State} {s : State} {j : Nat} {cons : Option B32} (h : Kept s0 s) :
    Kept s0 (State.rrLoad s j cons) := by
  unfold State.rrLoad
  repeat' first
    | with_reducible assumption
    | with_reducible apply kept_postWord
    | with_reducible apply kept_hdmaErr
    | with_reducible apply kept_setRring
    | with_reducible apply kept_setBit
    | with_reducible apply kept_setFld
    | with_reducible apply kept_setReg
    | dsimp only
    | split

theorem kept_evtLoad {s0 : State} {s : State} {cons : Option B32} (h : Kept s0 s) :
    Kept s0 (State.evtLoad s cons) := by
  unfold State.evtLoad
  repeat' first
    | with_reducible assumption
    | with_reducible rfl
    | with_reducible apply kept_postWord
    | with_reducible apply kept_hdmaErr
    | with_reducible apply kept_setBit
    | with_reducible apply kept_setFld
    | dsimp only
    | split
    | with_reducible exact shrinks_refl
    | with_reducible exact keepWf_refl
    | exact keepWf_refl
    | exact shrinks_refl
    | with_reducible exact shrinks_tail (by assumption)
    | with_reducible refine kept_mk rfl ?_ ?_ ?_ ?_ ?_ ?_ ?_ ?_ ?_ ?_ ?_

theorem kept_rrReread {s0 : State} {s : State} {j : Nat} {cons : Option B32} (h : Kept s0 s) :
    Kept s0 (State.rrReread s j cons) := by
  unfold State.rrReread
  repeat' first
    | with_reducible assumption
    | with_reducible apply kept_hdmaErr
    | with_reducible apply kept_setRring
    | with_reducible apply kept_setBit
    | dsimp only
    | with_reducible apply kept_ite
    | with_reducible apply kept_ite_fst
    | split

theorem kept_evtReread {s0 : State} {s : State} {cons : Option B32} (h : Kept s0 s) :
    Kept s0 (State.evtReread s cons) := by
  unfold State.evtReread
  repeat' first
    | with_reducible assumption
    | with_reducible rfl
    | with_reducible apply kept_hdmaErr
    | dsimp only
    | with_reducible apply kept_ite
    | with_reducible apply kept_ite_fst
    | split
    | with_reducible exact shrinks_refl
    | with_reducible exact keepWf_refl
    | exact keepWf_refl
    | exact shrinks_refl
    | with_reducible exact shrinks_tail (by assumption)
    | with_reducible refine kept_mk rfl ?_ ?_ ?_ ?_ ?_ ?_ ?_ ?_ ?_ ?_ ?_

theorem kept_execRrConsumerReread {s0 : State} {j : Nat} {cons : Option B32} {s : State} (h : Kept s0 s) :
    KeptX s0 (execRrConsumerReread j cons s) := by
  unfold execRrConsumerReread
  repeat' first
    | with_reducible assumption
    | with_reducible exact keptO_none _
    | with_reducible apply keptO_some
    | with_reducible apply keptX_attempt
    | with_reducible apply kept_evtReread
    | with_reducible apply kept_rrReread
    | with_reducible apply kept_evtLoad
    | with_reducible apply kept_rrLoad
    | with_reducible apply kept_fetchWord
    | dsimp only
    | with_reducible apply keptO_ite
    | with_reducible apply kept_ite
    | with_reducible apply kept_ite_fst
    | split

theorem kept_rrStart {s0 : State} {s : State} {j : Nat} {v : B32} (h : Kept s0 s) :
    Kept s0 (State.rrStart s j v) := by
  unfold State.rrStart
  repeat' first
    | with_reducible assumption
    | with_reducible apply kept_rrLoad
    | with_reducible apply kept_setRring
    | with_reducible apply kept_setFld
    | with_reducible apply kept_setReg
    | dsimp only
    | with_reducible apply kept_ite
    | with_reducible apply kept_ite_fst
    | split

theorem kept_execRrEnable {s0 : State} {j : Nat} {v : B32} {cons : Option B32} {s : State} (h : Kept s0 s) :
    KeptX s0 (execRrEnable j v cons s) := by
  unfold execRrEnable
  repeat' first
    | with_reducible assumption
    | with_reducible exact keptO_none _
    | with_reducible apply keptO_some
    | with_reducible apply keptX_attempt
    | with_reducible apply kept_rrStart
    | with_reducible apply kept_rrLoad
    | with_reducible apply kept_setFld
    | with_reducible apply kept_setReg
    | dsimp only
    | with_reducible apply keptO_ite
    | with_reducible apply kept_ite
    | with_reducible apply kept_ite_fst
    | split

theorem kept_execRrDisable {s0 : State} {j : Nat} {v : B32} {s : State} (h : Kept s0 s) :
    KeptX s0 (execRrDisable j v s) := by
  unfold execRrDisable
  repeat' first
    | with_reducible assumption
    | with_reducible exact keptO_none _
    | with_reducible apply keptO_some
    | with_reducible apply keptX_attempt
    | with_reducible apply kept_entryDone
    | with_reducible apply kept_setRring
    | with_reducible apply kept_addSat
    | with_reducible apply kept_setBit
    | with_reducible apply kept_setFld
    | dsimp only
    | with_reducible intro _
    | with_reducible apply kept_foldl
    | with_reducible apply kept_foldl_fst
    | with_reducible apply keptO_ite

theorem kept_execMsixModerationExpire {s0 : State} {j : Nat} {s : State} (h : Kept s0 s) :
    KeptX s0 (execMsixModerationExpire j s) := by
  unfold execMsixModerationExpire
  repeat' first
    | with_reducible assumption
    | with_reducible rfl
    | with_reducible exact keptO_none _
    | with_reducible apply keptO_some
    | with_reducible apply keptX_attempt
    | with_reducible apply kept_sendMsix
    | with_reducible apply kept_setRring
    | dsimp only
    | with_reducible apply keptO_ite
    | with_reducible apply kept_ite
    | with_reducible apply kept_ite_fst
    | with_reducible exact shrinks_refl
    | with_reducible exact keepWf_refl
    | exact keepWf_refl
    | exact shrinks_refl
    | with_reducible exact shrinks_tail (by assumption)
    | with_reducible refine kept_mk rfl ?_ ?_ ?_ ?_ ?_ ?_ ?_ ?_ ?_ ?_ ?_

theorem kept_execMsixUnmask {s0 : State} {vec : Nat} {s : State} (h : Kept s0 s) :
    KeptX s0 (execMsixUnmask vec s) := by
  unfold execMsixUnmask
  repeat' first
    | with_reducible assumption
    | with_reducible exact keptO_none _
    | with_reducible apply keptO_some
    | with_reducible apply keptX_attempt
    | with_reducible apply kept_sendMsix
    | with_reducible apply kept_setBit
    | dsimp only
    | with_reducible apply keptO_ite
    | with_reducible apply kept_ite

theorem kept_heartbeat {s0 : State} {s : State} {word : Option B32} (h : Kept s0 s) :
    Kept s0 (State.heartbeat s word) := by
  unfold State.heartbeat
  repeat' first
    | with_reducible assumption
    | with_reducible rfl
    | with_reducible apply kept_enterAbsent
    | with_reducible apply kept_hdmaErr
    | with_reducible apply kept_setReg
    | dsimp only
    | with_reducible apply kept_ite
    | with_reducible apply kept_ite_fst
    | split
    | with_reducible exact shrinks_refl
    | with_reducible exact keepWf_refl
    | exact keepWf_refl
    | exact shrinks_refl
    | with_reducible exact shrinks_tail (by assumption)
    | with_reducible refine kept_mk rfl ?_ ?_ ?_ ?_ ?_ ?_ ?_ ?_ ?_ ?_ ?_

theorem kept_execHeartbeatRead {s0 : State} {word : Option B32} {s : State} (h : Kept s0 s) :
    KeptX s0 (execHeartbeatRead word s) := by
  unfold execHeartbeatRead
  repeat' first
    | with_reducible assumption
    | with_reducible exact keptO_none _
    | with_reducible apply keptO_some
    | with_reducible apply keptX_attempt
    | with_reducible apply kept_heartbeat
    | with_reducible apply kept_fetchWord
    | dsimp only
    | with_reducible apply keptO_ite
    | with_reducible apply kept_ite
    | with_reducible apply kept_ite_fst
    | split

theorem kept_execHostDetach {s0 : State} {s : State} (h : Kept s0 s) :
    KeptX s0 (execHostDetach s) := by
  unfold execHostDetach
  repeat' first
    | with_reducible assumption
    | with_reducible exact keptO_none _
    | with_reducible apply keptO_some
    | with_reducible apply keptX_attempt
    | with_reducible apply kept_enterAbsent
    | dsimp only
    | with_reducible apply keptO_ite

theorem kept_attach {s0 : State} {s : State} (h : Kept s0 s) :
    Kept s0 (State.attach s) := by
  unfold State.attach
  repeat' first
    | with_reducible assumption
    | with_reducible rfl
    | with_reducible apply kept_irNext
    | with_reducible apply kept_setRring
    | with_reducible apply kept_setBit
    | dsimp only
    | with_reducible intro _
    | with_reducible apply kept_foldl
    | with_reducible apply kept_foldl_fst
    | with_reducible apply kept_ite
    | with_reducible apply kept_ite_fst
    | with_reducible exact shrinks_refl
    | with_reducible exact keepWf_refl
    | with_reducible exact shrinks_nil
    | exact keepWf_refl
    | exact shrinks_refl
    | with_reducible exact shrinks_tail (by assumption)
    | with_reducible refine kept_mk rfl ?_ ?_ ?_ ?_ ?_ ?_ ?_ ?_ ?_ ?_ ?_

theorem kept_execHostAttach {s0 : State} {s : State} (h : Kept s0 s) :
    KeptX s0 (execHostAttach s) := by
  unfold execHostAttach
  repeat' first
    | with_reducible assumption
    | with_reducible exact keptO_none _
    | with_reducible apply keptO_some
    | with_reducible apply keptX_attempt
    | with_reducible apply kept_attach
    | dsimp only
    | with_reducible apply keptO_ite

theorem kept_pathGone {s0 : State} {s : State} (h : Kept s0 s) :
    Kept s0 (State.pathGone s) := by
  unfold State.pathGone
  repeat' first
    | with_reducible assumption
    | with_reducible apply kept_enterAbsent
    | dsimp only
    | with_reducible apply kept_ite

theorem kept_linkDown {s0 : State} {s : State} (h : Kept s0 s) :
    Kept s0 (State.linkDown s) := by
  unfold State.linkDown
  repeat' first
    | with_reducible assumption
    | with_reducible rfl
    | with_reducible apply kept_pathGone
    | dsimp only
    | with_reducible exact shrinks_refl
    | with_reducible exact keepWf_refl
    | exact keepWf_refl
    | exact shrinks_refl
    | with_reducible exact shrinks_tail (by assumption)
    | with_reducible refine kept_mk rfl ?_ ?_ ?_ ?_ ?_ ?_ ?_ ?_ ?_ ?_ ?_

theorem kept_masterOff {s0 s : State} (h : Kept s0 s) : Kept s0 s.masterOff :=
  kept_pathGone (kept_mk rfl h rfl shrinks_refl shrinks_refl shrinks_refl shrinks_refl
    keepWf_refl keepWf_refl keepWf_refl keepWf_refl keepWf_refl)

theorem kept_execPcieLinkDown {s0 s : State} (h : Kept s0 s) : KeptX s0 (execPcieLinkDown s) := by
  have h1 : Kept s0 { s with freeIx := s.freeIx + 1 } := kept_mk rfl h rfl shrinks_refl shrinks_refl shrinks_refl
    shrinks_refl keepWf_refl keepWf_refl keepWf_refl keepWf_refl keepWf_refl
  exact keptX_attempt h (keptO_ite (keptO_some (kept_ite (kept_masterOff h1) (kept_linkDown h1))) (keptO_none _))

theorem kept_execPcieLinkUp {s0 : State} {s : State} (h : Kept s0 s) :
    KeptX s0 (execPcieLinkUp s) := by
  unfold execPcieLinkUp
  repeat' first
    | with_reducible assumption
    | with_reducible rfl
    | with_reducible exact keptO_none _
    | with_reducible apply keptO_some
    | with_reducible apply keptX_attempt
    | dsimp only
    | with_reducible apply keptO_ite
    | with_reducible apply kept_ite
    | with_reducible apply kept_ite_fst
    | with_reducible exact shrinks_refl
    | with_reducible exact keepWf_refl
    | exact keepWf_refl
    | exact shrinks_refl
    | with_reducible exact shrinks_tail (by assumption)
    | with_reducible refine kept_mk rfl ?_ ?_ ?_ ?_ ?_ ?_ ?_ ?_ ?_ ?_ ?_

theorem kept_execPciePerst {s0 : State} {s : State} (h : Kept s0 s) :
    KeptX s0 (execPciePerst s) := by
  unfold execPciePerst
  repeat' first
    | with_reducible assumption
    | with_reducible rfl
    | with_reducible exact keptO_none _
    | with_reducible apply keptO_some
    | with_reducible apply keptX_attempt
    | with_reducible apply kept_linkDown
    | dsimp only
    | with_reducible apply keptO_ite
    | with_reducible apply kept_ite
    | with_reducible apply kept_ite_fst
    | with_reducible exact shrinks_refl
    | with_reducible exact keepWf_refl
    | exact keepWf_refl
    | exact shrinks_refl
    | with_reducible exact shrinks_tail (by assumption)
    | with_reducible refine kept_mk rfl ?_ ?_ ?_ ?_ ?_ ?_ ?_ ?_ ?_ ?_ ?_

theorem kept_execPciePerstRelease {s0 : State} {s : State} (h : Kept s0 s) :
    KeptX s0 (execPciePerstRelease s) := by
  unfold execPciePerstRelease
  repeat' first
    | with_reducible assumption
    | with_reducible rfl
    | with_reducible exact keptO_none _
    | with_reducible apply keptO_some
    | with_reducible apply keptX_attempt
    | dsimp only
    | with_reducible apply keptO_ite
    | with_reducible apply kept_ite
    | with_reducible apply kept_ite_fst
    | with_reducible exact shrinks_refl
    | with_reducible exact keepWf_refl
    | exact keepWf_refl
    | exact shrinks_refl
    | with_reducible exact shrinks_tail (by assumption)
    | with_reducible refine kept_mk rfl ?_ ?_ ?_ ?_ ?_ ?_ ?_ ?_ ?_ ?_ ?_

theorem kept_giveUpEntries {s0 : State} {s : State} (h : Kept s0 s) :
    Kept s0 (State.giveUpEntries s) := by
  unfold State.giveUpEntries
  repeat' first
    | with_reducible assumption
    | with_reducible apply kept_entryDone
    | with_reducible apply kept_setRring
    | dsimp only
    | with_reducible intro _
    | with_reducible apply kept_foldl

theorem kept_resetRings {s0 : State} {s : State} (h : Kept s0 s) :
    Kept s0 (State.resetRings s) := by
  unfold State.resetRings
  repeat' first
    | with_reducible assumption
    | with_reducible rfl
    | with_reducible apply kept_giveUpEntries
    | dsimp only
    | with_reducible intro _
    | with_reducible exact shrinks_refl
    | with_reducible exact keepWf_refl
    | with_reducible exact keepWf_dropWhere
    | with_reducible exact shrinks_nil
    | exact keepWf_refl
    | exact shrinks_refl
    | with_reducible exact shrinks_tail (by assumption)
    | with_reducible refine kept_mk rfl ?_ ?_ ?_ ?_ ?_ ?_ ?_ ?_ ?_ ?_ ?_

theorem kept_execFunctionLevelReset {s0 : State} {s : State} (h : Kept s0 s) :
    KeptX s0 (execFunctionLevelReset s) := by
  unfold execFunctionLevelReset
  repeat' first
    | with_reducible assumption
    | with_reducible exact keptO_none _
    | with_reducible apply keptO_some
    | with_reducible apply keptX_attempt
    | with_reducible apply kept_resetRings
    | with_reducible apply kept_enterAbsent
    | dsimp only
    | with_reducible apply keptO_ite

theorem kept_execBufEntryWrite {s0 : State} {b : Nat} {v : B32} {s : State} (h : Kept s0 s) :
    KeptX s0 (execBufEntryWrite b v s) := by
  unfold execBufEntryWrite
  repeat' first
    | with_reducible assumption
    | with_reducible exact keptO_none _
    | with_reducible apply keptO_some
    | with_reducible apply keptX_attempt
    | with_reducible apply kept_setReg
    | dsimp only
    | with_reducible apply keptO_ite

end Sys2Proof.Machine
end

