-- ==== Sys2Proof/Laws/KeptTiles.lean ====
section
/-!
SUPPORT. What the state keeps (`Kept`): the tiles, the engines on them and the Aster core.
One lemma for each operation and each command: its next state keeps the queue, the fuses and the invariant.
-/
namespace Sys2Proof.Machine

/-! ## Tile -/

theorem kept_bankWait {s0 : State} {s : State} {t : Nat} {b : Nat} (h : Kept s0 s) :
    Kept s0 (State.bankWait s t b) := by
  unfold State.bankWait
  repeat' first
    | with_reducible assumption
    | with_reducible rfl
    | with_reducible apply kept_addSat
    | dsimp only
    | with_reducible exact shrinks_refl
    | with_reducible exact keepWf_refl
    | exact keepWf_refl
    | exact shrinks_refl
    | with_reducible exact shrinks_tail (by assumption)
    | with_reducible refine kept_mk rfl ?_ ?_ ?_ ?_ ?_ ?_ ?_ ?_ ?_ ?_ ?_

theorem kept_bankWaits {s0 : State} {s : State} {t : Nat} (h : Kept s0 s) :
    Kept s0 (State.bankWaits s t) := by
  unfold State.bankWaits
  repeat' first
    | with_reducible assumption
    | with_reducible apply kept_bankWait
    | dsimp only
    | with_reducible intro _
    | with_reducible apply kept_foldl

theorem kept_inkLog {s0 : State} {s : State} {t : Nat} {row : Nat} {rq : Nat} {cause : Nat} {word : Nat} (h : Kept s0 s) :
    Kept s0 (State.inkLog s t row rq cause word) := by
  unfold State.inkLog
  repeat' first
    | with_reducible assumption
    | with_reducible apply kept_setReg
    | with_reducible apply kept_raise

theorem kept_loseSlice {s0 : State} {s : State} {t : Nat} {sl : Nat} (h : Kept s0 s) :
    Kept s0 (State.loseSlice s t sl) := by
  unfold State.loseSlice
  repeat' first
    | with_reducible assumption
    | with_reducible apply kept_setTile

theorem kept_setRemap {s0 : State} {s : State} {t : Nat} {bank : Nat} {entry : Nat} {loc : Nat} (h : Kept s0 s) :
    Kept s0 (State.setRemap s t bank entry loc) := by
  unfold State.setRemap
  repeat' first
    | with_reducible assumption
    | with_reducible apply kept_loseSlice
    | with_reducible apply kept_inkLog
    | with_reducible apply kept_setTile
    | with_reducible apply kept_addFld
    | dsimp only
    | with_reducible apply kept_ite

theorem kept_dueRetire {s0 : State} {s : State} {t : Nat} {cause : Nat} {info : B32} (h : Kept s0 s) :
    Kept s0 (State.dueRetire s t cause info) := by
  unfold State.dueRetire
  repeat' first
    | with_reducible assumption
    | with_reducible apply kept_setCluster
    | with_reducible apply kept_setTile
    | dsimp only
    | with_reducible apply kept_ite

theorem kept_spareNow {s0 : State} {s : State} {t : Nat} {row : Nat} {word : Nat} {ep : Option (B32 × Nat)} (h : Kept s0 s) :
    Kept s0 (State.spareNow s t row word ep) := by
  unfold State.spareNow
  repeat' first
    | with_reducible assumption
    | with_reducible apply kept_dueRetire
    | with_reducible apply kept_setRemap
    | with_reducible apply kept_fault
    | dsimp only
    | split

theorem kept_spareRow {s0 : State} {s : State} {t : Nat} {row : Nat} {word : Nat} {ep : Option (B32 × Nat)} (h : Kept s0 s) :
    Kept s0 (State.spareRow s t row word ep) := by
  unfold State.spareRow
  repeat' first
    | with_reducible assumption
    | with_reducible rfl
    | with_reducible apply kept_spareNow
    | with_reducible apply kept_noteEpoch
    | dsimp only
    | with_reducible apply kept_ite
    | with_reducible apply kept_ite_fst
    | split
    | with_reducible exact shrinks_refl
    | with_reducible exact keepWf_refl
    | with_reducible exact shrinks_nil
    | exact keepWf_refl
    | exact shrinks_refl
    | with_reducible exact shrinks_tail (by assumption)
    | with_reducible refine kept_mk rfl ?_ ?_ ?_ ?_ ?_ ?_ ?_ ?_ ?_ ?_ ?_

theorem kept_inkRead {s0 : State} {s : State} {t : Nat} {row : Nat} {rq : Nat} {ep : Option (B32 × Nat)} (h : Kept s0 s) :
    Kept s0 (State.inkRead s t row rq ep).1 := by
  unfold State.inkRead
  repeat' first
    | with_reducible assumption
    | with_reducible apply kept_spareRow
    | with_reducible apply kept_inkLog
    | with_reducible apply kept_setTile
    | with_reducible apply kept_addFld
    | dsimp only
    | with_reducible apply kept_ite
    | with_reducible apply kept_ite_fst

theorem kept_inkWrite {s0 : State} {s : State} {t : Nat} {row : Nat} {rq : Nat} {v : Row} (h : Kept s0 s) :
    Kept s0 (State.inkWrite s t row rq v).1 := by
  unfold State.inkWrite
  repeat' first
    | with_reducible assumption
    | with_reducible apply kept_inkLog
    | with_reducible apply kept_setTile
    | dsimp only
    | with_reducible apply kept_ite
    | with_reducible apply kept_ite_fst

theorem kept_inkReads {s0 : State} {s : State} {t : Nat} {rq : Nat} {ep : Option (B32 × Nat)} {a4 : List Nat} (h : Kept s0 s) :
    Kept s0 (State.inkReads s t rq ep a4).1 := by
  induction a4 generalizing s t rq ep with
  | nil =>
    unfold State.inkReads
    repeat' first
      | with_reducible assumption
  | cons x l ih =>
    unfold State.inkReads
    repeat' first
      | with_reducible apply ih
      | with_reducible assumption
      | with_reducible apply kept_inkRead
      | dsimp only
      | with_reducible apply kept_ite
      | with_reducible apply kept_ite_fst

theorem kept_inkWrites {s0 : State} {s : State} {t : Nat} {rq : Nat} {a3 : List (Nat × Row)} (h : Kept s0 s) :
    Kept s0 (State.inkWrites s t rq a3).1 := by
  induction a3 generalizing s t rq with
  | nil =>
    unfold State.inkWrites
    repeat' first
      | with_reducible assumption
  | cons x l ih =>
    unfold State.inkWrites
    repeat' first
      | with_reducible apply ih
      | with_reducible assumption
      | with_reducible apply kept_inkWrite
      | dsimp only
      | with_reducible apply kept_ite
      | with_reducible apply kept_ite_fst

theorem kept_tellResident {s0 : State} {s : State} {t : Nat} {r : Resident} (h : Kept s0 s) :
    Kept s0 (State.tellResident s t r) := by
  unfold State.tellResident
  repeat' first
    | with_reducible assumption
    | with_reducible apply kept_sendCtrl
    | dsimp only
    | with_reducible intro _
    | with_reducible apply kept_foldl
    | with_reducible apply kept_foldl_fst
    | split

theorem kept_takePosition {s0 : State} {s : State} {t : Nat} {r : Resident} (h : Kept s0 s) :
    Kept s0 (State.takePosition s t r) := by
  unfold State.takePosition
  repeat' first
    | with_reducible assumption
    | with_reducible apply kept_tellResident
    | with_reducible apply kept_setProg
    | with_reducible apply kept_setTile
    | dsimp only
    | with_reducible intro _
    | with_reducible apply kept_foldl
    | with_reducible apply kept_foldl_fst
    | with_reducible apply kept_ite
    | with_reducible apply kept_ite_fst
    | split

theorem kept_settleTile {s0 : State} {s : State} {t : Nat} (h : Kept s0 s) :
    Kept s0 (State.settleTile s t) := by
  unfold State.settleTile
  repeat' first
    | with_reducible assumption
    | with_reducible apply kept_takePosition
    | dsimp only
    | with_reducible apply kept_ite
    | with_reducible apply kept_ite_fst
    | split

theorem kept_leaveTile {s0 : State} {s : State} {t : Nat} {e : B32} (h : Kept s0 s) :
    Kept s0 (State.leaveTile s t e) := by
  unfold State.leaveTile
  repeat' first
    | with_reducible assumption
    | with_reducible apply kept_setTile
    | dsimp only
    | with_reducible apply kept_ite

theorem kept_beginStep {s0 : State} {s : State} {st : StepRef} (h : Kept s0 s) :
    Kept s0 (State.beginStep s st) := by
  unfold State.beginStep
  repeat' first
    | with_reducible assumption
    | with_reducible apply kept_setProg
    | with_reducible apply kept_setEpoch
    | with_reducible apply kept_setBook
    | dsimp only
    | with_reducible intro _
    | with_reducible apply kept_foldl
    | with_reducible apply kept_foldl_fst
    | with_reducible apply kept_ite
    | with_reducible apply kept_ite_fst
    | split

theorem kept_tellLayer {s0 : State} {s : State} {p : Pipe} {st : StepRef} (h : Kept s0 s) :
    Kept s0 (State.tellLayer s p st) := by
  unfold State.tellLayer
  repeat' first
    | with_reducible assumption
    | with_reducible apply kept_sendCtrl
    | dsimp only
    | with_reducible intro _
    | with_reducible apply kept_foldl
    | with_reducible apply kept_foldl_fst
    | with_reducible apply kept_ite

theorem kept_finishStep {s0 : State} {s : State} {st : StepRef} (h : Kept s0 s) :
    Kept s0 (State.finishStep s st) := by
  unfold State.finishStep
  repeat' first
    | with_reducible assumption
    | with_reducible apply kept_tellLayer
    | with_reducible apply kept_sendToken
    | with_reducible apply kept_returnSlot
    | with_reducible apply kept_sendReport
    | with_reducible apply kept_setProg
    | dsimp only
    | with_reducible intro _
    | with_reducible apply kept_foldl
    | with_reducible apply kept_foldl_fst
    | with_reducible apply kept_ite
    | with_reducible apply kept_ite_fst
    | split

theorem kept_abortStep {s0 : State} {s : State} {st : StepRef} {status : Nat} (h : Kept s0 s) :
    Kept s0 (State.abortStep s st status) := by
  unfold State.abortStep
  repeat' first
    | with_reducible assumption
    | with_reducible apply kept_failStep
    | with_reducible apply kept_setProg

theorem kept_descParity {s0 : State} {s : State} {st : StepRef} (h : Kept s0 s) :
    Kept s0 (State.descParity s st) := by
  unfold State.descParity
  repeat' first
    | with_reducible assumption
    | with_reducible apply kept_abortStep
    | with_reducible apply kept_beginStep
    | with_reducible apply kept_fault

theorem kept_readDesc {s0 : State} {s : State} {x : StepCmd} {go : Option State} (h : Kept s0 s) (hgo : KeptO s0 go) :
    KeptO s0 (State.readDesc s x go) := by
  unfold State.readDesc
  repeat' first
    | with_reducible assumption
    | with_reducible apply kept_descParity
    | dsimp only
    | with_reducible intro _
    | with_reducible apply keptO_map
    | with_reducible apply keptO_mapOf
    | with_reducible apply keptO_ite

theorem kept_markCold {s0 : State} {s : State} {st : StepRef} (h : Kept s0 s) :
    Kept s0 (State.markCold s st) := by
  unfold State.markCold
  repeat' first
    | with_reducible assumption
    | with_reducible apply kept_setEpoch
    | dsimp only
    | with_reducible apply kept_ite
    | with_reducible apply kept_ite_fst
    | split

/-! ## Matrix -/

theorem kept_setRun {s0 : State} {s : State} {t : Nat} {r : Run} (h : Kept s0 s) :
    Kept s0 (State.setRun s t r) := by
  unfold State.setRun
  repeat' first
    | with_reducible assumption
    | with_reducible apply kept_setTile

theorem kept_dropRun {s0 : State} {s : State} {t : Nat} {st : StepRef} (h : Kept s0 s) :
    Kept s0 (State.dropRun s t st) := by
  unfold State.dropRun
  repeat' first
    | with_reducible assumption
    | with_reducible apply kept_setTile

theorem kept_inkReadsBy {s0 : State} {s : State} {t : Nat} {ep : Option (B32 × Nat)} {a3 : List (Nat × Nat)} (h : Kept s0 s) :
    Kept s0 (State.inkReadsBy s t ep a3).1 := by
  induction a3 generalizing s t ep with
  | nil =>
    unfold State.inkReadsBy
    repeat' first
      | with_reducible assumption
  | cons x l ih =>
    unfold State.inkReadsBy
    repeat' first
      | with_reducible apply ih
      | with_reducible assumption
      | with_reducible apply kept_inkRead
      | dsimp only
      | with_reducible apply kept_ite
      | with_reducible apply kept_ite_fst

theorem kept_readChunks {s0 : State} {s : State} {t : Nat} {ep : Option (B32 × Nat)} {g : Geo} {b : Nat} {a5 : List Nat} (h : Kept s0 s) :
    Kept s0 (State.readChunks s t ep g b a5).1 := by
  induction a5 generalizing s t ep g b with
  | nil =>
    unfold State.readChunks
    repeat' first
      | with_reducible assumption
  | cons x l ih =>
    unfold State.readChunks
    repeat' first
      | with_reducible apply ih
      | with_reducible assumption
      | with_reducible apply kept_inkReadsBy
      | dsimp only
      | with_reducible apply kept_ite
      | with_reducible apply kept_ite_fst

theorem kept_arrayBlock {s0 : State} {s : State} {t : Nat} {ep : Option (B32 × Nat)} {g : Geo} {b : Nat} (h : Kept s0 s) :
    Kept s0 (State.arrayBlock s t ep g b).1 := by
  unfold State.arrayBlock
  repeat' first
    | with_reducible assumption
    | with_reducible apply kept_readChunks
    | with_reducible apply kept_inkWrites

theorem kept_runBlock {s0 : State} {s : State} {t : Nat} {r : Run} {b : Nat} (h : Kept s0 s) :
    Kept s0 (State.runBlock s t r b).1 := by
  unfold State.runBlock
  repeat' first
    | with_reducible assumption
    | with_reducible apply kept_arrayBlock
    | with_reducible apply kept_inkReadsBy
    | with_reducible apply kept_inkWrites
    | dsimp only
    | with_reducible apply kept_ite
    | with_reducible apply kept_ite_fst
    | split

theorem kept_splitArrive {s0 : State} {s : State} {t : Nat} {own : StepRef} {row : Nat} {ix : Nat} {v : Row} (h : Kept s0 s) :
    Kept s0 (State.splitArrive s t own row ix v).1 := by
  unfold State.splitArrive
  repeat' first
    | with_reducible assumption
    | with_reducible apply kept_inkWrite
    | with_reducible apply kept_stageClamps
    | with_reducible apply kept_setTile
    | dsimp only
    | with_reducible apply kept_ite
    | with_reducible apply kept_ite_fst

theorem kept_splitOwn {s0 : State} {s : State} {t : Nat} {r : Run} {b : Nat} (h : Kept s0 s) :
    Kept s0 (State.splitOwn s t r b).1 := by
  unfold State.splitOwn
  repeat' first
    | with_reducible assumption
    | with_reducible apply kept_splitArrive
    | dsimp only
    | with_reducible intro _
    | with_reducible apply kept_foldl
    | with_reducible apply kept_foldl_fst
    | with_reducible apply kept_ite
    | with_reducible apply kept_ite_fst
    | split

theorem kept_advanceRun {s0 : State} {a : Nat} {a1 : State} {a2 : Nat} {a3 : StepRef} (h : Kept s0 a1) :
    Kept s0 (State.advanceRun a a1 a2 a3) := by
  induction a generalizing a1 a2 a3 with
  | zero =>
    unfold State.advanceRun
    repeat' first
      | with_reducible assumption
  | succ n ih =>
    unfold State.advanceRun
    repeat' first
      | with_reducible apply ih
      | with_reducible assumption
      | with_reducible apply kept_splitOwn
      | with_reducible apply kept_runBlock
      | with_reducible apply kept_dropRun
      | with_reducible apply kept_setRun
      | with_reducible apply kept_abortStep
      | dsimp only
      | with_reducible apply kept_ite
      | with_reducible apply kept_ite_fst
      | split

theorem kept_arrErr {s0 : State} {s : State} {t : Nat} {st : Nat} {byte : Nat} (h : Kept s0 s) :
    Kept s0 (State.arrErr s t st byte) := by
  unfold State.arrErr
  repeat' first
    | with_reducible assumption
    | with_reducible apply kept_setReg

theorem kept_nibErr {s0 : State} {s : State} {t : Nat} {st : Nat} {pc : Nat} (h : Kept s0 s) :
    Kept s0 (State.nibErr s t st pc) := by
  unfold State.nibErr
  repeat' first
    | with_reducible assumption
    | with_reducible apply kept_setReg

theorem kept_startRun {s0 : State} {s : State} {t : Nat} {r : Run} (h : Kept s0 s) :
    Kept s0 (State.startRun s t r) := by
  unfold State.startRun
  repeat' first
    | with_reducible assumption
    | with_reducible apply kept_nibErr
    | with_reducible apply kept_advanceRun
    | with_reducible apply kept_abortStep
    | with_reducible apply kept_setTile
    | dsimp only
    | with_reducible apply kept_ite

theorem kept_computeStart {s0 : State} {s : State} {st : StepRef} {kind : RunKind} (h : Kept s0 s) :
    KeptO s0 (State.computeStart s st kind) := by
  unfold State.computeStart
  repeat' first
    | with_reducible assumption
    | with_reducible exact keptO_none _
    | with_reducible apply keptO_some
    | with_reducible apply kept_startRun
    | with_reducible apply kept_nibErr
    | with_reducible apply kept_arrErr
    | with_reducible apply kept_markCold
    | with_reducible apply kept_abortStep
    | with_reducible apply kept_finishStep
    | with_reducible apply kept_beginStep
    | dsimp only
    | with_reducible apply keptO_ite
    | with_reducible apply kept_ite
    | with_reducible apply kept_ite_fst
    | split

theorem kept_execMatrixStepStart {s0 : State} {x : StepCmd} {s : State} (h : Kept s0 s) :
    KeptX s0 (execMatrixStepStart x s) := by
  unfold execMatrixStepStart
  repeat' first
    | with_reducible assumption
    | with_reducible apply keptX_attempt
    | with_reducible apply kept_computeStart
    | with_reducible apply kept_readDesc

theorem kept_execVconvStepStart {s0 : State} {x : StepCmd} {s : State} (h : Kept s0 s) :
    KeptX s0 (execVconvStepStart x s) := by
  unfold execVconvStepStart
  repeat' first
    | with_reducible assumption
    | with_reducible apply keptX_attempt
    | with_reducible apply kept_computeStart
    | with_reducible apply kept_readDesc

theorem kept_computeComplete {s0 : State} {s : State} {st : StepRef} {kind : RunKind} (h : Kept s0 s) :
    KeptO s0 (State.computeComplete s st kind) := by
  unfold State.computeComplete
  repeat' first
    | with_reducible assumption
    | with_reducible exact keptO_none _
    | with_reducible apply keptO_some
    | with_reducible apply kept_dropRun
    | with_reducible apply kept_finishStep
    | with_reducible apply kept_bankWaits
    | with_reducible apply kept_stageClamps
    | with_reducible apply kept_stageCount
    | dsimp only
    | with_reducible apply keptO_ite
    | with_reducible apply kept_ite
    | with_reducible apply kept_ite_fst
    | split

theorem kept_execMatrixStepComplete {s0 : State} {st : StepRef} {s : State} (h : Kept s0 s) :
    KeptX s0 (execMatrixStepComplete st s) := by
  unfold execMatrixStepComplete
  repeat' first
    | with_reducible assumption
    | with_reducible apply keptX_attempt
    | with_reducible apply kept_computeComplete

theorem kept_execVconvStepComplete {s0 : State} {st : StepRef} {s : State} (h : Kept s0 s) :
    KeptX s0 (execVconvStepComplete st s) := by
  unfold execVconvStepComplete
  repeat' first
    | with_reducible assumption
    | with_reducible apply keptX_attempt
    | with_reducible apply kept_computeComplete

theorem kept_setSkip {s0 : State} {s : State} {t : Nat} {col : Bool} {v : B32} (h : Kept s0 s) :
    Kept s0 (State.setSkip s t col v) := by
  unfold State.setSkip
  repeat' first
    | with_reducible assumption
    | with_reducible apply kept_setReg
    | dsimp only
    | with_reducible apply kept_ite

theorem kept_execArrSkipWrite {s0 : State} {rq : Requester} {t : Nat} {col : Bool} {v : B32} {s : State} (h : Kept s0 s) :
    KeptX s0 (execArrSkipWrite rq t col v s) := by
  unfold execArrSkipWrite
  repeat' first
    | with_reducible assumption
    | with_reducible exact keptO_none _
    | with_reducible apply keptO_some
    | with_reducible apply keptX_attempt
    | with_reducible apply kept_setSkip
    | with_reducible apply kept_guardReg
    | dsimp only
    | with_reducible intro _
    | with_reducible apply keptO_ite

theorem kept_clearRegs {s0 : State} {s : State} {k : Nat} {n : Nat} (h : Kept s0 s) :
    Kept s0 (State.clearRegs s k n) := by
  unfold State.clearRegs
  repeat' first
    | with_reducible assumption
    | with_reducible apply kept_setReg
    | dsimp only
    | with_reducible intro _
    | with_reducible apply kept_foldl

theorem kept_execArrCntClear {s0 : State} {rq : Requester} {t : Nat} {s : State} (h : Kept s0 s) :
    KeptX s0 (execArrCntClear rq t s) := by
  unfold execArrCntClear
  repeat' first
    | with_reducible assumption
    | with_reducible exact keptO_none _
    | with_reducible apply keptO_some
    | with_reducible apply keptX_attempt
    | with_reducible apply kept_clearRegs
    | with_reducible apply kept_guardReg
    | dsimp only
    | with_reducible intro _
    | with_reducible apply keptO_ite

theorem kept_satWindow {s0 : State} {s : State} {t : Nat} {n : Nat} {at_ : Nat} (h : Kept s0 s) :
    Kept s0 (State.satWindow s t n at_) := by
  unfold State.satWindow
  repeat' first
    | with_reducible assumption
    | with_reducible apply kept_setTile
    | with_reducible apply kept_setReg

theorem kept_satRoll {s0 : State} {s : State} {t : Nat} {n : Nat} (h : Kept s0 s) :
    Kept s0 (State.satRoll s t n) := by
  unfold State.satRoll
  repeat' first
    | with_reducible assumption
    | with_reducible apply kept_satWindow
    | dsimp only
    | with_reducible apply kept_ite
    | with_reducible apply kept_ite_fst
    | split

theorem kept_execSatEnable {s0 : State} {rq : Requester} {t : Nat} {n : Nat} {s : State} (h : Kept s0 s) :
    KeptX s0 (execSatEnable rq t n s) := by
  unfold execSatEnable
  repeat' first
    | with_reducible assumption
    | with_reducible exact keptO_none _
    | with_reducible apply keptO_some
    | with_reducible apply keptX_attempt
    | with_reducible apply kept_satWindow
    | with_reducible apply kept_guardReg
    | with_reducible apply kept_setBit
    | dsimp only
    | with_reducible intro _
    | with_reducible apply keptO_ite

theorem kept_satClear {s0 : State} {s : State} {t : Nat} (h : Kept s0 s) :
    Kept s0 (State.satClear s t) := by
  unfold State.satClear
  repeat' first
    | with_reducible assumption
    | with_reducible apply kept_satWindow
    | with_reducible apply kept_clearRegs
    | with_reducible apply kept_setTile
    | dsimp only
    | with_reducible intro _
    | with_reducible apply kept_foldl
    | with_reducible apply kept_foldl_fst
    | with_reducible apply kept_ite

theorem kept_execSatClear {s0 : State} {rq : Requester} {t : Nat} {s : State} (h : Kept s0 s) :
    KeptX s0 (execSatClear rq t s) := by
  unfold execSatClear
  repeat' first
    | with_reducible assumption
    | with_reducible exact keptO_none _
    | with_reducible apply keptO_some
    | with_reducible apply keptX_attempt
    | with_reducible apply kept_satClear
    | with_reducible apply kept_guardReg
    | dsimp only
    | with_reducible intro _
    | with_reducible apply keptO_ite

theorem kept_satRolls {s0 : State} {s : State} {t : Nat} (h : Kept s0 s) :
    Kept s0 (State.satRolls s t) := by
  unfold State.satRolls
  repeat' first
    | with_reducible assumption
    | with_reducible apply kept_satRoll
    | dsimp only
    | with_reducible intro _
    | with_reducible apply kept_foldl

theorem kept_execSatWindowEnd {s0 : State} {t : Nat} {n : Nat} {s : State} (h : Kept s0 s) :
    KeptX s0 (execSatWindowEnd t n s) := by
  unfold execSatWindowEnd
  repeat' first
    | with_reducible assumption
    | with_reducible exact keptO_none _
    | with_reducible apply keptO_some
    | with_reducible apply keptX_attempt
    | with_reducible apply kept_satWindow
    | dsimp only
    | with_reducible apply keptO_ite
    | with_reducible apply kept_ite
    | with_reducible apply kept_ite_fst
    | split

theorem kept_satCommit {s0 : State} {s : State} {t : Nat} {n : Nat} {amt : Nat} {primary : Bool} (h : Kept s0 s) :
    Kept s0 (State.satCommit s t n amt primary) := by
  unfold State.satCommit
  repeat' first
    | with_reducible assumption
    | with_reducible apply kept_satRoll
    | with_reducible apply kept_setTile
    | with_reducible apply kept_addSat
    | with_reducible apply kept_raise
    | dsimp only
    | with_reducible apply kept_ite

/-! ## Ink -/

theorem kept_stopPipe {s0 : State} {s : State} {p : Nat} (h : Kept s0 s) :
    Kept s0 (State.stopPipe s p) := by
  unfold State.stopPipe
  repeat' first
    | with_reducible assumption
    | with_reducible rfl
    | with_reducible apply kept_completeStopped
    | with_reducible apply kept_endCause
    | with_reducible apply kept_tryService
    | with_reducible apply kept_setPipe
    | with_reducible apply kept_setBit
    | dsimp only
    | with_reducible intro _
    | with_reducible apply kept_foldl
    | with_reducible apply kept_foldl_fst
    | with_reducible apply kept_ite
    | with_reducible apply kept_ite_fst
    | with_reducible exact shrinks_refl
    | with_reducible exact keepWf_refl
    | with_reducible exact keepWf_filter
    | with_reducible exact shrinks_filter
    | with_reducible exact shrinks_nil
    | exact keepWf_refl
    | exact shrinks_refl
    | with_reducible exact shrinks_tail (by assumption)
    | with_reducible refine kept_mk rfl ?_ ?_ ?_ ?_ ?_ ?_ ?_ ?_ ?_ ?_ ?_

theorem kept_powerOff {s0 : State} {s : State} {t : Nat} (h : Kept s0 s) :
    Kept s0 (State.powerOff s t) := by
  unfold State.powerOff
  repeat' first
    | with_reducible assumption
    | with_reducible apply kept_setTile
    | with_reducible apply kept_setReg

theorem kept_checkTiles {s0 : State} {s : State} {c : Nat} (h : Kept s0 s) :
    Kept s0 (State.checkTiles s c) := by
  unfold State.checkTiles
  repeat' first
    | with_reducible assumption
    | with_reducible apply kept_exhaust
    | dsimp only
    | with_reducible apply kept_ite

theorem kept_retire {s0 : State} {s : State} {t : Nat} {cause : Nat} {info : B32} {logical : Option Nat} {new : Option Nat} (h : Kept s0 s) :
    Kept s0 (State.retire s t cause info logical new) := by
  unfold State.retire
  repeat' first
    | with_reducible assumption
    | with_reducible rfl
    | with_reducible apply kept_checkTiles
    | with_reducible apply kept_powerOff
    | with_reducible apply kept_stopPipe
    | with_reducible apply kept_setCluster
    | with_reducible apply kept_setTile
    | with_reducible apply kept_fault
    | with_reducible apply kept_raise
    | dsimp only
    | with_reducible intro _
    | with_reducible apply kept_foldl
    | with_reducible apply kept_foldl_fst
    | with_reducible apply kept_ite
    | with_reducible apply kept_ite_fst
    | split
    | with_reducible exact shrinks_refl
    | with_reducible exact keepWf_refl
    | with_reducible exact keepWf_filter
    | with_reducible exact shrinks_filter
    | with_reducible exact shrinks_nil
    | exact keepWf_refl
    | exact shrinks_refl
    | with_reducible exact shrinks_tail (by assumption)
    | with_reducible refine kept_mk rfl ?_ ?_ ?_ ?_ ?_ ?_ ?_ ?_ ?_ ?_ ?_

theorem kept_settleRetire {s0 : State} {s : State} {c : Nat} (h : Kept s0 s) :
    Kept s0 (State.settleRetire s c) := by
  unfold State.settleRetire
  repeat' first
    | with_reducible assumption
    | with_reducible apply kept_retire
    | dsimp only
    | with_reducible intro _
    | with_reducible apply kept_foldl
    | with_reducible apply kept_foldl_fst
    | with_reducible apply kept_ite
    | with_reducible apply kept_ite_fst
    | split

theorem kept_scrubRow {s0 : State} {s : State} {t : Nat} {row : Nat} (h : Kept s0 s) :
    Kept s0 (State.scrubRow s t row) := by
  unfold State.scrubRow
  repeat' first
    | with_reducible assumption
    | with_reducible apply kept_settleRetire
    | with_reducible apply kept_inkRead
    | with_reducible apply kept_setTile
    | with_reducible apply kept_addFld
    | dsimp only
    | with_reducible apply kept_ite

theorem kept_wrapBank {s0 : State} {s : State} {t : Nat} {bank : Nat} (h : Kept s0 s) :
    Kept s0 (State.wrapBank s t bank) := by
  unfold State.wrapBank
  repeat' first
    | with_reducible assumption
    | with_reducible apply kept_setTile
    | with_reducible apply kept_addWrap
    | dsimp only
    | with_reducible apply kept_ite

theorem kept_walkPast {s0 : State} {s : State} {t : Nat} {bank : Nat} {loc : Nat} (h : Kept s0 s) :
    Kept s0 (State.walkPast s t bank loc) := by
  unfold State.walkPast
  repeat' first
    | with_reducible assumption
    | with_reducible apply kept_wrapBank
    | with_reducible apply kept_setTile
    | dsimp only
    | split

theorem kept_scrub {s0 : State} {s : State} {t : Nat} {bank : Nat} (h : Kept s0 s) :
    KeptO s0 (State.scrub s t bank) := by
  unfold State.scrub
  repeat' first
    | with_reducible assumption
    | with_reducible exact keptO_none _
    | with_reducible apply keptO_some
    | with_reducible apply kept_walkPast
    | with_reducible apply kept_wrapBank
    | with_reducible apply kept_scrubRow
    | with_reducible apply kept_bankWait
    | with_reducible apply kept_setTile
    | dsimp only
    | with_reducible apply keptO_ite
    | with_reducible apply kept_ite
    | with_reducible apply kept_ite_fst
    | split

theorem kept_execInkScrub {s0 : State} {t : Nat} {bank : Nat} {s : State} (h : Kept s0 s) :
    KeptX s0 (execInkScrub t bank s) := by
  unfold execInkScrub
  repeat' first
    | with_reducible assumption
    | with_reducible apply keptX_attempt
    | with_reducible apply kept_scrub

theorem kept_execInkScrubForced {s0 : State} {t : Nat} {bank : Nat} {s : State} (h : Kept s0 s) :
    KeptX s0 (execInkScrubForced t bank s) := by
  unfold execInkScrubForced
  repeat' first
    | with_reducible assumption
    | with_reducible apply keptX_attempt
    | with_reducible apply kept_scrub

theorem kept_remapWrite {s0 : State} {s : State} {t : Nat} {v : B32} (h : Kept s0 s) :
    Kept s0 (State.remapWrite s t v) := by
  unfold State.remapWrite
  repeat' first
    | with_reducible assumption
    | with_reducible apply kept_setRemap
    | dsimp only
    | with_reducible apply kept_ite

theorem kept_execInkRemapWrite {s0 : State} {rq : Requester} {t : Nat} {v : B32} {s : State} (h : Kept s0 s) :
    KeptX s0 (execInkRemapWrite rq t v s) := by
  unfold execInkRemapWrite
  repeat' first
    | with_reducible assumption
    | with_reducible exact keptO_none _
    | with_reducible apply keptO_some
    | with_reducible apply keptX_attempt
    | with_reducible apply kept_remapWrite
    | with_reducible apply kept_guardReg
    | dsimp only
    | with_reducible intro _
    | with_reducible apply keptO_ite

theorem kept_clearSlice {s0 : State} {s : State} {t : Nat} {sl : Nat} (h : Kept s0 s) :
    Kept s0 (State.clearSlice s t sl) := by
  unfold State.clearSlice
  repeat' first
    | with_reducible assumption
    | with_reducible apply kept_setTile

theorem kept_sliceUp {s0 : State} {s : State} {t : Nat} {sl : Nat} (h : Kept s0 s) :
    Kept s0 (State.sliceUp s t sl) := by
  unfold State.sliceUp
  repeat' first
    | with_reducible assumption
    | with_reducible apply kept_clearSlice
    | with_reducible apply kept_loseSlice
    | with_reducible apply kept_setTile
    | with_reducible apply kept_setBit
    | dsimp only
    | with_reducible apply kept_ite

theorem kept_execInkSlicePowerUp {s0 : State} {rq : Requester} {t : Nat} {sl : Nat} {s : State} (h : Kept s0 s) :
    KeptX s0 (execInkSlicePowerUp rq t sl s) := by
  unfold execInkSlicePowerUp
  repeat' first
    | with_reducible assumption
    | with_reducible exact keptO_none _
    | with_reducible apply keptO_some
    | with_reducible apply keptX_attempt
    | with_reducible apply kept_sliceUp
    | with_reducible apply kept_guardReg
    | dsimp only
    | with_reducible intro _
    | with_reducible apply keptO_ite

theorem kept_execInkSliceFillDone {s0 : State} {t : Nat} {sl : Nat} {s : State} (h : Kept s0 s) :
    KeptX s0 (execInkSliceFillDone t sl s) := by
  unfold execInkSliceFillDone
  repeat' first
    | with_reducible assumption
    | with_reducible exact keptO_none _
    | with_reducible apply keptO_some
    | with_reducible apply keptX_attempt
    | with_reducible apply kept_bankWaits
    | with_reducible apply kept_setTile
    | with_reducible apply kept_setBit
    | dsimp only
    | with_reducible apply keptO_ite

theorem kept_execInkSlicePowerOff {s0 : State} {rq : Requester} {t : Nat} {sl : Nat} {s : State} (h : Kept s0 s) :
    KeptX s0 (execInkSlicePowerOff rq t sl s) := by
  unfold execInkSlicePowerOff
  repeat' first
    | with_reducible assumption
    | with_reducible exact keptO_none _
    | with_reducible apply keptO_some
    | with_reducible apply keptX_attempt
    | with_reducible apply kept_guardReg
    | with_reducible apply kept_setBit
    | dsimp only
    | with_reducible intro _
    | with_reducible apply keptO_ite

theorem kept_execInkSlicePowerDown {s0 : State} {t : Nat} {sl : Nat} {s : State} (h : Kept s0 s) :
    KeptX s0 (execInkSlicePowerDown t sl s) := by
  unfold execInkSlicePowerDown
  repeat' first
    | with_reducible assumption
    | with_reducible exact keptO_none _
    | with_reducible apply keptO_some
    | with_reducible apply keptX_attempt
    | with_reducible apply kept_clearSlice
    | with_reducible apply kept_setBit
    | dsimp only
    | with_reducible apply keptO_ite

theorem kept_execInkCntClear {s0 : State} {rq : Requester} {t : Nat} {s : State} (h : Kept s0 s) :
    KeptX s0 (execInkCntClear rq t s) := by
  unfold execInkCntClear
  repeat' first
    | with_reducible assumption
    | with_reducible exact keptO_none _
    | with_reducible apply keptO_some
    | with_reducible apply keptX_attempt
    | with_reducible apply kept_guardReg
    | with_reducible apply kept_setReg
    | dsimp only
    | with_reducible intro _
    | with_reducible apply kept_foldl
    | with_reducible apply kept_foldl_fst
    | with_reducible apply keptO_ite

/-! ## Nib -/

theorem kept_setSect {s0 : State} {s : State} {t : Nat} {c : Section} (h : Kept s0 s) :
    Kept s0 (State.setSect s t c) := by
  unfold State.setSect
  repeat' first
    | with_reducible assumption
    | with_reducible apply kept_setTile

theorem kept_nibNext {s0 : State} {s : State} {t : Nat} {c : Section} (h : Kept s0 s) :
    Kept s0 (State.nibNext s t c) := by
  unfold State.nibNext
  repeat' first
    | with_reducible assumption
    | with_reducible apply kept_setSect

theorem kept_nibFail {s0 : State} {s : State} {t : Nat} {c : Section} {status : Nat} (h : Kept s0 s) :
    Kept s0 (State.nibFail s t c status) := by
  unfold State.nibFail
  repeat' first
    | with_reducible assumption
    | with_reducible apply kept_dropRun
    | with_reducible apply kept_abortStep
    | with_reducible apply kept_setTile

theorem kept_nibAbort {s0 : State} {s : State} {t : Nat} {c : Section} {status : Nat} (h : Kept s0 s) :
    Kept s0 (State.nibAbort s t c status) := by
  unfold State.nibAbort
  repeat' first
    | with_reducible assumption
    | with_reducible apply kept_nibFail
    | with_reducible apply kept_nibErr

theorem kept_nib {s0 s : State} {t : Nat} {w : B64} {f : Section → Nib → Option State} (h : Kept s0 s)
    (hf : ∀ c n, KeptO s0 (f c n)) : KeptO s0 (s.nib t w f) := by
  unfold State.nib
  repeat' first
    | with_reducible assumption
    | with_reducible exact keptO_none _
    | with_reducible apply keptO_some
    | with_reducible apply hf
    | with_reducible apply kept_nibAbort
    | with_reducible apply keptO_ite
    | split

theorem kept_nibSet {s0 : State} {s : State} {t : Nat} {w : B64} {f : Section → Nib → Section} (h : Kept s0 s) :
    KeptO s0 (State.nibSet s t w f) := by
  unfold State.nibSet
  repeat' first
    | with_reducible assumption
    | with_reducible apply keptO_some
    | with_reducible apply kept_nib
    | with_reducible apply kept_nibNext
    | dsimp only
    | with_reducible intro _

theorem kept_rowReads {s0 : State} {s : State} {t : Nat} {ep : Option (B32 × Nat)} {a3 : List Nat} (h : Kept s0 s) :
    Kept s0 (State.rowReads s t ep a3).1 := by
  induction a3 generalizing s t ep with
  | nil =>
    unfold State.rowReads
    repeat' first
      | with_reducible assumption
  | cons x l ih =>
    unfold State.rowReads
    repeat' first
      | with_reducible apply ih
      | with_reducible assumption
      | with_reducible apply kept_inkRead
      | dsimp only
      | with_reducible apply kept_ite
      | with_reducible apply kept_ite_fst

theorem kept_nibRows {s0 s : State} {t : Nat} {c : Section} {rows : List Nat} {k : State → List Row → State}
    (h : Kept s0 s) (hk : ∀ u rs, Kept s0 u → Kept s0 (k u rs)) : KeptO s0 (s.nibRows t c rows k) := by
  unfold State.nibRows
  repeat' first
    | with_reducible assumption
    | with_reducible exact keptO_none _
    | with_reducible apply keptO_some
    | with_reducible apply hk
    | with_reducible apply kept_nibAbort
    | with_reducible apply kept_nibFail
    | with_reducible apply kept_rowReads
    | with_reducible apply keptO_ite
    | split

theorem kept_execNibSectionStart {s0 : State} {t : Nat} {st : StepRef} {kind : SectionKind} {block : Nat} {s : State} (h : Kept s0 s) :
    KeptX s0 (execNibSectionStart t st kind block s) := by
  unfold execNibSectionStart
  repeat' first
    | with_reducible assumption
    | with_reducible exact keptO_none _
    | with_reducible apply keptO_some
    | with_reducible apply keptX_attempt
    | with_reducible apply kept_setSect
    | dsimp only
    | with_reducible apply keptO_ite
    | with_reducible apply kept_ite
    | with_reducible apply kept_ite_fst
    | split

theorem kept_execSettleStart {s0 : State} {t : Nat} {st : StepRef} {row : Nat} {s : State} (h : Kept s0 s) :
    KeptX s0 (execSettleStart t st row s) := by
  unfold execSettleStart
  repeat' first
    | with_reducible assumption
    | with_reducible exact keptO_none _
    | with_reducible apply keptO_some
    | with_reducible apply keptX_attempt
    | with_reducible apply kept_setSect
    | with_reducible apply kept_setTile
    | dsimp only
    | with_reducible apply keptO_ite
    | with_reducible apply kept_ite
    | with_reducible apply kept_ite_fst
    | split

theorem kept_execNibNop {s0 : State} {t : Nat} {s : State} (h : Kept s0 s) :
    KeptX s0 (execNibNop t s) := by
  unfold execNibNop
  repeat' first
    | with_reducible assumption
    | with_reducible apply keptX_attempt
    | with_reducible apply kept_nibSet

theorem kept_endSection {s0 : State} {s : State} {t : Nat} {c : Section} (h : Kept s0 s) :
    Kept s0 (State.endSection s t c) := by
  unfold State.endSection
  repeat' first
    | with_reducible assumption
    | with_reducible apply kept_advanceRun
    | with_reducible apply kept_setRun
    | with_reducible apply kept_stageCount
    | with_reducible apply kept_setTile
    | dsimp only
    | with_reducible apply kept_ite
    | with_reducible apply kept_ite_fst
    | split

theorem kept_execNibEnd {s0 : State} {t : Nat} {s : State} (h : Kept s0 s) :
    KeptX s0 (execNibEnd t s) := by
  unfold execNibEnd
  repeat' first
    | with_reducible assumption
    | with_reducible exact keptO_none _
    | with_reducible apply keptO_some
    | with_reducible apply keptX_attempt
    | with_reducible apply kept_endSection
    | with_reducible apply kept_nib
    | dsimp only
    | with_reducible intro _
    | with_reducible apply keptO_ite

theorem kept_execNibLoop {s0 : State} {t : Nat} {a : Nat} {body : Nat} {s : State} (h : Kept s0 s) :
    KeptX s0 (execNibLoop t a body s) := by
  unfold execNibLoop
  repeat' first
    | with_reducible assumption
    | with_reducible apply keptO_some
    | with_reducible apply keptX_attempt
    | with_reducible apply kept_nib
    | with_reducible apply kept_nibAbort
    | with_reducible apply kept_setSect
    | dsimp only
    | with_reducible intro _
    | with_reducible apply keptO_ite

theorem kept_execNibAmov {s0 : State} {t : Nat} {d : Nat} {imm : B32} {s : State} (h : Kept s0 s) :
    KeptX s0 (execNibAmov t d imm s) := by
  unfold execNibAmov
  repeat' first
    | with_reducible assumption
    | with_reducible apply keptX_attempt
    | with_reducible apply kept_nibSet

theorem kept_execNibAadd {s0 : State} {t : Nat} {d : Nat} {a : Nat} {imm : BitVec 20} {s : State} (h : Kept s0 s) :
    KeptX s0 (execNibAadd t d a imm s) := by
  unfold execNibAadd
  repeat' first
    | with_reducible assumption
    | with_reducible apply keptX_attempt
    | with_reducible apply kept_nibSet

theorem kept_execNibAaddr {s0 : State} {t : Nat} {d : Nat} {a : Nat} {b : Nat} {s : State} (h : Kept s0 s) :
    KeptX s0 (execNibAaddr t d a b s) := by
  unfold execNibAaddr
  repeat' first
    | with_reducible assumption
    | with_reducible apply keptX_attempt
    | with_reducible apply kept_nibSet

theorem kept_execNibLd {s0 : State} {t : Nat} {d : Nat} {a : Nat} {imm : BitVec 20} {s : State} (h : Kept s0 s) :
    KeptX s0 (execNibLd t d a imm s) := by
  unfold execNibLd
  repeat' first
    | with_reducible assumption
    | with_reducible apply keptX_attempt
    | with_reducible apply kept_nibRows
    | with_reducible apply kept_nib
    | with_reducible apply kept_nibNext
    | dsimp only
    | with_reducible intro _

theorem kept_execNibSt {s0 : State} {t : Nat} {a : Nat} {b : Nat} {imm : BitVec 20} {s : State} (h : Kept s0 s) :
    KeptX s0 (execNibSt t a b imm s) := by
  unfold execNibSt
  repeat' first
    | with_reducible assumption
    | with_reducible exact keptO_none _
    | with_reducible apply keptO_some
    | with_reducible apply keptX_attempt
    | with_reducible apply kept_nib
    | with_reducible apply kept_nibAbort
    | with_reducible apply kept_nibFail
    | with_reducible apply kept_nibNext
    | with_reducible apply kept_inkWrite
    | dsimp only
    | with_reducible intro _
    | with_reducible apply keptO_ite
    | with_reducible apply kept_ite
    | with_reducible apply kept_ite_fst
    | split

theorem kept_execNibGrow {s0 : State} {t : Nat} {d : Nat} {a : Nat} {b : Nat} {c : Nat} {imm : BitVec 20} {s : State} (h : Kept s0 s) :
    KeptX s0 (execNibGrow t d a b c imm s) := by
  unfold execNibGrow
  repeat' first
    | with_reducible assumption
    | with_reducible apply keptO_some
    | with_reducible apply keptX_attempt
    | with_reducible apply kept_nibRows
    | with_reducible apply kept_nib
    | with_reducible apply kept_nibNext
    | dsimp only
    | with_reducible intro _
    | with_reducible apply keptO_ite

theorem kept_execNibTblld {s0 : State} {t : Nat} {a : Nat} {part : Nat} {imm : BitVec 20} {s : State} (h : Kept s0 s) :
    KeptX s0 (execNibTblld t a part imm s) := by
  unfold execNibTblld
  repeat' first
    | with_reducible assumption
    | with_reducible apply keptX_attempt
    | with_reducible apply kept_nibRows
    | with_reducible apply kept_nib
    | with_reducible apply kept_nibNext
    | dsimp only
    | with_reducible intro _
    | split

theorem kept_sendRs {s0 : State} {s : State} {t : Nat} {pipe : Nat} {side : Bool} {folioTile : Nat} {bits : BitVec 256} (h : Kept s0 s) :
    Kept s0 (State.sendRs s t pipe side folioTile bits) := by
  unfold State.sendRs
  repeat' first
    | with_reducible assumption
    | with_reducible rfl
    | with_reducible apply kept_sendMsg
    | dsimp only
    | with_reducible apply kept_ite
    | with_reducible apply kept_ite_fst
    | split
    | with_reducible exact shrinks_refl
    | with_reducible exact keepWf_refl
    | with_reducible exact shrinks_nil
    | exact keepWf_refl
    | exact shrinks_refl
    | with_reducible exact shrinks_tail (by assumption)
    | with_reducible refine kept_mk rfl ?_ ?_ ?_ ?_ ?_ ?_ ?_ ?_ ?_ ?_ ?_

theorem kept_execNibRstat {s0 : State} {t : Nat} {a : Nat} {c : Nat} {imm : BitVec 20} {s : State} (h : Kept s0 s) :
    KeptX s0 (execNibRstat t a c imm s) := by
  unfold execNibRstat
  repeat' first
    | with_reducible assumption
    | with_reducible exact keptO_none _
    | with_reducible apply keptO_some
    | with_reducible apply keptX_attempt
    | with_reducible apply kept_sendRs
    | with_reducible apply kept_nib
    | with_reducible apply kept_nibAbort
    | with_reducible apply kept_nibNext
    | dsimp only
    | with_reducible intro _
    | with_reducible apply keptO_ite
    | with_reducible apply kept_ite
    | with_reducible apply kept_ite_fst
    | split

theorem kept_execNibRstget {s0 : State} {t : Nat} {d : Nat} {a : Nat} {part : Nat} {imm : BitVec 20} {s : State} (h : Kept s0 s) :
    KeptX s0 (execNibRstget t d a part imm s) := by
  unfold execNibRstget
  repeat' first
    | with_reducible assumption
    | with_reducible apply keptO_some
    | with_reducible apply keptX_attempt
    | with_reducible apply kept_nib
    | with_reducible apply kept_nibAbort
    | with_reducible apply kept_nibNext
    | dsimp only
    | with_reducible intro _
    | with_reducible apply keptO_ite

theorem kept_takeRs {s0 : State} {s : State} {m : RsMsg} (h : Kept s0 s) :
    KeptO s0 (State.takeRs s m) := by
  unfold State.takeRs
  repeat' first
    | with_reducible assumption
    | with_reducible rfl
    | with_reducible exact keptO_none _
    | with_reducible apply keptO_some
    | dsimp only
    | with_reducible apply keptO_ite
    | with_reducible apply kept_ite
    | with_reducible apply kept_ite_fst
    | with_reducible exact shrinks_refl
    | with_reducible exact keepWf_refl
    | exact keepWf_refl
    | exact shrinks_refl
    | with_reducible exact shrinks_tail (by assumption)
    | with_reducible refine kept_mk rfl ?_ ?_ ?_ ?_ ?_ ?_ ?_ ?_ ?_ ?_ ?_

theorem kept_rsRange {s0 : State} {s : State} {t : Nat} {e : B32} (h : Kept s0 s) :
    Kept s0 (State.rsRange s t e) := by
  unfold State.rsRange
  repeat' first
    | with_reducible assumption
    | with_reducible apply kept_nibErr
    | with_reducible apply kept_endCause

theorem kept_execRstatContributionReceive {s0 : State} {t : Nat} {pipe : Nat} {side : Bool} {msg : BitVec 256} {s : State} (h : Kept s0 s) :
    KeptX s0 (execRstatContributionReceive t pipe side msg s) := by
  unfold execRstatContributionReceive
  repeat' first
    | with_reducible assumption
    | with_reducible exact keptO_none _
    | with_reducible apply keptO_some
    | with_reducible apply keptX_attempt
    | with_reducible apply kept_rsRange
    | with_reducible apply kept_takeRs
    | with_reducible refine KeptO.out (kept_takeRs ?_) _ (by with_reducible assumption)
    | with_reducible apply kept_sendRs
    | with_reducible apply kept_nibErr
    | with_reducible apply kept_inkWrite
    | with_reducible apply kept_inkRead
    | with_reducible apply kept_endCause
    | with_reducible apply kept_setTile
    | dsimp only
    | with_reducible intro _
    | with_reducible apply kept_foldl
    | with_reducible apply kept_foldl_fst
    | with_reducible apply keptO_ite
    | with_reducible apply kept_ite
    | with_reducible apply kept_ite_fst
    | split

theorem kept_execRstatReleaseReceive {s0 : State} {t : Nat} {pipe : Nat} {side : Bool} {msg : BitVec 256} {s : State} (h : Kept s0 s) :
    KeptX s0 (execRstatReleaseReceive t pipe side msg s) := by
  unfold execRstatReleaseReceive
  repeat' first
    | with_reducible assumption
    | with_reducible exact keptO_none _
    | with_reducible apply keptO_some
    | with_reducible apply keptX_attempt
    | with_reducible apply kept_takeRs
    | with_reducible refine KeptO.out (kept_takeRs ?_) _ (by with_reducible assumption)
    | with_reducible apply kept_setRun
    | with_reducible apply kept_setTile
    | dsimp only
    | with_reducible apply keptO_ite
    | with_reducible apply kept_ite
    | with_reducible apply kept_ite_fst
    | split

theorem kept_nibMemWrite {s0 : State} {s : State} {t : Nat} {k : Nat} {v : B32} (h : Kept s0 s) :
    Kept s0 (State.nibMemWrite s t k v) := by
  unfold State.nibMemWrite
  repeat' first
    | with_reducible assumption
    | with_reducible apply kept_setReg
    | dsimp only
    | with_reducible apply kept_ite

theorem kept_execNibMemWrite {s0 : State} {rq : Requester} {t : Nat} {i : Nat} {high : Bool} {v : B32} {s : State} (h : Kept s0 s) :
    KeptX s0 (execNibMemWrite rq t i high v s) := by
  unfold execNibMemWrite
  repeat' first
    | with_reducible assumption
    | with_reducible exact keptO_none _
    | with_reducible apply keptO_some
    | with_reducible apply keptX_attempt
    | with_reducible apply kept_nibMemWrite
    | with_reducible apply kept_guardReg
    | dsimp only
    | with_reducible intro _
    | with_reducible apply keptO_ite

theorem kept_execNibCntClear {s0 : State} {rq : Requester} {t : Nat} {s : State} (h : Kept s0 s) :
    KeptX s0 (execNibCntClear rq t s) := by
  unfold execNibCntClear
  repeat' first
    | with_reducible assumption
    | with_reducible exact keptO_none _
    | with_reducible apply keptO_some
    | with_reducible apply keptX_attempt
    | with_reducible apply kept_guardReg
    | with_reducible apply kept_setReg
    | dsimp only
    | with_reducible intro _
    | with_reducible apply keptO_ite

/-! ## NibAlu -/

theorem kept_nib1 {s0 : State} {s : State} {t : Nat} {w : B64} {f : Row → Row} (h : Kept s0 s) :
    KeptO s0 (State.nib1 s t w f) := by
  unfold State.nib1
  repeat' first
    | with_reducible assumption
    | with_reducible apply kept_nibSet

theorem kept_nib2 {s0 : State} {s : State} {t : Nat} {w : B64} {f : Row → Row → Row} (h : Kept s0 s) :
    KeptO s0 (State.nib2 s t w f) := by
  unfold State.nib2
  repeat' first
    | with_reducible assumption
    | with_reducible apply kept_nibSet

theorem kept_execNibMov {s0 : State} {t : Nat} {d : Nat} {a : Nat} {s : State} (h : Kept s0 s) :
    KeptX s0 (execNibMov t d a s) := by
  unfold execNibMov
  repeat' first
    | with_reducible assumption
    | with_reducible apply keptX_attempt
    | with_reducible apply kept_nib1

theorem kept_execNibBcast {s0 : State} {t : Nat} {d : Nat} {imm : B32} {s : State} (h : Kept s0 s) :
    KeptX s0 (execNibBcast t d imm s) := by
  unfold execNibBcast
  repeat' first
    | with_reducible assumption
    | with_reducible apply keptX_attempt
    | with_reducible apply kept_nibSet

theorem kept_execNibLane {s0 : State} {t : Nat} {d : Nat} {a : Nat} {c : Nat} {imm : BitVec 20} {s : State} (h : Kept s0 s) :
    KeptX s0 (execNibLane t d a c imm s) := by
  unfold execNibLane
  repeat' first
    | with_reducible assumption
    | with_reducible apply keptX_attempt
    | with_reducible apply kept_nibSet

theorem kept_execNibIns {s0 : State} {t : Nat} {d : Nat} {a : Nat} {c : Nat} {imm : BitVec 20} {s : State} (h : Kept s0 s) :
    KeptX s0 (execNibIns t d a c imm s) := by
  unfold execNibIns
  repeat' first
    | with_reducible assumption
    | with_reducible apply keptX_attempt
    | with_reducible apply kept_nibSet

theorem kept_execNibFadd {s0 : State} {t : Nat} {d : Nat} {a : Nat} {b : Nat} {s : State} (h : Kept s0 s) :
    KeptX s0 (execNibFadd t d a b s) := by
  unfold execNibFadd
  repeat' first
    | with_reducible assumption
    | with_reducible apply keptX_attempt
    | with_reducible apply kept_nib2

theorem kept_execNibFsub {s0 : State} {t : Nat} {d : Nat} {a : Nat} {b : Nat} {s : State} (h : Kept s0 s) :
    KeptX s0 (execNibFsub t d a b s) := by
  unfold execNibFsub
  repeat' first
    | with_reducible assumption
    | with_reducible apply keptX_attempt
    | with_reducible apply kept_nib2

theorem kept_execNibFmul {s0 : State} {t : Nat} {d : Nat} {a : Nat} {b : Nat} {s : State} (h : Kept s0 s) :
    KeptX s0 (execNibFmul t d a b s) := by
  unfold execNibFmul
  repeat' first
    | with_reducible assumption
    | with_reducible apply keptX_attempt
    | with_reducible apply kept_nib2

theorem kept_execNibFdiv {s0 : State} {t : Nat} {d : Nat} {a : Nat} {b : Nat} {s : State} (h : Kept s0 s) :
    KeptX s0 (execNibFdiv t d a b s) := by
  unfold execNibFdiv
  repeat' first
    | with_reducible assumption
    | with_reducible apply keptX_attempt
    | with_reducible apply kept_nib2

theorem kept_execNibFsqrt {s0 : State} {t : Nat} {d : Nat} {a : Nat} {s : State} (h : Kept s0 s) :
    KeptX s0 (execNibFsqrt t d a s) := by
  unfold execNibFsqrt
  repeat' first
    | with_reducible assumption
    | with_reducible apply keptX_attempt
    | with_reducible apply kept_nib1

theorem kept_execNibFmin {s0 : State} {t : Nat} {d : Nat} {a : Nat} {b : Nat} {s : State} (h : Kept s0 s) :
    KeptX s0 (execNibFmin t d a b s) := by
  unfold execNibFmin
  repeat' first
    | with_reducible assumption
    | with_reducible apply keptX_attempt
    | with_reducible apply kept_nib2

theorem kept_execNibFmax {s0 : State} {t : Nat} {d : Nat} {a : Nat} {b : Nat} {s : State} (h : Kept s0 s) :
    KeptX s0 (execNibFmax t d a b s) := by
  unfold execNibFmax
  repeat' first
    | with_reducible assumption
    | with_reducible apply keptX_attempt
    | with_reducible apply kept_nib2

theorem kept_execNibFabs {s0 : State} {t : Nat} {d : Nat} {a : Nat} {s : State} (h : Kept s0 s) :
    KeptX s0 (execNibFabs t d a s) := by
  unfold execNibFabs
  repeat' first
    | with_reducible assumption
    | with_reducible apply keptX_attempt
    | with_reducible apply kept_nib1

theorem kept_execNibFneg {s0 : State} {t : Nat} {d : Nat} {a : Nat} {s : State} (h : Kept s0 s) :
    KeptX s0 (execNibFneg t d a s) := by
  unfold execNibFneg
  repeat' first
    | with_reducible assumption
    | with_reducible apply keptX_attempt
    | with_reducible apply kept_nib1

theorem kept_execNibIadd {s0 : State} {t : Nat} {d : Nat} {a : Nat} {b : Nat} {s : State} (h : Kept s0 s) :
    KeptX s0 (execNibIadd t d a b s) := by
  unfold execNibIadd
  repeat' first
    | with_reducible assumption
    | with_reducible apply keptX_attempt
    | with_reducible apply kept_nib2

theorem kept_execNibIsub {s0 : State} {t : Nat} {d : Nat} {a : Nat} {b : Nat} {s : State} (h : Kept s0 s) :
    KeptX s0 (execNibIsub t d a b s) := by
  unfold execNibIsub
  repeat' first
    | with_reducible assumption
    | with_reducible apply keptX_attempt
    | with_reducible apply kept_nib2

theorem kept_execNibAnd {s0 : State} {t : Nat} {d : Nat} {a : Nat} {b : Nat} {s : State} (h : Kept s0 s) :
    KeptX s0 (execNibAnd t d a b s) := by
  unfold execNibAnd
  repeat' first
    | with_reducible assumption
    | with_reducible apply keptX_attempt
    | with_reducible apply kept_nib2

theorem kept_execNibOr {s0 : State} {t : Nat} {d : Nat} {a : Nat} {b : Nat} {s : State} (h : Kept s0 s) :
    KeptX s0 (execNibOr t d a b s) := by
  unfold execNibOr
  repeat' first
    | with_reducible assumption
    | with_reducible apply keptX_attempt
    | with_reducible apply kept_nib2

theorem kept_execNibXor {s0 : State} {t : Nat} {d : Nat} {a : Nat} {b : Nat} {s : State} (h : Kept s0 s) :
    KeptX s0 (execNibXor t d a b s) := by
  unfold execNibXor
  repeat' first
    | with_reducible assumption
    | with_reducible apply keptX_attempt
    | with_reducible apply kept_nib2

theorem kept_execNibShl {s0 : State} {t : Nat} {d : Nat} {a : Nat} {sh : Nat} {s : State} (h : Kept s0 s) :
    KeptX s0 (execNibShl t d a sh s) := by
  unfold execNibShl
  repeat' first
    | with_reducible assumption
    | with_reducible apply keptX_attempt
    | with_reducible apply kept_nibSet

theorem kept_execNibSra {s0 : State} {t : Nat} {d : Nat} {a : Nat} {sh : Nat} {s : State} (h : Kept s0 s) :
    KeptX s0 (execNibSra t d a sh s) := by
  unfold execNibSra
  repeat' first
    | with_reducible assumption
    | with_reducible apply keptX_attempt
    | with_reducible apply kept_nibSet

theorem kept_execNibFclt {s0 : State} {t : Nat} {d : Nat} {a : Nat} {b : Nat} {s : State} (h : Kept s0 s) :
    KeptX s0 (execNibFclt t d a b s) := by
  unfold execNibFclt
  repeat' first
    | with_reducible assumption
    | with_reducible apply keptX_attempt
    | with_reducible apply kept_nib2

theorem kept_execNibFceq {s0 : State} {t : Nat} {d : Nat} {a : Nat} {b : Nat} {s : State} (h : Kept s0 s) :
    KeptX s0 (execNibFceq t d a b s) := by
  unfold execNibFceq
  repeat' first
    | with_reducible assumption
    | with_reducible apply keptX_attempt
    | with_reducible apply kept_nib2

theorem kept_execNibSel {s0 : State} {t : Nat} {d : Nat} {a : Nat} {b : Nat} {c : Nat} {s : State} (h : Kept s0 s) :
    KeptX s0 (execNibSel t d a b c s) := by
  unfold execNibSel
  repeat' first
    | with_reducible assumption
    | with_reducible apply keptX_attempt
    | with_reducible apply kept_nibSet

theorem kept_execNibUnpk {s0 : State} {t : Nat} {d : Nat} {a : Nat} {fmt : Nat} {part : Nat} {s : State} (h : Kept s0 s) :
    KeptX s0 (execNibUnpk t d a fmt part s) := by
  unfold execNibUnpk
  repeat' first
    | with_reducible assumption
    | with_reducible apply keptX_attempt
    | with_reducible apply kept_nibSet

theorem kept_execNibQnt {s0 : State} {t : Nat} {d : Nat} {a : Nat} {b : Nat} {fmt : Nat} {part : Nat} {slot : Nat} {s : State} (h : Kept s0 s) :
    KeptX s0 (execNibQnt t d a b fmt part slot s) := by
  unfold execNibQnt
  repeat' first
    | with_reducible assumption
    | with_reducible apply keptX_attempt
    | with_reducible apply kept_nibSet

theorem kept_execNibQscale {s0 : State} {t : Nat} {d : Nat} {a : Nat} {b : Nat} {s : State} (h : Kept s0 s) :
    KeptX s0 (execNibQscale t d a b s) := by
  unfold execNibQscale
  repeat' first
    | with_reducible assumption
    | with_reducible apply keptX_attempt
    | with_reducible apply kept_nibSet

theorem kept_execNibRamax {s0 : State} {t : Nat} {d : Nat} {a : Nat} {s : State} (h : Kept s0 s) :
    KeptX s0 (execNibRamax t d a s) := by
  unfold execNibRamax
  repeat' first
    | with_reducible assumption
    | with_reducible apply keptX_attempt
    | with_reducible apply kept_nib1

theorem kept_execNibRmax {s0 : State} {t : Nat} {d : Nat} {a : Nat} {s : State} (h : Kept s0 s) :
    KeptX s0 (execNibRmax t d a s) := by
  unfold execNibRmax
  repeat' first
    | with_reducible assumption
    | with_reducible apply keptX_attempt
    | with_reducible apply kept_nib1

theorem kept_execNibRsum {s0 : State} {t : Nat} {d : Nat} {a : Nat} {s : State} (h : Kept s0 s) :
    KeptX s0 (execNibRsum t d a s) := by
  unfold execNibRsum
  repeat' first
    | with_reducible assumption
    | with_reducible apply keptX_attempt
    | with_reducible apply kept_nib1

theorem kept_execNibTbl {s0 : State} {t : Nat} {d : Nat} {a : Nat} {part : Nat} {s : State} (h : Kept s0 s) :
    KeptX s0 (execNibTbl t d a part s) := by
  unfold execNibTbl
  repeat' first
    | with_reducible assumption
    | with_reducible exact keptO_none _
    | with_reducible apply keptO_some
    | with_reducible apply keptX_attempt
    | with_reducible apply kept_nib
    | with_reducible apply kept_nibAbort
    | with_reducible apply kept_nibNext
    | dsimp only
    | with_reducible intro _
    | split

theorem kept_execNibTput {s0 : State} {t : Nat} {a : Nat} {b : Nat} {fmt : Nat} {part : Nat} {imm : BitVec 20} {s : State} (h : Kept s0 s) :
    KeptX s0 (execNibTput t a b fmt part imm s) := by
  unfold execNibTput
  repeat' first
    | with_reducible assumption
    | with_reducible apply keptX_attempt
    | with_reducible apply kept_nibSet

theorem kept_execNibTget {s0 : State} {t : Nat} {d : Nat} {b : Nat} {fmt : Nat} {part : Nat} {imm : BitVec 20} {s : State} (h : Kept s0 s) :
    KeptX s0 (execNibTget t d b fmt part imm s) := by
  unfold execNibTget
  repeat' first
    | with_reducible assumption
    | with_reducible apply keptX_attempt
    | with_reducible apply kept_nibSet

/-! ## Engines -/

theorem kept_memReads {s0 : State} {s : State} {rq : Requester} {ep : Option (B32 × Nat)} {a3 : List (Nat × Nat)} (h : Kept s0 s) :
    Kept s0 (State.memReads s rq ep a3).1 := by
  induction a3 generalizing s rq ep with
  | nil =>
    unfold State.memReads
    repeat' first
      | with_reducible assumption
  | cons x l ih =>
    unfold State.memReads
    repeat' first
      | with_reducible apply ih
      | with_reducible assumption
      | with_reducible apply kept_memAccess
      | dsimp only
      | with_reducible apply kept_ite
      | with_reducible apply kept_ite_fst

theorem kept_memWrites {s0 : State} {s : State} {rq : Requester} {ep : Option (B32 × Nat)} {a3 : List (Nat × List Byte)} (h : Kept s0 s) :
    Kept s0 (State.memWrites s rq ep a3).1 := by
  induction a3 generalizing s rq ep with
  | nil =>
    unfold State.memWrites
    repeat' first
      | with_reducible assumption
  | cons x l ih =>
    unfold State.memWrites
    repeat' first
      | with_reducible apply ih
      | with_reducible assumption
      | with_reducible apply kept_memAccess
      | dsimp only
      | with_reducible apply kept_ite
      | with_reducible apply kept_ite_fst

theorem kept_stemPasses {s0 : State} {s : State} {rq : Requester} {ep : Option (B32 × Nat)} {g : StemGeo} {b : StemBuf} {es : List StemOut} {a6 : List Nat} (h : Kept s0 s) :
    Kept s0 (State.stemPasses s rq ep g b es a6).1 := by
  induction a6 generalizing s rq ep g b es with
  | nil =>
    unfold State.stemPasses
    repeat' first
      | with_reducible assumption
  | cons x l ih =>
    unfold State.stemPasses
    repeat' first
      | with_reducible apply ih
      | with_reducible assumption
      | with_reducible apply kept_memWrites
      | with_reducible apply kept_memReads
      | dsimp only
      | with_reducible apply kept_ite
      | with_reducible apply kept_ite_fst

theorem kept_stemRun {s0 : State} {s : State} {st : StepRef} {c : Nat} {d : BitVec 512} (h : Kept s0 s) :
    Kept s0 (State.stemRun s st c d) := by
  unfold State.stemRun
  repeat' first
    | with_reducible assumption
    | with_reducible apply kept_stemPasses
    | with_reducible apply kept_memReads
    | with_reducible apply kept_abortStep
    | with_reducible apply kept_setStem
    | dsimp only
    | with_reducible apply kept_ite

theorem kept_stemStart {s0 : State} {s : State} {st : StepRef} {p : Pipe} {sg : Stage} {sp : Step} {c : Nat} (h : Kept s0 s) :
    KeptO s0 (State.stemStart s st p sg sp c) := by
  unfold State.stemStart
  repeat' first
    | with_reducible assumption
    | with_reducible exact keptO_none _
    | with_reducible apply keptO_some
    | with_reducible apply kept_stemRun
    | with_reducible apply kept_markCold
    | with_reducible apply kept_abortStep
    | with_reducible apply kept_finishStep
    | with_reducible apply kept_beginStep
    | with_reducible apply kept_setReg
    | dsimp only
    | with_reducible apply keptO_ite
    | with_reducible apply kept_ite
    | with_reducible apply kept_ite_fst
    | split

theorem kept_stemOpen {s0 : State} {s : State} {st : StepRef} (h : Kept s0 s) :
    KeptO s0 (State.stemOpen s st) := by
  unfold State.stemOpen
  repeat' first
    | with_reducible assumption
    | with_reducible exact keptO_none _
    | with_reducible apply keptO_some
    | with_reducible apply kept_stemStart
    | with_reducible refine KeptO.out (kept_stemStart ?_) _ (by with_reducible assumption)
    | dsimp only
    | with_reducible apply keptO_ite
    | with_reducible apply kept_ite
    | with_reducible apply kept_ite_fst
    | split

theorem kept_execStemStepStart {s0 : State} {x : StepCmd} {s : State} (h : Kept s0 s) :
    KeptX s0 (execStemStepStart x s) := by
  unfold execStemStepStart
  repeat' first
    | with_reducible assumption
    | with_reducible apply keptX_attempt
    | with_reducible apply kept_stemOpen
    | with_reducible refine KeptO.out (kept_stemOpen ?_) _ (by with_reducible assumption)
    | with_reducible apply kept_readDesc

theorem kept_execStemStepComplete {s0 : State} {st : StepRef} {s : State} (h : Kept s0 s) :
    KeptX s0 (execStemStepComplete st s) := by
  unfold execStemStepComplete
  repeat' first
    | with_reducible assumption
    | with_reducible exact keptO_none _
    | with_reducible apply keptO_some
    | with_reducible apply keptX_attempt
    | with_reducible apply kept_finishStep
    | with_reducible apply kept_stageCount
    | with_reducible apply kept_setStem
    | dsimp only
    | with_reducible apply keptO_ite
    | with_reducible apply kept_ite
    | with_reducible apply kept_ite_fst
    | split

theorem kept_execStmCntClear {s0 : State} {rq : Requester} {c : Nat} {s : State} (h : Kept s0 s) :
    KeptX s0 (execStmCntClear rq c s) := by
  unfold execStmCntClear
  repeat' first
    | with_reducible assumption
    | with_reducible exact keptO_none _
    | with_reducible apply keptO_some
    | with_reducible apply keptX_attempt
    | with_reducible apply kept_clearRegs
    | with_reducible apply kept_guardReg
    | dsimp only
    | with_reducible intro _
    | with_reducible apply keptO_ite

theorem kept_spcRun {s0 : State} {s : State} {st : StepRef} {u : Nat} {d : BitVec 512} (h : Kept s0 s) :
    Kept s0 (State.spcRun s st u d) := by
  unfold State.spcRun
  repeat' first
    | with_reducible assumption
    | with_reducible apply kept_memWrites
    | with_reducible apply kept_memReads
    | with_reducible apply kept_abortStep
    | with_reducible apply kept_setSpc
    | dsimp only
    | with_reducible apply kept_ite

theorem kept_spcStart {s0 : State} {s : State} {st : StepRef} {p : Pipe} {sg : Stage} {sp : Step} {u : Nat} (h : Kept s0 s) :
    KeptO s0 (State.spcStart s st p sg sp u) := by
  unfold State.spcStart
  repeat' first
    | with_reducible assumption
    | with_reducible exact keptO_none _
    | with_reducible apply keptO_some
    | with_reducible apply kept_spcRun
    | with_reducible apply kept_markCold
    | with_reducible apply kept_abortStep
    | with_reducible apply kept_finishStep
    | with_reducible apply kept_beginStep
    | with_reducible apply kept_setReg
    | dsimp only
    | with_reducible apply keptO_ite
    | with_reducible apply kept_ite
    | with_reducible apply kept_ite_fst
    | split

theorem kept_spcOpen {s0 : State} {s : State} {st : StepRef} (h : Kept s0 s) :
    KeptO s0 (State.spcOpen s st) := by
  unfold State.spcOpen
  repeat' first
    | with_reducible assumption
    | with_reducible exact keptO_none _
    | with_reducible apply keptO_some
    | with_reducible apply kept_spcStart
    | with_reducible refine KeptO.out (kept_spcStart ?_) _ (by with_reducible assumption)
    | dsimp only
    | with_reducible apply keptO_ite
    | with_reducible apply kept_ite
    | with_reducible apply kept_ite_fst
    | split

theorem kept_execSpectralStepStart {s0 : State} {x : StepCmd} {s : State} (h : Kept s0 s) :
    KeptX s0 (execSpectralStepStart x s) := by
  unfold execSpectralStepStart
  repeat' first
    | with_reducible assumption
    | with_reducible apply keptX_attempt
    | with_reducible apply kept_spcOpen
    | with_reducible refine KeptO.out (kept_spcOpen ?_) _ (by with_reducible assumption)
    | with_reducible apply kept_readDesc

theorem kept_execSpectralStepComplete {s0 : State} {st : StepRef} {s : State} (h : Kept s0 s) :
    KeptX s0 (execSpectralStepComplete st s) := by
  unfold execSpectralStepComplete
  repeat' first
    | with_reducible assumption
    | with_reducible exact keptO_none _
    | with_reducible apply keptO_some
    | with_reducible apply keptX_attempt
    | with_reducible apply kept_finishStep
    | with_reducible apply kept_stageCount
    | with_reducible apply kept_setSpc
    | dsimp only
    | with_reducible apply keptO_ite
    | with_reducible apply kept_ite
    | with_reducible apply kept_ite_fst
    | split

theorem kept_execSpcCntClear {s0 : State} {rq : Requester} {u : Nat} {s : State} (h : Kept s0 s) :
    KeptX s0 (execSpcCntClear rq u s) := by
  unfold execSpcCntClear
  repeat' first
    | with_reducible assumption
    | with_reducible exact keptO_none _
    | with_reducible apply keptO_some
    | with_reducible apply keptX_attempt
    | with_reducible apply kept_clearRegs
    | with_reducible apply kept_guardReg
    | with_reducible apply kept_setReg
    | dsimp only
    | with_reducible intro _
    | with_reducible apply keptO_ite

/-! ## Aster -/

theorem kept_setAstGroup {s0 : State} {s : State} {g : Nat} {v : AstGroup} (h : Kept s0 s) :
    Kept s0 (State.setAstGroup s g v) := by
  unfold State.setAstGroup
  repeat' first
    | with_reducible assumption
    | with_reducible rfl
    | dsimp only
    | with_reducible exact shrinks_refl
    | with_reducible exact keepWf_refl
    | exact keepWf_refl
    | exact shrinks_refl
    | with_reducible exact shrinks_tail (by assumption)
    | with_reducible refine kept_mk rfl ?_ ?_ ?_ ?_ ?_ ?_ ?_ ?_ ?_ ?_ ?_

theorem kept_setJournal {s0 : State} {s : State} {g : Nat} {j : Journal} (h : Kept s0 s) :
    Kept s0 (State.setJournal s g j) := by
  unfold State.setJournal
  repeat' first
    | with_reducible assumption
    | with_reducible apply kept_setAstGroup

theorem kept_trkWrite {s0 : State} {s : State} {i : Nat} {v : BitVec 512} (h : Kept s0 s) :
    Kept s0 (State.trkWrite s i v) := by
  unfold State.trkWrite
  repeat' first
    | with_reducible assumption
    | with_reducible rfl
    | dsimp only
    | with_reducible exact shrinks_refl
    | with_reducible exact keepWf_refl
    | exact keepWf_refl
    | exact shrinks_refl
    | with_reducible exact shrinks_tail (by assumption)
    | with_reducible refine kept_mk rfl ?_ ?_ ?_ ?_ ?_ ?_ ?_ ?_ ?_ ?_ ?_

theorem kept_macroFault {s0 : State} {s : State} {i : Nat} {n : Nat} (h : Kept s0 s) :
    Kept s0 (State.macroFault s i n) := by
  unfold State.macroFault
  repeat' first
    | with_reducible assumption
    | with_reducible rfl
    | with_reducible apply kept_fault
    | dsimp only
    | with_reducible apply kept_ite
    | with_reducible apply kept_ite_fst
    | with_reducible exact shrinks_refl
    | with_reducible exact keepWf_refl
    | with_reducible exact shrinks_nil
    | exact keepWf_refl
    | exact shrinks_refl
    | with_reducible exact shrinks_tail (by assumption)
    | with_reducible refine kept_mk rfl ?_ ?_ ?_ ?_ ?_ ?_ ?_ ?_ ?_ ?_ ?_

theorem kept_shadowRead {s0 : State} {s : State} {i : Nat} (h : Kept s0 s) :
    Kept s0 (State.shadowRead s i).1 := by
  unfold State.shadowRead
  repeat' first
    | with_reducible assumption
    | with_reducible rfl
    | with_reducible apply kept_memAccess
    | dsimp only
    | with_reducible apply kept_ite
    | with_reducible apply kept_ite_fst
    | split
    | with_reducible exact shrinks_refl
    | with_reducible exact keepWf_refl
    | with_reducible exact shrinks_nil
    | exact keepWf_refl
    | exact shrinks_refl
    | with_reducible exact shrinks_tail (by assumption)
    | with_reducible refine kept_mk rfl ?_ ?_ ?_ ?_ ?_ ?_ ?_ ?_ ?_ ?_ ?_

theorem kept_trkRestore {s0 : State} {s : State} {i : Nat} (h : Kept s0 s) :
    Kept s0 (State.trkRestore s i) := by
  unfold State.trkRestore
  repeat' first
    | with_reducible assumption
    | with_reducible apply kept_shadowRead
    | with_reducible apply kept_trkWrite
    | with_reducible apply kept_fault

theorem kept_trkRead {s0 : State} {s : State} {i : Nat} (h : Kept s0 s) :
    Kept s0 (State.trkRead s i).1 := by
  unfold State.trkRead
  repeat' first
    | with_reducible assumption
    | with_reducible apply kept_trkRestore
    | with_reducible apply kept_macroFault
    | dsimp only
    | with_reducible apply kept_ite
    | with_reducible apply kept_ite_fst

theorem kept_trkReads {s0 : State} {s : State} {a1 : List Nat} (h : Kept s0 s) :
    Kept s0 (State.trkReads s a1).1 := by
  induction a1 generalizing s with
  | nil =>
    unfold State.trkReads
    repeat' first
      | with_reducible assumption
  | cons x l ih =>
    unfold State.trkReads
    repeat' first
      | with_reducible apply ih
      | with_reducible assumption
      | with_reducible apply kept_trkRead

theorem kept_asterTake {s0 : State} {s : State} {p : Pipe} {pipe : Nat} {stage : Nat} {e : B32} (h : Kept s0 s) :
    Kept s0 (State.asterTake s p pipe stage e) := by
  unfold State.asterTake
  repeat' first
    | with_reducible assumption
    | with_reducible apply kept_setEpoch
    | with_reducible apply kept_setBook
    | dsimp only
    | with_reducible intro _
    | with_reducible apply kept_foldl
    | with_reducible apply kept_foldl_fst
    | with_reducible apply kept_ite
    | with_reducible apply kept_ite_fst
    | split

theorem kept_asterFail {s0 : State} {s : State} {p : Pipe} {pipe : Nat} {stage : Nat} {e : B32} {status : Nat} (h : Kept s0 s) :
    Kept s0 (State.asterFail s p pipe stage e status) := by
  unfold State.asterFail
  repeat' first
    | with_reducible assumption
    | with_reducible apply kept_endCause
    | with_reducible apply kept_sendReport

theorem kept_asterSend {s0 : State} {s : State} {a : AsterRec} {p : Pipe} {stage : Nat} {e : B32} {seq : B32} {nDet : Nat} {dets : List Det} (h : Kept s0 s) :
    Kept s0 (State.asterSend s a p stage e seq nDet dets) := by
  unfold State.asterSend
  repeat' first
    | with_reducible assumption
    | with_reducible apply kept_asterFail
    | with_reducible apply kept_trkReads
    | with_reducible apply kept_setJournal
    | with_reducible apply kept_memWrites
    | with_reducible apply kept_memReads
    | dsimp only
    | with_reducible intro _
    | with_reducible apply kept_foldl
    | with_reducible apply kept_foldl_fst
    | with_reducible apply kept_ite
    | with_reducible apply kept_ite_fst

theorem kept_asterStart {s0 : State} {s : State} {a : AsterRec} {p : Pipe} {stage : Nat} {e : B32} {sm : Sample} (h : Kept s0 s) :
    Kept s0 (State.asterStart s a p stage e sm) := by
  unfold State.asterStart
  repeat' first
    | with_reducible assumption
    | with_reducible apply kept_asterSend
    | with_reducible apply kept_asterFail
    | with_reducible apply kept_asterTake
    | with_reducible apply kept_memReads
    | dsimp only
    | with_reducible apply kept_ite
    | with_reducible apply kept_ite_fst
    | split

theorem kept_execAsterEpochStart {s0 : State} {g : Nat} {e : B32} {s : State} (h : Kept s0 s) :
    KeptX s0 (execAsterEpochStart g e s) := by
  unfold execAsterEpochStart
  repeat' first
    | with_reducible assumption
    | with_reducible exact keptO_none _
    | with_reducible apply keptO_some
    | with_reducible apply keptX_attempt
    | with_reducible apply kept_asterStart
    | dsimp only
    | with_reducible apply keptO_ite
    | with_reducible apply kept_ite
    | with_reducible apply kept_ite_fst
    | split

theorem kept_rowsIn {s0 : State} {s : State} {rq : Requester} {ep : Option (B32 × Nat)} {t : Nat} {a4 : List (Nat × Nat)} (h : Kept s0 s) :
    Kept s0 (State.rowsIn s rq ep t a4).1 := by
  induction a4 generalizing s rq ep t with
  | nil =>
    unfold State.rowsIn
    repeat' first
      | with_reducible assumption
  | cons x l ih =>
    unfold State.rowsIn
    repeat' first
      | with_reducible apply ih
      | with_reducible assumption
      | with_reducible apply kept_inkWrite
      | with_reducible apply kept_memAccess
      | dsimp only
      | with_reducible apply kept_ite
      | with_reducible apply kept_ite_fst

theorem kept_rowsOut {s0 : State} {s : State} {rq : Requester} {ep : Option (B32 × Nat)} {t : Nat} {a4 : List (Nat × Nat)} (h : Kept s0 s) :
    Kept s0 (State.rowsOut s rq ep t a4).1 := by
  induction a4 generalizing s rq ep t with
  | nil =>
    unfold State.rowsOut
    repeat' first
      | with_reducible assumption
  | cons x l ih =>
    unfold State.rowsOut
    repeat' first
      | with_reducible apply ih
      | with_reducible assumption
      | with_reducible apply kept_inkRead
      | with_reducible apply kept_memAccess
      | dsimp only
      | with_reducible apply kept_ite
      | with_reducible apply kept_ite_fst

theorem kept_jobBlock {s0 : State} {s : State} {c : JobCtx} {d0 : Nat} {ps : Nat} {b : Nat} (h : Kept s0 s) :
    Kept s0 (State.jobBlock s c d0 ps b).1 := by
  unfold State.jobBlock
  repeat' first
    | with_reducible assumption
    | with_reducible apply kept_rowsOut
    | with_reducible apply kept_rowsIn
    | with_reducible apply kept_arrErr
    | with_reducible apply kept_arrayBlock
    | with_reducible apply kept_bankWaits
    | with_reducible apply kept_stageClamps
    | with_reducible apply kept_stageCount
    | dsimp only
    | with_reducible apply kept_ite
    | with_reducible apply kept_ite_fst
    | split

theorem kept_jobBlocks {s0 : State} {s : State} {c : JobCtx} {d0 : Nat} {ps : Nat} {a4 : List Nat} (h : Kept s0 s) :
    Kept s0 (State.jobBlocks s c d0 ps a4).1 := by
  induction a4 generalizing s c d0 ps with
  | nil =>
    unfold State.jobBlocks
    repeat' first
      | with_reducible assumption
  | cons x l ih =>
    unfold State.jobBlocks
    repeat' first
      | with_reducible apply ih
      | with_reducible assumption
      | with_reducible apply kept_jobBlock
      | dsimp only
      | with_reducible apply kept_ite
      | with_reducible apply kept_ite_fst

theorem kept_jobPasses {s0 : State} {s : State} {c : JobCtx} {blocks : List Nat} {a3 : List (Nat × Nat)} (h : Kept s0 s) :
    Kept s0 (State.jobPasses s c blocks a3).1 := by
  induction a3 generalizing s c blocks with
  | nil =>
    unfold State.jobPasses
    repeat' first
      | with_reducible assumption
  | cons x l ih =>
    unfold State.jobPasses
    repeat' first
      | with_reducible apply ih
      | with_reducible assumption
      | with_reducible apply kept_jobBlocks
      | with_reducible apply kept_rowsIn
      | dsimp only
      | with_reducible apply kept_ite
      | with_reducible apply kept_ite_fst

theorem kept_execAsterJobProgram {s0 : State} {g : Nat} {l : Nat} {s : State} (h : Kept s0 s) :
    KeptX s0 (execAsterJobProgram g l s) := by
  unfold execAsterJobProgram
  repeat' first
    | with_reducible assumption
    | with_reducible exact keptO_none _
    | with_reducible apply keptO_some
    | with_reducible apply keptX_attempt
    | with_reducible apply kept_jobPasses
    | with_reducible apply kept_asterFail
    | with_reducible apply kept_setJournal
    | dsimp only
    | with_reducible apply keptO_ite
    | with_reducible apply kept_ite
    | with_reducible apply kept_ite_fst
    | split

theorem kept_asterFinish {s0 : State} {s : State} {p : Pipe} {pipe : Nat} {stage : Nat} {e : B32} (h : Kept s0 s) :
    Kept s0 (State.asterFinish s p pipe stage e) := by
  unfold State.asterFinish
  repeat' first
    | with_reducible assumption
    | with_reducible apply kept_sendToken
    | with_reducible apply kept_returnSlot
    | with_reducible apply kept_sendReport
    | dsimp only
    | with_reducible intro _
    | with_reducible apply kept_foldl
    | with_reducible apply kept_foldl_fst
    | split

theorem kept_writeRecords {s0 : State} {s : State} {p : Pipe} {pipe : Nat} {stage : Nat} {e : B32} {bytes : List Byte} {a6 : List Bool} (h : Kept s0 s) :
    Kept s0 (State.writeRecords s p pipe stage e bytes a6).1 := by
  induction a6 generalizing s p pipe stage e bytes with
  | nil =>
    unfold State.writeRecords
    repeat' first
      | with_reducible assumption
  | cons x l ih =>
    unfold State.writeRecords
    repeat' first
      | with_reducible apply ih
      | with_reducible assumption
      | with_reducible apply kept_memWrites
      | dsimp only
      | with_reducible apply kept_ite
      | with_reducible apply kept_ite_fst

theorem kept_asterAssign {s0 : State} {s : State} {a : AsterRec} {p : Pipe} {stage : Nat} {j : Journal} {sm : Sample} (h : Kept s0 s) :
    Kept s0 (State.asterAssign s a p stage j sm) := by
  unfold State.asterAssign
  repeat' first
    | with_reducible assumption
    | with_reducible apply kept_writeRecords
    | with_reducible apply kept_asterFinish
    | with_reducible apply kept_asterFail
    | with_reducible apply kept_setJournal
    | dsimp only
    | with_reducible intro _
    | with_reducible apply kept_ite

theorem kept_execAsterCostsReady {s0 : State} {g : Nat} {s : State} (h : Kept s0 s) :
    KeptX s0 (execAsterCostsReady g s) := by
  unfold execAsterCostsReady
  repeat' first
    | with_reducible assumption
    | with_reducible exact keptO_none _
    | with_reducible apply keptO_some
    | with_reducible apply keptX_attempt
    | with_reducible apply kept_asterAssign
    | with_reducible apply kept_asterFail
    | with_reducible apply kept_memReads
    | dsimp only
    | with_reducible apply keptO_ite
    | with_reducible apply kept_ite
    | with_reducible apply kept_ite_fst
    | split

theorem kept_commitJournal {s0 : State} {s : State} {pipe : Nat} {e : B32} (h : Kept s0 s) :
    Kept s0 (State.commitJournal s pipe e) := by
  unfold State.commitJournal
  repeat' first
    | with_reducible assumption
    | with_reducible apply kept_setAstGroup
    | with_reducible apply kept_addWrap
    | with_reducible apply kept_addSat
    | with_reducible apply kept_setReg
    | with_reducible apply kept_raise
    | dsimp only
    | with_reducible apply kept_ite
    | with_reducible apply kept_ite_fst
    | split

theorem kept_freeJournal {s0 : State} {s : State} {pipe : Nat} {e : B32} (h : Kept s0 s) :
    Kept s0 (State.freeJournal s pipe e) := by
  unfold State.freeJournal
  repeat' first
    | with_reducible assumption
    | with_reducible apply kept_setAstGroup
    | dsimp only
    | with_reducible apply kept_ite
    | with_reducible apply kept_ite_fst
    | split

theorem kept_execJournalCopyDone {s0 : State} {g : Nat} {s : State} (h : Kept s0 s) :
    KeptX s0 (execJournalCopyDone g s) := by
  unfold execJournalCopyDone
  repeat' first
    | with_reducible assumption
    | with_reducible exact keptO_none _
    | with_reducible apply keptO_some
    | with_reducible apply keptX_attempt
    | with_reducible apply kept_trkWrite
    | with_reducible apply kept_setAstGroup
    | with_reducible apply kept_memWrites
    | dsimp only
    | with_reducible intro _
    | with_reducible apply kept_foldl
    | with_reducible apply kept_foldl_fst
    | with_reducible apply keptO_ite
    | with_reducible apply kept_ite
    | with_reducible apply kept_ite_fst
    | split

theorem kept_execMacroSpared {s0 : State} {m : Nat} {s : State} (h : Kept s0 s) :
    KeptX s0 (execMacroSpared m s) := by
  unfold execMacroSpared
  repeat' first
    | with_reducible assumption
    | with_reducible rfl
    | with_reducible exact keptO_none _
    | with_reducible apply keptO_some
    | with_reducible apply keptX_attempt
    | with_reducible apply kept_trkRestore
    | with_reducible apply kept_exhaust
    | with_reducible apply kept_setFld
    | with_reducible apply kept_raise
    | dsimp only
    | with_reducible intro _
    | with_reducible apply kept_foldl
    | with_reducible apply kept_foldl_fst
    | with_reducible apply keptO_ite
    | with_reducible apply kept_ite
    | with_reducible apply kept_ite_fst
    | with_reducible exact shrinks_refl
    | with_reducible exact keepWf_refl
    | with_reducible exact keepWf_filter
    | with_reducible exact shrinks_filter
    | with_reducible exact shrinks_nil
    | exact keepWf_refl
    | exact shrinks_refl
    | with_reducible exact shrinks_tail (by assumption)
    | with_reducible refine kept_mk rfl ?_ ?_ ?_ ?_ ?_ ?_ ?_ ?_ ?_ ?_ ?_

theorem kept_execAstTrkDataRead {s0 : State} {rq : Requester} {s : State} (h : Kept s0 s) :
    KeptX s0 (execAstTrkDataRead rq s) := by
  unfold execAstTrkDataRead
  repeat' first
    | with_reducible assumption
    | with_reducible rfl
    | with_reducible exact keptO_none _
    | with_reducible apply keptO_some
    | with_reducible apply keptX_attempt
    | with_reducible apply kept_trkRead
    | with_reducible apply kept_refuseReg
    | dsimp only
    | with_reducible apply keptO_ite
    | with_reducible apply kept_ite
    | with_reducible apply kept_ite_fst
    | with_reducible exact shrinks_refl
    | with_reducible exact keepWf_refl
    | exact keepWf_refl
    | exact shrinks_refl
    | with_reducible exact shrinks_tail (by assumption)
    | with_reducible refine kept_mk rfl ?_ ?_ ?_ ?_ ?_ ?_ ?_ ?_ ?_ ?_ ?_

theorem kept_execAstCntClear {s0 : State} {rq : Requester} {s : State} (h : Kept s0 s) :
    KeptX s0 (execAstCntClear rq s) := by
  unfold execAstCntClear
  repeat' first
    | with_reducible assumption
    | with_reducible exact keptO_none _
    | with_reducible apply keptO_some
    | with_reducible apply keptX_attempt
    | with_reducible apply kept_guardReg
    | with_reducible apply kept_setReg
    | dsimp only
    | with_reducible intro _
    | with_reducible apply kept_foldl
    | with_reducible apply kept_foldl_fst
    | with_reducible apply keptO_ite

end Sys2Proof.Machine
end

