-- ==== Sys2Proof/Laws/KeptVision.lean ====
section
/-!
SUPPORT. What the state keeps (`Kept`): the camera path, the video codec, DMA, the scheduler, the epochs and the books.
One lemma for each operation and each command: its next state keeps the queue, the fuses and the invariant.
-/
namespace Sys2Proof.Machine

/-! ## Camera -/

theorem kept_setStream {s0 : State} {s : State} {i : Nat} {v : StreamRt} (h : Kept s0 s) :
    Kept s0 (State.setStream s i v) := by
  unfold State.setStream
  repeat' first
    | with_reducible assumption
    | with_reducible rfl
    | dsimp only
    | with_reducible exact shrinks_refl
    | with_reducible exact keepWf_refl
    | exact keepWf_refl
    | exact shrinks_refl
    | with_reducible exact shrinks_tail (by assumption)
    | with_reducible refine kept_mk rfl ?_ ?_ ?_ ?_ ?_ ?_ ?_ ?_ ?_ ?_ ?_

theorem kept_setGroup {s0 : State} {s : State} {g : Nat} {v : GroupRt} (h : Kept s0 s) :
    Kept s0 (State.setGroup s g v) := by
  unfold State.setGroup
  repeat' first
    | with_reducible assumption
    | with_reducible rfl
    | dsimp only
    | with_reducible exact shrinks_refl
    | with_reducible exact keepWf_refl
    | exact keepWf_refl
    | exact shrinks_refl
    | with_reducible exact shrinks_tail (by assumption)
    | with_reducible refine kept_mk rfl ?_ ?_ ?_ ?_ ?_ ?_ ?_ ?_ ?_ ?_ ?_

theorem kept_setFsync {s0 : State} {s : State} {k : Nat} {v : FsyncRt} (h : Kept s0 s) :
    Kept s0 (State.setFsync s k v) := by
  unfold State.setFsync
  repeat' first
    | with_reducible assumption
    | with_reducible rfl
    | dsimp only
    | with_reducible exact shrinks_refl
    | with_reducible exact keepWf_refl
    | exact keepWf_refl
    | exact shrinks_refl
    | with_reducible exact shrinks_tail (by assumption)
    | with_reducible refine kept_mk rfl ?_ ?_ ?_ ?_ ?_ ?_ ?_ ?_ ?_ ?_ ?_

theorem kept_offer {s0 : State} {s : State} {kind : SrcKind} {id : Nat} {sub : Nat} {flags : BitVec 16} {sm : Sample} {head : List Byte} {segs : List (Nat × Nat)} (h : Kept s0 s) :
    Kept s0 (State.offer s kind id sub flags sm head segs) := by
  unfold State.offer
  repeat' first
    | with_reducible assumption
    | with_reducible apply kept_completeStopped
    | with_reducible apply kept_pushSource
    | with_reducible apply kept_dropFrames
    | dsimp only
    | with_reducible intro _
    | with_reducible apply kept_foldl
    | with_reducible apply kept_foldl_fst
    | with_reducible apply kept_ite

theorem kept_putFrame {s0 : State} {s : State} {f : Frame} (h : Kept s0 s) :
    Kept s0 (State.putFrame s f) := by
  unfold State.putFrame
  repeat' first
    | with_reducible assumption
    | with_reducible rfl
    | dsimp only
    | with_reducible apply kept_ite
    | with_reducible apply kept_ite_fst
    | with_reducible exact shrinks_refl
    | with_reducible exact keepWf_refl
    | exact keepWf_refl
    | exact shrinks_refl
    | with_reducible exact shrinks_tail (by assumption)
    | with_reducible refine kept_mk rfl ?_ ?_ ?_ ?_ ?_ ?_ ?_ ?_ ?_ ?_ ?_

theorem kept_purgeFrames {s0 : State} {s : State} (h : Kept s0 s) :
    Kept s0 (State.purgeFrames s) := by
  unfold State.purgeFrames
  repeat' first
    | with_reducible assumption
    | with_reducible rfl
    | dsimp only
    | split
    | with_reducible exact shrinks_refl
    | with_reducible exact keepWf_refl
    | with_reducible exact keepWf_filter
    | with_reducible exact shrinks_filter
    | exact keepWf_refl
    | exact shrinks_refl
    | with_reducible exact shrinks_tail (by assumption)
    | with_reducible refine kept_mk rfl ?_ ?_ ?_ ?_ ?_ ?_ ?_ ?_ ?_ ?_ ?_

theorem kept_countFlagged {s0 : State} {s : State} {st : Nat} {old : BitVec 16} {new : BitVec 16} (h : Kept s0 s) :
    Kept s0 (State.countFlagged s st old new) := by
  unfold State.countFlagged
  repeat' first
    | with_reducible assumption
    | with_reducible apply kept_addWrap
    | dsimp only
    | with_reducible apply kept_ite

theorem kept_sendInst {s0 : State} {s : State} {g : Nat} {gi : GroupInst} (h : Kept s0 s) :
    Kept s0 (State.sendInst s g gi) := by
  unfold State.sendInst
  repeat' first
    | with_reducible assumption
    | with_reducible apply kept_offer
    | with_reducible apply kept_setGroup
    | dsimp only
    | with_reducible intro _
    | with_reducible apply kept_foldl
    | with_reducible apply kept_foldl_fst
    | split

theorem kept_sendReady {s0 : State} {s : State} {g : Nat} (h : Kept s0 s) :
    Kept s0 (State.sendReady s g) := by
  unfold State.sendReady
  repeat' first
    | with_reducible assumption
    | with_reducible apply kept_sendInst
    | with_reducible apply kept_purgeFrames
    | dsimp only
    | with_reducible intro _
    | with_reducible apply kept_foldl
    | with_reducible apply kept_foldl_fst
    | with_reducible apply kept_ite

theorem kept_irisWrite {s0 : State} {s : State} {pipe : Nat} {addr : Nat} {data : List Byte} (h : Kept s0 s) :
    Kept s0 (State.irisWrite s pipe addr data).1 := by
  unfold State.irisWrite
  repeat' first
    | with_reducible assumption
    | with_reducible apply kept_memAccess

theorem kept_queueCoding {s0 : State} {s : State} {f : Frame} {slot : Nat} (h : Kept s0 s) :
    Kept s0 (State.queueCoding s f slot) := by
  unfold State.queueCoding
  repeat' first
    | with_reducible assumption
    | with_reducible rfl
    | dsimp only
    | with_reducible apply kept_ite
    | with_reducible apply kept_ite_fst
    | with_reducible exact shrinks_refl
    | with_reducible exact keepWf_refl
    | with_reducible exact keepWf_filter
    | with_reducible exact shrinks_filter
    | exact keepWf_refl
    | exact shrinks_refl
    | with_reducible exact shrinks_tail (by assumption)
    | with_reducible refine kept_mk rfl ?_ ?_ ?_ ?_ ?_ ?_ ?_ ?_ ?_ ?_ ?_

theorem kept_writePlain {s0 : State} {s : State} {r : StreamRec} {f : Frame} {tRel : B64} {o : Nat} (h : Kept s0 s) :
    Kept s0 (State.writePlain s r f tRel o) := by
  unfold State.writePlain
  repeat' first
    | with_reducible assumption
    | with_reducible apply kept_queueCoding
    | with_reducible apply kept_irisWrite
    | with_reducible apply kept_putFrame
    | with_reducible apply kept_dropFrames
    | dsimp only
    | with_reducible apply kept_ite

theorem kept_sendVision {s0 : State} {s : State} {r : StreamRec} {f : Frame} {o : Nat} {tRel : B64} (h : Kept s0 s) :
    Kept s0 (State.sendVision s r f o tRel) := by
  unfold State.sendVision
  repeat' first
    | with_reducible assumption
    | with_reducible apply kept_irisWrite
    | with_reducible apply kept_offer
    | with_reducible apply kept_dropFrames
    | dsimp only
    | with_reducible apply kept_ite

theorem kept_sendDue {s0 : State} {s : State} {st : Nat} {n : B32} {o : Nat} (h : Kept s0 s) :
    Kept s0 (State.sendDue s st n o) := by
  unfold State.sendDue
  repeat' first
    | with_reducible assumption
    | with_reducible apply kept_sendVision
    | with_reducible apply kept_putFrame
    | dsimp only
    | with_reducible apply kept_ite
    | with_reducible apply kept_ite_fst
    | split

theorem kept_settleOut {s0 : State} {s : State} {st : Nat} {n : B32} {o : Nat} (h : Kept s0 s) :
    Kept s0 (State.settleOut s st n o) := by
  unfold State.settleOut
  repeat' first
    | with_reducible assumption
    | with_reducible apply kept_writePlain
    | dsimp only
    | with_reducible apply kept_ite
    | with_reducible apply kept_ite_fst
    | split

theorem kept_settleFrame {s0 : State} {s : State} {st : Nat} {n : B32} (h : Kept s0 s) :
    Kept s0 (State.settleFrame s st n) := by
  unfold State.settleFrame
  repeat' first
    | with_reducible assumption
    | with_reducible apply kept_settleOut
    | with_reducible apply kept_sendDue
    | dsimp only
    | with_reducible intro _
    | with_reducible apply kept_foldl

theorem kept_settlePlain {s0 : State} {s : State} (h : Kept s0 s) :
    Kept s0 (State.settlePlain s) := by
  unfold State.settlePlain
  repeat' first
    | with_reducible assumption
    | with_reducible apply kept_settleFrame
    | with_reducible apply kept_purgeFrames
    | dsimp only
    | with_reducible intro _
    | with_reducible apply kept_foldl

theorem kept_settleAll {s0 : State} {s : State} (h : Kept s0 s) :
    Kept s0 (State.settleAll s) := by
  unfold State.settleAll
  repeat' first
    | with_reducible assumption
    | with_reducible apply kept_settlePlain
    | with_reducible apply kept_sendReady
    | dsimp only
    | with_reducible intro _
    | with_reducible apply kept_foldl
    | with_reducible apply kept_foldl_fst
    | with_reducible apply kept_ite

theorem kept_releaseInst {s0 : State} {s : State} {g : Nat} {complete : Bool} {at_ : B64} (h : Kept s0 s) :
    Kept s0 (State.releaseInst s g complete at_) := by
  unfold State.releaseInst
  repeat' first
    | with_reducible assumption
    | with_reducible apply kept_settleAll
    | with_reducible apply kept_countFlagged
    | with_reducible apply kept_putFrame
    | with_reducible apply kept_setGroup
    | with_reducible apply kept_addWrap
    | dsimp only
    | with_reducible intro _
    | with_reducible apply kept_foldl
    | with_reducible apply kept_foldl_fst
    | with_reducible apply kept_ite
    | with_reducible apply kept_ite_fst
    | split

theorem kept_dropLate {s0 : State} {s : State} {g : Nat} {f : Frame} (h : Kept s0 s) :
    Kept s0 (State.dropLate s g f) := by
  unfold State.dropLate
  repeat' first
    | with_reducible assumption
    | with_reducible apply kept_settlePlain
    | with_reducible apply kept_putFrame
    | with_reducible apply kept_dropFrames
    | with_reducible apply kept_addSat

theorem kept_joinInst {s0 : State} {s : State} {a : AlignRec} {g : Nat} {now : Nat} {f : Frame} (h : Kept s0 s) :
    Kept s0 (State.joinInst s a g now f) := by
  unfold State.joinInst
  repeat' first
    | with_reducible assumption
    | with_reducible apply kept_releaseInst
    | with_reducible apply kept_putFrame
    | with_reducible apply kept_setGroup
    | dsimp only
    | with_reducible apply kept_ite

theorem kept_alignArrive {s0 : State} {s : State} {now : Nat} {f : Frame} (h : Kept s0 s) :
    Kept s0 (State.alignArrive s now f) := by
  unfold State.alignArrive
  repeat' first
    | with_reducible assumption
    | with_reducible apply kept_joinInst
    | with_reducible apply kept_dropLate
    | with_reducible apply kept_releaseInst
    | dsimp only
    | with_reducible apply kept_ite
    | with_reducible apply kept_ite_fst
    | split

theorem kept_settleArrivals {s0 : State} {s : State} {now : Nat} (h : Kept s0 s) :
    Kept s0 (State.settleArrivals s now) := by
  unfold State.settleArrivals
  repeat' first
    | with_reducible assumption
    | with_reducible rfl
    | with_reducible apply kept_alignArrive
    | dsimp only
    | with_reducible intro _
    | with_reducible apply kept_foldl
    | with_reducible apply kept_foldl_fst
    | split
    | with_reducible exact shrinks_refl
    | with_reducible exact keepWf_refl
    | with_reducible exact shrinks_nil
    | exact keepWf_refl
    | exact shrinks_refl
    | with_reducible exact shrinks_tail (by assumption)
    | with_reducible refine kept_mk rfl ?_ ?_ ?_ ?_ ?_ ?_ ?_ ?_ ?_ ?_ ?_

theorem kept_closeFrame {s0 : State} {s : State} {st : Nat} {missing : Bool} (h : Kept s0 s) :
    Kept s0 (State.closeFrame s st missing) := by
  unfold State.closeFrame
  repeat' first
    | with_reducible assumption
    | with_reducible rfl
    | with_reducible apply kept_settlePlain
    | with_reducible apply kept_countFlagged
    | with_reducible apply kept_setStream
    | with_reducible apply kept_dropFrames
    | with_reducible apply kept_add64
    | dsimp only
    | with_reducible intro _
    | with_reducible apply kept_ite
    | with_reducible apply kept_ite_fst
    | split
    | with_reducible exact shrinks_refl
    | with_reducible exact keepWf_refl
    | with_reducible exact shrinks_nil
    | exact keepWf_refl
    | exact shrinks_refl
    | with_reducible exact shrinks_tail (by assumption)
    | with_reducible refine kept_mk rfl ?_ ?_ ?_ ?_ ?_ ?_ ?_ ?_ ?_ ?_ ?_

theorem kept_copyBlock {s0 s : State} {pipe base : Nat} (h : Kept s0 s) : Kept s0 (s.copyBlock pipe base).1 := by
  unfold State.copyBlock
  exact kept_pair (kept_memAccess h)

theorem kept_shadowBank {s0 s : State} {r : StreamRec} {pipe : Nat} (h : Kept s0 s) : Kept s0 (s.shadowBank r pipe).1 := by
  unfold State.shadowBank
  exact kept_pair (kept_copyBlock h)

theorem kept_takeBlock {s0 s : State} {r : StreamRec} {pipe base : Nat} {c : State × Option Memory} (hc : Kept s0 c.1) :
    Kept s0 (s.takeBlock r pipe base c).1 := by
  unfold State.takeBlock
  split
  · exact kept_ite_fst (kept_pair (kept_irisWrite hc)) (kept_shadowBank hc)
  · exact kept_shadowBank hc

theorem kept_loadParams {s0 s : State} {r : StreamRec} {pipe : Nat} {bank : Bool} (h : Kept s0 s) :
    Kept s0 (s.loadParams r pipe bank).1 := by
  unfold State.loadParams
  exact kept_takeBlock (kept_copyBlock h)

theorem kept_openLost {s0 : State} {s : State} {st : Nat} {o : OpenFrame} (h : Kept s0 s) :
    Kept s0 (State.openLost s st o) := by
  unfold State.openLost
  repeat' first
    | with_reducible assumption
    | with_reducible apply kept_setStream
    | with_reducible apply kept_dropFrames

theorem kept_openWith {s0 : State} {r : StreamRec} {o : OpenFrame} {l : State × Option (Memory × Bool)}
    (h : Kept s0 l.1) : Kept s0 (openWith r o l) := by
  unfold openWith
  split
  · exact kept_openLost h
  · exact kept_setStream (kept_ite (kept_dropFrames (kept_ite (kept_addSat h) h)) (kept_ite (kept_addSat h) h))

theorem kept_openFrame {s0 : State} {s : State} {r : StreamRec} {fn : Nat} {hdrCorr : Bool} (h : Kept s0 s) :
    Kept s0 (State.openFrame s r fn hdrCorr) := by
  unfold State.openFrame
  repeat' first
    | with_reducible assumption
    | with_reducible apply kept_openLost
    | with_reducible apply kept_loadParams
    | with_reducible apply kept_setStream
    | with_reducible apply kept_addWrap
    | with_reducible apply kept_setBit
    | with_reducible apply kept_openWith
    | dsimp only
    | with_reducible intro _
    | with_reducible apply kept_foldl
    | with_reducible apply kept_foldl_fst
    | with_reducible apply kept_ite
    | with_reducible apply kept_ite_fst
    | split

theorem kept_corrected {s0 : State} {s : State} {port : Nat} {b : Bool} (h : Kept s0 s) :
    Kept s0 (State.corrected s port b) := by
  unfold State.corrected
  repeat' first
    | with_reducible assumption
    | with_reducible apply kept_addFld
    | dsimp only
    | with_reducible apply kept_ite

theorem kept_orphan {s0 : State} {s : State} {port : Nat} (h : Kept s0 s) :
    Kept s0 (State.orphan s port) := by
  unfold State.orphan
  repeat' first
    | with_reducible assumption
    | with_reducible apply kept_addSat

theorem kept_onFrame {s0 : State} {s : State} {st : Nat} {f : OpenFrame → OpenFrame} (h : Kept s0 s) :
    Kept s0 (State.onFrame s st f) := by
  unfold State.onFrame
  repeat' first
    | with_reducible assumption
    | with_reducible apply kept_setStream
    | dsimp only
    | split

theorem kept_expStart {s0 : State} {s : State} {st : Nat} {k : Nat} {fn : Nat} {hdrCorr : Bool} (h : Kept s0 s) :
    Kept s0 (State.expStart s st k fn hdrCorr) := by
  unfold State.expStart
  repeat' first
    | with_reducible assumption
    | with_reducible apply kept_setStream

theorem kept_expEnd {s0 : State} {s : State} {st : Nat} {k : Nat} {fn : Nat} {hdrCorr : Bool} (h : Kept s0 s) :
    Kept s0 (State.expEnd s st k fn hdrCorr) := by
  unfold State.expEnd
  repeat' first
    | with_reducible assumption
    | with_reducible apply kept_onFrame
    | with_reducible apply kept_setStream

theorem kept_execCsiFrameStart {s0 : State} {port : Nat} {vc : Nat} {fn : BitVec 16} {hdrCorr : Bool} {s : State} (h : Kept s0 s) :
    KeptX s0 (execCsiFrameStart port vc fn hdrCorr s) := by
  unfold execCsiFrameStart
  repeat' first
    | with_reducible assumption
    | with_reducible exact keptO_none _
    | with_reducible apply keptO_some
    | with_reducible apply keptX_attempt
    | with_reducible apply kept_expStart
    | with_reducible apply kept_orphan
    | with_reducible apply kept_corrected
    | with_reducible apply kept_openFrame
    | with_reducible apply kept_closeFrame
    | dsimp only
    | with_reducible apply keptO_ite
    | with_reducible apply kept_ite
    | with_reducible apply kept_ite_fst
    | split

theorem kept_execCsiFrameEnd {s0 : State} {port : Nat} {vc : Nat} {fn : BitVec 16} {hdrCorr : Bool} {s : State} (h : Kept s0 s) :
    KeptX s0 (execCsiFrameEnd port vc fn hdrCorr s) := by
  unfold execCsiFrameEnd
  repeat' first
    | with_reducible assumption
    | with_reducible exact keptO_none _
    | with_reducible apply keptO_some
    | with_reducible apply keptX_attempt
    | with_reducible apply kept_expEnd
    | with_reducible apply kept_orphan
    | with_reducible apply kept_corrected
    | with_reducible apply kept_closeFrame
    | dsimp only
    | with_reducible apply keptO_ite
    | with_reducible apply kept_ite
    | with_reducible apply kept_ite_fst
    | split

theorem kept_takeLine {s0 : State} {s : State} {r : StreamRec} {k : Nat} {crcOk : Bool} {hdrCorr : Bool} {pixels : Nat} {samples : List (Option Nat)} (h : Kept s0 s) :
    Kept s0 (State.takeLine s r k crcOk hdrCorr pixels samples) := by
  unfold State.takeLine
  repeat' first
    | with_reducible assumption
    | with_reducible apply kept_onFrame
    | with_reducible apply kept_setStream
    | dsimp only
    | with_reducible intro _
    | with_reducible apply kept_ite

theorem kept_lineLost {s0 : State} {s : State} {st : Nat} {k : Nat} (h : Kept s0 s) :
    Kept s0 (State.lineLost s st k) := by
  unfold State.lineLost
  repeat' first
    | with_reducible assumption
    | with_reducible apply kept_onFrame
    | with_reducible apply kept_setStream
    | dsimp only
    | with_reducible intro _
    | with_reducible apply kept_ite

theorem kept_execCsiLineReceive {s0 : State} {port : Nat} {vc : Nat} {dtype : Nat} {payload : List Byte} {crcOk : Bool} {hdrCorr : Bool} {hdrLost : Bool} {s : State} (h : Kept s0 s) :
    KeptX s0 (execCsiLineReceive port vc dtype payload crcOk hdrCorr hdrLost s) := by
  unfold execCsiLineReceive
  repeat' first
    | with_reducible assumption
    | with_reducible exact keptO_none _
    | with_reducible apply keptO_some
    | with_reducible apply keptX_attempt
    | with_reducible apply kept_lineLost
    | with_reducible apply kept_takeLine
    | with_reducible apply kept_orphan
    | with_reducible apply kept_corrected
    | with_reducible apply kept_addFld
    | with_reducible apply kept_addSat
    | dsimp only
    | with_reducible apply keptO_ite
    | with_reducible apply kept_ite
    | with_reducible apply kept_ite_fst
    | split

theorem kept_execFeTimeout {s0 : State} {st : Nat} {s : State} (h : Kept s0 s) :
    KeptX s0 (execFeTimeout st s) := by
  unfold execFeTimeout
  repeat' first
    | with_reducible assumption
    | with_reducible exact keptO_none _
    | with_reducible apply keptO_some
    | with_reducible apply keptX_attempt
    | with_reducible apply kept_closeFrame
    | dsimp only
    | with_reducible apply keptO_ite
    | with_reducible apply kept_ite
    | with_reducible apply kept_ite_fst
    | split

theorem kept_execStreamLost {s0 : State} {st : Nat} {s : State} (h : Kept s0 s) :
    KeptX s0 (execStreamLost st s) := by
  unfold execStreamLost
  repeat' first
    | with_reducible assumption
    | with_reducible exact keptO_none _
    | with_reducible apply keptO_some
    | with_reducible apply keptX_attempt
    | with_reducible apply kept_setStream
    | with_reducible apply kept_raise
    | dsimp only
    | with_reducible apply keptO_ite
    | with_reducible apply kept_ite
    | with_reducible apply kept_ite_fst
    | split

theorem kept_execAlignDeadline {s0 : State} {g : Nat} {s : State} (h : Kept s0 s) :
    KeptX s0 (execAlignDeadline g s) := by
  unfold execAlignDeadline
  repeat' first
    | with_reducible assumption
    | with_reducible exact keptO_none _
    | with_reducible apply keptO_some
    | with_reducible apply keptX_attempt
    | with_reducible apply kept_releaseInst
    | dsimp only
    | with_reducible apply keptO_ite

theorem kept_execAlignHoldoffEnd {s0 : State} {g : Nat} {s : State} (h : Kept s0 s) :
    KeptX s0 (execAlignHoldoffEnd g s) := by
  unfold execAlignHoldoffEnd
  repeat' first
    | with_reducible assumption
    | with_reducible exact keptO_none _
    | with_reducible apply keptO_some
    | with_reducible apply keptX_attempt
    | with_reducible apply kept_setGroup
    | dsimp only
    | with_reducible apply keptO_ite
    | with_reducible apply kept_ite
    | with_reducible apply kept_ite_fst
    | split

theorem kept_execIrisVisionComplete {s0 : State} {st : Nat} {crop : Nat} {s : State} (h : Kept s0 s) :
    KeptX s0 (execIrisVisionComplete st crop s) := by
  unfold execIrisVisionComplete
  repeat' first
    | with_reducible assumption
    | with_reducible exact keptO_none _
    | with_reducible apply keptO_some
    | with_reducible apply keptX_attempt
    | with_reducible apply kept_settlePlain
    | with_reducible apply kept_sendVision
    | with_reducible apply kept_irisWrite
    | with_reducible apply kept_sendReady
    | with_reducible apply kept_putFrame
    | with_reducible apply kept_dropFrames
    | with_reducible apply kept_addSat
    | dsimp only
    | with_reducible apply keptO_ite
    | with_reducible apply kept_ite
    | with_reducible apply kept_ite_fst
    | split

theorem kept_execIrisStatsWrite {s0 : State} {st : Nat} {s : State} (h : Kept s0 s) :
    KeptX s0 (execIrisStatsWrite st s) := by
  unfold execIrisStatsWrite
  repeat' first
    | with_reducible assumption
    | with_reducible exact keptO_none _
    | with_reducible apply keptO_some
    | with_reducible apply keptX_attempt
    | with_reducible apply kept_irisWrite
    | with_reducible apply kept_purgeFrames
    | with_reducible apply kept_putFrame
    | with_reducible apply kept_setStream
    | dsimp only
    | with_reducible apply keptO_ite
    | with_reducible apply kept_ite
    | with_reducible apply kept_ite_fst
    | split

theorem kept_execIrsBankWrite {s0 : State} {rq : Requester} {st : Nat} {v : B32} {s : State} (h : Kept s0 s) :
    KeptX s0 (execIrsBankWrite rq st v s) := by
  unfold execIrsBankWrite
  repeat' first
    | with_reducible assumption
    | with_reducible exact keptO_none _
    | with_reducible apply keptO_some
    | with_reducible apply keptX_attempt
    | with_reducible apply kept_guardReg
    | with_reducible apply kept_setBit
    | dsimp only
    | with_reducible intro _
    | with_reducible apply keptO_ite

theorem kept_dropPipeFrames {s0 : State} {s : State} {p : Nat} (h : Kept s0 s) :
    Kept s0 (State.dropPipeFrames s p) := by
  unfold State.dropPipeFrames
  repeat' first
    | with_reducible assumption
    | with_reducible rfl
    | with_reducible apply kept_onFrame
    | with_reducible apply kept_setGroup
    | with_reducible apply kept_dropFrames
    | dsimp only
    | with_reducible intro _
    | with_reducible apply kept_foldl
    | with_reducible apply kept_foldl_fst
    | split
    | with_reducible exact shrinks_refl
    | with_reducible exact keepWf_refl
    | with_reducible exact keepWf_filter
    | with_reducible exact shrinks_filter
    | with_reducible exact shrinks_nil
    | exact keepWf_refl
    | exact shrinks_refl
    | with_reducible exact shrinks_tail (by assumption)
    | with_reducible refine kept_mk rfl ?_ ?_ ?_ ?_ ?_ ?_ ?_ ?_ ?_ ?_ ?_

theorem kept_movePipe {s0 : State} {s : State} {p : Nat} {q : Nat} (h : Kept s0 s) :
    Kept s0 (State.movePipe s p q) := by
  unfold State.movePipe
  repeat' first
    | with_reducible assumption
    | with_reducible rfl
    | dsimp only
    | with_reducible apply kept_ite
    | with_reducible apply kept_ite_fst
    | with_reducible exact shrinks_refl
    | with_reducible exact keepWf_refl
    | with_reducible exact shrinks_nil
    | exact keepWf_refl
    | exact shrinks_refl
    | with_reducible exact shrinks_tail (by assumption)
    | with_reducible refine kept_mk rfl ?_ ?_ ?_ ?_ ?_ ?_ ?_ ?_ ?_ ?_ ?_

theorem kept_sparePipe {s0 : State} {s : State} {p : Nat} (h : Kept s0 s) :
    Kept s0 (State.sparePipe s p) := by
  unfold State.sparePipe
  repeat' first
    | with_reducible assumption
    | with_reducible rfl
    | with_reducible apply kept_movePipe
    | with_reducible apply kept_exhaust
    | with_reducible apply kept_setFld
    | with_reducible apply kept_fault
    | with_reducible apply kept_raise
    | dsimp only
    | with_reducible apply kept_ite
    | with_reducible apply kept_ite_fst
    | split
    | with_reducible exact shrinks_refl
    | with_reducible exact keepWf_refl
    | with_reducible exact keepWf_filter
    | with_reducible exact shrinks_filter
    | with_reducible exact shrinks_nil
    | exact keepWf_refl
    | exact shrinks_refl
    | with_reducible exact shrinks_tail (by assumption)
    | with_reducible refine kept_mk rfl ?_ ?_ ?_ ?_ ?_ ?_ ?_ ?_ ?_ ?_ ?_

theorem kept_oweUnit {s0 : State} {s : State} {u : UnitDue} (h : Kept s0 s) :
    Kept s0 (State.oweUnit s u) := by
  unfold State.oweUnit
  repeat' first
    | with_reducible assumption
    | with_reducible rfl
    | dsimp only
    | with_reducible exact shrinks_refl
    | with_reducible exact keepWf_refl
    | with_reducible exact shrinks_nil
    | exact keepWf_refl
    | exact shrinks_refl
    | with_reducible exact shrinks_tail (by assumption)
    | with_reducible refine kept_mk rfl ?_ ?_ ?_ ?_ ?_ ?_ ?_ ?_ ?_ ?_ ?_

theorem kept_execPipeSpared {s0 : State} {p : Nat} {s : State} (h : Kept s0 s) :
    KeptX s0 (execPipeSpared p s) := by
  unfold execPipeSpared
  repeat' first
    | with_reducible assumption
    | with_reducible exact keptO_none _
    | with_reducible apply keptO_some
    | with_reducible apply keptX_attempt
    | with_reducible apply kept_oweUnit
    | with_reducible apply kept_sparePipe
    | with_reducible apply kept_dropPipeFrames
    | with_reducible apply kept_setFld
    | dsimp only
    | with_reducible apply keptO_ite
    | with_reducible apply kept_ite

theorem kept_execStreamMoveDone {s0 : State} {p : Nat} {s : State} (h : Kept s0 s) :
    KeptX s0 (execStreamMoveDone p s) := by
  unfold execStreamMoveDone
  repeat' first
    | with_reducible assumption
    | with_reducible rfl
    | with_reducible exact keptO_none _
    | with_reducible apply keptX_attempt
    | with_reducible apply kept_setFld
    | dsimp only
    | with_reducible intro _
    | with_reducible apply keptO_map
    | with_reducible apply keptO_mapOf
    | with_reducible apply keptO_ite
    | with_reducible apply kept_ite
    | with_reducible apply kept_ite_fst
    | with_reducible exact shrinks_refl
    | with_reducible exact keepWf_refl
    | with_reducible exact keepWf_filter
    | with_reducible exact shrinks_filter
    | exact keepWf_refl
    | exact shrinks_refl
    | with_reducible exact shrinks_tail (by assumption)
    | with_reducible refine kept_mk rfl ?_ ?_ ?_ ?_ ?_ ?_ ?_ ?_ ?_ ?_ ?_

theorem kept_stepTime {s0 : State} {s : State} {t : BitVec 88} (h : Kept s0 s) :
    Kept s0 (State.stepTime s t) := by
  unfold State.stepTime
  repeat' first
    | with_reducible assumption
    | with_reducible rfl
    | with_reducible apply kept_onFrame
    | with_reducible apply kept_raise
    | dsimp only
    | with_reducible intro _
    | with_reducible apply kept_foldl
    | with_reducible apply kept_foldl_fst
    | with_reducible exact shrinks_refl
    | with_reducible exact keepWf_refl
    | exact keepWf_refl
    | exact shrinks_refl
    | with_reducible exact shrinks_tail (by assumption)
    | with_reducible refine kept_mk rfl ?_ ?_ ?_ ?_ ?_ ?_ ?_ ?_ ?_ ?_ ?_

theorem kept_execPpsEdge {s0 : State} {s : State} (h : Kept s0 s) :
    KeptX s0 (execPpsEdge s) := by
  unfold execPpsEdge
  repeat' first
    | with_reducible assumption
    | with_reducible rfl
    | with_reducible exact keptO_none _
    | with_reducible apply keptO_some
    | with_reducible apply keptX_attempt
    | with_reducible apply kept_stepTime
    | with_reducible apply kept_setReg64
    | with_reducible apply kept_setBit
    | dsimp only
    | with_reducible apply keptO_ite
    | with_reducible apply kept_ite
    | with_reducible apply kept_ite_fst
    | split
    | with_reducible exact shrinks_refl
    | with_reducible exact keepWf_refl
    | exact keepWf_refl
    | exact shrinks_refl
    | with_reducible exact shrinks_tail (by assumption)
    | with_reducible refine kept_mk rfl ?_ ?_ ?_ ?_ ?_ ?_ ?_ ?_ ?_ ?_ ?_

theorem kept_execOffsetGo {s0 : State} {rq : Requester} {s : State} (h : Kept s0 s) :
    KeptX s0 (execOffsetGo rq s) := by
  unfold execOffsetGo
  repeat' first
    | with_reducible assumption
    | with_reducible exact keptO_none _
    | with_reducible apply keptO_some
    | with_reducible apply keptX_attempt
    | with_reducible apply kept_guardReg
    | with_reducible apply kept_setBit
    | dsimp only
    | with_reducible intro _
    | with_reducible apply keptO_ite

theorem kept_takeOffset {s0 : State} {s : State} (h : Kept s0 s) :
    Kept s0 (State.takeOffset s) := by
  unfold State.takeOffset
  repeat' first
    | with_reducible assumption
    | with_reducible apply kept_stepTime
    | with_reducible apply kept_setBit
    | dsimp only
    | with_reducible apply kept_ite

theorem kept_execPpsLost {s0 : State} {s : State} (h : Kept s0 s) :
    KeptX s0 (execPpsLost s) := by
  unfold execPpsLost
  repeat' first
    | with_reducible assumption
    | with_reducible rfl
    | with_reducible exact keptO_none _
    | with_reducible apply keptO_some
    | with_reducible apply keptX_attempt
    | with_reducible apply kept_raise
    | dsimp only
    | with_reducible apply keptO_ite
    | with_reducible apply kept_ite
    | with_reducible apply kept_ite_fst
    | with_reducible exact shrinks_refl
    | with_reducible exact keepWf_refl
    | exact keepWf_refl
    | exact shrinks_refl
    | with_reducible exact shrinks_tail (by assumption)
    | with_reducible refine kept_mk rfl ?_ ?_ ?_ ?_ ?_ ?_ ?_ ?_ ?_ ?_ ?_

theorem kept_driveFsync {s0 : State} {s : State} {k : Nat} {high : Bool} (h : Kept s0 s) :
    Kept s0 (State.driveFsync s k high) := by
  unfold State.driveFsync
  repeat' first
    | with_reducible assumption
    | with_reducible rfl
    | dsimp only
    | with_reducible apply kept_ite
    | with_reducible apply kept_ite_fst
    | with_reducible exact shrinks_refl
    | with_reducible exact keepWf_refl
    | exact keepWf_refl
    | exact shrinks_refl
    | with_reducible exact shrinks_tail (by assumption)
    | with_reducible refine kept_mk rfl ?_ ?_ ?_ ?_ ?_ ?_ ?_ ?_ ?_ ?_ ?_

theorem kept_execFsyncPulse {s0 : State} {k : Nat} {s : State} (h : Kept s0 s) :
    KeptX s0 (execFsyncPulse k s) := by
  unfold execFsyncPulse
  repeat' first
    | with_reducible assumption
    | with_reducible exact keptO_none _
    | with_reducible apply keptO_some
    | with_reducible apply keptX_attempt
    | with_reducible apply kept_driveFsync
    | with_reducible apply kept_setFsync
    | dsimp only
    | with_reducible apply keptO_ite

theorem kept_execFsyncPulseEnd {s0 : State} {k : Nat} {s : State} (h : Kept s0 s) :
    KeptX s0 (execFsyncPulseEnd k s) := by
  unfold execFsyncPulseEnd
  repeat' first
    | with_reducible assumption
    | with_reducible exact keptO_none _
    | with_reducible apply keptO_some
    | with_reducible apply keptX_attempt
    | with_reducible apply kept_driveFsync
    | with_reducible apply kept_setFsync
    | dsimp only
    | with_reducible apply keptO_ite
    | with_reducible apply kept_ite
    | with_reducible apply kept_ite_fst
    | split

/-! ## Video -/

theorem kept_setVctx {s0 : State} {s : State} {x : Nat} {v : Ctx} (h : Kept s0 s) :
    Kept s0 (State.setVctx s x v) := by
  unfold State.setVctx
  repeat' first
    | with_reducible assumption
    | with_reducible rfl
    | dsimp only
    | with_reducible exact shrinks_refl
    | with_reducible exact keepWf_refl
    | exact keepWf_refl
    | exact shrinks_refl
    | with_reducible exact shrinks_tail (by assumption)
    | with_reducible refine kept_mk rfl ?_ ?_ ?_ ?_ ?_ ?_ ?_ ?_ ?_ ?_ ?_

theorem kept_setDecJob {s0 : State} {s : State} {c : Nat} {v : Option DecJob} (h : Kept s0 s) :
    Kept s0 (State.setDecJob s c v) := by
  unfold State.setDecJob
  repeat' first
    | with_reducible assumption
    | with_reducible rfl
    | dsimp only
    | with_reducible exact shrinks_refl
    | with_reducible exact keepWf_refl
    | exact keepWf_refl
    | exact shrinks_refl
    | with_reducible exact shrinks_tail (by assumption)
    | with_reducible refine kept_mk rfl ?_ ?_ ?_ ?_ ?_ ?_ ?_ ?_ ?_ ?_ ?_

theorem kept_setEncJob {s0 : State} {s : State} {c : Nat} {v : Option EncJob} (h : Kept s0 s) :
    Kept s0 (State.setEncJob s c v) := by
  unfold State.setEncJob
  repeat' first
    | with_reducible assumption
    | with_reducible rfl
    | dsimp only
    | with_reducible exact shrinks_refl
    | with_reducible exact keepWf_refl
    | exact keepWf_refl
    | exact shrinks_refl
    | with_reducible exact shrinks_tail (by assumption)
    | with_reducible refine kept_mk rfl ?_ ?_ ?_ ?_ ?_ ?_ ?_ ?_ ?_ ?_ ?_

theorem kept_createCtx {s0 : State} {s : State} {b : List Byte} (h : Kept s0 s) :
    Kept s0 (State.createCtx s b) := by
  unfold State.createCtx
  repeat' first
    | with_reducible assumption
    | with_reducible apply kept_setVctx
    | with_reducible apply kept_memAccess
    | with_reducible apply kept_setIring
    | with_reducible apply kept_setReg

theorem kept_freeCtx {s0 : State} {s : State} {x : Nat} (h : Kept s0 s) :
    Kept s0 (State.freeCtx s x) := by
  unfold State.freeCtx
  repeat' first
    | with_reducible assumption
    | with_reducible apply kept_setVctx
    | with_reducible apply kept_setReg

theorem kept_setCtxState {s0 : State} {s : State} {x : Nat} {st : Nat} (h : Kept s0 s) :
    Kept s0 (State.setCtxState s x st) := by
  unfold State.setCtxState
  repeat' first
    | with_reducible assumption
    | with_reducible apply kept_setFld

theorem kept_completeUnit {s0 : State} {s : State} {u : AuUnit} {status : Nat} {noOut : Bool} (h : Kept s0 s) :
    Kept s0 (State.completeUnit s u status noOut) := by
  unfold State.completeUnit
  repeat' first
    | with_reducible assumption
    | with_reducible apply kept_dueEntry
    | with_reducible apply kept_addSat
    | dsimp only
    | split

theorem kept_ctxNext {s0 : State} {s : State} {x : Nat} (h : Kept s0 s) :
    Kept s0 (State.ctxNext s x) := by
  unfold State.ctxNext
  repeat' first
    | with_reducible assumption
    | with_reducible apply kept_irNext
    | dsimp only
    | split

theorem kept_setBudget {s0 : State} {s : State} {x : Nat} {mult : Nat} (h : Kept s0 s) :
    Kept s0 (State.setBudget s x mult) := by
  unfold State.setBudget
  repeat' first
    | with_reducible assumption
    | with_reducible apply kept_setReg

theorem kept_activate {s0 : State} {s : State} {x : Nat} {d : CtxDesc} {q : VideoSeq} (h : Kept s0 s) :
    Kept s0 (State.activate s x d q) := by
  unfold State.activate
  repeat' first
    | with_reducible assumption
    | with_reducible apply kept_setBudget
    | with_reducible apply kept_setCtxState
    | with_reducible apply kept_setVctx
    | with_reducible apply kept_setBit
    | with_reducible apply kept_setReg

theorem kept_settleCtx {s0 : State} {s : State} {x : Nat} (h : Kept s0 s) :
    Kept s0 (State.settleCtx s x) := by
  unfold State.settleCtx
  repeat' first
    | with_reducible assumption
    | with_reducible apply kept_freeCtx
    | dsimp only
    | with_reducible apply kept_ite

theorem kept_setUnit {s0 : State} {s : State} {x : Nat} {new : Option AuUnit} (h : Kept s0 s) :
    Kept s0 (State.setUnit s x new) := by
  unfold State.setUnit
  repeat' first
    | with_reducible assumption
    | with_reducible rfl
    | dsimp only
    | with_reducible exact shrinks_refl
    | with_reducible exact keepWf_refl
    | exact keepWf_refl
    | exact shrinks_refl
    | with_reducible exact shrinks_tail (by assumption)
    | with_reducible refine kept_mk rfl ?_ ?_ ?_ ?_ ?_ ?_ ?_ ?_ ?_ ?_ ?_

theorem kept_unitStatus {s0 : State} {s : State} {u : AuUnit} {status : Nat} {noOut : Bool} (h : Kept s0 s) :
    Kept s0 (State.unitStatus s u status noOut) := by
  unfold State.unitStatus
  repeat' first
    | with_reducible assumption
    | with_reducible apply kept_completeUnit
    | dsimp only
    | with_reducible apply kept_ite

theorem kept_unitSample {s0 : State} {s : State} {u : AuUnit} {f : DecFrame} (h : Kept s0 s) :
    Kept s0 (State.unitSample s u f) := by
  unfold State.unitSample
  repeat' first
    | with_reducible assumption
    | with_reducible rfl
    | with_reducible apply kept_addWrap
    | dsimp only
    | with_reducible apply kept_ite
    | with_reducible apply kept_ite_fst
    | with_reducible exact shrinks_refl
    | with_reducible exact keepWf_refl
    | with_reducible exact shrinks_nil
    | exact keepWf_refl
    | exact shrinks_refl
    | with_reducible exact shrinks_tail (by assumption)
    | with_reducible refine kept_mk rfl ?_ ?_ ?_ ?_ ?_ ?_ ?_ ?_ ?_ ?_ ?_

theorem kept_finishUnit {s0 : State} {s : State} {u : AuUnit} (h : Kept s0 s) :
    Kept s0 (State.finishUnit s u) := by
  unfold State.finishUnit
  repeat' first
    | with_reducible assumption
    | with_reducible apply kept_unitSample
    | with_reducible apply kept_unitStatus
    | dsimp only
    | with_reducible apply kept_ite
    | with_reducible apply kept_ite_fst
    | split

theorem kept_readyUnit {s0 : State} {s : State} {u : AuUnit} {au : AuSyntax} (h : Kept s0 s) :
    Kept s0 (State.readyUnit s u au) := by
  unfold State.readyUnit
  repeat' first
    | with_reducible assumption
    | with_reducible apply kept_finishUnit
    | with_reducible apply kept_setUnit
    | with_reducible apply kept_ctxNext
    | dsimp only
    | with_reducible apply kept_ite

theorem kept_refuseUnit {s0 : State} {s : State} {u : AuUnit} {status : Nat} (h : Kept s0 s) :
    Kept s0 (State.refuseUnit s u status) := by
  unfold State.refuseUnit
  repeat' first
    | with_reducible assumption
    | with_reducible apply kept_unitStatus
    | with_reducible apply kept_setUnit
    | with_reducible apply kept_ctxNext

theorem kept_rejectSeq {s0 : State} {s : State} {u : AuUnit} {d : CtxDesc} {f : Nat × Nat} (h : Kept s0 s) :
    Kept s0 (State.rejectSeq s u d f) := by
  unfold State.rejectSeq
  repeat' first
    | with_reducible assumption
    | with_reducible apply kept_refuseUnit
    | with_reducible apply kept_setCtxState
    | with_reducible apply kept_setVctx
    | with_reducible apply kept_raise

theorem kept_parseUnit {s0 : State} {s : State} {u : AuUnit} {d : CtxDesc} {au : AuSyntax} (h : Kept s0 s) :
    Kept s0 (State.parseUnit s u d au) := by
  unfold State.parseUnit
  repeat' first
    | with_reducible assumption
    | with_reducible apply kept_rejectSeq
    | with_reducible apply kept_refuseUnit
    | with_reducible apply kept_readyUnit
    | with_reducible apply kept_activate
    | with_reducible apply kept_setVctx
    | dsimp only
    | with_reducible apply kept_ite
    | with_reducible apply kept_ite_fst
    | split

theorem kept_execAccessUnitReceive {s0 : State} {x : Nat} {au : AuSyntax} {s : State} (h : Kept s0 s) :
    KeptX s0 (execAccessUnitReceive x au s) := by
  unfold execAccessUnitReceive
  repeat' first
    | with_reducible assumption
    | with_reducible exact keptO_none _
    | with_reducible apply keptO_some
    | with_reducible apply keptX_attempt
    | with_reducible apply kept_parseUnit
    | with_reducible apply kept_refuseUnit
    | with_reducible apply kept_readyUnit
    | with_reducible apply kept_activate
    | dsimp only
    | with_reducible apply keptO_ite
    | with_reducible apply kept_ite
    | with_reducible apply kept_ite_fst
    | split

theorem kept_holdCore {s0 : State} {s : State} {c : Nat} {job : Option DecJob} {x : Nat} (h : Kept s0 s) :
    Kept s0 (State.holdCore s c job x) := by
  unfold State.holdCore
  repeat' first
    | with_reducible assumption
    | with_reducible apply kept_setDecJob
    | with_reducible apply kept_setBit
    | with_reducible apply kept_setFld

theorem kept_execDecodeFrameStart {s0 : State} {c : Nat} {s : State} (h : Kept s0 s) :
    KeptX s0 (execDecodeFrameStart c s) := by
  unfold execDecodeFrameStart
  repeat' first
    | with_reducible assumption
    | with_reducible rfl
    | with_reducible exact keptO_none _
    | with_reducible apply keptO_some
    | with_reducible apply keptX_attempt
    | with_reducible apply kept_holdCore
    | with_reducible apply kept_setUnit
    | with_reducible apply kept_ctxNext
    | with_reducible apply kept_setVctx
    | dsimp only
    | with_reducible apply keptO_ite
    | with_reducible apply kept_ite
    | with_reducible apply kept_ite_fst
    | split
    | with_reducible exact shrinks_refl
    | with_reducible exact keepWf_refl
    | exact keepWf_refl
    | exact shrinks_refl
    | with_reducible exact shrinks_tail (by assumption)
    | with_reducible refine kept_mk rfl ?_ ?_ ?_ ?_ ?_ ?_ ?_ ?_ ?_ ?_ ?_

theorem kept_readRefs {s0 : State} {s : State} {c : Nat} {a2 : List DecFrame} (h : Kept s0 s) :
    Kept s0 (State.readRefs s c a2).1 := by
  induction a2 generalizing s c with
  | nil =>
    unfold State.readRefs
    repeat' first
      | with_reducible assumption
  | cons x l ih =>
    unfold State.readRefs
    repeat' first
      | with_reducible apply ih
      | with_reducible assumption
      | with_reducible apply kept_memAccess
      | dsimp only
      | with_reducible intro _
      | with_reducible apply kept_ite
      | with_reducible apply kept_ite_fst

theorem kept_storeFrame {s0 : State} {s : State} {c : Nat} {j : DecJob} {w : Nat} {h0 : Nat} {refs : List (List Byte)} (h : Kept s0 s) :
    Kept s0 (State.storeFrame s c j w h0 refs).1 := by
  unfold State.storeFrame
  repeat' first
    | with_reducible assumption
    | with_reducible apply kept_memAccess
    | dsimp only
    | split

theorem kept_endFrame {s0 : State} {s : State} {c : Nat} {j : DecJob} {kept : List Nat} {f : DecFrame} (h : Kept s0 s) :
    Kept s0 (State.endFrame s c j kept f) := by
  unfold State.endFrame
  repeat' first
    | with_reducible assumption
    | with_reducible apply kept_holdCore
    | with_reducible apply kept_setVctx
    | with_reducible apply kept_setBit

theorem kept_afterFrame {s0 : State} {s : State} {u : AuUnit} (h : Kept s0 s) :
    Kept s0 (State.afterFrame s u) := by
  unfold State.afterFrame
  repeat' first
    | with_reducible assumption
    | with_reducible rfl
    | with_reducible apply kept_finishUnit
    | with_reducible apply kept_unitStatus
    | with_reducible apply kept_settleCtx
    | dsimp only
    | with_reducible apply kept_ite
    | with_reducible apply kept_ite_fst
    | with_reducible exact shrinks_refl
    | with_reducible exact keepWf_refl
    | with_reducible exact shrinks_nil
    | exact keepWf_refl
    | exact shrinks_refl
    | with_reducible exact shrinks_tail (by assumption)
    | with_reducible refine kept_mk rfl ?_ ?_ ?_ ?_ ?_ ?_ ?_ ?_ ?_ ?_ ?_

theorem kept_endTainted {s0 : State} {s : State} {c : Nat} {j : DecJob} {kept : List Nat} {f : DecFrame} {status : Nat} (h : Kept s0 s) :
    Kept s0 (State.endTainted s c j kept f status) := by
  unfold State.endTainted
  repeat' first
    | with_reducible assumption
    | with_reducible apply kept_afterFrame
    | with_reducible apply kept_endFrame
    | with_reducible apply kept_unitStatus

theorem kept_endClean {s0 : State} {s : State} {c : Nat} {j : DecJob} {d : CtxDesc} {out : FrameOutcome} {avg : Nat} {f : DecFrame} (h : Kept s0 s) :
    Kept s0 (State.endClean s c j d out avg f) := by
  unfold State.endClean
  repeat' first
    | with_reducible assumption
    | with_reducible apply kept_afterFrame
    | with_reducible apply kept_endFrame
    | with_reducible apply kept_unitSample
    | with_reducible apply kept_setBudget
    | with_reducible apply kept_setReg
    | dsimp only
    | with_reducible apply kept_ite

theorem kept_execDecodeFrameComplete {s0 : State} {c : Nat} {out : FrameOutcome} {s : State} (h : Kept s0 s) :
    KeptX s0 (execDecodeFrameComplete c out s) := by
  unfold execDecodeFrameComplete
  repeat' first
    | with_reducible assumption
    | with_reducible exact keptO_none _
    | with_reducible apply keptO_some
    | with_reducible apply keptX_attempt
    | with_reducible apply kept_endClean
    | with_reducible apply kept_endTainted
    | with_reducible apply kept_storeFrame
    | with_reducible apply kept_readRefs
    | with_reducible apply kept_add64
    | dsimp only
    | with_reducible apply keptO_ite
    | with_reducible apply kept_ite
    | with_reducible apply kept_ite_fst
    | split

theorem kept_execDecodeBudgetExpire {s0 : State} {c : Nat} {s : State} (h : Kept s0 s) :
    KeptX s0 (execDecodeBudgetExpire c s) := by
  unfold execDecodeBudgetExpire
  repeat' first
    | with_reducible assumption
    | with_reducible exact keptO_none _
    | with_reducible apply keptO_some
    | with_reducible apply keptX_attempt
    | with_reducible apply kept_endTainted
    | with_reducible apply kept_storeFrame
    | dsimp only
    | with_reducible apply keptO_ite
    | with_reducible apply kept_ite
    | with_reducible apply kept_ite_fst
    | split

theorem kept_spareDec {s0 : State} {s : State} {c : Nat} (h : Kept s0 s) :
    Kept s0 (State.spareDec s c) := by
  unfold State.spareDec
  repeat' first
    | with_reducible assumption
    | with_reducible apply kept_exhaust
    | with_reducible apply kept_setFld
    | with_reducible apply kept_fault
    | with_reducible apply kept_raise
    | dsimp only
    | with_reducible apply kept_ite

theorem kept_requeueDec {s0 : State} {s : State} {c : Nat} (h : Kept s0 s) :
    Kept s0 (State.requeueDec s c) := by
  unfold State.requeueDec
  repeat' first
    | with_reducible assumption
    | with_reducible rfl
    | with_reducible apply kept_holdCore
    | with_reducible apply kept_setVctx
    | dsimp only
    | split
    | with_reducible exact shrinks_refl
    | with_reducible exact keepWf_refl
    | with_reducible exact shrinks_nil
    | exact keepWf_refl
    | exact shrinks_refl
    | with_reducible exact shrinks_tail (by assumption)
    | with_reducible refine kept_mk rfl ?_ ?_ ?_ ?_ ?_ ?_ ?_ ?_ ?_ ?_ ?_

theorem kept_execDecSpared {s0 : State} {c : Nat} {s : State} (h : Kept s0 s) :
    KeptX s0 (execDecSpared c s) := by
  unfold execDecSpared
  repeat' first
    | with_reducible assumption
    | with_reducible exact keptO_none _
    | with_reducible apply keptO_some
    | with_reducible apply keptX_attempt
    | with_reducible apply kept_requeueDec
    | with_reducible apply kept_spareDec
    | with_reducible apply kept_oweUnit
    | dsimp only
    | with_reducible apply keptO_ite
    | with_reducible apply kept_ite

theorem kept_readFrame {s0 : State} {s : State} {f : DecFrame} (h : Kept s0 s) :
    Kept s0 (State.readFrame s f).1 := by
  unfold State.readFrame
  repeat' first
    | with_reducible assumption
    | with_reducible apply kept_memAccess

theorem kept_scaled {s0 : State} {s : State} {d : CtxDesc} {e : Emitted} {o : Nat} {k : Nat} {addr : Nat} {size : Nat} (h : Kept s0 s) :
    Kept s0 (State.scaled s d e o k addr size) := by
  unfold State.scaled
  repeat' first
    | with_reducible assumption
    | with_reducible apply kept_setVctx
    | with_reducible apply kept_offer
    | with_reducible apply kept_setIring
    | split

theorem kept_scaleOut {s0 : State} {s : State} {d : CtxDesc} {e : Emitted} {o : Nat} {r : BitVec 512} (h : Kept s0 s) :
    Kept s0 (State.scaleOut s d e o r) := by
  unfold State.scaleOut
  repeat' first
    | with_reducible assumption
    | with_reducible apply kept_scaled
    | with_reducible apply kept_readFrame
    | with_reducible apply kept_memAccess
    | with_reducible apply kept_addSat
    | dsimp only
    | with_reducible apply kept_ite
    | with_reducible apply kept_ite_fst
    | split

theorem kept_scaleDone {s0 : State} {s : State} {e : Emitted} {es : List Emitted} (h : Kept s0 s) :
    Kept s0 (State.scaleDone s e es) := by
  unfold State.scaleDone
  repeat' first
    | with_reducible assumption
    | with_reducible rfl
    | with_reducible apply kept_settleCtx
    | with_reducible apply kept_setIring
    | dsimp only
    | split
    | with_reducible exact shrinks_refl
    | with_reducible exact keepWf_refl
    | exact keepWf_refl
    | exact shrinks_refl
    | with_reducible exact shrinks_tail (by assumption)
    | with_reducible refine kept_mk rfl ?_ ?_ ?_ ?_ ?_ ?_ ?_ ?_ ?_ ?_ ?_

theorem kept_execScalerOutputWrite {s0 : State} {s : State} (h : Kept s0 s) :
    KeptX s0 (execScalerOutputWrite s) := by
  unfold execScalerOutputWrite
  repeat' first
    | with_reducible assumption
    | with_reducible rfl
    | with_reducible exact keptO_none _
    | with_reducible apply keptO_some
    | with_reducible apply keptX_attempt
    | with_reducible apply kept_scaleDone
    | with_reducible apply kept_scaleOut
    | dsimp only
    | with_reducible apply keptO_ite
    | with_reducible apply kept_ite
    | with_reducible apply kept_ite_fst
    | split
    | with_reducible exact shrinks_refl
    | with_reducible exact keepWf_refl
    | with_reducible exact shrinks_nil
    | exact keepWf_refl
    | exact shrinks_refl
    | with_reducible exact shrinks_tail (by assumption)
    | with_reducible refine kept_mk rfl ?_ ?_ ?_ ?_ ?_ ?_ ?_ ?_ ?_ ?_ ?_

theorem kept_execEncodeFrameStart {s0 : State} {e : Nat} {s : State} (h : Kept s0 s) :
    KeptX s0 (execEncodeFrameStart e s) := by
  unfold execEncodeFrameStart
  repeat' first
    | with_reducible assumption
    | with_reducible rfl
    | with_reducible exact keptO_none _
    | with_reducible apply keptO_some
    | with_reducible apply keptX_attempt
    | with_reducible apply kept_setEncJob
    | with_reducible apply kept_addSat
    | with_reducible apply kept_setBit
    | with_reducible apply kept_setFld
    | dsimp only
    | with_reducible apply keptO_ite
    | with_reducible apply kept_ite
    | with_reducible apply kept_ite_fst
    | split
    | with_reducible exact shrinks_refl
    | with_reducible exact keepWf_refl
    | exact keepWf_refl
    | exact shrinks_refl
    | with_reducible exact shrinks_tail (by assumption)
    | with_reducible refine kept_mk rfl ?_ ?_ ?_ ?_ ?_ ?_ ?_ ?_ ?_ ?_ ?_

theorem kept_writePacket {s0 : State} {s : State} {c : Nat} {r : EncRec} {j : EncJob} {pay : List Byte} (h : Kept s0 s) :
    Kept s0 (State.writePacket s c r j pay) := by
  unfold State.writePacket
  repeat' first
    | with_reducible assumption
    | with_reducible apply kept_memAccess
    | with_reducible apply kept_addWrap
    | with_reducible apply kept_setReg
    | dsimp only
    | with_reducible apply kept_ite

theorem kept_freeEnc {s0 : State} {s : State} {c : Nat} (h : Kept s0 s) :
    Kept s0 (State.freeEnc s c) := by
  unfold State.freeEnc
  repeat' first
    | with_reducible assumption
    | with_reducible apply kept_setEncJob
    | with_reducible apply kept_setBit
    | with_reducible apply kept_setFld

theorem kept_encodeFrame {s0 : State} {s : State} {c : Nat} {r : EncRec} {j : EncJob} {frame : List Byte} (h : Kept s0 s) :
    Kept s0 (State.encodeFrame s c r j frame) := by
  unfold State.encodeFrame
  repeat' first
    | with_reducible assumption
    | with_reducible rfl
    | with_reducible apply kept_freeEnc
    | with_reducible apply kept_writePacket
    | with_reducible apply kept_add64
    | dsimp only
    | with_reducible apply kept_ite
    | with_reducible apply kept_ite_fst
    | with_reducible exact shrinks_refl
    | with_reducible exact keepWf_refl
    | exact keepWf_refl
    | exact shrinks_refl
    | with_reducible exact shrinks_tail (by assumption)
    | with_reducible refine kept_mk rfl ?_ ?_ ?_ ?_ ?_ ?_ ?_ ?_ ?_ ?_ ?_

theorem kept_execEncodeFrameDone {s0 : State} {c : Nat} {s : State} (h : Kept s0 s) :
    KeptX s0 (execEncodeFrameDone c s) := by
  unfold execEncodeFrameDone
  repeat' first
    | with_reducible assumption
    | with_reducible exact keptO_none _
    | with_reducible apply keptO_some
    | with_reducible apply keptX_attempt
    | with_reducible apply kept_encodeFrame
    | with_reducible apply kept_freeEnc
    | with_reducible apply kept_memAccess
    | with_reducible apply kept_addSat
    | dsimp only
    | with_reducible apply keptO_ite
    | with_reducible apply kept_ite
    | with_reducible apply kept_ite_fst
    | split

theorem kept_spareEnc {s0 : State} {s : State} {c : Nat} (h : Kept s0 s) :
    Kept s0 (State.spareEnc s c) := by
  unfold State.spareEnc
  repeat' first
    | with_reducible assumption
    | with_reducible apply kept_exhaust
    | with_reducible apply kept_setFld
    | with_reducible apply kept_fault
    | with_reducible apply kept_raise
    | dsimp only
    | with_reducible apply kept_ite

theorem kept_requeueEnc {s0 : State} {s : State} {c : Nat} (h : Kept s0 s) :
    Kept s0 (State.requeueEnc s c) := by
  unfold State.requeueEnc
  repeat' first
    | with_reducible assumption
    | with_reducible rfl
    | with_reducible apply kept_freeEnc
    | dsimp only
    | split
    | with_reducible exact shrinks_refl
    | with_reducible exact keepWf_refl
    | with_reducible exact shrinks_nil
    | exact keepWf_refl
    | exact shrinks_refl
    | with_reducible exact shrinks_tail (by assumption)
    | with_reducible refine kept_mk rfl ?_ ?_ ?_ ?_ ?_ ?_ ?_ ?_ ?_ ?_ ?_

theorem kept_execEncSpared {s0 : State} {c : Nat} {s : State} (h : Kept s0 s) :
    KeptX s0 (execEncSpared c s) := by
  unfold execEncSpared
  repeat' first
    | with_reducible assumption
    | with_reducible exact keptO_none _
    | with_reducible apply keptO_some
    | with_reducible apply keptX_attempt
    | with_reducible apply kept_requeueEnc
    | with_reducible apply kept_spareEnc
    | with_reducible apply kept_oweUnit
    | dsimp only
    | with_reducible apply keptO_ite
    | with_reducible apply kept_ite

theorem kept_execEncRdWrite {s0 : State} {rq : Requester} {e : Nat} {v : B32} {s : State} (h : Kept s0 s) :
    KeptX s0 (execEncRdWrite rq e v s) := by
  unfold execEncRdWrite
  repeat' first
    | with_reducible assumption
    | with_reducible exact keptO_none _
    | with_reducible apply keptO_some
    | with_reducible apply keptX_attempt
    | with_reducible apply kept_guardReg
    | with_reducible apply kept_setReg
    | dsimp only
    | with_reducible intro _
    | with_reducible apply keptO_ite
    | with_reducible apply kept_ite
    | with_reducible apply kept_ite_fst
    | split

/-! ## Dma -/

theorem kept_setDesc {s0 : State} {s : State} {t : Nat} {d : DmaDesc} (h : Kept s0 s) :
    Kept s0 (State.setDesc s t d) := by
  unfold State.setDesc
  repeat' first
    | with_reducible assumption
    | with_reducible apply kept_setTile

theorem kept_dropDesc {s0 : State} {s : State} {t : Nat} {st : StepRef} (h : Kept s0 s) :
    Kept s0 (State.dropDesc s t st) := by
  unfold State.dropDesc
  repeat' first
    | with_reducible assumption
    | with_reducible apply kept_setTile

theorem kept_dmaStart {s0 : State} {s : State} {st : StepRef} (h : Kept s0 s) :
    KeptO s0 (State.dmaStart s st) := by
  unfold State.dmaStart
  repeat' first
    | with_reducible assumption
    | with_reducible exact keptO_none _
    | with_reducible apply keptO_some
    | with_reducible apply kept_markCold
    | with_reducible apply kept_abortStep
    | with_reducible apply kept_finishStep
    | with_reducible apply kept_beginStep
    | with_reducible apply kept_setTile
    | with_reducible apply kept_setReg
    | dsimp only
    | with_reducible apply keptO_ite
    | with_reducible apply kept_ite
    | with_reducible apply kept_ite_fst
    | split

theorem kept_execDmaDescriptorStart {s0 : State} {x : StepCmd} {s : State} (h : Kept s0 s) :
    KeptX s0 (execDmaDescriptorStart x s) := by
  unfold execDmaDescriptorStart
  repeat' first
    | with_reducible assumption
    | with_reducible apply keptX_attempt
    | with_reducible apply kept_dmaStart
    | with_reducible refine KeptO.out (kept_dmaStart ?_) _ (by with_reducible assumption)
    | with_reducible apply kept_readDesc

theorem kept_noteCkpt {s0 : State} {s : State} {e : B32} (h : Kept s0 s) :
    Kept s0 (State.noteCkpt s e) := by
  unfold State.noteCkpt
  repeat' first
    | with_reducible assumption
    | with_reducible apply kept_setEpoch
    | dsimp only
    | split

theorem kept_sendCheckpoint {s0 : State} {s : State} {t : Nat} {st : StepRef} {crc : B64} (h : Kept s0 s) :
    Kept s0 (State.sendCheckpoint s t st crc) := by
  unfold State.sendCheckpoint
  repeat' first
    | with_reducible assumption
    | with_reducible rfl
    | with_reducible apply kept_noteCkpt
    | with_reducible apply kept_sendMsg
    | with_reducible apply kept_setReg64
    | with_reducible apply kept_addWrap
    | dsimp only
    | with_reducible apply kept_ite
    | with_reducible apply kept_ite_fst
    | split
    | with_reducible exact shrinks_refl
    | with_reducible exact keepWf_refl
    | with_reducible exact shrinks_nil
    | exact keepWf_refl
    | exact shrinks_refl
    | with_reducible exact shrinks_tail (by assumption)
    | with_reducible refine kept_mk rfl ?_ ?_ ?_ ?_ ?_ ?_ ?_ ?_ ?_ ?_ ?_

theorem kept_launch {s0 : State} {s : State} {t : Nat} {d : DmaDesc} {x : Xfer} (h : Kept s0 s) :
    Kept s0 (State.launch s t d x) := by
  unfold State.launch
  repeat' first
    | with_reducible assumption
    | with_reducible apply kept_sendMsg
    | with_reducible apply kept_setTile
    | dsimp only
    | with_reducible apply kept_ite

theorem kept_execDmaTransferIssue {s0 : State} {t : Nat} {q : Nat} {s : State} (h : Kept s0 s) :
    KeptX s0 (execDmaTransferIssue t q s) := by
  unfold execDmaTransferIssue
  repeat' first
    | with_reducible assumption
    | with_reducible exact keptO_none _
    | with_reducible apply keptO_some
    | with_reducible apply keptX_attempt
    | with_reducible apply kept_launch
    | with_reducible apply kept_dropDesc
    | with_reducible apply kept_setDesc
    | with_reducible apply kept_abortStep
    | with_reducible apply kept_inkRead
    | with_reducible apply kept_bankWait
    | dsimp only
    | with_reducible apply keptO_ite
    | with_reducible apply kept_ite
    | with_reducible apply kept_ite_fst
    | split

theorem kept_freeXfer {s0 : State} {s : State} {t : Nat} {x : Xfer} (h : Kept s0 s) :
    Kept s0 (State.freeXfer s t x) := by
  unfold State.freeXfer
  repeat' first
    | with_reducible assumption
    | with_reducible apply kept_tryEnd
    | with_reducible apply kept_setTile

theorem kept_countXfer {s0 : State} {s : State} {t : Nat} {x : Xfer} (h : Kept s0 s) :
    Kept s0 (State.countXfer s t x) := by
  unfold State.countXfer
  repeat' first
    | with_reducible assumption
    | with_reducible apply kept_sendCheckpoint
    | with_reducible apply kept_dropDesc
    | with_reducible apply kept_setDesc
    | with_reducible apply kept_finishStep
    | dsimp only
    | with_reducible apply kept_ite
    | with_reducible apply kept_ite_fst
    | split

theorem kept_failXfer {s0 : State} {s : State} {t : Nat} {x : Xfer} {status : Nat} (h : Kept s0 s) :
    Kept s0 (State.failXfer s t x status) := by
  unfold State.failXfer
  repeat' first
    | with_reducible assumption
    | with_reducible apply kept_freeXfer
    | with_reducible apply kept_dropDesc
    | with_reducible apply kept_abortStep
    | with_reducible apply kept_endCause
    | dsimp only
    | with_reducible apply kept_ite
    | with_reducible apply kept_ite_fst
    | split

theorem kept_landRow {s0 : State} {s : State} {w : Nat} {row : Nat} {x : Xfer} (h : Kept s0 s) :
    Kept s0 (State.landRow s w row x).1 := by
  unfold State.landRow
  repeat' first
    | with_reducible assumption
    | with_reducible apply kept_splitArrive
    | with_reducible apply kept_inkWrite
    | dsimp only
    | with_reducible apply kept_ite
    | with_reducible apply kept_ite_fst
    | split

theorem kept_landXfer {s0 : State} {s : State} {t : Nat} {x : Xfer} (h : Kept s0 s) :
    Kept s0 (State.landXfer s t x) := by
  unfold State.landXfer
  repeat' first
    | with_reducible assumption
    | with_reducible apply kept_landRow
    | with_reducible apply kept_failXfer
    | with_reducible apply kept_countXfer
    | with_reducible apply kept_freeXfer
    | with_reducible apply kept_bankWait
    | dsimp only
    | with_reducible apply kept_ite
    | with_reducible apply kept_ite_fst
    | split

theorem kept_execDmaTransferComplete {s0 : State} {t : Nat} {id : Nat} {s : State} (h : Kept s0 s) :
    KeptX s0 (execDmaTransferComplete t id s) := by
  unfold execDmaTransferComplete
  repeat' first
    | with_reducible assumption
    | with_reducible exact keptO_none _
    | with_reducible apply keptO_some
    | with_reducible apply keptX_attempt
    | with_reducible apply kept_landXfer
    | with_reducible apply kept_failXfer
    | with_reducible apply kept_setTile
    | dsimp only
    | with_reducible apply keptO_ite
    | with_reducible apply kept_ite
    | with_reducible apply kept_ite_fst
    | split

theorem kept_execDmaDelayedInkWrite {s0 : State} {t : Nat} {id : Nat} {s : State} (h : Kept s0 s) :
    KeptX s0 (execDmaDelayedInkWrite t id s) := by
  unfold execDmaDelayedInkWrite
  repeat' first
    | with_reducible assumption
    | with_reducible exact keptO_none _
    | with_reducible apply keptO_some
    | with_reducible apply keptX_attempt
    | with_reducible apply kept_landXfer
    | dsimp only
    | with_reducible apply keptO_ite
    | with_reducible apply kept_ite
    | with_reducible apply kept_ite_fst
    | split

theorem kept_execDmaLimitWrite {s0 : State} {rq : Requester} {t : Nat} {q : Nat} {v : B32} {s : State} (h : Kept s0 s) :
    KeptX s0 (execDmaLimitWrite rq t q v s) := by
  unfold execDmaLimitWrite
  repeat' first
    | with_reducible assumption
    | with_reducible exact keptO_none _
    | with_reducible apply keptO_some
    | with_reducible apply keptX_attempt
    | with_reducible apply kept_guardReg
    | with_reducible apply kept_setReg
    | dsimp only
    | with_reducible intro _
    | with_reducible apply keptO_ite

/-! ## Orrek -/

theorem kept_setLnk {s0 : State} {s : State} {p : Nat} {st : Nat} (h : Kept s0 s) :
    Kept s0 (State.setLnk s p st) := by
  unfold State.setLnk
  repeat' first
    | with_reducible assumption
    | with_reducible apply kept_setPort
    | with_reducible apply kept_setBit
    | with_reducible apply kept_setFld
    | dsimp only
    | with_reducible apply kept_ite

theorem kept_restartPort {s0 : State} {s : State} {p : Nat} (h : Kept s0 s) :
    Kept s0 (State.restartPort s p) := by
  unfold State.restartPort
  repeat' first
    | with_reducible assumption
    | with_reducible apply kept_setPort
    | with_reducible apply kept_setReg
    | dsimp only
    | with_reducible intro _
    | with_reducible apply kept_foldl

theorem kept_homeLost {s0 : State} {s : State} {p : Nat} (h : Kept s0 s) :
    Kept s0 (State.homeLost s p) := by
  unfold State.homeLost
  repeat' first
    | with_reducible assumption
    | with_reducible apply kept_enterAbsent
    | dsimp only
    | with_reducible apply kept_ite

theorem kept_wentDown {s0 : State} {s : State} {p : Nat} {cause : Nat} (h : Kept s0 s) :
    Kept s0 (State.wentDown s p cause) := by
  unfold State.wentDown
  repeat' first
    | with_reducible assumption
    | with_reducible apply kept_homeLost
    | with_reducible apply kept_fault
    | with_reducible apply kept_raise

theorem kept_portDown {s0 : State} {s : State} {p : Nat} {st : Nat} {cause : Nat} (h : Kept s0 s) :
    Kept s0 (State.portDown s p st cause) := by
  unfold State.portDown
  repeat' first
    | with_reducible assumption
    | with_reducible apply kept_wentDown
    | with_reducible apply kept_setLnk
    | with_reducible apply kept_flushPort
    | dsimp only
    | with_reducible apply kept_ite

theorem kept_lnkOff {s0 : State} {s : State} {p : Nat} (h : Kept s0 s) :
    Kept s0 (State.lnkOff s p) := by
  unfold State.lnkOff
  repeat' first
    | with_reducible assumption
    | with_reducible apply kept_wentDown
    | with_reducible apply kept_homeLost
    | with_reducible apply kept_setLnk
    | with_reducible apply kept_flushPort
    | with_reducible apply kept_setPort
    | with_reducible apply kept_ite

theorem kept_execLnkEnable {s0 : State} {rq : Requester} {p : Nat} {on : Bool} {s : State} (h : Kept s0 s) :
    KeptX s0 (execLnkEnable rq p on s) := by
  unfold execLnkEnable
  repeat' first
    | with_reducible assumption
    | with_reducible exact keptO_none _
    | with_reducible apply keptO_some
    | with_reducible apply keptX_attempt
    | with_reducible apply kept_lnkOff
    | with_reducible apply kept_setLnk
    | with_reducible apply kept_guardReg
    | with_reducible apply kept_setBit
    | dsimp only
    | with_reducible intro _
    | with_reducible apply keptO_ite
    | with_reducible apply kept_ite

theorem kept_startRetrain {s0 : State} {s : State} {p : Nat} (h : Kept s0 s) :
    Kept s0 (State.startRetrain s p) := by
  unfold State.startRetrain
  repeat' first
    | with_reducible assumption
    | with_reducible apply kept_setLnk
    | with_reducible apply kept_addSat

theorem kept_execLnkRetrain {s0 : State} {rq : Requester} {p : Nat} {s : State} (h : Kept s0 s) :
    KeptX s0 (execLnkRetrain rq p s) := by
  unfold execLnkRetrain
  repeat' first
    | with_reducible assumption
    | with_reducible exact keptO_none _
    | with_reducible apply keptO_some
    | with_reducible apply keptX_attempt
    | with_reducible apply kept_startRetrain
    | with_reducible apply kept_guardReg
    | with_reducible apply kept_setBit
    | dsimp only
    | with_reducible intro _
    | with_reducible apply keptO_ite
    | with_reducible apply kept_ite

theorem kept_execLinkSignalDetect {s0 : State} {p : Nat} {lanes : Nat} {s : State} (h : Kept s0 s) :
    KeptX s0 (execLinkSignalDetect p lanes s) := by
  unfold execLinkSignalDetect
  repeat' first
    | with_reducible assumption
    | with_reducible exact keptO_none _
    | with_reducible apply keptO_some
    | with_reducible apply keptX_attempt
    | with_reducible apply kept_restartPort
    | with_reducible apply kept_setLnk
    | with_reducible apply kept_addSat
    | dsimp only
    | with_reducible apply keptO_ite

theorem kept_execLaneCheckDone {s0 : State} {p : Nat} {badRx : BitVec 17} {badTx : BitVec 17} {s : State} (h : Kept s0 s) :
    KeptX s0 (execLaneCheckDone p badRx badTx s) := by
  unfold execLaneCheckDone
  repeat' first
    | with_reducible assumption
    | with_reducible exact keptO_none _
    | with_reducible apply keptO_some
    | with_reducible apply keptX_attempt
    | with_reducible apply kept_portDown
    | with_reducible apply kept_setLnk
    | with_reducible apply kept_exhaust
    | with_reducible apply kept_setPort
    | with_reducible apply kept_setBit
    | with_reducible apply kept_fault
    | with_reducible apply kept_setReg
    | with_reducible apply kept_raise
    | dsimp only
    | with_reducible intro _
    | with_reducible apply kept_foldl
    | with_reducible apply kept_foldl_fst
    | with_reducible apply keptO_ite
    | with_reducible apply kept_ite

theorem kept_execAlignDone {s0 : State} {p : Nat} {rtt : BitVec 16} {s : State} (h : Kept s0 s) :
    KeptX s0 (execAlignDone p rtt s) := by
  unfold execAlignDone
  repeat' first
    | with_reducible assumption
    | with_reducible exact keptO_none _
    | with_reducible apply keptO_some
    | with_reducible apply keptX_attempt
    | with_reducible apply kept_setLnk
    | with_reducible apply kept_setPort
    | with_reducible apply kept_setReg
    | dsimp only
    | with_reducible apply keptO_ite

theorem kept_execLinkStateTimeout {s0 : State} {p : Nat} {s : State} (h : Kept s0 s) :
    KeptX s0 (execLinkStateTimeout p s) := by
  unfold execLinkStateTimeout
  repeat' first
    | with_reducible assumption
    | with_reducible exact keptO_none _
    | with_reducible apply keptO_some
    | with_reducible apply keptX_attempt
    | with_reducible apply kept_portDown
    | with_reducible apply kept_setLnk
    | dsimp only
    | with_reducible apply keptO_ite

theorem kept_execParamFlitReceive {s0 : State} {p : Nat} {f : ParamFlit} {s : State} (h : Kept s0 s) :
    KeptX s0 (execParamFlitReceive p f s) := by
  unfold execParamFlitReceive
  repeat' first
    | with_reducible assumption
    | with_reducible exact keptO_none _
    | with_reducible apply keptO_some
    | with_reducible apply keptX_attempt
    | with_reducible apply kept_setLnk
    | with_reducible apply kept_flushPort
    | with_reducible apply kept_setPort
    | with_reducible apply kept_setReg
    | with_reducible apply kept_raise
    | dsimp only
    | with_reducible apply keptO_ite
    | with_reducible apply kept_ite
    | with_reducible apply kept_ite_fst
    | split

theorem kept_execLinkFailedRetry {s0 : State} {p : Nat} {s : State} (h : Kept s0 s) :
    KeptX s0 (execLinkFailedRetry p s) := by
  unfold execLinkFailedRetry
  repeat' first
    | with_reducible assumption
    | with_reducible exact keptO_none _
    | with_reducible apply keptO_some
    | with_reducible apply keptX_attempt
    | with_reducible apply kept_setLnk
    | dsimp only
    | with_reducible apply keptO_ite

theorem kept_execLaneErrorRetrain {s0 : State} {p : Nat} {s : State} (h : Kept s0 s) :
    KeptX s0 (execLaneErrorRetrain p s) := by
  unfold execLaneErrorRetrain
  repeat' first
    | with_reducible assumption
    | with_reducible exact keptO_none _
    | with_reducible apply keptO_some
    | with_reducible apply keptX_attempt
    | with_reducible apply kept_startRetrain
    | dsimp only
    | with_reducible apply keptO_ite

theorem kept_execLinkSignalLost {s0 : State} {p : Nat} {s : State} (h : Kept s0 s) :
    KeptX s0 (execLinkSignalLost p s) := by
  unfold execLinkSignalLost
  repeat' first
    | with_reducible assumption
    | with_reducible exact keptO_none _
    | with_reducible apply keptO_some
    | with_reducible apply keptX_attempt
    | with_reducible apply kept_portDown
    | dsimp only
    | with_reducible apply keptO_ite

theorem kept_sendIdle {s0 : State} {s : State} {p : Nat} (h : Kept s0 s) :
    Kept s0 (State.sendIdle s p) := by
  unfold State.sendIdle
  repeat' first
    | with_reducible assumption
    | with_reducible apply kept_setPort

theorem kept_sendNumbered {s0 : State} {s : State} {p : Nat} {v : Nat} (h : Kept s0 s) :
    Kept s0 (State.sendNumbered s p v) := by
  unfold State.sendNumbered
  repeat' first
    | with_reducible assumption
    | with_reducible apply kept_fill
    | with_reducible apply kept_setPort
    | with_reducible apply kept_add64
    | with_reducible apply kept_addWrap

theorem kept_sendAgain {s0 : State} {s : State} {p : Nat} {f : BitVec 2048} {rest : List (BitVec 2048)} (h : Kept s0 s) :
    Kept s0 (State.sendAgain s p f rest) := by
  unfold State.sendAgain
  repeat' first
    | with_reducible assumption
    | with_reducible apply kept_setPort
    | with_reducible apply kept_addSat

theorem kept_execFlitSend {s0 : State} {p : Nat} {s : State} (h : Kept s0 s) :
    KeptX s0 (execFlitSend p s) := by
  unfold execFlitSend
  repeat' first
    | with_reducible assumption
    | with_reducible exact keptO_none _
    | with_reducible apply keptO_some
    | with_reducible apply keptX_attempt
    | with_reducible apply kept_sendAgain
    | with_reducible apply kept_sendNumbered
    | with_reducible apply kept_sendIdle
    | dsimp only
    | with_reducible apply keptO_ite
    | with_reducible apply kept_ite
    | with_reducible apply kept_ite_fst
    | split

theorem kept_takeControl {s0 : State} {s : State} {p : Nat} {f : BitVec 2048} (h : Kept s0 s) :
    Kept s0 (State.takeControl s p f) := by
  unfold State.takeControl
  repeat' first
    | with_reducible assumption
    | with_reducible apply kept_setPort
    | with_reducible apply kept_setReg
    | dsimp only
    | with_reducible intro _
    | with_reducible apply kept_foldl

theorem kept_discardFlit {s0 : State} {s : State} {p : Nat} {crcBad : Bool} (h : Kept s0 s) :
    Kept s0 (State.discardFlit s p crcBad) := by
  unfold State.discardFlit
  repeat' first
    | with_reducible assumption
    | with_reducible apply kept_setPort
    | dsimp only
    | with_reducible apply kept_ite

theorem kept_execFlitReceive {s0 : State} {p : Nat} {f : BitVec 2048} {s : State} (h : Kept s0 s) :
    KeptX s0 (execFlitReceive p f s) := by
  unfold execFlitReceive
  repeat' first
    | with_reducible assumption
    | with_reducible exact keptO_none _
    | with_reducible apply keptO_some
    | with_reducible apply keptX_attempt
    | with_reducible apply kept_discardFlit
    | with_reducible apply kept_takeControl
    | with_reducible apply kept_forwardAll
    | with_reducible apply kept_setRx
    | with_reducible apply kept_setPort
    | with_reducible apply kept_add64
    | with_reducible apply kept_addSat
    | dsimp only
    | with_reducible apply keptO_ite

theorem kept_takeMsg {s0 : State} {s : State} {p : Nat} {kind : Nat} {m : LnkMsg} (h : Kept s0 s) :
    KeptO s0 (State.takeMsg s p kind m) := by
  unfold State.takeMsg
  repeat' first
    | with_reducible assumption
    | with_reducible exact keptO_none _
    | with_reducible apply keptO_some
    | with_reducible apply kept_forwardAll
    | with_reducible apply kept_setRx
    | dsimp only
    | with_reducible intro _
    | with_reducible apply keptO_map
    | with_reducible apply keptO_mapOf
    | with_reducible apply keptO_ite
    | with_reducible apply kept_ite
    | with_reducible apply kept_ite_fst
    | split

theorem kept_peerWithdraw {s0 : State} {s : State} {pipe : Nat} {n : B32} (h : Kept s0 s) :
    Kept s0 (State.peerWithdraw s pipe n) := by
  unfold State.peerWithdraw
  repeat' first
    | with_reducible assumption
    | with_reducible rfl
    | with_reducible apply kept_endLocal
    | with_reducible apply kept_noteGone
    | dsimp only
    | with_reducible apply kept_ite
    | with_reducible apply kept_ite_fst
    | split
    | with_reducible exact shrinks_refl
    | with_reducible exact keepWf_refl
    | exact keepWf_refl
    | exact shrinks_refl
    | with_reducible exact shrinks_tail (by assumption)
    | with_reducible refine kept_mk rfl ?_ ?_ ?_ ?_ ?_ ?_ ?_ ?_ ?_ ?_ ?_

theorem kept_withdrawUnseen {s0 : State} {s : State} {pipe : Nat} {e : B32} {status : Nat} (h : Kept s0 s) :
    Kept s0 (State.withdrawUnseen s pipe e status) := by
  unfold State.withdrawUnseen
  repeat' first
    | with_reducible assumption
    | with_reducible apply kept_tokenArrive
    | with_reducible apply kept_sendFlow
    | with_reducible apply kept_takeFlight
    | with_reducible apply kept_noteGone
    | dsimp only
    | with_reducible intro _
    | with_reducible apply kept_foldl

theorem kept_hostWithdraw {s0 : State} {s : State} {pipe : Nat} {side : Bool} {e : B32} (h : Kept s0 s) :
    Kept s0 (State.hostWithdraw s pipe side e) := by
  unfold State.hostWithdraw
  repeat' first
    | with_reducible assumption
    | with_reducible rfl
    | with_reducible apply kept_withdrawUnseen
    | with_reducible apply kept_sendWord
    | with_reducible apply kept_openHosted
    | with_reducible apply kept_setEpoch
    | dsimp only
    | with_reducible intro _
    | with_reducible apply kept_foldl
    | with_reducible apply kept_foldl_fst
    | with_reducible apply kept_ite
    | with_reducible apply kept_ite_fst
    | split
    | with_reducible exact shrinks_refl
    | with_reducible exact keepWf_refl
    | with_reducible exact keepWf_filter
    | with_reducible exact shrinks_filter
    | exact keepWf_refl
    | exact shrinks_refl
    | with_reducible exact shrinks_tail (by assumption)
    | with_reducible refine kept_mk rfl ?_ ?_ ?_ ?_ ?_ ?_ ?_ ?_ ?_ ?_ ?_

theorem kept_execLnkFlow {s0 : State} {p : Nat} {m : LnkMsg} {s : State} (h : Kept s0 s) :
    KeptX s0 (execLnkFlow p m s) := by
  unfold execLnkFlow
  repeat' first
    | with_reducible assumption
    | with_reducible apply keptO_some
    | with_reducible apply keptX_attempt
    | with_reducible apply kept_hostWithdraw
    | with_reducible apply kept_peerWithdraw
    | with_reducible apply kept_takeMsg
    | with_reducible refine KeptO.out (kept_takeMsg ?_) _ (by with_reducible assumption)
    | with_reducible apply kept_fly
    | dsimp only
    | with_reducible intro _
    | with_reducible apply keptO_map
    | with_reducible apply keptO_mapOf
    | with_reducible apply keptO_ite
    | with_reducible apply kept_ite
    | with_reducible apply kept_ite_fst
    | split

theorem kept_execLnkRstat {s0 : State} {p : Nat} {m : LnkMsg} {s : State} (h : Kept s0 s) :
    KeptX s0 (execLnkRstat p m s) := by
  unfold execLnkRstat
  repeat' first
    | with_reducible assumption
    | with_reducible rfl
    | with_reducible apply keptX_attempt
    | with_reducible apply kept_takeMsg
    | with_reducible refine KeptO.out (kept_takeMsg ?_) _ (by with_reducible assumption)
    | dsimp only
    | with_reducible intro _
    | with_reducible apply keptO_map
    | with_reducible apply keptO_mapOf
    | split
    | with_reducible exact shrinks_refl
    | with_reducible exact keepWf_refl
    | with_reducible exact shrinks_nil
    | exact keepWf_refl
    | exact shrinks_refl
    | with_reducible exact shrinks_tail (by assumption)
    | with_reducible refine kept_mk rfl ?_ ?_ ?_ ?_ ?_ ?_ ?_ ?_ ?_ ?_ ?_

theorem kept_execLnkCkpt {s0 : State} {p : Nat} {m : LnkMsg} {s : State} (h : Kept s0 s) :
    KeptX s0 (execLnkCkpt p m s) := by
  unfold execLnkCkpt
  repeat' first
    | with_reducible assumption
    | with_reducible rfl
    | with_reducible apply keptX_attempt
    | with_reducible apply kept_takeMsg
    | with_reducible refine KeptO.out (kept_takeMsg ?_) _ (by with_reducible assumption)
    | dsimp only
    | with_reducible intro _
    | with_reducible apply keptO_map
    | with_reducible apply keptO_mapOf
    | with_reducible exact shrinks_refl
    | with_reducible exact keepWf_refl
    | with_reducible exact shrinks_nil
    | exact keepWf_refl
    | exact shrinks_refl
    | with_reducible exact shrinks_tail (by assumption)
    | with_reducible refine kept_mk rfl ?_ ?_ ?_ ?_ ?_ ?_ ?_ ?_ ?_ ?_ ?_

theorem kept_execLnkSource {s0 : State} {p : Nat} {m : LnkMsg} {s : State} (h : Kept s0 s) :
    KeptX s0 (execLnkSource p m s) := by
  unfold execLnkSource
  repeat' first
    | with_reducible assumption
    | with_reducible rfl
    | with_reducible apply keptX_attempt
    | with_reducible apply kept_takeMsg
    | with_reducible refine KeptO.out (kept_takeMsg ?_) _ (by with_reducible assumption)
    | dsimp only
    | with_reducible intro _
    | with_reducible apply keptO_map
    | with_reducible apply keptO_mapOf
    | with_reducible apply keptO_ite
    | with_reducible apply kept_ite
    | with_reducible apply kept_ite_fst
    | with_reducible exact shrinks_refl
    | with_reducible exact keepWf_refl
    | with_reducible exact shrinks_nil
    | exact keepWf_refl
    | exact shrinks_refl
    | with_reducible exact shrinks_tail (by assumption)
    | with_reducible refine kept_mk rfl ?_ ?_ ?_ ?_ ?_ ?_ ?_ ?_ ?_ ?_ ?_

theorem kept_responseIn {s0 : State} {s : State} {m : LnkMsg} (h : Kept s0 s) :
    Kept s0 (State.responseIn s m) := by
  unfold State.responseIn
  repeat' first
    | with_reducible assumption
    | with_reducible apply kept_enterAbsent
    | with_reducible apply kept_takeResponse
    | dsimp only
    | with_reducible apply kept_ite

theorem kept_execLnkRdata {s0 : State} {p : Nat} {m : LnkMsg} {s : State} (h : Kept s0 s) :
    KeptX s0 (execLnkRdata p m s) := by
  unfold execLnkRdata
  repeat' first
    | with_reducible assumption
    | with_reducible apply keptX_attempt
    | with_reducible apply kept_responseIn
    | with_reducible apply kept_takeMsg
    | with_reducible refine KeptO.out (kept_takeMsg ?_) _ (by with_reducible assumption)
    | dsimp only
    | with_reducible intro _
    | with_reducible apply keptO_map

theorem kept_execLnkWack {s0 : State} {p : Nat} {m : LnkMsg} {s : State} (h : Kept s0 s) :
    KeptX s0 (execLnkWack p m s) := by
  unfold execLnkWack
  repeat' first
    | with_reducible assumption
    | with_reducible apply keptX_attempt
    | with_reducible apply kept_responseIn
    | with_reducible apply kept_takeMsg
    | with_reducible refine KeptO.out (kept_takeMsg ?_) _ (by with_reducible assumption)
    | dsimp only
    | with_reducible intro _
    | with_reducible apply keptO_map

/-! ## Epoch -/

theorem kept_execSignalStepStart {s0 : State} {st : StepRef} {s : State} (h : Kept s0 s) :
    KeptX s0 (execSignalStepStart st s) := by
  unfold execSignalStepStart
  repeat' first
    | with_reducible assumption
    | with_reducible exact keptO_none _
    | with_reducible apply keptO_some
    | with_reducible apply keptX_attempt
    | with_reducible apply kept_markCold
    | with_reducible apply kept_finishStep
    | with_reducible apply kept_beginStep
    | dsimp only
    | with_reducible apply keptO_ite
    | with_reducible apply kept_ite
    | with_reducible apply kept_ite_fst
    | split

theorem kept_parityFault {s0 : State} {s : State} {code : Nat} {pipe : Nat} {es : List B32} (h : Kept s0 s) :
    Kept s0 (State.parityFault s code pipe es) := by
  unfold State.parityFault
  repeat' first
    | with_reducible assumption
    | with_reducible apply kept_tryEnd
    | with_reducible apply kept_endCause
    | with_reducible apply kept_fault
    | dsimp only
    | with_reducible intro _
    | with_reducible apply kept_foldl

theorem kept_settleUnit {s0 : State} {s : State} {p : Pipe} {stage : Nat} {side : Bool} (h : Kept s0 s) :
    Kept s0 (State.settleUnit s p stage side) := by
  unfold State.settleUnit
  repeat' first
    | with_reducible assumption
    | with_reducible apply kept_settleTile
    | dsimp only
    | split

theorem kept_checkStaged {s0 : State} {s : State} {e : B32} (h : Kept s0 s) :
    Kept s0 (State.checkStaged s e) := by
  unfold State.checkStaged
  repeat' first
    | with_reducible assumption
    | with_reducible apply kept_setEpoch
    | dsimp only
    | with_reducible apply kept_ite
    | with_reducible apply kept_ite_fst
    | split

theorem kept_execTokenReceive {s0 : State} {w : B64} {par : Parity} {s : State} (h : Kept s0 s) :
    KeptX s0 (execTokenReceive w par s) := by
  unfold execTokenReceive
  repeat' first
    | with_reducible assumption
    | with_reducible exact keptO_none _
    | with_reducible apply keptO_some
    | with_reducible apply keptX_attempt
    | with_reducible apply kept_checkStaged
    | with_reducible apply kept_settleUnit
    | with_reducible apply kept_parityFault
    | with_reducible apply kept_tryEnd
    | with_reducible apply kept_tokenArrive
    | with_reducible apply kept_takeFlight
    | with_reducible apply kept_openHosted
    | dsimp only
    | with_reducible apply keptO_ite
    | with_reducible apply kept_ite
    | with_reducible apply kept_ite_fst
    | split

theorem kept_sourceFreed {s0 : State} {s : State} {pipe : Nat} (h : Kept s0 s) :
    Kept s0 (State.sourceFreed s pipe) := by
  unfold State.sourceFreed
  repeat' first
    | with_reducible assumption
    | with_reducible apply kept_irNext
    | dsimp only
    | with_reducible intro _
    | with_reducible apply kept_foldl
    | with_reducible apply kept_foldl_fst
    | with_reducible apply kept_ite
    | with_reducible apply kept_ite_fst
    | split

theorem kept_execCreditReceive {s0 : State} {w : B64} {par : Parity} {s : State} (h : Kept s0 s) :
    KeptX s0 (execCreditReceive w par s) := by
  unfold execCreditReceive
  repeat' first
    | with_reducible assumption
    | with_reducible exact keptO_none _
    | with_reducible apply keptO_some
    | with_reducible apply keptX_attempt
    | with_reducible apply kept_sourceFreed
    | with_reducible apply kept_parityFault
    | with_reducible apply kept_tryEnd
    | with_reducible apply kept_creditArrive
    | with_reducible apply kept_takeFlight
    | dsimp only
    | with_reducible apply keptO_ite
    | with_reducible apply kept_ite
    | with_reducible apply kept_ite_fst
    | split

theorem kept_stopTile {s0 : State} {s : State} {t : Nat} {stage : Nat} {side : Bool} {e : B32} (h : Kept s0 s) :
    Kept s0 (State.stopTile s t stage side e) := by
  unfold State.stopTile
  repeat' first
    | with_reducible assumption
    | with_reducible apply kept_setTile

theorem kept_withdrawTile {s0 : State} {s : State} {t : Nat} {pipe : Nat} {stage : Nat} {side : Bool} {cold : Bool} {e : B32} (h : Kept s0 s) :
    Kept s0 (State.withdrawTile s t pipe stage side cold e) := by
  unfold State.withdrawTile
  repeat' first
    | with_reducible assumption
    | with_reducible apply kept_stopTile
    | with_reducible apply kept_settleRetire
    | with_reducible apply kept_leaveTile
    | with_reducible apply kept_settleTile
    | with_reducible apply kept_setTile
    | dsimp only
    | with_reducible apply kept_ite

theorem kept_execWithdrawReceive {s0 : State} {stage : Nat} {w : FlowWord} {s : State} (h : Kept s0 s) :
    KeptX s0 (execWithdrawReceive stage w s) := by
  unfold execWithdrawReceive
  repeat' first
    | with_reducible assumption
    | with_reducible exact keptO_none _
    | with_reducible apply keptO_some
    | with_reducible apply keptX_attempt
    | with_reducible apply kept_withdrawTile
    | with_reducible apply kept_parityFault
    | with_reducible apply kept_freeJournal
    | with_reducible apply kept_unwrite
    | with_reducible apply kept_returnEpoch
    | with_reducible apply kept_sendAck
    | with_reducible apply kept_takeFlight
    | with_reducible apply kept_setSpc
    | with_reducible apply kept_setStem
    | dsimp only
    | with_reducible intro _
    | with_reducible apply kept_foldl
    | with_reducible apply kept_foldl_fst
    | with_reducible apply keptO_ite
    | with_reducible apply kept_ite
    | with_reducible apply kept_ite_fst
    | split

theorem kept_failItem {s0 : State} {s : State} {pipe : Nat} {slots : List (Bool × Nat × Nat)} {sm : Sample} {status : Nat} (h : Kept s0 s) :
    Kept s0 (State.failItem s pipe slots sm status) := by
  unfold State.failItem
  repeat' first
    | with_reducible assumption
    | with_reducible apply kept_unfillSlots
    | with_reducible apply kept_dropFrames
    | with_reducible apply kept_dueEntry
    | dsimp only
    | with_reducible apply kept_ite
    | with_reducible apply kept_ite_fst
    | split

theorem kept_gather {s0 : State} {s : State} {t : SrcTok} (h : Kept s0 s) :
    Kept s0 (State.gather s t).1 := by
  unfold State.gather
  repeat' first
    | with_reducible assumption
    | with_reducible apply kept_memAccess
    | dsimp only
    | with_reducible intro _
    | with_reducible apply kept_foldl
    | with_reducible apply kept_foldl_fst
    | with_reducible apply kept_ite
    | with_reducible apply kept_ite_fst

theorem kept_endEarly {s0 : State} {s : State} {pipe : Nat} {e : B32} {peer : Option B32} (h : Kept s0 s) :
    Kept s0 (State.endEarly s pipe e peer) := by
  unfold State.endEarly
  repeat' first
    | with_reducible assumption
    | with_reducible rfl
    | with_reducible apply kept_endLocal
    | dsimp only
    | with_reducible apply kept_ite
    | with_reducible apply kept_ite_fst
    | split
    | with_reducible exact shrinks_refl
    | with_reducible exact keepWf_refl
    | with_reducible exact keepWf_filter
    | with_reducible exact shrinks_filter
    | exact keepWf_refl
    | exact shrinks_refl
    | with_reducible exact shrinks_tail (by assumption)
    | with_reducible refine kept_mk rfl ?_ ?_ ?_ ?_ ?_ ?_ ?_ ?_ ?_ ?_ ?_

theorem kept_admitItem {s0 : State} {s : State} {pipe : Nat} {port : Nat} {t : SrcTok} (h : Kept s0 s) :
    Kept s0 (State.admitItem s pipe port t) := by
  unfold State.admitItem
  repeat' first
    | with_reducible assumption
    | with_reducible rfl
    | with_reducible apply kept_endEarly
    | with_reducible apply kept_sendToken
    | with_reducible apply kept_setFld
    | with_reducible apply kept_setReg
    | dsimp only
    | with_reducible intro _
    | with_reducible apply kept_foldl
    | with_reducible apply kept_foldl_fst
    | with_reducible exact shrinks_refl
    | with_reducible exact keepWf_refl
    | with_reducible exact shrinks_nil
    | exact keepWf_refl
    | exact shrinks_refl
    | with_reducible exact shrinks_tail (by assumption)
    | with_reducible refine kept_mk rfl ?_ ?_ ?_ ?_ ?_ ?_ ?_ ?_ ?_ ?_ ?_

theorem kept_forwardItem {s0 : State} {s : State} {pipe : Nat} {port : Nat} {e : B32} {data : List Byte} (h : Kept s0 s) :
    Kept s0 (State.forwardItem s pipe port e data) := by
  unfold State.forwardItem
  repeat' first
    | with_reducible assumption
    | with_reducible apply kept_sendMsg
    | dsimp only
    | with_reducible intro _
    | with_reducible apply kept_foldl
    | with_reducible apply kept_foldl_fst
    | with_reducible apply kept_ite
    | with_reducible apply kept_ite_fst
    | split

theorem kept_itemBytes {s0 : State} {s : State} {pipe : Nat} {t : SrcTok} (h : Kept s0 s) :
    Kept s0 (State.itemBytes s pipe t).1 := by
  unfold State.itemBytes
  repeat' first
    | with_reducible assumption
    | with_reducible apply kept_memAccess
    | dsimp only
    | with_reducible apply kept_ite
    | with_reducible apply kept_ite_fst
    | split

theorem kept_execEpochAdmit {s0 : State} {pipe : Nat} {s : State} (h : Kept s0 s) :
    KeptX s0 (execEpochAdmit pipe s) := by
  unfold execEpochAdmit
  repeat' first
    | with_reducible assumption
    | with_reducible rfl
    | with_reducible exact keptO_none _
    | with_reducible apply keptO_some
    | with_reducible apply keptX_attempt
    | with_reducible apply kept_itemBytes
    | with_reducible apply kept_forwardItem
    | with_reducible apply kept_admitItem
    | with_reducible apply kept_gather
    | with_reducible apply kept_failItem
    | with_reducible apply kept_writeSlots
    | with_reducible apply kept_fillSlots
    | dsimp only
    | with_reducible apply keptO_ite
    | with_reducible apply kept_ite
    | with_reducible apply kept_ite_fst
    | split
    | with_reducible exact shrinks_refl
    | with_reducible exact keepWf_refl
    | with_reducible exact shrinks_nil
    | exact keepWf_refl
    | exact shrinks_refl
    | with_reducible exact shrinks_tail (by assumption)
    | with_reducible refine kept_mk rfl ?_ ?_ ?_ ?_ ?_ ?_ ?_ ?_ ?_ ?_ ?_

theorem kept_twinSample {s0 : State} {s : State} {kind : SrcKind} {data : List Byte} (h : Kept s0 s) :
    Kept s0 (State.twinSample s kind data).1 := by
  unfold State.twinSample
  repeat' first
    | with_reducible assumption
    | with_reducible rfl
    | dsimp only
    | with_reducible intro _
    | with_reducible apply kept_foldl
    | with_reducible apply kept_foldl_fst
    | split
    | with_reducible exact shrinks_refl
    | with_reducible exact keepWf_refl
    | with_reducible exact shrinks_nil
    | exact keepWf_refl
    | exact shrinks_refl
    | with_reducible exact shrinks_tail (by assumption)
    | with_reducible refine kept_mk rfl ?_ ?_ ?_ ?_ ?_ ?_ ?_ ?_ ?_ ?_ ?_

theorem kept_execSourceReceive {s0 : State} {pipe : Nat} {m : LnkMsg} {s : State} (h : Kept s0 s) :
    KeptX s0 (execSourceReceive pipe m s) := by
  unfold execSourceReceive
  repeat' first
    | with_reducible assumption
    | with_reducible rfl
    | with_reducible exact keptO_none _
    | with_reducible apply keptO_some
    | with_reducible apply keptX_attempt
    | with_reducible apply kept_twinSample
    | with_reducible apply kept_failItem
    | with_reducible apply kept_completeStopped
    | with_reducible apply kept_pushSource
    | with_reducible apply kept_writeSlots
    | with_reducible apply kept_fillSlots
    | dsimp only
    | with_reducible apply keptO_ite
    | with_reducible apply kept_ite
    | with_reducible apply kept_ite_fst
    | split
    | with_reducible exact shrinks_refl
    | with_reducible exact keepWf_refl
    | with_reducible exact shrinks_nil
    | exact keepWf_refl
    | exact shrinks_refl
    | with_reducible exact shrinks_tail (by assumption)
    | with_reducible refine kept_mk rfl ?_ ?_ ?_ ?_ ?_ ?_ ?_ ?_ ?_ ?_ ?_

theorem kept_readSinks {s0 : State} {s : State} {p : Pipe} {pipe : Nat} {e : B32} (h : Kept s0 s) :
    Kept s0 (State.readSinks s p pipe e).1 := by
  unfold State.readSinks
  repeat' first
    | with_reducible assumption
    | with_reducible apply kept_memReads

theorem kept_writeIndex {s0 : State} {s : State} {p : Pipe} (h : Kept s0 s) :
    Kept s0 (State.writeIndex s p) := by
  unfold State.writeIndex
  repeat' first
    | with_reducible assumption
    | with_reducible rfl
    | with_reducible apply kept_memAccess
    | dsimp only
    | with_reducible intro _
    | with_reducible apply kept_foldl
    | with_reducible apply kept_foldl_fst
    | with_reducible exact shrinks_refl
    | with_reducible exact keepWf_refl
    | exact keepWf_refl
    | exact shrinks_refl
    | with_reducible exact shrinks_tail (by assumption)
    | with_reducible refine kept_mk rfl ?_ ?_ ?_ ?_ ?_ ?_ ?_ ?_ ?_ ?_ ?_

theorem kept_releaseRecords {s0 : State} {s : State} {p : Pipe} {pipe : Nat} {e : B32} {sm : Sample} (h : Kept s0 s) :
    Kept s0 (State.releaseRecords s p pipe e sm) := by
  unfold State.releaseRecords
  repeat' first
    | with_reducible assumption
    | with_reducible apply kept_dueEntry
    | with_reducible apply kept_setIring
    | dsimp only
    | with_reducible intro _
    | with_reducible apply kept_foldl
    | with_reducible apply kept_foldl_fst
    | with_reducible apply kept_ite
    | with_reducible apply kept_ite_fst
    | split

theorem kept_freeSinks {s0 : State} {s : State} {p : Pipe} {pipe : Nat} {e : B32} (h : Kept s0 s) :
    Kept s0 (State.freeSinks s p pipe e) := by
  unfold State.freeSinks
  repeat' first
    | with_reducible assumption
    | with_reducible apply kept_returnEpoch
    | dsimp only
    | with_reducible intro _
    | with_reducible apply kept_foldl
    | with_reducible apply kept_foldl_fst
    | with_reducible apply kept_ite
    | with_reducible apply kept_ite_fst
    | split

theorem kept_addCount {s0 : State} {s : State} {c : StagedCount} (h : Kept s0 s) :
    Kept s0 (State.addCount s c) := by
  unfold State.addCount
  repeat' first
    | with_reducible assumption
    | with_reducible apply kept_add64
    | with_reducible apply kept_addWrap
    | with_reducible apply kept_addSat
    | dsimp only
    | split

theorem kept_addStaged {s0 : State} {s : State} {p : Pipe} {pipe : Nat} {r : Epoch} (h : Kept s0 s) :
    Kept s0 (State.addStaged s p pipe r) := by
  unfold State.addStaged
  repeat' first
    | with_reducible assumption
    | with_reducible apply kept_addCount
    | with_reducible apply kept_satCommit
    | dsimp only
    | with_reducible intro _
    | with_reducible apply kept_foldl

theorem kept_setFlags {s0 : State} {s : State} {p : Pipe} {pipe : Nat} {l : List (Bool × Nat)} (h : Kept s0 s) :
    Kept s0 (State.setFlags s p pipe l) := by
  unfold State.setFlags
  repeat' first
    | with_reducible assumption
    | with_reducible apply kept_setTile
    | dsimp only
    | with_reducible intro _
    | with_reducible apply kept_foldl
    | with_reducible apply kept_foldl_fst
    | with_reducible apply kept_ite
    | with_reducible apply kept_ite_fst
    | split

theorem kept_tellCommit {s0 : State} {s : State} {p : Pipe} {pipe : Nat} {e : B32} (h : Kept s0 s) :
    Kept s0 (State.tellCommit s p pipe e) := by
  unfold State.tellCommit
  repeat' first
    | with_reducible assumption
    | with_reducible apply kept_sendCtrl
    | dsimp only
    | with_reducible intro _
    | with_reducible apply kept_foldl

theorem kept_commitEpoch {s0 : State} {s : State} {e : B32} {r : Epoch} (h : Kept s0 s) :
    Kept s0 (State.commitEpoch s e r) := by
  unfold State.commitEpoch
  repeat' first
    | with_reducible assumption
    | with_reducible apply kept_tellCommit
    | with_reducible apply kept_setFlags
    | with_reducible apply kept_addStaged
    | with_reducible apply kept_freeSinks
    | with_reducible apply kept_releaseRecords
    | with_reducible apply kept_writeIndex
    | with_reducible apply kept_commitJournal
    | with_reducible apply kept_settleRetire
    | with_reducible apply kept_leaveTile
    | with_reducible apply kept_settleTile
    | with_reducible apply kept_boundary
    | with_reducible apply kept_dropEpoch
    | with_reducible apply kept_addWrap
    | with_reducible apply kept_setFld
    | dsimp only
    | with_reducible intro _
    | with_reducible apply kept_foldl
    | with_reducible apply kept_foldl_fst
    | with_reducible apply kept_ite

theorem kept_execEpochCommit {s0 : State} {e : B32} {s : State} (h : Kept s0 s) :
    KeptX s0 (execEpochCommit e s) := by
  unfold execEpochCommit
  repeat' first
    | with_reducible assumption
    | with_reducible exact keptO_none _
    | with_reducible apply keptO_some
    | with_reducible apply keptX_attempt
    | with_reducible apply kept_commitEpoch
    | with_reducible apply kept_readSinks
    | with_reducible apply kept_endCause
    | dsimp only
    | with_reducible apply keptO_ite
    | with_reducible apply kept_ite
    | with_reducible apply kept_ite_fst
    | split

theorem kept_hostCommit {s0 : State} {s : State} {pipe : Nat} {e : B32} (h : Kept s0 s) :
    Kept s0 (State.hostCommit s pipe e) := by
  unfold State.hostCommit
  repeat' first
    | with_reducible assumption
    | with_reducible apply kept_setFlags
    | with_reducible apply kept_addStaged
    | with_reducible apply kept_settleRetire
    | with_reducible apply kept_leaveTile
    | with_reducible apply kept_settleTile
    | with_reducible apply kept_boundary
    | with_reducible apply kept_dropEpoch
    | dsimp only
    | with_reducible intro _
    | with_reducible apply kept_foldl
    | with_reducible apply kept_foldl_fst
    | split

theorem kept_countAck {s0 : State} {s : State} {e : B32} {r : Epoch} {key : Bool × Nat} (h : Kept s0 s) :
    Kept s0 (State.countAck s e r key) := by
  unfold State.countAck
  repeat' first
    | with_reducible assumption
    | with_reducible apply kept_tryEnd
    | with_reducible apply kept_setEpoch

theorem kept_hostReport {s0 : State} {s : State} {p : Pipe} {e : B32} {r : Epoch} {f : Flight} (h : Kept s0 s) :
    Kept s0 (State.hostReport s p e r f) := by
  unfold State.hostReport
  repeat' first
    | with_reducible assumption
    | with_reducible apply kept_countAck
    | with_reducible apply kept_sendFlow
    | dsimp only
    | with_reducible apply kept_ite

theorem kept_homeReport {s0 : State} {s : State} {e : B32} {r : Epoch} {f : Flight} (h : Kept s0 s) :
    Kept s0 (State.homeReport s e r f) := by
  unfold State.homeReport
  repeat' first
    | with_reducible assumption
    | with_reducible apply kept_countAck
    | with_reducible apply kept_checkStaged
    | with_reducible apply kept_tryEnd
    | with_reducible apply kept_endCause
    | with_reducible apply kept_setEpoch
    | dsimp only
    | with_reducible apply kept_ite

theorem kept_execReportReceive {s0 : State} {w : FlowWord} {s : State} (h : Kept s0 s) :
    KeptX s0 (execReportReceive w s) := by
  unfold execReportReceive
  repeat' first
    | with_reducible assumption
    | with_reducible exact keptO_none _
    | with_reducible apply keptO_some
    | with_reducible apply keptX_attempt
    | with_reducible apply kept_homeReport
    | with_reducible apply kept_hostReport
    | with_reducible apply kept_parityFault
    | with_reducible apply kept_takeFlight
    | dsimp only
    | with_reducible apply keptO_ite
    | with_reducible apply kept_ite
    | with_reducible apply kept_ite_fst
    | split

theorem kept_execCheckpointReceive {s0 : State} {c : BitVec 128} {s : State} (h : Kept s0 s) :
    KeptX s0 (execCheckpointReceive c s) := by
  unfold execCheckpointReceive
  repeat' first
    | with_reducible assumption
    | with_reducible rfl
    | with_reducible exact keptO_none _
    | with_reducible apply keptO_some
    | with_reducible apply keptX_attempt
    | with_reducible apply kept_setEpoch
    | dsimp only
    | with_reducible apply keptO_ite
    | with_reducible apply kept_ite
    | with_reducible apply kept_ite_fst
    | split
    | with_reducible exact shrinks_refl
    | with_reducible exact keepWf_refl
    | with_reducible exact shrinks_nil
    | exact keepWf_refl
    | exact shrinks_refl
    | with_reducible exact shrinks_tail (by assumption)
    | with_reducible refine kept_mk rfl ?_ ?_ ?_ ?_ ?_ ?_ ?_ ?_ ?_ ?_ ?_

theorem kept_dueTest {s0 : State} {s : State} {t : Nat} (h : Kept s0 s) :
    Kept s0 (State.dueTest s t) := by
  unfold State.dueTest
  repeat' first
    | with_reducible assumption
    | with_reducible apply kept_setCluster
    | dsimp only
    | with_reducible apply kept_ite

theorem kept_twinTold {s0 : State} {s : State} {pipe : Nat} {stage : Nat} {sent : Bool} (h : Kept s0 s) :
    Kept s0 (State.twinTold s pipe stage sent) := by
  unfold State.twinTold
  repeat' first
    | with_reducible assumption
    | with_reducible apply kept_dueTest
    | with_reducible apply kept_addSat
    | dsimp only
    | with_reducible apply kept_ite
    | with_reducible apply kept_ite_fst
    | split

theorem kept_twinFault {s0 : State} {s : State} {pipe : Nat} {e : B32} {stage : Nat} {step : Nat} {timeout : Bool} (h : Kept s0 s) :
    Kept s0 (State.twinFault s pipe e stage step timeout) := by
  unfold State.twinFault
  repeat' first
    | with_reducible assumption
    | with_reducible apply kept_dueTest
    | with_reducible apply kept_endCause
    | with_reducible apply kept_sendCtrl
    | with_reducible apply kept_setEpoch
    | with_reducible apply kept_addSat
    | with_reducible apply kept_fault
    | with_reducible apply kept_raise
    | dsimp only
    | with_reducible intro _
    | with_reducible apply kept_foldl
    | with_reducible apply kept_foldl_fst
    | with_reducible apply kept_ite
    | with_reducible apply kept_ite_fst
    | split

theorem kept_execTwinDecide {s0 : State} {pipe : Nat} {e : B32} {stage : Nat} {step : Nat} {s : State} (h : Kept s0 s) :
    KeptX s0 (execTwinDecide pipe e stage step s) := by
  unfold execTwinDecide
  repeat' first
    | with_reducible assumption
    | with_reducible exact keptO_none _
    | with_reducible apply keptO_some
    | with_reducible apply keptX_attempt
    | with_reducible apply kept_twinFault
    | with_reducible apply kept_setEpoch
    | dsimp only
    | with_reducible apply keptO_ite
    | with_reducible apply kept_ite
    | with_reducible apply kept_ite_fst
    | split

theorem kept_execTwinTimeout {s0 : State} {pipe : Nat} {e : B32} {stage : Nat} {step : Nat} {s : State} (h : Kept s0 s) :
    KeptX s0 (execTwinTimeout pipe e stage step s) := by
  unfold execTwinTimeout
  repeat' first
    | with_reducible assumption
    | with_reducible exact keptO_none _
    | with_reducible apply keptO_some
    | with_reducible apply keptX_attempt
    | with_reducible apply kept_twinFault
    | dsimp only
    | with_reducible apply keptO_ite
    | with_reducible apply kept_ite
    | with_reducible apply kept_ite_fst
    | split

/-! ## Books -/

theorem kept_askFar {s0 : State} {s : State} {c : Nat} {rels : List Rel} (h : Kept s0 s) :
    Kept s0 (State.askFar s c rels) := by
  unfold State.askFar
  repeat' first
    | with_reducible assumption
    | with_reducible apply kept_sendCtrl
    | dsimp only
    | with_reducible intro _
    | with_reducible apply kept_foldl
    | with_reducible apply kept_foldl_fst
    | with_reducible apply kept_ite
    | with_reducible apply kept_ite_fst
    | split

theorem kept_lookAt {s0 : State} {s : State} {c : Nat} {rels : List Rel} (h : Kept s0 s) :
    Kept s0 (State.lookAt s c rels) := by
  unfold State.lookAt
  repeat' first
    | with_reducible assumption
    | with_reducible apply kept_askFar
    | with_reducible apply kept_setCluster

theorem kept_auditPass {s0 : State} {s : State} {c : Nat} (h : Kept s0 s) :
    Kept s0 (State.auditPass s c) := by
  unfold State.auditPass
  repeat' first
    | with_reducible assumption
    | with_reducible apply kept_lookAt
    | with_reducible apply kept_setPipe
    | dsimp only
    | with_reducible intro _
    | with_reducible apply kept_foldl
    | with_reducible apply kept_foldl_fst
    | with_reducible apply kept_ite

theorem kept_execBookAudit {s0 : State} {c : Nat} {s : State} (h : Kept s0 s) :
    KeptX s0 (execBookAudit c s) := by
  unfold execBookAudit
  repeat' first
    | with_reducible assumption
    | with_reducible exact keptO_none _
    | with_reducible apply keptO_some
    | with_reducible apply keptX_attempt
    | with_reducible apply kept_auditPass
    | with_reducible apply kept_setCluster
    | dsimp only
    | with_reducible apply keptO_ite

theorem kept_execBookReread {s0 : State} {c : Nat} {s : State} (h : Kept s0 s) :
    KeptX s0 (execBookReread c s) := by
  unfold execBookReread
  repeat' first
    | with_reducible assumption
    | with_reducible exact keptO_none _
    | with_reducible apply keptO_some
    | with_reducible apply keptX_attempt
    | with_reducible apply kept_lookAt
    | dsimp only
    | with_reducible apply keptO_ite

theorem kept_endAll {s0 : State} {s : State} {es : List B32} (h : Kept s0 s) :
    Kept s0 (State.endAll s es) := by
  unfold State.endAll
  repeat' first
    | with_reducible assumption
    | with_reducible apply kept_endCause
    | with_reducible apply kept_noteEpoch
    | dsimp only
    | with_reducible intro _
    | with_reducible apply kept_foldl

theorem kept_holdPipe {s0 : State} {s : State} {p : Nat} (h : Kept s0 s) :
    Kept s0 (State.holdPipe s p) := by
  unfold State.holdPipe
  repeat' first
    | with_reducible assumption
    | with_reducible apply kept_setPipe

theorem kept_imbalance {s0 : State} {s : State} {r : Rel} (h : Kept s0 s) :
    Kept s0 (State.imbalance s r) := by
  unfold State.imbalance
  repeat' first
    | with_reducible assumption
    | with_reducible apply kept_holdPipe
    | with_reducible apply kept_endAll
    | with_reducible apply kept_fault
    | with_reducible apply kept_raise
    | dsimp only
    | with_reducible intro _
    | with_reducible apply kept_foldl

theorem kept_execBookImbalance {s0 : State} {c : Nat} {s : State} (h : Kept s0 s) :
    KeptX s0 (execBookImbalance c s) := by
  unfold execBookImbalance
  repeat' first
    | with_reducible assumption
    | with_reducible exact keptO_none _
    | with_reducible apply keptO_some
    | with_reducible apply keptX_attempt
    | with_reducible apply kept_imbalance
    | with_reducible apply kept_setCluster
    | dsimp only
    | with_reducible intro _
    | with_reducible apply keptO_map
    | with_reducible apply keptO_mapOf
    | with_reducible apply keptO_ite

theorem kept_setSlices {s0 : State} {s : State} {t : Nat} {on : Nat} (h : Kept s0 s) :
    Kept s0 (State.setSlices s t on) := by
  unfold State.setSlices
  repeat' first
    | with_reducible assumption
    | with_reducible apply kept_sliceUp
    | with_reducible apply kept_setBit
    | dsimp only
    | with_reducible intro _
    | with_reducible apply kept_foldl
    | with_reducible apply kept_foldl_fst
    | with_reducible apply kept_ite

theorem kept_restoreFar {s0 : State} {s : State} {pipe : Nat} {side : Bool} {e : Nat} (h : Kept s0 s) :
    Kept s0 (State.restoreFar s pipe side e) := by
  unfold State.restoreFar
  repeat' first
    | with_reducible assumption
    | with_reducible apply kept_sendCtrl
    | dsimp only
    | with_reducible intro _
    | with_reducible apply kept_foldl
    | with_reducible apply kept_foldl_fst
    | split

theorem kept_restoreRel {s0 : State} {s : State} {r : Rel} (h : Kept s0 s) :
    Kept s0 (State.restoreRel s r) := by
  unfold State.restoreRel
  repeat' first
    | with_reducible assumption
    | with_reducible apply kept_restoreFar
    | with_reducible apply kept_setSlices
    | with_reducible apply kept_lnkOff
    | with_reducible apply kept_setLnk
    | with_reducible apply kept_setBook
    | with_reducible apply kept_setTile
    | with_reducible apply kept_setBit
    | dsimp only
    | split

theorem kept_restoreFail {s0 : State} {s : State} {f : Found} (h : Kept s0 s) :
    Kept s0 (State.restoreFail s f) := by
  unfold State.restoreFail
  repeat' first
    | with_reducible assumption
    | with_reducible apply kept_portDown
    | with_reducible apply kept_settleRetire
    | with_reducible apply kept_dueRetire
    | dsimp only
    | with_reducible apply kept_ite
    | with_reducible apply kept_ite_fst
    | split

theorem kept_execBookRestore {s0 : State} {c : Nat} {s : State} (h : Kept s0 s) :
    KeptX s0 (execBookRestore c s) := by
  unfold execBookRestore
  repeat' first
    | with_reducible assumption
    | with_reducible exact keptO_none _
    | with_reducible apply keptO_some
    | with_reducible apply keptX_attempt
    | with_reducible apply kept_restoreFail
    | with_reducible apply kept_restoreRel
    | with_reducible apply kept_byCode
    | with_reducible apply kept_setCluster
    | dsimp only
    | with_reducible intro _
    | with_reducible apply kept_foldl
    | with_reducible apply kept_foldl_fst
    | with_reducible apply keptO_ite

theorem kept_bookSnap {s0 : State} {s : State} {t : Nat} (h : Kept s0 s) :
    Kept s0 (State.bookSnap s t) := by
  unfold State.bookSnap
  repeat' first
    | with_reducible assumption
    | with_reducible apply kept_setReg
    | dsimp only
    | with_reducible apply kept_ite
    | with_reducible apply kept_ite_fst
    | split

theorem kept_execBookSnap {s0 : State} {rq : Requester} {t : Nat} {s : State} (h : Kept s0 s) :
    KeptX s0 (execBookSnap rq t s) := by
  unfold execBookSnap
  repeat' first
    | with_reducible assumption
    | with_reducible exact keptO_none _
    | with_reducible apply keptO_some
    | with_reducible apply keptX_attempt
    | with_reducible apply kept_bookSnap
    | with_reducible apply kept_guardReg
    | dsimp only
    | with_reducible intro _
    | with_reducible apply keptO_ite

end Sys2Proof.Machine
end

