-- ==== Sys2Proof/Laws/KeptSystem.lean ====
section
/-!
SUPPORT. What the state keeps (`Kept`): stream moves, faults, scroll, boot, checks, bindings, firmware, power, scans, messages, the mailbox and the tick.
One lemma for each operation and each command: its next state keeps the queue, the fuses and the invariant.
-/
namespace Sys2Proof.Machine

/-! ## Move -/

theorem kept_loadNib {s0 : State} {s : State} {t : Nat} {ws : List B64} (h : Kept s0 s) :
    Kept s0 (State.loadNib s t ws) := by
  unfold State.loadNib
  repeat' first
    | with_reducible assumption
    | with_reducible apply kept_setReg64
    | dsimp only
    | with_reducible intro _
    | with_reducible apply kept_foldl

theorem kept_loadHosts {s0 : State} {s : State} {t : Nat} {hs : List (Nat × Bool × Nat)} (h : Kept s0 s) :
    Kept s0 (State.loadHosts s t hs) := by
  unfold State.loadHosts
  repeat' first
    | with_reducible assumption
    | with_reducible apply kept_loadNib
    | with_reducible apply kept_memReads
    | dsimp only
    | with_reducible intro _
    | with_reducible apply kept_foldl
    | with_reducible apply kept_foldl_fst
    | with_reducible apply kept_ite
    | with_reducible apply kept_ite_fst
    | split

theorem kept_copyUe {s0 : State} {s : State} {t : Nat} {row : Nat} (h : Kept s0 s) :
    Kept s0 (State.copyUe s t row) := by
  unfold State.copyUe
  repeat' first
    | with_reducible assumption
    | with_reducible apply kept_inkLog
    | with_reducible apply kept_addFld

theorem kept_copyTile {s0 : State} {s : State} {src : Nat} {dst : Nat} (h : Kept s0 s) :
    Kept s0 (State.copyTile s src dst) := by
  unfold State.copyTile
  repeat' first
    | with_reducible assumption
    | with_reducible apply kept_copyUe
    | with_reducible apply kept_loadHosts
    | with_reducible apply kept_bankWaits
    | with_reducible apply kept_setTile
    | with_reducible apply kept_addFld
    | with_reducible apply kept_setReg
    | dsimp only
    | with_reducible intro _
    | with_reducible apply kept_foldl

theorem kept_moveStart {s0 : State} {s : State} {l : Nat} {dst : Nat} (h : Kept s0 s) :
    KeptO s0 (State.moveStart s l dst) := by
  unfold State.moveStart
  repeat' first
    | with_reducible assumption
    | with_reducible exact keptO_none _
    | with_reducible apply keptO_some
    | with_reducible apply kept_copyTile
    | with_reducible apply kept_setCluster
    | with_reducible apply kept_setTile
    | dsimp only
    | with_reducible apply keptO_ite
    | with_reducible apply kept_ite
    | with_reducible apply kept_ite_fst
    | split

theorem kept_execTileMove {s0 : State} {l : Nat} {dst : Nat} {s : State} (h : Kept s0 s) :
    KeptX s0 (execTileMove l dst s) := by
  unfold execTileMove
  repeat' first
    | with_reducible assumption
    | with_reducible exact keptO_none _
    | with_reducible apply keptX_attempt
    | with_reducible apply kept_moveStart
    | with_reducible refine KeptO.out (kept_moveStart ?_) _ (by with_reducible assumption)
    | dsimp only
    | with_reducible apply keptO_ite

theorem kept_moveDone {s0 : State} {s : State} {l : Nat} {src : Nat} {dst : Nat} (h : Kept s0 s) :
    Kept s0 (State.moveDone s l src dst) := by
  unfold State.moveDone
  repeat' first
    | with_reducible assumption
    | with_reducible rfl
    | with_reducible apply kept_settleRetire
    | with_reducible apply kept_retire
    | with_reducible apply kept_settleTile
    | with_reducible apply kept_setCluster
    | with_reducible apply kept_setTile
    | dsimp only
    | with_reducible apply kept_ite
    | with_reducible apply kept_ite_fst
    | split
    | with_reducible exact shrinks_refl
    | with_reducible exact keepWf_refl
    | with_reducible exact shrinks_nil
    | exact keepWf_refl
    | exact shrinks_refl
    | with_reducible exact shrinks_tail (by assumption)
    | with_reducible refine kept_mk rfl ?_ ?_ ?_ ?_ ?_ ?_ ?_ ?_ ?_ ?_ ?_

theorem kept_execTileMoveDone {s0 : State} {l : Nat} {s : State} (h : Kept s0 s) :
    KeptX s0 (execTileMoveDone l s) := by
  unfold execTileMoveDone
  repeat' first
    | with_reducible assumption
    | with_reducible exact keptO_none _
    | with_reducible apply keptO_some
    | with_reducible apply keptX_attempt
    | with_reducible apply kept_moveDone
    | dsimp only
    | with_reducible apply keptO_ite
    | with_reducible apply kept_ite
    | with_reducible apply kept_ite_fst
    | split

/-! ## Faults -/

theorem kept_startTest {s0 : State} {s : State} {c : Nat} {t : Nat} {out : Bool} (h : Kept s0 s) :
    Kept s0 (State.startTest s c t out) := by
  unfold State.startTest
  repeat' first
    | with_reducible assumption
    | with_reducible apply kept_setCluster

theorem kept_execTileTestStart {s0 : State} {c : Nat} {s : State} (h : Kept s0 s) :
    KeptX s0 (execTileTestStart c s) := by
  unfold execTileTestStart
  repeat' first
    | with_reducible assumption
    | with_reducible exact keptO_none _
    | with_reducible apply keptO_some
    | with_reducible apply keptX_attempt
    | with_reducible apply kept_startTest
    | with_reducible apply kept_moveStart
    | with_reducible refine KeptO.out (kept_moveStart ?_) _ (by with_reducible assumption)
    | with_reducible apply kept_setCluster
    | dsimp only
    | with_reducible apply keptO_ite
    | with_reducible apply kept_ite
    | with_reducible apply kept_ite_fst
    | split

theorem kept_execOutOfTurnTestStart {s0 : State} {c : Nat} {s : State} (h : Kept s0 s) :
    KeptX s0 (execOutOfTurnTestStart c s) := by
  unfold execOutOfTurnTestStart
  repeat' first
    | with_reducible assumption
    | with_reducible exact keptO_none _
    | with_reducible apply keptO_some
    | with_reducible apply keptX_attempt
    | with_reducible apply kept_startTest
    | with_reducible apply kept_moveStart
    | with_reducible refine KeptO.out (kept_moveStart ?_) _ (by with_reducible assumption)
    | with_reducible apply kept_setCluster
    | with_reducible apply kept_setTile
    | dsimp only
    | with_reducible apply keptO_ite
    | with_reducible apply kept_ite
    | with_reducible apply kept_ite_fst
    | split

theorem kept_testFault {s0 : State} {s : State} {t : Nat} {action : Nat} {spare : Nat} {degraded : Bool} (h : Kept s0 s) :
    Kept s0 (State.testFault s t action spare degraded).1 := by
  unfold State.testFault
  repeat' first
    | with_reducible assumption
    | with_reducible apply kept_fault

theorem kept_testPass {s0 : State} {s : State} {c : Nat} {t : Nat} {start : B64} (h : Kept s0 s) :
    Kept s0 (State.testPass s c t start) := by
  unfold State.testPass
  repeat' first
    | with_reducible assumption
    | with_reducible apply kept_settleRetire
    | with_reducible apply kept_settleTile
    | with_reducible apply kept_setCluster
    | with_reducible apply kept_setTile
    | with_reducible apply kept_setFld
    | with_reducible apply kept_raise
    | dsimp only
    | with_reducible apply kept_ite
    | with_reducible apply kept_ite_fst
    | split

theorem kept_testRepair {s0 : State} {s : State} {c : Nat} {t : Nat} {row : B32} {col : B32} (h : Kept s0 s) :
    Kept s0 (State.testRepair s c t row col) := by
  unfold State.testRepair
  repeat' first
    | with_reducible assumption
    | with_reducible apply kept_testFault
    | with_reducible apply kept_setSkip
    | with_reducible apply kept_setCluster

theorem kept_testFail {s0 : State} {s : State} {c : Nat} {t : Nat} (h : Kept s0 s) :
    Kept s0 (State.testFail s c t) := by
  unfold State.testFail
  repeat' first
    | with_reducible assumption
    | with_reducible apply kept_testFault
    | with_reducible apply kept_settleRetire
    | with_reducible apply kept_dueRetire

theorem kept_execTileTestEnd {s0 : State} {c : Nat} {r : TestResult} {s : State} (h : Kept s0 s) :
    KeptX s0 (execTileTestEnd c r s) := by
  unfold execTileTestEnd
  repeat' first
    | with_reducible assumption
    | with_reducible exact keptO_none _
    | with_reducible apply keptO_some
    | with_reducible apply keptX_attempt
    | with_reducible apply kept_testFail
    | with_reducible apply kept_testRepair
    | with_reducible apply kept_testPass
    | with_reducible apply kept_byCode
    | with_reducible apply kept_setCluster
    | dsimp only
    | with_reducible apply keptO_ite
    | with_reducible apply kept_ite
    | with_reducible apply kept_ite_fst
    | split

theorem kept_execFaultHoldExpire {s0 : State} {s : State} (h : Kept s0 s) :
    KeptX s0 (execFaultHoldExpire s) := by
  unfold execFaultHoldExpire
  repeat' first
    | with_reducible assumption
    | with_reducible rfl
    | with_reducible exact keptO_none _
    | with_reducible apply keptO_some
    | with_reducible apply keptX_attempt
    | dsimp only
    | with_reducible apply keptO_ite
    | with_reducible apply kept_ite
    | with_reducible apply kept_ite_fst
    | with_reducible exact shrinks_refl
    | with_reducible exact keepWf_refl
    | exact keepWf_refl
    | exact shrinks_refl
    | with_reducible exact shrinks_tail (by assumption)
    | with_reducible refine kept_mk rfl ?_ ?_ ?_ ?_ ?_ ?_ ?_ ?_ ?_ ?_ ?_

theorem kept_execSafeToggleEdge {s0 : State} {s : State} (h : Kept s0 s) :
    KeptX s0 (execSafeToggleEdge s) := by
  unfold execSafeToggleEdge
  repeat' first
    | with_reducible assumption
    | with_reducible rfl
    | with_reducible exact keptO_none _
    | with_reducible apply keptO_some
    | with_reducible apply keptX_attempt
    | dsimp only
    | with_reducible apply keptO_ite
    | with_reducible apply kept_ite
    | with_reducible apply kept_ite_fst
    | with_reducible exact shrinks_refl
    | with_reducible exact keepWf_refl
    | exact keepWf_refl
    | exact shrinks_refl
    | with_reducible exact shrinks_tail (by assumption)
    | with_reducible refine kept_mk rfl ?_ ?_ ?_ ?_ ?_ ?_ ?_ ?_ ?_ ?_ ?_

theorem kept_execAliveWrite {s0 : State} {rq : Requester} {s : State} (h : Kept s0 s) :
    KeptX s0 (execAliveWrite rq s) := by
  unfold execAliveWrite
  repeat' first
    | with_reducible assumption
    | with_reducible rfl
    | with_reducible exact keptO_none _
    | with_reducible apply keptO_some
    | with_reducible apply keptX_attempt
    | with_reducible apply kept_guardReg
    | dsimp only
    | with_reducible intro _
    | with_reducible apply keptO_ite
    | with_reducible apply kept_ite
    | with_reducible apply kept_ite_fst
    | with_reducible exact shrinks_refl
    | with_reducible exact keepWf_refl
    | exact keepWf_refl
    | exact shrinks_refl
    | with_reducible exact shrinks_tail (by assumption)
    | with_reducible refine kept_mk rfl ?_ ?_ ?_ ?_ ?_ ?_ ?_ ?_ ?_ ?_ ?_

theorem kept_ackReport {s0 : State} {s : State} {seq : B32} (h : Kept s0 s) :
    Kept s0 (State.ackReport s seq) := by
  unfold State.ackReport
  repeat' first
    | with_reducible assumption
    | with_reducible rfl
    | dsimp only
    | with_reducible exact shrinks_refl
    | with_reducible exact keepWf_refl
    | with_reducible exact keepWf_filter
    | with_reducible exact shrinks_filter
    | exact keepWf_refl
    | exact shrinks_refl
    | with_reducible exact shrinks_tail (by assumption)
    | with_reducible refine kept_mk rfl ?_ ?_ ?_ ?_ ?_ ?_ ?_ ?_ ?_ ?_ ?_

theorem kept_execFaultAckWrite {s0 : State} {rq : Requester} {seq : B32} {s : State} (h : Kept s0 s) :
    KeptX s0 (execFaultAckWrite rq seq s) := by
  unfold execFaultAckWrite
  repeat' first
    | with_reducible assumption
    | with_reducible exact keptO_none _
    | with_reducible apply keptO_some
    | with_reducible apply keptX_attempt
    | with_reducible apply kept_ackReport
    | with_reducible apply kept_guardReg
    | dsimp only
    | with_reducible intro _
    | with_reducible apply keptO_ite
    | with_reducible apply kept_ite

theorem kept_exchange {s0 : State} {s : State} {out : BitVec 256} {next : BitVec 256} {valid : Bool} (h : Kept s0 s) :
    Kept s0 (State.exchange s out next valid) := by
  unfold State.exchange
  repeat' first
    | with_reducible assumption
    | with_reducible rfl
    | dsimp only
    | with_reducible exact shrinks_refl
    | with_reducible exact keepWf_refl
    | exact keepWf_refl
    | exact shrinks_refl
    | with_reducible exact shrinks_tail (by assumption)
    | with_reducible refine kept_mk rfl ?_ ?_ ?_ ?_ ?_ ?_ ?_ ?_ ?_ ?_ ?_

theorem kept_safetyCmd {s0 : State} {s : State} {r : BitVec 256} {cmd : Nat} {rep : Option BltEntry} {f : State → State} {g : State → State} (h : Kept s0 s) (hf : ∀ t, Kept s0 t → Kept s0 (f t)) (hg : ∀ t, Kept s0 t → Kept s0 (g t)) :
    KeptO s0 (State.safetyCmd s r cmd rep f g) := by
  unfold State.safetyCmd
  repeat' first
    | with_reducible assumption
    | with_reducible exact keptO_none _
    | with_reducible apply keptO_some
    | with_reducible apply hf
    | with_reducible apply hg
    | with_reducible apply kept_exchange
    | dsimp only
    | with_reducible apply keptO_ite

theorem kept_execSafetyNop {s0 : State} {r : BitVec 256} {s : State} (h : Kept s0 s) :
    KeptX s0 (execSafetyNop r s) :=
  keptX_attempt h (keptO_ite (kept_safetyCmd h (fun _ ht => ht) (fun _ ht => ht)) (keptO_none _))

theorem kept_execSafetyStatus {s0 : State} {r : BitVec 256} {s : State} (h : Kept s0 s) :
    KeptX s0 (execSafetyStatus r s) :=
  keptX_attempt h (keptO_ite (kept_safetyCmd h (fun _ ht => ht) (fun _ ht =>
    kept_mk rfl ht rfl shrinks_refl shrinks_refl shrinks_refl shrinks_refl keepWf_refl keepWf_refl keepWf_refl keepWf_refl
      keepWf_refl)) (keptO_none _))

theorem kept_execSafetyNext {s0 : State} {r : BitVec 256} {s : State} (h : Kept s0 s) :
    KeptX s0 (execSafetyNext r s) :=
  keptX_attempt h (keptO_ite (kept_safetyCmd h (fun _ ht => ht) (fun _ ht => ht)) (keptO_none _))

theorem kept_execSafetyAck {s0 : State} {r : BitVec 256} {s : State} (h : Kept s0 s) :
    KeptX s0 (execSafetyAck r s) :=
  keptX_attempt h (keptO_ite (kept_safetyCmd h (fun _ ht => kept_ackReport ht) (fun _ ht => ht)) (keptO_none _))

theorem kept_execSafetyRequestDiscarded {s0 : State} {frame : List Byte} {s : State} (h : Kept s0 s) :
    KeptX s0 (execSafetyRequestDiscarded frame s) := by
  unfold execSafetyRequestDiscarded
  repeat' first
    | with_reducible assumption
    | with_reducible exact keptO_none _
    | with_reducible apply keptO_some
    | with_reducible apply keptX_attempt
    | with_reducible apply kept_exchange
    | with_reducible apply kept_addSat
    | dsimp only
    | with_reducible apply keptO_ite

/-! ## Scroll -/

theorem kept_applyDevice {s0 : State} {s : State} {v : Image} {t : Nat} {d : Nat} (h : Kept s0 s) :
    Kept s0 (State.applyDevice s v t d) := by
  unfold State.applyDevice
  repeat' first
    | with_reducible assumption
    | with_reducible rfl
    | with_reducible apply kept_setLnk
    | with_reducible apply kept_setFld
    | with_reducible apply kept_setReg
    | dsimp only
    | with_reducible intro _
    | with_reducible apply kept_foldl
    | with_reducible apply kept_foldl_fst
    | with_reducible apply kept_ite
    | with_reducible apply kept_ite_fst
    | with_reducible exact shrinks_refl
    | with_reducible exact keepWf_refl
    | with_reducible exact keepWf_filter
    | with_reducible exact shrinks_filter
    | exact keepWf_refl
    | exact shrinks_refl
    | with_reducible exact shrinks_tail (by assumption)
    | with_reducible refine kept_mk rfl ?_ ?_ ?_ ?_ ?_ ?_ ?_ ?_ ?_ ?_ ?_

theorem kept_applyRegions {s0 : State} {s : State} {v : Image} {a2 : List Nat} {a3 : List Nat} (h : Kept s0 s) :
    Kept s0 (State.applyRegions s v a2 a3) := by
  induction a2 generalizing s v a3 with
  | nil =>
    unfold State.applyRegions
    repeat' first
      | with_reducible assumption
  | cons x l ih =>
    unfold State.applyRegions
    repeat' first
      | with_reducible apply ih
      | with_reducible assumption
      | with_reducible apply kept_setRgn
      | dsimp only
      | with_reducible apply kept_ite

theorem kept_nameFolio {s0 : State} {s : State} {i : Nat} {f : FolioRec} (h : Kept s0 s) :
    Kept s0 (State.nameFolio s i f) := by
  unfold State.nameFolio
  repeat' first
    | with_reducible assumption
    | with_reducible apply kept_setReg
    | dsimp only
    | with_reducible apply kept_ite

theorem kept_applyIris {s0 : State} {s : State} {r : StreamRec} {bs : List Byte} (h : Kept s0 s) :
    Kept s0 (State.applyIris s r bs) := by
  unfold State.applyIris
  repeat' first
    | with_reducible assumption
    | with_reducible apply kept_memAccess

theorem kept_applyStream {s0 : State} {s : State} {v : Image} {o : Nat} (h : Kept s0 s) :
    Kept s0 (State.applyStream s v o) := by
  unfold State.applyStream
  repeat' first
    | with_reducible assumption
    | with_reducible rfl
    | with_reducible apply kept_applyIris
    | with_reducible apply kept_setBit
    | dsimp only
    | with_reducible apply kept_ite
    | with_reducible apply kept_ite_fst
    | split
    | with_reducible exact shrinks_refl
    | with_reducible exact keepWf_refl
    | with_reducible exact shrinks_nil
    | exact keepWf_refl
    | exact shrinks_refl
    | with_reducible exact shrinks_tail (by assumption)
    | with_reducible refine kept_mk rfl ?_ ?_ ?_ ?_ ?_ ?_ ?_ ?_ ?_ ?_ ?_

theorem kept_applyPipe {s0 : State} {s : State} {v : Image} {o : Nat} (h : Kept s0 s) :
    Kept s0 (State.applyPipe s v o) := by
  unfold State.applyPipe
  repeat' first
    | with_reducible assumption
    | with_reducible rfl
    | with_reducible apply kept_setIring
    | with_reducible apply kept_setPipe
    | dsimp only
    | with_reducible intro _
    | with_reducible apply kept_foldl
    | with_reducible apply kept_foldl_fst
    | with_reducible apply kept_ite
    | with_reducible apply kept_ite_fst
    | split
    | with_reducible exact shrinks_refl
    | with_reducible exact keepWf_refl
    | with_reducible exact shrinks_nil
    | exact keepWf_refl
    | exact shrinks_refl
    | with_reducible exact shrinks_tail (by assumption)
    | with_reducible refine kept_mk rfl ?_ ?_ ?_ ?_ ?_ ?_ ?_ ?_ ?_ ?_ ?_

theorem kept_applyAlign {s0 : State} {s : State} {v : Image} {o : Nat} (h : Kept s0 s) :
    Kept s0 (State.applyAlign s v o) := by
  unfold State.applyAlign
  repeat' first
    | with_reducible assumption
    | with_reducible rfl
    | dsimp only
    | with_reducible apply kept_ite
    | with_reducible apply kept_ite_fst
    | with_reducible exact shrinks_refl
    | with_reducible exact keepWf_refl
    | with_reducible exact shrinks_nil
    | exact keepWf_refl
    | exact shrinks_refl
    | with_reducible exact shrinks_tail (by assumption)
    | with_reducible refine kept_mk rfl ?_ ?_ ?_ ?_ ?_ ?_ ?_ ?_ ?_ ?_ ?_

theorem kept_applyAster {s0 : State} {s : State} {v : Image} {o : Nat} (h : Kept s0 s) :
    Kept s0 (State.applyAster s v o) := by
  unfold State.applyAster
  repeat' first
    | with_reducible assumption
    | with_reducible rfl
    | dsimp only
    | with_reducible apply kept_ite
    | with_reducible apply kept_ite_fst
    | with_reducible exact shrinks_refl
    | with_reducible exact keepWf_refl
    | with_reducible exact shrinks_nil
    | exact keepWf_refl
    | exact shrinks_refl
    | with_reducible exact shrinks_tail (by assumption)
    | with_reducible refine kept_mk rfl ?_ ?_ ?_ ?_ ?_ ?_ ?_ ?_ ?_ ?_ ?_

theorem kept_applyContext {s0 : State} {s : State} {v : Image} {o : Nat} (h : Kept s0 s) :
    Kept s0 (State.applyContext s v o) := by
  unfold State.applyContext
  repeat' first
    | with_reducible assumption
    | with_reducible apply kept_createCtx
    | dsimp only
    | with_reducible apply kept_ite

theorem kept_applyEnc {s0 : State} {s : State} {v : Image} {o : Nat} (h : Kept s0 s) :
    Kept s0 (State.applyEnc s v o) := by
  unfold State.applyEnc
  repeat' first
    | with_reducible assumption
    | with_reducible rfl
    | dsimp only
    | with_reducible apply kept_ite
    | with_reducible apply kept_ite_fst
    | with_reducible exact shrinks_refl
    | with_reducible exact keepWf_refl
    | with_reducible exact shrinks_nil
    | exact keepWf_refl
    | exact shrinks_refl
    | with_reducible exact shrinks_tail (by assumption)
    | with_reducible refine kept_mk rfl ?_ ?_ ?_ ?_ ?_ ?_ ?_ ?_ ?_ ?_ ?_

theorem kept_applyScroll {s0 : State} {s : State} {v : Image} (h : Kept s0 s) :
    Kept s0 (State.applyScroll s v) := by
  unfold State.applyScroll
  repeat' first
    | with_reducible assumption
    | with_reducible rfl
    | with_reducible apply kept_applyEnc
    | with_reducible apply kept_applyContext
    | with_reducible apply kept_applyAster
    | with_reducible apply kept_applyAlign
    | with_reducible apply kept_applyPipe
    | with_reducible apply kept_applyStream
    | with_reducible apply kept_nameFolio
    | with_reducible apply kept_applyRegions
    | with_reducible apply kept_applyDevice
    | dsimp only
    | with_reducible intro _
    | with_reducible apply kept_foldl
    | with_reducible apply kept_foldl_fst
    | split
    | with_reducible exact shrinks_refl
    | with_reducible exact keepWf_refl
    | with_reducible exact shrinks_nil
    | exact keepWf_refl
    | exact shrinks_refl
    | with_reducible exact shrinks_tail (by assumption)
    | with_reducible refine kept_mk rfl ?_ ?_ ?_ ?_ ?_ ?_ ?_ ?_ ?_ ?_ ?_

/-! ## Boot -/

theorem kept_powerOn {s0 s : State} {powered : Bool} (h : Kept s0 s) : Kept s0 (s.powerOn powered) := by
  refine h.trans ⟨rfl, ⟨rfl, BitVec.and_self⟩, fun i => ⟨Nat.zero_le _, Nat.zero_le _, Nat.zero_le _, Nat.zero_le _, ?_, ?_, rfl, i.nor, rfl⟩⟩
  · cases powered
    · rfl
    · exact i.hbm
  · cases powered
    · rfl
    · exact i.rcv

theorem kept_execResetNAssert {s0 : State} {ns : Nat} {s : State} (h : Kept s0 s) :
    KeptX s0 (execResetNAssert ns s) := by
  unfold execResetNAssert
  repeat' first
    | with_reducible assumption
    | with_reducible exact keptO_none _
    | with_reducible apply keptO_some
    | with_reducible apply keptX_attempt
    | with_reducible apply kept_powerOn
    | dsimp only
    | with_reducible apply keptO_ite

theorem kept_execSupplyRemoval {s0 : State} {s : State} (h : Kept s0 s) :
    KeptX s0 (execSupplyRemoval s) := by
  unfold execSupplyRemoval
  repeat' first
    | with_reducible assumption
    | with_reducible apply keptO_some
    | with_reducible apply keptX_attempt
    | with_reducible apply kept_powerOn

theorem kept_loadFuses {s0 : State} {s : State} (h : Kept s0 s) :
    Kept s0 (State.loadFuses s) := by
  unfold State.loadFuses
  repeat' first
    | with_reducible assumption
    | with_reducible apply kept_setTile
    | with_reducible apply kept_setFld
    | with_reducible apply kept_setReg
    | dsimp only
    | with_reducible intro _
    | with_reducible apply kept_foldl

theorem kept_execResetNRelease {s0 : State} {env : ReleaseEnv} {s : State} (h : Kept s0 s) :
    KeptX s0 (execResetNRelease env s) := by
  unfold execResetNRelease
  repeat' first
    | with_reducible assumption
    | with_reducible rfl
    | with_reducible exact keptO_none _
    | with_reducible apply keptO_some
    | with_reducible apply keptX_attempt
    | with_reducible apply kept_loadFuses
    | with_reducible apply kept_halt
    | with_reducible apply kept_setBit
    | dsimp only
    | with_reducible apply keptO_ite
    | with_reducible apply kept_ite
    | with_reducible apply kept_ite_fst
    | with_reducible exact shrinks_refl
    | with_reducible exact keepWf_refl
    | exact keepWf_refl
    | exact shrinks_refl
    | with_reducible exact shrinks_tail (by assumption)
    | with_reducible refine kept_mk rfl ?_ ?_ ?_ ?_ ?_ ?_ ?_ ?_ ?_ ?_ ?_

theorem kept_execPllLockLoss {s0 : State} {s : State} (h : Kept s0 s) :
    KeptX s0 (execPllLockLoss s) := by
  unfold execPllLockLoss
  repeat' first
    | with_reducible assumption
    | with_reducible exact keptO_none _
    | with_reducible apply keptO_some
    | with_reducible apply keptX_attempt
    | with_reducible apply kept_halt
    | with_reducible apply kept_setBit
    | dsimp only
    | with_reducible apply keptO_ite

theorem kept_putSram {s0 : State} {s : State} {a : Nat} {bs : List Byte} (h : Kept s0 s) :
    Kept s0 (State.putSram s a bs) := by
  unfold State.putSram
  repeat' first
    | with_reducible assumption
    | with_reducible rfl
    | dsimp only
    | with_reducible exact shrinks_refl
    | with_reducible exact keepWf_refl
    | with_reducible exact keepWf_writeBytes
    | exact keepWf_refl
    | exact shrinks_refl
    | with_reducible exact shrinks_tail (by assumption)
    | with_reducible refine kept_mk rfl ?_ ?_ ?_ ?_ ?_ ?_ ?_ ?_ ?_ ?_ ?_

theorem kept_loadSlot {s0 : State} {s : State} {h0 : SlotHead} {kImg : Option (List Byte)} (h : Kept s0 s) :
    Kept s0 (State.loadSlot s h0 kImg).1 := by
  unfold State.loadSlot
  repeat' first
    | with_reducible assumption
    | with_reducible apply kept_putSram
    | dsimp only
    | with_reducible apply kept_ite
    | with_reducible apply kept_ite_fst
    | split

theorem kept_slotCause {s0 : State} {s : State} {slot : Nat} {cause : Nat} (h : Kept s0 s) :
    Kept s0 (State.slotCause s slot cause) := by
  unfold State.slotCause
  repeat' first
    | with_reducible assumption
    | with_reducible apply kept_setFld

theorem kept_trySlots {s0 s : State} {kImg : Option (List Byte)} {hs : List SlotHead} {i last : Nat} (h : Kept s0 s) :
    Kept s0 (s.trySlots kImg hs i last).1 := by
  unfold State.trySlots
  refine kept_foldl_fst _ (fun a x ha => ?_) h
  unfold trySlot
  have hl : Kept s0 (if x.1.copied then a.1.loadSlot x.1 kImg else (a.1, .error 12)).1 :=
    kept_ite_fst (kept_loadSlot ha) ha
  dsimp only
  split
  · exact ha
  · split
    · exact hl
    · exact kept_slotCause hl

theorem kept_blotterScan {s0 : State} {s : State} (h : Kept s0 s) :
    Kept s0 (State.blotterScan s) := by
  unfold State.blotterScan
  repeat' first
    | with_reducible assumption
    | with_reducible rfl
    | with_reducible apply kept_rcvWords
    | dsimp only
    | with_reducible apply kept_ite
    | with_reducible apply kept_ite_fst
    | split
    | with_reducible exact shrinks_refl
    | with_reducible exact keepWf_refl
    | with_reducible exact keepWf_filter
    | with_reducible exact shrinks_filter
    | exact keepWf_refl
    | exact shrinks_refl
    | with_reducible exact shrinks_tail (by assumption)
    | with_reducible refine kept_mk rfl ?_ ?_ ?_ ?_ ?_ ?_ ?_ ?_ ?_ ?_ ?_

theorem kept_putPub {s0 : State} {s : State} {off : Nat} {bs : List Byte} (h : Kept s0 s) :
    Kept s0 (State.putPub s off bs) := by
  unfold State.putPub
  repeat' first
    | with_reducible assumption
    | with_reducible apply kept_setReg
    | dsimp only
    | with_reducible intro _
    | with_reducible apply kept_foldl

theorem kept_deriveKeys {s0 : State} {s : State} {mFw : BitVec 512} (h : Kept s0 s) :
    Kept s0 (State.deriveKeys s mFw) := by
  unfold State.deriveKeys
  repeat' first
    | with_reducible assumption
    | with_reducible rfl
    | with_reducible apply kept_putPub
    | dsimp only
    | with_reducible exact shrinks_refl
    | with_reducible exact keepWf_refl
    | exact keepWf_refl
    | exact shrinks_refl
    | with_reducible exact shrinks_tail (by assumption)
    | with_reducible refine kept_mk rfl ?_ ?_ ?_ ?_ ?_ ?_ ?_ ?_ ?_ ?_ ?_

theorem kept_lockKeys {s0 : State} {s : State} {mFw : BitVec 512} (h : Kept s0 s) :
    Kept s0 (State.lockKeys s mFw) := by
  unfold State.lockKeys
  repeat' first
    | with_reducible assumption
    | with_reducible rfl
    | with_reducible apply kept_deriveKeys
    | with_reducible apply kept_setBit
    | dsimp only
    | with_reducible apply kept_ite
    | with_reducible apply kept_ite_fst
    | with_reducible exact shrinks_refl
    | with_reducible exact keepWf_refl
    | exact keepWf_refl
    | exact shrinks_refl
    | with_reducible exact shrinks_tail (by assumption)
    | with_reducible refine kept_mk rfl ?_ ?_ ?_ ?_ ?_ ?_ ?_ ?_ ?_ ?_ ?_

theorem kept_mapTiles {s0 : State} {s : State} (h : Kept s0 s) :
    Kept s0 (State.mapTiles s) := by
  unfold State.mapTiles
  repeat' first
    | with_reducible assumption
    | with_reducible rfl
    | dsimp only
    | with_reducible intro _
    | with_reducible apply kept_foldl
    | with_reducible apply kept_foldl_fst
    | with_reducible exact shrinks_refl
    | with_reducible exact keepWf_refl
    | exact keepWf_refl
    | exact shrinks_refl
    | with_reducible exact shrinks_tail (by assumption)
    | with_reducible refine kept_mk rfl ?_ ?_ ?_ ?_ ?_ ?_ ?_ ?_ ?_ ?_ ?_

theorem kept_inventory {s0 : State} {s : State} {env : BootEnv} (h : Kept s0 s) :
    Kept s0 (State.inventory s env) := by
  unfold State.inventory
  repeat' first
    | with_reducible assumption
    | with_reducible rfl
    | with_reducible apply kept_mapTiles
    | with_reducible apply kept_setTile
    | with_reducible apply kept_setBit
    | with_reducible apply kept_setFld
    | dsimp only
    | with_reducible intro _
    | with_reducible apply kept_foldl
    | with_reducible apply kept_foldl_fst
    | with_reducible apply kept_ite
    | with_reducible apply kept_ite_fst
    | with_reducible exact shrinks_refl
    | with_reducible exact keepWf_refl
    | exact keepWf_refl
    | exact shrinks_refl
    | with_reducible exact shrinks_tail (by assumption)
    | with_reducible refine kept_mk rfl ?_ ?_ ?_ ?_ ?_ ?_ ?_ ?_ ?_ ?_ ?_

theorem kept_handOver {s0 : State} {s : State} {h0 : SlotHead} {place_ : Nat} {l : Loaded} (h : Kept s0 s) :
    Kept s0 (State.handOver s h0 place_ l) := by
  unfold State.handOver
  repeat' first
    | with_reducible assumption
    | with_reducible rfl
    | with_reducible apply kept_lockKeys
    | with_reducible apply kept_blotterScan
    | with_reducible apply kept_applyScroll
    | with_reducible apply kept_setReg64
    | with_reducible apply kept_setBit
    | with_reducible apply kept_setFld
    | dsimp only
    | with_reducible apply kept_ite
    | with_reducible apply kept_ite_fst
    | with_reducible exact shrinks_refl
    | with_reducible exact keepWf_refl
    | exact keepWf_refl
    | exact shrinks_refl
    | with_reducible exact shrinks_tail (by assumption)
    | with_reducible refine kept_mk rfl ?_ ?_ ?_ ?_ ?_ ?_ ?_ ?_ ?_ ?_ ?_

theorem kept_execFirstStage {s0 : State} {env : BootEnv} {s : State} (h : Kept s0 s) :
    KeptX s0 (execFirstStage env s) := by
  unfold execFirstStage
  repeat' first
    | with_reducible assumption
    | with_reducible rfl
    | with_reducible exact keptO_none _
    | with_reducible apply keptO_some
    | with_reducible apply keptX_attempt
    | with_reducible apply kept_handOver
    | with_reducible apply kept_inventory
    | with_reducible apply kept_trySlots
    | with_reducible apply kept_slotCause
    | with_reducible apply kept_halt
    | with_reducible apply kept_setBit
    | with_reducible apply kept_setReg
    | dsimp only
    | with_reducible intro _
    | with_reducible apply kept_foldl
    | with_reducible apply kept_foldl_fst
    | with_reducible apply keptO_map
    | with_reducible apply keptO_mapOf
    | with_reducible apply keptO_ite
    | with_reducible apply kept_ite
    | with_reducible apply kept_ite_fst
    | split
    | with_reducible exact shrinks_refl
    | with_reducible exact keepWf_refl
    | with_reducible exact shrinks_nil
    | exact keepWf_refl
    | exact shrinks_refl
    | with_reducible exact shrinks_tail (by assumption)
    | with_reducible refine kept_mk rfl ?_ ?_ ?_ ?_ ?_ ?_ ?_ ?_ ?_ ?_ ?_

theorem kept_execStageTimeout {s0 : State} {s : State} (h : Kept s0 s) :
    KeptX s0 (execStageTimeout s) := by
  unfold execStageTimeout
  repeat' first
    | with_reducible assumption
    | with_reducible exact keptO_none _
    | with_reducible apply keptO_some
    | with_reducible apply keptX_attempt
    | with_reducible apply kept_halt
    | dsimp only
    | with_reducible apply keptO_ite

theorem kept_execKeyLockSet {s0 : State} {rq : Requester} {s : State} (h : Kept s0 s) :
    KeptX s0 (execKeyLockSet rq s) := by
  unfold execKeyLockSet
  repeat' first
    | with_reducible assumption
    | with_reducible rfl
    | with_reducible exact keptO_none _
    | with_reducible apply keptO_some
    | with_reducible apply keptX_attempt
    | with_reducible apply kept_guardReg
    | with_reducible apply kept_setBit
    | dsimp only
    | with_reducible intro _
    | with_reducible apply keptO_ite
    | with_reducible apply kept_ite
    | with_reducible apply kept_ite_fst
    | with_reducible exact shrinks_refl
    | with_reducible exact keepWf_refl
    | exact keepWf_refl
    | exact shrinks_refl
    | with_reducible exact shrinks_tail (by assumption)
    | with_reducible refine kept_mk rfl ?_ ?_ ?_ ?_ ?_ ?_ ?_ ?_ ?_ ?_ ?_

theorem kept_execScrLockSet {s0 : State} {rq : Requester} {s : State} (h : Kept s0 s) :
    KeptX s0 (execScrLockSet rq s) := by
  unfold execScrLockSet
  repeat' first
    | with_reducible assumption
    | with_reducible exact keptO_none _
    | with_reducible apply keptO_some
    | with_reducible apply keptX_attempt
    | with_reducible apply kept_guardReg
    | with_reducible apply kept_setBit
    | dsimp only
    | with_reducible intro _
    | with_reducible apply keptO_ite

theorem kept_raiseArv {s0 s : State} {v : Nat} (h : Kept s0 s) : Kept s0 (s.raiseArv v) := by
  have grows : ∀ (n : Nat) (b : BitVec 64), b &&& blowTo n b v = b := by
    intro n
    induction n with
    | zero => intro b; exact BitVec.and_self
    | succ n ih =>
      intro b
      unfold blowTo
      split
      · split
        · rename_i i _
          have h2 := ih (b ||| BitVec.ofNat 64 (2 ^ i))
          have h3 : b &&& (b ||| BitVec.ofNat 64 (2 ^ i)) = b := by
            ext j hj
            simp only [BitVec.getElem_and, BitVec.getElem_or]
            cases b[j] <;> simp
          calc b &&& blowTo n (b ||| BitVec.ofNat 64 (2 ^ i)) v
              = (b &&& (b ||| BitVec.ofNat 64 (2 ^ i))) &&& blowTo n (b ||| BitVec.ofNat 64 (2 ^ i)) v := by rw [h3]
            _ = b &&& ((b ||| BitVec.ofNat 64 (2 ^ i)) &&& blowTo n (b ||| BitVec.ofNat 64 (2 ^ i)) v) := by
                rw [BitVec.and_assoc]
            _ = b := by rw [h2, h3]
        · exact BitVec.and_self
      · exact BitVec.and_self
  unfold State.raiseArv
  split
  · exact h.trans ⟨rfl, ⟨rfl, grows 64 s.fuse.arv⟩, fun i =>
      ⟨i.events, i.reports, i.held, i.samples, i.hbm, i.rcv, i.sram, i.nor, SMap.wf_set _ _ _ _ i.regs⟩⟩
  · exact h

theorem kept_execArvRaise {s0 : State} {rq : Requester} {v : Nat} {s : State} (h : Kept s0 s) :
    KeptX s0 (execArvRaise rq v s) := by
  unfold execArvRaise
  repeat' first
    | with_reducible assumption
    | with_reducible exact keptO_none _
    | with_reducible apply keptO_some
    | with_reducible apply keptX_attempt
    | with_reducible apply kept_raiseArv
    | with_reducible apply kept_guardReg
    | dsimp only
    | with_reducible intro _
    | with_reducible apply keptO_ite

/-! ## Check -/

theorem kept_crcQueue {s0 : State} {s : State} {u : Nat} {rq : Requester} {l : List ChkCmd} (h : Kept s0 s) :
    Kept s0 (State.crcQueue s u rq l) := by
  unfold State.crcQueue
  repeat' first
    | with_reducible assumption
    | with_reducible apply kept_setCrc
    | dsimp only
    | with_reducible apply kept_ite

theorem kept_shaQueue {s0 : State} {s : State} {e : Nat} {rq : Requester} {l : List ChkCmd} (h : Kept s0 s) :
    Kept s0 (State.shaQueue s e rq l) := by
  unfold State.shaQueue
  repeat' first
    | with_reducible assumption
    | with_reducible apply kept_setSha
    | dsimp only
    | with_reducible apply kept_ite

theorem kept_crcAccept {s0 : State} {a : Nat} {a1 : Nat} {a2 : State} (h : Kept s0 a2) :
    Kept s0 (State.crcAccept a a1 a2) := by
  induction a generalizing a1 a2 with
  | zero =>
    unfold State.crcAccept
    repeat' first
      | with_reducible assumption
  | succ n ih =>
    unfold State.crcAccept
    repeat' first
      | with_reducible apply ih
      | with_reducible assumption
      | with_reducible apply kept_setCrc
      | with_reducible apply kept_setBit
      | dsimp only
      | with_reducible apply kept_ite
      | with_reducible apply kept_ite_fst
      | split

theorem kept_shaAccept {s0 : State} {a : Nat} {a1 : Nat} {a2 : State} (h : Kept s0 a2) :
    Kept s0 (State.shaAccept a a1 a2) := by
  induction a generalizing a1 a2 with
  | zero =>
    unfold State.shaAccept
    repeat' first
      | with_reducible assumption
  | succ n ih =>
    unfold State.shaAccept
    repeat' first
      | with_reducible apply ih
      | with_reducible assumption
      | with_reducible apply kept_setSha
      | dsimp only
      | with_reducible apply kept_ite
      | with_reducible apply kept_ite_fst
      | split

theorem kept_crcPop {s0 : State} {s : State} {u : Nat} {k : ChkCmd} (h : Kept s0 s) :
    Kept s0 (State.crcPop s u k) := by
  unfold State.crcPop
  repeat' first
    | with_reducible assumption
    | with_reducible apply kept_crcAccept
    | with_reducible apply kept_setCrc

theorem kept_shaPop {s0 : State} {s : State} {e : Nat} {k : ChkCmd} (h : Kept s0 s) :
    Kept s0 (State.shaPop s e k) := by
  unfold State.shaPop
  repeat' first
    | with_reducible assumption
    | with_reducible apply kept_shaAccept
    | with_reducible apply kept_setSha

theorem kept_chkCommand {s0 : State} {s : State} {rq : Requester} {key : Nat} {v : B32} (h : Kept s0 s) :
    KeptO s0 (State.chkCommand s rq key v) := by
  unfold State.chkCommand
  repeat' first
    | with_reducible assumption
    | with_reducible exact keptO_none _
    | with_reducible apply keptO_some
    | with_reducible apply kept_shaQueue
    | with_reducible apply kept_crcQueue
    | with_reducible apply kept_setReg
    | dsimp only
    | with_reducible apply keptO_ite
    | with_reducible apply kept_ite
    | with_reducible apply kept_ite_fst
    | split

theorem kept_execCrcCommandWrite {s0 : State} {rq : Requester} {key : Nat} {v : B32} {s : State} (h : Kept s0 s) :
    KeptX s0 (execCrcCommandWrite rq key v s) := by
  unfold execCrcCommandWrite
  repeat' first
    | with_reducible assumption
    | with_reducible exact keptO_none _
    | with_reducible apply keptX_attempt
    | with_reducible apply kept_chkCommand
    | with_reducible refine KeptO.out (kept_chkCommand ?_) _ (by with_reducible assumption)
    | dsimp only
    | with_reducible apply keptO_ite

theorem kept_crcFeed {s0 : State} {s : State} {u : Nat} {bs : List Byte} (h : Kept s0 s) :
    Kept s0 (State.crcFeed s u bs) := by
  unfold State.crcFeed
  repeat' first
    | with_reducible assumption
    | with_reducible apply kept_setCrc
    | with_reducible apply kept_add64

theorem kept_dinExec {s0 : State} {s : State} {u : Nat} {n : Nat} (h : Kept s0 s) :
    KeptO s0 (State.dinExec s u n) := by
  unfold State.dinExec
  repeat' first
    | with_reducible assumption
    | with_reducible exact keptO_none _
    | with_reducible apply keptO_some
    | with_reducible apply kept_crcFeed
    | with_reducible apply kept_crcPop
    | dsimp only
    | with_reducible apply keptO_ite
    | with_reducible apply kept_ite
    | with_reducible apply kept_ite_fst
    | split

theorem kept_execDinB {s0 : State} {u : Nat} {s : State} (h : Kept s0 s) :
    KeptX s0 (execDinB u s) := by
  unfold execDinB
  repeat' first
    | with_reducible assumption
    | with_reducible apply keptX_attempt
    | with_reducible apply kept_dinExec

theorem kept_execDinH {s0 : State} {u : Nat} {s : State} (h : Kept s0 s) :
    KeptX s0 (execDinH u s) := by
  unfold execDinH
  repeat' first
    | with_reducible assumption
    | with_reducible apply keptX_attempt
    | with_reducible apply kept_dinExec

theorem kept_execDinW {s0 : State} {u : Nat} {s : State} (h : Kept s0 s) :
    KeptX s0 (execDinW u s) := by
  unfold execDinW
  repeat' first
    | with_reducible assumption
    | with_reducible apply keptX_attempt
    | with_reducible apply kept_dinExec

theorem kept_crcReset {s0 : State} {s : State} {u : Nat} {secure : Bool} (h : Kept s0 s) :
    Kept s0 (State.crcReset s u secure) := by
  unfold State.crcReset
  repeat' first
    | with_reducible assumption
    | with_reducible apply kept_setCrc
    | with_reducible apply kept_setReg64

theorem kept_execCrcInit {s0 : State} {u : Nat} {s : State} (h : Kept s0 s) :
    KeptX s0 (execCrcInit u s) := by
  unfold execCrcInit
  repeat' first
    | with_reducible assumption
    | with_reducible exact keptO_none _
    | with_reducible apply keptO_some
    | with_reducible apply keptX_attempt
    | with_reducible apply kept_crcReset
    | with_reducible apply kept_crcPop
    | dsimp only
    | split

theorem kept_crcCompare {s0 : State} {s : State} {u : Nat} (h : Kept s0 s) :
    Kept s0 (State.crcCompare s u) := by
  unfold State.crcCompare
  repeat' first
    | with_reducible assumption
    | with_reducible apply kept_setBit
    | with_reducible apply kept_raise
    | dsimp only
    | with_reducible apply kept_ite

theorem kept_execCrcCheck {s0 : State} {u : Nat} {s : State} (h : Kept s0 s) :
    KeptX s0 (execCrcCheck u s) := by
  unfold execCrcCheck
  repeat' first
    | with_reducible assumption
    | with_reducible exact keptO_none _
    | with_reducible apply keptO_some
    | with_reducible apply keptX_attempt
    | with_reducible apply kept_crcCompare
    | with_reducible apply kept_crcPop
    | dsimp only
    | split

theorem kept_execCrcScan {s0 : State} {u : Nat} {s : State} (h : Kept s0 s) :
    KeptX s0 (execCrcScan u s) := by
  unfold execCrcScan
  repeat' first
    | with_reducible assumption
    | with_reducible exact keptO_none _
    | with_reducible apply keptO_some
    | with_reducible apply keptX_attempt
    | with_reducible apply kept_crcPop
    | with_reducible apply kept_setCrc
    | with_reducible apply kept_setFld
    | dsimp only
    | with_reducible apply keptO_ite
    | with_reducible apply kept_ite
    | with_reducible apply kept_ite_fst
    | split

theorem kept_execShaInit {s0 : State} {e : Nat} {s : State} (h : Kept s0 s) :
    KeptX s0 (execShaInit e s) := by
  unfold execShaInit
  repeat' first
    | with_reducible assumption
    | with_reducible exact keptO_none _
    | with_reducible apply keptO_some
    | with_reducible apply keptX_attempt
    | with_reducible apply kept_shaPop
    | with_reducible apply kept_setSha
    | with_reducible apply kept_setReg64
    | with_reducible apply kept_setBit
    | dsimp only
    | split

theorem kept_execShaScan {s0 : State} {e : Nat} {s : State} (h : Kept s0 s) :
    KeptX s0 (execShaScan e s) := by
  unfold execShaScan
  repeat' first
    | with_reducible assumption
    | with_reducible exact keptO_none _
    | with_reducible apply keptO_some
    | with_reducible apply keptX_attempt
    | with_reducible apply kept_shaPop
    | with_reducible apply kept_setSha
    | with_reducible apply kept_setFld
    | dsimp only
    | with_reducible apply keptO_ite
    | with_reducible apply kept_ite
    | with_reducible apply kept_ite_fst
    | split

/-! ## Bind -/

theorem kept_flushHeld {s0 : State} {s : State} (h : Kept s0 s) :
    Kept s0 (State.flushHeld s) := by
  unfold State.flushHeld
  repeat' first
    | with_reducible assumption
    | with_reducible rfl
    | with_reducible apply kept_bltStore
    | dsimp only
    | with_reducible intro _
    | with_reducible apply kept_foldl
    | with_reducible apply kept_foldl_fst
    | with_reducible exact shrinks_refl
    | with_reducible exact keepWf_refl
    | with_reducible exact shrinks_nil
    | exact keepWf_refl
    | exact shrinks_refl
    | with_reducible exact shrinks_tail (by assumption)
    | with_reducible refine kept_mk rfl ?_ ?_ ?_ ?_ ?_ ?_ ?_ ?_ ?_ ?_ ?_

theorem kept_bootExhaust {s0 : State} {s : State} (h : Kept s0 s) :
    Kept s0 (State.bootExhaust s) := by
  unfold State.bootExhaust
  repeat' first
    | with_reducible assumption
    | with_reducible apply kept_checkTiles
    | with_reducible apply kept_exhaust
    | with_reducible apply kept_showExhaust
    | dsimp only
    | with_reducible intro _
    | with_reducible apply kept_foldl
    | with_reducible apply kept_foldl_fst
    | with_reducible apply kept_ite

theorem kept_firmwareArea {s0 : State} {s : State} (h : Kept s0 s) :
    Kept s0 (State.firmwareArea s) := by
  unfold State.firmwareArea
  repeat' first
    | with_reducible assumption
    | with_reducible apply kept_setPin
    | with_reducible apply kept_setRgn
    | dsimp only
    | with_reducible apply kept_ite

theorem kept_idleSlices {s0 : State} {s : State} (h : Kept s0 s) :
    Kept s0 (State.idleSlices s) := by
  unfold State.idleSlices
  repeat' first
    | with_reducible assumption
    | with_reducible apply kept_setSlices
    | dsimp only
    | with_reducible intro _
    | with_reducible apply kept_foldl

theorem kept_releaseGo {s0 : State} {s : State} (h : Kept s0 s) :
    Kept s0 (State.releaseGo s) := by
  unfold State.releaseGo
  repeat' first
    | with_reducible assumption
    | with_reducible rfl
    | with_reducible apply kept_idleSlices
    | with_reducible apply kept_firmwareArea
    | with_reducible apply kept_bootExhaust
    | with_reducible apply kept_flushHeld
    | with_reducible apply kept_tryService
    | with_reducible apply kept_setBit
    | with_reducible apply kept_raise
    | dsimp only
    | with_reducible apply kept_ite
    | with_reducible apply kept_ite_fst
    | with_reducible exact shrinks_refl
    | with_reducible exact keepWf_refl
    | with_reducible exact shrinks_nil
    | exact keepWf_refl
    | exact shrinks_refl
    | with_reducible exact shrinks_tail (by assumption)
    | with_reducible refine kept_mk rfl ?_ ?_ ?_ ?_ ?_ ?_ ?_ ?_ ?_ ?_ ?_

theorem kept_execReleaseGo {s0 : State} {rq : Requester} {s : State} (h : Kept s0 s) :
    KeptX s0 (execReleaseGo rq s) := by
  unfold execReleaseGo
  repeat' first
    | with_reducible assumption
    | with_reducible exact keptO_none _
    | with_reducible apply keptO_some
    | with_reducible apply keptX_attempt
    | with_reducible apply kept_releaseGo
    | with_reducible apply kept_guardReg
    | with_reducible apply kept_byCode
    | dsimp only
    | with_reducible intro _
    | with_reducible apply keptO_ite

theorem kept_setFolio {s0 : State} {s : State} {i : Nat} {f : FolioRec} (h : Kept s0 s) :
    Kept s0 (State.setFolio s i f) := by
  unfold State.setFolio
  repeat' first
    | with_reducible assumption
    | with_reducible rfl
    | dsimp only
    | with_reducible exact shrinks_refl
    | with_reducible exact keepWf_refl
    | exact keepWf_refl
    | exact shrinks_refl
    | with_reducible exact shrinks_tail (by assumption)
    | with_reducible refine kept_mk rfl ?_ ?_ ?_ ?_ ?_ ?_ ?_ ?_ ?_ ?_ ?_

theorem kept_lockFolio {s0 : State} {s : State} {i : Nat} {f : FolioRec} (h : Kept s0 s) :
    Kept s0 (State.lockFolio s i f) := by
  unfold State.lockFolio
  repeat' first
    | with_reducible assumption
    | with_reducible apply kept_setReg
    | dsimp only
    | with_reducible apply kept_ite

theorem kept_verifyStart {s0 : State} {s : State} {i : Nat} {own : Bool} (h : Kept s0 s) :
    KeptO s0 (State.verifyStart s i own) := by
  unfold State.verifyStart
  repeat' first
    | with_reducible assumption
    | with_reducible exact keptO_none _
    | with_reducible apply keptO_some
    | with_reducible apply kept_lockFolio
    | with_reducible apply kept_setFolio
    | with_reducible apply kept_setReg
    | dsimp only
    | with_reducible apply keptO_ite
    | with_reducible apply kept_ite
    | with_reducible apply kept_ite_fst
    | split

theorem kept_copyFolio {s0 : State} {s : State} {f : FolioRec} (h : Kept s0 s) :
    Kept s0 (State.copyFolio s f) := by
  unfold State.copyFolio
  repeat' first
    | with_reducible assumption
    | with_reducible apply kept_memAccess
    | dsimp only
    | split

theorem kept_execFolioVerify {s0 : State} {rq : Requester} {core0 : Option Nat} {s : State} (h : Kept s0 s) :
    KeptX s0 (execFolioVerify rq core0 s) := by
  unfold execFolioVerify
  repeat' first
    | with_reducible assumption
    | with_reducible exact keptO_none _
    | with_reducible apply keptO_some
    | with_reducible apply keptX_attempt
    | with_reducible apply kept_copyFolio
    | with_reducible apply kept_verifyStart
    | with_reducible refine KeptO.out (kept_verifyStart ?_) _ (by with_reducible assumption)
    | with_reducible apply kept_refuseReg
    | with_reducible apply kept_setBit
    | dsimp only
    | with_reducible intro _
    | with_reducible apply keptO_map
    | with_reducible apply keptO_mapOf
    | with_reducible apply keptO_ite
    | with_reducible apply kept_ite
    | with_reducible apply kept_ite_fst
    | split

theorem kept_readsBy {s0 : State} {s : State} {a1 : List (Requester × List (Nat × Nat))} (h : Kept s0 s) :
    Kept s0 (State.readsBy s a1).1 := by
  induction a1 generalizing s with
  | nil =>
    unfold State.readsBy
    repeat' first
      | with_reducible assumption
  | cons x l ih =>
    unfold State.readsBy
    repeat' first
      | with_reducible apply ih
      | with_reducible assumption
      | with_reducible apply kept_memReads
      | dsimp only
      | with_reducible apply kept_ite
      | with_reducible apply kept_ite_fst

theorem kept_folioCheck {s0 : State} {s : State} {i : Nat} {e : Nat} {f : FolioRec} (h : Kept s0 s) :
    Kept s0 (State.folioCheck s i e f).1 := by
  unfold State.folioCheck
  repeat' first
    | with_reducible assumption
    | with_reducible apply kept_readsBy
    | dsimp only
    | with_reducible apply kept_ite
    | with_reducible apply kept_ite_fst

theorem kept_execFolioVerifyDone {s0 : State} {i : Nat} {s : State} (h : Kept s0 s) :
    KeptX s0 (execFolioVerifyDone i s) := by
  unfold execFolioVerifyDone
  repeat' first
    | with_reducible assumption
    | with_reducible exact keptO_none _
    | with_reducible apply keptO_some
    | with_reducible apply keptX_attempt
    | with_reducible apply kept_folioCheck
    | with_reducible apply kept_setFolio
    | with_reducible apply kept_byCode
    | with_reducible apply kept_tryService
    | with_reducible apply kept_setBit
    | with_reducible apply kept_setReg
    | with_reducible apply kept_raise
    | dsimp only
    | with_reducible apply keptO_ite
    | with_reducible apply kept_ite
    | with_reducible apply kept_ite_fst
    | split

theorem kept_refusePipe {s0 : State} {s : State} {pipe : Nat} {p : Pipe} {b : PipeBind} (h : Kept s0 s) :
    Kept s0 (State.refusePipe s pipe p b) := by
  unfold State.refusePipe
  repeat' first
    | with_reducible assumption
    | with_reducible apply kept_tryService
    | with_reducible apply kept_setIring
    | with_reducible apply kept_setPipe
    | dsimp only
    | with_reducible intro _
    | with_reducible apply kept_foldl

theorem kept_openBooks {s0 : State} {s : State} {pipe : Nat} {p : Pipe} (h : Kept s0 s) :
    Kept s0 (State.openBooks s pipe p) := by
  unfold State.openBooks
  repeat' first
    | with_reducible assumption
    | with_reducible apply kept_setBook
    | dsimp only
    | with_reducible intro _
    | with_reducible apply kept_foldl
    | with_reducible apply kept_foldl_fst
    | split

theorem kept_openTiles {s0 : State} {s : State} {pipe : Nat} (h : Kept s0 s) :
    Kept s0 (State.openTiles s pipe) := by
  unfold State.openTiles
  repeat' first
    | with_reducible assumption
    | with_reducible apply kept_loadHosts
    | with_reducible apply kept_setSlices
    | dsimp only
    | with_reducible intro _
    | with_reducible apply kept_foldl
    | with_reducible apply kept_foldl_fst
    | with_reducible apply kept_ite

theorem kept_openGroup {s0 : State} {s : State} {p : Pipe} {a : AsterRec} (h : Kept s0 s) :
    Kept s0 (State.openGroup s p a) := by
  unfold State.openGroup
  repeat' first
    | with_reducible assumption
    | with_reducible apply kept_trkWrite
    | with_reducible apply kept_setAstGroup
    | with_reducible apply kept_memWrites
    | dsimp only
    | with_reducible intro _
    | with_reducible apply kept_foldl

theorem kept_bindPipe {s0 : State} {s : State} {pipe : Nat} {p : Pipe} {b : PipeBind} (h : Kept s0 s) :
    Kept s0 (State.bindPipe s pipe p b) := by
  unfold State.bindPipe
  repeat' first
    | with_reducible assumption
    | with_reducible apply kept_openGroup
    | with_reducible apply kept_openTiles
    | with_reducible apply kept_openBooks
    | with_reducible apply kept_irNext
    | with_reducible apply kept_tryService
    | with_reducible apply kept_setTile
    | with_reducible apply kept_setBit
    | dsimp only
    | with_reducible intro _
    | with_reducible apply kept_foldl

theorem kept_execPipelineBind {s0 : State} {pipe : Nat} {s : State} (h : Kept s0 s) :
    KeptX s0 (execPipelineBind pipe s) := by
  unfold execPipelineBind
  repeat' first
    | with_reducible assumption
    | with_reducible exact keptO_none _
    | with_reducible apply keptO_some
    | with_reducible apply keptX_attempt
    | with_reducible apply kept_bindPipe
    | with_reducible apply kept_refusePipe
    | with_reducible apply kept_memReads
    | with_reducible apply kept_setPipe
    | dsimp only
    | with_reducible apply keptO_ite
    | with_reducible apply kept_ite
    | with_reducible apply kept_ite_fst
    | split

/-! ## Scrub -/

theorem kept_scrubBlock {s0 : State} {s : State} {folio : Nat} {entry : Nat} (h : Kept s0 s) :
    Kept s0 (State.scrubBlock s folio entry).1 := by
  unfold State.scrubBlock
  repeat' first
    | with_reducible assumption
    | with_reducible apply kept_memReads
    | dsimp only
    | with_reducible apply kept_ite
    | with_reducible apply kept_ite_fst
    | split

theorem kept_weightLatent {s0 : State} {s : State} {b : ScrubBlock} (h : Kept s0 s) :
    Kept s0 (State.weightLatent s b) := by
  unfold State.weightLatent
  repeat' first
    | with_reducible assumption
    | with_reducible apply kept_stopPipe
    | with_reducible apply kept_exhaust
    | with_reducible apply kept_fault
    | with_reducible apply kept_raise
    | dsimp only
    | with_reducible intro _
    | with_reducible apply kept_foldl

theorem kept_scrubEnd {s0 : State} {s : State} {u : Nat} {status : Nat} {ok : Bool} {b : ScrubBlock} (h : Kept s0 s) :
    Kept s0 (State.scrubEnd s u status ok b) := by
  unfold State.scrubEnd
  repeat' first
    | with_reducible assumption
    | with_reducible rfl
    | with_reducible apply kept_weightLatent
    | with_reducible apply kept_crcQueue
    | with_reducible apply kept_setCrc
    | dsimp only
    | with_reducible apply kept_ite
    | with_reducible apply kept_ite_fst
    | with_reducible exact shrinks_refl
    | with_reducible exact keepWf_refl
    | exact keepWf_refl
    | exact shrinks_refl
    | with_reducible exact shrinks_tail (by assumption)
    | with_reducible refine kept_mk rfl ?_ ?_ ?_ ?_ ?_ ?_ ?_ ?_ ?_ ?_ ?_

theorem kept_scrubEnded {s0 : State} {s : State} {u : Nat} {status : Nat} (h : Kept s0 s) :
    Kept s0 (State.scrubEnded s u status) := by
  unfold State.scrubEnded
  repeat' first
    | with_reducible assumption
    | with_reducible apply kept_scrubEnd
    | with_reducible apply kept_setCrc
    | dsimp only
    | with_reducible apply kept_ite
    | with_reducible apply kept_ite_fst
    | split

theorem kept_scrubWake {s0 : State} {s : State} {u : Nat} (h : Kept s0 s) :
    Kept s0 (State.scrubWake s u) := by
  unfold State.scrubWake
  repeat' first
    | with_reducible assumption
    | with_reducible apply kept_scrubEnd
    | with_reducible apply kept_setCrc
    | dsimp only
    | split

theorem kept_spareUnit {s0 : State} {s : State} {u : UnitDue} (h : Kept s0 s) :
    Kept s0 (State.spareUnit s u) := by
  unfold State.spareUnit
  repeat' first
    | with_reducible assumption
    | with_reducible apply kept_spareEnc
    | with_reducible apply kept_spareDec
    | with_reducible apply kept_sparePipe
    | dsimp only
    | split

theorem kept_resumeFw {s0 : State} {s : State} (h : Kept s0 s) :
    Kept s0 (State.resumeFw s) := by
  unfold State.resumeFw
  repeat' first
    | with_reducible assumption
    | with_reducible rfl
    | with_reducible apply kept_spareUnit
    | with_reducible apply kept_scrubWake
    | with_reducible apply kept_settleRetire
    | with_reducible apply kept_spareNow
    | dsimp only
    | with_reducible intro _
    | with_reducible apply kept_foldl
    | with_reducible apply kept_foldl_fst
    | with_reducible apply kept_ite
    | with_reducible apply kept_ite_fst
    | with_reducible exact shrinks_refl
    | with_reducible exact keepWf_refl
    | with_reducible exact shrinks_nil
    | exact keepWf_refl
    | exact shrinks_refl
    | with_reducible exact shrinks_tail (by assumption)
    | with_reducible refine kept_mk rfl ?_ ?_ ?_ ?_ ?_ ?_ ?_ ?_ ?_ ?_ ?_

/-! ## Fw -/

theorem kept_mbxAnswer {s0 : State} {s : State} {rsp : List Byte} (h : Kept s0 s) :
    Kept s0 (State.mbxAnswer s rsp) := by
  unfold State.mbxAnswer
  repeat' first
    | with_reducible assumption
    | with_reducible apply kept_sendMsix
    | with_reducible apply kept_setBit
    | with_reducible apply kept_setReg
    | dsimp only
    | with_reducible intro _
    | with_reducible apply kept_foldl

theorem kept_mbxReject {s0 : State} {s : State} (h : Kept s0 s) :
    Kept s0 (State.mbxReject s) := by
  unfold State.mbxReject
  repeat' first
    | with_reducible assumption
    | with_reducible apply kept_mbxAnswer
    | dsimp only
    | with_reducible apply kept_ite

theorem kept_sendData {s0 : State} {s : State} {dst : Nat} {data : List Byte} (h : Kept s0 s) :
    Kept s0 (State.sendData s dst data) := by
  unfold State.sendData
  repeat' first
    | with_reducible assumption
    | with_reducible apply kept_sendCtrl
    | dsimp only
    | with_reducible intro _
    | with_reducible apply kept_foldl

theorem kept_guestAnswer {s0 : State} {s : State} {src : Nat} {rsp : List Byte} {data : List Byte} (h : Kept s0 s) :
    Kept s0 (State.guestAnswer s src rsp data) := by
  unfold State.guestAnswer
  repeat' first
    | with_reducible assumption
    | with_reducible apply kept_sendData
    | with_reducible apply kept_sendCtrl

theorem kept_updateAnswer {s0 : State} {s : State} {status : Nat} {results : List Nat} (h : Kept s0 s) :
    Kept s0 (State.updateAnswer s status results) := by
  unfold State.updateAnswer
  repeat' first
    | with_reducible assumption
    | with_reducible rfl
    | with_reducible apply kept_guestAnswer
    | with_reducible apply kept_mbxAnswer
    | dsimp only
    | split
    | with_reducible exact shrinks_refl
    | with_reducible exact keepWf_refl
    | with_reducible exact shrinks_nil
    | exact keepWf_refl
    | exact shrinks_refl
    | with_reducible exact shrinks_tail (by assumption)
    | with_reducible refine kept_mk rfl ?_ ?_ ?_ ?_ ?_ ?_ ?_ ?_ ?_ ?_ ?_

theorem kept_mbxAbandon {s0 : State} {s : State} (h : Kept s0 s) :
    Kept s0 (State.mbxAbandon s) := by
  unfold State.mbxAbandon
  repeat' first
    | with_reducible assumption
    | with_reducible rfl
    | with_reducible apply kept_mbxAnswer
    | dsimp only
    | with_reducible apply kept_ite
    | with_reducible apply kept_ite_fst
    | with_reducible exact shrinks_refl
    | with_reducible exact keepWf_refl
    | with_reducible exact keepWf_filter
    | with_reducible exact shrinks_filter
    | with_reducible exact shrinks_nil
    | exact keepWf_refl
    | exact shrinks_refl
    | with_reducible exact shrinks_tail (by assumption)
    | with_reducible refine kept_mk rfl ?_ ?_ ?_ ?_ ?_ ?_ ?_ ?_ ?_ ?_ ?_

theorem kept_restartUpdate {s0 : State} {s : State} (h : Kept s0 s) :
    Kept s0 (State.restartUpdate s) := by
  unfold State.restartUpdate
  repeat' first
    | with_reducible assumption
    | with_reducible rfl
    | with_reducible apply kept_updateAnswer
    | dsimp only
    | split
    | with_reducible exact shrinks_refl
    | with_reducible exact keepWf_refl
    | with_reducible exact shrinks_nil
    | exact keepWf_refl
    | exact shrinks_refl
    | with_reducible exact shrinks_tail (by assumption)
    | with_reducible refine kept_mk rfl ?_ ?_ ?_ ?_ ?_ ?_ ?_ ?_ ?_ ?_ ?_

theorem kept_restartCore {s0 : State} {s : State} {n : Nat} {cause : Nat} (h : Kept s0 s) :
    Kept s0 (State.restartCore s n cause) := by
  unfold State.restartCore
  repeat' first
    | with_reducible assumption
    | with_reducible rfl
    | with_reducible apply kept_restartUpdate
    | with_reducible apply kept_mbxAbandon
    | with_reducible apply kept_stopAudits
    | with_reducible apply kept_endCause
    | with_reducible apply kept_exhaust
    | with_reducible apply kept_addFld
    | with_reducible apply kept_setFld
    | with_reducible apply kept_fault
    | with_reducible apply kept_noteEpoch
    | with_reducible apply kept_raise
    | dsimp only
    | with_reducible intro _
    | with_reducible apply kept_foldl
    | with_reducible apply kept_foldl_fst
    | with_reducible apply kept_ite
    | with_reducible apply kept_ite_fst
    | with_reducible exact shrinks_refl
    | with_reducible exact keepWf_refl
    | with_reducible exact keepWf_filter
    | with_reducible exact shrinks_filter
    | with_reducible exact shrinks_nil
    | exact keepWf_refl
    | exact shrinks_refl
    | with_reducible exact shrinks_tail (by assumption)
    | with_reducible refine kept_mk rfl ?_ ?_ ?_ ?_ ?_ ?_ ?_ ?_ ?_ ?_ ?_

theorem kept_execWdtKick {s0 : State} {rq : Requester} {n : Nat} {s : State} (h : Kept s0 s) :
    KeptX s0 (execWdtKick rq n s) := by
  unfold execWdtKick
  repeat' first
    | with_reducible assumption
    | with_reducible rfl
    | with_reducible exact keptO_none _
    | with_reducible apply keptO_some
    | with_reducible apply keptX_attempt
    | with_reducible apply kept_restartCore
    | with_reducible apply kept_guardReg
    | dsimp only
    | with_reducible intro _
    | with_reducible apply keptO_ite
    | with_reducible apply kept_ite
    | with_reducible apply kept_ite_fst
    | with_reducible exact shrinks_refl
    | with_reducible exact keepWf_refl
    | exact keepWf_refl
    | exact shrinks_refl
    | with_reducible exact shrinks_tail (by assumption)
    | with_reducible refine kept_mk rfl ?_ ?_ ?_ ?_ ?_ ?_ ?_ ?_ ?_ ?_ ?_

theorem kept_execWdtExpire {s0 : State} {n : Nat} {s : State} (h : Kept s0 s) :
    KeptX s0 (execWdtExpire n s) := by
  unfold execWdtExpire
  repeat' first
    | with_reducible assumption
    | with_reducible exact keptO_none _
    | with_reducible apply keptO_some
    | with_reducible apply keptX_attempt
    | with_reducible apply kept_restartCore
    | dsimp only
    | with_reducible apply keptO_ite

theorem kept_execCoreError {s0 : State} {n : Nat} {s : State} (h : Kept s0 s) :
    KeptX s0 (execCoreError n s) := by
  unfold execCoreError
  repeat' first
    | with_reducible assumption
    | with_reducible exact keptO_none _
    | with_reducible apply keptO_some
    | with_reducible apply keptX_attempt
    | with_reducible apply kept_restartCore
    | dsimp only
    | with_reducible apply keptO_ite

theorem kept_execCoreTaskMoveDone {s0 : State} {n : Nat} {s : State} (h : Kept s0 s) :
    KeptX s0 (execCoreTaskMoveDone n s) := by
  unfold execCoreTaskMoveDone
  repeat' first
    | with_reducible assumption
    | with_reducible rfl
    | with_reducible exact keptO_none _
    | with_reducible apply keptO_some
    | with_reducible apply keptX_attempt
    | with_reducible apply kept_resumeFw
    | with_reducible apply kept_byCode
    | dsimp only
    | with_reducible apply keptO_ite
    | with_reducible apply kept_ite
    | with_reducible apply kept_ite_fst
    | with_reducible exact shrinks_refl
    | with_reducible exact keepWf_refl
    | with_reducible exact keepWf_filter
    | with_reducible exact shrinks_filter
    | exact keepWf_refl
    | exact shrinks_refl
    | with_reducible exact shrinks_tail (by assumption)
    | with_reducible refine kept_mk rfl ?_ ?_ ?_ ?_ ?_ ?_ ?_ ?_ ?_ ?_ ?_

theorem kept_execCoreRejoin {s0 : State} {n : Nat} {s : State} (h : Kept s0 s) :
    KeptX s0 (execCoreRejoin n s) := by
  unfold execCoreRejoin
  repeat' first
    | with_reducible assumption
    | with_reducible rfl
    | with_reducible exact keptO_none _
    | with_reducible apply keptO_some
    | with_reducible apply keptX_attempt
    | with_reducible apply kept_setFld
    | dsimp only
    | with_reducible apply keptO_ite
    | with_reducible apply kept_ite
    | with_reducible apply kept_ite_fst
    | with_reducible exact shrinks_refl
    | with_reducible exact keepWf_refl
    | exact keepWf_refl
    | exact shrinks_refl
    | with_reducible exact shrinks_tail (by assumption)
    | with_reducible refine kept_mk rfl ?_ ?_ ?_ ?_ ?_ ?_ ?_ ?_ ?_ ?_ ?_

theorem kept_fwWrite {s0 : State} {s : State} {a : Nat} {bs : List Byte} (h : Kept s0 s) :
    Kept s0 (State.fwWrite s a bs) := by
  unfold State.fwWrite
  repeat' first
    | with_reducible assumption
    | with_reducible apply kept_memAccess

theorem kept_fwRead {s0 : State} {s : State} {a : Nat} {n : Nat} (h : Kept s0 s) :
    Kept s0 (State.fwRead s a n).1 := by
  unfold State.fwRead
  repeat' first
    | with_reducible assumption
    | with_reducible apply kept_memAccess

theorem kept_parkDogs {s0 : State} {s : State} (h : Kept s0 s) :
    Kept s0 (State.parkDogs s) := by
  unfold State.parkDogs
  repeat' first
    | with_reducible assumption
    | with_reducible apply kept_setBit
    | dsimp only
    | with_reducible intro _
    | with_reducible apply kept_foldl

theorem kept_execUpdateStop {s0 : State} {body : List Byte} {s : State} (h : Kept s0 s) :
    KeptX s0 (execUpdateStop body s) := by
  unfold execUpdateStop
  repeat' first
    | with_reducible assumption
    | with_reducible rfl
    | with_reducible exact keptO_none _
    | with_reducible apply keptO_some
    | with_reducible apply keptX_attempt
    | with_reducible apply kept_parkDogs
    | with_reducible apply kept_fwWrite
    | with_reducible apply kept_stopAudits
    | with_reducible apply kept_setBit
    | dsimp only
    | with_reducible apply keptO_ite
    | with_reducible apply kept_ite
    | with_reducible apply kept_ite_fst
    | with_reducible exact shrinks_refl
    | with_reducible exact keepWf_refl
    | exact keepWf_refl
    | exact shrinks_refl
    | with_reducible exact shrinks_tail (by assumption)
    | with_reducible refine kept_mk rfl ?_ ?_ ?_ ?_ ?_ ?_ ?_ ?_ ?_ ?_ ?_

theorem kept_putParts {s0 : State} {s : State} {sec : List Byte} {ns : List Byte} (h : Kept s0 s) :
    Kept s0 (State.putParts s sec ns) := by
  unfold State.putParts
  repeat' first
    | with_reducible assumption
    | with_reducible apply kept_putSram

theorem kept_setEntry {s0 : State} {s : State} {off : Nat} (h : Kept s0 s) :
    Kept s0 (State.setEntry s off) := by
  unfold State.setEntry
  repeat' first
    | with_reducible assumption
    | with_reducible apply kept_setReg64

theorem kept_execUpdateRelease {s0 : State} {s : State} (h : Kept s0 s) :
    KeptX s0 (execUpdateRelease s) := by
  unfold execUpdateRelease
  repeat' first
    | with_reducible assumption
    | with_reducible rfl
    | with_reducible exact keptO_none _
    | with_reducible apply keptO_some
    | with_reducible apply keptX_attempt
    | with_reducible apply kept_setEntry
    | with_reducible apply kept_putParts
    | with_reducible apply kept_fwRead
    | dsimp only
    | with_reducible apply keptO_ite
    | with_reducible apply kept_ite
    | with_reducible apply kept_ite_fst
    | with_reducible exact shrinks_refl
    | with_reducible exact keepWf_refl
    | exact keepWf_refl
    | exact shrinks_refl
    | with_reducible exact shrinks_tail (by assumption)
    | with_reducible refine kept_mk rfl ?_ ?_ ?_ ?_ ?_ ?_ ?_ ?_ ?_ ?_ ?_

theorem kept_updateDone {s0 : State} {s : State} (h : Kept s0 s) :
    Kept s0 (State.updateDone s) := by
  unfold State.updateDone
  repeat' first
    | with_reducible assumption
    | with_reducible rfl
    | with_reducible apply kept_updateAnswer
    | with_reducible apply kept_mbxReject
    | with_reducible apply kept_resumeFw
    | with_reducible apply kept_addFld
    | with_reducible apply kept_setBit
    | with_reducible apply kept_raise
    | dsimp only
    | with_reducible exact shrinks_refl
    | with_reducible exact keepWf_refl
    | with_reducible exact shrinks_nil
    | exact keepWf_refl
    | exact shrinks_refl
    | with_reducible exact shrinks_tail (by assumption)
    | with_reducible refine kept_mk rfl ?_ ?_ ?_ ?_ ?_ ?_ ?_ ?_ ?_ ?_ ?_

theorem kept_execFwReportAccept {s0 : State} {rq : Requester} {s : State} (h : Kept s0 s) :
    KeptX s0 (execFwReportAccept rq s) := by
  unfold execFwReportAccept
  repeat' first
    | with_reducible assumption
    | with_reducible exact keptO_none _
    | with_reducible apply keptO_some
    | with_reducible apply keptX_attempt
    | with_reducible apply kept_updateDone
    | with_reducible apply kept_guardReg
    | with_reducible apply kept_byCode
    | dsimp only
    | with_reducible intro _
    | with_reducible apply keptO_ite
    | with_reducible apply kept_ite

theorem kept_execFwReportReject {s0 : State} {rq : Requester} {s : State} (h : Kept s0 s) :
    KeptX s0 (execFwReportReject rq s) := by
  unfold execFwReportReject
  repeat' first
    | with_reducible assumption
    | with_reducible rfl
    | with_reducible exact keptO_none _
    | with_reducible apply keptO_some
    | with_reducible apply keptX_attempt
    | with_reducible apply kept_guardReg
    | dsimp only
    | with_reducible intro _
    | with_reducible apply keptO_ite
    | with_reducible apply kept_ite
    | with_reducible apply kept_ite_fst
    | with_reducible exact shrinks_refl
    | with_reducible exact keepWf_refl
    | exact keepWf_refl
    | exact shrinks_refl
    | with_reducible exact shrinks_tail (by assumption)
    | with_reducible refine kept_mk rfl ?_ ?_ ?_ ?_ ?_ ?_ ?_ ?_ ?_ ?_ ?_

theorem kept_execUpdateReportTimeout {s0 : State} {s : State} (h : Kept s0 s) :
    KeptX s0 (execUpdateReportTimeout s) := by
  unfold execUpdateReportTimeout
  repeat' first
    | with_reducible assumption
    | with_reducible rfl
    | with_reducible exact keptO_none _
    | with_reducible apply keptO_some
    | with_reducible apply keptX_attempt
    | dsimp only
    | with_reducible apply keptO_ite
    | with_reducible apply kept_ite
    | with_reducible apply kept_ite_fst
    | with_reducible exact shrinks_refl
    | with_reducible exact keepWf_refl
    | exact keepWf_refl
    | exact shrinks_refl
    | with_reducible exact shrinks_tail (by assumption)
    | with_reducible refine kept_mk rfl ?_ ?_ ?_ ?_ ?_ ?_ ?_ ?_ ?_ ?_ ?_

theorem kept_execUpdateFallback {s0 : State} {s : State} (h : Kept s0 s) :
    KeptX s0 (execUpdateFallback s) := by
  unfold execUpdateFallback
  repeat' first
    | with_reducible assumption
    | with_reducible rfl
    | with_reducible exact keptO_none _
    | with_reducible apply keptO_some
    | with_reducible apply keptX_attempt
    | with_reducible apply kept_setEntry
    | with_reducible apply kept_putParts
    | with_reducible apply kept_fwRead
    | with_reducible apply kept_updateAnswer
    | with_reducible apply kept_mbxReject
    | with_reducible apply kept_resumeFw
    | with_reducible apply kept_byCode
    | with_reducible apply kept_setBit
    | with_reducible apply kept_raise
    | dsimp only
    | with_reducible apply keptO_ite
    | with_reducible apply kept_ite
    | with_reducible apply kept_ite_fst
    | split
    | with_reducible exact shrinks_refl
    | with_reducible exact keepWf_refl
    | with_reducible exact shrinks_nil
    | exact keepWf_refl
    | exact shrinks_refl
    | with_reducible exact shrinks_tail (by assumption)
    | with_reducible refine kept_mk rfl ?_ ?_ ?_ ?_ ?_ ?_ ?_ ?_ ?_ ?_ ?_

theorem kept_execEvtRingEnable {s0 : State} {v : B32} {cons : Option B32} {s : State} (h : Kept s0 s) :
    KeptX s0 (execEvtRingEnable v cons s) := by
  unfold execEvtRingEnable
  repeat' first
    | with_reducible assumption
    | with_reducible rfl
    | with_reducible exact keptO_none _
    | with_reducible apply keptO_some
    | with_reducible apply keptX_attempt
    | with_reducible apply kept_evtLoad
    | with_reducible apply kept_setFld
    | dsimp only
    | with_reducible apply keptO_ite
    | with_reducible apply kept_ite
    | with_reducible exact shrinks_refl
    | with_reducible exact keepWf_refl
    | exact keepWf_refl
    | exact shrinks_refl
    | with_reducible exact shrinks_tail (by assumption)
    | with_reducible refine kept_mk rfl ?_ ?_ ?_ ?_ ?_ ?_ ?_ ?_ ?_ ?_ ?_

theorem kept_evtWrite {s0 : State} {s : State} {v : B32} (h : Kept s0 s) :
    Kept s0 (State.evtWrite s v) := by
  unfold State.evtWrite
  repeat' first
    | with_reducible assumption
    | with_reducible rfl
    | with_reducible apply kept_evtLoad
    | with_reducible apply kept_setFld
    | dsimp only
    | with_reducible apply kept_ite
    | with_reducible apply kept_ite_fst
    | with_reducible exact shrinks_refl
    | with_reducible exact keepWf_refl
    | exact keepWf_refl
    | exact shrinks_refl
    | with_reducible exact shrinks_tail (by assumption)
    | with_reducible refine kept_mk rfl ?_ ?_ ?_ ?_ ?_ ?_ ?_ ?_ ?_ ?_ ?_

theorem kept_evtModerate {s0 : State} {s : State} (h : Kept s0 s) :
    Kept s0 (State.evtModerate s) := by
  unfold State.evtModerate
  repeat' first
    | with_reducible assumption
    | with_reducible rfl
    | with_reducible apply kept_sendMsix
    | dsimp only
    | with_reducible apply kept_ite
    | with_reducible apply kept_ite_fst
    | with_reducible exact shrinks_refl
    | with_reducible exact keepWf_refl
    | exact keepWf_refl
    | exact shrinks_refl
    | with_reducible exact shrinks_tail (by assumption)
    | with_reducible refine kept_mk rfl ?_ ?_ ?_ ?_ ?_ ?_ ?_ ?_ ?_ ?_ ?_

theorem kept_evtStore {s0 : State} {s : State} {e : Event} (h : Kept s0 s) :
    Kept s0 (State.evtStore s e) := by
  unfold State.evtStore
  repeat' first
    | with_reducible assumption
    | with_reducible rfl
    | with_reducible apply kept_evtModerate
    | with_reducible apply kept_postWord
    | with_reducible apply kept_postHost
    | dsimp only
    | with_reducible exact shrinks_refl
    | with_reducible exact keepWf_refl
    | exact keepWf_refl
    | exact shrinks_refl
    | with_reducible exact shrinks_tail (by assumption)
    | with_reducible refine kept_mk rfl ?_ ?_ ?_ ?_ ?_ ?_ ?_ ?_ ?_ ?_ ?_

theorem kept_execEventWrite {s0 : State} {s : State} (h : Kept s0 s) :
    KeptX s0 (execEventWrite s) := by
  unfold execEventWrite
  repeat' first
    | with_reducible assumption
    | with_reducible rfl
    | with_reducible exact keptO_none _
    | with_reducible apply keptO_some
    | with_reducible apply keptX_attempt
    | with_reducible apply kept_evtStore
    | with_reducible apply kept_sendCtrl
    | dsimp only
    | with_reducible apply keptO_ite
    | with_reducible apply kept_ite
    | with_reducible apply kept_ite_fst
    | split
    | with_reducible exact shrinks_refl
    | with_reducible exact keepWf_refl
    | with_reducible exact shrinks_nil
    | exact keepWf_refl
    | exact shrinks_refl
    | with_reducible exact shrinks_tail (by assumption)
    | with_reducible refine kept_mk rfl ?_ ?_ ?_ ?_ ?_ ?_ ?_ ?_ ?_ ?_ ?_

theorem kept_norProgram {s0 s : State} {f : Nat} {bs : List Byte} (h : Kept s0 s) : Kept s0 (s.norProgram f bs) := by
  have hw : ∀ (l : List Nat) (m : Memory), SMap.wf Memory.erased m = true → SMap.wf Memory.erased
      (l.foldl (fun (m : Memory) i =>
        SMap.set Memory.erased m (f + i) (SMap.get Memory.erased m (f + i) &&& (bs[i]?.getD 0xFF))) m) = true := by
    intro l
    induction l with
    | nil => exact fun m hm => hm
    | cons i l ih => exact fun m hm => ih _ (SMap.wf_set _ _ _ _ hm)
  exact kept_mk rfl h rfl shrinks_refl shrinks_refl shrinks_refl shrinks_refl keepWf_refl keepWf_refl keepWf_refl
    ⟨hw _ _⟩ keepWf_refl

theorem kept_norErase {s0 : State} {s : State} {f : Nat} {n : Nat} (h : Kept s0 s) :
    Kept s0 (State.norErase s f n) := by
  unfold State.norErase
  repeat' first
    | with_reducible assumption
    | with_reducible rfl
    | dsimp only
    | with_reducible exact shrinks_refl
    | with_reducible exact keepWf_refl
    | with_reducible exact keepWf_filter
    | with_reducible exact shrinks_filter
    | exact keepWf_refl
    | exact shrinks_refl
    | with_reducible exact shrinks_tail (by assumption)
    | with_reducible refine kept_mk rfl ?_ ?_ ?_ ?_ ?_ ?_ ?_ ?_ ?_ ?_ ?_

theorem kept_promote {s0 : State} {s : State} (h : Kept s0 s) :
    Kept s0 (State.promote s) := by
  unfold State.promote
  repeat' first
    | with_reducible assumption
    | with_reducible apply kept_norErase
    | with_reducible apply kept_norProgram
    | with_reducible apply kept_raiseArv
    | with_reducible apply kept_raise
    | dsimp only
    | with_reducible apply kept_ite

theorem kept_execCleanServiceExpire {s0 : State} {s : State} (h : Kept s0 s) :
    KeptX s0 (execCleanServiceExpire s) := by
  unfold execCleanServiceExpire
  repeat' first
    | with_reducible assumption
    | with_reducible exact keptO_none _
    | with_reducible apply keptO_some
    | with_reducible apply keptX_attempt
    | with_reducible apply kept_promote
    | dsimp only
    | with_reducible apply keptO_ite

/-! ## Power -/

theorem kept_setSkips {s0 : State} {s : State} {sp : Nat} {st : Nat} (h : Kept s0 s) :
    Kept s0 (State.setSkips s sp st) := by
  unfold State.setSkips
  repeat' first
    | with_reducible assumption
    | with_reducible apply kept_setBit
    | with_reducible apply kept_setFld

theorem kept_pollRail {s0 : State} {s : State} {k : Nat} {x : Option PmbusRead × Option PmbusRead} (h : Kept s0 s) :
    Kept s0 (State.pollRail s k x).1 := by
  unfold State.pollRail
  repeat' first
    | with_reducible assumption
    | with_reducible apply kept_setRail
    | with_reducible apply kept_setBit
    | with_reducible apply kept_raise
    | dsimp only
    | with_reducible apply kept_ite
    | with_reducible apply kept_ite_fst
    | split

theorem kept_pollRails {s0 : State} {s : State} {xs : List (Option PmbusRead × Option PmbusRead)} (h : Kept s0 s) :
    Kept s0 (State.pollRails s xs).1 := by
  unfold State.pollRails
  repeat' first
    | with_reducible assumption
    | with_reducible apply kept_pollRail
    | with_reducible apply kept_setReg
    | dsimp only
    | with_reducible intro _
    | with_reducible apply kept_foldl
    | with_reducible apply kept_foldl_fst

theorem kept_capEvent {s0 : State} {s : State} {code : BitVec 16} (h : Kept s0 s) :
    Kept s0 (State.capEvent s code) := by
  unfold State.capEvent
  repeat' first
    | with_reducible assumption
    | with_reducible apply kept_raise

theorem kept_moveSkipP {s0 : State} {s : State} {new : Nat} (h : Kept s0 s) :
    Kept s0 (State.moveSkipP s new) := by
  unfold State.moveSkipP
  repeat' first
    | with_reducible assumption
    | with_reducible apply kept_capEvent
    | with_reducible apply kept_setSkips
    | dsimp only
    | with_reducible apply kept_ite

theorem kept_capDecide {s0 : State} {s : State} {p : Int} (h : Kept s0 s) :
    Kept s0 (State.capDecide s p) := by
  unfold State.capDecide
  repeat' first
    | with_reducible assumption
    | with_reducible apply kept_moveSkipP
    | dsimp only
    | with_reducible apply kept_ite

theorem kept_execPmbusPoll {s0 s : State} {xs : List (Option PmbusRead × Option PmbusRead)} (h : Kept s0 s) :
    KeptX s0 (execPmbusPoll xs s) := by
  unfold execPmbusPoll
  refine keptX_attempt h ?_
  split
  · refine keptO_some ?_
    split
    · exact kept_moveSkipP h
    · have h1 := kept_pollRails (xs := xs) h
      have h2 : Kept s0 { (s.pollRails xs).1 with power := { (s.pollRails xs).1.power with
          samples := ((s.pollRails xs).2 :: (s.pollRails xs).1.power.samples).take 10000, bus := s.pmbusRound xs } } :=
        h1.trans ⟨rfl, ⟨rfl, BitVec.and_self⟩, fun i =>
          ⟨i.events, i.reports, i.held, List.length_take_le _ _, i.hbm, i.rcv, i.sram, i.nor, i.regs⟩⟩
      exact kept_capDecide (kept_setReg (kept_setReg64 (kept_setReg h2)))
  · exact keptO_none _

theorem kept_execDroopDetect {s0 : State} {x : DroopSample} {s : State} (h : Kept s0 s) :
    KeptX s0 (execDroopDetect x s) := by
  unfold execDroopDetect
  repeat' first
    | with_reducible assumption
    | with_reducible exact keptO_none _
    | with_reducible apply keptO_some
    | with_reducible apply keptX_attempt
    | with_reducible apply kept_setDie
    | with_reducible apply kept_addSat
    | dsimp only
    | with_reducible apply keptO_ite

theorem kept_execDroopStretchEnd {s0 : State} {d : Nat} {s : State} (h : Kept s0 s) :
    KeptX s0 (execDroopStretchEnd d s) := by
  unfold execDroopStretchEnd
  repeat' first
    | with_reducible assumption
    | with_reducible exact keptO_none _
    | with_reducible apply keptO_some
    | with_reducible apply keptX_attempt
    | with_reducible apply kept_setDie
    | dsimp only
    | with_reducible apply keptO_ite

theorem kept_thermTrip {s0 : State} {s : State} (h : Kept s0 s) :
    Kept s0 (State.thermTrip s) := by
  unfold State.thermTrip
  repeat' first
    | with_reducible assumption
    | with_reducible rfl
    | dsimp only
    | with_reducible exact shrinks_refl
    | with_reducible exact keepWf_refl
    | exact keepWf_refl
    | exact shrinks_refl
    | with_reducible exact shrinks_tail (by assumption)
    | with_reducible refine kept_mk rfl ?_ ?_ ?_ ?_ ?_ ?_ ?_ ?_ ?_ ?_ ?_

theorem kept_execSensorConvert {s0 : State} {i : Nat} {mdegc : Int} {s : State} (h : Kept s0 s) :
    KeptX s0 (execSensorConvert i mdegc s) := by
  unfold execSensorConvert
  repeat' first
    | with_reducible assumption
    | with_reducible exact keptO_none _
    | with_reducible apply keptO_some
    | with_reducible apply keptX_attempt
    | with_reducible apply kept_thermTrip
    | with_reducible apply kept_setSensor
    | dsimp only
    | with_reducible apply keptO_ite
    | with_reducible apply kept_ite

theorem kept_dropSensor {s0 : State} {s : State} {i : Nat} (h : Kept s0 s) :
    Kept s0 (State.dropSensor s i) := by
  unfold State.dropSensor
  repeat' first
    | with_reducible assumption
    | with_reducible apply kept_exhaust
    | with_reducible apply kept_setBit
    | with_reducible apply kept_fault

theorem kept_pairCheck {s0 : State} {s : State} {p : Nat} (h : Kept s0 s) :
    Kept s0 (State.pairCheck s p) := by
  unfold State.pairCheck
  repeat' first
    | with_reducible assumption
    | with_reducible apply kept_setSensor

theorem kept_thermalDecide {s0 : State} {s : State} {p : Nat} {t : Int} (h : Kept s0 s) :
    Kept s0 (State.thermalDecide s p t) := by
  unfold State.thermalDecide
  repeat' first
    | with_reducible assumption
    | with_reducible rfl
    | with_reducible apply kept_setSkips
    | with_reducible apply kept_setReg
    | with_reducible apply kept_raise
    | dsimp only
    | with_reducible apply kept_ite
    | with_reducible apply kept_ite_fst
    | with_reducible exact shrinks_refl
    | with_reducible exact keepWf_refl
    | with_reducible exact shrinks_nil
    | exact keepWf_refl
    | exact shrinks_refl
    | with_reducible exact shrinks_tail (by assumption)
    | with_reducible refine kept_mk rfl ?_ ?_ ?_ ?_ ?_ ?_ ?_ ?_ ?_ ?_ ?_

theorem kept_execThermalSample {s0 : State} {s : State} (h : Kept s0 s) :
    KeptX s0 (execThermalSample s) := by
  unfold execThermalSample
  repeat' first
    | with_reducible assumption
    | with_reducible exact keptO_none _
    | with_reducible apply keptO_some
    | with_reducible apply keptX_attempt
    | with_reducible apply kept_thermalDecide
    | with_reducible apply kept_pairCheck
    | with_reducible apply kept_dropSensor
    | with_reducible apply kept_setReg
    | dsimp only
    | with_reducible intro _
    | with_reducible apply kept_foldl
    | with_reducible apply kept_foldl_fst
    | with_reducible apply keptO_ite
    | with_reducible apply kept_ite
    | with_reducible apply kept_ite_fst
    | split

theorem kept_execPhyPllLoss {s0 : State} {phy : Phy} {s : State} (h : Kept s0 s) :
    KeptX s0 (execPhyPllLoss phy s) := by
  unfold execPhyPllLoss
  repeat' first
    | with_reducible assumption
    | with_reducible exact keptO_none _
    | with_reducible apply keptO_some
    | with_reducible apply keptX_attempt
    | with_reducible apply kept_portDown
    | with_reducible apply kept_linkDown
    | with_reducible apply kept_setBit
    | dsimp only
    | with_reducible apply keptO_ite
    | with_reducible apply kept_ite
    | with_reducible apply kept_ite_fst
    | split

/-! ## Regs -/

theorem kept_setLatch {s0 : State} {s : State} {k : Nat} {v : Option B32} (h : Kept s0 s) :
    Kept s0 (State.setLatch s k v) := by
  unfold State.setLatch
  repeat' first
    | with_reducible assumption
    | with_reducible rfl
    | dsimp only
    | with_reducible exact shrinks_refl
    | with_reducible exact keepWf_refl
    | exact keepWf_refl
    | exact shrinks_refl
    | with_reducible exact shrinks_tail (by assumption)
    | with_reducible refine kept_mk rfl ?_ ?_ ?_ ?_ ?_ ?_ ?_ ?_ ?_ ?_ ?_

theorem kept_readReg {s0 : State} {s : State} {rq : Requester} {key : Nat} (h : Kept s0 s) :
    Kept s0 (State.readReg s rq key).1 := by
  unfold State.readReg
  repeat' first
    | with_reducible assumption
    | with_reducible rfl
    | with_reducible apply kept_setLatch
    | with_reducible apply kept_trkRead
    | dsimp only
    | with_reducible apply kept_ite
    | with_reducible apply kept_ite_fst
    | split
    | with_reducible exact shrinks_refl
    | with_reducible exact keepWf_refl
    | exact keepWf_refl
    | exact shrinks_refl
    | with_reducible exact shrinks_tail (by assumption)
    | with_reducible refine kept_mk rfl ?_ ?_ ?_ ?_ ?_ ?_ ?_ ?_ ?_ ?_ ?_

theorem kept_regRead {s0 : State} {s : State} {rq : Requester} {key : Nat} (h : Kept s0 s) :
    Kept s0 (State.regRead s rq key).1 := by
  unfold State.regRead
  repeat' first
    | with_reducible assumption
    | with_reducible apply kept_readReg
    | with_reducible apply kept_refuseReg
    | dsimp only
    | with_reducible apply kept_ite
    | with_reducible apply kept_ite_fst

theorem kept_execLoReadLatch {s0 : State} {rq : Requester} {key : Nat} {s : State} (h : Kept s0 s) :
    KeptX s0 (execLoReadLatch rq key s) := by
  unfold execLoReadLatch
  repeat' first
    | with_reducible assumption
    | with_reducible rfl
    | with_reducible exact keptO_none _
    | with_reducible apply keptO_some
    | with_reducible apply keptX_attempt
    | with_reducible apply kept_regRead
    | dsimp only
    | with_reducible apply keptO_ite
    | with_reducible apply kept_ite
    | with_reducible apply kept_ite_fst
    | with_reducible exact shrinks_refl
    | with_reducible exact keepWf_refl
    | exact keepWf_refl
    | exact shrinks_refl
    | with_reducible exact shrinks_tail (by assumption)
    | with_reducible refine kept_mk rfl ?_ ?_ ?_ ?_ ?_ ?_ ?_ ?_ ?_ ?_ ?_

theorem kept_execHiRead {s0 : State} {rq : Requester} {key : Nat} {s : State} (h : Kept s0 s) :
    KeptX s0 (execHiRead rq key s) := by
  unfold execHiRead
  repeat' first
    | with_reducible assumption
    | with_reducible rfl
    | with_reducible exact keptO_none _
    | with_reducible apply keptO_some
    | with_reducible apply keptX_attempt
    | with_reducible apply kept_regRead
    | dsimp only
    | with_reducible apply keptO_ite
    | with_reducible apply kept_ite
    | with_reducible apply kept_ite_fst
    | with_reducible exact shrinks_refl
    | with_reducible exact keepWf_refl
    | exact keepWf_refl
    | exact shrinks_refl
    | with_reducible exact shrinks_tail (by assumption)
    | with_reducible refine kept_mk rfl ?_ ?_ ?_ ?_ ?_ ?_ ?_ ?_ ?_ ?_ ?_

theorem kept_ran {s0 s : State} {o : Out} (h : Kept s0 s) (ho : KeptX s0 o) : Kept s0 (ran o s) := by
  cases o with
  | next t => exact ho.out t rfl
  | fault _ => exact h
  | refused _ => exact h

theorem kept_plainWrite {s0 : State} {s : State} {key : Nat} {v : B32} (h : Kept s0 s) :
    Kept s0 (State.plainWrite s key v) := by
  unfold State.plainWrite
  repeat' first
    | with_reducible assumption
    | with_reducible apply kept_setReg
    | dsimp only
    | split

theorem kept_rangeFld {s0 : State} {s : State} {key : Nat} {lo : Nat} {w : Nat} {minV : Nat} {maxV : Nat} {v : Nat} (h : Kept s0 s) :
    Kept s0 (State.rangeFld s key lo w minV maxV v) := by
  unfold State.rangeFld
  repeat' first
    | with_reducible assumption
    | with_reducible apply kept_setFld
    | dsimp only
    | with_reducible apply kept_ite

theorem kept_writeHst {s0 : State} {s : State} {off : Nat} {v : B32} (h : Kept s0 s) :
    Kept s0 (State.writeHst s off v) := by
  unfold State.writeHst
  repeat' first
    | with_reducible assumption
    | with_reducible rfl
    | with_reducible apply kept_rangeFld
    | with_reducible apply kept_plainWrite
    | with_reducible apply kept_attach
    | with_reducible apply kept_enterAbsent
    | with_reducible apply kept_setBit
    | dsimp only
    | with_reducible apply kept_ite
    | with_reducible apply kept_ite_fst
    | with_reducible exact shrinks_refl
    | with_reducible exact keepWf_refl
    | exact keepWf_refl
    | exact shrinks_refl
    | with_reducible exact shrinks_tail (by assumption)
    | with_reducible refine kept_mk rfl ?_ ?_ ?_ ?_ ?_ ?_ ?_ ?_ ?_ ?_ ?_

theorem kept_writePwr {s0 : State} {s : State} {off : Nat} {v : B32} (h : Kept s0 s) :
    Kept s0 (State.writePwr s off v) := by
  unfold State.writePwr
  repeat' first
    | with_reducible assumption
    | with_reducible apply kept_rangeFld
    | with_reducible apply kept_plainWrite
    | dsimp only
    | with_reducible apply kept_ite

theorem kept_writeTrs {s0 : State} {s : State} {rq : Requester} {off : Nat} {v : B32} (h : Kept s0 s) :
    Kept s0 (State.writeTrs s rq off v) := by
  unfold State.writeTrs
  repeat' first
    | with_reducible assumption
    | with_reducible apply kept_plainWrite
    | with_reducible apply kept_ran
    | with_reducible apply kept_execFolioVerify
    | with_reducible apply kept_execReleaseGo
    | with_reducible apply kept_execArvRaise
    | with_reducible apply kept_execScrLockSet
    | with_reducible apply kept_execKeyLockSet
    | dsimp only
    | with_reducible apply kept_ite

theorem kept_writeChk {s0 : State} {s : State} {rq : Requester} {key : Nat} {v : B32} (h : Kept s0 s) :
    Kept s0 (State.writeChk s rq key v) := by
  unfold State.writeChk
  repeat' first
    | with_reducible assumption
    | with_reducible apply kept_plainWrite
    | with_reducible refine KeptO.out (kept_chkCommand ?_) _ (by with_reducible assumption)
    | with_reducible apply kept_setCrc
    | with_reducible apply kept_setBit
    | dsimp only
    | with_reducible apply kept_ite
    | with_reducible apply kept_ite_fst
    | split

theorem kept_writeBlt {s0 : State} {s : State} {rq : Requester} {off : Nat} {v : B32} (h : Kept s0 s) :
    Kept s0 (State.writeBlt s rq off v) := by
  unfold State.writeBlt
  repeat' first
    | with_reducible assumption
    | with_reducible apply kept_plainWrite
    | with_reducible apply kept_ran
    | with_reducible apply kept_execFaultAckWrite
    | with_reducible apply kept_execAliveWrite
    | dsimp only
    | with_reducible apply kept_ite

theorem kept_writeLnk {s0 : State} {s : State} {rq : Requester} {p : Nat} {off : Nat} {v : B32} (h : Kept s0 s) :
    Kept s0 (State.writeLnk s rq p off v) := by
  unfold State.writeLnk
  repeat' first
    | with_reducible assumption
    | with_reducible apply kept_plainWrite
    | with_reducible apply kept_ran
    | with_reducible apply kept_execLnkRetrain
    | with_reducible apply kept_execLnkEnable
    | with_reducible apply kept_setFld
    | dsimp only
    | with_reducible apply kept_ite

theorem kept_writeMem {s0 : State} {s : State} {rq : Requester} {off : Nat} {v : B32} (h : Kept s0 s) :
    Kept s0 (State.writeMem s rq off v) := by
  unfold State.writeMem
  repeat' first
    | with_reducible assumption
    | with_reducible apply kept_plainWrite
    | with_reducible apply kept_ran
    | with_reducible apply kept_execRsvPinWrite
    | with_reducible apply kept_execRgnWrite
    | with_reducible apply kept_execRetAddGo
    | with_reducible apply kept_setFld
    | dsimp only
    | with_reducible apply kept_ite
    | with_reducible apply kept_ite_fst
    | split

theorem kept_writeCam {s0 : State} {s : State} {rq : Requester} {off : Nat} {v : B32} (h : Kept s0 s) :
    Kept s0 (State.writeCam s rq off v) := by
  unfold State.writeCam
  repeat' first
    | with_reducible assumption
    | with_reducible rfl
    | with_reducible apply kept_plainWrite
    | with_reducible apply kept_ran
    | with_reducible apply kept_execOffsetGo
    | with_reducible apply kept_setFld
    | dsimp only
    | with_reducible apply kept_ite
    | with_reducible apply kept_ite_fst
    | with_reducible exact shrinks_refl
    | with_reducible exact keepWf_refl
    | exact keepWf_refl
    | exact shrinks_refl
    | with_reducible exact shrinks_tail (by assumption)
    | with_reducible refine kept_mk rfl ?_ ?_ ?_ ?_ ?_ ?_ ?_ ?_ ?_ ?_ ?_

theorem kept_writeIrs {s0 : State} {s : State} {rq : Requester} {off : Nat} {v : B32} (h : Kept s0 s) :
    Kept s0 (State.writeIrs s rq off v) := by
  unfold State.writeIrs
  repeat' first
    | with_reducible assumption
    | with_reducible apply kept_plainWrite
    | with_reducible apply kept_ran
    | with_reducible apply kept_execIrsBankWrite
    | dsimp only
    | with_reducible apply kept_ite

theorem kept_writeVid {s0 : State} {s : State} {rq : Requester} {off : Nat} {v : B32} (h : Kept s0 s) :
    Kept s0 (State.writeVid s rq off v) := by
  unfold State.writeVid
  repeat' first
    | with_reducible assumption
    | with_reducible apply kept_plainWrite
    | with_reducible apply kept_ran
    | with_reducible apply kept_execEncRdWrite
    | dsimp only
    | with_reducible apply kept_ite

theorem kept_writeAst {s0 : State} {s : State} {rq : Requester} {off : Nat} {v : B32} (h : Kept s0 s) :
    Kept s0 (State.writeAst s rq off v) := by
  unfold State.writeAst
  repeat' first
    | with_reducible assumption
    | with_reducible apply kept_plainWrite
    | with_reducible apply kept_ran
    | with_reducible apply kept_execAstCntClear
    | dsimp only
    | with_reducible apply kept_ite

theorem kept_writeWdt {s0 : State} {s : State} {n : Nat} {v : B32} (h : Kept s0 s) :
    Kept s0 (State.writeWdt s n v) := by
  unfold State.writeWdt
  repeat' first
    | with_reducible assumption
    | with_reducible rfl
    | with_reducible apply kept_rangeFld
    | with_reducible apply kept_setBit
    | dsimp only
    | with_reducible apply kept_ite
    | with_reducible apply kept_ite_fst
    | with_reducible exact shrinks_refl
    | with_reducible exact keepWf_refl
    | exact keepWf_refl
    | exact shrinks_refl
    | with_reducible exact shrinks_tail (by assumption)
    | with_reducible refine kept_mk rfl ?_ ?_ ?_ ?_ ?_ ?_ ?_ ?_ ?_ ?_ ?_

theorem kept_writeQcx {s0 : State} {s : State} {rq : Requester} {off : Nat} {v : B32} (h : Kept s0 s) :
    Kept s0 (State.writeQcx s rq off v) := by
  unfold State.writeQcx
  repeat' first
    | with_reducible assumption
    | with_reducible apply kept_writeWdt
    | with_reducible apply kept_plainWrite
    | with_reducible apply kept_ran
    | with_reducible apply kept_evtWrite
    | with_reducible apply kept_execFwReportReject
    | with_reducible apply kept_execFwReportAccept
    | with_reducible apply kept_execWdtKick
    | with_reducible apply kept_mbxReject
    | with_reducible apply kept_setBit
    | dsimp only
    | with_reducible apply kept_ite
    | with_reducible apply kept_ite_fst
    | split

theorem kept_writePwrOn {s0 : State} {s : State} {rq : Requester} {t : Nat} {v : B32} (h : Kept s0 s) :
    Kept s0 (State.writePwrOn s rq t v) := by
  unfold State.writePwrOn
  repeat' first
    | with_reducible assumption
    | with_reducible apply kept_ran
    | with_reducible apply kept_execInkSlicePowerOff
    | with_reducible apply kept_execInkSlicePowerUp
    | dsimp only
    | with_reducible intro _
    | with_reducible apply kept_foldl
    | with_reducible apply kept_foldl_fst
    | with_reducible apply kept_ite

theorem kept_writeSat {s0 : State} {s : State} {rq : Requester} {t : Nat} {v : B32} (h : Kept s0 s) :
    Kept s0 (State.writeSat s rq t v) := by
  unfold State.writeSat
  repeat' first
    | with_reducible assumption
    | with_reducible apply kept_ran
    | with_reducible apply kept_execSatClear
    | with_reducible apply kept_execSatEnable
    | with_reducible apply kept_satRoll
    | with_reducible apply kept_setBit
    | dsimp only
    | with_reducible intro _
    | with_reducible apply kept_foldl
    | with_reducible apply kept_foldl_fst
    | with_reducible apply kept_ite

theorem kept_writeTil {s0 : State} {s : State} {rq : Requester} {t : Nat} {off : Nat} {v : B32} (h : Kept s0 s) :
    Kept s0 (State.writeTil s rq t off v) := by
  unfold State.writeTil
  repeat' first
    | with_reducible assumption
    | with_reducible apply kept_writeSat
    | with_reducible apply kept_writePwrOn
    | with_reducible apply kept_plainWrite
    | with_reducible apply kept_ran
    | with_reducible apply kept_execBookSnap
    | with_reducible apply kept_execNibCntClear
    | with_reducible apply kept_nibMemWrite
    | with_reducible apply kept_execInkCntClear
    | with_reducible apply kept_execInkRemapWrite
    | with_reducible apply kept_satRolls
    | with_reducible apply kept_execArrCntClear
    | with_reducible apply kept_execArrSkipWrite
    | dsimp only
    | with_reducible apply kept_ite

theorem kept_writeIrCfg {s0 : State} {s : State} {i : Nat} {v : B32} (h : Kept s0 s) :
    Kept s0 (State.writeIrCfg s i v) := by
  unfold State.writeIrCfg
  repeat' first
    | with_reducible assumption
    | with_reducible apply kept_ran
    | with_reducible apply kept_execIrDisable
    | with_reducible apply kept_irStart
    | with_reducible apply kept_setIring
    | with_reducible apply kept_setReg
    | dsimp only
    | with_reducible apply kept_ite

theorem kept_writeRrCfg {s0 : State} {s : State} {j : Nat} {v : B32} (h : Kept s0 s) :
    Kept s0 (State.writeRrCfg s j v) := by
  unfold State.writeRrCfg
  repeat' first
    | with_reducible assumption
    | with_reducible apply kept_ran
    | with_reducible apply kept_execRrDisable
    | with_reducible apply kept_rrStart
    | with_reducible apply kept_setRring
    | with_reducible apply kept_setReg
    | dsimp only
    | with_reducible apply kept_ite

theorem kept_writeRing {s0 : State} {s : State} {off : Nat} {v : B32} (h : Kept s0 s) :
    Kept s0 (State.writeRing s off v) := by
  unfold State.writeRing
  repeat' first
    | with_reducible assumption
    | with_reducible apply kept_writeRrCfg
    | with_reducible apply kept_writeIrCfg
    | with_reducible apply kept_plainWrite
    | with_reducible apply kept_ran
    | with_reducible apply kept_execBufEntryWrite
    | with_reducible apply kept_execMsixUnmask
    | dsimp only
    | with_reducible apply kept_ite

theorem kept_writeReg {s0 : State} {s : State} {rq : Requester} {key : Nat} {v : B32} (h : Kept s0 s) :
    Kept s0 (State.writeReg s rq key v) := by
  unfold State.writeReg
  repeat' first
    | with_reducible assumption
    | with_reducible apply kept_writeRing
    | with_reducible apply kept_writeTil
    | with_reducible apply kept_writeQcx
    | with_reducible apply kept_writeAst
    | with_reducible apply kept_writeVid
    | with_reducible apply kept_writeIrs
    | with_reducible apply kept_writeCam
    | with_reducible apply kept_writeMem
    | with_reducible apply kept_writeLnk
    | with_reducible apply kept_writeBlt
    | with_reducible apply kept_writeChk
    | with_reducible apply kept_writeTrs
    | with_reducible apply kept_writePwr
    | with_reducible apply kept_writeHst
    | with_reducible apply kept_plainWrite
    | with_reducible apply kept_ran
    | with_reducible apply kept_execSpcCntClear
    | with_reducible apply kept_execStmCntClear
    | dsimp only
    | with_reducible apply kept_ite
    | with_reducible apply kept_ite_fst
    | split

theorem kept_regWrite {s0 : State} {s : State} {rq : Requester} {key : Nat} {v : B32} (h : Kept s0 s) :
    Kept s0 (State.regWrite s rq key v) := by
  unfold State.regWrite
  repeat' first
    | with_reducible assumption
    | with_reducible apply kept_writeReg
    | with_reducible apply kept_guardReg
    | dsimp only
    | with_reducible intro _
    | with_reducible apply kept_ite

theorem kept_execRegisterWrite {s0 : State} {rq : Requester} {key : Nat} {v : B32} {s : State} (h : Kept s0 s) :
    KeptX s0 (execRegisterWrite rq key v s) := by
  unfold execRegisterWrite
  repeat' first
    | with_reducible assumption
    | with_reducible exact keptO_none _
    | with_reducible apply keptO_some
    | with_reducible apply keptX_attempt
    | with_reducible apply kept_regWrite
    | dsimp only
    | with_reducible apply keptO_ite

theorem kept_readWords {s0 : State} {s : State} {rq : Requester} {a2 : List Nat} (h : Kept s0 s) :
    Kept s0 (State.readWords s rq a2).1 := by
  induction a2 generalizing s rq with
  | nil =>
    unfold State.readWords
    repeat' first
      | with_reducible assumption
  | cons x l ih =>
    unfold State.readWords
    repeat' first
      | with_reducible apply ih
      | with_reducible assumption
      | with_reducible apply kept_regRead

theorem kept_writeWord {s0 : State} {s : State} {rq : Requester} {key : Nat} {off : Nat} {data : List Byte} (h : Kept s0 s) :
    Kept s0 (State.writeWord s rq key off data) := by
  unfold State.writeWord
  repeat' first
    | with_reducible assumption
    | with_reducible apply kept_regWrite

theorem kept_regAccess {s0 s : State} {a : Access} (h : Kept s0 s) : Kept s0 (s.regAccess a).1 := by
  unfold State.regAccess
  generalize a.addr - ctlBase = off
  dsimp only
  generalize keysOf off (accessSize a) = ks
  split
  · exact kept_refuseReg h
  · split
    · exact kept_pair (kept_foldl _ (fun t k ht => kept_writeWord ht) h)
    · exact kept_pair (kept_readWords h)

theorem kept_crossRefused {s0 s : State} {a : Access} {word : Option Nat} {rest : Option (Nat × Verdict)}
    (h : Kept s0 s) : KeptO s0 ((s.crossRefused a word rest).map Prod.fst) := by
  cases word with
  | none =>
    cases rest with
    | none => exact keptO_noneFst s0
    | some x => exact keptO_pair (kept_violation h)
  | some k =>
    cases rest with
    | none => exact keptO_pair (kept_refuseReg h)
    | some x => exact keptO_pair (kept_ite_fst (kept_violation h) (kept_refuseReg h))

theorem kept_readBefore {s0 : State} {front : List Byte} {q : State × Nat × List Byte} (h : Kept s0 q.1) :
    Kept s0 (readBefore front q).1 := h

theorem kept_crossParts {s0 s : State} {a : Access} {ep : Option (B32 × Nat)} {len n : Nat} {o : Option (State × Nat)}
    (h : Kept s0 s) (ho : KeptO s0 (o.map Prod.fst)) : Kept s0 (s.crossParts a ep len n o).1 := by
  cases o with
  | none => exact kept_readBefore (kept_memAccess (kept_regAccess h))
  | some r => exact kept_pair (keptO_of ho rfl)

theorem kept_crossAccess {s0 s : State} {a : Access} {ep : Option (B32 × Nat)} {len n : Nat} (h : Kept s0 s) :
    Kept s0 (s.crossAccess a ep len n).1 := kept_crossParts h (kept_crossRefused h)

theorem kept_accessBytes {s0 s : State} {a : Access} {ep : Option (B32 × Nat)} {len n : Nat} (h : Kept s0 s) :
    Kept s0 (s.accessBytes a ep len n).1 :=
  kept_ite_fst h (kept_ite_fst (kept_memAccess h) (kept_ite_fst (kept_regAccess h) (kept_crossAccess h)))

theorem kept_access {s0 : State} {s : State} {a : Access} {ep : Option (B32 × Nat)} (h : Kept s0 s) :
    Kept s0 (State.access s a ep).1 := by
  unfold State.access
  repeat' first
    | with_reducible assumption
    | with_reducible apply kept_accessBytes

theorem kept_haltedAccess {s0 : State} {s : State} {write : Bool} {len : Nat} (h : Kept s0 s) :
    Kept s0 (State.haltedAccess s write len).1 := by
  unfold State.haltedAccess
  repeat' first
    | with_reducible assumption

theorem kept_plainAccess {s0 : State} {s : State} {a : Access} (h : Kept s0 s) :
    KeptO s0 (State.plainAccess s a) := by
  unfold State.plainAccess
  repeat' first
    | with_reducible assumption
    | with_reducible rfl
    | with_reducible exact keptO_none _
    | with_reducible apply keptO_some
    | with_reducible apply kept_haltedAccess
    | with_reducible apply kept_access
    | dsimp only
    | with_reducible apply keptO_ite
    | with_reducible apply kept_ite
    | with_reducible apply kept_ite_fst
    | with_reducible exact shrinks_refl
    | with_reducible exact keepWf_refl
    | exact keepWf_refl
    | exact shrinks_refl
    | with_reducible exact shrinks_tail (by assumption)
    | with_reducible refine kept_mk rfl ?_ ?_ ?_ ?_ ?_ ?_ ?_ ?_ ?_ ?_ ?_

theorem kept_bar2 {s0 : State} {s : State} {write : Bool} {off : Nat} {len : Nat} {data : List Byte} (h : Kept s0 s) :
    KeptO s0 ((State.bar2 s write off len data).map Prod.fst) := by
  unfold State.bar2
  repeat' first
    | with_reducible assumption
    | with_reducible exact keptO_noneFst _
    | with_reducible apply keptO_pair
    | with_reducible apply keptO_iteFst
    | with_reducible apply kept_haltedAccess
    | with_reducible apply kept_hostWindow

theorem kept_bar0 {s0 : State} {s : State} {write : Bool} {off : Nat} {len : Nat} {data : List Byte} (h : Kept s0 s) :
    KeptO s0 ((State.bar0 s write off len data).map Prod.fst) := by
  unfold State.bar0
  repeat' first
    | with_reducible assumption
    | with_reducible exact keptO_noneFst _
    | with_reducible apply keptO_pair
    | with_reducible apply keptO_iteFst
    | with_reducible apply kept_regAccess

theorem kept_bar4 {s0 : State} {s : State} {write : Bool} {off : Nat} {len : Nat} {data : List Byte} (h : Kept s0 s) :
    KeptO s0 ((State.bar4 s write off len data).map Prod.fst) := by
  unfold State.bar4
  repeat' first
    | with_reducible assumption
    | with_reducible exact keptO_noneFst _
    | with_reducible apply keptO_pair
    | with_reducible apply keptO_iteFst
    | with_reducible apply kept_writeWord
    | with_reducible apply kept_readWords
    | dsimp only
    | with_reducible intro _
    | with_reducible apply kept_foldl

theorem kept_tlpBad {s0 : State} {s : State} {t : TlpCheck} (h : Kept s0 s) :
    KeptO s0 (State.tlpBad s t) := by
  unfold State.tlpBad
  repeat' first
    | with_reducible assumption
    | with_reducible rfl
    | with_reducible exact keptO_none _
    | with_reducible apply keptO_some
    | dsimp only
    | with_reducible apply keptO_ite
    | with_reducible apply kept_ite
    | with_reducible apply kept_ite_fst
    | split
    | with_reducible exact shrinks_refl
    | with_reducible exact keepWf_refl
    | exact keepWf_refl
    | exact shrinks_refl
    | with_reducible exact shrinks_tail (by assumption)
    | with_reducible refine kept_mk rfl ?_ ?_ ?_ ?_ ?_ ?_ ?_ ?_ ?_ ?_ ?_

theorem kept_barDone {s0 s : State} {write : Bool} {r : State × Nat × List Byte} (h : Kept s0 r.1) :
    Kept s0 (s.barDone write r) := by
  unfold State.barDone
  exact kept_mk rfl h rfl shrinks_refl shrinks_refl shrinks_refl shrinks_refl
    keepWf_refl keepWf_refl keepWf_refl keepWf_refl keepWf_refl

theorem kept_execBar2Access {s0 : State} {how : HostAccess} {off len : Nat} {data : List Byte} {s : State} (h : Kept s0 s) :
    KeptX s0 (execBar2Access how off len data s) := by
  unfold execBar2Access
  refine keptX_attempt h (keptO_ite ?_ (keptO_none _))
  split
  · rename_i t e
    exact keptO_some ((kept_tlpBad h).out t e)
  · refine keptO_mapFst ?_ (fun x hx => kept_barDone hx)
    split
    · exact kept_bar0 h
    · exact kept_bar2 h
    · exact kept_bar4 h

/-! ## Scan -/

theorem kept_answerOwn {s0 : State} {s : State} {t : Nat} {id : Nat} {status : Nat} {data : List Byte} (h : Kept s0 s) :
    Kept s0 (State.answerOwn s t id status data) := by
  unfold State.answerOwn
  repeat' first
    | with_reducible assumption
    | with_reducible apply kept_setTile

theorem kept_dmaAccessed {s0 : State} {s : State} {t : Nat} {id : Nat} (h : Kept s0 s) :
    KeptO s0 (State.dmaAccessed s t id) := by
  unfold State.dmaAccessed
  repeat' first
    | with_reducible assumption
    | with_reducible exact keptO_none _
    | with_reducible apply keptO_some
    | with_reducible apply kept_answerOwn
    | with_reducible apply kept_access
    | dsimp only
    | with_reducible apply keptO_ite
    | with_reducible apply kept_ite
    | with_reducible apply kept_ite_fst
    | split

theorem kept_fabricFault {s0 : State} {s : State} {code : Nat} {es : List B32} (h : Kept s0 s) :
    Kept s0 (State.fabricFault s code es) := by
  unfold State.fabricFault
  repeat' first
    | with_reducible assumption
    | with_reducible apply kept_endCause
    | with_reducible apply kept_fault
    | dsimp only
    | with_reducible intro _
    | with_reducible apply kept_foldl

theorem kept_dmaBad {s0 : State} {s : State} {t : Nat} {id : Nat} (h : Kept s0 s) :
    KeptO s0 (State.dmaBad s t id) := by
  unfold State.dmaBad
  repeat' first
    | with_reducible assumption
    | with_reducible exact keptO_none _
    | with_reducible apply keptO_some
    | with_reducible apply kept_fabricFault
    | with_reducible apply kept_answerOwn
    | dsimp only
    | with_reducible apply keptO_ite
    | with_reducible apply kept_ite
    | with_reducible apply kept_ite_fst
    | split

theorem kept_execMemoryAccess {s0 : State} {m : MemRequest} {s : State} (h : Kept s0 s) :
    KeptX s0 (execMemoryAccess m s) := by
  unfold execMemoryAccess
  repeat' first
    | with_reducible assumption
    | with_reducible exact keptO_none _
    | with_reducible apply keptO_some
    | with_reducible apply keptX_attempt
    | with_reducible apply kept_dmaBad
    | with_reducible refine KeptO.out (kept_dmaBad ?_) _ (by with_reducible assumption)
    | with_reducible apply kept_fabricFault
    | with_reducible apply kept_dmaAccessed
    | with_reducible refine KeptO.out (kept_dmaAccessed ?_) _ (by with_reducible assumption)
    | with_reducible apply kept_plainAccess
    | with_reducible refine KeptO.out (kept_plainAccess ?_) _ (by with_reducible assumption)
    | dsimp only
    | with_reducible apply keptO_ite
    | with_reducible apply kept_ite
    | with_reducible apply kept_ite_fst
    | split

theorem kept_scanParts {s0 : State} {s : State} {rq : Requester} {nocache : Bool} {a3 : List (Nat × Nat)} (h : Kept s0 s) :
    Kept s0 (State.scanParts s rq nocache a3).1 := by
  induction a3 generalizing s rq nocache with
  | nil =>
    unfold State.scanParts
    repeat' first
      | with_reducible assumption
  | cons x l ih =>
    unfold State.scanParts
    repeat' first
      | with_reducible apply ih
      | with_reducible assumption
      | with_reducible apply kept_access
      | dsimp only
      | with_reducible apply kept_ite
      | with_reducible apply kept_ite_fst

theorem kept_scanRead {s0 : State} {s : State} {code : Nat} {addr : Nat} {len : Nat} {nocache : Bool} {secure : Bool} (h : Kept s0 s) :
    Kept s0 (State.scanRead s code addr len nocache secure).1 := by
  unfold State.scanRead
  repeat' first
    | with_reducible assumption
    | with_reducible apply kept_scanParts

theorem kept_execCrcScanDone {s0 : State} {u : Nat} {s : State} (h : Kept s0 s) :
    KeptX s0 (execCrcScanDone u s) := by
  unfold execCrcScanDone
  repeat' first
    | with_reducible assumption
    | with_reducible exact keptO_none _
    | with_reducible apply keptO_some
    | with_reducible apply keptX_attempt
    | with_reducible apply kept_scanRead
    | with_reducible apply kept_scrubEnded
    | with_reducible apply kept_crcCompare
    | with_reducible apply kept_crcFeed
    | with_reducible apply kept_byCode
    | with_reducible apply kept_setCrc
    | with_reducible apply kept_setFld
    | dsimp only
    | with_reducible apply keptO_ite
    | with_reducible apply kept_ite
    | with_reducible apply kept_ite_fst
    | split

theorem kept_setDigest {s0 : State} {s : State} {e : Nat} {d : List Byte} (h : Kept s0 s) :
    Kept s0 (State.setDigest s e d) := by
  unfold State.setDigest
  repeat' first
    | with_reducible assumption
    | with_reducible apply kept_setReg
    | dsimp only
    | with_reducible intro _
    | with_reducible apply kept_foldl

theorem kept_shaFold {s0 : State} {s : State} {e : Nat} {fin : Bool} {bs : List Byte} (h : Kept s0 s) :
    Kept s0 (State.shaFold s e fin bs) := by
  unfold State.shaFold
  repeat' first
    | with_reducible assumption
    | with_reducible apply kept_setDigest
    | with_reducible apply kept_setSha
    | with_reducible apply kept_add64
    | with_reducible apply kept_setBit
    | dsimp only
    | with_reducible apply kept_ite

theorem kept_execShaScanDone {s0 : State} {e : Nat} {s : State} (h : Kept s0 s) :
    KeptX s0 (execShaScanDone e s) := by
  unfold execShaScanDone
  repeat' first
    | with_reducible assumption
    | with_reducible exact keptO_none _
    | with_reducible apply keptO_some
    | with_reducible apply keptX_attempt
    | with_reducible apply kept_shaFold
    | with_reducible apply kept_scanRead
    | with_reducible apply kept_setSha
    | with_reducible apply kept_setFld
    | dsimp only
    | with_reducible apply keptO_ite
    | with_reducible apply kept_ite
    | with_reducible apply kept_ite_fst
    | split

theorem kept_scrubIssue {s0 : State} {s : State} {u : Nat} {b : ScrubBlock} (h : Kept s0 s) :
    Kept s0 (State.scrubIssue s u b) := by
  unfold State.scrubIssue
  repeat' first
    | with_reducible assumption
    | with_reducible apply kept_crcQueue
    | with_reducible apply kept_setCrc
    | with_reducible apply kept_setReg64
    | with_reducible apply kept_setReg

theorem kept_execWeightScrub {s0 : State} {u : Nat} {folio : Nat} {entry : Nat} {s : State} (h : Kept s0 s) :
    KeptX s0 (execWeightScrub u folio entry s) := by
  unfold execWeightScrub
  repeat' first
    | with_reducible assumption
    | with_reducible exact keptO_none _
    | with_reducible apply keptO_some
    | with_reducible apply keptX_attempt
    | with_reducible apply kept_scrubIssue
    | with_reducible apply kept_scrubBlock
    | dsimp only
    | with_reducible apply keptO_ite
    | split

/-! ## LinkMsg -/

theorem kept_sendAnswer {s0 : State} {s : State} {kind : Nat} {m : LnkMsg} {status : Nat} {chunks : Nat} {data : List Byte} (h : Kept s0 s) :
    Kept s0 (State.sendAnswer s kind m status chunks data) := by
  unfold State.sendAnswer
  repeat' first
    | with_reducible assumption
    | with_reducible apply kept_sendOnce

theorem kept_hostRead {s0 : State} {s : State} {m : LnkMsg} {data : Option (List Byte)} (h : Kept s0 s) :
    Kept s0 (State.hostRead s m data) := by
  unfold State.hostRead
  repeat' first
    | with_reducible assumption
    | with_reducible apply kept_sendAnswer
    | with_reducible apply kept_hdmaErr
    | dsimp only
    | with_reducible apply kept_ite
    | with_reducible apply kept_ite_fst
    | split

theorem kept_execLnkRead {s0 : State} {p : Nat} {m : LnkMsg} {hostData : Option (List Byte)} {s : State} (h : Kept s0 s) :
    KeptX s0 (execLnkRead p m hostData s) := by
  unfold execLnkRead
  repeat' first
    | with_reducible assumption
    | with_reducible exact keptO_none _
    | with_reducible apply keptO_some
    | with_reducible apply keptX_attempt
    | with_reducible apply kept_hostRead
    | with_reducible apply kept_sendAnswer
    | with_reducible apply kept_access
    | with_reducible apply kept_takeMsg
    | with_reducible refine KeptO.out (kept_takeMsg ?_) _ (by with_reducible assumption)
    | dsimp only
    | with_reducible apply keptO_ite
    | with_reducible apply kept_ite
    | with_reducible apply kept_ite_fst
    | split

theorem kept_hostWrite {s0 : State} {s : State} {m : LnkMsg} {ok : Bool} (h : Kept s0 s) :
    Kept s0 (State.hostWrite s m ok) := by
  unfold State.hostWrite
  repeat' first
    | with_reducible assumption
    | with_reducible apply kept_sendAnswer
    | with_reducible apply kept_postLocal
    | dsimp only
    | with_reducible apply kept_ite

theorem kept_execLnkWrite {s0 : State} {p : Nat} {m : LnkMsg} {hostOk : Bool} {s : State} (h : Kept s0 s) :
    KeptX s0 (execLnkWrite p m hostOk s) := by
  unfold execLnkWrite
  repeat' first
    | with_reducible assumption
    | with_reducible exact keptO_none _
    | with_reducible apply keptO_some
    | with_reducible apply keptX_attempt
    | with_reducible apply kept_hostWrite
    | with_reducible apply kept_sendAnswer
    | with_reducible apply kept_access
    | with_reducible apply kept_takeMsg
    | with_reducible refine KeptO.out (kept_takeMsg ?_) _ (by with_reducible assumption)
    | dsimp only
    | with_reducible apply keptO_ite
    | with_reducible apply kept_ite
    | with_reducible apply kept_ite_fst
    | split

theorem kept_execLnkPush {s0 : State} {p : Nat} {m : LnkMsg} {s : State} (h : Kept s0 s) :
    KeptX s0 (execLnkPush p m s) := by
  unfold execLnkPush
  repeat' first
    | with_reducible assumption
    | with_reducible exact keptO_none _
    | with_reducible apply keptO_some
    | with_reducible apply keptX_attempt
    | with_reducible apply kept_sendAnswer
    | with_reducible apply kept_takeMsg
    | with_reducible refine KeptO.out (kept_takeMsg ?_) _ (by with_reducible assumption)
    | with_reducible apply kept_splitArrive
    | with_reducible apply kept_inkWrite
    | with_reducible apply kept_bankWait
    | dsimp only
    | with_reducible apply keptO_ite
    | with_reducible apply kept_ite
    | with_reducible apply kept_ite_fst
    | split

/-! ## Mailbox -/

theorem kept_bufRead {s0 : State} {s : State} {r : List Byte} {data : Option (List Byte)} (h : Kept s0 s) :
    Kept s0 (State.bufRead s r data).1 := by
  unfold State.bufRead
  repeat' first
    | with_reducible assumption
    | with_reducible apply kept_access
    | with_reducible apply kept_hdmaErr
    | with_reducible apply kept_hostFetch
    | dsimp only
    | with_reducible apply kept_ite
    | with_reducible apply kept_ite_fst
    | split

theorem kept_bufWrite {s0 : State} {s : State} {r : List Byte} {out : List Byte} (h : Kept s0 s) :
    Kept s0 (State.bufWrite s r out).1 := by
  unfold State.bufWrite
  repeat' first
    | with_reducible assumption
    | with_reducible apply kept_access
    | with_reducible apply kept_postHost
    | dsimp only
    | with_reducible apply kept_ite
    | with_reducible apply kept_ite_fst

theorem kept_doInfo {s0 : State} {a : State} {a1 : List Byte} {a2 : List Byte} (h : Kept s0 a) :
    Kept s0 (doInfo a a1 a2).1 := by
  unfold doInfo
  repeat' first
    | with_reducible assumption

theorem kept_doAttest {s0 : State} {a : State} {a1 : List Byte} {a2 : List Byte} (h : Kept s0 a) :
    Kept s0 (doAttest a a1 a2).1 := by
  unfold doAttest
  repeat' first
    | with_reducible assumption
    | with_reducible rfl
    | dsimp only
    | with_reducible exact shrinks_refl
    | with_reducible exact keepWf_refl
    | with_reducible exact shrinks_nil
    | exact keepWf_refl
    | exact shrinks_refl
    | with_reducible exact shrinks_tail (by assumption)
    | with_reducible refine kept_mk rfl ?_ ?_ ?_ ?_ ?_ ?_ ?_ ?_ ?_ ?_ ?_

theorem kept_doCtxCreate {s0 : State} {a : State} {a1 : List Byte} {a2 : List Byte} (h : Kept s0 a) :
    Kept s0 (doCtxCreate a a1 a2).1 := by
  unfold doCtxCreate
  repeat' first
    | with_reducible assumption
    | with_reducible apply kept_createCtx
    | dsimp only
    | with_reducible apply kept_ite

theorem kept_dropUnits {s0 : State} {s : State} {x : Nat} (h : Kept s0 s) :
    Kept s0 (State.dropUnits s x) := by
  unfold State.dropUnits
  repeat' first
    | with_reducible assumption
    | with_reducible rfl
    | with_reducible apply kept_unitStatus
    | dsimp only
    | with_reducible intro _
    | with_reducible apply kept_foldl
    | with_reducible apply kept_foldl_fst
    | with_reducible exact shrinks_refl
    | with_reducible exact keepWf_refl
    | with_reducible exact keepWf_filter
    | with_reducible exact shrinks_filter
    | exact keepWf_refl
    | exact shrinks_refl
    | with_reducible exact shrinks_tail (by assumption)
    | with_reducible refine kept_mk rfl ?_ ?_ ?_ ?_ ?_ ?_ ?_ ?_ ?_ ?_ ?_

theorem kept_unbindIntake {s0 : State} {s : State} {x : Nat} (h : Kept s0 s) :
    Kept s0 (State.unbindIntake s x) := by
  unfold State.unbindIntake
  repeat' first
    | with_reducible assumption
    | with_reducible apply kept_irFail
    | with_reducible apply kept_setIring
    | dsimp only
    | split

theorem kept_doCtxDestroy {s0 : State} {a : State} {a1 : List Byte} {a2 : List Byte} (h : Kept s0 a) :
    Kept s0 (doCtxDestroy a a1 a2).1 := by
  unfold doCtxDestroy
  repeat' first
    | with_reducible assumption
    | with_reducible apply kept_unbindIntake
    | with_reducible apply kept_dropUnits
    | with_reducible apply kept_settleCtx
    | with_reducible apply kept_setVctx
    | dsimp only
    | with_reducible apply kept_ite
    | with_reducible apply kept_ite_fst

theorem kept_doFlashErase {s0 : State} {a : State} {a1 : List Byte} {a2 : List Byte} (h : Kept s0 a) :
    Kept s0 (doFlashErase a a1 a2).1 := by
  unfold doFlashErase
  repeat' first
    | with_reducible assumption
    | with_reducible apply kept_norErase
    | dsimp only
    | with_reducible apply kept_ite
    | with_reducible apply kept_ite_fst

theorem kept_doFlashWrite {s0 : State} {a : State} {a1 : List Byte} {a2 : List Byte} (h : Kept s0 a) :
    Kept s0 (doFlashWrite a a1 a2).1 := by
  unfold doFlashWrite
  repeat' first
    | with_reducible assumption
    | with_reducible apply kept_norProgram
    | dsimp only
    | with_reducible apply kept_ite
    | with_reducible apply kept_ite_fst

theorem kept_doUpdate {s0 : State} {a : State} {a1 : List Byte} {a2 : List Byte} (h : Kept s0 a) :
    Kept s0 (doUpdate a a1 a2).1 := by
  unfold doUpdate
  repeat' first
    | with_reducible assumption
    | with_reducible rfl
    | with_reducible apply kept_fwWrite
    | dsimp only
    | with_reducible apply kept_ite
    | with_reducible apply kept_ite_fst
    | with_reducible exact shrinks_refl
    | with_reducible exact keepWf_refl
    | exact keepWf_refl
    | exact shrinks_refl
    | with_reducible exact shrinks_tail (by assumption)
    | with_reducible refine kept_mk rfl ?_ ?_ ?_ ?_ ?_ ?_ ?_ ?_ ?_ ?_ ?_

theorem kept_doRegRead {s0 : State} {a : State} {a1 : List Byte} {a2 : List Byte} (h : Kept s0 a) :
    Kept s0 (doRegRead a a1 a2).1 := by
  unfold doRegRead
  repeat' first
    | with_reducible assumption
    | with_reducible apply kept_regRead

theorem kept_doRegWrite {s0 : State} {a : State} {a1 : List Byte} {a2 : List Byte} (h : Kept s0 a) :
    Kept s0 (doRegWrite a a1 a2).1 := by
  unfold doRegWrite
  repeat' first
    | with_reducible assumption
    | with_reducible apply kept_regWrite

theorem kept_doMemRead {s0 : State} {a : State} {a1 : List Byte} {a2 : List Byte} (h : Kept s0 a) :
    Kept s0 (doMemRead a a1 a2).1 := by
  unfold doMemRead
  repeat' first
    | with_reducible assumption
    | with_reducible apply kept_access

theorem kept_doMemWrite {s0 : State} {a : State} {a1 : List Byte} {a2 : List Byte} (h : Kept s0 a) :
    Kept s0 (doMemWrite a a1 a2).1 := by
  unfold doMemWrite
  repeat' first
    | with_reducible assumption
    | with_reducible apply kept_access

theorem kept_doPolicy {s0 : State} {a : State} {a1 : List Byte} {a2 : List Byte} (h : Kept s0 a) :
    Kept s0 (doPolicy a a1 a2).1 := by
  unfold doPolicy
  repeat' first
    | with_reducible assumption
    | with_reducible apply kept_setBit

theorem kept_mbxComplete {s0 : State} {s : State} {r : List Byte} {dev : Nat} {x : MbxRes} (h : Kept s0 s) :
    Kept s0 (State.mbxComplete s r dev x) := by
  unfold State.mbxComplete
  repeat' first
    | with_reducible assumption
    | with_reducible apply kept_bufWrite
    | with_reducible apply kept_mbxAnswer

theorem kept_mbxSend {s0 : State} {s : State} {r : List Byte} {data : List Byte} (h : Kept s0 s) :
    Kept s0 (State.mbxSend s r data) := by
  unfold State.mbxSend
  repeat' first
    | with_reducible assumption
    | with_reducible rfl
    | with_reducible apply kept_sendData
    | with_reducible apply kept_sendCtrl
    | dsimp only
    | with_reducible exact shrinks_refl
    | with_reducible exact keepWf_refl
    | exact keepWf_refl
    | exact shrinks_refl
    | with_reducible exact shrinks_tail (by assumption)
    | with_reducible refine kept_mk rfl ?_ ?_ ?_ ?_ ?_ ?_ ?_ ?_ ?_ ?_ ?_

theorem kept_addDestroy {s0 : State} {s : State} {src : Nat} {x : Nat} (h : Kept s0 s) :
    Kept s0 (State.addDestroy s src x) := by
  unfold State.addDestroy
  repeat' first
    | with_reducible assumption
    | with_reducible rfl
    | dsimp only
    | with_reducible exact shrinks_refl
    | with_reducible exact keepWf_refl
    | with_reducible exact shrinks_nil
    | exact keepWf_refl
    | exact shrinks_refl
    | with_reducible exact shrinks_tail (by assumption)
    | with_reducible refine kept_mk rfl ?_ ?_ ?_ ?_ ?_ ?_ ?_ ?_ ?_ ?_ ?_

theorem kept_endDestroy {s0 : State} {s : State} {src : Nat} (h : Kept s0 s) :
    Kept s0 (State.endDestroy s src) := by
  unfold State.endDestroy
  repeat' first
    | with_reducible assumption
    | with_reducible rfl
    | dsimp only
    | with_reducible exact shrinks_refl
    | with_reducible exact keepWf_refl
    | with_reducible exact keepWf_filter
    | with_reducible exact shrinks_filter
    | exact keepWf_refl
    | exact shrinks_refl
    | with_reducible exact shrinks_tail (by assumption)
    | with_reducible refine kept_mk rfl ?_ ?_ ?_ ?_ ?_ ?_ ?_ ?_ ?_ ?_ ?_

theorem kept_mbxWait {s0 : State} {s : State} {r : List Byte} (h : Kept s0 s) :
    Kept s0 (State.mbxWait s r) := by
  unfold State.mbxWait
  repeat' first
    | with_reducible assumption
    | with_reducible apply kept_addDestroy
    | dsimp only
    | with_reducible apply kept_ite

theorem kept_mbxRun {s0 s : State} {cmd : Nat} {data : Option (List Byte)} {f : MbxFn} (h : Kept s0 s)
    (hf : ∀ t r d, Kept s0 t → Kept s0 (f t r d).1) : KeptO s0 (s.mbxRun cmd data f) := by
  unfold State.mbxRun
  dsimp only
  refine keptO_ite ?_ (keptO_none _)
  refine keptO_ite (keptO_some (kept_mbxComplete h)) ?_
  split
  · exact keptO_some (kept_bufRead h)
  · next d _ =>
    refine keptO_ite (keptO_some (kept_mbxComplete (kept_bufRead h))) ?_
    refine keptO_ite (keptO_some (kept_mbxSend (kept_bufRead h))) ?_
    have hx := hf _ s.mbxReq d.2 (kept_bufRead (r := s.mbxReq) (data := data) h)
    split
    · exact keptO_some (kept_mbxComplete hx)
    · exact keptO_some (kept_mbxWait hx)

theorem kept_execMbxInfo {s0 : State} {s : State} (h : Kept s0 s) :
    KeptX s0 (execMbxInfo s) := by
  unfold execMbxInfo
  repeat' first
    | with_reducible assumption
    | with_reducible exact keptO_none _
    | with_reducible apply keptX_attempt
    | with_reducible apply kept_mbxRun
    | with_reducible apply kept_doInfo

theorem kept_execMbxAttest {s0 : State} {data : Option (List Byte)} {s : State} (h : Kept s0 s) :
    KeptX s0 (execMbxAttest data s) := by
  unfold execMbxAttest
  repeat' first
    | with_reducible assumption
    | with_reducible apply keptX_attempt
    | with_reducible apply kept_mbxRun
    | with_reducible apply kept_doAttest

theorem kept_execMbxCtxCreate {s0 : State} {data : Option (List Byte)} {s : State} (h : Kept s0 s) :
    KeptX s0 (execMbxCtxCreate data s) := by
  unfold execMbxCtxCreate
  repeat' first
    | with_reducible assumption
    | with_reducible apply keptX_attempt
    | with_reducible apply kept_mbxRun
    | with_reducible apply kept_doCtxCreate

theorem kept_execMbxFlashErase {s0 : State} {s : State} (h : Kept s0 s) :
    KeptX s0 (execMbxFlashErase s) := by
  unfold execMbxFlashErase
  repeat' first
    | with_reducible assumption
    | with_reducible exact keptO_none _
    | with_reducible apply keptX_attempt
    | with_reducible apply kept_mbxRun
    | with_reducible apply kept_doFlashErase

theorem kept_execMbxFlashWrite {s0 : State} {data : Option (List Byte)} {s : State} (h : Kept s0 s) :
    KeptX s0 (execMbxFlashWrite data s) := by
  unfold execMbxFlashWrite
  repeat' first
    | with_reducible assumption
    | with_reducible apply keptX_attempt
    | with_reducible apply kept_mbxRun
    | with_reducible apply kept_doFlashWrite

theorem kept_execMbxUpdate {s0 : State} {data : Option (List Byte)} {s : State} (h : Kept s0 s) :
    KeptX s0 (execMbxUpdate data s) := by
  unfold execMbxUpdate
  repeat' first
    | with_reducible assumption
    | with_reducible apply keptX_attempt
    | with_reducible apply kept_mbxRun
    | with_reducible apply kept_doUpdate

theorem kept_execMbxRegRead {s0 : State} {s : State} (h : Kept s0 s) :
    KeptX s0 (execMbxRegRead s) := by
  unfold execMbxRegRead
  repeat' first
    | with_reducible assumption
    | with_reducible exact keptO_none _
    | with_reducible apply keptX_attempt
    | with_reducible apply kept_mbxRun
    | with_reducible apply kept_doRegRead

theorem kept_execMbxRegWrite {s0 : State} {s : State} (h : Kept s0 s) :
    KeptX s0 (execMbxRegWrite s) := by
  unfold execMbxRegWrite
  repeat' first
    | with_reducible assumption
    | with_reducible exact keptO_none _
    | with_reducible apply keptX_attempt
    | with_reducible apply kept_mbxRun
    | with_reducible apply kept_doRegWrite

theorem kept_execMbxMemRead {s0 : State} {s : State} (h : Kept s0 s) :
    KeptX s0 (execMbxMemRead s) := by
  unfold execMbxMemRead
  repeat' first
    | with_reducible assumption
    | with_reducible exact keptO_none _
    | with_reducible apply keptX_attempt
    | with_reducible apply kept_mbxRun
    | with_reducible apply kept_doMemRead

theorem kept_execMbxMemWrite {s0 : State} {data : Option (List Byte)} {s : State} (h : Kept s0 s) :
    KeptX s0 (execMbxMemWrite data s) := by
  unfold execMbxMemWrite
  repeat' first
    | with_reducible assumption
    | with_reducible apply keptX_attempt
    | with_reducible apply kept_mbxRun
    | with_reducible apply kept_doMemWrite

theorem kept_execMbxPolicy {s0 : State} {s : State} (h : Kept s0 s) :
    KeptX s0 (execMbxPolicy s) := by
  unfold execMbxPolicy
  repeat' first
    | with_reducible assumption
    | with_reducible exact keptO_none _
    | with_reducible apply keptX_attempt
    | with_reducible apply kept_mbxRun
    | with_reducible apply kept_doPolicy

theorem kept_mbxDestroy {s0 : State} {s : State} (h : Kept s0 s) :
    KeptO s0 (State.mbxDestroy s) := by
  unfold State.mbxDestroy
  repeat' first
    | with_reducible assumption
    | with_reducible exact keptO_none _
    | with_reducible apply keptO_some
    | with_reducible apply kept_mbxRun
    | with_reducible apply kept_endDestroy
    | with_reducible apply kept_mbxComplete
    | with_reducible apply kept_doCtxDestroy
    | dsimp only
    | with_reducible apply keptO_ite
    | with_reducible apply kept_ite
    | with_reducible apply kept_ite_fst
    | split

theorem kept_execMbxCtxDestroy {s0 : State} {s : State} (h : Kept s0 s) :
    KeptX s0 (execMbxCtxDestroy s) := by
  unfold execMbxCtxDestroy
  repeat' first
    | with_reducible assumption
    | with_reducible apply keptX_attempt
    | with_reducible apply kept_mbxDestroy

theorem kept_execMbxRemoteTimeout {s0 : State} {s : State} (h : Kept s0 s) :
    KeptX s0 (execMbxRemoteTimeout s) := by
  unfold execMbxRemoteTimeout
  repeat' first
    | with_reducible assumption
    | with_reducible rfl
    | with_reducible exact keptO_none _
    | with_reducible apply keptO_some
    | with_reducible apply keptX_attempt
    | with_reducible apply kept_mbxAnswer
    | dsimp only
    | with_reducible apply keptO_ite
    | with_reducible apply kept_ite
    | with_reducible apply kept_ite_fst
    | split
    | with_reducible exact shrinks_refl
    | with_reducible exact keepWf_refl
    | with_reducible exact shrinks_nil
    | exact keepWf_refl
    | exact shrinks_refl
    | with_reducible exact shrinks_tail (by assumption)
    | with_reducible refine kept_mk rfl ?_ ?_ ?_ ?_ ?_ ?_ ?_ ?_ ?_ ?_ ?_

theorem kept_setCtrlPart {s0 : State} {s : State} {src : Nat} {l : List Byte} (h : Kept s0 s) :
    Kept s0 (State.setCtrlPart s src l) := by
  unfold State.setCtrlPart
  repeat' first
    | with_reducible assumption
    | with_reducible rfl
    | dsimp only
    | with_reducible exact shrinks_refl
    | with_reducible exact keepWf_refl
    | exact keepWf_refl
    | exact shrinks_refl
    | with_reducible exact shrinks_tail (by assumption)
    | with_reducible refine kept_mk rfl ?_ ?_ ?_ ?_ ?_ ?_ ?_ ?_ ?_ ?_ ?_

theorem kept_ctrlDataPart {s0 : State} {s : State} {src : Nat} {pay : List Byte} (h : Kept s0 s) :
    Kept s0 (State.ctrlDataPart s src pay) := by
  unfold State.ctrlDataPart
  repeat' first
    | with_reducible assumption
    | with_reducible apply kept_setCtrlPart

theorem kept_guestFn {s0 s : State} {cmd : Nat} {r d : List Byte} (h : Kept s0 s) : Kept s0 (guestFn cmd s r d).1 := by
  unfold guestFn
  split
  · exact kept_doInfo h
  · exact kept_doAttest h
  · exact kept_doCtxCreate h
  · exact kept_doCtxDestroy h
  · exact kept_doFlashErase h
  · exact kept_doFlashWrite h
  · exact kept_doUpdate h
  · exact kept_doRegRead h
  · exact kept_doRegWrite h
  · exact kept_doMemRead h
  · exact kept_doMemWrite h
  · exact kept_doPolicy h

theorem kept_setUpdGuest {s0 : State} {s : State} {src : Nat} {r : List Byte} (h : Kept s0 s) :
    Kept s0 (State.setUpdGuest s src r) := by
  unfold State.setUpdGuest
  repeat' first
    | with_reducible assumption
    | with_reducible rfl
    | dsimp only
    | with_reducible exact shrinks_refl
    | with_reducible exact keepWf_refl
    | exact keepWf_refl
    | exact shrinks_refl
    | with_reducible exact shrinks_tail (by assumption)
    | with_reducible refine kept_mk rfl ?_ ?_ ?_ ?_ ?_ ?_ ?_ ?_ ?_ ?_ ?_

theorem kept_guestDone {s0 : State} {s : State} {src : Nat} {r : List Byte} {x : MbxRes} (h : Kept s0 s) :
    Kept s0 (State.guestDone s src r x) := by
  unfold State.guestDone
  repeat' first
    | with_reducible assumption
    | with_reducible apply kept_setCtrlPart
    | with_reducible apply kept_guestAnswer

theorem kept_guestRun {s0 s t : State} {src : Nat} {r : List Byte} (h : Kept s0 s) (ht : Kept s0 t) :
    KeptO s0 (s.guestRun t src r) := by
  unfold State.guestRun
  dsimp only
  refine keptO_ite (keptO_none _) ?_
  refine keptO_ite (keptO_some (kept_guestDone ht)) ?_
  refine keptO_ite ?_ ?_
  · split
    · exact keptO_ite (keptO_none _) (keptO_some (kept_guestDone (kept_endDestroy ht)))
    · split
      · exact keptO_some (kept_guestDone (kept_doCtxDestroy ht))
      · exact keptO_some (kept_addDestroy (kept_doCtxDestroy h))
  · split
    · exact keptO_some (kept_guestDone (kept_guestFn ht))
    · exact keptO_some (kept_setUpdGuest (kept_setCtrlPart (kept_guestFn ht)))

theorem kept_ctrlAnswer {s0 : State} {s : State} {src : Nat} {pay : List Byte} (h : Kept s0 s) :
    Kept s0 (State.ctrlAnswer s src pay) := by
  unfold State.ctrlAnswer
  repeat' first
    | with_reducible assumption
    | with_reducible rfl
    | with_reducible apply kept_setCtrlPart
    | with_reducible apply kept_mbxComplete
    | dsimp only
    | with_reducible apply kept_ite
    | with_reducible apply kept_ite_fst
    | with_reducible exact shrinks_refl
    | with_reducible exact keepWf_refl
    | with_reducible exact shrinks_nil
    | exact keepWf_refl
    | exact shrinks_refl
    | with_reducible exact shrinks_tail (by assumption)
    | with_reducible refine kept_mk rfl ?_ ?_ ?_ ?_ ?_ ?_ ?_ ?_ ?_ ?_ ?_

theorem kept_ctrlEventIn {s0 s : State} {pay : List Byte} (h : Kept s0 s) : Kept s0 (s.ctrlEventIn pay) := by
  have h1 : Kept s0 (if bitOf (reqNum pay 2 1) 7 then { s with host := { s.host with evLost := true } } else s) := by
    split
    · exact kept_mk rfl h rfl shrinks_refl shrinks_refl shrinks_refl shrinks_refl
        keepWf_refl keepWf_refl keepWf_refl keepWf_refl keepWf_refl
    · exact h
  unfold State.ctrlEventIn
  dsimp only
  generalize (if bitOf (reqNum pay 2 1) 7 then { s with host := { s.host with evLost := true } } else s) = s1 at h1 ⊢
  split
  · rename_i hl
    refine h1.trans ⟨rfl, ⟨rfl, BitVec.and_self⟩, fun i =>
      ⟨?_, i.reports, i.held, i.samples, i.hbm, i.rcv, i.sram, i.nor, i.regs⟩⟩
    show (s1.host.evHeld ++ [_]).length ≤ 256
    rw [List.length_append]
    exact hl
  · exact kept_addSat (kept_mk rfl h1 rfl shrinks_refl shrinks_refl shrinks_refl shrinks_refl
        keepWf_refl keepWf_refl keepWf_refl keepWf_refl keepWf_refl)

/-! ## Tick -/

theorem kept_upsetInk {s0 : State} {s : State} {t : Nat} {row : Nat} {w : Nat} {isUe : Bool} (h : Kept s0 s) :
    Kept s0 (State.upsetInk s t row w isUe) := by
  unfold State.upsetInk
  repeat' first
    | with_reducible assumption
    | with_reducible apply kept_setTile
    | dsimp only
    | with_reducible apply kept_ite

theorem kept_upsetHbm {s0 : State} {s : State} {line : Nat} {isUe : Bool} (h : Kept s0 s) :
    Kept s0 (State.upsetHbm s line isUe) := by
  unfold State.upsetHbm
  repeat' first
    | with_reducible assumption
    | with_reducible rfl
    | dsimp only
    | with_reducible apply kept_ite
    | with_reducible apply kept_ite_fst
    | with_reducible exact shrinks_refl
    | with_reducible exact keepWf_refl
    | exact keepWf_refl
    | exact shrinks_refl
    | with_reducible exact shrinks_tail (by assumption)
    | with_reducible refine kept_mk rfl ?_ ?_ ?_ ?_ ?_ ?_ ?_ ?_ ?_ ?_ ?_

theorem kept_upsetSpare {s0 : State} {s : State} {k : Nat} {line : Nat} {isUe : Bool} (h : Kept s0 s) :
    Kept s0 (State.upsetSpare s k line isUe) := by
  unfold State.upsetSpare
  repeat' first
    | with_reducible assumption
    | with_reducible apply kept_setStack
    | dsimp only
    | with_reducible apply kept_ite

theorem kept_upsetRsv {s0 : State} {s : State} {word : Nat} {isUe : Bool} (h : Kept s0 s) :
    Kept s0 (State.upsetRsv s word isUe) := by
  unfold State.upsetRsv
  repeat' first
    | with_reducible assumption
    | with_reducible rfl
    | dsimp only
    | with_reducible apply kept_ite
    | with_reducible apply kept_ite_fst
    | with_reducible exact shrinks_refl
    | with_reducible exact keepWf_refl
    | exact keepWf_refl
    | exact shrinks_refl
    | with_reducible exact shrinks_tail (by assumption)
    | with_reducible refine kept_mk rfl ?_ ?_ ?_ ?_ ?_ ?_ ?_ ?_ ?_ ?_ ?_

theorem kept_upsetRcv {s0 : State} {s : State} {word : Nat} {isUe : Bool} (h : Kept s0 s) :
    Kept s0 (State.upsetRcv s word isUe) := by
  unfold State.upsetRcv
  repeat' first
    | with_reducible assumption
    | with_reducible rfl
    | dsimp only
    | with_reducible apply kept_ite
    | with_reducible apply kept_ite_fst
    | with_reducible exact shrinks_refl
    | with_reducible exact keepWf_refl
    | exact keepWf_refl
    | exact shrinks_refl
    | with_reducible exact shrinks_tail (by assumption)
    | with_reducible refine kept_mk rfl ?_ ?_ ?_ ?_ ?_ ?_ ?_ ?_ ?_ ?_ ?_

theorem kept_upsetTrack {s0 : State} {s : State} {entry : Nat} {w : Nat} {isUe : Bool} (h : Kept s0 s) :
    Kept s0 (State.upsetTrack s entry w isUe) := by
  unfold State.upsetTrack
  repeat' first
    | with_reducible assumption
    | with_reducible rfl
    | dsimp only
    | with_reducible apply kept_ite
    | with_reducible apply kept_ite_fst
    | with_reducible exact shrinks_refl
    | with_reducible exact keepWf_refl
    | exact keepWf_refl
    | exact shrinks_refl
    | with_reducible exact shrinks_tail (by assumption)
    | with_reducible refine kept_mk rfl ?_ ?_ ?_ ?_ ?_ ?_ ?_ ?_ ?_ ?_ ?_

theorem kept_upsetSilent {s0 : State} {s : State} {addr : Nat} {mask : Byte} (h : Kept s0 s) :
    Kept s0 (State.upsetSilent s addr mask) := by
  unfold State.upsetSilent
  repeat' first
    | with_reducible assumption
    | with_reducible rfl
    | dsimp only
    | with_reducible apply kept_ite
    | with_reducible apply kept_ite_fst
    | with_reducible exact shrinks_refl
    | with_reducible exact keepWf_refl
    | with_reducible exact keepWf_write
    | exact keepWf_refl
    | exact shrinks_refl
    | with_reducible exact shrinks_tail (by assumption)
    | with_reducible refine kept_mk rfl ?_ ?_ ?_ ?_ ?_ ?_ ?_ ?_ ?_ ?_ ?_

theorem kept_upset {s0 : State} {s : State} {u : Upset} (h : Kept s0 s) :
    Kept s0 (State.upset s u) := by
  unfold State.upset
  repeat' first
    | with_reducible assumption
    | with_reducible apply kept_upsetSilent
    | with_reducible apply kept_upsetTrack
    | with_reducible apply kept_upsetRcv
    | with_reducible apply kept_upsetRsv
    | with_reducible apply kept_upsetSpare
    | with_reducible apply kept_upsetHbm
    | with_reducible apply kept_upsetInk
    | dsimp only
    | split

theorem kept_passDie {s0 : State} {s : State} {d : Nat} (h : Kept s0 s) :
    Kept s0 (State.passDie s d) := by
  unfold State.passDie
  repeat' first
    | with_reducible assumption
    | with_reducible apply kept_setDie
    | with_reducible apply kept_addSat
    | dsimp only
    | with_reducible intro _
    | with_reducible apply kept_foldl
    | with_reducible apply kept_foldl_fst
    | with_reducible apply kept_ite

theorem kept_passSlots {s0 : State} {s : State} (h : Kept s0 s) :
    Kept s0 (State.passSlots s) := by
  unfold State.passSlots
  repeat' first
    | with_reducible assumption
    | with_reducible apply kept_passDie
    | dsimp only
    | with_reducible intro _
    | with_reducible apply kept_foldl

theorem kept_advance {s0 : State} {s : State} (h : Kept s0 s) :
    Kept s0 (State.advance s) := by
  unfold State.advance
  repeat' first
    | with_reducible assumption
    | with_reducible rfl
    | dsimp only
    | with_reducible apply kept_ite
    | with_reducible apply kept_ite_fst
    | with_reducible exact shrinks_refl
    | with_reducible exact keepWf_refl
    | exact keepWf_refl
    | exact shrinks_refl
    | with_reducible exact shrinks_tail (by assumption)
    | with_reducible refine kept_mk rfl ?_ ?_ ?_ ?_ ?_ ?_ ?_ ?_ ?_ ?_ ?_

theorem kept_refmon {s0 : State} {s : State} (h : Kept s0 s) :
    Kept s0 (State.refmon s) := by
  unfold State.refmon
  repeat' first
    | with_reducible assumption
    | with_reducible rfl
    | with_reducible apply kept_setReg
    | dsimp only
    | with_reducible apply kept_ite
    | with_reducible apply kept_ite_fst
    | with_reducible exact shrinks_refl
    | with_reducible exact keepWf_refl
    | exact keepWf_refl
    | exact shrinks_refl
    | with_reducible exact shrinks_tail (by assumption)
    | with_reducible refine kept_mk rfl ?_ ?_ ?_ ?_ ?_ ?_ ?_ ?_ ?_ ?_ ?_

theorem kept_tick {s0 : State} {s : State} (h : Kept s0 s) :
    Kept s0 (State.tick s) := by
  unfold State.tick
  repeat' first
    | with_reducible assumption
    | with_reducible rfl
    | with_reducible apply kept_refmon
    | with_reducible apply kept_advance
    | with_reducible apply kept_passSlots
    | with_reducible apply kept_upset
    | with_reducible apply kept_takeOffset
    | with_reducible apply kept_settleArrivals
    | with_reducible apply kept_settleAll
    | dsimp only
    | with_reducible apply kept_ite
    | with_reducible apply kept_ite_fst
    | split
    | with_reducible exact shrinks_refl
    | with_reducible exact keepWf_refl
    | exact keepWf_refl
    | exact shrinks_refl
    | with_reducible exact shrinks_tail (by assumption)
    | with_reducible refine kept_mk rfl ?_ ?_ ?_ ?_ ?_ ?_ ?_ ?_ ?_ ?_ ?_

/-! ## Ctrl -/

theorem kept_ctrlCommitted {s0 : State} {s : State} {pay : List Byte} (h : Kept s0 s) :
    Kept s0 (State.ctrlCommitted s pay) := by
  unfold State.ctrlCommitted
  repeat' first
    | with_reducible assumption
    | with_reducible apply kept_hostCommit

theorem kept_ctrlResidentAt {s0 : State} {s : State} {pay : List Byte} (h : Kept s0 s) :
    Kept s0 (State.ctrlResidentAt s pay) := by
  unfold State.ctrlResidentAt
  repeat' first
    | with_reducible assumption
    | with_reducible rfl
    | dsimp only
    | with_reducible apply kept_ite
    | with_reducible apply kept_ite_fst
    | with_reducible exact shrinks_refl
    | with_reducible exact keepWf_refl
    | with_reducible exact shrinks_nil
    | exact keepWf_refl
    | exact shrinks_refl
    | with_reducible exact shrinks_tail (by assumption)
    | with_reducible refine kept_mk rfl ?_ ?_ ?_ ?_ ?_ ?_ ?_ ?_ ?_ ?_ ?_

theorem kept_ctrlLayerDone {s0 : State} {s : State} {pay : List Byte} (h : Kept s0 s) :
    Kept s0 (State.ctrlLayerDone s pay) := by
  unfold State.ctrlLayerDone
  repeat' first
    | with_reducible assumption
    | with_reducible rfl
    | dsimp only
    | with_reducible apply kept_ite
    | with_reducible apply kept_ite_fst
    | with_reducible exact shrinks_refl
    | with_reducible exact keepWf_refl
    | with_reducible exact shrinks_nil
    | exact keepWf_refl
    | exact shrinks_refl
    | with_reducible exact shrinks_tail (by assumption)
    | with_reducible refine kept_mk rfl ?_ ?_ ?_ ?_ ?_ ?_ ?_ ?_ ?_ ?_ ?_

theorem kept_ctrlBookAsked {s0 : State} {s : State} {src : Nat} {pay : List Byte} (h : Kept s0 s) :
    Kept s0 (State.ctrlBookAsked s src pay) := by
  unfold State.ctrlBookAsked
  repeat' first
    | with_reducible assumption
    | with_reducible apply kept_sendCtrl

theorem kept_ctrlBookTold {s0 : State} {s : State} {pay : List Byte} (h : Kept s0 s) :
    Kept s0 (State.ctrlBookTold s pay) := by
  unfold State.ctrlBookTold
  repeat' first
    | with_reducible assumption
    | with_reducible apply kept_setBook

theorem kept_ctrlBookRestored {s0 : State} {s : State} {pay : List Byte} (h : Kept s0 s) :
    Kept s0 (State.ctrlBookRestored s pay) := by
  unfold State.ctrlBookRestored
  repeat' first
    | with_reducible assumption
    | with_reducible apply kept_setBook

theorem kept_ctrlHomeAbsent {s0 : State} {s : State} {src : Nat} (h : Kept s0 s) :
    Kept s0 (State.ctrlHomeAbsent s src) := by
  unfold State.ctrlHomeAbsent
  repeat' first
    | with_reducible assumption
    | with_reducible apply kept_enterAbsent
    | dsimp only
    | with_reducible apply kept_ite

theorem kept_ctrlNotice {s0 : State} {s : State} {m : LnkMsg} (h : Kept s0 s) :
    Kept s0 (State.ctrlNotice s m) := by
  unfold State.ctrlNotice
  repeat' first
    | with_reducible assumption
    | with_reducible apply kept_ctrlHomeAbsent
    | with_reducible apply kept_ctrlBookRestored
    | with_reducible apply kept_ctrlBookTold
    | with_reducible apply kept_ctrlBookAsked
    | with_reducible apply kept_ctrlLayerDone
    | with_reducible apply kept_ctrlResidentAt
    | with_reducible apply kept_ctrlCommitted
    | with_reducible apply kept_ctrlEventIn
    | with_reducible apply kept_twinTold
    | dsimp only
    | with_reducible apply kept_ite

theorem kept_execLnkCtrl {s0 : State} {p : Nat} {m : LnkMsg} {s : State} (h : Kept s0 s) :
    KeptX s0 (execLnkCtrl p m s) := by
  unfold execLnkCtrl
  repeat' first
    | with_reducible assumption
    | with_reducible exact keptO_none _
    | with_reducible apply keptO_some
    | with_reducible apply keptX_attempt
    | with_reducible apply kept_ctrlNotice
    | with_reducible apply kept_ctrlAnswer
    | with_reducible apply kept_guestRun
    | with_reducible apply kept_ctrlDataPart
    | with_reducible apply kept_takeMsg
    | with_reducible refine KeptO.out (kept_takeMsg ?_) _ (by with_reducible assumption)
    | dsimp only
    | with_reducible apply keptO_ite
    | with_reducible apply kept_ite
    | with_reducible apply kept_ite_fst
    | split

end Sys2Proof.Machine
end

