-- ==== Sys2Proof/Laws/NibWords.lean ====
section
/-!
SUPPORT. Nib instructions: the fields of a word made from fields, what a section that issues a word does, and that a computing
instruction changes only the section of its tile.
-/
namespace Sys2Proof.Machine
set_option maxRecDepth 2000

theorem encR_toNat (o d a b c f p sl : Nat) (imm : BitVec 20) (ho : o < 64) (hd : d < 32) (ha : a < 32) (hb : b < 32) (hc : c < 32)
   (hf : f < 16) (hp : p < 8) (hs : sl < 4) :
   (encR o d a b c f p sl imm).toNat = o * 2^58 + d * 2^53 + a * 2^48 + b*2^43 + c*2^38 + f*2^34 + p*2^31+sl*2^29+imm.toNat := by
  have := imm.isLt
  unfold encR place
  rw [BitVec.toNat_ofNat]
  simp only [Nat.shiftLeft_eq, Nat.mod_eq_of_lt ho, Nat.mod_eq_of_lt hd, Nat.mod_eq_of_lt ha, Nat.mod_eq_of_lt hb, Nat.mod_eq_of_lt hc, Nat.mod_eq_of_lt hf, Nat.mod_eq_of_lt hp, Nat.mod_eq_of_lt hs]
  omega

theorem rtR (o d a b c f p sl : Nat) (imm : BitVec 20) (ho : o < 64) (hd : d < 32) (ha : a < 32) (hb : b < 32) (hc : c < 32)
   (hf : f < 16) (hp : p < 8) (hs : sl < 4) :
   let n := nibOf (encR o d a b c f p sl imm)
   n.opc = o ∧ n.d = d ∧ n.a = a ∧ n.b = b ∧ n.c = c ∧ n.fmt = f ∧ n.part = p ∧ n.slot = sl ∧ n.imm = imm.toNat := by
  have := imm.isLt
  simp only [nibOf, encR_toNat o d a b c f p sl imm ho hd ha hb hc hf hp hs, bitsOf, Nat.shiftRight_eq_div_pow]
  refine ⟨?_,?_,?_,?_,?_,?_,?_,?_,?_⟩ <;> omega

theorem encI_toNat (o d : Nat) (imm : B32) (ho : o < 64) (hd : d < 32) :
   (encI o d imm).toNat = o * 2^58 + d * 2^53 + imm.toNat := by
  have := imm.isLt
  unfold encI place
  rw [BitVec.toNat_ofNat]
  simp only [Nat.shiftLeft_eq, Nat.mod_eq_of_lt ho, Nat.mod_eq_of_lt hd]
  omega

theorem rtI (o d : Nat) (imm : B32) (ho : o < 64) (hd : d < 32)  :
   let n := nibOf (encI o d imm)
   n.opc = o ∧ n.d = d ∧ n.imm32 = imm := by
  have := imm.isLt
  simp only [nibOf, encI_toNat o d imm ho hd, bitsOf, Nat.shiftRight_eq_div_pow]
  refine ⟨by omega, by omega, ?_⟩
  apply BitVec.eq_of_toNat_eq; rw [BitVec.toNat_ofNat]; omega

theorem nib_issues {s : State} {t : Nat} {c : Section} {w : B64} (h : s.issues t c w) {f : Section → Nib → Option State} :
    s.nib t w f = f c (nibOf w) := by
  obtain ⟨h1, h2, h3, h4, h5, h6⟩ := h
  unfold State.nib
  rw [if_pos ⟨h1, h2⟩, h3]
  simp only [h4, h5]
  rw [if_neg (by simp; omega)]
  simp

theorem onlySection_refl (t : Nat) (s : State) : onlySection t s s := ⟨rfl, fun _ _ => rfl, rfl⟩

theorem onlySection_set (t : Nat) (s : State) (c : Section) : onlySection t s (s.setSect t c) := by
  refine ⟨rfl, fun j h => ?_, ?_⟩
  · unfold State.setSect State.setTile State.tile; exact SMap.get_set_other _ _ _ h
  · have h : (s.setSect t c).tile t = { s.tile t with sect := some c } := by
      unfold State.setSect State.setTile State.tile; exact SMap.get_set_self _ _ _ _
    rw [h]

theorem nibSet_frame {s : State} {t : Nat} {w : B64} {f : Section → Nib → Section} {c0 : Section}
    (hs : (s.tile t).sect = some c0) (hk : nibOk (s.nibWord t c0.pc) = true) (hp : c0.pc < 511) :
    onlySection t s ((s.nibSet t w f).getD s) := by
  unfold State.nibSet State.nib
  split
  · rw [hs]
    simp only [hk]
    rw [if_neg (by simp; omega)]
    split
    · exact onlySection_set _ _ _
    · exact onlySection_refl _ _
  · exact onlySection_refl _ _

end Sys2Proof.Machine
end

