-- ==== Sys2Proof/Laws/Registers.lean ====
section
/-!
SUPPORT. Registers read after the shared operations that write them: raising an event, recording a refused access, polling the
rails and moving the cycle skip; and what a TIME cycle does to the time.
-/
namespace Sys2Proof.Machine
set_option maxRecDepth 2000

theorem regs_raise (s : State) (c : BitVec 16) (p : B64) (j : Nat) (h : j ≠ kQcx 0x324) : (s.raise c p).reg j = s.reg j := by
  unfold State.raise
  split
  · rfl
  · unfold State.addSat
    rw [reg_setReg, if_neg h]; rfl

theorem reg64_setReg (s : State) (k j : Nat) (v : B32) (h1 : j ≠ k) (h2 : j + 4 ≠ k) : (s.setReg k v).reg64 j = s.reg64 j := by
  unfold State.reg64; rw [reg_setReg, reg_setReg, if_neg h1, if_neg h2]

theorem reg64_setReg64 (s : State) (k : Nat) (v : B64) : (s.setReg64 k v).reg64 k = v := by
  unfold State.reg64 State.setReg64
  rw [reg_setReg, if_pos rfl, reg_setReg, if_neg (by omega), reg_setReg, if_pos rfl]
  apply BitVec.eq_of_getLsbD_eq
  intro i hi
  rw [BitVec.getLsbD_append]
  by_cases h : i < 32
  · simp [h]
  · simp [h]
    rw [decide_eq_true (by omega : i - 32 < 32), Bool.true_and, show 32 + (i - 32) = i by omega]

theorem energy_raise (s : State) (c : BitVec 16) (p : B64) : (s.raise c p).reg64 (kPwr 0x10) = s.reg64 (kPwr 0x10) := by
  unfold State.reg64; rw [regs_raise _ _ _ _ (by decide), regs_raise _ _ _ _ (by decide)]

theorem energy_setFld (s : State) (k lo w v : Nat) (h1 : kPwr 0x10 ≠ k) (h2 : kPwr 0x14 ≠ k) : (s.setFld k lo w v).reg64 (kPwr 0x10) = s.reg64 (kPwr 0x10) :=
  reg64_setReg _ _ _ _ h1 h2

theorem energy_pollRail (s : State) (k : Nat) (x : Option PmbusRead × Option PmbusRead) :
    (s.pollRail k x).1.reg64 (kPwr 0x10) = s.reg64 (kPwr 0x10) := by
  unfold State.pollRail
  simp only
  split
  · split
    · rw [energy_raise]; unfold State.setBit; rw [energy_setFld _ _ _ _ _ (by decide) (by decide)]; rfl
    · rfl
  · split
    · rfl
    · split
      · rfl
      · rw [energy_raise]; unfold State.setBit; rw [energy_setFld _ _ _ _ _ (by decide) (by decide)]; rfl

theorem energy_pollRails (s : State) (xs : List (Option PmbusRead × Option PmbusRead)) :
    (s.pollRails xs).1.reg64 (kPwr 0x10) = s.reg64 (kPwr 0x10) := by
  have key : ∀ (l : List Nat) (acc : State × Int), (l.foldl (fun (acc : State × Int) k =>
      ((acc.1.pollRail k (railAnswer xs k)).1.setReg (kRail k 4) (BitVec.ofInt 32 (acc.1.pollRail k (railAnswer xs k)).2),
        acc.2 + (acc.1.pollRail k (railAnswer xs k)).2)) acc).1.reg64 (kPwr 0x10) = acc.1.reg64 (kPwr 0x10) := by
    intro l
    induction l with
    | nil => intro acc; rfl
    | cons k l ih =>
      intro acc
      rw [List.foldl_cons, ih]
      dsimp only
      rw [reg64_setReg _ _ _ _ (by unfold kRail kPwr; omega) (by unfold kRail kPwr; omega), energy_pollRail]
  exact key s.rails (s, 0)

theorem energy_moveSkipP (s : State) (n : Nat) : (s.moveSkipP n).reg64 (kPwr 0x10) = s.reg64 (kPwr 0x10) := by
  have h : (s.setSkips n s.skipT).reg64 (kPwr 0x10) = s.reg64 (kPwr 0x10) := by
    unfold State.setSkips State.setBit
    rw [energy_setFld _ _ _ _ _ (by decide) (by decide), energy_setFld _ _ _ _ _ (by decide) (by decide),
      energy_setFld _ _ _ _ _ (by decide) (by decide), energy_setFld _ _ _ _ _ (by decide) (by decide)]
  unfold State.moveSkipP State.capEvent
  simp only
  split
  · rw [energy_raise, h]
  · split
    · rw [energy_raise, h]
    · exact h

theorem energy_capDecide (s : State) (p : Int) : (s.capDecide p).reg64 (kPwr 0x10) = s.reg64 (kPwr 0x10) := by
  unfold State.capDecide
  simp only
  split
  · exact energy_moveSkipP _ _
  · split
    · exact energy_moveSkipP _ _
    · rfl

/-- A row that is on and holds no uncorrectable word is read, whatever the bank's wait counts. -/
theorem bankWait_read {s : State} {t row rq : Nat} {ep : Option (B32 × Nat)} (h0 : row < rowsTotal) (h1 : s.sliceOn t (sliceOf row) = true)
    (h2 : wordsAt (s.tile t).inkUe row = []) : ((s.bankWait t (bankOf row)).inkRead t row rq ep).2.1 = 0 := by
  have hb : bankOf row < 16 := Nat.mod_lt _ (by decide)
  have hs : (s.bankWait t (bankOf row)).sliceOn t (sliceOf row) = true := by
    rw [← h1]
    refine congrArg (fun v : B32 => v.getLsbD (8 + sliceOf row)) ((State.reg_setReg _ _ _ _).trans (if_neg ?_))
    unfold kTil
    omega
  have ht : (s.bankWait t (bankOf row)).tile t = s.tile t := rfl
  unfold State.inkRead
  rw [if_neg (by simp [h0, hs]), ht]
  simp [h2]

theorem rh_trans {s t u : State} (h : regsEvents s t) (k : regsEvents t u) : regsEvents s u := by
  unfold regsEvents at *; rw [k]; rw [h]

theorem rh_setReg (s : State) (k : Nat) (v : B32) : regsEvents s (s.setReg k v) := rfl

theorem rh_addFld (s : State) (k lo w n : Nat) : regsEvents s (s.addFld k lo w n) := rfl

theorem rh_raise (s : State) (c : BitVec 16) (p : B64) : regsEvents s (s.raise c p) := by
  unfold State.raise; split <;> rfl

theorem viol_frame (s : State) (rq : Requester) (w : Bool) (a : Nat) (vd : Verdict) :
   regsEvents s (s.violation rq w a vd) ∧
    (∀ j, j ≠ kMem 0x1000 → j ≠ kMem 0x1004 → j ≠ kMem 0x1008 → j ≠ kMem 0x100C → j ≠ kQcx 0x324 → (s.violation rq w a vd).reg j = s.reg j) := by
  constructor
  · unfold State.violation
    simp only
    split
    · exact rh_trans (rh_addFld _ _ _ _ _) (rh_addFld _ _ _ _ _)
    · exact rh_trans (rh_addFld _ _ _ _ _) (rh_trans (rh_setReg _ _ _) (rh_trans (rh_setReg _ _ _) (rh_trans (rh_setReg _ _ _) (rh_raise _ _ _))))
  · intro j h1 h2 h3 h4 h5
    unfold State.violation
    simp only
    split
    · unfold State.addFld State.setFld
      rw [reg_setReg, if_neg h4, reg_setReg, if_neg h4]
    · rw [regs_raise _ _ _ _ h5, reg_setReg, if_neg h3, reg_setReg, if_neg h2, reg_setReg, if_neg h1]
      unfold State.addFld State.setFld
      rw [reg_setReg, if_neg h4]

theorem time_upset (s : State) (u : Upset) : (s.upset u).time = s.time := by
  unfold State.upset
  cases u <;> simp only
  · unfold State.upsetInk; split <;> rfl
  · unfold State.upsetHbm; split <;> rfl
  · unfold State.upsetSpare; repeat' (first | rfl | split | dsimp only)
  · unfold State.upsetRsv; split <;> rfl
  · unfold State.upsetRcv; split <;> rfl
  · unfold State.upsetTrack; split <;> rfl
  · unfold State.upsetSilent; split <;> rfl

theorem time_refmon (s : State) : s.refmon.time = s.time := by
  unfold State.refmon; split <;> rfl

/-- The state field of a context register after activation has written it (R313). -/
theorem activeField (r : B32) : bitsOf (setBits (setBits r 0 2 2) 4 1 0).toNat 0 2 = 2 := by
  have h : ∀ x : B32, bitsOf x.toNat 0 2 = (x.setWidth 2).toNat := by intro x; simp [bitsOf]
  rw [h]
  have : (setBits (setBits r 0 2 2) 4 1 0).setWidth 2 = 2#2 := by
    ext i hi
    have : i = 0 ∨ i = 1 := by omega
    rcases this with rfl | rfl <;> simp [setBits, place] 
  rw [this]; rfl

/-- An activated context is ACTIVE (R313). -/
theorem State.activate_ctxState (s : State) (x : Nat) (d : CtxDesc) (q : VideoSeq) :
    (s.activate x d q).ctxState x = 2 := by
  have h1 : kCtx x 0 ≠ kCtx x 8 := by simp only [kCtx, kVid]; omega
  have h2 : kCtx x 0 ≠ kCtx x 4 := by simp only [kCtx, kVid]; omega
  simp only [State.ctxState, State.fld, State.activate, State.setBudget, State.setBit, State.setFld, State.setCtxState, State.setReg, State.reg,
    SMap.get_set, h1, h2, if_false, if_true]
  exact activeField _

end Sys2Proof.Machine
end

