-- ==== Sys2Proof/Laws/Times.lean ====
section
/-!
SUPPORT. The two counts of time: what leaves them alone, and what a TIME cycle adds to them (R293, R295).
-/
namespace Sys2Proof.Machine
set_option maxRecDepth 2000

/-- `t` has the elapsed count and the time of `s`. -/
structure SameTime (s t : State) : Prop where
  elapsed : t.elapsed = s.elapsed
  time    : t.time = s.time

section
variable {s0 s : State}

theorem same_boot {b : Boot} (h : SameTime s0 s) : SameTime s0 { s with boot := b } := ⟨h.elapsed, h.time⟩
theorem same_mem {m : MemSys} (h : SameTime s0 s) : SameTime s0 { s with mem := m } := ⟨h.elapsed, h.time⟩
theorem same_setReg {k : Nat} {v : B32} (h : SameTime s0 s) : SameTime s0 (s.setReg k v) := ⟨h.elapsed, h.time⟩
theorem same_setBit {k i : Nat} {b : Bool} (h : SameTime s0 s) : SameTime s0 (s.setBit k i b) := ⟨h.elapsed, h.time⟩

theorem same_addFld {k lo w n : Nat} (h : SameTime s0 s) : SameTime s0 (s.addFld k lo w n) := by
  unfold State.addFld
  exact ⟨h.elapsed, h.time⟩

theorem same_addSat {k n : Nat} (h : SameTime s0 s) : SameTime s0 (s.addSat k n) := by
  unfold State.addSat
  exact ⟨h.elapsed, h.time⟩

theorem same_raise {c : BitVec 16} {p : B64} (h : SameTime s0 s) : SameTime s0 (s.raise c p) := by
  unfold State.raise
  repeat' first
    | exact ⟨h.elapsed, h.time⟩
    | assumption
    | apply same_addSat
    | split

theorem same_bltStore {e : BltEntry} (h : SameTime s0 s) : SameTime s0 (s.bltStore e) := by
  unfold State.bltStore
  exact ⟨h.elapsed, h.time⟩

theorem same_report {e : BltEntry} (h : SameTime s0 s) : SameTime s0 (s.report e) := by
  unfold State.report
  repeat' first
    | exact ⟨h.elapsed, h.time⟩
    | assumption
    | apply same_raise
    | split

theorem same_noteEpoch {e : B32} (h : SameTime s0 s) : SameTime s0 (s.noteEpoch e) := by
  unfold State.noteEpoch
  exact ⟨h.elapsed, h.time⟩

theorem same_logged {e : BltEntry} (h : SameTime s0 s) : SameTime s0 (if s.go then s.bltStore e
    else if s.safety.bltHeld.length < 16 then { s with safety := { s.safety with bltHeld := s.safety.bltHeld ++ [e] } }
    else s) := by
  split
  · exact same_bltStore h
  · split
    · exact ⟨h.elapsed, h.time⟩
    · exact h

theorem same_fault {e : BltEntry} (h : SameTime s0 s) : SameTime s0 (s.fault e) := by
  unfold State.fault
  cases e.epoch with
  | none =>
    simp only
    split
    · exact same_report (same_logged h)
    · exact same_logged h
  | some x =>
    simp only
    split
    · exact same_report (same_logged (same_noteEpoch h))
    · exact same_logged (same_noteEpoch h)

theorem same_violation {rq : Requester} {w : Bool} {a : Nat} {v : Verdict} (h : SameTime s0 s) : SameTime s0 (s.violation rq w a v) := by
  unfold State.violation
  dsimp only
  split
  · exact same_addFld (same_addFld h)
  · exact same_raise (same_setReg (same_setReg (same_setReg (same_addFld h))))

theorem same_queueRetire {k p : Nat} (h : SameTime s0 s) : SameTime s0 (s.queueRetire k p) := by
  unfold State.queueRetire
  repeat' first
    | exact ⟨h.elapsed, h.time⟩
    | assumption
    | split
    | dsimp only

theorem same_trackCe {k p : Nat} (h : SameTime s0 s) : SameTime s0 (s.trackCe k p) := by
  unfold State.trackCe
  repeat' first
    | exact ⟨h.elapsed, h.time⟩
    | assumption
    | apply same_queueRetire
    | split
    | dsimp only

theorem same_hbmUncorrectable {k l p : Nat} {ep : Option (B32 × Nat)} (h : SameTime s0 s) : SameTime s0 (s.hbmUncorrectable k l p ep) := by
  unfold State.hbmUncorrectable
  repeat' first
    | exact ⟨h.elapsed, h.time⟩
    | assumption
    | apply same_queueRetire
    | apply same_fault
    | apply same_raise

theorem same_hbmLine {l : Nat} {ep : Option (B32 × Nat)} (h : SameTime s0 s) : SameTime s0 (s.hbmLine l ep).1 := by
  unfold State.hbmLine
  dsimp only
  split
  · exact h
  · split
    · exact same_hbmUncorrectable h
    · split
      · refine same_trackCe ?_
        have h1 := same_addSat (k := kHbm (stackOf l) 4) (n := 1) h
        exact ⟨h1.elapsed, h1.time⟩
      · exact h

theorem same_mergeReads {ep : Option (B32 × Nat)} {ls : List Nat} : ∀ {s : State}, SameTime s0 s → SameTime s0 (s.mergeReads ep ls).1 := by
  induction ls with
  | nil => intro s h; exact h
  | cons l ls ih =>
    intro s h
    unfold State.mergeReads
    dsimp only
    split
    · exact ih (same_hbmLine h)
    · exact same_hbmLine h

theorem same_rsvTouch {a : Nat} (h : SameTime s0 s) : SameTime s0 (s.rsvTouch a) := ⟨h.elapsed, h.time⟩
theorem same_rsvDrop {a : Nat} (h : SameTime s0 s) : SameTime s0 (s.rsvDrop a) := ⟨h.elapsed, h.time⟩

theorem same_rsvAlloc {a : Nat} (h : SameTime s0 s) : SameTime s0 (s.rsvAlloc a) := by
  unfold State.rsvAlloc
  repeat' first
    | exact ⟨h.elapsed, h.time⟩
    | assumption
    | split
    | dsimp only

theorem same_rsvFill {l : Nat} (h : SameTime s0 s) : SameTime s0 (s.rsvFill l) := by
  unfold State.rsvFill
  repeat' first
    | exact ⟨h.elapsed, h.time⟩
    | assumption
    | apply same_rsvAlloc
    | apply same_hbmLine
    | split
    | dsimp only

theorem same_rsvWrite {lo hi l : Nat} (h : SameTime s0 s) : SameTime s0 (s.rsvWrite lo hi l) := by
  unfold State.rsvWrite
  split
  · dsimp only
    have h1 : SameTime s0 (if ((touched lo hi l).filter (fun w => decide (w * 32 < lo) || decide (hi < w * 32 + 32))).filter (fun w => s.mem.rsvCe.contains w) |>.isEmpty then s
        else s.addFld (kMem 0x3040) 0 16 (((touched lo hi l).filter (fun w => decide (w * 32 < lo) || decide (hi < w * 32 + 32))).filter (fun w => s.mem.rsvCe.contains w)).length) := by
      split
      · exact h
      · exact same_addFld h
    split
    · exact same_rsvDrop (same_addFld h1)
    · exact ⟨h1.elapsed, h1.time⟩
  · split
    · exact same_rsvFill h
    · exact h

theorem same_foldl {α : Type} {f : State → α → State} (hf : ∀ {s : State} {x : α}, SameTime s0 s → SameTime s0 (f s x)) {l : List α} :
    ∀ {s : State}, SameTime s0 s → SameTime s0 (l.foldl f s) := by
  induction l with
  | nil => intro s h; exact h
  | cons x l ih => intro s h; exact ih (hf h)

theorem same_hbmWrite {a : Access} {ep : Option (B32 × Nat)} (h : SameTime s0 s) : SameTime s0 (s.hbmWrite a ep).1 := by
  unfold State.hbmWrite
  dsimp only
  have h1 := same_mergeReads (ep := ep) (ls := mergeLines a.addr a.data.length) h
  split
  · exact same_foldl same_rsvWrite ⟨h1.elapsed, h1.time⟩
  · exact h1

theorem same_rcvWords {ws : List Nat} : ∀ {s : State}, SameTime s0 s → SameTime s0 (s.rcvWords ws).1 := by
  induction ws with
  | nil => intro s h; exact h
  | cons w ws ih =>
    intro s h
    unfold State.rcvWords
    dsimp only
    by_cases h1 : w ∈ s.boot.rcvUe
    · rw [if_pos h1]
      dsimp only
      exact same_fault (same_raise (same_addFld h))
    · rw [if_neg h1]
      by_cases h2 : w ∈ s.boot.rcvCe
      · rw [if_pos h2]
        exact ih (same_addFld (same_boot h))
      · rw [if_neg h2]
        exact ih h

theorem same_rcvWrite {o n : Nat} {d : List Byte} (h : SameTime s0 s) : SameTime s0 (s.rcvAccess true o n d).1 := by
  unfold State.rcvAccess
  dsimp only
  rw [if_pos rfl]
  have h1 := same_rcvWords (ws := (wordsOf o d.length).filter (fun w => decide (w * 8 < o) || decide (o + d.length < w * 8 + 8))) h
  split
  · exact same_boot h1
  · exact h1

theorem same_writeAccess {a : Access} {ep : Option (B32 × Nat)} (hw : a.write = true) (h : SameTime s0 s) :
    SameTime s0 (s.memAccess a ep).1 := by
  unfold State.memAccess
  simp only [hw, if_true]
  split
  · exact h
  · split
    · exact same_violation h
    · split
      · exact same_hbmWrite h
      · split
        · exact same_rcvWrite h
        · exact same_boot h

theorem same_irisWrite {pipe a : Nat} {d : List Byte} (h : SameTime s0 s) : SameTime s0 (s.irisWrite pipe a d).1 :=
  same_writeAccess rfl h

theorem same_dropFrames {fs : List (Nat × B32)} {k : Nat} (h : SameTime s0 s) : SameTime s0 (s.dropFrames fs k) :=
  same_foldl same_addSat h

theorem same_putFrame {f : Frame} (h : SameTime s0 s) : SameTime s0 (s.putFrame f) := ⟨h.elapsed, h.time⟩

theorem same_queueCoding {f : Frame} {a : Nat} (h : SameTime s0 s) : SameTime s0 (s.queueCoding f a) := ⟨h.elapsed, h.time⟩

theorem same_writePlain {r : StreamRec} {f : Frame} {t : B64} {o : Nat} (h : SameTime s0 s) : SameTime s0 (s.writePlain r f t o) := by
  unfold State.writePlain
  dsimp only
  have h1 := same_irisWrite (pipe := f.pipe) (a := ringAddr r f.params o (f.slot o))
    (d := frameDesc r f f.flags t ++ (irisIn r f).image o) h
  split
  · have h2 := same_dropFrames (fs := [(f.stream, f.devFcnt)]) (k := 4) h1
    exact same_putFrame h2
  · split
    · exact same_queueCoding (same_putFrame h1)
    · exact same_putFrame h1

theorem same_addWrap {k n : Nat} (h : SameTime s0 s) : SameTime s0 (s.addWrap k n) := ⟨h.elapsed, h.time⟩

theorem same_entryDone {e : ResEntry} (he : e.frees = none) (h : SameTime s0 s) : SameTime s0 (s.entryDone e) := by
  unfold State.entryDone
  rw [he]
  dsimp only
  split
  · exact ⟨h.elapsed, h.time⟩
  · exact h

theorem same_dueEntry {j : Nat} {e : ResEntry} (he : e.frees = none) (h : SameTime s0 s) : SameTime s0 (s.dueEntry j e) := by
  unfold State.dueEntry
  split
  · exact same_entryDone he (same_addSat (same_addSat h))
  · split
    · exact ⟨h.elapsed, h.time⟩
    · exact same_entryDone he (same_addSat h)

theorem same_completeStopped {p : Nat} {sm : Sample} (h : SameTime s0 s) : SameTime s0 (s.completeStopped p [] sm) := by
  have h1 : SameTime s0 (((s.unfillSlots p []).addWrap (kPipe p 8) 1).addWrap (kPipe p 0xC) 1) := ⟨h.elapsed, h.time⟩
  unfold State.completeStopped
  dsimp only
  split
  · exact same_dueEntry rfl (same_dropFrames h1)
  · exact same_dropFrames h1

theorem same_offer {k : SrcKind} {id sub : Nat} {fl : BitVec 16} {sm : Sample} {hd : List Byte} {sg : List (Nat × Nat)}
    (h : SameTime s0 s) : SameTime s0 (s.offer k id sub fl sm hd sg) := by
  unfold State.offer
  refine same_foldl (fun {s} {x} h => ?_) h
  split
  · exact same_dropFrames h
  · split
    · exact same_completeStopped h
    · exact ⟨h.elapsed, h.time⟩

theorem same_sendVision {r : StreamRec} {f : Frame} {o : Nat} {t : B64} (h : SameTime s0 s) :
    SameTime s0 (s.sendVision r f o t) := by
  unfold State.sendVision
  dsimp only
  have h1 := same_irisWrite (pipe := f.pipe) (a := ringAddr r f.params o (f.slot o)) (d := frameDesc r f f.flags t) h
  split
  · exact same_dropFrames h1
  · exact same_offer h1

theorem same_sendDue {st : Nat} {n : B32} {o : Nat} (h : SameTime s0 s) : SameTime s0 (s.sendDue st n o) := by
  unfold State.sendDue
  split
  · split
    · exact same_sendVision (same_putFrame h)
    · exact h
  · exact h

theorem same_settleOut {st : Nat} {n : B32} {o : Nat} (h : SameTime s0 s) : SameTime s0 (s.settleOut st n o) := by
  unfold State.settleOut
  split
  · split
    · exact same_writePlain h
    · exact h
  · exact h

theorem same_settleFrame {st : Nat} {n : B32} (h : SameTime s0 s) : SameTime s0 (s.settleFrame st n) :=
  same_foldl same_settleOut (same_foldl same_sendDue h)

/-- The outputs written in a TIME cycle change neither count. -/
theorem same_settlePlain (h : SameTime s0 s) : SameTime s0 s.settlePlain := by
  have h1 : SameTime s0 (s.cam.frames.foldl (fun (s : State) (f : Frame) => s.settleFrame f.stream f.devFcnt) s) :=
    same_foldl same_settleFrame h
  exact ⟨h1.elapsed, h1.time⟩

theorem same_sendInst {g : Nat} {gi : GroupInst} (h : SameTime s0 s) : SameTime s0 (s.sendInst g gi) := by
  unfold State.sendInst
  split
  · exact h
  · have h1 (k : SrcKind) (id sub : Nat) (fl : BitVec 16) (sm : Sample) (hd : List Byte) (sg : List (Nat × Nat)) :
        SameTime s0 (s.offer k id sub fl sm hd sg) := same_offer h
    exact ⟨(h1 _ _ _ _ _ _ _).elapsed, (h1 _ _ _ _ _ _ _).time⟩

theorem same_sendReady {g : Nat} (h : SameTime s0 s) : SameTime s0 (s.sendReady g) := by
  have h1 : SameTime s0 ((s.group g).released.foldl (fun s gi => if s.instReady gi then s.sendInst g gi else s) s) := by
    refine same_foldl (fun {s} {gi} h => ?_) h
    split
    · exact same_sendInst h
    · exact h
  exact ⟨h1.elapsed, h1.time⟩

/-- So do the samples of the groups. -/
theorem same_settleAll (h : SameTime s0 s) : SameTime s0 s.settleAll := by
  refine same_foldl (fun {s} {g} h => ?_) (same_settlePlain h)
  split
  · exact h
  · exact same_sendReady h

theorem same_countFlagged {st : Nat} {a b : BitVec 16} (h : SameTime s0 s) : SameTime s0 (s.countFlagged st a b) := by
  unfold State.countFlagged
  split
  · exact same_addWrap h
  · exact h

theorem same_setGroup {g : Nat} {v : GroupRt} (h : SameTime s0 s) : SameTime s0 (s.setGroup g v) := ⟨h.elapsed, h.time⟩

theorem same_releaseInst {g : Nat} {c : Bool} {t : B64} (h : SameTime s0 s) : SameTime s0 (s.releaseInst g c t) := by
  unfold State.releaseInst
  split
  · exact h
  · dsimp only
    refine same_settleAll (same_foldl (fun {s} {x} h => ?_) (same_setGroup ?_))
    · split
      · exact same_putFrame (same_countFlagged h)
      · exact h
    · split
      · exact same_addWrap h
      · exact same_addWrap (same_addWrap h)

theorem same_dropLate {g : Nat} {f : Frame} (h : SameTime s0 s) : SameTime s0 (s.dropLate g f) :=
  same_settlePlain (same_putFrame (same_addSat (same_dropFrames h)))

theorem same_joinInst {a : AlignRec} {g now : Nat} {f : Frame} (h : SameTime s0 s) : SameTime s0 (s.joinInst a g now f) := by
  unfold State.joinInst
  dsimp only
  generalize (if (s.group g).open_ = true then _ else _ : GroupRt) = gr
  split
  · exact same_releaseInst (same_putFrame (same_setGroup h))
  · exact same_putFrame (same_setGroup h)

theorem same_alignArrive {now : Nat} {f : Frame} (h : SameTime s0 s) : SameTime s0 (s.alignArrive now f) := by
  unfold State.alignArrive
  split
  · exact h
  · split
    · exact h
    · dsimp only
      split
      · exact same_dropLate h
      · split
        · exact same_joinInst (same_releaseInst h)
        · exact same_joinInst h

/-- And the frames that arrive in a TIME cycle. -/
theorem same_settleArrivals {now : Nat} (h : SameTime s0 s) : SameTime s0 (s.settleArrivals now) := by
  unfold State.settleArrivals
  dsimp only
  refine same_foldl (fun {s} {x} h => ?_) ⟨h.elapsed, h.time⟩
  split
  · exact same_alignArrive h
  · exact h

theorem same_passSlots (h : SameTime s0 s) : SameTime s0 s.passSlots := by
  unfold State.passSlots
  refine same_foldl (fun {s} {d} h => ?_) h
  unfold State.passDie
  dsimp only
  split
  · exact ⟨h.elapsed, h.time⟩
  · exact ⟨h.elapsed, h.time⟩

theorem same_onFrame {st : Nat} {f : OpenFrame → OpenFrame} (h : SameTime s0 s) : SameTime s0 (s.onFrame st f) := by
  unfold State.onFrame
  split
  · exact ⟨h.elapsed, h.time⟩
  · exact h

theorem same_upset {u : Upset} (h : SameTime s0 s) : SameTime s0 (s.upset u) := by
  unfold State.upset State.upsetInk State.upsetHbm State.upsetSpare State.upsetRsv State.upsetRcv State.upsetTrack State.upsetSilent
  repeat' first
    | exact ⟨h.elapsed, h.time⟩
    | split
    | dsimp only

theorem same_refmon (h : SameTime s0 s) : SameTime s0 s.refmon := by
  unfold State.refmon
  split
  · exact h
  · exact ⟨h.elapsed, h.time⟩

/-- A step of TIME_NS leaves the elapsed count and the registers of the time base alone, and writes the time. -/
theorem stepTime_frame (s : State) (t : BitVec 88) : (s.stepTime t).elapsed = s.elapsed ∧ (s.stepTime t).time = t ∧
    (s.stepTime t).reg (kCam 0x2008) = s.reg (kCam 0x2008) := by
  have key : ∀ (l : List Nat) (u : State), (l.foldl (fun (s : State) st => s.onFrame st (fun o => { o with flags := setFlag o.flags fTIME_STEP true })) u).regs = u.regs := by
    intro l
    induction l with
    | nil => intro u; rfl
    | cons x l ih =>
      intro u
      refine (ih _).trans ?_
      show (u.onFrame x _).regs = u.regs
      unfold State.onFrame
      split <;> rfl
  have h1 : SameTime ({ s with time := t } : State) (s.stepTime t) := by
    unfold State.stepTime
    exact same_foldl same_onFrame (same_raise ⟨rfl, rfl⟩)
  refine ⟨h1.elapsed, h1.time, ?_⟩
  unfold State.stepTime State.reg
  dsimp only
  rw [key]
  exact regs_raise _ _ _ _ (by decide)

/-- The offset of a TIME cycle (R293, act 3): the time moves by CAM_TIME_OFS where offset_go was written. -/
theorem takeOffset_frame (s : State) : s.takeOffset.elapsed = s.elapsed ∧
    s.takeOffset.time = s.time + (if s.bit (kCam 0x200C) 2 then s.reg64 (kCam 0x2010) ++ (0 : BitVec 24) else 0) ∧
    s.takeOffset.reg (kCam 0x2008) = s.reg (kCam 0x2008) := by
  unfold State.takeOffset
  split
  · have hf := stepTime_frame (s.setBit (kCam 0x200C) 2 false) (s.time + (s.reg64 (kCam 0x2010) ++ (0 : BitVec 24)))
    refine ⟨hf.1, hf.2.1, hf.2.2.trans ?_⟩
    unfold State.setBit State.setFld
    exact (reg_setReg _ _ _ _).trans (if_neg (by decide))
  · exact ⟨rfl, (BitVec.add_zero _).symm, rfl⟩

/-- What a TIME cycle of a running device does to the two counts (R293, R295). -/
theorem tick_counts (s : State) (h : s.awake = true) : s.tick.elapsed = s.elapsed + 1 ∧
    s.tick.time = s.time + (if s.bit (kCam 0x200C) 2 then s.reg64 (kCam 0x2010) ++ (0 : BitVec 24) else 0) +
      (s.reg (kCam 0x2008)).zeroExtend 88 := by
  have hf := takeOffset_frame ({ s with freeIx := s.freeIx + 1 } : State)
  have ht : SameTime ({ s with freeIx := s.freeIx + 1 } : State).takeOffset.advance s.tick := by
    unfold State.tick
    rw [if_pos h]
    dsimp only
    split
    · exact same_upset (same_settleAll (same_passSlots (same_refmon (same_settleArrivals ⟨rfl, rfl⟩))))
    · exact same_settleAll (same_passSlots (same_refmon (same_settleArrivals ⟨rfl, rfl⟩)))
  generalize ({ s with freeIx := s.freeIx + 1 } : State).takeOffset = a at hf ht
  refine ⟨ht.elapsed.trans (congrArg (· + 1) hf.1), ht.time.trans ?_⟩
  show a.time + (a.reg (kCam 0x2008)).zeroExtend 88 = _
  rw [hf.2.1, hf.2.2]
  rfl

end

end Sys2Proof.Machine
end

