-- ==== Sys2Proof/Tests/Slice0.lean ====
section
/-!
SUPPORT. Tests: values that the manual gives, ill-formed commands that the checks refuse, and for each statement with hypotheses
a state and operands that meet them together, clause by clause.
-/
namespace Sys2Proof.Tests
set_option maxRecDepth 2000
set_option Elab.async false
open Sys2Proof.Machine

/-! ## States for the witnesses -/

/-- A device that serves, with every page of the memory open to the non-secure world. -/
def up : State := { ((State.reset.setReg (kRgn 0 4) 0x2CFFFFF).setReg (kRgn 0 8) 0xD).setReg (kClk 0) 0xFFFFFF with boot := { Boot.reset with phase := .serving } }
/-- A device in its boot ROM. -/
def atRom : State := { State.reset with boot := { Boot.reset with phase := .rom } }
/-- A folio held in boot flash, one page long. -/
def folioA : FolioRec := ⟨0, 0x100000, 4096, some 0x2000, none, false⟩
/-- A device whose scroll names one folio, which awaits verification. -/
def oneFolio : State :=
  { up.setReg (kTrs 0x200) 1 with boot := { up.boot with scroll := { Scroll.empty with folios := [folioA] } } }
/-- A binding of pipeline 0 with one source and one sink. -/
def bindA : PipeBind := ⟨0, 2, false, true, 1, 0, 0, 0, 0, [], [], [], [], [], []⟩
/-- Fuses with a device secret and one image key slot. -/
def fuseA : Fuse := { Fuse.reset with secret := 1, coresOk := 0xFFF, slots := [⟨true, false, true, false, 0⟩] }
/-- A device with one rail. -/
def withRail : State := up.setBit (kRail 0 0) 7 true
/-- A device with no logical tile mapped to tile 79. -/
def unmapped : State := up
/-- A number with values at byte offsets. -/
def descOf (fs : List (Nat × Nat)) : BitVec 512 := BitVec.ofNat 512 (fs.foldl (fun n e => n + e.2 <<< (8 * e.1)) 0)
/-- A step without edges. -/
def stepW (kind q : Nat) (d : BitVec 512) : Step := ⟨BitVec.ofNat 256 (kind + q * 256 + 0xFFFFFFFFFFFFFFFF <<< 32), d, none⟩
/-- A stage with one step and the whole Inkwell as its window. -/
def stageW (k : StageKind) (st : Step) : Stage := ⟨k, 0, 8, 0, 16384, 0, 1, [st]⟩
/-- A pipeline of the given stages. -/
def pipeW (l : List Stage) : Pipe :=
  { Pipe.unbound 0 with named := true, bound := true, bind := some { bindA with tiles := [⟨0, 0, 0⟩], stemMap := [0], spcMap := [0] }, stages := l, bufs := [⟨1, 0x1000000, 0⟩] }
/-- An epoch that runs in pipeline 0. -/
def epochW : Epoch := ⟨0, .running, 0, 0, ⟨0, 0, [], none, 0, 0, 0, 0, 0⟩, 0, [], [], [], none, [], [], [], 0, none, false⟩
/-- Tile 0 with epoch 7 resident and every slice filled. -/
def tileW : Tile := { Tile.fresh 0 with res0 := some ⟨0, false, 7⟩, filling := 0 }
/-- A device that runs epoch 7 of a pipeline. -/
def running (l : List Stage) : State :=
  { ((up.setReg (kTil 0 0x208) 0xFFFF).setPipe 0 (pipeW l)).setTile 0 tileW with commit := { Commit.reset with epochs := [(7, epochW)] } }
/-- The first step of the first stage for epoch 7. -/
def stA : StepRef := ⟨0, false, 0, 0, 7⟩
/-- The same where the epoch skips the cold-start section, which holds the step (R233). -/
def coldW (l : List Stage) : List Stage := l.map (fun x => { x with cold := 1 })
def skipping (l : List Stage) : State := (running (coldW l)).setProg ⟨false, 0, 7, [], [], false, some true⟩
def stepM : Step := stepW kMatrix 0 (descOf [(0, 5), (1, 0x88), (4, 1), (8, 128), (12, 128), (24, 1000), (28, 2000), (32, 3000), (36, 4000)])
def stepV : Step := stepW kVconv 0 (descOf [(16, 0), (24, 1000), (28, 2000), (36, 4000), (40, 8), (42, 8), (46, 8), (50, 1), (52, 0x33), (53, 0x11), (54, 0x11), (58, 128)])
def runM : Run := ⟨stA, .matrix, stepM.desc, none, 1, 1, [0], [], [], [], 0, []⟩
def runV : Run := ⟨stA, .vconv, stepV.desc, none, 1, 1, [0], [], [], [], 0, []⟩
/-- A DMA descriptor: operation, first Inkwell row, rows. -/
def dmaBits (op : Nat) : BitVec 256 :=
  (descOf [(0, op), (4, 2), (8, 10), (12, 512), (16, 0x10000)]).truncate 256
def stepD : Step := stepW kDma 0 (descOf [(0, dmaRead + 0x20), (4, 2), (8, 10), (12, 512), (16, 0x10000)])
def descD : DmaDesc := ⟨stA, 0, dmaBits dmaRead, false, 0, 0, []⟩
def descW : DmaDesc := ⟨stA, 0, dmaBits dmaWrite, false, 0, 0, []⟩
def descP : DmaDesc := ⟨stA, 0, dmaBits dmaPush, false, 0, 0, []⟩
/-- Tile 0 with a descriptor in a queue. -/
def withDesc (d : DmaDesc) : State := (running [stageW .tile stepD]).setTile 0 { tileW with descs := [d] }
/-- A READ of row 10 that memory has answered. -/
def xferA : Xfer := ⟨1, stA, 0, dmaRead, 0, 10, 0x10000, 1, 5, some 0, none, false, false, false⟩
/-- Tile 0 with transfers outstanding. -/
def withXfer (xs : List Xfer) : State :=
  (running [stageW .tile stepD]).setTile 0 { tileW with descs := [{ descD with issued := 2 }], xfers := xs }
def nibBind : BitVec 512 := descOf [(0, 1), (8, 100)]
def stepN : Step := { stepM with bind := some nibBind }
def runN : Run := ⟨stA, .matrix, stepM.desc, some nibBind, 1, 1, [], [], [], [], 0, []⟩
/-- A section at the start of a nib program, with A1 = 1. -/
def secA : Section := ⟨stA, .prologue, 0, 0, [], [(1, 1)], [], [], [], [], 0⟩
/-- Tile 0 in a section whose next instruction is `w`. -/
def nibWith (c : Section) (w : B64) : State :=
  (((running [stageW .tile stepN]).setTile 0 { tileW with runs := [runN], sect := some c }).setReg (kTil 0 0x1000) (w.truncate 32)).setReg
    (kTil 0 0x1004) ((w >>> 32).truncate 32)
def nibAt (w : B64) : State := nibWith secA w
/-- A row-stat message. -/
def msgR : BitVec 256 := mkRs 0 0 0 7 1 2 3 4
def msgL : BitVec 256 := mkRs 1 0 0 7 1 2 3 4
/-- A binding in ROW mode of one row, with an epilogue, that tile 0 owns. -/
def rowBind : BitVec 512 := descOf [(0, 12), (12, 2), (36, 500)]
def stepRow : Step := { stepM with bind := some rowBind }
def withRs (m : BitVec 256) : State :=
  let s := (running [stageW .tile stepRow]).setTile 0 { tileW with runs := [{ runN with bind := some rowBind }] }
  { s with commit := { s.commit with rsFly := [⟨0, 0, false, m⟩] } }
def stepStem : Step := stepW kStem 0 (descOf [(2, 0x11), (3, 0x11), (4, 0x11), (7, 1), (8, 8), (10, 64), (14, 1), (16, 1), (24, 64), (28, 512), (40, 0x10000), (48, 0x20000)])
def stepSpectral : Step := stepW kSpectral 0 (descOf [(1, 0x55), (4, 64), (6, 64), (10, 1), (12, 1), (14, 15), (15, 15), (32, 0x10000), (48, 0x800000)])
def stepSig : Step := stepW kSignal 0 0
/-- A flow-control word in flight to stage `st`. -/
def flying (w : B64) (st : Nat) : State :=
  let s := running [stageW .tile stepSig]
  { s with commit := { s.commit with flight := [⟨w, st, false⟩] } }
/-- An acknowledgement in flight to a commit unit whose epoch is ending. -/
def acked (w : B64) : State :=
  let s := (running [stageW .tile stepSig]).setEpoch 7 { epochW with state := .ending }
  { s with commit := { s.commit with flight := [⟨w, 0, true⟩] } }
/-- A SOURCE stage that feeds a tile over one edge with two slots. -/
def srcPipe0 : Pipe :=
  { pipeW [⟨.source, 0, 0, 0, 0, 0, 0, []⟩, stageW .tile stepSig] with
    edges := [⟨0, 1, 2, false, 64, 0, 0⟩]
    bind := some { bindA with tiles := [⟨0, 0, 0⟩], sources := [⟨.ring, 0, 0, 0⟩] } }
def tokA : SrcTok := ⟨[(false, 0, 0)], ⟨2, 5, [], none, 0, 0, 0, 0, 0⟩, [], [], 0, none⟩
/-- A device whose SOURCE port holds a token. -/
def sourcing (t : SrcTok) : State :=
  let s := (up.setPipe 0 srcPipe0).setBook (bookKey 0 false 0) ⟨[.held, .held], [.empty, .empty], 0, 0, 0, 0, 0, none⟩
  { s with commit := { s.commit with srcq := [(0, [t])] } }
def srcMsg : LnkMsg := mkMsg 1 0 7 false false 0 1 0 5 0 0 []
def srcArrived : State :=
  let s := sourcing tokA
  { s with commit := { s.commit with srcq := [], srcFly := [srcMsg], srcPart := [(partKey srcMsg, List.replicate 64 1)] } }
def ckA : BitVec 128 := 0x700000000
/-- A stream on port 0: exposures on channels 0 and 1, RAW8, two samples a line. -/
def streamA : StreamRec := ⟨0, 0, [0, 1], 0x2A, 0, false, none, 2, 2, 30, 100, 100, 0x400000, []⟩
def openA : OpenFrame := ⟨1, 5, 0, 0, 0, 0, 0, 0, [⟨true, true, false, []⟩, ⟨false, false, false, []⟩], 0, [], [], false⟩
/-- A closed frame with vision crop 0 still to be written. -/
def frameA : Frame := ⟨0, 1, 5, 0, 0, 0, 0, 0, 0, 0, [], [], [(2, 0), (6, 0)], [2], [], none, none, []⟩
def camera : State := { up with boot := { up.boot with scroll := { Scroll.empty with streams := [streamA] } } }
/-- The same with an open frame and a closed one. -/
def framed : State :=
  let s := camera.setStream 0 { StreamRt.idle 0 with frame := some openA }
  { s with cam := { s.cam with frames := [frameA] } }
def auA : AuUnit := ⟨0, [], ⟨2, 5, [], none, 0, 0, 0, 0, 0⟩, false, false, 0, 1, none, false, false⟩
def ctxA : CtxDesc := ⟨0, 8, 4, 64, 64, 100, 0, 0, 4, 0x100000, 0x10000, 0x200000, 7, []⟩
def hdrA : SeqHdr := ⟨true, .h264High, 30, 1, 8, [], 64, 64, 2, 4⟩
/-- A header that passes whatever the level limits are. -/
def hdrZ : SeqHdr := { hdrA with width := 0, height := 4, dpb := 0 }
def seqA : VideoSeq := ⟨64, 64, 8, false, 2, [0x100000, 0x104000, 0x108000]⟩
/-- Context 0 in a state, with access units. -/
def decoding (us : List AuUnit) (st : Nat) : State :=
  let s := (up.setVctx 0 { Ctx.idle 0 with desc := some ctxA, seq := some seqA }).setCtxState 0 st
  { s with vid := { s.vid with units := us } }
def jobA : DecJob := ⟨auA, 1, 0, 0⟩
/-- The same with its frame on core 0. -/
def onCore : State := ((decoding [] 2).setFld (kDec 0 0) 0 2 1).setDecJob 0 (some jobA)
def outA (whole shown : Bool) : FrameOutcome := ⟨0, whole, 16, 16, [], [], shown, 0⟩
def frameOf : DecFrame := ⟨1, false, 0x100000, 16, 16, 8, true, 0, 0, 0⟩
def jobBad : DecJob := { jobA with buf := 0x3F00000000 }
/-- The same where the core's buffer lies in no region. -/
def onCoreBad : State := onCore.setDecJob 0 (some jobBad)
def encA : EncJob := ⟨0, 1, 5, 0, 0, false, 0, 0, 0, 8⟩
def encB : EncJob := { encA with addr := 0x300100, len := 64 }
/-- The same with a slot in no region. -/
def encBad : EncJob := { encB with addr := 0x3F00000000 }
def encR0 : EncRec := ⟨0, 0, 30, 30, false, false, 0, 100, 0x300000, 128⟩
def encR1 : EncRec := { encR0 with size := 4096 }
/-- Encode session 0 with a ring of `z` bytes, an encode core and a frame that waits. -/
def encoding (z : Nat) : State :=
  let s : State := { up with boot := { up.boot with scroll := { Scroll.empty with encs := [{ encR0 with size := z }] } } }
  { s.setFld (kEnc 0 0) 0 2 1 with vid := { s.vid with coding := [encA] } }
/-- An Aster group of 64 entries for pipeline 0, eight feature bytes. -/
def astA : AsterRec := ⟨0, 0, 4, false, false, true, true, 0, 64, 8, 0, 0, 0, 0, 0, 0, 16, 0x8000, 1000, [1, 1, 1, 1, 1, 1, 1, 1], 3, 2, 8, 8, 0x500000, 0x510000, 0x520000, 0x10000⟩
/-- Epoch 7 of a pipeline whose one stage is the tracker. -/
def tracking : State :=
  let s := running [⟨.aster, 0, 0, 0, 0, 0, 0, []⟩]
  { s with boot := { s.boot with scroll := { Scroll.empty with asters := [astA] } } }
def journalA : Journal := ⟨7, 5, 1, 1, [], [], [], [], 1, 0, [⟨0, 0, 1, false⟩], false, false⟩
def tracked (j : Journal) : State := tracking.setAstGroup 0 ⟨some j, false⟩
/-- The same with the PCIe link up. -/
def linked : State := (State.setBit { up with host := { up.host with link := true, bme := true, seenUp := true } } (kHst 8) 0 false)
/-- The same with an intake ring bound to a context and result ring 0 enabled, so that ring 0 may start. -/
def startable : State := (linked.setReg (kRr 0 8) 1).setIring 0 { IRing.idle 0 with target := some (.au 0) }
/-- A descriptor of 64 bytes in buffer 5. -/
def descAu : BitVec 512 := descOf [(0, 1), (4, 5), (8, 1), (24, 64)]
/-- Ring 0 bound to port 0 of pipeline 0, its data due, the SCRATCH buffer at an address. -/
def tensorIn (base : Nat) (slots : List (Bool × Nat × Nat)) : State :=
  (linked.setPipe 0 { srcPipe0 with bufs := [⟨1, 0, base⟩] }).setIring 0
    { IRing.idle 0 with target := some (.tensor 0 0), desc := some ⟨9, 0, 0, 2, false, slots, 0, false⟩ }
/-- Port 0 in a state of Table 13-1, its limits long past. -/
def port0 (st : Nat) : State := { (up.setFld (kLnk 0 8) 0 4 st) with elapsed := 0xFFFFFFFF }
/-- The parameter flit of device 0's neighbour in a 4 × 4 × 4 torus. -/
def goodParam (s : State) : ParamFlit := ⟨s.neighbour s.boot.dev 0, 1, s.dimSize 0, s.dimSize 1, s.dimSize 2, BitVec.ofNat 3 (s.fld (kLnk 0 0x100) 15 3), s.boot.scroll.topoHash⟩
/-- A message of device 5 to device 0. -/
def msgTo0 (kind addr tag : Nat) (host : Bool) (pay : List Byte) : LnkMsg := mkMsg 5 0 kind false host 0 (ceilDiv pay.length 8) addr tag 0 pay.length pay
/-- A device that has received it on port 0. -/
def withMsg (base : State) (m : LnkMsg) : State :=
  base.setPort 0 { Port.idle 0 with rxq := [(kindVc (mKind m), (chunksOf m).map (fun x => (x, false)))] }
/-- What is left when it is taken. -/
def taken (base : State) (m : LnkMsg) : State := ((withMsg base m).takeMsg 0 (mKind m) m).getD base
/-- Port 0 awaits parameters in a torus of 4 × 4 × 4. -/
def torus : State := (port0 lsParam).setReg (kLnk 0 0x100) 0x3FB00
def noTile63 : State := { up with tileMap := [(63, none)] }
def filled0 : State := up.setTile 0 { Tile.fresh 0 with filling := 0 }
/-- Epoch 7's step sums its row 5 with a partial that device 5 pushes. -/
def owing : State := (running []).setPipe 0 { pipeW [stageW .tile (stepW 1 0 0), { stageW .tile (stepW 1 0 0) with unit := 1 }] with
  bind := some { bindA with tiles := [⟨0, 0, 0⟩, ⟨1, 5, 1⟩] }, splits := [⟨0, 0, 1, some (1, 0), 0, 16⟩] }
/-- The mailbox holds a request for a command. -/
def mail (k : Nat) : State := (up.setReg (kQcx 0x200) (BitVec.ofNat 32 k)).setBit (kQcx 0x280) 0 true
/-- A live update at a phase. -/
def updating (p : UpdPhase) : State := { up with fw := { up.fw with upd := p } }
/-- A device whose home is a neighbour on an open port, with an event held. -/
def awayHome : State :=
  let s := ((up.setReg (kLnk 0 0x100) 0x3FB00).setReg (kLnk 0 0x104) 1).setFld (kLnk 0 8) 0 4 lsActive
  let s := s.setPort 0 { Port.idle 0 with up := true }
  { s with host := { s.host with evHeld := [⟨0x301, 0, 0, 0⟩] } }
/-- CRC unit 0 with a command at the front of its queue. -/
def checking (k : ChkCmd) : State := up.setCrc 0 { up.crc 0 with queue := [k] }
def hashing (k : ChkCmd) : State := up.setSha 0 { up.sha 0 with queue := [k] }
/-- A device in service with its in-field tests on. -/
def testing : State := (up.setReg 4 1).setBit (kBlt 0x20) 0 true
/-- A safety request of a command. -/
def reqOf (cmd : Nat) : BitVec 256 := BitVec.ofNat 256 (cmd + crc16 (natToBytes cmd 30) <<< 240)
/-- A verified folio at 0x100000 whose directory lists 100 bytes of weights and a CRCTAB section with one block. -/
def scrubbing : State :=
  let s := oneFolio.setReg (kTrs 0x200) 3
  { s with mem := { s.mem with hbm :=
      [(0x100010, 2), (0x100080, 3), (0x100089, 4), (0x100090, 100), (0x1000A0, 8), (0x1000A9, 2), (0x1000B0, 16), (0x100208, 7)] } }
/-- A device in a live update, whose firmware does not serve. -/
def unserved : State := up.setBit 0x4 4 true
/-- A device that is not its own home, with the same rings as `startable`. -/
def startableAway : State := (awayHome.setReg (kRr 0 8) 1).setIring 0 { IRing.idle 0 with target := some (.au 0) }
/-- The read of the producer word of its ring 0 is to be made. -/
def fetching : State := startableAway.setIring 0 { IRing.idle 0 with enabling := true }
/-- The read of a descriptor of its ring 0 is to be made. -/
def asking : State := (awayHome.setIrState 0 1).setIring 0 { IRing.idle 0 with asked := true, target := some (.au 0) }

/-! ## Commands that the checks refuse -/

/-- Quill core 0. -/
def rq : Requester := ⟨0xB000, true, false⟩

theorem test_wf_refuses_requester : ([
    .registerWrite ⟨0xD000, false, false⟩ 0 0, .registerWrite ⟨0x0050, false, false⟩ 0 0,
    .keyLockSet ⟨0x9000, true, false⟩, .keyLockSet ⟨0xB00C, false, false⟩, .keyLockSet ⟨0xA006, false, false⟩,
    .registerWrite ⟨0xB000, true, false⟩ 2 0] : List Instr).all (fun i => !i.wf) = true := by decide

theorem test_wf_refuses_boot : ([
    .arvRaise ⟨0xB000, true, false⟩ 128, .folioVerify ⟨0xB000, true, false⟩ (some 32), .folioVerifyDone 32,
    .pipelineBind 128, .droopDetect ⟨4, List.replicate 16 700⟩, .droopDetect ⟨0, [700]⟩, .sensorConvert 64 0,
    .pmbusPoll (List.replicate 9 (none, none)), .phyPllLoss (.orrek 6), .phyPllLoss (.csi 8), .phyPllLoss (.hbm 8)] : List Instr).all (fun i => !i.wf) = true := by decide

theorem test_wf_refuses_tile : ([
    .satEnable rq 80 0, .satEnable rq 0 6, .satClear rq 80, .satWindowEnd 79 6, .arrSkipWrite rq 80 true 0,
    .matrixStepStart ⟨⟨128, false, 0, 0, 0⟩, false⟩, .matrixStepStart ⟨⟨0, false, 64, 0, 0⟩, false⟩,
    .matrixStepStart ⟨⟨0, false, 0, 65536, 0⟩, false⟩, .inkScrub 0 16, .inkSlicePowerUp rq 0 8, .inkSliceFillDone 0 8,
    .tileMove 64 0, .tileMove 0 80, .tileMoveDone 64, .dmaTransferIssue 0 8, .dmaTransferComplete 80 0,
    .dmaLimitWrite rq 0 8 0, .settleStart 80 ⟨0, false, 0, 0, 0⟩ 0] : List Instr).all (fun i => !i.wf) = true := by decide

theorem test_wf_refuses_nib : ([
    .nibNop 80, .nibLoop 0 32 1, .nibLoop 0 0 512, .nibAmov 0 32 0, .nibFadd 0 0 0 32, .nibShl 0 0 0 32,
    .nibSel 0 0 0 0 32, .nibUnpk 0 0 0 32 0, .nibMemWrite rq 0 512 false 0, .rstatReleaseReceive 0 128 false 0] : List Instr).all (fun i => !i.wf) = true := by decide

theorem test_wf_refuses_engine : ([
    .stmCntClear rq 8, .spcCntClear rq 4, .withdrawReceive 64 ⟨0, .good⟩, .bookAudit 8, .bookSnap rq 80,
    .csiFrameStart 8 0 0 false, .csiFrameStart 0 16 0 false, .feTimeout 24, .alignDeadline 8, .irsBankWrite rq 24 0,
    .pipeSpared 3, .fsyncPulse 8, .accessUnitReceive 256 ⟨none, false, 0, none⟩, .decodeFrameStart 9,
    .encodeFrameStart 32, .encSpared 5, .encRdWrite rq 32 0, .asterCostsReady 64, .asterJobProgram 0 80] : List Instr).all (fun i => !i.wf) = true := by decide

theorem test_wf_refuses_memory : ([
    .memoryAccess (.plain ⟨rq, true, 0, 0, [], false⟩), .memoryAccess (.dma 80 0), .pageRetireStart 8,
    .rgnWrite rq 64 .base 0, .rsvPinWrite rq 8 0, .pinFill rq 8, .pinFillDone 8, .bufEntryWrite 4096 0,
    .bar2Access ⟨.bar0, .good, true⟩ 0 0 [], .irPoll 256, .rrEntryWrite 256, .rrConsumerReread 257 none, .msixUnmask 64] : List Instr).all (fun i => !i.wf) = true := by decide

theorem test_wf_refuses_link : ([
    .lnkRetrain rq 6, .linkSignalDetect 0 18, .flitSend 6, .lnkFlow 6 ⟨0, []⟩, .wdtKick rq 12, .wdtExpire 12, .dinB 4,
    .shaScan 4, .weightScrub 4 0 0, .weightScrub 0 32 0, .tileTestStart 8, .lnkRead 6 ⟨0, []⟩ none] : List Instr).all (fun i => !i.wf) = true := by decide

theorem test_wf_accepts : ([.registerWrite rq 0x10008 0, .arvRaise rq 64, .folioVerify rq (some 31), .pipelineBind 127, .droopDetect ⟨3, List.replicate 16 700⟩,
   
    .satEnable rq 79 5, .matrixStepStart ⟨⟨127, true, 63, 65535, 9⟩, true⟩, .inkScrub 79 15, .tileMove 63 79, .nibSel 79 31 31 31 31, .nibLoop 0 31 511,
    .fsyncPulse 7, .decodeFrameStart 8, .encSpared 4, .memoryAccess (.plain ⟨rq, true, 0, 0, [1], false⟩), .bufEntryWrite 4095 0,
    .rrConsumerReread 256 none, .bar2Access ⟨.bar4, .poisoned, false⟩ 0 4 [], .pcieLinkDown, .flitSend 5, .weightScrub 3 31 65535, .phyPllLoss (.hbm 7)] : List Instr).all Instr.wf = true := by decide

/-! ## Values of the manual -/

/-- The addressing example of chapter 11. -/
theorem test_interleave_example : stackOf 0x1234567A80 = 3 ∧ stackLocal 0x1234567A80 = 0x2468ACE80 := by decide

/-- The encoding examples of chapter 05: LD V2, A0 + 16, and QNT into part 1 of V4 from V2 × V3 in INT8. -/
theorem test_word_ld : encR 0x06 2 0 0 0 0 0 0 16 = 0x1840000000000010 := by decide
theorem test_word_qnt : encR 0x20 4 2 3 0 0 1 0 0 = 0x8082180080000000 := by decide

/-- Device `d` of the torus of the routing example of chapter 13: 8 × 4 × 4, every wrap bit set. -/
def exampleTorus (d : Nat) : State := { State.reset.setReg (kLnk 0 0x100) 0x3FF00 with boot := { Boot.reset with dev := d } }

/-- The first two hops and the last turns of the routing example: XN twice, then YP, then ZP. -/
theorem test_route_x : (exampleTorus 25).route 70 = some 1 ∧ (exampleTorus 25).neighbour 25 1 = 24 ∧ (exampleTorus 24).route 70 = some 1 ∧
    (exampleTorus 24).neighbour 24 1 = 31 ∧ (exampleTorus 24).crosses 1 = true := by decide
theorem test_route_yz : (exampleTorus 30).route 70 = some 2 ∧ (exampleTorus 30).neighbour 30 2 = 6 ∧ (exampleTorus 30).crosses 2 = true ∧
    (exampleTorus 6).route 70 = some 4 ∧ (exampleTorus 6).neighbour 6 4 = 38 := by decide

/-- The 16-bit set of the worked example of chapter 16 and the CRC-32 of a link flit. -/
theorem test_crc16 : crc16 [0x31, 0x32, 0x33, 0x34, 0x35, 0x36, 0x37, 0x38, 0x39] = 0x29B1 := by decide +kernel
theorem test_crc32 : crc32 [0x31, 0x32, 0x33, 0x34, 0x35, 0x36, 0x37, 0x38, 0x39] = 0xCBF43926 := by decide +kernel

/-- IEEE 754 by hand: 1 + 2, 1 / 3 to nearest, the tie 2^24 + 1 to even, and the smallest subnormal kept. -/
theorem test_fp_add : fpAdd 0x3F800000 0x40000000 = 0x40400000 ∧ fpAdd 0x4B800000 0x3F800000 = 0x4B800000 := by decide +kernel
theorem test_fp_div : fpDiv 0x3F800000 0x40400000 = 0x3EAAAAAB := by decide +kernel
theorem test_fp_subnormal : fpAdd 1 0 = 1 ∧ fpMul 1 0x3F800000 = 1 := by decide +kernel

/-- The constants of SHA-512: the first and the last of 80, and the digest of the three bytes 'abc' (FIPS 180-4). -/
theorem test_sha_constants : shaConsts.length = 80 ∧ shaConsts[0]? = some 0x428A2F98D728AE22 ∧ shaConsts[79]? = some 0x6C44198C4A475817 := by
  decide +kernel
theorem test_sha_abc : (sha512 [0x61, 0x62, 0x63]).take 4 = [0xDD, 0xAF, 0x35, 0xA1] := by decide +kernel

/-- BT.709 in limited range: black and the white 16 × 255 of 12 bits, at 8 bits (R286), and a crop scaled to its own
size. -/
theorem test_yuv_black_white : (upTo 3).map (fun c => yuvOf 8 c 0 0 0) = [16, 128, 128] ∧
    (upTo 3).map (fun c => yuvOf 8 c 4080 4080 4080) = [235, 128, 128] := by decide +kernel
theorem test_scaled_same_size : (pixels 0 3 0 3).all (fun p => scaled (fun x y => 100 * x + y) 1 2 3 3 3 3 p.1 p.2 == 100 * (p.1 + 1) + p.2 + 2) = true := by
  decide +kernel

/-- No row of the command table gives bits. -/
theorem test_no_word : decodeTableWord 32 0 = none := rfl

/-! ## Hypotheses of the other statements are met -/

theorem witness_IdleStepIsOneTimeCycle : (∃ s : State, s.pending = [] ∧ s.awake = true) ∧
    (∃ s : State, s.pending = [] ∧ s.boot.phase = .halted ∧ s.bit (kClk 0) 0 = true) ∧
    ∃ s : State, s.pending = [] ∧ s.awake = false ∧ (s.boot.phase ≠ .halted ∨ s.bit (kClk 0) 0 = false) :=
  ⟨⟨up, by decide⟩, ⟨{ up with boot := { up.boot with phase := .halted } }, by decide⟩, ⟨State.reset, by decide⟩⟩
theorem witness_InvKeptByEveryStep : ∃ s t : State, Inv s ∧ step s = .next t :=
  ⟨State.reset, State.reset, ⟨by decide, by decide, by decide, by decide, by decide, by decide, by decide, by decide, by decide⟩, rfl⟩
theorem witness_FusesStayBlown : ∃ s t : State, step s = .next t := ⟨{ up with pending := [.arvRaise rq 3] }, _, rfl⟩
theorem witness_NibWordsRoundTrip : (∃ (o d a b c f p sl : Nat) (imm : BitVec 20), o < 64 ∧ d < 32 ∧ a < 32 ∧ b < 32 ∧ c < 32 ∧ f < 16 ∧ p < 8 ∧
      sl < 4 ∧ imm = 0xFFFFF) ∧ (∃ w : B64, bitsOf w.toNat 20 9 = 0) ∧ ∃ w : B64, bitsOf w.toNat 32 21 = 0 :=
  ⟨⟨63, 31, 31, 31, 31, 15, 7, 3, 0xFFFFF, by decide⟩, ⟨0xFFFFFFFFE00FFFFF, by decide⟩, ⟨0xFFE00000FFFFFFFF, by decide⟩⟩
theorem witness_SkipRegisterWriteRule : (∃ (s : State) (t : Nat), s.awake = true ∧ t < 80 ∧ regAllowed rq true (kTil t 0x108) = true ∧
      ∀ l, l < 64 → s.physOf l ≠ some t) ∧
    ∃ (s : State) (t l : Nat), s.awake = true ∧ t < 80 ∧ regAllowed rq true (kTil t 0x10C) = true ∧ l < 64 ∧ s.physOf l = some t :=
  ⟨⟨up, 79, by decide, by decide, by decide, by decide⟩, ⟨up, 0, 0, by decide⟩⟩
theorem witness_WholeLineWriteMendsLines : ∃ (s : State) (a : Access), s.awake = true ∧ a.write = true ∧ a.addr % 64 = 0 ∧ a.data.length % 64 = 0 ∧
    0 < a.data.length ∧ a.addr + a.data.length = hbmTop ∧ s.pageBusy a.addr a.data.length = false ∧
    s.verdict a.rq true a.addr a.data.length = none ∧ (∀ l, l ∈ linesOf a.addr a.data.length → s.stackUp (stackOf l) = true) ∧ a.addr ∈ s.mem.ue :=
  ⟨{ up with mem := { up.mem with ue := [hbmTop - 64] } }, ⟨rq, true, hbmTop - 64, 0, List.replicate 64 7, false⟩, by decide +kernel⟩
theorem witness_PowerSampleAddsToEnergy : (∃ s : State, s.awake = true ∧ s.rails ≠ []) ∧ (∃ s : State, s.awake = true ∧ s.rails = []) ∧
    ∃ s : State, 10000 ≤ 10000 ∧ s.boot.phase ≠ .tripped :=
  ⟨⟨withRail, by decide⟩, ⟨up, by decide⟩, ⟨up, by decide⟩⟩
theorem witness_TimeGainsIncrementEachCycle : (∃ s : State, s.awake = true ∧ s.bit (kCam 0x200C) 2 = true) ∧
    ∃ s : State, s.awake = true ∧ s.bit (kCam 0x200C) 2 = false ∧ regAllowed rq true (kCam 0x2008) = true :=
  ⟨⟨up.setBit (kCam 0x200C) 2 true, by decide⟩, ⟨up, by decide⟩⟩
theorem witness_ResetClearsRetirementAndRegisters : ∃ s : State, 10000 ≤ 10000 ∧ s.boot.phase ≠ .tripped ∧ (s.stack 7).map ≠ [] :=
  ⟨up.setStack 7 { Stack.idle 7 with map := [(1, 2)] }, by decide⟩
theorem witness_RefusedRegisterWriteOnlyLogs : ∃ (s : State) (q : Requester) (k : Nat), s.awake = true ∧ k % 4 = 0 ∧ regAllowed q true k = false :=
  ⟨up, ⟨0x9000, false, false⟩, kMem 0x2100, by decide⟩
theorem witness_PlainWriteFrame : ∃ (s t : State) (a : Access) (c : Nat), a.write = true ∧ a.addr + a.data.length = hbmTop ∧
    exec (.memoryAccess (.plain a)) s = .next t ∧ c + 1 = a.addr :=
  ⟨up, _, ⟨rq, true, hbmTop - 1, 0, [9], false⟩, hbmTop - 2, rfl, by decide, rfl, by decide⟩
theorem witness_PlainReadFrame : ∃ (s t : State) (a : Access), a.write = false ∧ a.addr + a.len = hbmTop ∧ 0 < a.len ∧
    exec (.memoryAccess (.plain a)) s = .next t :=
  ⟨up, _, ⟨rq, false, hbmTop - 1, 1, [], false⟩, rfl, by decide, by decide, rfl⟩
theorem witness_PlainReadDeliversStoredBytes : ∃ (s : State) (a : Access), s.awake = true ∧ a.write = false ∧ 0 < a.len ∧ a.addr + a.len = hbmTop ∧
    s.pageBusy a.addr a.len = false ∧ s.verdict a.rq false a.addr a.len = none ∧ (∀ l, l ∈ linesOf a.addr a.len → s.stackUp (stackOf l) = true) ∧
    (∀ l, l ∈ linesOf a.addr a.len → l ∉ s.mem.ue) ∧
    (∀ l, l ∈ linesOf a.addr a.len → ∀ w, w ∈ touched a.addr (a.addr + a.len) l → w ∉ s.mem.rsvUe) :=
  ⟨up, ⟨rq, false, hbmTop - 65, 65, [], false⟩, by decide +kernel⟩
theorem witness_NibComputationFrame : ∃ (s u : State) (k : Section) (i : Instr), (s.tile 0).sect = some k ∧ nibOk (s.nibWord 0 k.pc) = true ∧
    k.pc < 511 ∧ i ∈ aluCommands 0 31 30 29 28 5 0 3 2 5 7 ∧ exec i s = .next u :=
  ⟨nibAt (w2 0x0C 31 30 29), _, secA, .nibFadd 0 31 30 29, by decide +kernel, by decide +kernel, by decide, by decide, rfl⟩
theorem witness_AddressInterleaveRoundTrip : ∃ k : Nat, k < 8 := ⟨7, by decide⟩
theorem witness_FloatNanCommuteCancel : (∃ x y : B32, fpIsNan x = true ∨ fpIsNan y = true) ∧ ∃ x : B32, fpIsFin x = true :=
  ⟨⟨0xFF800001, 0, by decide⟩, ⟨0xFF7FFFFF, by decide⟩⟩

/-! ## The hypotheses of the completion statements are met -/

/-- Each clause of BootAndResetComplete with hypotheses has a state and operands that meet them. -/
theorem witness_BootAndResetComplete :
    (∃ (s : State) (ns : Nat), 10000 ≤ ns ∧ s.boot.phase ≠ .tripped) ∧
    (∃ (s : State) (env : ReleaseEnv), s.boot.phase = .held ∧ env.romOk = true ∧ env.pllLocks = true ∧ env.fuseOk = true ∧ (((({ s with elapsed := 0, boot := { s.boot with phase := .rom, releasedAt := 0 } } : State).setBit (kTrs 0) 2 (goldenLow env.golden)).setBit (kClk 0) 0 true).loadFuses).fuse.coresOk ≠ 0) ∧
    (∃ (s : State) (env : ReleaseEnv), s.boot.phase = .held ∧ env.romOk = false) ∧
    (∃ (s : State) (env : ReleaseEnv), s.boot.phase = .held ∧ env.romOk = true ∧ env.pllLocks = false) ∧
    (∃ (s : State) (env : ReleaseEnv), s.boot.phase = .held ∧ env.romOk = true ∧ env.pllLocks = true ∧ env.fuseOk = false) ∧
    (∃ (s : State) (env : BootEnv) (n : Nat), s.boot.phase = .rom ∧ s.stageHalt env = some n) ∧
    (∃ (s : State) (env : BootEnv), s.boot.phase = .rom ∧ s.stageHalt env = none) ∧
    (∃ (s : State), (s.boot.phase = .rom ∨ s.boot.phase = .ready) ∧ msTicks 30000 ≤ s.elapsed.toNat) ∧
    (∃ (s : State) (rq : Requester), s.boot.phase = .ready ∧ regAllowed rq true (kTrs 0x14) = true) ∧
    (∃ (s : State), s.awake = true) := by
  refine ⟨?_, ?_, ?_, ?_, ?_, ?_, ?_, ?_, ?_, ?_⟩
  · exact ⟨up, 10000, by decide +kernel⟩
  · exact ⟨{ State.reset with fuse := { Fuse.reset with coresOk := 0xFFF } }, ⟨true, true, true, []⟩, by decide +kernel⟩
  · exact ⟨State.reset, ⟨false, true, true, []⟩, by decide +kernel⟩
  · exact ⟨State.reset, ⟨true, false, true, []⟩, by decide +kernel⟩
  · exact ⟨State.reset, ⟨true, true, false, []⟩, by decide +kernel⟩
  · exact ⟨{ atRom with fuse := fuseA }, ⟨true, 33554432, true, 8, true, 0, [], true, true, true, true, true⟩, 8, by decide +kernel⟩
  · exact ⟨{ atRom with fuse := fuseA }, ⟨true, 33554432, true, 8, true, 0xFF, [], true, true, true, true, true⟩, by decide +kernel⟩
  · exact ⟨{ atRom with elapsed := 0xFFFFFFFFFF }, by decide +kernel⟩
  · exact ⟨{ State.reset with boot := { Boot.reset with phase := .ready } }, rqCore0, by decide +kernel⟩
  · exact ⟨up, by decide +kernel⟩

/-- Each clause of TrustAndRegisterCommandsComplete with hypotheses has a state and operands that meet them. -/
theorem witness_TrustAndRegisterCommandsComplete :
    (∃ (s : State) (rq : Requester), s.awake = true ∧ regAllowed rq true (kTrs 0x10) = true) ∧
    (∃ (s : State) (rq : Requester), s.awake = true ∧ regAllowed rq true (kTrs 0x20) = true) ∧
    (∃ (s : State) (rq : Requester) (v : Nat), s.awake = true ∧ regAllowed rq true (kTrs 0xC) = true) ∧
    (∃ (s : State) (rq : Requester) (key : Nat) (v : B32), s.awake = true ∧ key % 4 = 0 ∧ regAllowed rq true (key) = true) ∧
    (∃ (s : State) (rq : Requester) (key : Nat), s.awake = true ∧ isLo key = true ∧ regAllowed rq false key = true) ∧
    (∃ (s : State) (rq : Requester) (key : Nat), s.awake = true ∧ isHi key = true ∧ regAllowed rq false key = true) ∧
    (∃ (s : State) (rq : Requester) (e : Nat) (f : FolioRec), s.serving = true ∧ s.updActive = false ∧ regAllowed rq true (kTrs 0x104) = true ∧ s.bit (kTrs 0x104) 0 = false ∧ s.boot.scroll.folios[s.fld (kTrs 0x100) 0 5]? = some f ∧ (upTo 4).find? (fun e => s.engineFree e) = some e ∧ s.folioState (s.fld (kTrs 0x100) 0 5) = 1) ∧
    (∃ (s : State) (i e : Nat) (f : FolioRec), s.serving = true ∧ s.updActive = false ∧ s.boot.scroll.folios[i]? = some f ∧ f.flash.isSome = true ∧ s.folioState i = 1 ∧ s.pageBusy f.load f.length = false ∧ (s.copyFolio f).boot.scroll.folios[i]? = some f ∧ (upTo 4).find? (fun e => (s.copyFolio f).engineFree e) = some e ∧ (s.copyFolio f).folioState i = 1) ∧
    (∃ (s : State) (i e : Nat) (f : FolioRec), s.boot.scroll.folios[i]? = some f ∧ f.engine = some e ∧ s.serving = true ∧ s.pageBusy f.load f.length = false) ∧
    (∃ (s : State) (pipe : Nat) (b : PipeBind), (s.pipe pipe).bind = some b ∧ s.serving = true ∧ s.updActive = false ∧ (s.pipe pipe).named = true ∧ (s.pipe pipe).bound = false ∧ s.folioState b.folio = 3 ∧ s.twinReady (s.pipe pipe) b = true ∧ s.bindWaits pipe (s.folioOf (s.pipe pipe)) = false ∧ (s.memReads rqCore0 none (s.folioOf (s.pipe pipe)).bindSpans).2 = 0) := by
  refine ⟨?_, ?_, ?_, ?_, ?_, ?_, ?_, ?_, ?_, ?_⟩
  · exact ⟨up, rqCore0, by decide +kernel⟩
  · exact ⟨up, rqCore0, by decide +kernel⟩
  · exact ⟨up, rqCore0, 5, by decide +kernel⟩
  · exact ⟨up, rqCore0, kTrs 0x100, 7, by decide +kernel⟩
  · exact ⟨up, rqCore0, kPwr 0x10, by decide +kernel⟩
  · exact ⟨up, rqCore0, kPwr 0x14, by decide +kernel⟩
  · exact ⟨oneFolio, rqCore0, 0, folioA, by decide +kernel⟩
  · exact ⟨oneFolio, 0, 0, folioA, by decide +kernel⟩
  · exact ⟨{ oneFolio with boot := { oneFolio.boot with scroll := { Scroll.empty with folios := [{ folioA with engine := some 1 }] } } }, 0, 1, { folioA with engine := some 1 }, by decide +kernel⟩
  · exact ⟨(up.setPipe 0 { Pipe.unbound 0 with named := true, bind := some bindA }).setReg (kTrs 0x200) 3, 0, bindA, by decide +kernel⟩

/-- Each clause of PowerAndDroopCommandsComplete with hypotheses has a state and operands that meet them. -/
theorem witness_PowerAndDroopCommandsComplete :
    (∃ (s : State) (x : DroopSample), s.awake = true ∧ x.die < 4 ∧ 0 < s.droopFires x) ∧
    (∃ (s : State) (d : Nat), s.awake = true ∧ d < 4 ∧ (s.die d).stretch = true ∧ 32 ≤ (s.die d).quiet) ∧
    (∃ (s : State) (xs : List (Option PmbusRead × Option PmbusRead)), s.awake = true ∧ s.rails.isEmpty = false) ∧
    (∃ (s : State) (xs : List (Option PmbusRead × Option PmbusRead)), s.awake = true ∧ s.rails.isEmpty = true) ∧
    (∃ (s : State) (i : Nat) (m : Int), s.awake = true ∧ i < 64) ∧
    (∃ (s : State), s.awake = true) ∧
    (∃ (s : State), s.awake = true) ∧
    (∃ (s : State) (p : Nat), s.awake = true ∧ p < 6) ∧
    (∃ (s : State) (p : Nat), s.awake = true ∧ p < 8) ∧
    (∃ (s : State) (k : Nat), s.awake = true ∧ k < 8) := by
  refine ⟨?_, ?_, ?_, ?_, ?_, ?_, ?_, ?_, ?_, ?_⟩
  · exact ⟨up.setReg (kPwr 0x244) 750, ⟨1, [0]⟩, by decide +kernel⟩
  · exact ⟨up.setDie 1 { DieClock.idle 1 with stretch := true, quiet := 32 }, 1, by decide +kernel⟩
  · exact ⟨withRail, [], by decide +kernel⟩
  · exact ⟨up, [], by decide +kernel⟩
  · exact ⟨up, 3, -40000, by decide +kernel⟩
  · exact ⟨up, by decide +kernel⟩
  · exact ⟨up, by decide +kernel⟩
  · exact ⟨up, 1, by decide +kernel⟩
  · exact ⟨up, 1, by decide +kernel⟩
  · exact ⟨up, 1, by decide +kernel⟩

/-- Each clause of ArrayCommandsComplete with hypotheses has a state and operands that meet them. -/
theorem witness_ArrayCommandsComplete :
    (∃ (s : State) (rq : Requester) (t n : Nat), s.awake = true ∧ t < 80 ∧ n < 6 ∧ s.bit (kTil t 0x400) n = false ∧ regAllowed rq true (kTil t 0x400) = true) ∧
    (∃ (s : State) (rq : Requester) (t : Nat), s.awake = true ∧ t < 80 ∧ regAllowed rq true (kTil t 0x400) = true) ∧
    (∃ (s : State) (t n e : Nat), s.awake = true ∧ t < 80 ∧ n < 6 ∧ s.satEnd t n = some e ∧ s.satDue t n = true) ∧
    (∃ (s : State) (rq : Requester) (t : Nat) (col : Bool) (v : B32), s.awake = true ∧ t < 80 ∧ (s.logicalOf t).isSome = false ∧ regAllowed rq true (kTil t (if col then 0x10C else 0x108)) = true) ∧
    (∃ (s : State) (rq : Requester) (t : Nat) (col : Bool) (v : B32), s.awake = true ∧ t < 80 ∧ (s.logicalOf t).isSome = true ∧ regAllowed rq true (kTil t (if col then 0x10C else 0x108)) = true) ∧
    (∃ (s : State) (rq : Requester) (t : Nat), s.awake = true ∧ t < 80 ∧ regAllowed rq true (kTil t 0x104) = true) ∧
    (∃ (s : State) (st : StepRef) (t : Nat) (p : Pipe) (sg : Stage) (sp : Step), s.tileStep st kMatrix = some (t, p, sg, sp) ∧ (s.tile t).arrayBusy .matrix = false ∧ s.windowFilling t sg = false ∧ s.skips st = false ∧ checkMatrix sp.desc sg.inkRow sg.inkRows = none) ∧
    (∃ (s : State) (st : StepRef) (t : Nat) (p : Pipe) (sg : Stage) (sp : Step), s.tileStep st kVconv = some (t, p, sg, sp) ∧ (s.tile t).arrayBusy .vconv = false ∧ s.windowFilling t sg = false ∧ s.skips st = false ∧ checkVconv sp.desc sg.inkRow sg.inkRows = none) ∧
    (∃ (s : State) (st : StepRef) (b : Bool) (t : Nat) (p : Pipe) (sg : Stage) (sp : Step), s.tileStep st kMatrix = some (t, p, sg, sp) ∧ s.skips st = true) ∧
    (∃ (s : State) (st : StepRef) (b : Bool) (t : Nat) (p : Pipe) (sg : Stage) (sp : Step), s.tileStep st kVconv = some (t, p, sg, sp) ∧ s.skips st = true) := by
  refine ⟨?_, ?_, ?_, ?_, ?_, ?_, ?_, ?_, ?_, ?_⟩
  · exact ⟨up, rqCore0, 3, 1, by decide +kernel⟩
  · exact ⟨up, rqCore0, 3, by decide +kernel⟩
  · exact ⟨{ (up.setBit (kTil 3 0x400) 1 true).setTile 3 { Tile.fresh 3 with satLen := [(1, 10)] } with elapsed := 0xFFFFFFFF }, 3, 1, 6250, by decide +kernel⟩
  · exact ⟨unmapped, rqCore0, 79, true, 5, by decide +kernel⟩
  · exact ⟨up, rqCore0, 3, true, 5, by decide +kernel⟩
  · exact ⟨up, rqCore0, 3, by decide +kernel⟩
  · exact ⟨running [stageW .tile stepM], stA, 0, pipeW [stageW .tile stepM], stageW .tile stepM, stepM, by decide +kernel⟩
  · exact ⟨running [stageW .tile stepV], stA, 0, pipeW [stageW .tile stepV], stageW .tile stepV, stepV, by decide +kernel⟩
  · exact ⟨skipping [stageW .tile stepM], stA, true, 0, pipeW (coldW [stageW .tile stepM]), { stageW .tile stepM with cold := 1 }, stepM, by decide +kernel⟩
  · exact ⟨skipping [stageW .tile stepV], stA, true, 0, pipeW (coldW [stageW .tile stepV]), { stageW .tile stepV with cold := 1 }, stepV, by decide +kernel⟩

/-- Each clause of StepCompletionCommandsComplete with hypotheses has a state and operands that meet them. -/
theorem witness_StepCompletionCommandsComplete :
    (∃ (s : State) (st : StepRef) (t : Nat) (p : Pipe) (sg : Stage) (sp : Step) (r : Run), s.stepOf st = some (p, sg, sp) ∧ s.tileOf p st.stage st.side = some t ∧ (s.tile t).run st = some r ∧ s.awake = true ∧ r.kind = .matrix ∧ r.ended = true ∧ (s.tile t).sect.any (fun x => x.step == st) = false) ∧
    (∃ (s : State) (st : StepRef) (t : Nat) (p : Pipe) (sg : Stage) (sp : Step) (r : Run), s.stepOf st = some (p, sg, sp) ∧ s.tileOf p st.stage st.side = some t ∧ (s.tile t).run st = some r ∧ s.awake = true ∧ r.kind = .vconv ∧ r.ended = true ∧ (s.tile t).sect.any (fun x => x.step == st) = false) := by
  refine ⟨?_, ?_⟩
  · exact ⟨(running [stageW .tile stepM]).setTile 0 (({ tileW with runs := [runM] } : Tile)), stA, 0, pipeW [stageW .tile stepM], stageW .tile stepM, stepM, runM, by decide +kernel⟩
  · exact ⟨(running [stageW .tile stepV]).setTile 0 (({ tileW with runs := [runV] } : Tile)), stA, 0, pipeW [stageW .tile stepV], stageW .tile stepV, stepV, runV, by decide +kernel⟩

/-- Each clause of InkwellCommandsComplete with hypotheses has a state and operands that meet them. -/
theorem witness_InkwellCommandsComplete :
    (∃ (s : State) (t bank r : Nat), s.awake = true ∧ t < 80 ∧ bank < 16 ∧ (s.tile t).failed = false ∧ s.bit (kTil t 0x20C) 0 = true ∧ (s.tile t).scrubQ.find? (fun r => bankOf r == bank) = some r) ∧
    (∃ (s : State) (t bank l : Nat), s.awake = true ∧ t < 80 ∧ bank < 16 ∧ (s.tile t).failed = false ∧ s.bit (kTil t 0x20C) 0 = true ∧ (s.tile t).scrubQ.find? (fun r => bankOf r == bank) = none ∧ s.walkFrom t (SMap.get zeroNat (s.tile t).walk bank) = some l) ∧
    (∃ (s : State) (t bank l : Nat), s.awake = true ∧ t < 80 ∧ bank < 16 ∧ (s.tile t).failed = false ∧ s.bit (kTil t 0x20C) 0 = true ∧ (s.tile t).scrubQ.find? (fun r => bankOf r == bank) = none ∧ s.walkFrom t (SMap.get zeroNat (s.tile t).walk bank) = none ∧ s.walkFrom t 0 = some l) ∧
    (∃ (s : State) (t bank r : Nat), s.awake = true ∧ t < 80 ∧ bank < 16 ∧ (s.tile t).failed = false ∧ s.bit (kTil t 0x20C) 0 = true ∧ (s.tile t).scrubQ.find? (fun r => bankOf r == bank) = some r) ∧
    (∃ (s : State) (t bank l : Nat), s.awake = true ∧ t < 80 ∧ bank < 16 ∧ (s.tile t).failed = false ∧ s.bit (kTil t 0x20C) 0 = true ∧ (s.tile t).scrubQ.find? (fun r => bankOf r == bank) = none ∧ s.walkFrom t (SMap.get zeroNat (s.tile t).walk bank) = some l) ∧
    (∃ (s : State) (t bank l : Nat), s.awake = true ∧ t < 80 ∧ bank < 16 ∧ (s.tile t).failed = false ∧ s.bit (kTil t 0x20C) 0 = true ∧ (s.tile t).scrubQ.find? (fun r => bankOf r == bank) = none ∧ s.walkFrom t (SMap.get zeroNat (s.tile t).walk bank) = none ∧ s.walkFrom t 0 = some l) ∧
    (∃ (s : State) (rq : Requester) (t : Nat) (v : B32), s.awake = true ∧ t < 80 ∧ regAllowed rq true (kTil t 0x228) = true) ∧
    (∃ (s : State) (rq : Requester) (t sl : Nat), s.awake = true ∧ t < 80 ∧ sl < 8 ∧ s.bit (kTil t 0x208) sl = false ∧ regAllowed rq true (kTil t 0x208) = true) ∧
    (∃ (s : State) (t sl : Nat), s.awake = true ∧ t < 80 ∧ sl < 8 ∧ (s.tile t).filling.getLsbD sl = true) ∧
    (∃ (s : State) (rq : Requester) (t sl : Nat), s.awake = true ∧ t < 80 ∧ sl < 8 ∧ s.bit (kTil t 0x208) sl = true ∧ regAllowed rq true (kTil t 0x208) = true) ∧
    (∃ (s : State) (t sl : Nat), s.awake = true ∧ t < 80 ∧ sl < 8 ∧ s.bit (kTil t 0x208) sl = false ∧ s.sliceOn t sl = true ∧ s.sliceInUse t sl = false) ∧
    (∃ (s : State) (rq : Requester) (t : Nat), s.awake = true ∧ t < 80 ∧ regAllowed rq true (kTil t 0x218) = true) ∧
    (∃ (s : State) (l dst src : Nat), l < 64 ∧ dst < 80 ∧ s.physOf l = some src ∧ s.serving = true ∧ s.fwServes = true ∧ dst / 10 = src / 10 ∧ dst ≠ src ∧ (s.cluster (src / 10)).move.isNone = true ∧ s.freeTile dst = true ∧ (s.tile src).residents.isEmpty = true ∧ (s.tile src).xfers.isEmpty = true ∧ s.hostsWait (s.hosts src) = false) ∧
    (∃ (s : State) (l src dst : Nat), s.physOf l = some src ∧ (s.cluster (src / 10)).move = some (l, dst) ∧ s.awake = true) := by
  refine ⟨?_, ?_, ?_, ?_, ?_, ?_, ?_, ?_, ?_, ?_, ?_, ?_, ?_, ?_⟩
  · exact ⟨(up.setBit (kTil 0 0x20C) 0 true).setTile 0 { tileW with scrubQ := [0] }, 0, 0, 0, by decide +kernel⟩
  · exact ⟨(up.setBit (kTil 0 0x20C) 0 true).setBit (kTil 0 0x208) 8 true, 0, 0, 0, by decide +kernel⟩
  · exact ⟨((up.setBit (kTil 0 0x20C) 0 true).setBit (kTil 0 0x208) 8 true).setTile 0 { tileW with walk := [(0, 1000)] }, 0, 0, 0, by decide +kernel⟩
  · exact ⟨(up.setBit (kTil 0 0x20C) 0 true).setTile 0 { tileW with scrubQ := [0] }, 0, 0, 0, by decide +kernel⟩
  · exact ⟨(up.setBit (kTil 0 0x20C) 0 true).setBit (kTil 0 0x208) 8 true, 0, 0, 0, by decide +kernel⟩
  · exact ⟨((up.setBit (kTil 0 0x20C) 0 true).setBit (kTil 0 0x208) 8 true).setTile 0 { tileW with walk := [(0, 1000)] }, 0, 0, 0, by decide +kernel⟩
  · exact ⟨up, rqCore0, 3, 7, by decide +kernel⟩
  · exact ⟨(up.setReg (kTil 3 0x208) 0), rqCore0, 3, 2, by decide +kernel⟩
  · exact ⟨up, 3, 2, by decide +kernel⟩
  · exact ⟨(up.setReg (kTil 3 0x208) 0xFF), rqCore0, 3, 2, by decide +kernel⟩
  · exact ⟨(up.setReg (kTil 3 0x208) 0xFF00), 3, 2, by decide +kernel⟩
  · exact ⟨up, rqCore0, 3, by decide +kernel⟩
  · exact ⟨up, 3, 8, 3, by decide +kernel⟩
  · exact ⟨up.setCluster 0 { Cluster.fresh 0 with move := some (3, 8) }, 3, 3, 8, by decide +kernel⟩

/-- Each clause of DmaCommandsComplete with hypotheses has a state and operands that meet them. -/
theorem witness_DmaCommandsComplete :
    (∃ (s : State) (st : StepRef) (t : Nat) (p : Pipe) (sg : Stage) (sp : Step), s.tileStep st kDma = some (t, p, sg, sp) ∧ s.skips st = false ∧ ((s.beginStep st).markCold st).checkDma p st sg sp (((s.beginStep st).markCold st).dmaReloc p st sp) = none) ∧
    (∃ (s : State) (t q : Nat) (d : DmaDesc), s.awake = true ∧ t < 80 ∧ q < 8 ∧ s.queueOpen t q = true ∧ (s.tile t).nextDesc (s.issueWaits t) q = some d ∧ dOp d.bits = dmaRead) ∧
    (∃ (s : State) (t q : Nat) (d : DmaDesc), s.awake = true ∧ t < 80 ∧ q < 8 ∧ s.queueOpen t q = true ∧ (s.tile t).nextDesc (s.issueWaits t) q = some d ∧ dOp d.bits = dmaWrite ∧ ((s.bankWait t (bankOf (dInk d.bits + d.issued))).inkRead t (dInk d.bits + d.issued) rqDmaOut (some (d.step.epoch, d.step.pipe))).2.1 = 0) ∧
    (∃ (s : State) (t q : Nat) (d : DmaDesc), s.awake = true ∧ t < 80 ∧ q < 8 ∧ s.queueOpen t q = true ∧ (s.tile t).nextDesc (s.issueWaits t) q = some d ∧ dOp d.bits = dmaPush ∧ ((s.bankWait t (bankOf (dInk d.bits + d.issued))).inkRead t (dInk d.bits + d.issued) rqDmaOut (some (d.step.epoch, d.step.pipe))).2.1 = 0) ∧
    (∃ (s : State) (t id : Nat) (x : Xfer), s.awake = true ∧ t < 80 ∧ (s.tile t).xfer id = some x ∧ (if x.dst.isSome then some 0 else x.answer) = some 0 ∧ x.wait = false ∧ s.landWaits t x = false ∧ s.xferBlocked t x = false) ∧
    (∃ (s : State) (t id : Nat) (x : Xfer), s.awake = true ∧ t < 80 ∧ (s.tile t).xfer id = some x ∧ (if x.dst.isSome then some 0 else x.answer) = some 0 ∧ x.wait = false ∧ s.landWaits t x = false ∧ s.xferBlocked t x = true) ∧
    (∃ (s : State) (t id : Nat) (x : Xfer), s.awake = true ∧ t < 80 ∧ (s.tile t).xfer id = some x ∧ x.wait = true ∧ s.landWaits t x = false ∧ s.xferBlocked t x = false) ∧
    (∃ (s : State) (rq : Requester) (t q : Nat) (v : B32), s.awake = true ∧ t < 80 ∧ q < 8 ∧ regAllowed rq true (kQcfg t q) = true) ∧
    (∃ (s : State) (st : StepRef) (b : Bool) (t : Nat) (p : Pipe) (sg : Stage) (sp : Step), s.tileStep st kDma = some (t, p, sg, sp) ∧ s.skips st = true) := by
  refine ⟨?_, ?_, ?_, ?_, ?_, ?_, ?_, ?_, ?_⟩
  · exact ⟨running [stageW .tile stepD], stA, 0, pipeW [stageW .tile stepD], stageW .tile stepD, stepD, by decide +kernel⟩
  · exact ⟨withDesc descD, 0, 0, descD, by decide +kernel⟩
  · exact ⟨withDesc descW, 0, 0, descW, ⟨by decide +kernel, by decide, by decide, by decide +kernel, by decide +kernel, by decide +kernel, bankWait_read (by decide +kernel) (by decide +kernel) (by decide +kernel)⟩⟩
  · exact ⟨withDesc descP, 0, 0, descP, ⟨by decide +kernel, by decide, by decide, by decide +kernel, by decide +kernel, by decide +kernel, bankWait_read (by decide +kernel) (by decide +kernel) (by decide +kernel)⟩⟩
  · exact ⟨withXfer [xferA], 0, 1, xferA, by decide +kernel⟩
  · exact ⟨withXfer [xferA, { xferA with id := 2 }], 0, 2, { xferA with id := 2 }, by decide +kernel⟩
  · exact ⟨withXfer [{ xferA with wait := true }], 0, 1, { xferA with wait := true }, by decide +kernel⟩
  · exact ⟨up, rqCore0, 3, 7, 9, by decide +kernel⟩
  · exact ⟨skipping [stageW .tile stepD], stA, true, 0, pipeW (coldW [stageW .tile stepD]), { stageW .tile stepD with cold := 1 }, stepD, by decide +kernel⟩

/-- Each clause of NibControlCommandsComplete with hypotheses has a state and operands that meet them. -/
theorem witness_NibControlCommandsComplete :
    (∃ (s : State) (t : Nat) (st : StepRef) (kind : SectionKind) (block : Nat) (r : Run) (b : BitVec 512), s.awake = true ∧ t < 80 ∧ (s.tile t).sect.isNone = true ∧ kind ≠ .settle ∧ (s.tile t).run st = some r ∧ r.bind = some b ∧ r.nextSection = some (kind, block) ∧ r.sectionReady = true ∧ (s.tile t).olderSection st.epoch = false) ∧
    (∃ (s : State) (t : Nat) (st : StepRef) (row : Nat) (r : Run) (b : BitVec 512), s.awake = true ∧ t < 80 ∧ (s.tile t).sect.isNone = true ∧ (s.tile t).run st = some r ∧ r.bind = some b ∧ r.settleQ.head? = some row ∧ (s.tile t).olderSection st.epoch = false) ∧
    (∃ (s : State) (t : Nat) (c : Section), s.issues t c (encR 0x00 0 0 0 0 0 0 0 0)) ∧
    (∃ (s : State) (t : Nat) (c : Section), s.issues t c (encR opEnd 0 0 0 0 0 0 0 0) ∧ ¬(c.kind = .prologue ∧ (s.stepOf c.step).any (fun x => s.windowFilling t x.2.1))) ∧
    (∃ (s : State) (t : Nat) (c : Section) (a n : Nat), s.issues t c (encR 0x02 0 a 0 0 0 0 0 (BitVec.ofNat 20 n)) ∧ a < 32 ∧ n < 512 ∧ c.loops.length < 2 ∧ (upTo n).any (fun i => decide (c.pc + 1 + i < 512) && (nibOf (s.nibWord t (c.pc + 1 + i))).opc == opEnd) = false ∧ c.ar a ≠ 0) ∧
    (∃ (s : State) (t : Nat) (c : Section) (a n : Nat), s.issues t c (encR 0x02 0 a 0 0 0 0 0 (BitVec.ofNat 20 n)) ∧ a < 32 ∧ n < 512 ∧ c.loops.length < 2 ∧ (upTo n).any (fun i => decide (c.pc + 1 + i < 512) && (nibOf (s.nibWord t (c.pc + 1 + i))).opc == opEnd) = false ∧ c.ar a = 0) ∧
    (∃ (s : State) (t : Nat) (c : Section) (a n : Nat), s.issues t c (encR 0x02 0 a 0 0 0 0 0 (BitVec.ofNat 20 n)) ∧ a < 32 ∧ n < 512 ∧ 2 ≤ c.loops.length) ∧
    (∃ (s : State) (t : Nat) (c : Section) (d : Nat) (imm : B32), s.issues t c (encI 0x03 d imm) ∧ d < 32) ∧
    (∃ (s : State) (t : Nat) (c : Section) (d a : Nat) (imm : BitVec 20), s.issues t c (encR 0x04 d a 0 0 0 0 0 imm) ∧ d < 32 ∧ a < 32) ∧
    (∃ (s : State) (t : Nat) (c : Section) (d a b : Nat), s.issues t c (encR 0x05 d a b 0 0 0 0 0) ∧ d < 32 ∧ a < 32 ∧ b < 32) ∧
    (∃ (s : State) (t : Nat) (c : Section) (d a : Nat), s.issues t c (w1 0x08 d a) ∧ d < 32 ∧ a < 32) ∧
    (∃ (s : State) (t : Nat) (c : Section) (d : Nat) (imm : B32), s.issues t c (encI 0x09 d imm) ∧ d < 32) ∧
    (∃ (s : State) (t : Nat) (c : Section) (d a i : Nat) (imm : BitVec 20), s.issues t c (encR 0x0A d a 0 i 0 0 0 imm) ∧ d < 32 ∧ a < 32 ∧ i < 32) ∧
    (∃ (s : State) (t : Nat) (c : Section) (d a i : Nat) (imm : BitVec 20), s.issues t c (encR 0x0B d a 0 i 0 0 0 imm) ∧ d < 32 ∧ a < 32 ∧ i < 32) := by
  refine ⟨?_, ?_, ?_, ?_, ?_, ?_, ?_, ?_, ?_, ?_, ?_, ?_, ?_, ?_⟩
  · exact ⟨(running [stageW .tile stepN]).setTile 0 { tileW with runs := [runN] }, 0, stA, .prologue, 0, runN, nibBind, by decide +kernel⟩
  · exact ⟨(running [stageW .tile stepN]).setTile 0 { tileW with runs := [{ runN with settleQ := [0] }] }, 0, stA, 0, { runN with settleQ := [0] }, nibBind, by decide +kernel⟩
  · exact ⟨nibAt (encR 0x00 0 0 0 0 0 0 0 0), 0, secA, by decide +kernel⟩
  · exact ⟨nibAt (encR opEnd 0 0 0 0 0 0 0 0), 0, secA, by decide +kernel⟩
  · exact ⟨(nibAt (encR 0x02 0 1 0 0 0 0 0 (BitVec.ofNat 20 3))), 0, secA, 1, 3, by decide +kernel⟩
  · exact ⟨(nibAt (encR 0x02 0 0 0 0 0 0 0 (BitVec.ofNat 20 3))), 0, secA, 0, 3, by decide +kernel⟩
  · exact ⟨nibWith { secA with loops := [(0, 5, 1), (0, 6, 1)] } (encR 0x02 0 1 0 0 0 0 0 (BitVec.ofNat 20 3)), 0, { secA with loops := [(0, 5, 1), (0, 6, 1)] }, 1, 3, by decide +kernel⟩
  · exact ⟨nibAt (encI 0x03 1 0xFFFFFFFF), 0, secA, 1, 0xFFFFFFFF, by decide +kernel⟩
  · exact ⟨nibAt (encR 0x04 1 7 0 0 0 0 0 0xFFFFF), 0, secA, 1, 7, 0xFFFFF, by decide +kernel⟩
  · exact ⟨nibAt (encR 0x05 1 7 2 0 0 0 0 0), 0, secA, 1, 7, 2, by decide +kernel⟩
  · exact ⟨nibAt (w1 0x08 1 31), 0, secA, 1, 31, by decide +kernel⟩
  · exact ⟨nibAt (encI 0x09 31 0xFFFFFFFF), 0, secA, 31, 0xFFFFFFFF, by decide +kernel⟩
  · exact ⟨nibAt (encR 0x0A 31 30 0 7 0 0 0 127), 0, secA, 31, 30, 7, 127, by decide +kernel⟩
  · exact ⟨nibAt (encR 0x0B 31 30 0 7 0 0 0 127), 0, secA, 31, 30, 7, 127, by decide +kernel⟩

/-- Each clause of NibFloatCommandsComplete with hypotheses has a state and operands that meet them. -/
theorem witness_NibFloatCommandsComplete :
    (∃ (s : State) (t : Nat) (c : Section) (d a b : Nat), s.issues t c (w2 0x0C d a b) ∧ d < 32 ∧ a < 32 ∧ b < 32) ∧
    (∃ (s : State) (t : Nat) (c : Section) (d a b : Nat), s.issues t c (w2 0x0D d a b) ∧ d < 32 ∧ a < 32 ∧ b < 32) ∧
    (∃ (s : State) (t : Nat) (c : Section) (d a b : Nat), s.issues t c (w2 0x0E d a b) ∧ d < 32 ∧ a < 32 ∧ b < 32) ∧
    (∃ (s : State) (t : Nat) (c : Section) (d a b : Nat), s.issues t c (w2 0x0F d a b) ∧ d < 32 ∧ a < 32 ∧ b < 32) ∧
    (∃ (s : State) (t : Nat) (c : Section) (d a b : Nat), s.issues t c (w2 0x11 d a b) ∧ d < 32 ∧ a < 32 ∧ b < 32) ∧
    (∃ (s : State) (t : Nat) (c : Section) (d a b : Nat), s.issues t c (w2 0x12 d a b) ∧ d < 32 ∧ a < 32 ∧ b < 32) ∧
    (∃ (s : State) (t : Nat) (c : Section) (d a : Nat), s.issues t c (w1 0x10 d a) ∧ d < 32 ∧ a < 32) ∧
    (∃ (s : State) (t : Nat) (c : Section) (d a : Nat), s.issues t c (w1 0x13 d a) ∧ d < 32 ∧ a < 32) ∧
    (∃ (s : State) (t : Nat) (c : Section) (d a : Nat), s.issues t c (w1 0x14 d a) ∧ d < 32 ∧ a < 32) ∧
    (∃ (s : State) (t : Nat) (c : Section) (d a b : Nat), s.issues t c (w2 0x1C d a b) ∧ d < 32 ∧ a < 32 ∧ b < 32) ∧
    (∃ (s : State) (t : Nat) (c : Section) (d a b : Nat), s.issues t c (w2 0x1D d a b) ∧ d < 32 ∧ a < 32 ∧ b < 32) ∧
    (∃ (s : State) (t : Nat) (c : Section) (d a : Nat), s.issues t c (w1 0x22 d a) ∧ d < 32 ∧ a < 32) ∧
    (∃ (s : State) (t : Nat) (c : Section) (d a : Nat), s.issues t c (w1 0x23 d a) ∧ d < 32 ∧ a < 32) ∧
    (∃ (s : State) (t : Nat) (c : Section) (d a : Nat), s.issues t c (w1 0x24 d a) ∧ d < 32 ∧ a < 32) := by
  refine ⟨?_, ?_, ?_, ?_, ?_, ?_, ?_, ?_, ?_, ?_, ?_, ?_, ?_, ?_⟩
  · exact ⟨nibAt (w2 0x0C 31 30 29), 0, secA, 31, 30, 29, by decide +kernel⟩
  · exact ⟨nibAt (w2 0x0D 31 30 29), 0, secA, 31, 30, 29, by decide +kernel⟩
  · exact ⟨nibAt (w2 0x0E 31 30 29), 0, secA, 31, 30, 29, by decide +kernel⟩
  · exact ⟨nibAt (w2 0x0F 31 30 29), 0, secA, 31, 30, 29, by decide +kernel⟩
  · exact ⟨nibAt (w2 0x11 31 30 29), 0, secA, 31, 30, 29, by decide +kernel⟩
  · exact ⟨nibAt (w2 0x12 31 30 29), 0, secA, 31, 30, 29, by decide +kernel⟩
  · exact ⟨nibAt (w1 0x10 31 30), 0, secA, 31, 30, by decide +kernel⟩
  · exact ⟨nibAt (w1 0x13 31 30), 0, secA, 31, 30, by decide +kernel⟩
  · exact ⟨nibAt (w1 0x14 31 30), 0, secA, 31, 30, by decide +kernel⟩
  · exact ⟨nibAt (w2 0x1C 31 30 29), 0, secA, 31, 30, 29, by decide +kernel⟩
  · exact ⟨nibAt (w2 0x1D 31 30 29), 0, secA, 31, 30, 29, by decide +kernel⟩
  · exact ⟨nibAt (w1 0x22 31 30), 0, secA, 31, 30, by decide +kernel⟩
  · exact ⟨nibAt (w1 0x23 31 30), 0, secA, 31, 30, by decide +kernel⟩
  · exact ⟨nibAt (w1 0x24 31 30), 0, secA, 31, 30, by decide +kernel⟩

/-- Each clause of NibIntegerCommandsComplete with hypotheses has a state and operands that meet them. -/
theorem witness_NibIntegerCommandsComplete :
    (∃ (s : State) (t : Nat) (c : Section) (d a b : Nat), s.issues t c (w2 0x15 d a b) ∧ d < 32 ∧ a < 32 ∧ b < 32) ∧
    (∃ (s : State) (t : Nat) (c : Section) (d a b : Nat), s.issues t c (w2 0x16 d a b) ∧ d < 32 ∧ a < 32 ∧ b < 32) ∧
    (∃ (s : State) (t : Nat) (c : Section) (d a b : Nat), s.issues t c (w2 0x17 d a b) ∧ d < 32 ∧ a < 32 ∧ b < 32) ∧
    (∃ (s : State) (t : Nat) (c : Section) (d a b : Nat), s.issues t c (w2 0x18 d a b) ∧ d < 32 ∧ a < 32 ∧ b < 32) ∧
    (∃ (s : State) (t : Nat) (c : Section) (d a b : Nat), s.issues t c (w2 0x19 d a b) ∧ d < 32 ∧ a < 32 ∧ b < 32) ∧
    (∃ (s : State) (t : Nat) (c : Section) (d a n : Nat), s.issues t c (encR 0x1A d a 0 0 0 0 0 (BitVec.ofNat 20 n)) ∧ d < 32 ∧ a < 32 ∧ n < 32) ∧
    (∃ (s : State) (t : Nat) (c : Section) (d a n : Nat), s.issues t c (encR 0x1B d a 0 0 0 0 0 (BitVec.ofNat 20 n)) ∧ d < 32 ∧ a < 32 ∧ n < 32) ∧
    (∃ (s : State) (t : Nat) (c : Section) (d a b i : Nat), s.issues t c (encR 0x1E d a b i 0 0 0 0) ∧ d < 32 ∧ a < 32 ∧ b < 32 ∧ i < 32) := by
  refine ⟨?_, ?_, ?_, ?_, ?_, ?_, ?_, ?_⟩
  · exact ⟨nibAt (w2 0x15 31 30 29), 0, secA, 31, 30, 29, by decide +kernel⟩
  · exact ⟨nibAt (w2 0x16 31 30 29), 0, secA, 31, 30, 29, by decide +kernel⟩
  · exact ⟨nibAt (w2 0x17 31 30 29), 0, secA, 31, 30, 29, by decide +kernel⟩
  · exact ⟨nibAt (w2 0x18 31 30 29), 0, secA, 31, 30, 29, by decide +kernel⟩
  · exact ⟨nibAt (w2 0x19 31 30 29), 0, secA, 31, 30, 29, by decide +kernel⟩
  · exact ⟨nibAt (encR 0x1A 31 30 0 0 0 0 0 31), 0, secA, 31, 30, 31, by decide +kernel⟩
  · exact ⟨nibAt (encR 0x1B 31 30 0 0 0 0 0 31), 0, secA, 31, 30, 31, by decide +kernel⟩
  · exact ⟨nibAt (encR 0x1E 31 30 29 28 0 0 0 0), 0, secA, 31, 30, 29, 28, by decide +kernel⟩

/-- Each clause of NibFormatCommandsComplete with hypotheses has a state and operands that meet them. -/
theorem witness_NibFormatCommandsComplete :
    (∃ (s : State) (t : Nat) (c : Section) (d a fmt part : Nat), s.issues t c (encR 0x1F d a 0 0 fmt part 0 0) ∧ d < 32 ∧ a < 32 ∧ fmt < 16 ∧ part < 8) ∧
    (∃ (s : State) (t : Nat) (c : Section) (d a b fmt part slot : Nat), s.issues t c (encR 0x20 d a b 0 fmt part slot 0) ∧ d < 32 ∧ a < 32 ∧ b < 32 ∧ fmt < 16 ∧ part < 8 ∧ slot < 4) ∧
    (∃ (s : State) (t : Nat) (c : Section) (d a b : Nat), s.issues t c (w2 0x21 d a b) ∧ d < 32 ∧ a < 32 ∧ b < 32) ∧
    (∃ (s : State) (t : Nat) (c : Section) (a b fmt part : Nat) (imm : BitVec 20), s.issues t c (encR 0x27 0 a b 0 fmt part 0 imm) ∧ a < 32 ∧ b < 32 ∧ fmt < 16 ∧ part < 8) ∧
    (∃ (s : State) (t : Nat) (c : Section) (d b fmt part : Nat) (imm : BitVec 20), s.issues t c (encR 0x28 d 0 b 0 fmt part 0 imm) ∧ d < 32 ∧ b < 32 ∧ fmt < 16 ∧ part < 8) ∧
    (∃ (s : State) (t : Nat) (c : Section) (d a part j : Nat) (r0 r1 r2 : Row), s.issues t c (encR 0x25 d a 0 0 0 part 0 0) ∧ d < 32 ∧ a < 32 ∧ part < 8 ∧ c.tables.find? (fun e => e.1 == part) = some (j, r0, r1, r2)) ∧
    (∃ (s : State) (t : Nat) (c : Section) (d a part : Nat), s.issues t c (encR 0x25 d a 0 0 0 part 0 0) ∧ d < 32 ∧ a < 32 ∧ part < 8 ∧ c.tables.find? (fun e => e.1 == part) = none) := by
  refine ⟨?_, ?_, ?_, ?_, ?_, ?_, ?_⟩
  · exact ⟨nibAt (encR 0x1F 31 30 0 0 0 3 0 0), 0, secA, 31, 30, 0, 3, by decide +kernel⟩
  · exact ⟨nibAt (encR 0x20 31 30 29 0 0 3 2 0), 0, secA, 31, 30, 29, 0, 3, 2, by decide +kernel⟩
  · exact ⟨nibAt (w2 0x21 31 30 29), 0, secA, 31, 30, 29, by decide +kernel⟩
  · exact ⟨nibAt (encR 0x27 0 31 7 0 0 3 0 5), 0, secA, 31, 7, 0, 3, 5, by decide +kernel⟩
  · exact ⟨nibAt (encR 0x28 31 0 7 0 0 3 0 5), 0, secA, 31, 7, 0, 3, 5, by decide +kernel⟩
  · exact ⟨nibWith { secA with tables := [(2, 5, 6, 7)] } (encR 0x25 31 30 0 0 0 2 0 0), 0, { secA with tables := [(2, 5, 6, 7)] }, 31, 30, 2, 2, 5, 6, 7, by decide +kernel⟩
  · exact ⟨nibAt (encR 0x25 31 30 0 0 0 2 0 0), 0, secA, 31, 30, 2, by decide +kernel⟩

/-- Each clause of NibMemoryCommandsComplete with hypotheses has a state and operands that meet them. -/
theorem witness_NibMemoryCommandsComplete :
    (∃ (s : State) (t : Nat) (c : Section) (d a : Nat) (imm : BitVec 20) (p : Pipe) (sg : Stage) (sp : Step), s.issues t c (encR 0x06 d a 0 0 0 0 0 imm) ∧ d < 32 ∧ a < 32 ∧ s.stepOf c.step = some (p, sg, sp) ∧ sg.inWindow (c.row a imm.toNat) 1 = true ∧ s.rowFilling t (c.row a imm.toNat) = false ∧ (s.rowReads t c.ep [c.row a imm.toNat]).2.1 = 0) ∧
    (∃ (s : State) (t : Nat) (c : Section) (a b : Nat) (imm : BitVec 20) (p : Pipe) (sg : Stage) (sp : Step) (r : Run), s.issues t c (encR 0x07 0 a b 0 0 0 0 imm) ∧ a < 32 ∧ b < 32 ∧ s.stepOf c.step = some (p, sg, sp) ∧ (s.tile t).run c.step = some r ∧ sg.inWindow (c.row a imm.toNat) 1 = true ∧ ¬ (c.kind = .epilogue ∧ r.epiForbids c.block (c.row a imm.toNat) = true) ∧ s.rowFilling t (c.row a imm.toNat) = false ∧ (s.inkWrite t (c.row a imm.toNat) rqVector (c.vr b)).2 = 0) ∧
    (∃ (s : State) (t : Nat) (c : Section) (a part : Nat) (imm : BitVec 20) (r : B32) (p : Pipe) (sg : Stage) (sp : Step), s.issues t c (encR 0x26 0 a 0 0 0 part 0 imm) ∧ a < 32 ∧ part < 8 ∧ r = c.ar a + BitVec.ofInt 32 (sext imm.toNat 20) ∧ s.stepOf c.step = some (p, sg, sp) ∧ [r.toNat, (r + 1).toNat, (r + 2).toNat].all (fun x => sg.inWindow x 1) = true ∧ [r.toNat, (r + 1).toNat, (r + 2).toNat].any (fun x => s.rowFilling t x) = false ∧ (s.rowReads t c.ep [r.toNat, (r + 1).toNat, (r + 2).toNat]).2.1 = 0) ∧
    (∃ (s : State) (t : Nat) (c : Section) (d a b i : Nat) (imm : BitVec 20) (p : Pipe) (sg : Stage) (sp : Step), s.issues t c (encR 0x29 d a b i 0 0 0 imm) ∧ d < 32 ∧ a < 32 ∧ b < 32 ∧ i < 32 ∧ (¬ ((laneOf (c.vr b) (c.lane i imm.toNat)).toInt < 0 ∨ (((((s.tile t).run c.step).bind (·.bind)).elim 0 bGather : Nat) : Int) ≤ (laneOf (c.vr b) (c.lane i imm.toNat)).toInt)) ∧ s.stepOf c.step = some (p, sg, sp) ∧ sg.inWindow ((c.ar a + BitVec.ofInt 32 (laneOf (c.vr b) (c.lane i imm.toNat)).toInt).toNat) 1 = true ∧ s.rowFilling t ((c.ar a + BitVec.ofInt 32 (laneOf (c.vr b) (c.lane i imm.toNat)).toInt).toNat) = false ∧ (s.rowReads t c.ep [(c.ar a + BitVec.ofInt 32 (laneOf (c.vr b) (c.lane i imm.toNat)).toInt).toNat]).2.1 = 0) ∧
    (∃ (s : State) (t : Nat) (c : Section) (d a b i : Nat) (imm : BitVec 20), s.issues t c (encR 0x29 d a b i 0 0 0 imm) ∧ d < 32 ∧ a < 32 ∧ b < 32 ∧ i < 32 ∧ ((laneOf (c.vr b) (c.lane i imm.toNat)).toInt < 0 ∨ (((((s.tile t).run c.step).bind (·.bind)).elim 0 bGather : Nat) : Int) ≤ (laneOf (c.vr b) (c.lane i imm.toNat)).toInt)) ∧
    (∃ (s : State) (t : Nat) (c : Section) (a i : Nat) (imm : BitVec 20) (b : BitVec 512), s.issues t c (encR 0x2A 0 a 0 i 0 0 0 imm) ∧ a < 32 ∧ i < 32 ∧ ((s.tile t).run c.step).bind (·.bind) = some b ∧ c.row a imm.toNat < 4096 ∧ (c.ar i).toNat < 64) ∧
    (∃ (s : State) (t : Nat) (c : Section) (d a part : Nat) (imm : BitVec 20), s.issues t c (encR 0x2B d a 0 0 0 part 0 imm) ∧ d < 32 ∧ a < 32 ∧ part < 8 ∧ c.row a imm.toNat < 4096 ∧ ((SMap.get RsEntry.idle (s.tile t).rstats ((s.tile t).half c.step.epoch * 4096 + c.row a imm.toNat)).state = .released ∨ (SMap.get RsEntry.idle (s.tile t).rstats ((s.tile t).half c.step.epoch * 4096 + c.row a imm.toNat)).state = .settling)) := by
  refine ⟨?_, ?_, ?_, ?_, ?_, ?_, ?_⟩
  · exact ⟨nibAt (encR 0x06 31 1 0 0 0 0 0 16), 0, secA, 31, 1, 16, pipeW [stageW .tile stepN], stageW .tile stepN, stepN, by decide +kernel⟩
  · exact ⟨nibAt (encR 0x07 0 1 31 0 0 0 0 16), 0, secA, 1, 31, 16, pipeW [stageW .tile stepN], stageW .tile stepN, stepN, runN, by decide +kernel⟩
  · exact ⟨nibAt (encR 0x26 0 1 0 0 0 2 0 16), 0, secA, 1, 2, 16, 17, pipeW [stageW .tile stepN], stageW .tile stepN, stepN, by decide +kernel⟩
  · exact ⟨nibWith secA (encR 0x29 31 1 30 2 0 0 0 5), 0, secA, 31, 1, 30, 2, 5, pipeW [stageW .tile stepN], stageW .tile stepN, stepN, by decide +kernel⟩
  · exact ⟨nibWith { secA with v := [(30, -1)] } (encR 0x29 31 1 30 2 0 0 0 5), 0, { secA with v := [(30, -1)] }, 31, 1, 30, 2, 5, by decide +kernel⟩
  · exact ⟨nibAt (encR 0x2A 0 1 0 1 0 0 0 5), 0, secA, 1, 1, 5, nibBind, by decide +kernel⟩
  · exact ⟨(let u := nibWith secA (encR 0x2B 31 1 0 0 0 3 0 5); u.setTile 0 { u.tile 0 with rstats := [(6, ⟨.released, 1, 2, 3, 4, 5⟩)] }), 0, secA, 31, 1, 3, 5, by decide +kernel⟩

/-- Each clause of RowStatAndNibMemoryCommandsComplete with hypotheses has a state and operands that meet them. -/
theorem witness_RowStatAndNibMemoryCommandsComplete :
    (∃ (s : State) (t pipe : Nat) (side : Bool) (msg : BitVec 256) (s1 : State) (b : BitVec 512) (n k : Nat) (x : State × Nat × Row) (sum : Row) (y : State × Nat), s.awake = true ∧ rsKind msg = 0 ∧ s.takeRs ⟨t, pipe, side, msg⟩ = some s1 ∧ (s1.tile t).holds (rsEpoch msg) = true ∧ s1.epochLive (rsEpoch msg) = true ∧ (s1.owned t pipe side (rsEpoch msg)).find? (fun x => decide (bRsBase x.1 ≤ rsEntry msg) && decide (rsEntry msg < bRsBase x.1 + x.2)) = some (b, n) ∧ rsBlock msg < bExpected b ∧ k = (s1.tile t).half (rsEpoch msg) * 4096 + rsEntry msg ∧ (SMap.get RsEntry.idle (s1.tile t).rstats k).bitmap.getLsbD (rsBlock msg) = false ∧ (s1.hosts t).any (fun h => h.1 == pipe && h.2.1 == side && ((s1.pipe pipe).stage h.2.2).any (fun sg => sg.inWindow (bPsum b + (rsEntry msg - bRsBase b)) 1)) = true ∧ s1.rowFilling t (bPsum b + (rsEntry msg - bRsBase b)) = false ∧ x = s1.inkRead t (bPsum b + (rsEntry msg - bRsBase b)) rqVector (some (rsEpoch msg, pipe)) ∧ x.2.1 = 0 ∧ sum = setLane (setLane x.2.2 (2 * rsBlock msg) (rsVal msg 2)) (2 * rsBlock msg + 1) (rsVal msg 3) ∧ y = x.1.inkWrite t (bPsum b + (rsEntry msg - bRsBase b)) rqVector sum ∧ y.2 = 0) ∧
    (∃ (s : State) (t pipe : Nat) (side : Bool) (msg : BitVec 256) (s1 : State) (r : Run), s.awake = true ∧ rsKind msg = 1 ∧ s.takeRs ⟨t, pipe, side, msg⟩ = some s1 ∧ (s1.tile t).runs.find? (fun r => r.step.epoch == rsEpoch msg && r.step.pipe == pipe && r.step.side == side && r.rowMode && r.bind.any (fun b => decide (bRsBase b ≤ rsEntry msg) && decide (rsEntry msg < bRsBase b + r.rows))) = some r) ∧
    (∃ (s : State) (rq : Requester) (t i : Nat) (high : Bool) (v : B32), s.awake = true ∧ t < 80 ∧ i < 512 ∧ (s.tile t).residents.isEmpty = true ∧ regAllowed rq true (kTil t (0x1000 + 8 * i + 4 * b2n high)) = true) ∧
    (∃ (s : State) (rq : Requester) (t : Nat), s.awake = true ∧ t < 80 ∧ regAllowed rq true (kTil t 0x510) = true) := by
  refine ⟨?_, ?_, ?_, ?_⟩
  · exact ⟨withRs msgR, 0, 0, false, msgR, (withRs msgR).takeRs ⟨0, 0, false, msgR⟩ |>.getD up, rowBind, 1, 0, ((withRs msgR).takeRs ⟨0, 0, false, msgR⟩ |>.getD up).inkRead 0 500 rqVector (some (7, 0)), setLane (setLane (((withRs msgR).takeRs ⟨0, 0, false, msgR⟩ |>.getD up).inkRead 0 500 rqVector (some (7, 0))).2.2 0 3) 1 4, (((withRs msgR).takeRs ⟨0, 0, false, msgR⟩ |>.getD up).inkRead 0 500 rqVector (some (7, 0))).1.inkWrite 0 500 rqVector (setLane (setLane (((withRs msgR).takeRs ⟨0, 0, false, msgR⟩ |>.getD up).inkRead 0 500 rqVector (some (7, 0))).2.2 0 3) 1 4), by decide +kernel⟩
  · exact ⟨withRs msgL, 0, 0, false, msgL, (withRs msgL).takeRs ⟨0, 0, false, msgL⟩ |>.getD up, { runN with bind := some rowBind }, by decide +kernel⟩
  · exact ⟨up, rqCore0, 79, 511, true, 9, by decide +kernel⟩
  · exact ⟨up, rqCore0, 79, by decide +kernel⟩

/-- Each clause of EngineCommandsComplete with hypotheses has a state and operands that meet them. -/
theorem witness_EngineCommandsComplete :
    (∃ (s : State) (st : StepRef) (p : Pipe) (sg : Stage) (sp : Step) (b : PipeBind) (u : Nat), s.engineStep st .stem kStem = some (p, sg, sp, b) ∧ b.stemOf st.side sg.unit = some u ∧ (s.stem u).run.isSome = false ∧ s.olderOnEngine st .stem kStem (fun b sd x => b.stemOf sd x.unit == some u) = false ∧ s.skips st = false ∧ checkStem (((s.beginStep st).markCold st).stemReloc p st sp) (p.inGrant st.stage sg st.side) = none ∧ s.stemBusy (((s.beginStep st).markCold st).stemReloc p st sp) = false) ∧
    (∃ (s : State) (st : StepRef) (p : Pipe) (sg : Stage) (sp : Step) (u : Nat) (r : EngineRun), s.stepOf st = some (p, sg, sp) ∧ p.bind.bind (fun b => b.stemOf st.side sg.unit) = some u ∧ (s.stem u).run = some r ∧ s.awake = true ∧ sg.kind = .stem ∧ r.step = st) ∧
    (∃ (s : State) (st : StepRef) (w : Bool) (p : Pipe) (sg : Stage) (sp : Step) (b : PipeBind) (u : Nat), s.engineStep st .stem kStem = some (p, sg, sp, b) ∧ b.stemOf st.side sg.unit = some u ∧ (s.stem u).run.isSome = false ∧ s.olderOnEngine st .stem kStem (fun b sd x => b.stemOf sd x.unit == some u) = false ∧ s.skips st = true) ∧
    (∃ (s : State) (st : StepRef) (p : Pipe) (sg : Stage) (sp : Step) (b : PipeBind) (u : Nat), s.engineStep st .spectral kSpectral = some (p, sg, sp, b) ∧ b.spcOf st.side sg.unit = some u ∧ (s.spc u).run.isSome = false ∧ s.olderOnEngine st .spectral kSpectral (fun b sd x => b.spcOf sd x.unit == some u) = false ∧ s.skips st = false ∧ checkSpc (((s.beginStep st).markCold st).spcReloc p st sp) (p.inGrant st.stage sg st.side) = none ∧ s.spcBusy (((s.beginStep st).markCold st).spcReloc p st sp) = false) ∧
    (∃ (s : State) (st : StepRef) (p : Pipe) (sg : Stage) (sp : Step) (u : Nat) (r : EngineRun), s.stepOf st = some (p, sg, sp) ∧ p.bind.bind (fun b => b.spcOf st.side sg.unit) = some u ∧ (s.spc u).run = some r ∧ s.awake = true ∧ sg.kind = .spectral ∧ r.step = st) ∧
    (∃ (s : State) (st : StepRef) (w : Bool) (p : Pipe) (sg : Stage) (sp : Step) (b : PipeBind) (u : Nat), s.engineStep st .spectral kSpectral = some (p, sg, sp, b) ∧ b.spcOf st.side sg.unit = some u ∧ (s.spc u).run.isSome = false ∧ s.olderOnEngine st .spectral kSpectral (fun b sd x => b.spcOf sd x.unit == some u) = false ∧ s.skips st = true) ∧
    (∃ (s : State) (rq : Requester) (u : Nat), s.awake = true ∧ u < 8 ∧ regAllowed rq true (kStm u 0xC) = true) ∧
    (∃ (s : State) (rq : Requester) (u : Nat), s.awake = true ∧ u < 4 ∧ regAllowed rq true (kSpc u 0xC) = true) := by
  refine ⟨?_, ?_, ?_, ?_, ?_, ?_, ?_, ?_⟩
  · exact ⟨running [stageW .stem stepStem], stA, pipeW [stageW .stem stepStem], stageW .stem stepStem, stepStem, (pipeW []).bind.getD bindA, 0, by decide +kernel⟩
  · exact ⟨(running [stageW .stem stepStem]).setStem 0 ⟨some ⟨stA, 0, []⟩, StemBuf.empty⟩, stA, pipeW [stageW .stem stepStem], stageW .stem stepStem, stepStem, 0, ⟨stA, 0, []⟩, by decide +kernel⟩
  · exact ⟨skipping [stageW .stem stepStem], stA, true, pipeW (coldW [stageW .stem stepStem]), { stageW .stem stepStem with cold := 1 }, stepStem, (pipeW []).bind.getD bindA, 0, by decide +kernel⟩
  · exact ⟨running [stageW .spectral stepSpectral], stA, pipeW [stageW .spectral stepSpectral], stageW .spectral stepSpectral, stepSpectral, (pipeW []).bind.getD bindA, 0, by decide +kernel⟩
  · exact ⟨(running [stageW .spectral stepSpectral]).setSpc 0 ⟨some ⟨stA, 0, []⟩, StemBuf.empty⟩, stA, pipeW [stageW .spectral stepSpectral], stageW .spectral stepSpectral, stepSpectral, 0, ⟨stA, 0, []⟩, by decide +kernel⟩
  · exact ⟨skipping [stageW .spectral stepSpectral], stA, true, pipeW (coldW [stageW .spectral stepSpectral]), { stageW .spectral stepSpectral with cold := 1 }, stepSpectral, (pipeW []).bind.getD bindA, 0, by decide +kernel⟩
  · exact ⟨up, rqCore0, 7, by decide +kernel⟩
  · exact ⟨up, rqCore0, 3, by decide +kernel⟩

/-- Each clause of FlowWordCommandsComplete with hypotheses has a state and operands that meet them. -/
theorem witness_FlowWordCommandsComplete :
    (∃ (s : State) (st : StepRef) (p : Pipe) (sg : Stage) (sp : Step), s.stepOf st = some (p, sg, sp) ∧ sg.kind = .tile ∧ (s.tileStep st kSignal).isSome = true) ∧
    (∃ (s : State) (st : StepRef) (p : Pipe) (sg : Stage) (sp : Step) (x : Pipe × Stage × Step × PipeBind), s.stepOf st = some (p, sg, sp) ∧ sg.kind = .stem ∧ s.engineStep st .stem kSignal = some x ∧ s.olderOnEngine st .stem kSignal (fun b sd y => b.stemOf sd y.unit == x.2.2.2.stemOf st.side sg.unit) = false) ∧
    (∃ (s : State) (st : StepRef) (p : Pipe) (sg : Stage) (sp : Step) (x : Pipe × Stage × Step × PipeBind), s.stepOf st = some (p, sg, sp) ∧ sg.kind = .spectral ∧ s.engineStep st .spectral kSignal = some x ∧ s.olderOnEngine st .spectral kSignal (fun b sd y => b.spcOf sd y.unit == x.2.2.2.spcOf st.side sg.unit) = false) ∧
    (∃ (s : State) (w : B64) (f : Flight), s.flightOf w wToken = some f ∧ s.awake = true ∧ s.unitMoves (s.pipe (wPipe w)) f.stage (wSide w) = false) ∧
    (∃ (s : State) (w : B64) (f : Flight), s.flightOf w wCredit = some f ∧ s.awake = true ∧ s.unitMoves (s.pipe (wPipe w)) f.stage (wSide w) = false) ∧
    (∃ (s : State) (w : B64) (f : Flight), s.flightOf w wToken = some f ∧ s.awake = true ∧ s.unitMoves (s.pipe (wPipe w)) f.stage (wSide w) = false) ∧
    (∃ (s : State) (w : B64) (f : Flight), s.flightOf w wCredit = some f ∧ s.awake = true ∧ s.unitMoves (s.pipe (wPipe w)) f.stage (wSide w) = false) ∧
    (∃ (s : State) (w : B64) (f : Flight), s.flightOf w wToken = some f ∧ s.awake = true ∧ s.unitMoves (s.pipe (wPipe w)) f.stage (wSide w) = false ∧ s.unitHolds (s.pipe (wPipe w)) f.stage (wSide w) (wEpoch w) = false ∧ s.numberTaken (wPipe w) (wEpoch w) = false) ∧
    (∃ (s : State) (w : B64) (f : Flight), s.flightOf w wCredit = some f ∧ s.awake = true ∧ s.unitMoves (s.pipe (wPipe w)) f.stage (wSide w) = false) ∧
    (∃ (s : State) (stage : Nat) (w : B64) (f : Flight), s.commit.flight.find? (fun f => f.word == w && f.stage == stage && wKind f.word == wWithdraw) = some f ∧ s.awake = true ∧ s.unitMoves (s.pipe (wPipe w)) stage (wSide w) = false) ∧
    (∃ (s : State) (stage : Nat) (w : B64) (f : Flight), s.commit.flight.find? (fun f => f.word == w && f.stage == stage && wKind f.word == wWithdraw) = some f ∧ s.awake = true ∧ s.unitMoves (s.pipe (wPipe w)) stage (wSide w) = false) ∧
    (∃ (s : State) (stage : Nat) (w : B64) (f : Flight), s.commit.flight.find? (fun f => f.word == w && f.stage == stage && wKind f.word == wWithdraw) = some f ∧ s.awake = true ∧ s.unitMoves (s.pipe (wPipe w)) stage (wSide w) = false) ∧
    (∃ (s : State) (w : B64) (f : Flight) (r : Epoch), s.flightOf w wReport = some f ∧ s.awake = true ∧ (s.pipe (wPipe w)).hosted s.boot.dev = false ∧ ((s.takeFlight f).epochRec (wEpoch w)).filter (fun r => r.pipe == wPipe w) = some r ∧ f.ack = false ∧ wSlot w = 0 ∧ f.word = w) ∧
    (∃ (s : State) (w : B64) (f : Flight) (r : Epoch), s.flightOf w wReport = some f ∧ s.awake = true ∧ (s.pipe (wPipe w)).hosted s.boot.dev = false ∧ ((s.takeFlight f).epochRec (wEpoch w)).filter (fun r => r.pipe == wPipe w) = some r ∧ f.ack = false ∧ wSlot w ≠ 0 ∧ f.word = w) ∧
    (∃ (s : State) (w : B64) (f : Flight) (s1 : State) (r : Epoch), s.flightOf w wReport = some f ∧ s.awake = true ∧ s1 = s.takeFlight f ∧ (s.pipe (wPipe w)).hosted s.boot.dev = false ∧ (s1.epochRec (wEpoch w)).filter (fun r => r.pipe == wPipe w) = some r ∧ f.ack = true ∧ f.word = w ∧ r.state = .ending) ∧
    (∃ (s : State) (w : B64) (f : Flight) (s1 : State) (r : Epoch), s.flightOf w wReport = some f ∧ s.awake = true ∧ s1 = (s.takeFlight f).parityFault 0x8000 (wPipe w) (parityEnds .badWord (wEpoch w) (s.takeFlight f).residentHere) ∧ (s.pipe (wPipe w)).hosted s.boot.dev = false ∧ (s1.epochRec (wEpoch w)).filter (fun r => r.pipe == wPipe w) = some r ∧ f.ack = true ∧ f.word = w ∧ r.state = .ending) ∧
    (∃ (s : State) (w : B64) (f : Flight) (s1 : State) (r : Epoch), s.flightOf w wReport = some f ∧ s.awake = true ∧ s1 = (s.takeFlight f).parityFault 0x8000 (wPipe w) (parityEnds .badEpoch (wEpoch w) (s.takeFlight f).residentHere) ∧ (s.pipe (wPipe w)).hosted s.boot.dev = false ∧ (s1.epochRec (wEpoch w)).filter (fun r => r.pipe == wPipe w) = some r ∧ f.ack = true ∧ f.word = w ∧ r.state = .ending) ∧
    (∃ (s : State) (w : B64) (f : Flight), s.flightOf w wReport = some f ∧ s.awake = true ∧ f.ack = false) ∧
    (∃ (s : State) (w : B64) (f : Flight), s.flightOf w wReport = some f ∧ s.awake = true ∧ f.ack = false) ∧
    (∃ (s : State) (w : B64) (f : Flight) (r : Epoch), s.flightOf w wReport = some f ∧ s.awake = true ∧ (s.pipe (wPipe w)).hosted s.boot.dev = true ∧ ((s.takeFlight f).epochRec (wEpoch w)).filter (fun r => r.pipe == wPipe w) = some r) := by
  refine ⟨?_, ?_, ?_, ?_, ?_, ?_, ?_, ?_, ?_, ?_, ?_, ?_, ?_, ?_, ?_, ?_, ?_, ?_, ?_, ?_⟩
  · exact ⟨running [stageW .tile stepSig], stA, pipeW [stageW .tile stepSig], stageW .tile stepSig, stepSig, by decide +kernel⟩
  · exact ⟨running [stageW .stem stepSig], stA, pipeW [stageW .stem stepSig], stageW .stem stepSig, stepSig, (pipeW [stageW .stem stepSig], stageW .stem stepSig, stepSig, (pipeW []).bind.getD bindA), by decide +kernel⟩
  · exact ⟨running [stageW .spectral stepSig], stA, pipeW [stageW .spectral stepSig], stageW .spectral stepSig, stepSig, (pipeW [stageW .spectral stepSig], stageW .spectral stepSig, stepSig, (pipeW []).bind.getD bindA), by decide +kernel⟩
  · exact ⟨flying (mkWord 0 0 false wToken 0 7) 0, mkWord 0 0 false wToken 0 7, ⟨(mkWord 0 0 false wToken 0 7), 0, false⟩, by decide +kernel⟩
  · exact ⟨flying (mkWord 0 0 false wCredit 0 7) 0, mkWord 0 0 false wCredit 0 7, ⟨(mkWord 0 0 false wCredit 0 7), 0, false⟩, by decide +kernel⟩
  · exact ⟨flying (mkWord 0 0 false wToken 0 7) 0, mkWord 0 0 false wToken 0 7, ⟨(mkWord 0 0 false wToken 0 7), 0, false⟩, by decide +kernel⟩
  · exact ⟨flying (mkWord 0 0 false wCredit 0 7) 0, mkWord 0 0 false wCredit 0 7, ⟨(mkWord 0 0 false wCredit 0 7), 0, false⟩, by decide +kernel⟩
  · exact ⟨flying (mkWord 0 0 false wToken 0 7) 0, mkWord 0 0 false wToken 0 7, ⟨(mkWord 0 0 false wToken 0 7), 0, false⟩, by decide +kernel⟩
  · exact ⟨flying (mkWord 0 0 false wCredit 0 7) 0, mkWord 0 0 false wCredit 0 7, ⟨(mkWord 0 0 false wCredit 0 7), 0, false⟩, by decide +kernel⟩
  · exact ⟨flying (mkWord 0 0 false wWithdraw 0 7) 0, 0, mkWord 0 0 false wWithdraw 0 7, ⟨(mkWord 0 0 false wWithdraw 0 7), 0, false⟩, by decide +kernel⟩
  · exact ⟨flying (mkWord 0 0 false wWithdraw 0 7) 0, 0, mkWord 0 0 false wWithdraw 0 7, ⟨(mkWord 0 0 false wWithdraw 0 7), 0, false⟩, by decide +kernel⟩
  · exact ⟨flying (mkWord 0 0 false wWithdraw 0 7) 0, 0, mkWord 0 0 false wWithdraw 0 7, ⟨(mkWord 0 0 false wWithdraw 0 7), 0, false⟩, by decide +kernel⟩
  · exact ⟨flying (mkWord 0 0 false wReport 0 7) 0, mkWord 0 0 false wReport 0 7, ⟨(mkWord 0 0 false wReport 0 7), 0, false⟩, epochW, by decide +kernel⟩
  · exact ⟨flying (mkWord 0 0 false wReport 2 7) 0, mkWord 0 0 false wReport 2 7, ⟨(mkWord 0 0 false wReport 2 7), 0, false⟩, epochW, by decide +kernel⟩
  · exact ⟨acked (mkWord 0 0 false wReport 2 7), mkWord 0 0 false wReport 2 7, ⟨mkWord 0 0 false wReport 2 7, 0, true⟩, (acked (mkWord 0 0 false wReport 2 7)).takeFlight ⟨mkWord 0 0 false wReport 2 7, 0, true⟩, ((((acked (mkWord 0 0 false wReport 2 7)).takeFlight ⟨mkWord 0 0 false wReport 2 7, 0, true⟩).epochRec 7)).getD epochW, by refine ⟨?_, ?_, ?_, ?_, ?_, ?_, ?_, ?_⟩ <;> first | decide +kernel | rfl⟩
  · exact ⟨acked (mkWord 0 0 false wReport 2 7), mkWord 0 0 false wReport 2 7, ⟨mkWord 0 0 false wReport 2 7, 0, true⟩, ((acked (mkWord 0 0 false wReport 2 7)).takeFlight ⟨mkWord 0 0 false wReport 2 7, 0, true⟩).parityFault 0x8000 0 (parityEnds .badWord 7 ((acked (mkWord 0 0 false wReport 2 7)).takeFlight ⟨mkWord 0 0 false wReport 2 7, 0, true⟩).residentHere), (((((acked (mkWord 0 0 false wReport 2 7)).takeFlight ⟨mkWord 0 0 false wReport 2 7, 0, true⟩).parityFault 0x8000 0 (parityEnds .badWord 7 ((acked (mkWord 0 0 false wReport 2 7)).takeFlight ⟨mkWord 0 0 false wReport 2 7, 0, true⟩).residentHere)).epochRec 7)).getD epochW, by refine ⟨?_, ?_, ?_, ?_, ?_, ?_, ?_, ?_⟩ <;> first | decide +kernel | rfl⟩
  · exact ⟨acked (mkWord 0 0 false wReport 2 7), mkWord 0 0 false wReport 2 7, ⟨mkWord 0 0 false wReport 2 7, 0, true⟩, ((acked (mkWord 0 0 false wReport 2 7)).takeFlight ⟨mkWord 0 0 false wReport 2 7, 0, true⟩).parityFault 0x8000 0 (parityEnds .badEpoch 7 ((acked (mkWord 0 0 false wReport 2 7)).takeFlight ⟨mkWord 0 0 false wReport 2 7, 0, true⟩).residentHere), (((((acked (mkWord 0 0 false wReport 2 7)).takeFlight ⟨mkWord 0 0 false wReport 2 7, 0, true⟩).parityFault 0x8000 0 (parityEnds .badEpoch 7 ((acked (mkWord 0 0 false wReport 2 7)).takeFlight ⟨mkWord 0 0 false wReport 2 7, 0, true⟩).residentHere)).epochRec 7)).getD epochW, by refine ⟨?_, ?_, ?_, ?_, ?_, ?_, ?_, ?_⟩ <;> first | decide +kernel | rfl⟩
  · exact ⟨flying (mkWord 0 0 false wReport 0 7) 0, mkWord 0 0 false wReport 0 7, ⟨(mkWord 0 0 false wReport 0 7), 0, false⟩, by decide +kernel⟩
  · exact ⟨flying (mkWord 0 0 false wReport 0 7) 0, mkWord 0 0 false wReport 0 7, ⟨(mkWord 0 0 false wReport 0 7), 0, false⟩, by decide +kernel⟩
  · exact ⟨((flying (mkWord 0 0 false wReport 0 7) 0).setPipe 0 { pipeW [stageW .tile stepSig] with bind := some { bindA with tiles := [⟨0, 1, 0⟩] } }), mkWord 0 0 false wReport 0 7, ⟨(mkWord 0 0 false wReport 0 7), 0, false⟩, epochW, by refine ⟨?_, ?_, ?_, ?_⟩ <;> first | decide +kernel | rfl⟩

/-- Each clause of EpochCommandsComplete with hypotheses has a state and operands that meet them. -/
theorem witness_EpochCommandsComplete :
    (∃ (s : State) (pipe port : Nat) (t : SrcTok) (ts : List SrcTok), s.mayAdmit pipe = true ∧ s.readyPort pipe = some (port, t, ts) ∧ s.admitWaits pipe port t = false ∧ t.head.isEmpty = true ∧ t.segs.isEmpty = true ∧ (s.itemBytes pipe t).2.1 = 0) ∧
    (∃ (s : State) (pipe port : Nat) (t : SrcTok) (ts : List SrcTok) (slots : List (Bool × Nat × Nat)), s.mayAdmit pipe = true ∧ s.readyPort pipe = some (port, t, ts) ∧ s.admitWaits pipe port t = false ∧ ¬ (t.head.isEmpty = true ∧ t.segs.isEmpty = true) ∧ s.sourceSlots pipe port = some slots ∧ (s.gather t).2.1 = 0 ∧ (s.gather t).2.2.length ≤ s.sourceBytes pipe port ∧ (((s.gather t).1.fillSlots pipe slots).writeSlots pipe slots (s.gather t).2.2).2 = 0) ∧
    (∃ (s : State) (e : B32) (r : Epoch) (x : State × Nat), s.epochRec e = some r ∧ s.awake = true ∧ s.mayCommit e r = true ∧ s.firstStaged e r = true ∧ ((s.pipe r.pipe).sides.contains false && s.sinksWait (s.pipe r.pipe) r.pipe e) = false ∧ x = (if (s.pipe r.pipe).sides.contains false then s.readSinks (s.pipe r.pipe) r.pipe e else (s, 0))) ∧
    (∃ (s : State) (pipe : Nat) (m : LnkMsg) (slots : List (Bool × Nat × Nat)) (b : PipeBind) (u : State × Sample), s.awake = true ∧ srcPipe m = pipe ∧ s.commit.srcFly.contains m = true ∧ (s.pipe pipe).bound = true ∧ s.sourceSlots pipe (srcPort m) = some slots ∧ (s.pipe pipe).bind = some b ∧ (s.pipe pipe).stopped = false ∧ s.slotsWait pipe slots (SMap.get noBytes s.commit.srcPart (partKey m)).length = false ∧ u = (({ s with commit := { s.commit with srcFly := s.commit.srcFly.erase m, srcPart := SMap.set noBytes s.commit.srcPart (partKey m) [] } } : State).twinSample ((b.sources[srcPort m]?).elim .none (·.kind)) (SMap.get noBytes s.commit.srcPart (partKey m))) ∧ ((u.1.fillSlots pipe slots).writeSlots pipe slots (SMap.get noBytes s.commit.srcPart (partKey m))).2 = 0) ∧
    (∃ (s : State) (x : BitVec 128) (m : CkMsg) (e : B32) (r : Epoch), s.commit.ckFly.find? (fun m => m.bits == x) = some m ∧ s.awake = true ∧ ({ s with commit := { s.commit with ckFly := s.commit.ckFly.erase m } } : State).ckptEpoch m = some e ∧ ({ s with commit := { s.commit with ckFly := s.commit.ckFly.erase m } } : State).epochRec e = some r ∧ ({ s with commit := { s.commit with ckFly := s.commit.ckFly.erase m } } : State).epochLive e = true) ∧
    (∃ (s : State) (pipe : Nat) (e : B32) (stage step : Nat) (r : Epoch) (a b : Ckpt), s.epochRec e = some r ∧ (r.ckptsAt stage step).find? (fun c => !c.side) = some a ∧ (r.ckptsAt stage step).find? (fun c => c.side) = some b ∧ s.awake = true ∧ r.pipe = pipe ∧ a.crc = b.crc) ∧
    (∃ (s : State) (pipe : Nat) (e : B32) (stage step : Nat) (r : Epoch) (a b : Ckpt), s.epochRec e = some r ∧ (r.ckptsAt stage step).find? (fun c => !c.side) = some a ∧ (r.ckptsAt stage step).find? (fun c => c.side) = some b ∧ s.awake = true ∧ r.pipe = pipe ∧ a.crc ≠ b.crc) ∧
    (∃ (s : State) (pipe : Nat) (e : B32) (stage step : Nat) (r : Epoch) (a : Ckpt), s.epochRec e = some r ∧ r.ckptsAt stage step = [a] ∧ s.awake = true ∧ r.pipe = pipe ∧ a.at_ + usTicks 76 ≤ s.elapsed.toNat) := by
  refine ⟨?_, ?_, ?_, ?_, ?_, ?_, ?_, ?_⟩
  · exact ⟨sourcing tokA, 0, 0, tokA, [], by decide +kernel⟩
  · exact ⟨sourcing { tokA with head := [1, 2] }, 0, 0, { tokA with head := [1, 2] }, [], [(false, 0, 0)], by decide +kernel⟩
  · exact ⟨(running [stageW .tile stepSig]).setEpoch 7 { epochW with state := .staged }, 7, { epochW with state := .staged }, ((running [stageW .tile stepSig]).setEpoch 7 { epochW with state := .staged }).readSinks (pipeW [stageW .tile stepSig]) 0 7, by refine ⟨?_, ?_, ?_, ?_, ?_, ?_⟩ <;> first | decide +kernel | rfl⟩
  · exact ⟨srcArrived, 0, srcMsg, [(false, 0, 0)], srcPipe0.bind.getD bindA, (({ srcArrived with commit := { srcArrived.commit with srcFly := [], srcPart := SMap.set noBytes srcArrived.commit.srcPart (partKey srcMsg) [] } } : State).twinSample .ring (SMap.get noBytes srcArrived.commit.srcPart (partKey srcMsg))), by refine ⟨?_, ?_, ?_, ?_, ?_, ?_, ?_, ?_, ?_, ?_⟩ <;> first | decide +kernel | rfl⟩
  · exact ⟨{ running [stageW .tile stepSig] with commit := { (running [stageW .tile stepSig]).commit with ckFly := [⟨ckA, 0⟩] } }, ckA, ⟨ckA, 0⟩, 7, epochW, by decide +kernel⟩
  · exact ⟨(running []).setEpoch 7 { epochW with ckpts := [⟨false, 0, 0, 5, 0, 0⟩, ⟨true, 0, 0, 5, 0, 1⟩] }, 0, 7, 0, 0, { epochW with ckpts := [⟨false, 0, 0, 5, 0, 0⟩, ⟨true, 0, 0, 5, 0, 1⟩] }, ⟨false, 0, 0, 5, 0, 0⟩, ⟨true, 0, 0, 5, 0, 1⟩, by decide +kernel⟩
  · exact ⟨(running []).setEpoch 7 { epochW with ckpts := [⟨false, 0, 0, 5, 0, 0⟩, ⟨true, 0, 0, 6, 0, 1⟩] }, 0, 7, 0, 0, { epochW with ckpts := [⟨false, 0, 0, 5, 0, 0⟩, ⟨true, 0, 0, 6, 0, 1⟩] }, ⟨false, 0, 0, 5, 0, 0⟩, ⟨true, 0, 0, 6, 0, 1⟩, by decide +kernel⟩
  · exact ⟨{ (running []).setEpoch 7 { epochW with ckpts := [⟨false, 0, 0, 5, 0, 0⟩] } with elapsed := 0xFFFFFFFF }, 0, 7, 0, 0, { epochW with ckpts := [⟨false, 0, 0, 5, 0, 0⟩] }, ⟨false, 0, 0, 5, 0, 0⟩, by decide +kernel⟩

/-- Each clause of BookCommandsComplete with hypotheses has a state and operands that meet them. -/
theorem witness_BookCommandsComplete :
    (∃ (s : State) (c : Nat), s.serving = true ∧ c < 8 ∧ s.auditsRun = true ∧ (s.cluster c).audit = true) ∧
    (∃ (s : State) (c : Nat), s.serving = true ∧ c < 8 ∧ s.auditsRun = true ∧ (s.rereads c).isEmpty = false) ∧
    (∃ (s : State) (c : Nat) (f : Found), s.serving = true ∧ c < 8 ∧ s.auditsRun = true ∧ s.dueRel c = some f) ∧
    (∃ (s : State) (rq : Requester) (t : Nat), s.awake = true ∧ t < 80 ∧ regAllowed rq true (kTil t 0x614) = true) ∧
    (∃ (s : State) (c : Nat) (late rs : List Found), s.serving = true ∧ c < 8 ∧ s.fwServes = true ∧ late = (s.cluster c).failing.filter s.restoreLate ∧ rs = (s.cluster c).failing.filter (fun f => s.restorable f && !(s.restoreLate f)) ∧ ¬ (late.isEmpty = true ∧ rs.isEmpty = true)) := by
  refine ⟨?_, ?_, ?_, ?_, ?_⟩
  · exact ⟨up.setCluster 0 { Cluster.fresh 0 with audit := true }, 0, by decide +kernel⟩
  · exact ⟨up.setCluster 0 { Cluster.fresh 0 with failing := [⟨.stats 3, 0, none⟩] }, 0, by decide +kernel⟩
  · exact ⟨({ (up.setCluster 0 { Cluster.fresh 0 with failing := [⟨.stats 3, 0, none⟩] }).setTile 3 { tileW with res0 := none, rstats := [(1, ⟨.released, 0, 0, 0, 0, 0⟩)] } with elapsed := 0xFFFFFFFF } : State), 0, ⟨.stats 3, 0, none⟩, by decide +kernel⟩
  · exact ⟨up, rqCore0, 5, by decide +kernel⟩
  · exact ⟨({ (up.setCluster 0 { Cluster.fresh 0 with failing := [⟨.stats 3, 0, some (0xFFFFFFFF, 0)⟩] }).setTile 3 { tileW with res0 := none, rstats := [(1, ⟨.released, 0, 0, 0, 0, 0⟩)] } with elapsed := 0xFFFFFFFF } : State), 0, [], [⟨.stats 3, 0, some (0xFFFFFFFF, 0)⟩], by decide +kernel⟩

/-- Each clause of CameraIntakeCommandsComplete with hypotheses has a state and operands that meet them. -/
theorem witness_CameraIntakeCommandsComplete :
    (∃ (s : State) (port vc : Nat) (fn : BitVec 16) (hc : Bool), s.awake = true ∧ s.csiUp port = true ∧ s.findStream port vc = none) ∧
    (∃ (s : State) (port vc : Nat) (fn : BitVec 16) (hc : Bool) (r : StreamRec), s.awake = true ∧ s.csiUp port = true ∧ s.findStream port vc = some (r, 0) ∧ s.paramsWait r = false) ∧
    (∃ (s : State) (port vc : Nat) (fn : BitVec 16) (hc : Bool) (r : StreamRec) (k : Nat), s.awake = true ∧ s.csiUp port = true ∧ s.findStream port vc = some (r, k + 1)) ∧
    (∃ (s : State) (port vc dtype : Nat) (payload : List Byte) (crcOk hc : Bool), s.awake = true ∧ s.csiUp port = true) ∧
    (∃ (s : State) (port vc dtype : Nat) (payload : List Byte) (crcOk hc : Bool) (r : StreamRec) (k px n spp : Nat) (o : OpenFrame), s.awake = true ∧ s.csiUp port = true ∧ s.findStream port vc = some (r, k) ∧ dtypeGroup dtype = some (px, n, spp) ∧ r.dtype = dtype ∧ ((s.corrected port hc).stream r.stream).frame = some o) ∧
    (∃ (s : State) (port vc dtype : Nat) (payload : List Byte) (crcOk hc : Bool) (r : StreamRec) (k px n spp : Nat), s.awake = true ∧ s.csiUp port = true ∧ s.findStream port vc = some (r, k) ∧ dtypeGroup dtype = some (px, n, spp) ∧ (r.dtype ≠ dtype ∨ ((s.corrected port hc).stream r.stream).frame = none)) ∧
    (∃ (s : State) (port vc : Nat) (fn : BitVec 16) (hc : Bool) (r : StreamRec) (k : Nat), s.awake = true ∧ s.csiUp port = true ∧ (s.corrected port hc).findStream port vc = some (r, k)) ∧
    (∃ (s : State) (st : Nat) (r : StreamRec) (o : OpenFrame), s.awake = true ∧ s.streamRec st = some r ∧ (s.stream st).frame = some o ∧ o.lastPkt + usTicks r.feUs ≤ s.elapsed.toNat) ∧
    (∃ (s : State) (st : Nat) (r : StreamRec), s.awake = true ∧ s.streamRec st = some r ∧ (s.stream st).lost = false ∧ (s.stream st).lastFs + msTicks r.lostMs ≤ s.elapsed.toNat) := by
  refine ⟨?_, ?_, ?_, ?_, ?_, ?_, ?_, ?_, ?_⟩
  · exact ⟨up, 0, 3, 5, true, by decide +kernel⟩
  · exact ⟨camera, 0, 0, 5, false, streamA, by decide +kernel⟩
  · exact ⟨camera, 0, 1, 5, false, streamA, 0, by decide +kernel⟩
  · exact ⟨up, 0, 0, 0x2A, [1, 2], true, false, by decide +kernel⟩
  · exact ⟨framed, 0, 0, 0x2A, [1, 2], true, false, streamA, 0, 1, 1, 1, openA, by decide +kernel⟩
  · exact ⟨camera, 0, 0, 0x2A, [1, 2], true, false, streamA, 0, 1, 1, 1, by decide +kernel⟩
  · exact ⟨framed, 0, 0, 5, false, streamA, 0, by decide +kernel⟩
  · exact ⟨{ framed with elapsed := 0xFFFFFFFF }, 0, streamA, openA, by decide +kernel⟩
  · exact ⟨{ framed with elapsed := 0xFFFFFFFF }, 0, streamA, by decide +kernel⟩

/-- Each clause of AlignmentAndIrisCommandsComplete with hypotheses has a state and operands that meet them. -/
theorem witness_AlignmentAndIrisCommandsComplete :
    (∃ (s : State) (grp : Nat), s.awake = true ∧ (s.group grp).open_ = true ∧ (s.group grp).deadline ≤ s.elapsed.toNat) ∧
    (∃ (s : State) (grp t : Nat), s.awake = true ∧ (s.group grp).holdEnd = some t ∧ t ≤ s.elapsed.toNat) ∧
    (∃ (s : State) (st crop : Nat) (f : Frame) (r : StreamRec), s.awake = true ∧ crop < 4 ∧ s.cam.frames.find? (fun f => f.stream == st && f.todo.contains (crop + 2)) = some f ∧ s.streamRec st = some r ∧ s.outBusy r f (crop + 2) = false) ∧
    (∃ (s : State) (st : Nat) (f : Frame) (r : StreamRec), s.awake = true ∧ s.cam.frames.find? (fun f => f.stream == st && f.todo.contains 6) = some f ∧ s.streamRec st = some r ∧ s.outBusy r f 6 = false) ∧
    (∃ (s : State) (rq : Requester) (st : Nat) (v : B32), s.awake = true ∧ st < 24 ∧ regAllowed rq true (kIrs (0x1000 + 0x10 * st)) = true) ∧
    (∃ (s : State) (p : Nat) (u : State), s.awake = true ∧ p < 3 ∧ s.fld (kIrs (0x20 * p)) 0 2 = 1 ∧ u = (s.setFld (kIrs (0x20 * p)) 0 2 2).dropPipeFrames p ∧ u.fwServes = true ∧ u.fld (kIrs 0x40) 0 2 = 0 ∧ p < 2) ∧
    (∃ (s : State) (p q : Nat) (u : State), s.awake = true ∧ p < 3 ∧ s.fld (kIrs (0x20 * p)) 0 2 = 1 ∧ u = (s.setFld (kIrs (0x20 * p)) 0 2 2).dropPipeFrames p ∧ u.fwServes = true ∧ (u.fld (kIrs 0x40) 0 2 ≠ 0 ∨ p = 2) ∧ (upTo 3).find? (fun q => q ≠ p ∧ u.fld (kIrs (0x20 * q)) 0 2 = 1 ∧ u.pipeLoad p + u.pipeLoad q ≤ 2500000000) = some q) ∧
    (∃ (s : State) (p : Nat) (u : State), s.awake = true ∧ p < 3 ∧ s.fld (kIrs (0x20 * p)) 0 2 = 1 ∧ u = (s.setFld (kIrs (0x20 * p)) 0 2 2).dropPipeFrames p ∧ u.fwServes = true ∧ (u.fld (kIrs 0x40) 0 2 ≠ 0 ∨ p = 2) ∧ (upTo 3).find? (fun q => q ≠ p ∧ u.fld (kIrs (0x20 * q)) 0 2 = 1 ∧ u.pipeLoad p + u.pipeLoad q ≤ 2500000000) = none) ∧
    (∃ (s : State) (p : Nat) (u : State), s.awake = true ∧ p < 3 ∧ s.fld (kIrs (0x20 * p)) 0 2 = 1 ∧ u = (s.setFld (kIrs (0x20 * p)) 0 2 2).dropPipeFrames p ∧ u.fwServes = false) ∧
    (∃ (s : State) (p q : Nat), s.awake = true ∧ s.fwServes = true ∧ s.cam.moving.find? (fun m => m.1 == p) = some (p, q)) := by
  refine ⟨?_, ?_, ?_, ?_, ?_, ?_, ?_, ?_, ?_, ?_⟩
  · exact ⟨camera.setGroup 0 { GroupRt.idle 0 with open_ := true }, 0, by decide +kernel⟩
  · exact ⟨camera.setGroup 0 { GroupRt.idle 0 with holdEnd := some 0 }, 0, 0, by decide +kernel⟩
  · exact ⟨framed, 0, 0, frameA, streamA, by decide +kernel⟩
  · exact ⟨{ framed with cam := { framed.cam with frames := [{ frameA with todo := [6] }] } }, 0, { frameA with todo := [6] }, streamA, by decide +kernel⟩
  · exact ⟨up, rqCore0, 23, 1, by decide +kernel⟩
  · exact ⟨(up.setFld (kIrs 0) 0 2 1).setFld (kIrs 0x40) 0 2 0, 0, ((((up.setFld (kIrs 0) 0 2 1).setFld (kIrs 0x40) 0 2 0).setFld (kIrs 0) 0 2 2).dropPipeFrames 0), by decide +kernel⟩
  · exact ⟨(up.setFld (kIrs 0) 0 2 1).setFld (kIrs 0x40) 0 2 1, 0, 1, ((((up.setFld (kIrs 0) 0 2 1).setFld (kIrs 0x40) 0 2 1).setFld (kIrs 0) 0 2 2).dropPipeFrames 0), by decide +kernel⟩
  · exact ⟨((up.setFld (kIrs 0) 0 2 1).setFld (kIrs 0x40) 0 2 2).setFld (kIrs 0x20) 0 2 2, 0, (((((up.setFld (kIrs 0) 0 2 1).setFld (kIrs 0x40) 0 2 2).setFld (kIrs 0x20) 0 2 2).setFld (kIrs 0) 0 2 2).dropPipeFrames 0), by decide +kernel⟩
  · exact ⟨unserved.setFld (kIrs 0) 0 2 1, 0, (((unserved.setFld (kIrs 0) 0 2 1).setFld (kIrs 0) 0 2 2).dropPipeFrames 0), by decide +kernel⟩
  · exact ⟨{ up with cam := { up.cam with moving := [(0, 2)] } }, 0, 2, by decide +kernel⟩

/-- Each clause of TimeCommandsComplete with hypotheses has a state and operands that meet them. -/
theorem witness_TimeCommandsComplete :
    (∃ (s : State), s.awake = true ∧ s.bit (kCam 0x200C) 0 = true ∧ s.cam.ppsEdge.elim true (fun t => decide (t + msTicks 500 ≤ s.elapsed.toNat)) = true) ∧
    (∃ (s : State) (rq : Requester), s.awake = true ∧ regAllowed rq true (kCam 0x200C) = true) ∧
    (∃ (s : State), s.awake = true ∧ s.bit (kCam 0x200C) 0 = true ∧ s.cam.ppsLost = false ∧ s.cam.ppsAt + msTicks 1500 ≤ s.elapsed.toNat) ∧
    (∃ (s : State) (k : Nat), s.awake = true ∧ k < 8 ∧ s.bit (kFsync k 0) 0 = true ∧ (s.fsyncRt k).emitted < s.fsyncNow k ∧ s.fsyncReached k (s.fsyncNow k) = true) ∧
    (∃ (s : State) (k t : Nat), s.awake = true ∧ k < 8 ∧ (s.fsyncRt k).until_ = some t ∧ t ≤ s.elapsed.toNat) := by
  refine ⟨?_, ?_, ?_, ?_, ?_⟩
  · exact ⟨up.setReg (kCam 0x200C) 1, by decide +kernel⟩
  · exact ⟨up, rqCore0, by decide +kernel⟩
  · exact ⟨{ up.setReg (kCam 0x200C) 1 with elapsed := 0xFFFFFFFF }, by decide +kernel⟩
  · exact ⟨(up.setReg (kFsync 3 0) 1).setReg (kFsync 3 4) 1000 |>.setReg (kCam 0x2008) 100, 3, by decide +kernel⟩
  · exact ⟨up.setFsync 3 ⟨1, some 0, false⟩, 3, 0, by decide +kernel⟩

/-- Each clause of VideoDecodeCommandsComplete with hypotheses has a state and operands that meet them. -/
theorem witness_VideoDecodeCommandsComplete :
    (∃ (s : State) (x : Nat) (au : AuSyntax) (u : AuUnit) (d : CtxDesc) (h : SeqHdr), s.awake = true ∧ x < 256 ∧ s.ctxBusy x = false ∧ s.firstUnit x = some u ∧ (s.vctx x).desc = some d ∧ u.ready = false ∧ u.ctx = x ∧ s.ctxState x = 3 ∧ au.seq = some h ∧ seqFails d h = none ∧ au.rap = true) ∧
    (∃ (s : State) (x : Nat) (au : AuSyntax) (u : AuUnit) (d : CtxDesc), s.awake = true ∧ x < 256 ∧ s.ctxBusy x = false ∧ s.firstUnit x = some u ∧ (s.vctx x).desc = some d ∧ u.ready = false ∧ u.ctx = x ∧ s.ctxState x = 3 ∧ (∀ h, au.seq = some h → seqFails d h ≠ none ∨ au.rap = false)) ∧
    (∃ (s : State) (x : Nat) (au : AuSyntax) (u : AuUnit) (d : CtxDesc) (f : Nat × Nat), s.awake = true ∧ x < 256 ∧ s.ctxBusy x = false ∧ s.firstUnit x = some u ∧ (s.vctx x).desc = some d ∧ u.ready = false ∧ u.ctx = x ∧ s.ctxState x ≠ 3 ∧ au.seq.bind (seqFails d) = some f) ∧
    (∃ (s : State) (x : Nat) (au : AuSyntax) (u : AuUnit) (d : CtxDesc) (h : SeqHdr), s.awake = true ∧ x < 256 ∧ s.ctxBusy x = false ∧ s.firstUnit x = some u ∧ (s.vctx x).desc = some d ∧ u.ready = false ∧ u.ctx = x ∧ s.ctxState x ≠ 3 ∧ au.seq = some h ∧ seqFails d h = none ∧ au.rap = true) ∧
    (∃ (s : State) (x : Nat) (au : AuSyntax) (u : AuUnit) (d : CtxDesc) (q : VideoSeq), s.awake = true ∧ x < 256 ∧ s.ctxBusy x = false ∧ s.firstUnit x = some u ∧ (s.vctx x).desc = some d ∧ u.ready = false ∧ u.ctx = x ∧ s.ctxState x ≠ 3 ∧ au.seq = none ∧ (s.vctx x).waiting = some q ∧ au.rap = true) ∧
    (∃ (s : State) (x : Nat) (au : AuSyntax) (u : AuUnit) (d : CtxDesc) (h : SeqHdr), s.awake = true ∧ x < 256 ∧ s.ctxBusy x = false ∧ s.firstUnit x = some u ∧ (s.vctx x).desc = some d ∧ u.ready = false ∧ u.ctx = x ∧ s.ctxState x ≠ 3 ∧ au.seq = some h ∧ seqFails d h = none ∧ au.rap = false ∧ s.ctxState x = 2) ∧
    (∃ (s : State) (x : Nat) (au : AuSyntax) (u : AuUnit) (d : CtxDesc), s.awake = true ∧ x < 256 ∧ s.ctxBusy x = false ∧ s.firstUnit x = some u ∧ (s.vctx x).desc = some d ∧ u.ready = false ∧ u.ctx = x ∧ s.ctxState x ≠ 3 ∧ au.seq = none ∧ (au.rap = false ∨ (s.vctx x).waiting = none) ∧ s.ctxState x = 2) ∧
    (∃ (s : State) (x : Nat) (au : AuSyntax) (u : AuUnit) (d : CtxDesc) (h : SeqHdr), s.awake = true ∧ x < 256 ∧ s.ctxBusy x = false ∧ s.firstUnit x = some u ∧ (s.vctx x).desc = some d ∧ u.ready = false ∧ u.ctx = x ∧ s.ctxState x ≠ 3 ∧ au.seq = some h ∧ seqFails d h = none ∧ au.rap = false ∧ s.ctxState x ≠ 2) ∧
    (∃ (s : State) (x : Nat) (au : AuSyntax) (u : AuUnit) (d : CtxDesc), s.awake = true ∧ x < 256 ∧ s.ctxBusy x = false ∧ s.firstUnit x = some u ∧ (s.vctx x).desc = some d ∧ u.ready = false ∧ u.ctx = x ∧ s.ctxState x ≠ 3 ∧ au.seq = none ∧ (au.rap = false ∨ (s.vctx x).waiting = none) ∧ s.ctxState x ≠ 2) ∧
    (∃ (s : State) (c x : Nat) (u : AuUnit) (b : Nat), s.awake = true ∧ c < 9 ∧ s.fld (kDec c 0) 0 2 = 1 ∧ s.unitOwed (.dec c) = false ∧ s.decJob c = none ∧ s.nextCtx = some x ∧ s.firstUnit x = some u ∧ s.freeBuf x = some b) ∧
    (∃ (s : State) (c : Nat) (out : FrameOutcome) (j : DecJob) (d : CtxDesc) (q : VideoSeq) (used : List DecFrame) (r : State × Option (List (List Byte))) (w : State × Nat), s.awake = true ∧ c < 9 ∧ s.decJob c = some j ∧ (s.vctx j.unit.ctx).desc = some d ∧ (s.vctx j.unit.ctx).seq = some q ∧ out.cost ≤ (s.reg (kCtx j.unit.ctx 8)).toNat ∧ costFits j.at_ s.elapsed.toNat out.cost = true ∧ out.width ≤ q.width ∧ out.height ≤ q.height ∧ used = (if j.unit.rap then [] else (s.vctx j.unit.ctx).refs).filter (fun f => out.refs.contains f.index.toNat) ∧ s.refsFree used j out.width out.height q.depth = true ∧ r = s.readRefs c used ∧ w = r.1.storeFrame c j out.width out.height (r.2.getD []) ∧ (r.2 = none ∨ w.2 ≠ 0)) ∧
    (∃ (s : State) (c : Nat) (out : FrameOutcome) (j : DecJob) (d : CtxDesc) (q : VideoSeq) (used : List DecFrame) (r : State × Option (List (List Byte))) (w : State × Nat), s.awake = true ∧ c < 9 ∧ s.decJob c = some j ∧ (s.vctx j.unit.ctx).desc = some d ∧ (s.vctx j.unit.ctx).seq = some q ∧ out.cost ≤ (s.reg (kCtx j.unit.ctx 8)).toNat ∧ costFits j.at_ s.elapsed.toNat out.cost = true ∧ out.width ≤ q.width ∧ out.height ≤ q.height ∧ used = (if j.unit.rap then [] else (s.vctx j.unit.ctx).refs).filter (fun f => out.refs.contains f.index.toNat) ∧ s.refsFree used j out.width out.height q.depth = true ∧ r = s.readRefs c used ∧ w = r.1.storeFrame c j out.width out.height (r.2.getD []) ∧ r.2 ≠ none ∧ w.2 = 0 ∧ (out.whole = false ∨ refTainted used = true ∨ refsHere used out.refs = false)) ∧
    (∃ (s : State) (c : Nat) (out : FrameOutcome) (j : DecJob) (d : CtxDesc) (q : VideoSeq) (used : List DecFrame) (r : State × Option (List (List Byte))) (w : State × Nat), s.awake = true ∧ c < 9 ∧ s.decJob c = some j ∧ (s.vctx j.unit.ctx).desc = some d ∧ (s.vctx j.unit.ctx).seq = some q ∧ out.cost ≤ (s.reg (kCtx j.unit.ctx 8)).toNat ∧ costFits j.at_ s.elapsed.toNat out.cost = true ∧ out.width ≤ q.width ∧ out.height ≤ q.height ∧ used = (if j.unit.rap then [] else (s.vctx j.unit.ctx).refs).filter (fun f => out.refs.contains f.index.toNat) ∧ s.refsFree used j out.width out.height q.depth = true ∧ r = s.readRefs c used ∧ w = r.1.storeFrame c j out.width out.height (r.2.getD []) ∧ r.2 ≠ none ∧ w.2 = 0 ∧ out.whole = true ∧ refTainted used = false ∧ refsHere used out.refs = true) ∧
    (∃ (s : State) (c : Nat) (j : DecJob) (q : VideoSeq), s.awake = true ∧ c < 9 ∧ s.decJob c = some j ∧ (s.vctx j.unit.ctx).seq = some q ∧ (s.reg (kCtx j.unit.ctx 8)).toNat < (s.elapsed.toNat - j.at_) * 4 + 3 ∧ s.refsFree [] j q.width q.height q.depth = true) ∧
    (∃ (s : State) (c : Nat) (u : State), s.awake = true ∧ c < 9 ∧ s.fld (kDec c 0) 0 2 = 1 ∧ s.unitOwed (.dec c) = false ∧ u = s.requeueDec c ∧ u.fwServes = true ∧ (u.setFld (kDec c 0) 0 2 2).fld (kDec 8 0) 0 2 = 0) ∧
    (∃ (s : State) (c : Nat) (u : State), s.awake = true ∧ c < 9 ∧ s.fld (kDec c 0) 0 2 = 1 ∧ s.unitOwed (.dec c) = false ∧ u = s.requeueDec c ∧ u.fwServes = true ∧ (u.setFld (kDec c 0) 0 2 2).fld (kDec 8 0) 0 2 ≠ 0) ∧
    (∃ (s : State) (c : Nat) (u : State), s.awake = true ∧ c < 9 ∧ s.fld (kDec c 0) 0 2 = 1 ∧ s.unitOwed (.dec c) = false ∧ u = s.requeueDec c ∧ u.fwServes = false) ∧
    (∃ (s : State) (e : Emitted) (es : List Emitted), s.awake = true ∧ s.vid.emitted = e :: es ∧ (s.vctx e.ctx).desc = none) ∧
    (∃ (s : State) (e : Emitted) (es : List Emitted) (d : CtxDesc), s.awake = true ∧ s.vid.emitted = e :: es ∧ (s.vctx e.ctx).desc = some d ∧ d.nextRec e.out = none) ∧
    (∃ (s : State) (e : Emitted) (es : List Emitted) (d : CtxDesc) (o : Nat), s.awake = true ∧ s.vid.emitted = e :: es ∧ (s.vctx e.ctx).desc = some d ∧ d.nextRec e.out = some o ∧ s.scaleWaits e ((d.recs[o]?).getD 0) = false ∧ (d.nextRec (o + 1)).isNone = true) ∧
    (∃ (s : State) (e : Emitted) (es : List Emitted) (d : CtxDesc) (o : Nat), s.awake = true ∧ s.vid.emitted = e :: es ∧ (s.vctx e.ctx).desc = some d ∧ d.nextRec e.out = some o ∧ s.scaleWaits e ((d.recs[o]?).getD 0) = false ∧ (d.nextRec (o + 1)).isNone = false) := by
  refine ⟨?_, ?_, ?_, ?_, ?_, ?_, ?_, ?_, ?_, ?_, ?_, ?_, ?_, ?_, ?_, ?_, ?_, ?_, ?_, ?_, ?_⟩
  · exact ⟨decoding [auA] 3, 0, ⟨some hdrZ, true, 1, none⟩, auA, ctxA, hdrZ, by decide +kernel⟩
  · exact ⟨decoding [auA] 3, 0, ⟨none, false, 1, none⟩, auA, ctxA, by decide +kernel⟩
  · exact ⟨decoding [auA] 1, 0, ⟨some { hdrA with profile := .other }, true, 1, none⟩, auA, ctxA, (stFormat, 0), by decide +kernel⟩
  · exact ⟨decoding [auA] 1, 0, ⟨some hdrZ, true, 1, none⟩, auA, ctxA, hdrZ, by decide +kernel⟩
  · exact ⟨(decoding [auA] 2).setVctx 0 { Ctx.idle 0 with desc := some ctxA, waiting := some seqA }, 0, ⟨none, true, 1, none⟩, auA, ctxA, seqA, by decide +kernel⟩
  · exact ⟨decoding [auA] 2, 0, ⟨some hdrZ, false, 1, none⟩, auA, ctxA, hdrZ, by decide +kernel⟩
  · exact ⟨decoding [auA] 2, 0, ⟨none, false, 1, none⟩, auA, ctxA, by decide +kernel⟩
  · exact ⟨decoding [auA] 1, 0, ⟨some hdrZ, false, 1, none⟩, auA, ctxA, hdrZ, by decide +kernel⟩
  · exact ⟨decoding [auA] 1, 0, ⟨none, false, 1, none⟩, auA, ctxA, by decide +kernel⟩
  · exact ⟨(decoding [{ auA with ready := true }] 2).setFld (kDec 0 0) 0 2 1, 0, 0, { auA with ready := true }, 0x100000, by decide +kernel⟩
  · exact ⟨onCoreBad, 0, outA true true, jobBad, ctxA, seqA, [], (onCoreBad.readRefs 0 []), ((onCoreBad.readRefs 0 []).1.storeFrame 0 jobBad 16 16 ((onCoreBad.readRefs 0 []).2.getD [])), by refine ⟨?_, ?_, ?_, ?_, ?_, ?_, ?_, ?_, ?_, ?_, ?_, ?_, ?_⟩ <;> first | decide +kernel | rfl⟩
  · exact ⟨onCore, 0, outA false true, jobA, ctxA, seqA, [], (onCore.readRefs 0 []), ((onCore.readRefs 0 []).1.storeFrame 0 jobA 16 16 ((onCore.readRefs 0 []).2.getD [])), by refine ⟨?_, ?_, ?_, ?_, ?_, ?_, ?_, ?_, ?_, ?_, ?_, ?_, ?_, ?_, ?_⟩ <;> first | decide +kernel | rfl⟩
  · exact ⟨onCore, 0, outA true true, jobA, ctxA, seqA, [], (onCore.readRefs 0 []), ((onCore.readRefs 0 []).1.storeFrame 0 jobA 16 16 ((onCore.readRefs 0 []).2.getD [])), by refine ⟨?_, ?_, ?_, ?_, ?_, ?_, ?_, ?_, ?_, ?_, ?_, ?_, ?_, ?_, ?_, ?_, ?_⟩ <;> first | decide +kernel | rfl⟩
  · exact ⟨{ onCore with elapsed := 0xFFFFFFFF }, 0, jobA, seqA, by decide +kernel⟩
  · exact ⟨onCore, 0, (onCore).requeueDec 0, by decide +kernel⟩
  · exact ⟨(onCore).setFld (kDec 8 0) 0 2 1, 0, ((onCore).setFld (kDec 8 0) 0 2 1).requeueDec 0, by decide +kernel⟩
  · exact ⟨(onCore).setBit 0x4 4 true, 0, ((onCore).setBit 0x4 4 true).requeueDec 0, by decide +kernel⟩
  · exact ⟨{ onCore.setVctx 0 (Ctx.idle 0) with vid := { (onCore.setVctx 0 (Ctx.idle 0)).vid with emitted := [⟨0, auA.sample, frameOf, 0⟩] } }, ⟨0, auA.sample, frameOf, 0⟩, [], by decide +kernel⟩
  · exact ⟨{ onCore with vid := { onCore.vid with emitted := [⟨0, auA.sample, frameOf, 0⟩] } }, ⟨0, auA.sample, frameOf, 0⟩, [], ctxA, by decide +kernel⟩
  · exact ⟨{ (onCore.setVctx 0 { Ctx.idle 0 with desc := some { ctxA with recs := [1] } }) with vid := { (onCore.setVctx 0 { Ctx.idle 0 with desc := some { ctxA with recs := [1] } }).vid with emitted := [⟨0, auA.sample, frameOf, 0⟩] } }, ⟨0, auA.sample, frameOf, 0⟩, [], { ctxA with recs := [1] }, 0, by decide +kernel⟩
  · exact ⟨{ (onCore.setVctx 0 { Ctx.idle 0 with desc := some { ctxA with recs := [1, 1] } }) with vid := { (onCore.setVctx 0 { Ctx.idle 0 with desc := some { ctxA with recs := [1, 1] } }).vid with emitted := [⟨0, auA.sample, frameOf, 0⟩] } }, ⟨0, auA.sample, frameOf, 0⟩, [], { ctxA with recs := [1, 1] }, 0, by decide +kernel⟩

/-- Each clause of VideoEncodeCommandsComplete with hypotheses has a state and operands that meet them. -/
theorem witness_VideoEncodeCommandsComplete :
    (∃ (s : State) (e : Nat) (j : EncJob) (r : EncRec), s.awake = true ∧ s.vid.coding.find? (fun j => j.session == e) = some j ∧ s.encRec e = some r ∧ (upTo 5).any (fun c => (s.encJob c).elim false (fun k => k.session == e)) = false ∧ s.encRoom r = false) ∧
    (∃ (s : State) (e : Nat) (j : EncJob) (r : EncRec) (c : Nat), s.awake = true ∧ s.vid.coding.find? (fun j => j.session == e) = some j ∧ s.encRec e = some r ∧ (upTo 5).any (fun c => (s.encJob c).elim false (fun k => k.session == e)) = false ∧ s.encRoom r = true ∧ (upTo 5).find? (fun c => s.fld (kEnc c 0) 0 2 == 1 && !s.unitOwed (.enc c) && s.encJob c == none) = some c) ∧
    (∃ (s : State) (c : Nat) (j : EncJob) (r : EncRec) (a : State × Nat × List Byte), s.awake = true ∧ c < 5 ∧ s.encJob c = some j ∧ s.encRec j.session = some r ∧ s.pageBusy j.addr j.len = false ∧ s.pageBusy r.base r.size = false ∧ a = s.memAccess ⟨rqEnc c, false, j.addr, j.len, [], false⟩ none ∧ a.2.1 = 0) ∧
    (∃ (s : State) (c : Nat) (j : EncJob) (r : EncRec) (a : State × Nat × List Byte), s.awake = true ∧ c < 5 ∧ s.encJob c = some j ∧ s.encRec j.session = some r ∧ s.pageBusy j.addr j.len = false ∧ s.pageBusy r.base r.size = false ∧ a = s.memAccess ⟨rqEnc c, false, j.addr, j.len, [], false⟩ none ∧ a.2.1 ≠ 0) ∧
    (∃ (s : State) (c : Nat) (u : State), s.awake = true ∧ c < 5 ∧ s.fld (kEnc c 0) 0 2 = 1 ∧ s.unitOwed (.enc c) = false ∧ u = s.requeueEnc c ∧ u.fwServes = true ∧ (u.setFld (kEnc c 0) 0 2 2).fld (kEnc 4 0) 0 2 = 0) ∧
    (∃ (s : State) (c : Nat) (u : State), s.awake = true ∧ c < 5 ∧ s.fld (kEnc c 0) 0 2 = 1 ∧ s.unitOwed (.enc c) = false ∧ u = s.requeueEnc c ∧ u.fwServes = true ∧ (u.setFld (kEnc c 0) 0 2 2).fld (kEnc 4 0) 0 2 ≠ 0) ∧
    (∃ (s : State) (c : Nat) (u : State), s.awake = true ∧ c < 5 ∧ s.fld (kEnc c 0) 0 2 = 1 ∧ s.unitOwed (.enc c) = false ∧ u = s.requeueEnc c ∧ u.fwServes = false) ∧
    (∃ (s : State) (rq : Requester) (e : Nat) (v : B32) (r : EncRec), s.awake = true ∧ e < 32 ∧ regAllowed rq true (kSess e 4) = true ∧ s.encRec e = some r) ∧
    (∃ (s : State) (rq : Requester) (e : Nat) (v : B32), s.awake = true ∧ e < 32 ∧ regAllowed rq true (kSess e 4) = true ∧ s.encRec e = none) := by
  refine ⟨?_, ?_, ?_, ?_, ?_, ?_, ?_, ?_, ?_⟩
  · exact ⟨encoding 128, 0, encA, encR0, by decide +kernel⟩
  · exact ⟨encoding 4096, 0, encA, encR1, 0, by decide +kernel⟩
  · exact ⟨(encoding 4096).setEncJob 0 (some encB), 0, encB, encR1, (((encoding 4096).setEncJob 0 (some encB)).memAccess ⟨rqEnc 0, false, (encB).addr, (encB).len, [], false⟩ none), by refine ⟨?_, ?_, ?_, ?_, ?_, ?_, ?_, ?_⟩ <;> first | decide +kernel | rfl⟩
  · exact ⟨(encoding 4096).setEncJob 0 (some encBad), 0, encBad, encR1, (((encoding 4096).setEncJob 0 (some encBad)).memAccess ⟨rqEnc 0, false, (encBad).addr, (encBad).len, [], false⟩ none), by refine ⟨?_, ?_, ?_, ?_, ?_, ?_, ?_, ?_⟩ <;> first | decide +kernel | rfl⟩
  · exact ⟨encoding 4096, 0, (encoding 4096).requeueEnc 0, by decide +kernel⟩
  · exact ⟨(encoding 4096).setFld (kEnc 4 0) 0 2 1, 0, ((encoding 4096).setFld (kEnc 4 0) 0 2 1).requeueEnc 0, by decide +kernel⟩
  · exact ⟨(encoding 4096).setBit 0x4 4 true, 0, ((encoding 4096).setBit 0x4 4 true).requeueEnc 0, by decide +kernel⟩
  · exact ⟨encoding 4096, rqCore0, 0, 64, encR1, by decide +kernel⟩
  · exact ⟨encoding 4096, rqCore0, 1, 64, by decide +kernel⟩

/-- Each clause of AsterCommandsComplete with hypotheses has a state and operands that meet them. -/
theorem witness_AsterCommandsComplete :
    (∃ (s : State) (g : Nat) (e : B32) (a : AsterRec) (r : Epoch) (st : Nat), s.astRec g = some a ∧ s.epochRec e = some r ∧ (s.pipe a.pipe).asterStage = some st ∧ s.awake = true ∧ r.pipe = a.pipe ∧ s.epochLive e = true ∧ (s.astGroup g).journal = none ∧ s.openJournals < 8 ∧ s.commit.epochs.any (fun x => x.2.pipe == a.pipe && olderThan x.1 e) = false ∧ s.asterHolds (s.pipe a.pipe) a.pipe st e = true ∧ s.astWaits a = false ∧ s.detWaits (s.pipe a.pipe) a.pipe st e = false) ∧
    (∃ (s : State) (g l : Nat) (a : AsterRec) (j : Journal) (t : Nat) (part : JobPart) (st : Nat), s.astRec g = some a ∧ (s.astGroup g).journal = some j ∧ s.physOf l = some t ∧ j.parts.find? (fun x => x.tile == l && !x.done) = some part ∧ (s.pipe a.pipe).asterStage = some st ∧ s.awake = true ∧ s.epochLive j.epoch = true ∧ j.copying = false ∧ (s.tile t).failed = false ∧ (s.tile t).swap = false ∧ (s.tile t).res1 = none ∧ (s.tile t).arrayBusy .matrix = false ∧ s.rowsFilling t (Config.asterWindow a.pipe).1 (Config.asterWindow a.pipe).2 = false ∧ s.astWaits a = false) ∧
    (∃ (s : State) (g : Nat) (a : AsterRec) (j : Journal) (r : Epoch) (st : Nat), s.astRec g = some a ∧ (s.astGroup g).journal = some j ∧ (s.pipe a.pipe).asterStage = some st ∧ s.epochRec j.epoch = some r ∧ s.awake = true ∧ j.ready = false ∧ j.copying = false ∧ s.epochLive j.epoch = true ∧ j.jobOpen = false ∧ s.astWaits a = false ∧ s.recordsWait (s.pipe a.pipe) a.pipe st j.epoch (64 + 32 * a.size) = false) ∧
    (∃ (s : State) (g : Nat) (a : AsterRec) (j : Journal), s.astRec g = some a ∧ (s.astGroup g).journal = some j ∧ s.awake = true ∧ j.copying = true ∧ s.astWaits a = false) ∧
    (∃ (s : State) (m : Nat), s.awake = true ∧ s.ast.due.contains m = true ∧ s.macroSpares ≠ 0 ∧ s.macroBusy m = false ∧ (upTo 1024).any (fun i => s.trkWaits (m * 1024 + i)) = false) ∧
    (∃ (s : State) (rq : Requester), s.awake = true ∧ rq.secure = true ∧ s.trkWaits (s.fld (kAst 0x2000) 0 16) = false) ∧
    (∃ (s : State) (rq : Requester), s.awake = true ∧ rq.secure = false) ∧
    (∃ (s : State) (rq : Requester), s.awake = true ∧ regAllowed rq true (kAst 4) = true) := by
  refine ⟨?_, ?_, ?_, ?_, ?_, ?_, ?_, ?_⟩
  · exact ⟨tracking, 0, 7, astA, epochW, 0, by decide +kernel⟩
  · exact ⟨tracked journalA, 0, 0, astA, journalA, 0, ⟨0, 0, 1, false⟩, 0, by decide +kernel⟩
  · exact ⟨tracked { journalA with parts := [] }, 0, astA, { journalA with parts := [] }, epochW, 0, by decide +kernel⟩
  · exact ⟨tracked { journalA with copying := true }, 0, astA, { journalA with copying := true }, by decide +kernel⟩
  · exact ⟨{ up.setFld (kAst 0) 24 8 4 with ast := { up.ast with due := [5] } }, 5, by decide +kernel⟩
  · exact ⟨up, rqCore0, by decide +kernel⟩
  · exact ⟨up, rqHost, by decide +kernel⟩
  · exact ⟨up, rqCore0, by decide +kernel⟩

/-- Each clause of MemoryCommandsComplete with hypotheses has a state and operands that meet them. -/
theorem witness_MemoryCommandsComplete :
    (∃ (s : State) (a : Access), s.awake = true ∧ s.pageBusy a.addr (accessSize a) = false ∧ s.rcvWaits a.addr (accessSize a) = false) ∧
    (∃ (s : State) (a : Access), s.boot.phase = .halted ∧ inRegs a.addr (accessSize a) = accessSize a) ∧
    (∃ (s : State) (a : Access), s.boot.phase = .halted ∧ inRegs a.addr (accessSize a) ≠ accessSize a) ∧
    (∃ (s : State) (rq : Requester), s.awake = true) ∧
    (∃ (s : State) (t id : Nat) (x : Xfer), s.awake = true ∧ t < 80 ∧ (s.tile t).xfer id = some x ∧ x.answer = none ∧ x.away = false ∧ x.op ≠ dmaPush) ∧
    (∃ (s : State) (t id : Nat) (x : Xfer), s.awake = true ∧ t < 80 ∧ (s.tile t).xfer id = some x ∧ x.answer = none ∧ x.away = false ∧ x.op ≠ dmaPush ∧ s.pageBusy (x.addr % 2 ^ 40) 512 = false ∧ s.writeWaits t x = false) ∧
    (∃ (s : State) (k p : Nat) (ps : List Nat), s.awake = true ∧ k < 8 ∧ (s.stack k).queue = p :: ps ∧ (s.stack k).copying = none ∧ (s.stack k).spareFor p < sparePages) ∧
    (∃ (s : State) (k p f : Nat), s.awake = true ∧ k < 8 ∧ (s.stack k).copying = some (p, f)) ∧
    (∃ (s : State) (rq : Requester) (v : B32), s.awake = true ∧ v.getLsbD 31 = true ∧ regAllowed rq true (kMem 0x2104) = true ∧ (s.bit (kMem 0x2104) 31 = true ∨ stackPages ≤ bitsOf v.toNat 0 23 ∨ (s.setFld (kMem 0x2104) 0 26 (v.toNat % 2 ^ 26)).bit (kHbm (bitsOf v.toNat 23 3) 0) 15 = true)) ∧
    (∃ (s : State) (rq : Requester) (v : B32), s.awake = true ∧ v.getLsbD 31 = true ∧ regAllowed rq true (kMem 0x2104) = true ∧ (¬ (s.bit (kMem 0x2104) 31 = true ∨ stackPages ≤ bitsOf v.toNat 0 23 ∨ (s.setFld (kMem 0x2104) 0 26 (v.toNat % 2 ^ 26)).bit (kHbm (bitsOf v.toNat 23 3) 0) 15 = true))) ∧
    (∃ (s : State) (k : Nat), s.awake = true ∧ k < 8 ∧ s.fld (kMem 0x2108) 0 8 ≠ 0 ∧ ((s.stack k).copying).any (fun c => c.1 == s.patrolPage k (s.stack k).patrol) = false) ∧
    (∃ (s : State) (rq : Requester) (i : Nat) (v : B32), s.awake = true ∧ i < 64 ∧ regAllowed rq true (kRgn i 0) = true ∧ (s.rgn i).lock = false) ∧
    (∃ (s : State) (rq : Requester) (i : Nat) (v : B32), s.awake = true ∧ i < 64 ∧ regAllowed rq true (kRgn i 0) = true ∧ (s.rgn i).lock = true) ∧
    (∃ (s : State) (rq : Requester) (i : Nat) (v : B32), s.awake = true ∧ i < 64 ∧ regAllowed rq true (kRgn i 4) = true ∧ (s.rgn i).lock = false) ∧
    (∃ (s : State) (rq : Requester) (i : Nat) (v : B32), s.awake = true ∧ i < 64 ∧ regAllowed rq true (kRgn i 4) = true ∧ (s.rgn i).lock = true) ∧
    (∃ (s : State) (rq : Requester) (i : Nat) (v : B32), s.awake = true ∧ i < 64 ∧ regAllowed rq true (kRgn i 8) = true ∧ (s.rgn i).lock = false) ∧
    (∃ (s : State) (rq : Requester) (i : Nat) (v : B32), s.awake = true ∧ i < 64 ∧ regAllowed rq true (kRgn i 8) = true ∧ (s.rgn i).lock = true) ∧
    (∃ (s : State) (rq : Requester) (j : Nat) (v : B32), s.awake = true ∧ j < 8 ∧ regAllowed rq true (kPin j) = true ∧ s.pinRefuses j v = false) ∧
    (∃ (s : State) (rq : Requester) (j : Nat) (v : B32), s.awake = true ∧ j < 8 ∧ regAllowed rq true (kPin j) = true ∧ s.pinRefuses j v = true) ∧
    (∃ (s : State) (rq : Requester) (j : Nat), s.awake = true ∧ j < 8 ∧ regAllowed rq true (kPin j) = true ∧ s.bit (kPin j) 7 = false) ∧
    (∃ (s : State) (j : Nat), s.awake = true ∧ j < 8 ∧ s.bit (kPin j) 7 = true ∧ (s.pinLines j).any (fun a => s.pageBusy a 128) = false) ∧
    (∃ (s : State) (m : RcvRequest), s.awake = true ∧ s.go = true) := by
  refine ⟨?_, ?_, ?_, ?_, ?_, ?_, ?_, ?_, ?_, ?_, ?_, ?_, ?_, ?_, ?_, ?_, ?_, ?_, ?_, ?_, ?_, ?_⟩
  · exact ⟨up, ⟨rqCore0, true, 0x1000, 0, [1, 2], false⟩, by decide +kernel⟩
  · exact ⟨{ up with boot := { up.boot with phase := .halted } }, ⟨rqCore0, false, 0xFF00000000, 4, [], false⟩, by decide +kernel⟩
  · exact ⟨{ up with boot := { up.boot with phase := .halted } }, ⟨rqCore0, false, 0x1000, 4, [], false⟩, by decide +kernel⟩
  · exact ⟨up, rqCore0, by decide +kernel⟩
  · exact ⟨withXfer [{ xferA with answer := none }], 0, 1, { xferA with answer := none }, by decide +kernel⟩
  · exact ⟨withXfer [{ xferA with answer := none }], 0, 1, { xferA with answer := none }, by decide +kernel⟩
  · exact ⟨up.setStack 0 { Stack.idle 0 with queue := [9] }, 0, 9, [], by decide +kernel⟩
  · exact ⟨up.setStack 0 { Stack.idle 0 with copying := some (9, 1) }, 0, 9, 1, by decide +kernel⟩
  · exact ⟨up, rqCore0, 0x805FFFFF, by decide +kernel⟩
  · exact ⟨up, rqCore0, 0x80000009, by decide +kernel⟩
  · exact ⟨up.setReg (kMem 0x2108) 1, 7, by refine ⟨?_, ?_, ?_, ?_⟩ <;> first | decide +kernel | rfl⟩
  · exact ⟨up, rqCore0, 5, 0xFFFFFFFF, by decide +kernel⟩
  · exact ⟨up.setBit (kRgn 5 8) 5 true, rqCore0, 5, 1, by decide +kernel⟩
  · exact ⟨up, rqCore0, 5, 0xFFFFFFFF, by decide +kernel⟩
  · exact ⟨up.setBit (kRgn 5 8) 5 true, rqCore0, 5, 1, by decide +kernel⟩
  · exact ⟨up, rqCore0, 5, 0xFFFFFFFF, by decide +kernel⟩
  · exact ⟨up.setBit (kRgn 5 8) 5 true, rqCore0, 5, 1, by decide +kernel⟩
  · exact ⟨up, rqCore0, 0, 0x10040, by decide +kernel⟩
  · exact ⟨up, rqCore0, 0, 0x40, by decide +kernel⟩
  · exact ⟨up, rqCore0, 0, by decide +kernel⟩
  · exact ⟨up.setReg (kPin 0) 0x80, 0, by decide +kernel⟩
  · exact ⟨up.setBit (kTrs 0x14) 0 true, ⟨rqCore0, true, 0, 0, [1]⟩, by decide +kernel⟩

/-- Each clause of HostRingCommandsComplete with hypotheses has a state and operands that meet them. -/
theorem witness_HostRingCommandsComplete :
    (∃ (s : State) (i : Nat) (v : B32) (prod : Option B32) (e : Nat), s.awake = true ∧ i < 256 ∧ v.getLsbD 0 = true ∧ s.bit (kIr i 8) 0 = false ∧ s.irState i = 0 ∧ (s.iring i).enabling = false ∧ (s.setReg (kIr i 8) (v &&& 0x03FFFF3E)).irRefuses i v = some e) ∧
    (∃ (s : State) (i : Nat) (v : B32) (prod : Option B32), s.awake = true ∧ i < 256 ∧ v.getLsbD 0 = true ∧ s.bit (kIr i 8) 0 = false ∧ s.irState i = 0 ∧ (s.iring i).enabling = false ∧ (s.setReg (kIr i 8) (v &&& 0x03FFFF3E)).irRefuses i v = none ∧ (s.setReg (kIr i 8) (v &&& 0x03FFFF3E)).isHome = true ∧ ((s.setReg (kIr i 8) (v &&& 0x03FFFF3E)).hostPath = false ∨ prod = none)) ∧
    (∃ (s : State) (i : Nat) (v : B32) (prod : Option B32) (p : B32), s.awake = true ∧ i < 256 ∧ v.getLsbD 0 = true ∧ s.bit (kIr i 8) 0 = false ∧ s.irState i = 0 ∧ (s.iring i).enabling = false ∧ (s.setReg (kIr i 8) (v &&& 0x03FFFF3E)).irRefuses i v = none ∧ (s.setReg (kIr i 8) (v &&& 0x03FFFF3E)).isHome = true ∧ (s.setReg (kIr i 8) (v &&& 0x03FFFF3E)).hostPath = true ∧ prod = some p) ∧
    (∃ (s : State) (i : Nat) (v : B32) (prod : Option B32), s.awake = true ∧ i < 256 ∧ v.getLsbD 0 = true ∧ s.bit (kIr i 8) 0 = false ∧ s.irState i = 0 ∧ (s.iring i).enabling = false ∧ (s.setReg (kIr i 8) (v &&& 0x03FFFF3E)).irRefuses i v = none ∧ (s.setReg (kIr i 8) (v &&& 0x03FFFF3E)).isHome = false ∧ (s.setReg (kIr i 8) (v &&& 0x03FFFF3E)).hostPath = true) ∧
    (∃ (s : State) (i : Nat) (v : B32), s.awake = true ∧ i < 256 ∧ v.getLsbD 0 = false ∧ s.bit (kIr i 8) 0 = true ∧ (s.irState i = 1 ∨ s.irState i = 3)) ∧
    (∃ (s : State) (i : Nat), s.awake = true ∧ i < 256 ∧ s.irState i = 2 ∧ (s.iring i).open_ = 0 ∧ (s.iring i).desc = none) ∧
    (∃ (s : State) (i : Nat), s.awake = true ∧ i < 256 ∧ s.irState i = 1 ∧ s.hostAbsent = false ∧ s.hostPath = true) ∧
    (∃ (s : State) (i : Nat), s.awake = true ∧ i < 256 ∧ s.irState i = 1 ∧ s.hostAbsent = false ∧ s.hostPath = false) ∧
    (∃ (s : State) (i : Nat) (prod : Option B32) (u : State) (p : B32), s.awake = true ∧ i < 256 ∧ s.irState i = 1 ∧ (s.iring i).polled = true ∧ (s.iring i).enabling = false ∧ s.fetchWord (.producer i) (kIr i 0x10) prod = (u, some (some p)) ∧ (p - u.reg (kIr i 0x20)).toNat ≤ 2 ^ u.fld (kIr i 8) 1 5) ∧
    (∃ (s : State) (i : Nat) (prod : Option B32) (u : State) (p : B32), s.awake = true ∧ i < 256 ∧ s.irState i = 1 ∧ (s.iring i).polled = true ∧ (s.iring i).enabling = false ∧ s.fetchWord (.producer i) (kIr i 0x10) prod = (u, some (some p)) ∧ 2 ^ u.fld (kIr i 8) 1 5 < (p - u.reg (kIr i 0x20)).toNat) ∧
    (∃ (s : State) (i : Nat) (prod : Option B32) (u : State), s.awake = true ∧ i < 256 ∧ s.irState i = 1 ∧ (s.iring i).polled = true ∧ (s.iring i).enabling = false ∧ s.fetchWord (.producer i) (kIr i 0x10) prod = (u, some none)) ∧
    (∃ (s : State) (i : Nat) (prod : Option B32) (u : State) (w : Option B32), s.awake = true ∧ i < 256 ∧ (s.iring i).enabling = true ∧ s.fetchWord (.producer i) (kIr i 0x10) prod = (u, some w)) ∧
    (∃ (s : State) (i : Nat) (prod : Option B32) (u : State), s.awake = true ∧ i < 256 ∧ ((s.iring i).enabling = true ∨ (s.irState i = 1 ∧ (s.iring i).polled = true)) ∧ s.fetchWord (.producer i) (kIr i 0x10) prod = (u, none)) ∧
    (∃ (s : State) (i : Nat) (desc : Option (BitVec 512)) (u : State) (l : List Byte) (t : Target) (d : BitVec 512) (st : Nat), s.awake = true ∧ i < 256 ∧ s.irState i = 1 ∧ (s.iring i).asked = true ∧ s.hostFetch (.desc i) (s.irDescAt i) 64 (desc.map (fun d => natToBytes d.toNat 64)) = (u, some (some l)) ∧ (u.iring i).target = some t ∧ d = BitVec.ofNat 512 (bytesToNat l) ∧ (u.setIring i { u.iring i with asked := false }).descStatus t d = some st) ∧
    (∃ (s : State) (i : Nat) (desc : Option (BitVec 512)) (u : State) (l : List Byte) (t : Target) (d : BitVec 512), s.awake = true ∧ i < 256 ∧ s.irState i = 1 ∧ (s.iring i).asked = true ∧ s.hostFetch (.desc i) (s.irDescAt i) 64 (desc.map (fun d => natToBytes d.toNat 64)) = (u, some (some l)) ∧ (u.iring i).target = some t ∧ d = BitVec.ofNat 512 (bytesToNat l) ∧ (u.setIring i { u.iring i with asked := false }).descStatus t d = none) ∧
    (∃ (s : State) (i : Nat) (desc : Option (BitVec 512)) (u : State), s.awake = true ∧ i < 256 ∧ s.irState i = 1 ∧ (s.iring i).asked = true ∧ s.hostFetch (.desc i) (s.irDescAt i) 64 (desc.map (fun d => natToBytes d.toNat 64)) = (u, some none)) ∧
    (∃ (s : State) (i : Nat) (desc : Option (BitVec 512)) (u : State), s.awake = true ∧ i < 256 ∧ s.irState i = 1 ∧ (s.iring i).asked = true ∧ s.hostFetch (.desc i) (s.irDescAt i) 64 (desc.map (fun d => natToBytes d.toNat 64)) = (u, none)) ∧
    (∃ (s : State) (i : Nat) (data : Option (List Byte)) (d : IrDesc) (x : State × Option (Option (List Byte))) (t : Target) (r : State × Nat × List Byte), s.awake = true ∧ i < 256 ∧ (s.iring i).desc = some d ∧ (s.iring i).target = some (t) ∧ s.itemWaits (t) d = false ∧ x = s.hostFetch (.data i) d.addr d.length data ∧ (d.mem = true ∨ x.2 ≠ none) ∧ r = (if d.mem then s.hostWindow false d.addr d.length [] else match x.2 with | some (some b) => if b.length = d.length then (x.1, 0, b) else (x.1.hdmaErr, 2, []) | _ => (x.1.hdmaErr, 2, [])) ∧ r.2.1 ≠ 0) ∧
    (∃ (s : State) (i : Nat) (data : Option (List Byte)) (d : IrDesc) (x : State × Option (Option (List Byte))) (p port : Nat) (r : State × Nat × List Byte), s.awake = true ∧ i < 256 ∧ (s.iring i).desc = some d ∧ (s.iring i).target = some (.tensor p port) ∧ s.itemWaits (.tensor p port) d = false ∧ x = s.hostFetch (.data i) d.addr d.length data ∧ (d.mem = true ∨ x.2 ≠ none) ∧ r = (if d.mem then s.hostWindow false d.addr d.length [] else match x.2 with | some (some b) => if b.length = d.length then (x.1, 0, b) else (x.1.hdmaErr, 2, []) | _ => (x.1.hdmaErr, 2, [])) ∧ r.2.1 = 0 ∧ (r.1.writeSlots p d.slots r.2.2).2 ≠ 0) ∧
    (∃ (s : State) (i : Nat) (data : Option (List Byte)) (d : IrDesc) (x : State × Option (Option (List Byte))) (p port : Nat) (r : State × Nat × List Byte), s.awake = true ∧ i < 256 ∧ (s.iring i).desc = some d ∧ (s.iring i).target = some (.tensor p port) ∧ s.itemWaits (.tensor p port) d = false ∧ x = s.hostFetch (.data i) d.addr d.length data ∧ (d.mem = true ∨ x.2 ≠ none) ∧ r = (if d.mem then s.hostWindow false d.addr d.length [] else match x.2 with | some (some b) => if b.length = d.length then (x.1, 0, b) else (x.1.hdmaErr, 2, []) | _ => (x.1.hdmaErr, 2, [])) ∧ r.2.1 = 0 ∧ (r.1.writeSlots p d.slots r.2.2).2 = 0) ∧
    (∃ (s : State) (i : Nat) (data : Option (List Byte)) (d : IrDesc) (x : State × Option (Option (List Byte))) (y : Nat) (r : State × Nat × List Byte), s.awake = true ∧ i < 256 ∧ (s.iring i).desc = some d ∧ (s.iring i).target = some (.au y) ∧ s.itemWaits (.au y) d = false ∧ x = s.hostFetch (.data i) d.addr d.length data ∧ (d.mem = true ∨ x.2 ≠ none) ∧ r = (if d.mem then s.hostWindow false d.addr d.length [] else match x.2 with | some (some b) => if b.length = d.length then (x.1, 0, b) else (x.1.hdmaErr, 2, []) | _ => (x.1.hdmaErr, 2, [])) ∧ r.2.1 = 0) ∧
    (∃ (s : State) (i : Nat) (data : Option (List Byte)) (d : IrDesc) (t : Target) (u : State), s.awake = true ∧ i < 256 ∧ (s.iring i).desc = some d ∧ (s.iring i).target = some t ∧ s.itemWaits (t) d = false ∧ d.mem = false ∧ s.hostFetch (.data i) d.addr d.length data = (u, none)) := by
  refine ⟨?_, ?_, ?_, ?_, ?_, ?_, ?_, ?_, ?_, ?_, ?_, ?_, ?_, ?_, ?_, ?_, ?_, ?_, ?_, ?_, ?_, ?_⟩
  · exact ⟨up, 0, 1, some 0, 0x13, by decide +kernel⟩
  · exact ⟨startable, 0, 0x10003, none, by decide +kernel⟩
  · exact ⟨startable, 0, 0x10003, some 7, 7, by decide +kernel⟩
  · exact ⟨startableAway, 0, 0x10003, none, by decide +kernel⟩
  · exact ⟨(up.setReg (kIr 0 8) 1).setIrState 0 1, 0, 0, by decide +kernel⟩
  · exact ⟨up.setIrState 0 2, 0, by decide +kernel⟩
  · exact ⟨linked.setIrState 0 1, 0, by decide +kernel⟩
  · exact ⟨(up.setBit (kHst 8) 0 false).setIrState 0 1, 0, by decide +kernel⟩
  · exact ⟨(linked.setIrState 0 1).setIring 0 { IRing.idle 0 with polled := true }, 0, some 1, (linked.setIrState 0 1).setIring 0 { IRing.idle 0 with polled := true }, 1, by decide +kernel⟩
  · exact ⟨(linked.setIrState 0 1).setIring 0 { IRing.idle 0 with polled := true }, 0, some 2, (linked.setIrState 0 1).setIring 0 { IRing.idle 0 with polled := true }, 2, by decide +kernel⟩
  · exact ⟨(linked.setIrState 0 1).setIring 0 { IRing.idle 0 with polled := true }, 0, none, (linked.setIrState 0 1).setIring 0 { IRing.idle 0 with polled := true }, by decide +kernel⟩
  · exact ⟨startable.setIring 0 { IRing.idle 0 with enabling := true }, 0, some 1, startable.setIring 0 { IRing.idle 0 with enabling := true }, some 1, by decide +kernel⟩
  · exact ⟨fetching, 0, none, (fetching.fetchWord (.producer 0) (kIr 0 0x10) none).1, by decide +kernel⟩
  · exact ⟨(linked.setIrState 0 1).setIring 0 { IRing.idle 0 with asked := true, target := some (.au 0) }, 0, some (descOf [(0, 9)]), (linked.setIrState 0 1).setIring 0 { IRing.idle 0 with asked := true, target := some (.au 0) }, natToBytes (descOf [(0, 9)]).toNat 64, .au 0, descOf [(0, 9)], 0x12, by decide +kernel⟩
  · exact ⟨((((linked.setIrState 0 1).setIring 0 { IRing.idle 0 with asked := true, target := some (.au 0) }).setVctx 0 { Ctx.idle 0 with desc := some ctxA }).setReg (kBuf 5 8) 4096).setReg (kBuf 5 0xC) 0x80000000, 0, some descAu, ((((linked.setIrState 0 1).setIring 0 { IRing.idle 0 with asked := true, target := some (.au 0) }).setVctx 0 { Ctx.idle 0 with desc := some ctxA }).setReg (kBuf 5 8) 4096).setReg (kBuf 5 0xC) 0x80000000, natToBytes descAu.toNat 64, .au 0, descAu, by decide +kernel⟩
  · exact ⟨(linked.setIrState 0 1).setIring 0 { IRing.idle 0 with asked := true, target := some (.au 0) }, 0, none, (linked.setIrState 0 1).setIring 0 { IRing.idle 0 with asked := true, target := some (.au 0) }, by decide +kernel⟩
  · exact ⟨asking, 0, none, (asking.hostFetch (.desc 0) (asking.irDescAt 0) 64 none).1, by decide +kernel⟩
  · exact ⟨linked.setIring 0 { IRing.idle 0 with target := some (.au 0), desc := some ⟨9, 0, 0, 2, false, [], 0, false⟩ }, 0, none, ⟨9, 0, 0, 2, false, [], 0, false⟩, (linked.setIring 0 { IRing.idle 0 with target := some (.au 0), desc := some ⟨9, 0, 0, 2, false, [], 0, false⟩ }, some none), .au 0, ((linked.setIring 0 { IRing.idle 0 with target := some (.au 0), desc := some ⟨9, 0, 0, 2, false, [], 0, false⟩ }).hdmaErr, 2, []), by refine ⟨?_, ?_, ?_, ?_, ?_, ?_, ?_, ?_, ?_⟩ <;> first | decide +kernel | rfl⟩
  · exact ⟨tensorIn 0x2D00000000 [(false, 0, 0)], 0, some [1, 2], ⟨9, 0, 0, 2, false, [(false, 0, 0)], 0, false⟩, (tensorIn 0x2D00000000 [(false, 0, 0)], some (some [1, 2])), 0, 0, ((tensorIn 0x2D00000000 [(false, 0, 0)]), 0, [1, 2]), by refine ⟨?_, ?_, ?_, ?_, ?_, ?_, ?_, ?_, ?_, ?_⟩ <;> first | decide +kernel | rfl⟩
  · exact ⟨linked.setIring 0 { IRing.idle 0 with target := some (.tensor 0 0), desc := some ⟨9, 0, 0, 2, false, [], 0, false⟩ }, 0, some [1, 2], ⟨9, 0, 0, 2, false, [], 0, false⟩, (linked.setIring 0 { IRing.idle 0 with target := some (.tensor 0 0), desc := some ⟨9, 0, 0, 2, false, [], 0, false⟩ }, some (some [1, 2])), 0, 0, ((linked.setIring 0 { IRing.idle 0 with target := some (.tensor 0 0), desc := some ⟨9, 0, 0, 2, false, [], 0, false⟩ }), 0, [1, 2]), by refine ⟨?_, ?_, ?_, ?_, ?_, ?_, ?_, ?_, ?_, ?_⟩ <;> first | decide +kernel | rfl⟩
  · exact ⟨linked.setIring 0 { IRing.idle 0 with target := some (.au 0), desc := some ⟨9, 0, 0, 2, false, [], 0, false⟩ }, 0, some [1, 2], ⟨9, 0, 0, 2, false, [], 0, false⟩, (linked.setIring 0 { IRing.idle 0 with target := some (.au 0), desc := some ⟨9, 0, 0, 2, false, [], 0, false⟩ }, some (some [1, 2])), 0, ((linked.setIring 0 { IRing.idle 0 with target := some (.au 0), desc := some ⟨9, 0, 0, 2, false, [], 0, false⟩ }), 0, [1, 2]), by refine ⟨?_, ?_, ?_, ?_, ?_, ?_, ?_, ?_, ?_⟩ <;> first | decide +kernel | rfl⟩
  · exact ⟨awayHome.setIring 0 { IRing.idle 0 with target := some (.au 0), desc := some ⟨9, 0, 0, 2, false, [], 0, false⟩ }, 0, none, ⟨9, 0, 0, 2, false, [], 0, false⟩, .au 0, ((awayHome.setIring 0 { IRing.idle 0 with target := some (.au 0), desc := some ⟨9, 0, 0, 2, false, [], 0, false⟩ }).hostFetch (.data 0) 0 2 none).1, by refine ⟨?_, ?_, ?_, ?_, ?_, ?_, ?_⟩ <;> first | decide +kernel | rfl⟩

/-- Each clause of ResultRingCommandsComplete with hypotheses has a state and operands that meet them. -/
theorem witness_ResultRingCommandsComplete :
    (∃ (s : State) (j : Nat) (v : B32) (cons : Option B32) (e : Nat), s.awake = true ∧ j < 256 ∧ v.getLsbD 0 = true ∧ s.bit (kRr j 8) 0 = false ∧ (s.rring j).enabling = false ∧ (s.setReg (kRr j 8) (v &&& 0x3F3E)).rrRefuses j v = some e) ∧
    (∃ (s : State) (j : Nat) (v : B32) (cons : Option B32), s.awake = true ∧ j < 256 ∧ v.getLsbD 0 = true ∧ s.bit (kRr j 8) 0 = false ∧ (s.rring j).enabling = false ∧ (s.setReg (kRr j 8) (v &&& 0x3F3E)).rrRefuses j v = none ∧ (s.setReg (kRr j 8) (v &&& 0x3F3E)).isHome = true ∧ ((s.setReg (kRr j 8) (v &&& 0x3F3E)).hostPath = false ∨ cons = none)) ∧
    (∃ (s : State) (j : Nat) (v : B32) (cons : Option B32) (p : B32), s.awake = true ∧ j < 256 ∧ v.getLsbD 0 = true ∧ s.bit (kRr j 8) 0 = false ∧ (s.rring j).enabling = false ∧ (s.setReg (kRr j 8) (v &&& 0x3F3E)).rrRefuses j v = none ∧ (s.setReg (kRr j 8) (v &&& 0x3F3E)).isHome = true ∧ (s.setReg (kRr j 8) (v &&& 0x3F3E)).hostPath = true ∧ cons = some p) ∧
    (∃ (s : State) (j : Nat) (v : B32) (cons : Option B32), s.awake = true ∧ j < 256 ∧ v.getLsbD 0 = true ∧ s.bit (kRr j 8) 0 = false ∧ (s.rring j).enabling = false ∧ (s.setReg (kRr j 8) (v &&& 0x3F3E)).rrRefuses j v = none ∧ (s.setReg (kRr j 8) (v &&& 0x3F3E)).isHome = false ∧ (s.setReg (kRr j 8) (v &&& 0x3F3E)).hostPath = true) ∧
    (∃ (s : State) (j : Nat) (v : B32), s.awake = true ∧ j < 256 ∧ v.getLsbD 0 = false ∧ s.bit (kRr j 8) 0 = true) ∧
    (∃ (s : State) (j : Nat) (e : ResEntry) (es : List ResEntry), s.awake = true ∧ j < 256 ∧ s.bit (kRr j 8) 0 = true ∧ s.hostAbsent = false ∧ (s.rring j).waiting = e :: es ∧ (s.rrPlace j e).1 + (s.rrPlace j e).2.1 ≤ s.rrFree j) ∧
    (∃ (s : State) (j : Nat) (e : ResEntry) (es : List ResEntry), s.awake = true ∧ j < 256 ∧ s.bit (kRr j 8) 0 = true ∧ s.hostAbsent = false ∧ (s.rring j).waiting = e :: es ∧ s.rrFree j < (s.rrPlace j e).1 + (s.rrPlace j e).2.1) ∧
    (∃ (s : State) (j : Nat) (cons : Option B32) (u : State) (c : B32), s.awake = true ∧ j < 256 ∧ s.consAsked j = true ∧ (s.rring j).enabling = false ∧ s.fetchWord (.consumer j) (kCons j) cons = (u, some (some c)) ∧ (u.reg (kRr j 0x20) - c).toNat ≤ 2 ^ u.fld (kRr j 8) 1 5) ∧
    (∃ (s : State) (j : Nat) (cons : Option B32) (u : State) (c : B32), s.awake = true ∧ j < 256 ∧ s.consAsked j = true ∧ (s.rring j).enabling = false ∧ s.fetchWord (.consumer j) (kCons j) cons = (u, some (some c)) ∧ 2 ^ u.fld (kRr j 8) 1 5 < (u.reg (kRr j 0x20) - c).toNat) ∧
    (∃ (s : State) (j : Nat) (cons : Option B32) (u : State), s.awake = true ∧ j < 256 ∧ s.consAsked j = true ∧ (s.rring j).enabling = false ∧ s.fetchWord (.consumer j) (kCons j) cons = (u, some none)) ∧
    (∃ (s : State) (j : Nat) (cons : Option B32) (u : State) (w : Option B32), s.awake = true ∧ j < 256 ∧ s.consAsked j = true ∧ (s.rring j).enabling = true ∧ s.fetchWord (.consumer j) (kCons j) cons = (u, some w)) ∧
    (∃ (s : State) (cons : Option B32) (u : State) (c : B32), s.awake = true ∧ s.consAsked 256 = true ∧ s.host.evEnabling = false ∧ s.fetchWord (.consumer 256) (kCons 256) cons = (u, some (some c)) ∧ (u.host.evProd - c).toNat ≤ 2 ^ u.fld (kQcx 0x308) 1 5) ∧
    (∃ (s : State) (cons : Option B32) (u : State) (c : B32), s.awake = true ∧ s.consAsked 256 = true ∧ s.host.evEnabling = false ∧ s.fetchWord (.consumer 256) (kCons 256) cons = (u, some (some c)) ∧ 2 ^ u.fld (kQcx 0x308) 1 5 < (u.host.evProd - c).toNat) ∧
    (∃ (s : State) (cons : Option B32) (u : State), s.awake = true ∧ s.consAsked 256 = true ∧ s.host.evEnabling = false ∧ s.fetchWord (.consumer 256) (kCons 256) cons = (u, some none)) ∧
    (∃ (s : State) (cons : Option B32) (u : State) (w : Option B32), s.awake = true ∧ s.consAsked 256 = true ∧ s.host.evEnabling = true ∧ s.fetchWord (.consumer 256) (kCons 256) cons = (u, some w)) ∧
    (∃ (s : State) (j : Nat) (cons : Option B32) (u : State), s.awake = true ∧ s.consAsked j = true ∧ s.fetchWord (.consumer j) (kCons j) cons = (u, none)) ∧
    (∃ (s : State) (j us : Nat), s.awake = true ∧ j < 256 ∧ us = s.fld (kRr j 0xC) 16 16 ∧ us ≠ 0 ∧ (s.rring j).since ≠ 0 ∧ (s.rring j).firstAt + usTicks us ≤ s.elapsed.toNat) ∧
    (∃ (s : State) (us : Nat), s.awake = true ∧ us = s.fld (kQcx 0x320) 16 16 ∧ us ≠ 0 ∧ s.host.evSince ≠ 0 ∧ s.host.evFirst + usTicks us ≤ s.elapsed.toNat) ∧
    (∃ (s : State) (vec : Nat), s.awake = true ∧ vec < 64 ∧ s.bit (kMsix vec 0xC) 0 = true) := by
  refine ⟨?_, ?_, ?_, ?_, ?_, ?_, ?_, ?_, ?_, ?_, ?_, ?_, ?_, ?_, ?_, ?_, ?_, ?_, ?_⟩
  · exact ⟨up, 0, 1, some 0, 0x13, by decide +kernel⟩
  · exact ⟨linked, 0, 0x10D, none, by decide +kernel⟩
  · exact ⟨linked, 0, 0x10D, some 7, 7, by decide +kernel⟩
  · exact ⟨awayHome, 0, 0x10D, none, by decide +kernel⟩
  · exact ⟨up.setReg (kRr 0 8) 1, 0, 0, by decide +kernel⟩
  · exact ⟨(linked.setReg (kRr 0 8) 13).setRring 0 { RRing.idle 0 with waiting := [⟨1, 0, 2, false, 2, 9, 0, 0, 0, 0, 0, [], none, none⟩] }, 0, ⟨1, 0, 2, false, 2, 9, 0, 0, 0, 0, 0, [], none, none⟩, [], by decide +kernel⟩
  · exact ⟨((linked.setReg (kRr 0 8) 13).setRring 0 { RRing.idle 0 with waiting := [⟨1, 0, 2, false, 2, 9, 0, 0, 0, 0, 0, [], none, none⟩] }).setReg (kRr 0 0x20) 64, 0, ⟨1, 0, 2, false, 2, 9, 0, 0, 0, 0, 0, [], none, none⟩, [], by decide +kernel⟩
  · exact ⟨((linked.setReg (kRr 0 8) 13).setFld (kRr 0 0x24) 0 2 2), 0, some 0, ((linked.setReg (kRr 0 8) 13).setFld (kRr 0 0x24) 0 2 2), 0, by decide +kernel⟩
  · exact ⟨((linked.setReg (kRr 0 8) 13).setFld (kRr 0 0x24) 0 2 2), 0, some 1, ((linked.setReg (kRr 0 8) 13).setFld (kRr 0 0x24) 0 2 2), 1, by decide +kernel⟩
  · exact ⟨((linked.setReg (kRr 0 8) 13).setFld (kRr 0 0x24) 0 2 2), 0, none, ((linked.setReg (kRr 0 8) 13).setFld (kRr 0 0x24) 0 2 2), by decide +kernel⟩
  · exact ⟨(linked.setRring 0 { RRing.idle 0 with enabling := true }), 0, some 1, (linked.setRring 0 { RRing.idle 0 with enabling := true }), some 1, by decide +kernel⟩
  · exact ⟨{ linked.setReg (kQcx 0x308) 1 with host := { linked.host with evHeld := [⟨0x301, 0, 0, 0⟩], evProd := 1 } }, some 1, { linked.setReg (kQcx 0x308) 1 with host := { linked.host with evHeld := [⟨0x301, 0, 0, 0⟩], evProd := 1 } }, 1, by decide +kernel⟩
  · exact ⟨{ linked.setReg (kQcx 0x308) 1 with host := { linked.host with evHeld := [⟨0x301, 0, 0, 0⟩], evProd := 1 } }, some 2, { linked.setReg (kQcx 0x308) 1 with host := { linked.host with evHeld := [⟨0x301, 0, 0, 0⟩], evProd := 1 } }, 2, by decide +kernel⟩
  · exact ⟨{ linked.setReg (kQcx 0x308) 1 with host := { linked.host with evHeld := [⟨0x301, 0, 0, 0⟩], evProd := 1 } }, none, { linked.setReg (kQcx 0x308) 1 with host := { linked.host with evHeld := [⟨0x301, 0, 0, 0⟩], evProd := 1 } }, by decide +kernel⟩
  · exact ⟨{ linked with host := { linked.host with evEnabling := true } }, some 1, { linked with host := { linked.host with evEnabling := true } }, some 1, by decide +kernel⟩
  · exact ⟨awayHome.setRring 0 { RRing.idle 0 with enabling := true }, 0, none, ((awayHome.setRring 0 { RRing.idle 0 with enabling := true }).fetchWord (.consumer 0) (kCons 0) none).1, by decide +kernel⟩
  · exact ⟨{ (linked.setReg (kRr 0 0xC) 0x10000).setRring 0 { RRing.idle 0 with since := 1 } with elapsed := 0xFFFFFFFF }, 0, 1, by decide +kernel⟩
  · exact ⟨{ linked.setReg (kQcx 0x320) 0x10000 with host := { linked.host with evSince := 1 }, elapsed := 0xFFFFFFFF }, 1, by decide +kernel⟩
  · exact ⟨up.setReg (kMsix 5 0xC) 1, 5, by decide +kernel⟩

/-- Each clause of HostInterfaceCommandsComplete with hypotheses has a state and operands that meet them. -/
theorem witness_HostInterfaceCommandsComplete :
    (∃ (s : State), s.awake = true) ∧
    (∃ (s : State) (tlp : TlpCheck) (write : Bool) (off len : Nat) (data : List Byte) (n : Nat), s.answers = true ∧ s.host.link = true ∧ s.host.pcie.d3hot = false ∧ s.tlpBad tlp = none ∧ n = (if write then data.length else len) ∧ off + n ≤ regSpace ∧ n ≠ 0) ∧
    (∃ (s : State) (tlp : TlpCheck) (write : Bool) (off len : Nat) (data : List Byte) (a n : Nat), s.answers = true ∧ s.host.link = true ∧ s.host.pcie.d3hot = false ∧ s.awake = true ∧ s.tlpBad tlp = none ∧ n = (if write then data.length else len) ∧ a = (s.reg64 (kHst 0x30)).toNat + off ∧ off + n ≤ 2 ^ s.host.pcie.bar2Log2 ∧ s.pageBusy a n = false ∧ s.rcvWaits a n = false) ∧
    (∃ (s : State) (tlp : TlpCheck) (write : Bool) (off len : Nat) (data : List Byte), s.answers = true ∧ s.host.link = true ∧ s.host.pcie.d3hot = false ∧ s.awake = false ∧ s.tlpBad tlp = none ∧ off + (if write then data.length else len) ≤ 2 ^ s.host.pcie.bar2Log2) ∧
    (∃ (s : State) (tlp : TlpCheck) (write : Bool) (off len : Nat) (data : List Byte) (n : Nat), s.answers = true ∧ s.host.link = true ∧ s.host.pcie.d3hot = false ∧ s.tlpBad tlp = none ∧ n = (if write then data.length else len) ∧ off + n ≤ 0x1000000 ∧ n ≠ 0) ∧
    (∃ (s : State) (bar : HostBar) (tlp : TlpCheck) (write : Bool) (off len : Nat) (data : List Byte) (u : State), s.answers = true ∧ s.host.link = true ∧ s.host.pcie.d3hot = false ∧ s.tlpBad tlp = some u) ∧
    (∃ (s : State) (b : Nat) (v : B32), s.awake = true ∧ b < 4096) ∧
    (∃ (s : State) (word : Option B32) (u : State) (w : B32), s.awake = true ∧ s.bit (kHst 0x28) 0 = true ∧ (s.hostAbsent = false ∨ s.hostLink = true) ∧ s.fetchWord .heartbeat (kHst 0x20) word = (u, some (some w)) ∧ w ≠ u.reg (kHst 0x2C)) ∧
    (∃ (s : State) (word : Option B32) (u : State) (w : B32), s.awake = true ∧ s.bit (kHst 0x28) 0 = true ∧ (s.hostAbsent = false ∨ s.hostLink = true) ∧ s.fetchWord .heartbeat (kHst 0x20) word = (u, some (some w)) ∧ w = u.reg (kHst 0x2C)) ∧
    (∃ (s : State) (word : Option B32) (u : State), s.awake = true ∧ s.bit (kHst 0x28) 0 = true ∧ (s.hostAbsent = false ∨ s.hostLink = true) ∧ s.fetchWord .heartbeat (kHst 0x20) word = (u, some none)) ∧
    (∃ (s : State) (word : Option B32) (u : State), s.awake = true ∧ s.bit (kHst 0x28) 0 = true ∧ (s.hostAbsent = false ∨ s.hostLink = true) ∧ s.fetchWord .heartbeat (kHst 0x20) word = (u, none)) := by
  refine ⟨?_, ?_, ?_, ?_, ?_, ?_, ?_, ?_, ?_, ?_, ?_⟩
  · exact ⟨up, by decide +kernel⟩
  · exact ⟨linked, .good, true, 64, 0, [1, 2, 3, 4], 4, by decide +kernel⟩
  · exact ⟨linked, .good, true, 64, 0, [1, 2], 64, 2, by decide +kernel⟩
  · exact ⟨{ linked with boot := { linked.boot with phase := .halted } }, .good, false, 64, 4, [], by decide +kernel⟩
  · exact ⟨linked, .good, true, 64, 0, [1, 2, 3, 4], 4, by decide +kernel⟩
  · exact ⟨linked, .bar2, .poisoned, true, 64, 0, [1, 2], { linked with host := { linked.host with pcie := { linked.host.pcie with poisoned := true } } }, by decide +kernel⟩
  · exact ⟨up, 0, 1, by decide +kernel⟩
  · exact ⟨linked.setReg (kHst 0x28) 0x640001, some 9, linked.setReg (kHst 0x28) 0x640001, 9, by decide +kernel⟩
  · exact ⟨linked.setReg (kHst 0x28) 0x640001, some 0, linked.setReg (kHst 0x28) 0x640001, 0, by decide +kernel⟩
  · exact ⟨linked.setReg (kHst 0x28) 0x640001, none, linked.setReg (kHst 0x28) 0x640001, by decide +kernel⟩
  · exact ⟨awayHome.setReg (kHst 0x28) 0x640001, none, ((awayHome.setReg (kHst 0x28) 0x640001).fetchWord .heartbeat (kHst 0x20) none).1, by decide +kernel⟩

/-- Each clause of HostConnectionCommandsComplete with hypotheses has a state and operands that meet them. -/
theorem witness_HostConnectionCommandsComplete :
    (∃ (s : State), s.awake = true ∧ s.hostAbsent = false) ∧
    (∃ (s : State), s.awake = true ∧ s.hostAbsent = true ∧ s.hostPath = true) ∧
    (∃ (s : State), s.answers = true ∧ s.host.link = true) ∧
    (∃ (s : State), s.host.perst = false) ∧
    (∃ (s : State), s.host.perst = true) ∧
    (∃ (s : State), s.answers = true ∧ s.host.perst = false ∧ s.hostUp = false) := by
  refine ⟨?_, ?_, ?_, ?_, ?_, ?_⟩
  · exact ⟨linked, by decide +kernel⟩
  · exact ⟨linked.setBit (kHst 8) 0 true, by decide +kernel⟩
  · exact ⟨linked, by decide +kernel⟩
  · exact ⟨linked, by decide +kernel⟩
  · exact ⟨{ up with host := { up.host with perst := true } }, by decide +kernel⟩
  · exact ⟨up, by decide +kernel⟩

/-- Each clause of LinkTrainingCommandsComplete with hypotheses has a state and operands that meet them. -/
theorem witness_LinkTrainingCommandsComplete :
    (∃ (s : State) (rq : Requester) (p : Nat) (on : Bool), s.awake = true ∧ p < 6 ∧ regAllowed rq true (kLnk p 4) = true) ∧
    (∃ (s : State) (rq : Requester) (p : Nat), s.awake = true ∧ p < 6 ∧ regAllowed rq true (kLnk p 4) = true) ∧
    (∃ (s : State) (p lanes : Nat), s.awake = true ∧ p < 6 ∧ s.lnkState p = lsDetect ∧ 8 ≤ lanes) ∧
    (∃ (s : State) (p : Nat) (badRx badTx : BitVec 17), s.awake = true ∧ p < 6 ∧ (s.lnkState p = lsLaneCheck ∨ (s.lnkState p = lsRetrain ∧ (s.port p).aligning = false)) ∧ min (goodLanes badRx).length (goodLanes badTx).length < 8) ∧
    (∃ (s : State) (p : Nat) (badRx badTx : BitVec 17) (half used moved : Bool) (fresh : List Nat), s.awake = true ∧ p < 6 ∧ (s.lnkState p = lsLaneCheck ∨ (s.lnkState p = lsRetrain ∧ (s.port p).aligning = false)) ∧ 8 ≤ min (goodLanes badRx).length (goodLanes badTx).length ∧ half = decide (min (goodLanes badRx).length (goodLanes badTx).length < 16) ∧ used = (lane16Used badRx half || lane16Used badTx half) ∧ moved = (laneMap badRx half != laneMap (s.port p).badRx (s.bit (kLnk p 8) 4) || laneMap badTx half != laneMap (s.port p).badTx (s.bit (kLnk p 8) 4)) ∧ fresh = lanesOf ((badRx &&& ~~~(s.port p).badRx) ||| (badTx &&& ~~~(s.port p).badTx))) ∧
    (∃ (s : State) (p : Nat) (rtt : BitVec 16), s.awake = true ∧ p < 6 ∧ s.lnkState p = lsAlign) ∧
    (∃ (s : State) (p : Nat) (rtt : BitVec 16), s.awake = true ∧ p < 6 ∧ s.lnkState p = lsRetrain ∧ (s.port p).aligning = true) := by
  refine ⟨?_, ?_, ?_, ?_, ?_, ?_, ?_⟩
  · exact ⟨port0 lsDisabled, rqCore0, 0, true, by decide +kernel⟩
  · exact ⟨port0 lsActive, rqCore0, 0, by decide +kernel⟩
  · exact ⟨port0 lsDetect, 0, 17, by decide +kernel⟩
  · exact ⟨port0 lsLaneCheck, 0, 0x1FFFF, 0, by decide +kernel⟩
  · exact ⟨port0 lsLaneCheck, 0, 0, 1, false, true, true, [0], by decide +kernel⟩
  · exact ⟨port0 lsAlign, 0, 100, by decide +kernel⟩
  · exact ⟨(port0 lsRetrain).setPort 0 { Port.idle 0 with aligning := true }, 0, 100, by decide +kernel⟩

/-- Each clause of LinkLimitAndParameterCommandsComplete with hypotheses has a state and operands that meet them. -/
theorem witness_LinkLimitAndParameterCommandsComplete :
    (∃ (s : State) (p : Nat), s.awake = true ∧ p < 6 ∧ s.lnkState p = lsAlign ∧ (s.port p).since + usTicks 100 ≤ s.elapsed.toNat) ∧
    (∃ (s : State) (p : Nat), s.awake = true ∧ p < 6 ∧ s.lnkState p = lsParam ∧ (s.port p).since + usTicks 100 ≤ s.elapsed.toNat) ∧
    (∃ (s : State) (p : Nat), s.awake = true ∧ p < 6 ∧ s.lnkState p = lsRetrain ∧ ((s.port p).since + usTicks 8 ≤ s.elapsed.toNat ∨ ((s.port p).aligning = true ∧ (s.port p).alignAt + usTicks 2 ≤ s.elapsed.toNat))) ∧
    (∃ (s : State) (p r : Nat) (f : ParamFlit), s.awake = true ∧ p < 6 ∧ s.lnkState p = lsParam ∧ s.paramReason p f = some r) ∧
    (∃ (s : State) (p : Nat) (f : ParamFlit), s.awake = true ∧ p < 6 ∧ s.lnkState p = lsParam ∧ s.paramReason p f = none) ∧
    (∃ (s : State) (p : Nat), s.awake = true ∧ p < 6 ∧ s.lnkState p = lsFailed ∧ (s.port p).since + msTicks 100 ≤ s.elapsed.toNat) ∧
    (∃ (s : State) (p : Nat), s.awake = true ∧ p < 6 ∧ s.lnkState p = lsActive ∧ (s.fld (kLnk p 4) 16 16 ≠ 0 ∨ 8 ≤ (s.port p).again)) ∧
    (∃ (s : State) (p : Nat), s.awake = true ∧ p < 6 ∧ s.lnkState p = lsActive) := by
  refine ⟨?_, ?_, ?_, ?_, ?_, ?_, ?_, ?_⟩
  · exact ⟨port0 lsAlign, 0, by decide +kernel⟩
  · exact ⟨port0 lsParam, 0, by decide +kernel⟩
  · exact ⟨port0 lsRetrain, 0, by decide +kernel⟩
  · exact ⟨torus, 0, 1, ⟨99, 1, 4, 4, 4, 7, 0⟩, by decide +kernel⟩
  · exact ⟨torus, 0, goodParam torus, by decide +kernel⟩
  · exact ⟨port0 lsFailed, 0, by decide +kernel⟩
  · exact ⟨(port0 lsActive).setFld (kLnk 0 4) 16 16 64, 0, by decide +kernel⟩
  · exact ⟨port0 lsActive, 0, by decide +kernel⟩

/-- Each clause of LinkFlitCommandsComplete with hypotheses has a state and operands that meet them. -/
theorem witness_LinkFlitCommandsComplete :
    (∃ (s : State) (p : Nat), s.awake = true ∧ p < 6 ∧ s.lnkState p = lsActive ∧ 2047 ≤ (s.port p).idleIn) ∧
    (∃ (s : State) (p : Nat) (f : BitVec 2048) (fs : List (BitVec 2048)), s.awake = true ∧ p < 6 ∧ s.lnkState p = lsActive ∧ (s.port p).idleIn < 2047 ∧ (s.port p).resend = f :: fs) ∧
    (∃ (s : State) (p : Nat), s.awake = true ∧ p < 6 ∧ s.lnkState p = lsActive ∧ (s.port p).idleIn < 2047 ∧ (s.port p).resend = [] ∧ s.nextVc p = none) ∧
    (∃ (s : State) (p v : Nat), s.awake = true ∧ p < 6 ∧ s.lnkState p = lsActive ∧ (s.port p).idleIn < 2047 ∧ (s.port p).resend = [] ∧ s.nextVc p = some v) ∧
    (∃ (s : State) (p : Nat) (f : BitVec 2048), s.awake = true ∧ p < 6 ∧ s.lnkState p = lsActive ∧ fOk f = false) ∧
    (∃ (s : State) (p : Nat) (f : BitVec 2048), s.awake = true ∧ p < 6 ∧ s.lnkState p = lsActive ∧ fOk f = true ∧ fVc f = 7) ∧
    (∃ (s : State) (p : Nat) (f : BitVec 2048), s.awake = true ∧ p < 6 ∧ s.lnkState p = lsActive ∧ fOk f = true ∧ fVc f ≠ 7 ∧ (6 ≤ fVc f ∨ fSeq f ≠ ((s.takeControl p f).port p).rxNext)) ∧
    (∃ (s : State) (p : Nat) (f : BitVec 2048), s.awake = true ∧ p < 6 ∧ s.lnkState p = lsActive ∧ fOk f = true ∧ fVc f < 6 ∧ fSeq f = ((s.takeControl p f).port p).rxNext) := by
  refine ⟨?_, ?_, ?_, ?_, ?_, ?_, ?_, ?_⟩
  · exact ⟨(port0 lsActive).setPort 0 { Port.idle 0 with idleIn := 2047 }, 0, by decide +kernel⟩
  · exact ⟨(port0 lsActive).setPort 0 { Port.idle 0 with resend := [0] }, 0, 0, [], by decide +kernel⟩
  · exact ⟨port0 lsActive, 0, by decide +kernel⟩
  · exact ⟨((port0 lsActive).setFld (kLnk 0 0x40) 0 8 4).setPort 0 { Port.idle 0 with txq := [(0, [(1, none), (2, none), (3, none)])] }, 0, 0, by decide +kernel⟩
  · exact (bad_flit).elim (fun f hf => ⟨port0 lsActive, 0, f, by decide +kernel, by decide, by decide +kernel, hf⟩)
  · exact ⟨port0 lsActive, 0, flitOf 0x70000000, ⟨by decide +kernel, by decide, by decide +kernel, fOk_flitOf _ (by decide +kernel), (bitsOf_flitOf _ 28 3 (by decide +kernel) (by decide)).trans (by decide)⟩⟩
  · exact ⟨port0 lsActive, 0, flitOf 1, ⟨by decide +kernel, by decide, by decide +kernel, fOk_flitOf _ (by decide +kernel), by rw [fVc, bitsOf_flitOf _ 28 3 (by decide +kernel) (by decide)]; decide, Or.inr (by rw [fSeq, bitsOf_flitOf _ 0 12 (by decide +kernel) (by decide), takeControl_rxNext]; decide +kernel)⟩⟩
  · exact ⟨port0 lsActive, 0, flitOf 0, ⟨by decide +kernel, by decide, by decide +kernel, fOk_flitOf _ (by decide +kernel), by rw [fVc, bitsOf_flitOf _ 28 3 (by decide +kernel) (by decide)]; decide, by rw [fSeq, bitsOf_flitOf _ 0 12 (by decide +kernel) (by decide), takeControl_rxNext]; decide +kernel⟩⟩

/-- Each clause of LinkMessageCommandsComplete with hypotheses has a state and operands that meet them. -/
theorem witness_LinkMessageCommandsComplete :
    (∃ (s : State) (p v freed : Nat) (m : LnkMsg) (rest : List (B64 × Bool)) (u : State) (hostData : Option (List Byte)), s.awake = true ∧ p < 6 ∧ mKind m = 1 ∧ mDst m = s.boot.dev ∧ (v = 0 ∨ (v = 1 ∧ (frontMsg (SMap.get noRx (s.port p).rxq 0)).map (·.1) ≠ some m)) ∧ frontMsg (SMap.get noRx (s.port p).rxq v) = some (m, rest, freed) ∧ u = (s.setRx p v rest freed).forwardAll p v ∧ mHost m = true) ∧
    (∃ (s : State) (p v freed : Nat) (m : LnkMsg) (rest : List (B64 × Bool)) (u : State) (hostData : Option (List Byte)), s.awake = true ∧ p < 6 ∧ mKind m = 1 ∧ mDst m = s.boot.dev ∧ (v = 0 ∨ (v = 1 ∧ (frontMsg (SMap.get noRx (s.port p).rxq 0)).map (·.1) ≠ some m)) ∧ frontMsg (SMap.get noRx (s.port p).rxq v) = some (m, rest, freed) ∧ u = (s.setRx p v rest freed).forwardAll p v ∧ mHost m = false ∧ u.pageBusy (mAddr m % 2 ^ 40) (8 * mChunks m) = false) ∧
    (∃ (s : State) (p v freed : Nat) (m : LnkMsg) (rest : List (B64 × Bool)) (u : State) (ok : Bool), s.awake = true ∧ p < 6 ∧ mKind m = 2 ∧ mDst m = s.boot.dev ∧ (v = 4 ∨ (v = 5 ∧ (frontMsg (SMap.get noRx (s.port p).rxq 4)).map (·.1) ≠ some m)) ∧ frontMsg (SMap.get noRx (s.port p).rxq v) = some (m, rest, freed) ∧ u = (s.setRx p v rest freed).forwardAll p v ∧ mHost m = true) ∧
    (∃ (s : State) (p v freed : Nat) (m : LnkMsg) (rest : List (B64 × Bool)) (u : State) (ok : Bool), s.awake = true ∧ p < 6 ∧ mKind m = 2 ∧ mDst m = s.boot.dev ∧ (v = 4 ∨ (v = 5 ∧ (frontMsg (SMap.get noRx (s.port p).rxq 4)).map (·.1) ≠ some m)) ∧ frontMsg (SMap.get noRx (s.port p).rxq v) = some (m, rest, freed) ∧ u = (s.setRx p v rest freed).forwardAll p v ∧ mHost m = false ∧ u.pageBusy (mAddr m % 2 ^ 40) m.payload.length = false) ∧
    (∃ (s : State) (p v freed : Nat) (m : LnkMsg) (rest : List (B64 × Bool)) (u : State), s.awake = true ∧ p < 6 ∧ mKind m = 3 ∧ mDst m = s.boot.dev ∧ (v = 4 ∨ (v = 5 ∧ (frontMsg (SMap.get noRx (s.port p).rxq 4)).map (·.1) ≠ some m)) ∧ frontMsg (SMap.get noRx (s.port p).rxq v) = some (m, rest, freed) ∧ u = (s.setRx p v rest freed).forwardAll p v ∧ u.physOf (pushTile m) = none) ∧
    (∃ (s : State) (p v freed : Nat) (m : LnkMsg) (rest : List (B64 × Bool)) (u : State) (ph : Nat), s.awake = true ∧ p < 6 ∧ mKind m = 3 ∧ mDst m = s.boot.dev ∧ (v = 4 ∨ (v = 5 ∧ (frontMsg (SMap.get noRx (s.port p).rxq 4)).map (·.1) ≠ some m)) ∧ frontMsg (SMap.get noRx (s.port p).rxq v) = some (m, rest, freed) ∧ u = (s.setRx p v rest freed).forwardAll p v ∧ u.physOf (pushTile m) = some ph ∧ u.pushWaits ph m = false ∧ u.peerPart ph m = none) ∧
    (∃ (s : State) (p v freed : Nat) (m : LnkMsg) (rest : List (B64 × Bool)) (u : State) (ph : Nat) (o : StepRef × Nat), s.awake = true ∧ p < 6 ∧ mKind m = 3 ∧ mDst m = s.boot.dev ∧ (v = 4 ∨ (v = 5 ∧ (frontMsg (SMap.get noRx (s.port p).rxq 4)).map (·.1) ≠ some m)) ∧ frontMsg (SMap.get noRx (s.port p).rxq v) = some (m, rest, freed) ∧ u = (s.setRx p v rest freed).forwardAll p v ∧ u.physOf (pushTile m) = some ph ∧ u.pushWaits ph m = false ∧ u.peerPart ph m = some o) := by
  refine ⟨?_, ?_, ?_, ?_, ?_, ?_, ?_⟩
  · exact ⟨withMsg (up) (msgTo0 1 0x1000 3 true []), 0, 0, 0, msgTo0 1 0x1000 3 true [], [], taken up (msgTo0 1 0x1000 3 true []), none, by decide +kernel⟩
  · exact ⟨withMsg (up) (msgTo0 1 0x1000 3 false []), 0, 0, 0, msgTo0 1 0x1000 3 false [], [], taken up (msgTo0 1 0x1000 3 false []), none, by decide +kernel⟩
  · exact ⟨withMsg (up) (msgTo0 2 0x1000 3 true [1, 2, 3, 4, 5, 6, 7, 8]), 0, 4, 0, msgTo0 2 0x1000 3 true [1, 2, 3, 4, 5, 6, 7, 8], [], taken up (msgTo0 2 0x1000 3 true [1, 2, 3, 4, 5, 6, 7, 8]), true, by decide +kernel⟩
  · exact ⟨withMsg (up) (msgTo0 2 0x1000 3 false [1, 2, 3, 4, 5, 6, 7, 8]), 0, 4, 0, msgTo0 2 0x1000 3 false [1, 2, 3, 4, 5, 6, 7, 8], [], taken up (msgTo0 2 0x1000 3 false [1, 2, 3, 4, 5, 6, 7, 8]), true, by decide +kernel⟩
  · exact ⟨withMsg (noTile63) (msgTo0 3 (63 * 2 ^ 32) 3 false []), 0, 4, 0, msgTo0 3 (63 * 2 ^ 32) 3 false [], [], taken noTile63 (msgTo0 3 (63 * 2 ^ 32) 3 false []), by decide +kernel⟩
  · exact ⟨withMsg (filled0) (msgTo0 3 5 3 false []), 0, 4, 0, msgTo0 3 5 3 false [], [], taken filled0 (msgTo0 3 5 3 false []), 0, by decide +kernel⟩
  · exact ⟨withMsg (owing) (msgTo0 3 5 3 false []), 0, 4, 0, msgTo0 3 5 3 false [], [], taken owing (msgTo0 3 5 3 false []), 0, (⟨0, false, 0, 0, 7⟩, 1), by decide +kernel⟩

/-- Each clause of LinkFlowAndControlMessagesComplete with hypotheses has a state and operands that meet them. -/
theorem witness_LinkFlowAndControlMessagesComplete :
    (∃ (s : State) (p v freed : Nat) (m : LnkMsg) (rest : List (B64 × Bool)) (u : State), s.awake = true ∧ p < 6 ∧ mKind m = 4 ∧ mDst m = s.boot.dev ∧ (v = 0 ∨ (v = 1 ∧ (frontMsg (SMap.get noRx (s.port p).rxq 0)).map (·.1) ≠ some m)) ∧ frontMsg (SMap.get noRx (s.port p).rxq v) = some (m, rest, freed) ∧ u = (s.setRx p v rest freed).forwardAll p v) ∧
    (∃ (s : State) (p v freed : Nat) (m : LnkMsg) (rest : List (B64 × Bool)) (u : State), s.awake = true ∧ p < 6 ∧ mKind m = 5 ∧ mDst m = s.boot.dev ∧ (v = 0 ∨ (v = 1 ∧ (frontMsg (SMap.get noRx (s.port p).rxq 0)).map (·.1) ≠ some m)) ∧ frontMsg (SMap.get noRx (s.port p).rxq v) = some (m, rest, freed) ∧ u = (s.setRx p v rest freed).forwardAll p v) ∧
    (∃ (s : State) (p v freed : Nat) (m : LnkMsg) (rest : List (B64 × Bool)) (u : State), s.awake = true ∧ p < 6 ∧ mKind m = 6 ∧ mDst m = s.boot.dev ∧ (v = 0 ∨ (v = 1 ∧ (frontMsg (SMap.get noRx (s.port p).rxq 0)).map (·.1) ≠ some m)) ∧ frontMsg (SMap.get noRx (s.port p).rxq v) = some (m, rest, freed) ∧ u = (s.setRx p v rest freed).forwardAll p v) ∧
    (∃ (s : State) (p v freed : Nat) (m : LnkMsg) (rest : List (B64 × Bool)) (u : State), s.awake = true ∧ p < 6 ∧ mKind m = 7 ∧ mDst m = s.boot.dev ∧ (v = 4 ∨ (v = 5 ∧ (frontMsg (SMap.get noRx (s.port p).rxq 4)).map (·.1) ≠ some m)) ∧ frontMsg (SMap.get noRx (s.port p).rxq v) = some (m, rest, freed) ∧ u = (s.setRx p v rest freed).forwardAll p v) ∧
    (∃ (s : State) (p v freed : Nat) (m : LnkMsg) (rest : List (B64 × Bool)) (u : State), s.awake = true ∧ p < 6 ∧ mKind m = 8 ∧ mDst m = s.boot.dev ∧ (v = 2 ∨ (v = 3 ∧ (frontMsg (SMap.get noRx (s.port p).rxq 2)).map (·.1) ≠ some m)) ∧ frontMsg (SMap.get noRx (s.port p).rxq v) = some (m, rest, freed) ∧ u = (s.setRx p v rest freed).forwardAll p v) ∧
    (∃ (s : State) (p v freed : Nat) (m : LnkMsg) (rest : List (B64 × Bool)) (u : State), s.awake = true ∧ p < 6 ∧ mKind m = 9 ∧ mDst m = s.boot.dev ∧ (v = 2 ∨ (v = 3 ∧ (frontMsg (SMap.get noRx (s.port p).rxq 2)).map (·.1) ≠ some m)) ∧ frontMsg (SMap.get noRx (s.port p).rxq v) = some (m, rest, freed) ∧ u = (s.setRx p v rest freed).forwardAll p v) ∧
    (∃ (s : State) (p v freed : Nat) (m : LnkMsg) (rest : List (B64 × Bool)) (u : State), s.awake = true ∧ p < 6 ∧ mKind m = 10 ∧ mDst m = s.boot.dev ∧ (v = 0 ∨ (v = 1 ∧ (frontMsg (SMap.get noRx (s.port p).rxq 0)).map (·.1) ≠ some m)) ∧ frontMsg (SMap.get noRx (s.port p).rxq v) = some (m, rest, freed) ∧ u = (s.setRx p v rest freed).forwardAll p v ∧ mTag m = ctrlData) ∧
    (∃ (s : State) (p v freed : Nat) (m : LnkMsg) (rest : List (B64 × Bool)) (u w : State), s.awake = true ∧ p < 6 ∧ mKind m = 10 ∧ mDst m = s.boot.dev ∧ (v = 0 ∨ (v = 1 ∧ (frontMsg (SMap.get noRx (s.port p).rxq 0)).map (·.1) ≠ some m)) ∧ frontMsg (SMap.get noRx (s.port p).rxq v) = some (m, rest, freed) ∧ u = (s.setRx p v rest freed).forwardAll p v ∧ mTag m = ctrlRequest ∧ s.guestRun u (mSrc m) (m.payload.take 64) = some w) ∧
    (∃ (s : State) (p v freed : Nat) (m : LnkMsg) (rest : List (B64 × Bool)) (u : State), s.awake = true ∧ p < 6 ∧ mKind m = 10 ∧ mDst m = s.boot.dev ∧ (v = 0 ∨ (v = 1 ∧ (frontMsg (SMap.get noRx (s.port p).rxq 0)).map (·.1) ≠ some m)) ∧ frontMsg (SMap.get noRx (s.port p).rxq v) = some (m, rest, freed) ∧ u = (s.setRx p v rest freed).forwardAll p v ∧ mTag m = ctrlResponse ∧ s.serving = true ∧ s.updActive = false) ∧
    (∃ (s : State) (p v freed : Nat) (m : LnkMsg) (rest : List (B64 × Bool)) (u : State), s.awake = true ∧ p < 6 ∧ mKind m = 10 ∧ mDst m = s.boot.dev ∧ (v = 0 ∨ (v = 1 ∧ (frontMsg (SMap.get noRx (s.port p).rxq 0)).map (·.1) ≠ some m)) ∧ frontMsg (SMap.get noRx (s.port p).rxq v) = some (m, rest, freed) ∧ u = (s.setRx p v rest freed).forwardAll p v ∧ mTag m = ctrlEvent) ∧
    (∃ (s : State) (p v freed : Nat) (m : LnkMsg) (rest : List (B64 × Bool)) (u : State), s.awake = true ∧ p < 6 ∧ mKind m = 10 ∧ mDst m = s.boot.dev ∧ (v = 0 ∨ (v = 1 ∧ (frontMsg (SMap.get noRx (s.port p).rxq 0)).map (·.1) ≠ some m)) ∧ frontMsg (SMap.get noRx (s.port p).rxq v) = some (m, rest, freed) ∧ u = (s.setRx p v rest freed).forwardAll p v ∧ mTag m = ctrlCommit) ∧
    (∃ (s : State) (p v freed : Nat) (m : LnkMsg) (rest : List (B64 × Bool)) (u : State), s.awake = true ∧ p < 6 ∧ mKind m = 10 ∧ mDst m = s.boot.dev ∧ (v = 0 ∨ (v = 1 ∧ (frontMsg (SMap.get noRx (s.port p).rxq 0)).map (·.1) ≠ some m)) ∧ frontMsg (SMap.get noRx (s.port p).rxq v) = some (m, rest, freed) ∧ u = (s.setRx p v rest freed).forwardAll p v ∧ mTag m = ctrlResident) ∧
    (∃ (s : State) (p v freed : Nat) (m : LnkMsg) (rest : List (B64 × Bool)) (u : State), s.awake = true ∧ p < 6 ∧ mKind m = 10 ∧ mDst m = s.boot.dev ∧ (v = 0 ∨ (v = 1 ∧ (frontMsg (SMap.get noRx (s.port p).rxq 0)).map (·.1) ≠ some m)) ∧ frontMsg (SMap.get noRx (s.port p).rxq v) = some (m, rest, freed) ∧ u = (s.setRx p v rest freed).forwardAll p v ∧ mTag m = ctrlLayer) ∧
    (∃ (s : State) (p v freed : Nat) (m : LnkMsg) (rest : List (B64 × Bool)) (u : State), s.awake = true ∧ p < 6 ∧ mKind m = 10 ∧ mDst m = s.boot.dev ∧ (v = 0 ∨ (v = 1 ∧ (frontMsg (SMap.get noRx (s.port p).rxq 0)).map (·.1) ≠ some m)) ∧ frontMsg (SMap.get noRx (s.port p).rxq v) = some (m, rest, freed) ∧ u = (s.setRx p v rest freed).forwardAll p v ∧ mTag m = ctrlBookAsk) ∧
    (∃ (s : State) (p v freed : Nat) (m : LnkMsg) (rest : List (B64 × Bool)) (u : State), s.awake = true ∧ p < 6 ∧ mKind m = 10 ∧ mDst m = s.boot.dev ∧ (v = 0 ∨ (v = 1 ∧ (frontMsg (SMap.get noRx (s.port p).rxq 0)).map (·.1) ≠ some m)) ∧ frontMsg (SMap.get noRx (s.port p).rxq v) = some (m, rest, freed) ∧ u = (s.setRx p v rest freed).forwardAll p v ∧ mTag m = ctrlBookTell) ∧
    (∃ (s : State) (p v freed : Nat) (m : LnkMsg) (rest : List (B64 × Bool)) (u : State), s.awake = true ∧ p < 6 ∧ mKind m = 10 ∧ mDst m = s.boot.dev ∧ (v = 0 ∨ (v = 1 ∧ (frontMsg (SMap.get noRx (s.port p).rxq 0)).map (·.1) ≠ some m)) ∧ frontMsg (SMap.get noRx (s.port p).rxq v) = some (m, rest, freed) ∧ u = (s.setRx p v rest freed).forwardAll p v ∧ mTag m = ctrlBookRestore) ∧
    (∃ (s : State) (p v freed : Nat) (m : LnkMsg) (rest : List (B64 × Bool)) (u : State), s.awake = true ∧ p < 6 ∧ mKind m = 10 ∧ mDst m = s.boot.dev ∧ (v = 0 ∨ (v = 1 ∧ (frontMsg (SMap.get noRx (s.port p).rxq 0)).map (·.1) ≠ some m)) ∧ frontMsg (SMap.get noRx (s.port p).rxq v) = some (m, rest, freed) ∧ u = (s.setRx p v rest freed).forwardAll p v ∧ mTag m = ctrlTwin) ∧
    (∃ (s : State) (p v freed : Nat) (m : LnkMsg) (rest : List (B64 × Bool)) (u : State), s.awake = true ∧ p < 6 ∧ mKind m = 10 ∧ mDst m = s.boot.dev ∧ (v = 0 ∨ (v = 1 ∧ (frontMsg (SMap.get noRx (s.port p).rxq 0)).map (·.1) ≠ some m)) ∧ frontMsg (SMap.get noRx (s.port p).rxq v) = some (m, rest, freed) ∧ u = (s.setRx p v rest freed).forwardAll p v ∧ mTag m = ctrlAbsent) ∧
    (∃ (s : State) (p v freed : Nat) (m : LnkMsg) (rest : List (B64 × Bool)) (u : State), s.awake = true ∧ p < 6 ∧ mKind m = 10 ∧ mDst m = s.boot.dev ∧ (v = 0 ∨ (v = 1 ∧ (frontMsg (SMap.get noRx (s.port p).rxq 0)).map (·.1) ≠ some m)) ∧ frontMsg (SMap.get noRx (s.port p).rxq v) = some (m, rest, freed) ∧ u = (s.setRx p v rest freed).forwardAll p v ∧ 11 < mTag m) := by
  refine ⟨?_, ?_, ?_, ?_, ?_, ?_, ?_, ?_, ?_, ?_, ?_, ?_, ?_, ?_, ?_, ?_, ?_, ?_, ?_⟩
  · exact ⟨withMsg (up) (msgTo0 4 0 0 false [0, 0, 0, 0, 0, 0, 0, 0]), 0, 0, 0, msgTo0 4 0 0 false [0, 0, 0, 0, 0, 0, 0, 0], [], taken up (msgTo0 4 0 0 false [0, 0, 0, 0, 0, 0, 0, 0]), by decide +kernel⟩
  · exact ⟨withMsg (up) (msgTo0 5 0 0 false (List.replicate 32 0)), 0, 0, 0, msgTo0 5 0 0 false (List.replicate 32 0), [], taken up (msgTo0 5 0 0 false (List.replicate 32 0)), by decide +kernel⟩
  · exact ⟨withMsg (up) (msgTo0 6 0 0 false (List.replicate 16 0)), 0, 0, 0, msgTo0 6 0 0 false (List.replicate 16 0), [], taken up (msgTo0 6 0 0 false (List.replicate 16 0)), by decide +kernel⟩
  · exact ⟨withMsg (up) (msgTo0 7 0 0 false (List.replicate 64 1)), 0, 4, 0, msgTo0 7 0 0 false (List.replicate 64 1), [], taken up (msgTo0 7 0 0 false (List.replicate 64 1)), by decide +kernel⟩
  · exact ⟨withMsg (up) (msgTo0 8 0 0 false []), 0, 2, 0, msgTo0 8 0 0 false [], [], taken up (msgTo0 8 0 0 false []), by decide +kernel⟩
  · exact ⟨withMsg (up) (msgTo0 9 0 0 false []), 0, 2, 0, msgTo0 9 0 0 false [], [], taken up (msgTo0 9 0 0 false []), by decide +kernel⟩
  · exact ⟨withMsg (up) (msgTo0 10 0 2 false (List.replicate 64 0)), 0, 0, 0, msgTo0 10 0 2 false (List.replicate 64 0), [], taken up (msgTo0 10 0 2 false (List.replicate 64 0)), by decide +kernel⟩
  · exact ⟨withMsg (up) (msgTo0 10 0 0 false (List.replicate 64 0)), 0, 0, 0, msgTo0 10 0 0 false (List.replicate 64 0), [], taken up (msgTo0 10 0 0 false (List.replicate 64 0)), ((withMsg up (msgTo0 10 0 0 false (List.replicate 64 0))).guestRun (taken up (msgTo0 10 0 0 false (List.replicate 64 0))) (mSrc (msgTo0 10 0 0 false (List.replicate 64 0))) ((msgTo0 10 0 0 false (List.replicate 64 0)).payload.take 64)).getD up, by decide +kernel⟩
  · exact ⟨withMsg (up) (msgTo0 10 0 1 false (List.replicate 64 0)), 0, 0, 0, msgTo0 10 0 1 false (List.replicate 64 0), [], taken up (msgTo0 10 0 1 false (List.replicate 64 0)), by decide +kernel⟩
  · exact ⟨withMsg (up) (msgTo0 10 0 3 false (List.replicate 64 0)), 0, 0, 0, msgTo0 10 0 3 false (List.replicate 64 0), [], taken up (msgTo0 10 0 3 false (List.replicate 64 0)), by decide +kernel⟩
  · exact ⟨withMsg (up) (msgTo0 10 0 4 false (List.replicate 64 0)), 0, 0, 0, msgTo0 10 0 4 false (List.replicate 64 0), [], taken up (msgTo0 10 0 4 false (List.replicate 64 0)), by decide +kernel⟩
  · exact ⟨withMsg (up) (msgTo0 10 0 5 false (List.replicate 64 0)), 0, 0, 0, msgTo0 10 0 5 false (List.replicate 64 0), [], taken up (msgTo0 10 0 5 false (List.replicate 64 0)), by decide +kernel⟩
  · exact ⟨withMsg (up) (msgTo0 10 0 11 false (List.replicate 64 0)), 0, 0, 0, msgTo0 10 0 11 false (List.replicate 64 0), [], taken up (msgTo0 10 0 11 false (List.replicate 64 0)), by decide +kernel⟩
  · exact ⟨withMsg (up) (msgTo0 10 0 6 false (List.replicate 64 0)), 0, 0, 0, msgTo0 10 0 6 false (List.replicate 64 0), [], taken up (msgTo0 10 0 6 false (List.replicate 64 0)), by decide +kernel⟩
  · exact ⟨withMsg (up) (msgTo0 10 0 7 false (List.replicate 64 0)), 0, 0, 0, msgTo0 10 0 7 false (List.replicate 64 0), [], taken up (msgTo0 10 0 7 false (List.replicate 64 0)), by decide +kernel⟩
  · exact ⟨withMsg (up) (msgTo0 10 0 8 false (List.replicate 64 0)), 0, 0, 0, msgTo0 10 0 8 false (List.replicate 64 0), [], taken up (msgTo0 10 0 8 false (List.replicate 64 0)), by decide +kernel⟩
  · exact ⟨withMsg (up) (msgTo0 10 0 9 false (List.replicate 64 0)), 0, 0, 0, msgTo0 10 0 9 false (List.replicate 64 0), [], taken up (msgTo0 10 0 9 false (List.replicate 64 0)), by decide +kernel⟩
  · exact ⟨withMsg (up) (msgTo0 10 0 10 false (List.replicate 64 0)), 0, 0, 0, msgTo0 10 0 10 false (List.replicate 64 0), [], taken up (msgTo0 10 0 10 false (List.replicate 64 0)), by decide +kernel⟩
  · exact ⟨withMsg (up) (msgTo0 10 0 12 false (List.replicate 64 0)), 0, 0, 0, msgTo0 10 0 12 false (List.replicate 64 0), [], taken up (msgTo0 10 0 12 false (List.replicate 64 0)), by decide +kernel⟩

/-- Each clause of MailboxCommandsComplete with hypotheses has a state and operands that meet them. -/
theorem witness_MailboxCommandsComplete :
    (∃ (s : State), s.mbxReady 1 = true) ∧
    (∃ (s : State) (data : Option (List Byte)), s.mbxReady 2 = true) ∧
    (∃ (s : State) (data : Option (List Byte)), s.mbxReady 3 = true) ∧
    (∃ (s : State), s.mbxReady 5 = true) ∧
    (∃ (s : State) (data : Option (List Byte)), s.mbxReady 6 = true) ∧
    (∃ (s : State) (data : Option (List Byte)), s.mbxReady 7 = true) ∧
    (∃ (s : State), s.mbxReady 8 = true) ∧
    (∃ (s : State), s.mbxReady 9 = true) ∧
    (∃ (s : State), s.mbxReady 10 = true) ∧
    (∃ (s : State) (data : Option (List Byte)), s.mbxReady 11 = true) ∧
    (∃ (s : State), s.mbxReady 12 = true) ∧
    (∃ (s : State), s.destroyOf 128 = none ∧ s.mbxReady 4 = true) ∧
    (∃ (s : State) (x : Nat), s.destroyOf 128 = some x ∧ s.serving = true ∧ s.updActive = false ∧ (s.vctx x).destroy = false) ∧
    (∃ (s : State) (t : Nat), s.fw.remoteAt = some t ∧ s.serving = true ∧ s.updActive = false ∧ t + msTicks 100 ≤ s.elapsed.toNat) := by
  refine ⟨?_, ?_, ?_, ?_, ?_, ?_, ?_, ?_, ?_, ?_, ?_, ?_, ?_, ?_⟩
  · exact ⟨mail 1, by decide +kernel⟩
  · exact ⟨mail 2, none, by decide +kernel⟩
  · exact ⟨mail 3, none, by decide +kernel⟩
  · exact ⟨mail 5, by decide +kernel⟩
  · exact ⟨mail 6, none, by decide +kernel⟩
  · exact ⟨mail 7, none, by decide +kernel⟩
  · exact ⟨mail 8, by decide +kernel⟩
  · exact ⟨mail 9, by decide +kernel⟩
  · exact ⟨mail 10, by decide +kernel⟩
  · exact ⟨mail 11, none, by decide +kernel⟩
  · exact ⟨mail 12, by decide +kernel⟩
  · exact ⟨mail 4, by decide +kernel⟩
  · exact ⟨(mail 4).addDestroy 128 3, 3, by decide +kernel⟩
  · exact ⟨{ mail 1 with fw := { up.fw with remoteAt := some 0 }, elapsed := 0xFFFFFFFF }, 0, by decide +kernel⟩

/-- Each clause of UpdateCommandsComplete with hypotheses has a state and operands that meet them. -/
theorem witness_UpdateCommandsComplete :
    (∃ (s : State) (body : List Byte), s.serving = true ∧ s.fw.upd = .staged ∧ s.noOpenAction = true ∧ 64 + body.length ≤ 1048576 ∧ s.fwWaits = false) ∧
    (∃ (s : State), s.serving = true ∧ s.fw.upd = .stopped ∧ s.fwWaits = false) ∧
    (∃ (s : State) (rq : Requester), s.awake = true ∧ regAllowed rq true (kQcx 4) = true) ∧
    (∃ (s : State) (rq : Requester), s.awake = true ∧ regAllowed rq true (kQcx 4) = true) ∧
    (∃ (s : State), s.awake = true ∧ (s.fw.upd = .stopped ∨ s.fw.upd = .running) ∧ s.reportLate = true) ∧
    (∃ (s : State) (r : Nat) (o : Bool), s.fw.upd = .falling r o ∧ s.awake = true ∧ s.fwWaits = false) := by
  refine ⟨?_, ?_, ?_, ?_, ?_, ?_⟩
  · exact ⟨updating .staged, [], by decide +kernel⟩
  · exact ⟨updating .stopped, by decide +kernel⟩
  · exact ⟨updating .running, rqCore0, by decide +kernel⟩
  · exact ⟨updating .running, rqCore0, by decide +kernel⟩
  · exact ⟨{ updating .running with elapsed := 0xFFFFFFFF }, by decide +kernel⟩
  · exact ⟨updating (.falling 1 true), 1, true, by decide +kernel⟩

/-- Each clause of CoreAndEventCommandsComplete with hypotheses has a state and operands that meet them. -/
theorem witness_CoreAndEventCommandsComplete :
    (∃ (s : State) (rq : Requester) (n : Nat), s.awake = true ∧ n < 12 ∧ regAllowed rq true (kQcx (0x70 + 4 * n)) = true) ∧
    (∃ (s : State) (n : Nat), s.awake = true ∧ n < 12 ∧ s.bit (kWdt n) 20 = true ∧ s.coreUp n = true ∧ SMap.get zeroNat s.fw.kickAt n + msTicks (s.fld (kWdt n) 0 10) ≤ s.elapsed.toNat) ∧
    (∃ (s : State) (n : Nat), s.serving = true ∧ n < 12 ∧ s.coreUp n = true) ∧
    (∃ (s : State) (n : Nat), s.awake = true ∧ s.updActive = false ∧ s.fw.moving.contains n = true) ∧
    (∃ (s : State) (n : Nat), s.awake = true ∧ n < 12 ∧ s.coreState n = 1) ∧
    (∃ (s : State) (v : B32) (cons : Option B32), s.awake = true ∧ s.bit (kQcx 0x308) 0 = true ∧ v.getLsbD 0 = false) ∧
    (∃ (s : State) (v : B32) (cons : Option B32), s.awake = true ∧ s.bit (kQcx 0x308) 0 = false ∧ v.getLsbD 0 = true ∧ s.host.evEnabling = false ∧ (s.setFld (kQcx 0x308) 1 5 (bitsOf v.toNat 1 5)).evtRange = true) ∧
    (∃ (s : State) (v : B32) (cons : Option B32), s.awake = true ∧ s.bit (kQcx 0x308) 0 = false ∧ v.getLsbD 0 = true ∧ s.host.evEnabling = false ∧ (s.setFld (kQcx 0x308) 1 5 (bitsOf v.toNat 1 5)).evtRange = false ∧ (s.setFld (kQcx 0x308) 1 5 (bitsOf v.toNat 1 5)).isHome = true ∧ ((s.setFld (kQcx 0x308) 1 5 (bitsOf v.toNat 1 5)).hostPath = false ∨ cons = none)) ∧
    (∃ (s : State) (v : B32) (cons : Option B32) (p : B32), s.awake = true ∧ s.bit (kQcx 0x308) 0 = false ∧ v.getLsbD 0 = true ∧ s.host.evEnabling = false ∧ (s.setFld (kQcx 0x308) 1 5 (bitsOf v.toNat 1 5)).evtRange = false ∧ (s.setFld (kQcx 0x308) 1 5 (bitsOf v.toNat 1 5)).isHome = true ∧ (s.setFld (kQcx 0x308) 1 5 (bitsOf v.toNat 1 5)).hostPath = true ∧ cons = some p) ∧
    (∃ (s : State) (v : B32) (cons : Option B32), s.awake = true ∧ s.bit (kQcx 0x308) 0 = false ∧ v.getLsbD 0 = true ∧ s.host.evEnabling = false ∧ (s.setFld (kQcx 0x308) 1 5 (bitsOf v.toNat 1 5)).evtRange = false ∧ (s.setFld (kQcx 0x308) 1 5 (bitsOf v.toNat 1 5)).isHome = false) ∧
    (∃ (s : State) (e : Event) (es : List Event), s.awake = true ∧ s.host.evHeld = e :: es ∧ s.isHome = true ∧ s.bit (kQcx 0x308) 0 = true ∧ s.hostAbsent = false ∧ 0 < s.evtFree ∧ s.host.rrings.all (fun r => r.2.waiting.all (fun w => w.kind != 4)) = true) ∧
    (∃ (s : State) (e : Event) (es : List Event), s.awake = true ∧ s.host.evHeld = e :: es ∧ s.isHome = false ∧ s.hostPath = true) ∧
    (∃ (s : State), s.serving = true ∧ s.inService = true ∧ s.updActive = false ∧ s.fw.cleanStop = false ∧ msTicks 28800000 ≤ s.fw.clean ∧ bytesToNat (s.norBytes (s.slotBase s.booted + 0x1000) 4) ≠ 0x474F4C44) := by
  refine ⟨?_, ?_, ?_, ?_, ?_, ?_, ?_, ?_, ?_, ?_, ?_, ?_, ?_⟩
  · exact ⟨up, rqCore0, 0, by decide +kernel⟩
  · exact ⟨up.setReg (kWdt 0) 0x100000, 0, by decide +kernel⟩
  · exact ⟨up, 0, by decide +kernel⟩
  · exact ⟨{ up with fw := { up.fw with moving := [3] } }, 3, by decide +kernel⟩
  · exact ⟨up.setFld (kCore 0) 4 2 1, 0, by decide +kernel⟩
  · exact ⟨up.setReg (kQcx 0x308) 1, 0, none, by decide +kernel⟩
  · exact ⟨up, 1, some 0, by decide +kernel⟩
  · exact ⟨linked, 13, none, by decide +kernel⟩
  · exact ⟨linked, 13, some 7, 7, by decide +kernel⟩
  · exact ⟨awayHome, 13, none, by decide +kernel⟩
  · exact ⟨{ linked.setReg (kQcx 0x308) 13 with host := { linked.host with evHeld := [⟨0x301, 0, 0, 0⟩] } }, ⟨0x301, 0, 0, 0⟩, [], by decide +kernel⟩
  · exact ⟨awayHome, ⟨0x301, 0, 0, 0⟩, [], by decide +kernel⟩
  · exact ⟨{ up.setReg 4 1 with fw := { up.fw with clean := 10000000000000 } }, by decide +kernel⟩

/-- Each clause of CheckUnitCommandsComplete with hypotheses has a state and operands that meet them. -/
theorem witness_CheckUnitCommandsComplete :
    (∃ (s : State) (u : Nat) (v : B32) (sec : Bool), s.crcNext u = some ⟨.feed 1 v, sec⟩) ∧
    (∃ (s : State) (u : Nat) (v : B32) (sec : Bool), s.crcNext u = some ⟨.feed 2 v, sec⟩) ∧
    (∃ (s : State) (u : Nat) (v : B32) (sec : Bool), s.crcNext u = some ⟨.feed 4 v, sec⟩) ∧
    (∃ (s : State) (u : Nat) (sec : Bool), s.crcNext u = some ⟨.init, sec⟩) ∧
    (∃ (s : State) (u : Nat) (sec : Bool), s.crcNext u = some ⟨.check, sec⟩) ∧
    (∃ (s : State) (u addr len : Nat) (nc cmp fin sec : Bool), s.crcNext u = some ⟨.scan addr len nc cmp fin, sec⟩) ∧
    (∃ (s : State) (u addr len : Nat) (nc cmp fin sec : Bool), s.awake = true ∧ u < 4 ∧ (s.crc u).scan = some ⟨.scan addr len nc cmp fin, sec⟩ ∧ s.pageBusy addr len = false) ∧
    (∃ (s : State) (e : Nat) (sec : Bool), s.shaNext e = some ⟨.init, sec⟩) ∧
    (∃ (s : State) (e addr len : Nat) (nc cmp fin sec : Bool), s.shaNext e = some ⟨.scan addr len nc cmp fin, sec⟩) ∧
    (∃ (s : State) (e addr len : Nat) (nc cmp fin sec : Bool), s.awake = true ∧ e < 4 ∧ (s.sha e).scan = some ⟨.scan addr len nc cmp fin, sec⟩ ∧ s.pageBusy addr len = false) ∧
    (∃ (s : State) (u folio entry : Nat) (b : ScrubBlock), s.serving = true ∧ s.fwServes = true ∧ u < 4 ∧ s.folioState folio = 3 ∧ s.crcBusy u = false ∧ s.unitTaken u = false ∧ (s.crc u).scrub = some b ∧ b.folio = folio ∧ b.entry = entry ∧ (s.crc u).again = true) ∧
    (∃ (s : State) (u folio entry : Nat) (v : State) (b : ScrubBlock), s.serving = true ∧ s.fwServes = true ∧ u < 4 ∧ s.folioState folio = 3 ∧ s.crcBusy u = false ∧ s.unitTaken u = false ∧ (s.crc u).scrub = none ∧ s.crctabWaits folio = false ∧ s.scrubBlock folio entry = (v, some b)) ∧
    (∃ (s : State) (rq : Requester) (key : Nat) (v : B32) (w : State), s.awake = true ∧ s.chkCommand rq key v = some w) := by
  refine ⟨?_, ?_, ?_, ?_, ?_, ?_, ?_, ?_, ?_, ?_, ?_, ?_, ?_⟩
  · exact ⟨checking ⟨.feed 1 0x31, true⟩, 0, 0x31, true, by decide +kernel⟩
  · exact ⟨checking ⟨.feed 2 0x31, true⟩, 0, 0x31, true, by decide +kernel⟩
  · exact ⟨checking ⟨.feed 4 0x31, true⟩, 0, 0x31, true, by decide +kernel⟩
  · exact ⟨checking ⟨.init, true⟩, 0, true, by decide +kernel⟩
  · exact ⟨checking ⟨.check, true⟩, 0, true, by decide +kernel⟩
  · exact ⟨checking ⟨.scan 0x1000 64 false false false, true⟩, 0, 0x1000, 64, false, false, false, true, by decide +kernel⟩
  · exact ⟨up.setCrc 0 { up.crc 0 with scan := some ⟨.scan 0x1000 64 false false false, true⟩ }, 0, 0x1000, 64, false, false, false, true, by decide +kernel⟩
  · exact ⟨hashing ⟨.init, true⟩, 0, true, by decide +kernel⟩
  · exact ⟨hashing ⟨.scan 0x1000 64 false false true, true⟩, 0, 0x1000, 64, false, false, true, true, by decide +kernel⟩
  · exact ⟨up.setSha 0 { up.sha 0 with scan := some ⟨.scan 0x1000 64 false false true, true⟩ }, 0, 0x1000, 64, false, false, true, true, by decide +kernel⟩
  · exact ⟨scrubbing.setCrc 0 { scrubbing.crc 0 with scrub := some ⟨0, 0, 0, 0, 0x100400, 100, 7⟩, again := true }, 0, 0, 0, ⟨0, 0, 0, 0, 0x100400, 100, 7⟩, by decide +kernel⟩
  · exact ⟨scrubbing, 0, 0, 0, (scrubbing.scrubBlock 0 0).1, ((scrubbing.scrubBlock 0 0).2.getD ⟨0, 0, 0, 0, 0, 0, 0⟩), by refine ⟨?_, ?_, ?_, ?_, ?_, ?_, ?_, ?_, ?_⟩ <;> first | decide +kernel | rfl⟩
  · exact ⟨up, rqCore0, kCrc 0 0x28, 1, up.crcQueue 0 rqCore0 (up.ctlCmds 0 true 1), by decide +kernel⟩

/-- Each clause of InFieldTestCommandsComplete with hypotheses has a state and operands that meet them. -/
theorem witness_InFieldTestCommandsComplete :
    (∃ (s : State) (c t l d : Nat) (u : State), s.serving = true ∧ c < 8 ∧ s.inService = true ∧ s.bit (kBlt 0x20) 0 = true ∧ s.fwServes = true ∧ 9 ≤ (s.working c).length ∧ (s.cluster c).due = [] ∧ s.nextVictim c = some t ∧ s.logicalOf t = some l ∧ s.earliestFree c = some d ∧ s.moveStart l d = some u) ∧
    (∃ (s : State) (c t : Nat), s.serving = true ∧ c < 8 ∧ s.inService = true ∧ s.bit (kBlt 0x20) 0 = true ∧ s.fwServes = true ∧ 9 ≤ (s.working c).length ∧ (s.cluster c).due = [] ∧ s.nextVictim c = some t ∧ s.logicalOf t = none ∧ (s.cluster c).test = none ∧ (s.cluster c).move.any (fun m => m.2 == t) = false) ∧
    (∃ (s : State) (c t a : Nat) (o : Bool) (start : B64) (r : TestResult), (s.cluster c).test = some (t, o, a, start) ∧ s.awake = true ∧ c < 8 ∧ s.fwServes = true ∧ a + usTicks 2000 ≤ s.elapsed.toNat) ∧
    (∃ (s : State) (c t : Nat) (ts : List Nat), s.serving = true ∧ c < 8 ∧ s.fwServes = true ∧ (s.cluster c).test = none ∧ (s.cluster c).due = t :: ts ∧ ((s.tile t).failed = true ∨ (s.cluster c).retire.any (fun r => r.1 == t) = true)) ∧
    (∃ (s : State) (c t : Nat) (ts : List Nat), s.serving = true ∧ c < 8 ∧ s.fwServes = true ∧ (s.cluster c).test = none ∧ (s.cluster c).due = t :: ts ∧ (s.tile t).failed = false ∧ (s.cluster c).retire.any (fun r => r.1 == t) = false ∧ (s.cluster c).move = none ∧ s.logicalOf t = none) ∧
    (∃ (s : State) (c t : Nat) (ts : List Nat) (l d : Nat) (u : State), s.serving = true ∧ c < 8 ∧ s.fwServes = true ∧ (s.cluster c).test = none ∧ (s.cluster c).due = t :: ts ∧ (s.tile t).failed = false ∧ (s.cluster c).retire.any (fun r => r.1 == t) = false ∧ (s.cluster c).move = none ∧ s.logicalOf t = some l ∧ s.earliestFree c = some d ∧ s.moveStart l d = some u) ∧
    (∃ (s : State) (c t : Nat) (ts : List Nat) (l : Nat), s.serving = true ∧ c < 8 ∧ s.fwServes = true ∧ (s.cluster c).test = none ∧ (s.cluster c).due = t :: ts ∧ (s.tile t).failed = false ∧ (s.cluster c).retire.any (fun r => r.1 == t) = false ∧ (s.cluster c).move = none ∧ s.logicalOf t = some l ∧ s.earliestFree c = none ∧ (s.tile t).residents = [] ∧ (s.tile t).xfers = []) ∧
    (∃ (s : State) (c t : Nat) (ts : List Nat) (l : Nat), s.serving = true ∧ c < 8 ∧ s.fwServes = true ∧ (s.cluster c).test = none ∧ (s.cluster c).due = t :: ts ∧ (s.tile t).failed = false ∧ (s.cluster c).retire.any (fun r => r.1 == t) = false ∧ (s.cluster c).move = none ∧ s.logicalOf t = some l ∧ s.earliestFree c = none ∧ ((s.tile t).residents ≠ [] ∨ (s.tile t).xfers ≠ []) ∧ (s.tile t).swap = false) := by
  refine ⟨?_, ?_, ?_, ?_, ?_, ?_, ?_, ?_⟩
  · exact ⟨testing, 0, 0, 0, 8, (testing.moveStart 0 8).getD up, by refine ⟨?_, ?_, ?_, ?_, ?_, ?_, ?_, ?_, ?_, ?_, ?_⟩ <;> first | decide +kernel | rfl⟩
  · exact ⟨testing.setCluster 0 { testing.cluster 0 with next := 8 }, 0, 8, by decide +kernel⟩
  · exact ⟨{ testing.setCluster 0 { testing.cluster 0 with test := some (8, false, 0, 0) } with elapsed := 0xFFFFFFFF }, 0, 8, 0, false, 0, .pass, by decide +kernel⟩
  · exact ⟨(testing.setCluster 0 { testing.cluster 0 with due := [9] }).setTile 9 { Tile.fresh 0 with failed := true }, 0, 9, [], by decide +kernel⟩
  · exact ⟨testing.setCluster 0 { testing.cluster 0 with due := [9] }, 0, 9, [], by decide +kernel⟩
  · exact ⟨testing.setCluster 0 { testing.cluster 0 with due := [0] }, 0, 0, [], 0, 8, ((testing.setCluster 0 { testing.cluster 0 with due := [0] }).moveStart 0 8).getD up, by refine ⟨?_, ?_, ?_, ?_, ?_, ?_, ?_, ?_, ?_, ?_, ?_⟩ <;> first | decide +kernel | rfl⟩
  · exact ⟨((testing.setCluster 0 { testing.cluster 0 with due := [0] }).setTile 8 { Tile.fresh 0 with failed := true }).setTile 9 { Tile.fresh 0 with failed := true }, 0, 0, [], 0, by decide +kernel⟩
  · exact ⟨(((testing.setCluster 0 { testing.cluster 0 with due := [0] }).setTile 8 { Tile.fresh 0 with failed := true }).setTile 9 { Tile.fresh 0 with failed := true }).setTile 0 tileW, 0, 0, [], 0, by decide +kernel⟩

/-- Each clause of SafetyChannelCommandsComplete with hypotheses has a state and operands that meet them. -/
theorem witness_SafetyChannelCommandsComplete :
    (∃ (s : State), s.awake = true ∧ s.pins.fault = true ∧ s.safety.reports = [] ∧ s.safety.faultAt + msTicks 1 ≤ s.elapsed.toNat) ∧
    (∃ (s : State) (r : BitVec 256), s.channelOn = true ∧ rOk r = true ∧ (rCmd r = 0 ∨ 3 < rCmd r)) ∧
    (∃ (s : State) (r : BitVec 256), s.channelOn = true ∧ rOk r = true ∧ rCmd r = 1) ∧
    (∃ (s : State) (r : BitVec 256), s.channelOn = true ∧ rOk r = true ∧ rCmd r = 2) ∧
    (∃ (s : State) (r : BitVec 256), s.channelOn = true ∧ rOk r = true ∧ rCmd r = 3) ∧
    (∃ (s : State) (frame : List Byte), s.channelOn = true ∧ (frame.length ≠ 32 ∨ rOk (BitVec.ofNat 256 (bytesToNat frame)) = false)) ∧
    (∃ (s : State) (rq : Requester) (seq : B32), s.awake = true ∧ regAllowed rq true (kBlt 0x10) = true) ∧
    (∃ (s : State) (rq : Requester), s.awake = true ∧ regAllowed rq true (kBlt 0x14) = true) ∧
    (∃ (s : State), s.toggling = true ∧ s.elapsed.toNat % usTicks 500 = 0 ∧ s.elapsed.toNat ≠ s.safety.edgeAt) := by
  refine ⟨?_, ?_, ?_, ?_, ?_, ?_, ?_, ?_, ?_⟩
  · exact ⟨{ up with pins := { up.pins with fault := true }, elapsed := 0xFFFFFFFF }, by decide +kernel⟩
  · exact ⟨up, reqOf 0, by decide +kernel⟩
  · exact ⟨up, reqOf 1, by decide +kernel⟩
  · exact ⟨up, reqOf 2, by decide +kernel⟩
  · exact ⟨up, reqOf 3, by decide +kernel⟩
  · exact ⟨up, [1], by decide +kernel⟩
  · exact ⟨up, rqCore0, 1, by decide +kernel⟩
  · exact ⟨up, rqCore0, by decide +kernel⟩
  · exact ⟨{ up.setReg 4 1 with elapsed := 78125, safety := { up.safety with aliveAt := some 78125 } }, by decide +kernel⟩

end Sys2Proof.Tests
end

section
/-!
PROOFS. FP32 arithmetic (chapter 02): a NaN operand decides the result of every two-operand operation, and opposite finite
values cancel.
-/
namespace Sys2Proof.Machine

/-! ## A NaN operand (R47, R174) -/

/-- Every NaN, of either sign and with any payload, decodes to the one NaN value. -/
theorem fp32Decode_of_isNan {x : B32} (h : fpIsNan x = true) : fp32Decode x = .nan := by
  unfold fpIsNan at h
  cases hx : fp32Decode x with
  | nan => rfl
  | inf n => rw [hx] at h; cases h
  | fin n m e => rw [hx] at h; cases h

theorem FVal.nan_add (v : FVal) : FVal.nan.add v = .nan := rfl

theorem FVal.add_nan (v : FVal) : v.add .nan = .nan := by rw [fv_add_comm, FVal.nan_add]

theorem FVal.nan_mul (v : FVal) : FVal.nan.mul v = .nan := rfl

theorem FVal.mul_nan (v : FVal) : v.mul .nan = .nan := by rw [fv_mul_comm, FVal.nan_mul]

theorem fp32Round_nan : fp32Round .nan = fpNan := rfl

theorem fpAdd_of_isNan {x y : B32} (h : fpIsNan x = true ∨ fpIsNan y = true) : fpAdd x y = fpNan := by
  unfold fpAdd
  rcases h with h | h
  · rw [fp32Decode_of_isNan h, FVal.nan_add, fp32Round_nan]
  · rw [fp32Decode_of_isNan h, FVal.add_nan, fp32Round_nan]

theorem fpSub_of_isNan {x y : B32} (h : fpIsNan x = true ∨ fpIsNan y = true) : fpSub x y = fpNan := by
  unfold fpSub
  rcases h with h | h
  · rw [fp32Decode_of_isNan h, FVal.nan_add, fp32Round_nan]
  · rw [fp32Decode_of_isNan h, FVal.neg, FVal.add_nan, fp32Round_nan]

theorem fpMul_of_isNan {x y : B32} (h : fpIsNan x = true ∨ fpIsNan y = true) : fpMul x y = fpNan := by
  unfold fpMul
  rcases h with h | h
  · rw [fp32Decode_of_isNan h, FVal.nan_mul, fp32Round_nan]
  · rw [fp32Decode_of_isNan h, FVal.mul_nan, fp32Round_nan]

theorem fpDiv_of_isNan {x y : B32} (h : fpIsNan x = true ∨ fpIsNan y = true) : fpDiv x y = fpNan := by
  unfold fpDiv
  rcases h with h | h
  · rw [fp32Decode_of_isNan h]
  · rw [fp32Decode_of_isNan h]
    cases fp32Decode x <;> rfl

theorem fpMin_of_isNan {x y : B32} (h : fpIsNan x = true ∨ fpIsNan y = true) : fpMin x y = fpNan :=
  if_pos (Bool.or_eq_true_iff.mpr h)

theorem fpMax_of_isNan {x y : B32} (h : fpIsNan x = true ∨ fpIsNan y = true) : fpMax x y = fpNan :=
  if_pos (Bool.or_eq_true_iff.mpr h)

/-! ## Commutation and cancellation (R48) -/

theorem fpAdd_comm (x y : B32) : fpAdd x y = fpAdd y x := congrArg fp32Round (fv_add_comm _ _)

theorem fpMul_comm (x y : B32) : fpMul x y = fpMul y x := congrArg fp32Round (fv_mul_comm _ _)

theorem exists_fin_of_isFin {x : B32} (h : fpIsFin x = true) : ∃ n m e, fp32Decode x = .fin n m e := by
  unfold fpIsFin at h
  cases hx : fp32Decode x with
  | nan => rw [hx] at h; cases h
  | inf n => rw [hx] at h; cases h
  | fin n m e => exact ⟨n, m, e, rfl⟩

theorem fpSub_self {x : B32} (h : fpIsFin x = true) : fpSub x x = 0 := by
  obtain ⟨n, m, e, hx⟩ := exists_fin_of_isFin h
  unfold fpSub
  rw [hx]
  exact cancel n m e

/-- Where the second operand is no NaN, a difference is the sum with its negation. -/
theorem fpAdd_fpNeg {x y : B32} (h : fpIsNan y = false) : fpAdd x (fpNeg y) = fpSub x y := by
  unfold fpAdd fpSub
  rw [neg_decode y h]

theorem fpIsNan_of_isFin {x : B32} (h : fpIsFin x = true) : fpIsNan x = false := by
  obtain ⟨n, m, e, hx⟩ := exists_fin_of_isFin h
  unfold fpIsNan
  rw [hx]
  rfl

theorem fpAdd_fpNeg_self {x : B32} (h : fpIsFin x = true) : fpAdd x (fpNeg x) = 0 := by
  rw [fpAdd_fpNeg (fpIsNan_of_isFin h), fpSub_self h]

/-- Settles O20: the two-operand operations see a NaN only through its decoded value; exact sums and products commute before
the one rounding; the negated bits decode to the opposite value, whose sum with the value is +0. -/
theorem floatNanCommuteCancel : Obligations.FloatNanCommuteCancel := by
  unfold Obligations.FloatNanCommuteCancel
  refine ⟨fun x y h => ?_, fun x y => ?_, fun x h => ?_⟩
  · exact ⟨fpAdd_of_isNan h, fpSub_of_isNan h, fpMul_of_isNan h, fpDiv_of_isNan h, fpMin_of_isNan h, fpMax_of_isNan h⟩
  · exact ⟨fpAdd_comm x y, fpMul_comm x y⟩
  · exact ⟨fpSub_self h, fpAdd_fpNeg_self h⟩

end Sys2Proof.Machine
end

section
/-!
PROOFS. The commands of the matrix array: what a guarded register write, a step's start on a tile and the reading of its
descriptor answer, and from these each command's next state.
-/
namespace Sys2Proof.Machine

/-! ## The shared operations -/

theorem guardReg_allowed {rq : Requester} {k : Nat} (h : regAllowed rq true k = true) (s : State) (f : State → State) :
    s.guardReg rq k f = f s := if_pos h

/-- A command on a register that the requester may write has the write's effect, where the command's own condition holds. -/
theorem attempt_guardReg {P : Prop} [Decidable P] (hP : P) {rq : Requester} {k : Nat} (h : regAllowed rq true k = true)
    (s : State) (f : State → State) : attempt (if P then some (s.guardReg rq k f) else none) s = .next (f s) := by
  rw [if_pos hP, guardReg_allowed h]
  rfl

theorem readDesc_good (s : State) (st : StepRef) (go : Option State) : s.readDesc ⟨st, false⟩ go = go :=
  if_neg (fun h => Bool.false_ne_true h.1)

theorem readDesc_skipped {s : State} {st : StepRef} (b : Bool) (h : s.skips st = true) (go : Option State) :
    s.readDesc ⟨st, b⟩ go = go := by
  unfold State.readDesc
  rw [h]
  exact if_neg (fun hb => Bool.false_ne_true hb.2)

/-! ## The register commands (R72, R76, R89, R122) -/

theorem exec_satEnable {s : State} {rq : Requester} {t n : Nat} (ha : s.awake = true) (ht : t < 80) (hn : n < 6)
    (hb : s.bit (kTil t 0x400) n = false) (hq : regAllowed rq true (kTil t 0x400) = true) :
    exec (.satEnable rq t n) s = .next ((s.setBit (kTil t 0x400) n true).satWindow t n s.quarters) :=
  attempt_guardReg ⟨ha, ht, hn, by rw [hb]; rfl⟩ hq s _

theorem exec_satClear {s : State} {rq : Requester} {t : Nat} (ha : s.awake = true) (ht : t < 80)
    (hq : regAllowed rq true (kTil t 0x400) = true) : exec (.satClear rq t) s = .next (s.satClear t) :=
  attempt_guardReg ⟨ha, ht⟩ hq s _

theorem exec_satWindowEnd {s : State} {t n e : Nat} (ha : s.awake = true) (ht : t < 80) (hn : n < 6)
    (he : s.satEnd t n = some e) (hd : s.satDue t n = true) : exec (.satWindowEnd t n) s = .next (s.satWindow t n e) := by
  refine attempt_some ?_
  rw [if_pos ⟨ha, ht, hn⟩, he]
  exact if_pos hd

/-- The skip write's answer for a mapped and an unmapped tile alike; `setSkip` tells them apart. -/
theorem exec_arrSkipWrite {s : State} {rq : Requester} {t : Nat} {col : Bool} (v : B32) (ha : s.awake = true) (ht : t < 80)
    (hq : regAllowed rq true (kTil t (if col then 0x10C else 0x108)) = true) :
    exec (.arrSkipWrite rq t col v) s = .next (s.setSkip t col v) :=
  attempt_guardReg ⟨ha, ht⟩ hq s _

theorem setSkip_unmapped {s : State} {t : Nat} (h : (s.logicalOf t).isSome = false) (col : Bool) (v : B32) :
    s.setSkip t col v = s.setReg (kTil t (if col then 0x10C else 0x108)) v :=
  if_neg (by rw [h]; exact Bool.false_ne_true)

theorem setSkip_mapped {s : State} {t : Nat} (h : (s.logicalOf t).isSome = true) (col : Bool) (v : B32) :
    s.setSkip t col v = s := if_pos h

theorem exec_arrCntClear {s : State} {rq : Requester} {t : Nat} (ha : s.awake = true) (ht : t < 80)
    (hq : regAllowed rq true (kTil t 0x104) = true) : exec (.arrCntClear rq t) s = .next (s.clearRegs (kTil t 0x120) 7) :=
  attempt_guardReg ⟨ha, ht⟩ hq s _

/-! ## The start of a compute step (R94, R190, R233) -/

/-- The kind that a step's header holds for a run of the array or of VCONV. -/
def RunKind.headerKind : RunKind → Nat
  | .matrix => kMatrix
  | .vconv => kVconv

section
variable {s : State} {st : StepRef} {t : Nat} {p : Pipe} {sg : Stage} {sp : Step}

/-- A step of a cold-start section that the epoch skips begins and ends at once, whatever the array does. -/
theorem computeStart_skipped (kind : RunKind) (h : s.tileStep st kind.headerKind = some (t, p, sg, sp))
    (hk : s.skips st = true) : s.computeStart st kind = some ((s.beginStep st).finishStep st) := by
  unfold State.computeStart
  cases kind with
  | matrix => simp only [show s.tileStep st kMatrix = _ from h, hk, if_true]
  | vconv => simp only [show s.tileStep st kVconv = _ from h, hk, if_true]

theorem computeStart_matrix (h : s.tileStep st kMatrix = some (t, p, sg, sp)) (hf : (s.tile t).arrayBusy .matrix = false)
    (hw : s.windowFilling t sg = false) (hk : s.skips st = false) (hc : checkMatrix sp.desc sg.inkRow sg.inkRows = none) :
    s.computeStart st .matrix = some (((s.beginStep st).markCold st).startRun t
      ⟨st, .matrix, sp.desc, sp.bind, (geoOf sp.desc).nb, (geoOf sp.desc).m, [], [], [], [], 0, []⟩) := by
  unfold State.computeStart
  simp only [h, hk, hf, hw, hc, Bool.or_self, Bool.false_eq_true, if_false]

theorem computeStart_vconv (h : s.tileStep st kVconv = some (t, p, sg, sp)) (hf : (s.tile t).arrayBusy .vconv = false)
    (hw : s.windowFilling t sg = false) (hk : s.skips st = false) (hc : checkVconv sp.desc sg.inkRow sg.inkRows = none) :
    s.computeStart st .vconv = some (((s.beginStep st).markCold st).startRun t
      ⟨st, .vconv, sp.desc, sp.bind, (vgeoOf sp.desc).nb, (vgeoOf sp.desc).m, [], [], [], [], 0, []⟩) := by
  unfold State.computeStart
  simp only [h, hk, hf, hw, hc, Bool.or_self, Bool.false_eq_true, if_false]

end

/-- A start whose descriptor is read with good parity, or that reads none, answers what the step's start gives. -/
theorem exec_matrixStepStart {s u : State} {st : StepRef} {b : Bool}
    (hr : s.readDesc ⟨st, b⟩ (s.computeStart st .matrix) = s.computeStart st .matrix)
    (h : s.computeStart st .matrix = some u) : exec (.matrixStepStart ⟨st, b⟩) s = .next u :=
  attempt_some (hr.trans h)

theorem exec_vconvStepStart {s u : State} {st : StepRef} {b : Bool}
    (hr : s.readDesc ⟨st, b⟩ (s.computeStart st .vconv) = s.computeStart st .vconv)
    (h : s.computeStart st .vconv = some u) : exec (.vconvStepStart ⟨st, b⟩) s = .next u :=
  attempt_some (hr.trans h)

/-- Settles O25, clause by clause from the answer of each command. -/
theorem arrayCommandsComplete : Obligations.ArrayCommandsComplete := by
  unfold Obligations.ArrayCommandsComplete
  refine ⟨?satEnable, ?satClear, ?satWindowEnd, ?skipUnmapped, ?skipMapped, ?cntClear, ?matrix, ?vconv,
    ?matrixSkipped, ?vconvSkipped⟩
  case satEnable => exact fun s rq t n ha ht hn hb hq => exec_satEnable ha ht hn hb hq
  case satClear => exact fun s rq t ha ht hq => exec_satClear ha ht hq
  case satWindowEnd => exact fun s t n e ha ht hn he hd => exec_satWindowEnd ha ht hn he hd
  case skipUnmapped =>
    intro s rq t col v ha ht hl hq
    rw [exec_arrSkipWrite v ha ht hq, setSkip_unmapped hl]
  case skipMapped =>
    intro s rq t col v ha ht hl hq
    rw [exec_arrSkipWrite v ha ht hq, setSkip_mapped hl]
  case cntClear => exact fun s rq t ha ht hq => exec_arrCntClear ha ht hq
  case matrix =>
    exact fun s st t p sg sp h hf hw hk hc =>
      exec_matrixStepStart (readDesc_good ..) (computeStart_matrix h hf hw hk hc)
  case vconv =>
    exact fun s st t p sg sp h hf hw hk hc =>
      exec_vconvStepStart (readDesc_good ..) (computeStart_vconv h hf hw hk hc)
  case matrixSkipped =>
    exact fun s st b t p sg sp h hk => exec_matrixStepStart (readDesc_skipped b hk _) (computeStart_skipped .matrix h hk)
  case vconvSkipped =>
    exact fun s st b t p sg sp h hk => exec_vconvStepStart (readDesc_skipped b hk _) (computeStart_skipped .vconv h hk)

end Sys2Proof.Machine
end

section
/-!
PROOFS. The write rule of the skip registers (R89): the search for a logical tile behind a physical tile finds one exactly
where TILE_MAP maps one of the 64 to it, and that decides between the two answers of the skip write.
-/
namespace Sys2Proof.Machine

/-! ## The search for a logical tile -/

theorem logicalOf_isSome_iff {s : State} {t : Nat} : (s.logicalOf t).isSome = true ↔ ∃ l < 64, s.physOf l = some t := by
  simp only [State.logicalOf, upTo, List.find?_isSome, List.mem_range, beq_iff_eq]

theorem logicalOf_isSome_eq_false_iff {s : State} {t : Nat} :
    (s.logicalOf t).isSome = false ↔ ∀ l < 64, s.physOf l ≠ some t := by
  simp only [← Bool.not_eq_true, logicalOf_isSome_iff, not_exists, not_and, ne_eq]

/-! ## The write rule -/

/-- Settles O8: the skip write asks whether the search finds a logical tile, and the search finds one exactly where some
logical tile maps to the physical tile. -/
theorem skipRegisterWriteRule : Obligations.SkipRegisterWriteRule := by
  unfold Obligations.SkipRegisterWriteRule
  intro s rq t col v ha ht hq
  rw [exec_arrSkipWrite v ha ht hq]
  constructor
  · intro hfree
    rw [setSkip_unmapped (logicalOf_isSome_eq_false_iff.mpr hfree)]
  · intro l hl hmap
    rw [setSkip_mapped (logicalOf_isSome_iff.mpr ⟨l, hl, hmap⟩)]

end Sys2Proof.Machine
end

section
/-!
PROOFS. The commands of the Inkwell: what one scrub of a bank answers, and the remap register, slice power, the counters and
the move of a logical tile.
-/
namespace Sys2Proof.Machine

/-! ## The scrub of a bank (R134, R135) -/

section
variable {s : State} {t bank : Nat}

/-- A row queued for the bank is scrubbed ahead of the walk; in a slice that is powered down it only leaves the queue. -/
theorem scrub_queued {r : Nat} (ha : s.awake = true) (ht : t < 80) (hb : bank < 16) (hf : (s.tile t).failed = false)
    (he : s.bit (kTil t 0x20C) 0 = true) (hq : (s.tile t).scrubQ.find? (fun r => bankOf r == bank) = some r) :
    s.scrub t bank = some (
      let s1 := s.setTile t { s.tile t with scrubQ := (s.tile t).scrubQ.filter (· != r) }
      if s.sliceOn t (sliceOf r) then (s1.bankWait t bank).scrubRow t r else s1) := by
  unfold State.scrub
  rw [if_pos ⟨ha, ht, hb, by rw [hf]; rfl, he⟩]
  simp only [hq]

/-- With no row queued, the walk scrubs the next row of a powered slice and moves past it. -/
theorem scrub_walk {l : Nat} (ha : s.awake = true) (ht : t < 80) (hb : bank < 16) (hf : (s.tile t).failed = false)
    (he : s.bit (kTil t 0x20C) 0 = true) (hq : (s.tile t).scrubQ.find? (fun r => bankOf r == bank) = none)
    (hw : s.walkFrom t (SMap.get zeroNat (s.tile t).walk bank) = some l) :
    s.scrub t bank = some (((s.bankWait t bank).scrubRow t (rowOf bank l)).walkPast t bank l) := by
  unfold State.scrub
  rw [if_pos ⟨ha, ht, hb, by rw [hf]; rfl, he⟩]
  simp only [hq, hw]

/-- A walk with no powered row left wraps first, and goes on from the bank's first powered row. -/
theorem scrub_wrap {l : Nat} (ha : s.awake = true) (ht : t < 80) (hb : bank < 16) (hf : (s.tile t).failed = false)
    (he : s.bit (kTil t 0x20C) 0 = true) (hq : (s.tile t).scrubQ.find? (fun r => bankOf r == bank) = none)
    (hw : s.walkFrom t (SMap.get zeroNat (s.tile t).walk bank) = none) (h0 : s.walkFrom t 0 = some l) :
    s.scrub t bank = some ((((s.wrapBank t bank).bankWait t bank).scrubRow t (rowOf bank l)).walkPast t bank l) := by
  unfold State.scrub
  rw [if_pos ⟨ha, ht, hb, by rw [hf]; rfl, he⟩]
  simp only [hq, hw, h0]

theorem exec_inkScrub {u : State} (h : s.scrub t bank = some u) : exec (.inkScrub t bank) s = .next u := attempt_some h

theorem exec_inkScrubForced {u : State} (h : s.scrub t bank = some u) : exec (.inkScrubForced t bank) s = .next u :=
  attempt_some h

end

/-! ## The remap register, slice power and the counters (R137, R140, R141) -/

section
variable {s : State} {t : Nat}

theorem exec_inkRemapWrite {rq : Requester} (v : B32) (ha : s.awake = true) (ht : t < 80)
    (hq : regAllowed rq true (kTil t 0x228) = true) : exec (.inkRemapWrite rq t v) s = .next (s.remapWrite t v) :=
  attempt_guardReg ⟨ha, ht⟩ hq s _

theorem exec_inkSlicePowerUp {rq : Requester} {sl : Nat} (ha : s.awake = true) (ht : t < 80) (hs : sl < 8)
    (hb : s.bit (kTil t 0x208) sl = false) (hq : regAllowed rq true (kTil t 0x208) = true) :
    exec (.inkSlicePowerUp rq t sl) s = .next (s.sliceUp t sl) :=
  attempt_guardReg ⟨ha, ht, hs, by rw [hb]; rfl⟩ hq s _

theorem exec_inkSliceFillDone {sl : Nat} (ha : s.awake = true) (ht : t < 80) (hs : sl < 8)
    (hf : (s.tile t).filling.getLsbD sl = true) :
    exec (.inkSliceFillDone t sl) s = .next (((s.setTile t { s.tile t with
      filling := (s.tile t).filling &&& ~~~(BitVec.ofNat 8 (2 ^ sl)) }).setBit (kTil t 0x208) (8 + sl) true).bankWaits t) :=
  attempt_some (if_pos ⟨ha, ht, hs, hf⟩)

theorem exec_inkSlicePowerOff {rq : Requester} {sl : Nat} (ha : s.awake = true) (ht : t < 80) (hs : sl < 8)
    (hb : s.bit (kTil t 0x208) sl = true) (hq : regAllowed rq true (kTil t 0x208) = true) :
    exec (.inkSlicePowerOff rq t sl) s = .next (s.setBit (kTil t 0x208) sl false) :=
  attempt_guardReg ⟨ha, ht, hs, hb⟩ hq s _

theorem exec_inkSlicePowerDown {sl : Nat} (ha : s.awake = true) (ht : t < 80) (hs : sl < 8)
    (hb : s.bit (kTil t 0x208) sl = false) (ho : s.sliceOn t sl = true) (hu : s.sliceInUse t sl = false) :
    exec (.inkSlicePowerDown t sl) s = .next ((s.setBit (kTil t 0x208) (8 + sl) false).clearSlice t sl) :=
  attempt_some (if_pos ⟨ha, ht, hs, by rw [hb]; rfl, ho, by rw [hu]; rfl⟩)

theorem exec_inkCntClear {rq : Requester} (ha : s.awake = true) (ht : t < 80)
    (hq : regAllowed rq true (kTil t 0x218) = true) :
    exec (.inkCntClear rq t) s = .next ((upTo 16).foldl (fun (u : State) b => u.setReg (kTil t (0x240 + 4 * b)) 0)
      (s.setReg (kTil t 0x214) 0)) :=
  attempt_guardReg ⟨ha, ht⟩ hq s _

end

/-! ## The move of a logical tile (R145) -/

section
variable {s : State} {l dst src : Nat}

/-- A move whose old tile holds no epoch and no transfer starts its copy at once. -/
theorem moveStart_idle (hp : s.physOf l = some src) (hs : s.serving = true) (hfw : s.fwServes = true)
    (hc : dst / 10 = src / 10) (hd : dst ≠ src) (hm : (s.cluster (src / 10)).move.isNone = true)
    (hfree : s.freeTile dst = true) (hr : (s.tile src).residents.isEmpty = true) (hx : (s.tile src).xfers.isEmpty = true)
    (hw : s.hostsWait (s.hosts src) = false) :
    s.moveStart l dst = some (
      let u := (s.setTile src { s.tile src with swap := true }).copyTile src dst
      u.setCluster (src / 10) { u.cluster (src / 10) with move := some (l, dst) }) := by
  unfold State.moveStart
  simp only [hp]
  rw [if_pos ⟨hs, hfw, hc, hd, hm, hfree⟩, if_pos ⟨hr, hx⟩, if_neg (by rw [hw]; exact Bool.false_ne_true)]

theorem exec_tileMove {u : State} (hl : l < 64) (hd : dst < 80) (h : s.moveStart l dst = some u) :
    exec (.tileMove l dst) s = .next u := attempt_some ((if_pos ⟨hl, hd⟩).trans h)

theorem exec_tileMoveDone (hp : s.physOf l = some src) (hm : (s.cluster (src / 10)).move = some (l, dst))
    (ha : s.awake = true) : exec (.tileMoveDone l) s = .next (s.moveDone l src dst) := by
  refine attempt_some ?_
  rw [hp]
  simp only [hm]
  exact if_pos ⟨ha, trivial⟩

end

/-- Settles O27, clause by clause from the answer of each command; the two scrub commands share the scrub of a bank. -/
theorem inkwellCommandsComplete : Obligations.InkwellCommandsComplete := by
  unfold Obligations.InkwellCommandsComplete
  refine ⟨?queued, ?walk, ?wrap, ?forcedQueued, ?forcedWalk, ?forcedWrap, ?remap, ?powerUp, ?fillDone, ?powerOff,
    ?powerDown, ?cntClear, ?move, ?moveDone⟩
  case queued => exact fun s t bank r ha ht hb hf he hq => exec_inkScrub (scrub_queued ha ht hb hf he hq)
  case walk => exact fun s t bank l ha ht hb hf he hq hw => exec_inkScrub (scrub_walk ha ht hb hf he hq hw)
  case wrap => exact fun s t bank l ha ht hb hf he hq hw h0 => exec_inkScrub (scrub_wrap ha ht hb hf he hq hw h0)
  case forcedQueued => exact fun s t bank r ha ht hb hf he hq => exec_inkScrubForced (scrub_queued ha ht hb hf he hq)
  case forcedWalk => exact fun s t bank l ha ht hb hf he hq hw => exec_inkScrubForced (scrub_walk ha ht hb hf he hq hw)
  case forcedWrap =>
    exact fun s t bank l ha ht hb hf he hq hw h0 => exec_inkScrubForced (scrub_wrap ha ht hb hf he hq hw h0)
  case remap => exact fun s rq t v ha ht hq => exec_inkRemapWrite v ha ht hq
  case powerUp => exact fun s rq t sl ha ht hs hb hq => exec_inkSlicePowerUp ha ht hs hb hq
  case fillDone => exact fun s t sl ha ht hs hf => exec_inkSliceFillDone ha ht hs hf
  case powerOff => exact fun s rq t sl ha ht hs hb hq => exec_inkSlicePowerOff ha ht hs hb hq
  case powerDown => exact fun s t sl ha ht hs hb ho hu => exec_inkSlicePowerDown ha ht hs hb ho hu
  case cntClear => exact fun s rq t ha ht hq => exec_inkCntClear ha ht hq
  case move =>
    exact fun s l dst src hl hd hp hs hfw hc hne hm hfree hr hx hw =>
      exec_tileMove hl hd (moveStart_idle hp hs hfw hc hne hm hfree hr hx hw)
  case moveDone => exact fun s l src dst hp hm ha => exec_tileMoveDone hp hm ha

end Sys2Proof.Machine
end

section
/-!
PROOFS. The commands of tile DMA: the start of a descriptor, the issue of one row for each operation, the two ends of a
transfer whose target has answered, the write that waited and the limit of a queue.
-/
namespace Sys2Proof.Machine

/-! ## The start of a descriptor (R147) -/

section
variable {s : State} {st : StepRef} {t : Nat} {p : Pipe} {sg : Stage} {sp : Step}

/-- A step of a cold-start section that the epoch skips begins and ends at once; nothing joins a queue. -/
theorem dmaStart_skipped (h : s.tileStep st kDma = some (t, p, sg, sp)) (hk : s.skips st = true) :
    s.dmaStart st = some ((s.beginStep st).finishStep st) := by
  unfold State.dmaStart
  simp only [h, hk, if_true]

/-- A relocated descriptor that passes its checks joins the end of its queue with no row issued. -/
theorem dmaStart_checked (h : s.tileStep st kDma = some (t, p, sg, sp)) (hk : s.skips st = false)
    (hc : ((s.beginStep st).markCold st).checkDma p st sg sp (((s.beginStep st).markCold st).dmaReloc p st sp) = none) :
    s.dmaStart st = some (
      let u := (s.beginStep st).markCold st
      let d := u.dmaReloc p st sp
      u.setTile t { u.tile t with
        descs := (u.tile t).descs ++ [(⟨st, hQueue sp.hdr, d, folds p sp (dOp d), 0, 0, []⟩ : DmaDesc)] }) := by
  unfold State.dmaStart
  simp only [h, hk, hc, Bool.false_eq_true, if_false]

/-- A start whose descriptor is read with good parity, or that reads none, answers what the step's start gives. -/
theorem exec_dmaDescriptorStart {u : State} {b : Bool} (hr : s.readDesc ⟨st, b⟩ (s.dmaStart st) = s.dmaStart st)
    (h : s.dmaStart st = some u) : exec (.dmaDescriptorStart ⟨st, b⟩) s = .next u :=
  attempt_some (hr.trans h)

end

/-! ## The issue of a row (R148, R149, R151, R153) -/

/-- The access of the Inkwell that the issue of a descriptor's next row makes: a READ makes none, and an outgoing row is
read behind the waits of its bank. -/
def State.issueRead (s : State) (t : Nat) (d : DmaDesc) : State × Nat × Row :=
  if dOp d.bits = dmaRead then (s, 0, 0)
  else (s.bankWait t (bankOf (dInk d.bits + d.issued))).inkRead t (dInk d.bits + d.issued) rqDmaOut
    (some (d.step.epoch, d.step.pipe))

/-- The address of a descriptor's next row: a row of the target Inkwell for a PUSH, a byte address otherwise. -/
def DmaDesc.nextAddr (d : DmaDesc) : Nat :=
  if dOp d.bits = dmaPush then dDstRow d.bits + d.issued else dAddr d.bits + d.issued * dStride d.bits

/-- The transfer of a descriptor's next row `v`. -/
def State.issueXfer (s : State) (t q : Nat) (d : DmaDesc) (v : Row) : Xfer :=
  ⟨s.nextXfer, d.step, q, dOp d.bits, d.issued, dInk d.bits + d.issued, d.nextAddr, s.fld (kQcfg t q) 0 6 + 1, v, none,
    if dOp d.bits = dmaPush ∧ dDstDev d.bits = s.boot.dev then some (dDstTile d.bits) else none, false, false,
    decide ((if dOp d.bits = dmaPush then dDstDev d.bits else s.addrDev d.bits d.nextAddr) ≠ s.boot.dev)⟩

/-- The descriptor after the issue of its next row `v`: a folded one keeps the part of an outgoing row. -/
def DmaDesc.issueNext (d : DmaDesc) (v : Row) : DmaDesc :=
  { d with
    issued := d.issued + 1
    crcs := if d.fold ∧ dOp d.bits ≠ dmaRead then SMap.set (fun _ => 0) d.crcs d.issued (rowCrc v) else d.crcs }

section
variable {s : State} {t q : Nat} {d : DmaDesc} {r : State × Nat × Row}

theorem issueRead_read (ho : dOp d.bits = dmaRead) : s.issueRead t d = (s, 0, 0) := if_pos ho

theorem issueRead_out (ho : dOp d.bits ≠ dmaRead) : s.issueRead t d =
    (s.bankWait t (bankOf (dInk d.bits + d.issued))).inkRead t (dInk d.bits + d.issued) rqDmaOut
      (some (d.step.epoch, d.step.pipe)) := if_neg ho

theorem nextAddr_push (ho : dOp d.bits = dmaPush) : d.nextAddr = dDstRow d.bits + d.issued := if_pos ho

theorem nextAddr_memory (ho : dOp d.bits ≠ dmaPush) : d.nextAddr = dAddr d.bits + d.issued * dStride d.bits := if_neg ho

/-- A READ or a WRITE goes to memory: it has no target tile, and its device is that of its address. -/
theorem issueXfer_memory (ho : dOp d.bits ≠ dmaPush) (v : Row) : s.issueXfer t q d v =
    ⟨s.nextXfer, d.step, q, dOp d.bits, d.issued, dInk d.bits + d.issued, dAddr d.bits + d.issued * dStride d.bits,
      s.fld (kQcfg t q) 0 6 + 1, v, none, none, false, false,
      decide (s.addrDev d.bits (dAddr d.bits + d.issued * dStride d.bits) ≠ s.boot.dev)⟩ := by
  unfold State.issueXfer
  rw [nextAddr_memory ho, if_neg (fun h => ho h.1), if_neg ho]

/-- A PUSH goes to a tile: one of this device is its target, and another device's is reached over the link. -/
theorem issueXfer_push (ho : dOp d.bits = dmaPush) (v : Row) : s.issueXfer t q d v =
    ⟨s.nextXfer, d.step, q, dmaPush, d.issued, dInk d.bits + d.issued, dDstRow d.bits + d.issued,
      s.fld (kQcfg t q) 0 6 + 1, v, none, if dDstDev d.bits = s.boot.dev then some (dDstTile d.bits) else none, false, false,
      decide (dDstDev d.bits ≠ s.boot.dev)⟩ := by
  unfold State.issueXfer
  simp only [nextAddr_push ho, ho, true_and, if_true]

theorem issueNext_read (ho : dOp d.bits = dmaRead) (v : Row) : d.issueNext v = { d with issued := d.issued + 1 } := by
  unfold DmaDesc.issueNext
  rw [if_neg (fun h => h.2 ho)]

theorem issueNext_out (ho : dOp d.bits ≠ dmaRead) (v : Row) : d.issueNext v =
    { d with
      issued := d.issued + 1
      crcs := if d.fold then SMap.set (fun _ => 0) d.crcs d.issued (rowCrc v) else d.crcs } := by
  unfold DmaDesc.issueNext
  simp only [ho, ne_eq, not_false_eq_true, and_true]

/-- The row of an open queue's next descriptor is launched where its access of the Inkwell answers no error. -/
theorem exec_dmaTransferIssue (ha : s.awake = true) (ht : t < 80) (hq : q < 8) (hopen : s.queueOpen t q = true)
    (hn : (s.tile t).nextDesc (s.issueWaits t) q = some d) (hr : s.issueRead t d = r) (h0 : r.2.1 = 0) :
    exec (.dmaTransferIssue t q) s =
      .next ((r.1.setDesc t (d.issueNext r.2.2)).launch t (d.issueNext r.2.2) (s.issueXfer t q d r.2.2)) := by
  subst hr
  refine attempt_some ?_
  rw [if_pos ⟨ha, ht, hq, hopen⟩, hn]
  exact if_neg (not_not.mpr h0)

end

/-! ## The end of a transfer (R149, R151, R154) -/

section
variable {s : State} {t id : Nat} {x : Xfer}

/-- An answered transfer that nothing holds lands its row, or waits behind an earlier write of the same row. -/
theorem exec_dmaTransferComplete (ha : s.awake = true) (ht : t < 80) (hx : (s.tile t).xfer id = some x)
    (hans : (if x.dst.isSome then some 0 else x.answer) = some 0) (hw : x.wait = false) (hl : s.landWaits t x = false) :
    exec (.dmaTransferComplete t id) s = .next (
      if s.xferBlocked t x then
        s.setTile t { s.tile t with xfers := (s.tile t).xfers.map (fun y => if y.id = id then { y with wait := true } else y) }
      else s.landXfer t x) := by
  refine attempt_some ?_
  rw [if_pos ⟨ha, ht⟩, hx]
  simp only [hans, hw, hl, Bool.false_eq_true, or_self, if_false, ne_eq, not_true_eq_false]
  exact (apply_ite some _ _ _).symm

theorem exec_dmaDelayedInkWrite (ha : s.awake = true) (ht : t < 80) (hx : (s.tile t).xfer id = some x)
    (hw : x.wait = true) (hl : s.landWaits t x = false) (hb : s.xferBlocked t x = false) :
    exec (.dmaDelayedInkWrite t id) s = .next (s.landXfer t x) := by
  refine attempt_some ?_
  rw [if_pos ⟨ha, ht⟩, hx]
  exact if_neg (by rw [hw, hl, hb]; decide)

end

theorem exec_dmaLimitWrite {s : State} {rq : Requester} {t q : Nat} (v : B32) (ha : s.awake = true) (ht : t < 80)
    (hq : q < 8) (hr : regAllowed rq true (kQcfg t q) = true) :
    exec (.dmaLimitWrite rq t q v) s = .next (s.setReg (kQcfg t q) (v &&& 0x3F)) :=
  attempt_guardReg ⟨ha, ht, hq⟩ hr s _

/-- Settles O28: the three operations share the issue of a row and differ in what it reads, addresses and folds; the other
clauses are the answers of their commands. -/
theorem dmaCommandsComplete : Obligations.DmaCommandsComplete := by
  unfold Obligations.DmaCommandsComplete
  have hwr : dmaWrite ≠ dmaRead := by decide
  have hpr : dmaPush ≠ dmaRead := by decide
  have hrp : dmaRead ≠ dmaPush := by decide
  have hwp : dmaWrite ≠ dmaPush := by decide
  refine ⟨?start, ?read, ?write, ?push, ?lands, ?blocked, ?delayed, ?limit, ?skipped⟩
  case start =>
    exact fun s st t p sg sp h hk hc => exec_dmaDescriptorStart (readDesc_good ..) (dmaStart_checked h hk hc)
  case read =>
    intro s t q d ha ht hq hopen hn ho
    rw [exec_dmaTransferIssue ha ht hq hopen hn (issueRead_read ho) rfl, issueNext_read ho,
      issueXfer_memory (ho ▸ hrp), ho]
  case write =>
    intro s t q d ha ht hq hopen hn ho h0
    rw [exec_dmaTransferIssue ha ht hq hopen hn (issueRead_out (ho ▸ hwr)) h0, issueNext_out (ho ▸ hwr),
      issueXfer_memory (ho ▸ hwp), ho]
  case push =>
    intro s t q d ha ht hq hopen hn ho h0
    rw [exec_dmaTransferIssue ha ht hq hopen hn (issueRead_out (ho ▸ hpr)) h0, issueNext_out (ho ▸ hpr),
      issueXfer_push ho]
  case lands =>
    intro s t id x ha ht hx hans hw hl hb
    rw [exec_dmaTransferComplete ha ht hx hans hw hl, if_neg (by rw [hb]; exact Bool.false_ne_true)]
  case blocked =>
    intro s t id x ha ht hx hans hw hl hb
    rw [exec_dmaTransferComplete ha ht hx hans hw hl, if_pos hb]
  case delayed => exact fun s t id x ha ht hx hw hl hb => exec_dmaDelayedInkWrite ha ht hx hw hl hb
  case limit => exact fun s rq t q v ha ht hq hr => exec_dmaLimitWrite v ha ht hq hr
  case skipped =>
    exact fun s st b t p sg sp h hk => exec_dmaDescriptorStart (readDesc_skipped b hk _) (dmaStart_skipped h hk)

end Sys2Proof.Machine
end

section
/-!
PROOFS. The instruction words of the Nib (Table 05-3): a word whose reserved bits are 0 is made of the fields read from it.
-/
namespace Sys2Proof.Machine

/-- The low bits of a number, cut at bit `lo`: the field above the cut and what is below it. -/
theorem mod_two_pow_add_eq_bitsOf (v lo w : Nat) : v % 2 ^ (lo + w) = bitsOf v lo w * 2 ^ lo + v % 2 ^ lo := by
  rw [bitsOf, Nat.shiftRight_eq_div_pow, Nat.pow_add, Nat.mod_mul, Nat.mul_comm, Nat.add_comm]

theorem toNat_ofNat_of_lt {w n : Nat} (h : n < 2 ^ w) : (BitVec.ofNat w n).toNat = n := by
  rw [BitVec.toNat_ofNat, Nat.mod_eq_of_lt h]

theorem bitsOf_lt (v lo w : Nat) : bitsOf v lo w < 2 ^ w := Nat.mod_lt _ (Nat.two_pow_pos w)

/-- The fields of form R and its reserved bits fill the 64 bits of a word. -/
theorem toNat_eq_formR_fields (w : B64) : w.toNat =
    bitsOf w.toNat 58 6 * 2 ^ 58 + bitsOf w.toNat 53 5 * 2 ^ 53 + bitsOf w.toNat 48 5 * 2 ^ 48 + bitsOf w.toNat 43 5 * 2 ^ 43 +
      bitsOf w.toNat 38 5 * 2 ^ 38 + bitsOf w.toNat 34 4 * 2 ^ 34 + bitsOf w.toNat 31 3 * 2 ^ 31 +
      bitsOf w.toNat 29 2 * 2 ^ 29 + bitsOf w.toNat 20 9 * 2 ^ 20 + bitsOf w.toNat 0 20 := by
  have cut := mod_two_pow_add_eq_bitsOf w.toNat
  have hw : w.toNat % 2 ^ 64 = w.toNat := Nat.mod_eq_of_lt w.isLt
  have h0 : w.toNat % 2 ^ 20 = bitsOf w.toNat 0 20 := rfl
  have := cut 58 6; have := cut 53 5; have := cut 48 5; have := cut 43 5; have := cut 38 5
  have := cut 34 4; have := cut 31 3; have := cut 29 2; have := cut 20 9
  omega

/-- The fields of form I and its reserved bits fill the 64 bits of a word. -/
theorem toNat_eq_formI_fields (w : B64) : w.toNat =
    bitsOf w.toNat 58 6 * 2 ^ 58 + bitsOf w.toNat 53 5 * 2 ^ 53 + bitsOf w.toNat 32 21 * 2 ^ 32 + bitsOf w.toNat 0 32 := by
  have cut := mod_two_pow_add_eq_bitsOf w.toNat
  have hw : w.toNat % 2 ^ 64 = w.toNat := Nat.mod_eq_of_lt w.isLt
  have h0 : w.toNat % 2 ^ 32 = bitsOf w.toNat 0 32 := rfl
  have := cut 58 6; have := cut 53 5; have := cut 32 21
  omega

/-- A form R word is made again of its own fields. -/
theorem encR_nibOf {w : B64} (h : bitsOf w.toNat 20 9 = 0) :
    encR (nibOf w).opc (nibOf w).d (nibOf w).a (nibOf w).b (nibOf w).c (nibOf w).fmt (nibOf w).part (nibOf w).slot
      (BitVec.ofNat 20 (nibOf w).imm) = w := by
  have himm : (BitVec.ofNat 20 (nibOf w).imm).toNat = (nibOf w).imm := toNat_ofNat_of_lt (bitsOf_lt ..)
  have hw := toNat_eq_formR_fields w
  rw [h, Nat.zero_mul, Nat.add_zero] at hw
  refine BitVec.eq_of_toNat_eq ?_
  rw [encR_toNat _ _ _ _ _ _ _ _ _ (bitsOf_lt ..) (bitsOf_lt ..) (bitsOf_lt ..) (bitsOf_lt ..) (bitsOf_lt ..) (bitsOf_lt ..)
    (bitsOf_lt ..) (bitsOf_lt ..), himm]
  exact hw.symm

/-- A form I word is made again of its own fields. -/
theorem encI_nibOf {w : B64} (h : bitsOf w.toNat 32 21 = 0) : encI (nibOf w).opc (nibOf w).d (nibOf w).imm32 = w := by
  have himm : (nibOf w).imm32.toNat = bitsOf w.toNat 0 32 := toNat_ofNat_of_lt (bitsOf_lt ..)
  have hw := toNat_eq_formI_fields w
  rw [h, Nat.zero_mul, Nat.add_zero] at hw
  refine BitVec.eq_of_toNat_eq ?_
  rw [encI_toNat _ _ _ (bitsOf_lt ..) (bitsOf_lt ..), himm]
  exact hw.symm

/-- Settles O7: the fields of a made word by its arithmetic; a word read, because its fields and its reserved bits, which are
0, fill its 64 bits. -/
theorem nibWordsRoundTrip : Obligations.NibWordsRoundTrip := by
  unfold Obligations.NibWordsRoundTrip
  exact ⟨rtR, rtI, fun _ h => encR_nibOf h, fun _ h => encI_nibOf h⟩

end Sys2Proof.Machine
end

section
/-!
PROOFS. What a section that issues a nib word answers (R161, R171): the instruction reads the fields that the word was made
from, and one that only writes the section's own state leaves the pc at the next instruction.
-/
namespace Sys2Proof.Machine

section
variable {s : State} {t : Nat} {c : Section}

/-- The fields of a form R word, as the instruction reads them. -/
theorem nibOf_encR {o d a b e f p sl : Nat} (imm : BitVec 20) (ho : o < 64) (hd : d < 32) (ha : a < 32) (hb : b < 32)
    (he : e < 32) (hf : f < 16) (hp : p < 8) (hs : sl < 4) : nibOf (encR o d a b e f p sl imm) =
      ⟨o, d, a, b, e, f, p, sl, imm.toNat, (nibOf (encR o d a b e f p sl imm)).imm32⟩ := by
  obtain ⟨hopc, hd', ha', hb', he', hf', hp', hs', himm⟩ := rtR o d a b e f p sl imm ho hd ha hb he hf hp hs
  rw [Nib.mk.injEq]
  exact ⟨hopc, hd', ha', hb', he', hf', hp', hs', himm, rfl⟩

/-- An instruction of form R answers what it makes of the section and of the fields of its word. -/
theorem attempt_nib_encR {o d a b e f p sl : Nat} {imm : BitVec 20} {u : State} {g : Section → Nib → Option State}
    (h : s.issues t c (encR o d a b e f p sl imm))
    (hu : g c ⟨o, d, a, b, e, f, p, sl, imm.toNat, (nibOf (encR o d a b e f p sl imm)).imm32⟩ = some u)
    (ho : o < 64 := by omega) (hd : d < 32 := by omega) (ha : a < 32 := by omega) (hb : b < 32 := by omega)
    (he : e < 32 := by omega) (hf : f < 16 := by omega) (hp : p < 8 := by omega) (hs : sl < 4 := by omega) :
    attempt (s.nib t (encR o d a b e f p sl imm) g) s = .next u := by
  refine attempt_some ?_
  rw [nib_issues h, nibOf_encR imm ho hd ha hb he hf hp hs]
  exact hu

/-- An instruction of form R that only writes the section's own state: the update, and the pc moves on. -/
theorem attempt_nibSet_encR {o d a b e f p sl : Nat} {imm : BitVec 20} (g : Section → Nib → Section)
    (h : s.issues t c (encR o d a b e f p sl imm))
    (ho : o < 64 := by omega) (hd : d < 32 := by omega) (ha : a < 32 := by omega) (hb : b < 32 := by omega)
    (he : e < 32 := by omega) (hf : f < 16 := by omega) (hp : p < 8 := by omega) (hs : sl < 4 := by omega) :
    attempt (s.nibSet t (encR o d a b e f p sl imm) g) s = .next (s.nibNext t
      (g c ⟨o, d, a, b, e, f, p, sl, imm.toNat, (nibOf (encR o d a b e f p sl imm)).imm32⟩)) :=
  attempt_nib_encR h rfl

/-- An instruction of form I: its update may use the destination and the 32-bit immediate. -/
theorem attempt_nibSet_encI {o d : Nat} {imm : B32} (g : Section → Nat → B32 → Section) (h : s.issues t c (encI o d imm))
    (ho : o < 64 := by omega) (hd : d < 32 := by omega) :
    attempt (s.nibSet t (encI o d imm) (fun c n => g c n.d n.imm32)) s = .next (s.nibNext t (g c d imm)) := by
  obtain ⟨-, hd', himm⟩ := rtI o d imm ho hd
  refine attempt_some ?_
  rw [State.nibSet, nib_issues h, hd', himm]

/-- V_d from V_a: the destination takes the result and the pc moves on. -/
theorem attempt_nib1 {o d a : Nat} (f : Row → Row) (h : s.issues t c (w1 o d a)) (hd : d < 32) (ha : a < 32)
    (ho : o < 64 := by omega) : attempt (s.nib1 t (w1 o d a) f) s = .next (s.nibNext t (c.setV d (f (c.vr a)))) :=
  attempt_nibSet_encR _ h

/-- V_d from V_a and V_b: the destination takes the result and the pc moves on. -/
theorem attempt_nib2 {o d a b : Nat} (f : Row → Row → Row) (h : s.issues t c (w2 o d a b)) (hd : d < 32) (ha : a < 32)
    (hb : b < 32) (ho : o < 64 := by omega) :
    attempt (s.nib2 t (w2 o d a b) f) s = .next (s.nibNext t (c.setV d (f (c.vr a) (c.vr b)))) :=
  attempt_nibSet_encR _ h

/-- A shift of every lane of V_a by the count in the immediate. -/
theorem attempt_nibSet_shift {o d a n : Nat} (f : Nat → B32 → B32)
    (h : s.issues t c (encR o d a 0 0 0 0 0 (BitVec.ofNat 20 n))) (hd : d < 32) (ha : a < 32) (hn : n < 32)
    (ho : o < 64 := by omega) :
    attempt (s.nibSet t (encR o d a 0 0 0 0 0 (BitVec.ofNat 20 n)) (fun c n => c.setV n.d (lanes1 (f n.imm) (c.vr n.a)))) s =
      .next (s.nibNext t (c.setV d (lanes1 (f n) (c.vr a)))) := by
  rw [attempt_nibSet_encR _ h, toNat_ofNat_of_lt (by omega)]

end

end Sys2Proof.Machine
end

section
/-!
PROOFS. The nib instructions that compute on registers: each is one update of the section's own state, what the fields of its
word make of it, and what it leaves unchanged.
-/
namespace Sys2Proof.Machine

/-! ## Floating point (R174) -/

/-- Settles O30: each instruction is one function of one or of two registers, and its word names the registers. -/
theorem nibFloatCommandsComplete : Obligations.NibFloatCommandsComplete := by
  unfold Obligations.NibFloatCommandsComplete
  refine ⟨?fadd, ?fsub, ?fmul, ?fdiv, ?fmin, ?fmax, ?fsqrt, ?fabs, ?fneg, ?fclt, ?fceq, ?ramax, ?rmax, ?rsum⟩
  case fadd => exact fun s t c d a b h hd ha hb => attempt_nib2 (lanes2 fpAdd) h hd ha hb
  case fsub => exact fun s t c d a b h hd ha hb => attempt_nib2 (lanes2 fpSub) h hd ha hb
  case fmul => exact fun s t c d a b h hd ha hb => attempt_nib2 (lanes2 fpMul) h hd ha hb
  case fdiv => exact fun s t c d a b h hd ha hb => attempt_nib2 (lanes2 fpDiv) h hd ha hb
  case fmin => exact fun s t c d a b h hd ha hb => attempt_nib2 (lanes2 fpMin) h hd ha hb
  case fmax => exact fun s t c d a b h hd ha hb => attempt_nib2 (lanes2 fpMax) h hd ha hb
  case fsqrt => exact fun s t c d a h hd ha => attempt_nib1 (lanes1 fpSqrt) h hd ha
  case fabs => exact fun s t c d a h hd ha => attempt_nib1 (lanes1 fpAbs) h hd ha
  case fneg => exact fun s t c d a h hd ha => attempt_nib1 (lanes1 fpNeg) h hd ha
  case fclt => exact fun s t c d a b h hd ha hb => attempt_nib2 (lanes2 (fun x y => maskOf (fpLt x y))) h hd ha hb
  case fceq => exact fun s t c d a b h hd ha hb => attempt_nib2 (lanes2 (fun x y => maskOf (fpEq x y))) h hd ha hb
  case ramax => exact fun s t c d a h hd ha => attempt_nib1 (fun x => splat (rowAmax x)) h hd ha
  case rmax => exact fun s t c d a h hd ha => attempt_nib1 (fun x => splat (rowMax x)) h hd ha
  case rsum => exact fun s t c d a h hd ha => attempt_nib1 (fun x => splat (rowSum x)) h hd ha

/-! ## Integer, logic, shift and select (R172) -/

/-- Settles O31: a function of the registers that the word names; the shifts read their count from the immediate. -/
theorem nibIntegerCommandsComplete : Obligations.NibIntegerCommandsComplete := by
  unfold Obligations.NibIntegerCommandsComplete
  refine ⟨?iadd, ?isub, ?and, ?or, ?xor, ?shl, ?sra, ?sel⟩
  case iadd => exact fun s t c d a b h hd ha hb => attempt_nib2 (lanes2 (· + ·)) h hd ha hb
  case isub => exact fun s t c d a b h hd ha hb => attempt_nib2 (lanes2 (· - ·)) h hd ha hb
  case and => exact fun s t c d a b h hd ha hb => attempt_nib2 (fun x y => x &&& y) h hd ha hb
  case or => exact fun s t c d a b h hd ha hb => attempt_nib2 (fun x y => x ||| y) h hd ha hb
  case xor => exact fun s t c d a b h hd ha hb => attempt_nib2 (fun x y => x ^^^ y) h hd ha hb
  case shl => exact fun s t c d a n h hd ha hn => attempt_nibSet_shift (fun n x => x <<< n) h hd ha hn
  case sra => exact fun s t c d a n h hd ha hn => attempt_nibSet_shift (fun n x => x.sshiftRight n) h hd ha hn
  case sel => exact fun s t c d a b i h hd ha hb hi => attempt_nibSet_encR _ h

/-! ## Formats, tables and the transpose buffer (R50, R172, R175, R176, R180) -/

section
variable {s : State} {t : Nat} {c : Section} {d a part : Nat}

theorem exec_nibTbl_loaded {j : Nat} {r0 r1 r2 : Row} (h : s.issues t c (encR 0x25 d a 0 0 0 part 0 0)) (hd : d < 32)
    (ha : a < 32) (hp : part < 8) (htab : c.tables.find? (fun e => e.1 == part) = some (j, r0, r1, r2)) :
    exec (.nibTbl t d a part) s = .next (s.nibNext t (c.setV d (lanes1 (tblLane r0 r1 r2) (c.vr a)))) := by
  refine attempt_nib_encR h ?_
  simp only [htab]

theorem exec_nibTbl_unloaded (h : s.issues t c (encR 0x25 d a 0 0 0 part 0 0)) (hd : d < 32) (ha : a < 32) (hp : part < 8)
    (htab : c.tables.find? (fun e => e.1 == part) = none) :
    exec (.nibTbl t d a part) s = .next (s.nibAbort t c stFormat) := by
  refine attempt_nib_encR h ?_
  simp only [htab]

end

/-- Settles O32: each instruction is one update of the section from the fields of its word; TBL asks first for its table. -/
theorem nibFormatCommandsComplete : Obligations.NibFormatCommandsComplete := by
  unfold Obligations.NibFormatCommandsComplete
  refine ⟨?unpk, ?qnt, ?qscale, ?tput, ?tget, ?tbl, ?tblUnloaded⟩
  case unpk => exact fun s t c d a fmt part h hd ha hf hp => attempt_nibSet_encR _ h
  case qnt => exact fun s t c d a b fmt part slot h hd ha hb hf hp hs => attempt_nibSet_encR _ h
  case qscale => exact fun s t c d a b h hd ha hb => attempt_nibSet_encR _ h
  case tput => exact fun s t c a b fmt part imm h ha hb hf hp => attempt_nibSet_encR _ h
  case tget => exact fun s t c d b fmt part imm h hd hb hf hp => attempt_nibSet_encR _ h
  case tbl => exact fun s t c d a part j r0 r1 r2 h hd ha hp htab => exec_nibTbl_loaded h hd ha hp htab
  case tblUnloaded => exact fun s t c d a part h hd ha hp htab => exec_nibTbl_unloaded h hd ha hp htab

/-! ## What a computing instruction leaves unchanged (R161) -/

/-- A computing instruction of tile `t` issues one word and answers one update of the section's own state. -/
def IsNibSet (t : Nat) (i : Instr) : Prop :=
  ∃ (w : B64) (f : Section → Nib → Section), ∀ s, exec i s = attempt (s.nibSet t w f) s

theorem isNibSet_of_mem_aluCommands {t d a b c n fmt part slot : Nat} {imm : BitVec 20} {imm32 : B32} :
    ∀ i ∈ aluCommands t d a b c n fmt part slot imm imm32, IsNibSet t i := by
  simp only [aluCommands, List.forall_mem_cons, List.not_mem_nil, false_implies, implies_true, and_true]
  and_intros
  all_goals exact ⟨_, _, fun _ => rfl⟩

/-- Settles O18: a computing instruction is one update of the section, and the update touches nothing else. -/
theorem nibComputationFrame : Obligations.NibComputationFrame := by
  unfold Obligations.NibComputationFrame
  intro s u t d a b c n fmt part slot imm imm32 k i hsect hok hpc hi hu
  obtain ⟨w, f, hexec⟩ := isNibSet_of_mem_aluCommands i hi
  rw [hexec] at hu
  cases hu
  exact nibSet_frame hsect hok hpc

end Sys2Proof.Machine
end

section
/-!
PROOFS. The starts of a section and its control, address and move instructions: where each goes on, and with which registers.
-/
namespace Sys2Proof.Machine

/-! ## The start of a section (R161, R165, R185) -/

section
variable {s : State} {t : Nat} {st : StepRef} {r : Run} {b : BitVec 512}

theorem exec_nibSectionStart {kind : SectionKind} {block : Nat} (ha : s.awake = true) (ht : t < 80)
    (hfree : (s.tile t).sect.isNone = true) (hk : kind ≠ .settle) (hr : (s.tile t).run st = some r) (hb : r.bind = some b)
    (hn : r.nextSection = some (kind, block)) (hrdy : r.sectionReady = true) (hold : (s.tile t).olderSection st.epoch = false) :
    exec (.nibSectionStart t st kind block) s = .next (s.setSect t (r.section kind block b)) := by
  refine attempt_some ?_
  rw [if_pos ⟨ha, ht, hfree, hk⟩]
  simp only [hr, hb]
  exact if_pos ⟨hn, hrdy, by rw [hold]; rfl⟩

/-- The entry of the row that a settle starts on is settling. -/
theorem exec_settleStart {row : Nat} (ha : s.awake = true) (ht : t < 80) (hfree : (s.tile t).sect.isNone = true)
    (hr : (s.tile t).run st = some r) (hb : r.bind = some b) (hq : r.settleQ.head? = some row)
    (hold : (s.tile t).olderSection st.epoch = false) :
    exec (.settleStart t st row) s = .next (
      let tl := s.tile t
      let k := tl.half st.epoch * 4096 + bRsBase b + row
      let e := SMap.get RsEntry.idle tl.rstats k
      (s.setTile t { tl with rstats := SMap.set RsEntry.idle tl.rstats k { e with state := .settling } }).setSect t
        (r.section .settle row b)) := by
  refine attempt_some ?_
  rw [if_pos ⟨ha, ht, hfree⟩]
  simp only [hr, hb]
  exact if_pos ⟨hq, by rw [hold]; rfl⟩

end

/-! ## Control flow (R172, R173) -/

section
variable {s : State} {t : Nat} {c : Section} {a n : Nat}

theorem exec_nibEnd (h : s.issues t c (encR opEnd 0 0 0 0 0 0 0 0))
    (hw : ¬(c.kind = .prologue ∧ (s.stepOf c.step).any (fun x => s.windowFilling t x.2.1))) :
    exec (.nibEnd t) s = .next (s.endSection t c) :=
  attempt_nib_encR h (if_neg hw) (by decide)

/-- An END stands in the body of a LOOP of `n` instructions at the section's pc. -/
def State.endInBody (s : State) (t : Nat) (c : Section) (n : Nat) : Bool :=
  (upTo n).any (fun i => decide (c.pc + 1 + i < 512) && (nibOf (s.nibWord t (c.pc + 1 + i))).opc == opEnd)

theorem exec_nibLoop_nested (h : s.issues t c (encR 0x02 0 a 0 0 0 0 0 (BitVec.ofNat 20 n))) (ha : a < 32)
    (hl : 2 ≤ c.loops.length) : exec (.nibLoop t a n) s = .next (s.nibAbort t c stFormat) :=
  attempt_nib_encR h (if_pos (.inl hl))

/-- A LOOP that may open: its body runs once for each count of A_a, or is passed over where the count is 0. -/
theorem exec_nibLoop_open (h : s.issues t c (encR 0x02 0 a 0 0 0 0 0 (BitVec.ofNat 20 n))) (ha : a < 32) (hn : n < 512)
    (hl : c.loops.length < 2) (he : s.endInBody t c n = false) : exec (.nibLoop t a n) s = .next (
      if (c.ar a).toNat = 0 then
        s.setSect t { c with pc := (loopNext (c.pc + n) c.loops).1, loops := (loopNext (c.pc + n) c.loops).2 }
      else s.setSect t { c with pc := c.pc + 1, loops := [(c.pc + 1, c.pc + n, (c.ar a).toNat)] ++ c.loops }) := by
  have hok : ¬(2 ≤ c.loops.length ∨ s.endInBody t c n = true) :=
    not_or.mpr ⟨by omega, by rw [he]; exact Bool.false_ne_true⟩
  refine attempt_nib_encR h ?_
  simp only [toNat_ofNat_of_lt (show n < 2 ^ 20 by omega)]
  exact (if_neg hok).trans (apply_ite some _ _ _).symm

/-- AADD (R171): A_a plus the immediate, modulo 2^32. -/
theorem exec_nibAadd {d : Nat} {imm : BitVec 20} (h : s.issues t c (encR 0x04 d a 0 0 0 0 0 imm)) (hd : d < 32) (ha : a < 32) :
    exec (.nibAadd t d a imm) s = .next (s.nibNext t (c.setA d (c.ar a + BitVec.ofInt 32 (sext imm.toNat 20)))) := by
  have hrow : BitVec.ofNat 32 (c.row a imm.toNat) = c.ar a + BitVec.ofInt 32 (sext imm.toNat 20) :=
    (BitVec.ofNat_toNat ..).trans (BitVec.setWidth_eq _)
  rw [← hrow]
  exact attempt_nibSet_encR _ h

end

/-- Settles O29: the two starts and LOOP by their conditions, the others as one update of the section. -/
theorem nibControlCommandsComplete : Obligations.NibControlCommandsComplete := by
  unfold Obligations.NibControlCommandsComplete
  refine ⟨?start, ?settle, ?nop, ?sectionEnd, ?loop, ?loopZero, ?loopNested, ?amov, ?aadd, ?aaddr, ?mov, ?bcast, ?lane,
    ?ins⟩
  case start =>
    exact fun s t st kind block r b ha ht hfree hk hr hb hn hrdy hold =>
      exec_nibSectionStart ha ht hfree hk hr hb hn hrdy hold
  case settle => exact fun s t st row r b ha ht hfree hr hb hq hold => exec_settleStart ha ht hfree hr hb hq hold
  case nop => exact fun s t c h => attempt_nibSet_encR (fun c _ => c) h
  case sectionEnd => exact fun s t c h hw => exec_nibEnd h hw
  case loop =>
    intro s t c a n h ha hn hl he h0
    have hz : (c.ar a).toNat ≠ 0 := fun hz => h0 (BitVec.eq_of_toNat_eq hz)
    rw [exec_nibLoop_open h ha hn hl he, if_neg hz]
  case loopZero =>
    intro s t c a n h ha hn hl he h0
    have hz : (c.ar a).toNat = 0 := by rw [h0]; rfl
    rw [exec_nibLoop_open h ha hn hl he, if_pos hz]
  case loopNested => exact fun s t c a n h ha hn hl => exec_nibLoop_nested h ha hl
  case amov => exact fun s t c d imm h hd => attempt_nibSet_encI (fun c d imm => c.setA d imm) h
  case aadd => exact fun s t c d a imm h hd ha => exec_nibAadd h hd ha
  case aaddr => exact fun s t c d a b h hd ha hb => attempt_nibSet_encR _ h
  case mov => exact fun s t c d a h hd ha => attempt_nib1 id h hd ha
  case bcast => exact fun s t c d imm h hd => attempt_nibSet_encI (fun c d imm => c.setV d (splat imm)) h
  case lane => exact fun s t c d a i imm h hd ha hi => attempt_nibSet_encR _ h
  case ins => exact fun s t c d a i imm h hd ha hi => attempt_nibSet_encR _ h

end Sys2Proof.Machine
end

section
/-!
PROOFS. The instructions of a section that reach the Inkwell or send and read row statistics.
-/
namespace Sys2Proof.Machine

/-! ## Rows of the Inkwell (R167, R168, R175, R178) -/

section
variable {s : State} {t : Nat} {c : Section} {p : Pipe} {sg : Stage} {sp : Step}

/-- Rows that lie in the stage's window, fill no more and read without an error are handed on in the state that the reads
leave. -/
theorem nibRows_read {rows : List Nat} (hst : s.stepOf c.step = some (p, sg, sp))
    (hw : rows.all (fun r => sg.inWindow r 1) = true) (hf : rows.any (fun r => s.rowFilling t r) = false)
    (h0 : (s.rowReads t c.ep rows).2.1 = 0) (k : State → List Row → State) :
    s.nibRows t c rows k = some (k (s.rowReads t c.ep rows).1 (s.rowReads t c.ep rows).2.2) := by
  unfold State.nibRows
  simp only [hst, hw, hf, h0, Bool.not_true, Bool.false_eq_true, if_false, ne_eq, not_true_eq_false]

/-- The read of one row. -/
theorem nibRows_read_one {row : Nat} (hst : s.stepOf c.step = some (p, sg, sp)) (hw : sg.inWindow row 1 = true)
    (hf : s.rowFilling t row = false) (h0 : (s.rowReads t c.ep [row]).2.1 = 0) (k : State → List Row → State) :
    s.nibRows t c [row] k = some (k (s.rowReads t c.ep [row]).1 (s.rowReads t c.ep [row]).2.2) :=
  nibRows_read hst (by rw [List.all_cons, hw]; rfl) (by rw [List.any_cons, hf]; rfl) h0 k

theorem exec_nibLd {d a : Nat} {imm : BitVec 20} (h : s.issues t c (encR 0x06 d a 0 0 0 0 0 imm)) (hd : d < 32) (ha : a < 32)
    (hst : s.stepOf c.step = some (p, sg, sp)) (hw : sg.inWindow (c.row a imm.toNat) 1 = true)
    (hf : s.rowFilling t (c.row a imm.toNat) = false) (h0 : (s.rowReads t c.ep [c.row a imm.toNat]).2.1 = 0) :
    exec (.nibLd t d a imm) s = .next ((s.rowReads t c.ep [c.row a imm.toNat]).1.nibNext t
      (c.setV d ((s.rowReads t c.ep [c.row a imm.toNat]).2.2.headD 0))) :=
  attempt_nib_encR h (nibRows_read_one hst hw hf h0 _)

theorem exec_nibSt {a b : Nat} {imm : BitVec 20} {r : Run} (h : s.issues t c (encR 0x07 0 a b 0 0 0 0 imm)) (ha : a < 32)
    (hb : b < 32) (hst : s.stepOf c.step = some (p, sg, sp)) (hr : (s.tile t).run c.step = some r)
    (hw : sg.inWindow (c.row a imm.toNat) 1 = true)
    (he : ¬(c.kind = .epilogue ∧ r.epiForbids c.block (c.row a imm.toNat) = true))
    (hf : s.rowFilling t (c.row a imm.toNat) = false) (h0 : (s.inkWrite t (c.row a imm.toNat) rqVector (c.vr b)).2 = 0) :
    exec (.nibSt t a b imm) s = .next ((s.inkWrite t (c.row a imm.toNat) rqVector (c.vr b)).1.nibNext t c) := by
  refine attempt_nib_encR h ?_
  simp only [hst, hr, hw, hf, h0, if_neg he, Bool.not_true, Bool.false_eq_true, if_false, ne_eq, not_true_eq_false]

/-- The section after TBLLD, where the three rows are read. -/
theorem exec_nibTblld {a part : Nat} {imm : BitVec 20} {r : B32} (h : s.issues t c (encR 0x26 0 a 0 0 0 part 0 imm))
    (ha : a < 32) (hp : part < 8) (hr : r = c.ar a + BitVec.ofInt 32 (sext imm.toNat 20))
    (hst : s.stepOf c.step = some (p, sg, sp))
    (hw : [r.toNat, (r + 1).toNat, (r + 2).toNat].all (fun x => sg.inWindow x 1) = true)
    (hf : [r.toNat, (r + 1).toNat, (r + 2).toNat].any (fun x => s.rowFilling t x) = false)
    (h0 : (s.rowReads t c.ep [r.toNat, (r + 1).toNat, (r + 2).toNat]).2.1 = 0) :
    exec (.nibTblld t a part imm) s = .next (
      let q := s.rowReads t c.ep [r.toNat, (r + 1).toNat, (r + 2).toNat]
      match q.2.2 with
      | [x, y, z] => q.1.nibNext t { c with tables := (c.tables.filter (fun e => e.1 != part)) ++ [(part, x, y, z)] }
      | _ => q.1) := by
  subst hr
  exact attempt_nib_encR h (nibRows_read hst hw hf h0 _)

end

/-! ## The gather (R177, R178) -/

section
variable {s : State} {t : Nat} {k : Section} {d a b i : Nat} {imm : BitVec 20}

/-- The index that GROW takes from a lane of V_b. -/
def Section.gatherIx (k : Section) (b i imm : Nat) : Int := (laneOf (k.vr b) (k.lane i imm)).toInt

/-- The rows of the gather table of a section's step. -/
def State.gatherRows (s : State) (t : Nat) (k : Section) : Nat := (((s.tile t).run k.step).bind (·.bind)).elim 0 bGather

theorem exec_nibGrow_inside {p : Pipe} {sg : Stage} {sp : Step} {row : Nat}
    (h : s.issues t k (encR 0x29 d a b i 0 0 0 imm)) (hd : d < 32) (ha : a < 32) (hb : b < 32) (hi : i < 32)
    (hx : ¬(k.gatherIx b i imm.toNat < 0 ∨ (s.gatherRows t k : Int) ≤ k.gatherIx b i imm.toNat))
    (hrow : row = (k.ar a + BitVec.ofInt 32 (k.gatherIx b i imm.toNat)).toNat)
    (hst : s.stepOf k.step = some (p, sg, sp)) (hw : sg.inWindow row 1 = true) (hf : s.rowFilling t row = false)
    (h0 : (s.rowReads t k.ep [row]).2.1 = 0) :
    exec (.nibGrow t d a b i imm) s = .next ((s.rowReads t k.ep [row]).1.nibNext t
      (k.setV d ((s.rowReads t k.ep [row]).2.2.headD 0))) := by
  subst hrow
  exact attempt_nib_encR h ((if_neg hx).trans (nibRows_read_one hst hw hf h0 _))

theorem exec_nibGrow_outside (h : s.issues t k (encR 0x29 d a b i 0 0 0 imm)) (hd : d < 32) (ha : a < 32) (hb : b < 32)
    (hi : i < 32) (hx : k.gatherIx b i imm.toNat < 0 ∨ (s.gatherRows t k : Int) ≤ k.gatherIx b i imm.toNat) :
    exec (.nibGrow t d a b i imm) s = .next (s.nibNext t { k.setV d 0 with gfault := k.gfault + 1 }) :=
  attempt_nib_encR h (if_pos hx)

end

/-! ## Row statistics from a section (R182, R185) -/

section
variable {s : State} {t : Nat} {c : Section} {a : Nat} {imm : BitVec 20}

theorem exec_nibRstat {i : Nat} {b : BitVec 512} (h : s.issues t c (encR 0x2A 0 a 0 i 0 0 0 imm)) (ha : a < 32) (hi : i < 32)
    (hb : ((s.tile t).run c.step).bind (·.bind) = some b) (he : c.row a imm.toNat < 4096) (hblk : (c.ar i).toNat < 64) :
    exec (.nibRstat t a i imm) s = .next (
      let x := c.vr a
      (s.nibNext t c).sendRs t c.step.pipe c.step.side (bOwner b) (mkRs 0 (c.ar i).toNat (c.row a imm.toNat) c.step.epoch
        (rowAmax x) (rowMax x) (rowSum x) (rowSum (mapLanes (fun v => fpMul v v) x)))) := by
  refine attempt_nib_encR h ?_
  simp only [hb]
  exact if_neg (by omega)

/-- The statistic of an entry that the part field of RSTGET names. -/
def RsEntry.stat (e : RsEntry) (part : Nat) : B32 := match part with | 0 => e.amax | 1 => e.max | 2 => e.sum | _ => e.sumsq

theorem exec_nibRstget {d part : Nat} {r : RsEntry} (h : s.issues t c (encR 0x2B d a 0 0 0 part 0 imm)) (hd : d < 32)
    (ha : a < 32) (hp : part < 8) (he : c.row a imm.toNat < 4096)
    (hr : r = SMap.get RsEntry.idle (s.tile t).rstats ((s.tile t).half c.step.epoch * 4096 + c.row a imm.toNat))
    (hrel : r.state = .released ∨ r.state = .settling) :
    exec (.nibRstget t d a part imm) s =
      .next (s.nibNext t (c.setV d (packRow (List.replicate 128 (r.stat part))))) := by
  subst hr
  exact attempt_nib_encR h (if_pos ⟨he, hrel⟩)

end

/-- Settles O33: each instruction by the conditions that its clause names. -/
theorem nibMemoryCommandsComplete : Obligations.NibMemoryCommandsComplete := by
  unfold Obligations.NibMemoryCommandsComplete
  refine ⟨?ld, ?st, ?tblld, ?growInside, ?growOutside, ?rstat, ?rstget⟩
  case ld => exact fun s t c d a imm p sg sp h hd ha hst hw hf h0 => exec_nibLd h hd ha hst hw hf h0
  case st =>
    exact fun s t c a b imm p sg sp r h ha hb hst hr hw he hf h0 => exec_nibSt h ha hb hst hr hw he hf h0
  case tblld =>
    exact fun s t c a part imm r p sg sp h ha hp hr hst hw hf h0 => exec_nibTblld h ha hp hr hst hw hf h0
  case growInside =>
    exact fun s t c d a b i imm p sg sp h hd ha hb hi hx hst hw hf h0 =>
      exec_nibGrow_inside h hd ha hb hi hx rfl hst hw hf h0
  case growOutside => exact fun s t c d a b i imm h hd ha hb hi hx => exec_nibGrow_outside h hd ha hb hi hx
  case rstat => exact fun s t c a i imm b h ha hi hb he hblk => exec_nibRstat h ha hi hb he hblk
  case rstget => exact fun s t c d a part imm h hd ha hp he hrel => exec_nibRstget h hd ha hp he rfl hrel

end Sys2Proof.Machine
end

section
/-!
PROOFS. The completion of a compute step (R103, R170, R193): a run of the array and one of VCONV end in the same way, and the
array stages its counts besides.
-/
namespace Sys2Proof.Machine

section
variable {s : State} {st : StepRef} {t : Nat} {p : Pipe} {sg : Stage} {sp : Step} {r : Run}

/-- The state in which the saturation counts of a run that leaves its tile are staged (R71). -/
def State.clampsStaged (s : State) (st : StepRef) (t : Nat) (r : Run) : State :=
  (s.dropRun t st).stageClamps st.epoch t r.clamps

/-- The cycle and step counts that a matrix step stages (R122). -/
def State.matrixCounts (s : State) (st : StepRef) (t : Nat) (r : Run) : State :=
  let n := (geoOf r.desc).nb * (geoOf r.desc).kc
  s.stageCount st.epoch [⟨kTil t 0x120, n * 128, .wide⟩, ⟨kTil t 0x128, n * (geoOf r.desc).issue, .wide⟩,
    ⟨kTil t 0x130, s.bubbles, .wide⟩, ⟨kTil t 0x138, 1, .wrap⟩]

/-- A run whose sections have ended and none of whose sections holds the tile completes; the array stages its counts. -/
theorem computeComplete_ended (kind : RunKind) (hst : s.stepOf st = some (p, sg, sp))
    (ht : s.tileOf p st.stage st.side = some t) (hr : (s.tile t).run st = some r) (ha : s.awake = true) (hk : r.kind = kind)
    (he : r.ended = true) (hs : (s.tile t).sect.any (fun x => x.step == st) = false) :
    s.computeComplete st kind = some (((match kind with
      | .matrix => (s.clampsStaged st t r).matrixCounts st t r
      | .vconv => s.clampsStaged st t r).bankWaits t).finishStep st) := by
  unfold State.computeComplete
  simp only [hst, ht, hr]
  exact if_pos ⟨ha, hk, he, by rw [hs]; rfl⟩

end

/-- Settles O26: both completions are that of a run, for the array and for VCONV. -/
theorem stepCompletionCommandsComplete : Obligations.StepCompletionCommandsComplete := by
  unfold Obligations.StepCompletionCommandsComplete
  refine ⟨?matrix, ?vconv⟩
  case matrix =>
    exact fun s st t p sg sp r hst ht hr ha hk he hs =>
      attempt_some (computeComplete_ended .matrix hst ht hr ha hk he hs)
  case vconv =>
    exact fun s st t p sg sp r hst ht hr ha hk he hs =>
      attempt_some (computeComplete_ended .vconv hst ht hr ha hk he hs)

end Sys2Proof.Machine
end

section
/-!
PROOFS. The row-stat messages that arrive at a tile, and the nib registers.
-/
namespace Sys2Proof.Machine

/-! ## A contribution at the row's owner (R183, R184) -/

/-- The owner's entry after a contribution: the first one sets the two maxima, a later one is compared with them. -/
def RsEntry.joined (e : RsEntry) (msg : BitVec 256) : RsEntry :=
  { e with
    state := if e.state = .idle then .collecting else e.state
    bitmap := e.bitmap ||| BitVec.ofNat 64 (2 ^ rsBlock msg)
    amax := if e.state == .idle then rsVal msg 0 else maxNum e.amax (rsVal msg 0)
    max := if e.state == .idle then rsVal msg 1 else maxNum e.max (rsVal msg 1) }

/-- The row of partial sums with the two that a contribution carries, at the lanes of its block. -/
def contribRow (row : Row) (msg : BitVec 256) : Row :=
  setLane (setLane row (2 * rsBlock msg) (rsVal msg 2)) (2 * rsBlock msg + 1) (rsVal msg 3)

/-- The release that the owner sends to every contributor of a row. -/
def State.releaseRow (s : State) (t pipe : Nat) (side : Bool) (msg : BitVec 256) (b : BitVec 512) (e : RsEntry) (sum : Row) :
    State :=
  (bContribs b).foldl (fun (v : State) f => v.sendRs t pipe side f (mkRs 1 0 (rsEntry msg) (rsEpoch msg) e.amax e.max
    (partialSum sum (bExpected b) 0) (partialSum sum (bExpected b) 1))) s

section
variable {s s1 : State} {t pipe : Nat} {side : Bool} {msg : BitVec 256}

/-- A contribution in its place, at a row that can be read and written: the entry and the partial sums take it, and the last
expected one releases the row. -/
theorem exec_rstatContributionReceive {b : BitVec 512} {n k row : Nat} {x : State × Nat × Row} {y : State × Nat}
    (ha : s.awake = true) (hkind : rsKind msg = 0) (htake : s.takeRs ⟨t, pipe, side, msg⟩ = some s1)
    (hold : (s1.tile t).holds (rsEpoch msg) = true) (hlive : s1.epochLive (rsEpoch msg) = true)
    (hown : (s1.owned t pipe side (rsEpoch msg)).find?
      (fun x => decide (bRsBase x.1 ≤ rsEntry msg) && decide (rsEntry msg < bRsBase x.1 + x.2)) = some (b, n))
    (hblk : rsBlock msg < bExpected b) (hk : k = (s1.tile t).half (rsEpoch msg) * 4096 + rsEntry msg)
    (hnew : (SMap.get RsEntry.idle (s1.tile t).rstats k).bitmap.getLsbD (rsBlock msg) = false)
    (hrow : row = bPsum b + (rsEntry msg - bRsBase b))
    (hwin : (s1.hosts t).any (fun h => h.1 == pipe && h.2.1 == side &&
      ((s1.pipe pipe).stage h.2.2).any (fun sg => sg.inWindow row 1)) = true)
    (hfill : s1.rowFilling t row = false) (hx : x = s1.inkRead t row rqVector (some (rsEpoch msg, pipe))) (hx0 : x.2.1 = 0)
    (hy : y = x.1.inkWrite t row rqVector (contribRow x.2.2 msg)) (hy0 : y.2 = 0) :
    exec (.rstatContributionReceive t pipe side msg) s = .next (
      let r := (SMap.get RsEntry.idle (s1.tile t).rstats k).joined msg
      let u := y.1.setTile t { y.1.tile t with rstats := SMap.set RsEntry.idle (y.1.tile t).rstats k r }
      if ((upTo 64).filter (fun i => r.bitmap.getLsbD i)).length = bExpected b then
        u.releaseRow t pipe side msg b r (contribRow x.2.2 msg)
      else u) := by
  subst hk hrow hx hy
  refine attempt_some ?_
  rw [if_pos ⟨ha, hkind⟩, htake]
  simp only [hold, hlive, hown, hnew, hwin, hfill, hx0, hblk.not_ge, Bool.not_true, Bool.false_eq_true, or_self, if_false,
    ne_eq, not_true_eq_false]
  refine (if_neg (not_not.mpr hy0)).trans ?_
  exact (apply_ite some _ _ _).symm

/-! ## A release at a contributor (R184, R189) -/

/-- The entry of a run's row is released with the values of the message, and the row waits for its settle. -/
theorem exec_rstatReleaseReceive {r : Run} (ha : s.awake = true) (hkind : rsKind msg = 1)
    (htake : s.takeRs ⟨t, pipe, side, msg⟩ = some s1)
    (hrun : (s1.tile t).runs.find? (fun r => r.step.epoch == rsEpoch msg && r.step.pipe == pipe && r.step.side == side &&
      r.rowMode && r.bind.any (fun b => decide (bRsBase b ≤ rsEntry msg) && decide (rsEntry msg < bRsBase b + r.rows))) =
      some r) :
    exec (.rstatReleaseReceive t pipe side msg) s = .next (
      let k := (s1.tile t).half (rsEpoch msg) * 4096 + rsEntry msg
      let new := { SMap.get RsEntry.idle (s1.tile t).rstats k with
        state := .released, amax := rsVal msg 0, max := rsVal msg 1, sum := rsVal msg 2, sumsq := rsVal msg 3 }
      (s1.setTile t { s1.tile t with rstats := SMap.set RsEntry.idle (s1.tile t).rstats k new }).setRun t
        { r with settleQ := r.settleQ ++ [rsEntry msg - r.bind.elim 0 bRsBase] }) := by
  refine attempt_some ?_
  rw [if_pos ⟨ha, hkind⟩, htake]
  simp only [hrun]

end

/-! ## The nib registers (R194) -/

section
variable {s : State} {rq : Requester} {t : Nat}

theorem nibMemWrite_idle (h : (s.tile t).residents.isEmpty = true) (k : Nat) (v : B32) :
    s.nibMemWrite t k v = s.setReg k v := if_pos h

theorem exec_nibMemWrite {i : Nat} {high : Bool} (v : B32) (ha : s.awake = true) (ht : t < 80) (hi : i < 512)
    (hq : regAllowed rq true (kTil t (0x1000 + 8 * i + 4 * b2n high)) = true) :
    exec (.nibMemWrite rq t i high v) s = .next (s.nibMemWrite t (kTil t (0x1000 + 8 * i + 4 * b2n high)) v) :=
  attempt_guardReg ⟨ha, ht, hi⟩ hq s _

theorem exec_nibCntClear (ha : s.awake = true) (ht : t < 80) (hq : regAllowed rq true (kTil t 0x510) = true) :
    exec (.nibCntClear rq t) s = .next (s.setReg (kTil t 0x508) 0) :=
  attempt_guardReg ⟨ha, ht⟩ hq s _

end

/-- Settles O34: the two messages by the conditions of their receipt, the registers by their guarded write. -/
theorem rowStatAndNibMemoryCommandsComplete : Obligations.RowStatAndNibMemoryCommandsComplete := by
  unfold Obligations.RowStatAndNibMemoryCommandsComplete
  refine ⟨?contribution, ?release, ?memWrite, ?cntClear⟩
  case contribution =>
    intro s t pipe side msg s1 b n k x sum y ha hkind htake hold hlive hown hblk hk hnew hwin hfill hx hx0 hsum hy hy0
    subst hsum
    exact exec_rstatContributionReceive ha hkind htake hold hlive hown hblk hk hnew rfl hwin hfill hx hx0 hy hy0
  case release => exact fun s t pipe side msg s1 r ha hkind htake hrun => exec_rstatReleaseReceive ha hkind htake hrun
  case memWrite =>
    intro s rq t i high v ha ht hi hidle hq
    rw [exec_nibMemWrite v ha ht hi hq, nibMemWrite_idle hidle]
  case cntClear => exact fun s rq t ha ht hq => exec_nibCntClear ha ht hq

end Sys2Proof.Machine
end

section
/-!
PROOFS. The commands of the convolution engines: the start of a step on an open Stem engine or Spectral unit, its completion
and the clears of the counters. The two engines differ in their checks, their relocation and their run.
-/
namespace Sys2Proof.Machine

/-! ## A Stem step (R199, R206, R208) -/

section
variable {s : State} {st : StepRef} {p : Pipe} {sg : Stage} {sp : Step} {b : PipeBind} {u : Nat} {r : EngineRun}

/-- The Stem engine of a startable step opens to it when it runs nothing and no older epoch's step is ready on it. -/
theorem stemOpen_free (h : s.engineStep st .stem kStem = some (p, sg, sp, b)) (hu : b.stemOf st.side sg.unit = some u)
    (hr : (s.stem u).run.isSome = false)
    (ho : s.olderOnEngine st .stem kStem (fun b sd x => b.stemOf sd x.unit == some u) = false) :
    s.stemOpen st = s.stemStart st p sg sp u := by
  unfold State.stemOpen
  simp only [h, hu]
  exact if_neg (by rw [hr, ho]; decide)

/-- A step of a cold-start section that the epoch skips begins and ends at once; the engine stays free. -/
theorem stemStart_skipped (hk : s.skips st = true) :
    s.stemStart st p sg sp u = some ((s.beginStep st).finishStep st) := if_pos hk

/-- A relocated descriptor that passes its checks, and touches no page being copied, runs on the engine. -/
theorem stemStart_checked (hk : s.skips st = false)
    (hc : checkStem (((s.beginStep st).markCold st).stemReloc p st sp) (p.inGrant st.stage sg st.side) = none)
    (hb : s.stemBusy (((s.beginStep st).markCold st).stemReloc p st sp) = false) :
    s.stemStart st p sg sp u =
      some (((s.beginStep st).markCold st).stemRun st u (((s.beginStep st).markCold st).stemReloc p st sp)) := by
  unfold State.stemStart
  simp only [hk, hc, hb, Bool.false_eq_true, if_false]

/-- A start whose descriptor is read with good parity, or that reads none, answers what the open engine gives. -/
theorem exec_stemStepStart {w : Bool} {v : State} (hd : s.readDesc ⟨st, w⟩ (s.stemOpen st) = s.stemOpen st)
    (h : s.stemOpen st = some v) : exec (.stemStepStart ⟨st, w⟩) s = .next v :=
  attempt_some (hd.trans h)

theorem exec_stemStepComplete (hst : s.stepOf st = some (p, sg, sp))
    (hu : p.bind.bind (fun b => b.stemOf st.side sg.unit) = some u) (hr : (s.stem u).run = some r)
    (ha : s.awake = true) (hk : sg.kind = .stem) (hs : r.step = st) :
    exec (.stemStepComplete st) s = .next
      (((s.setStem u (Engine.idle u)).stageCount st.epoch (r.counts ++ s.waitCycles (kStm u 0x20))).finishStep st) := by
  refine attempt_some ?_
  simp only [hst, hu, hr]
  exact if_pos ⟨ha, hk, hs⟩

theorem exec_stmCntClear {rq : Requester} (ha : s.awake = true) (hu : u < 8)
    (hq : regAllowed rq true (kStm u 0xC) = true) :
    exec (.stmCntClear rq u) s = .next (s.clearRegs (kStm u 0x10) 9) :=
  attempt_guardReg ⟨ha, hu⟩ hq s _

end

/-! ## A Spectral step (R211, R217, R222) -/

section
variable {s : State} {st : StepRef} {p : Pipe} {sg : Stage} {sp : Step} {b : PipeBind} {u : Nat} {r : EngineRun}

/-- The Spectral unit of a startable step opens to it when it runs nothing and no older epoch's step is ready on it. -/
theorem spcOpen_free (h : s.engineStep st .spectral kSpectral = some (p, sg, sp, b))
    (hu : b.spcOf st.side sg.unit = some u) (hr : (s.spc u).run.isSome = false)
    (ho : s.olderOnEngine st .spectral kSpectral (fun b sd x => b.spcOf sd x.unit == some u) = false) :
    s.spcOpen st = s.spcStart st p sg sp u := by
  unfold State.spcOpen
  simp only [h, hu]
  exact if_neg (by rw [hr, ho]; decide)

/-- A step of a cold-start section that the epoch skips begins and ends at once; the unit stays free. -/
theorem spcStart_skipped (hk : s.skips st = true) :
    s.spcStart st p sg sp u = some ((s.beginStep st).finishStep st) := if_pos hk

/-- A relocated descriptor that passes its checks, and touches no page being copied, runs on the unit. -/
theorem spcStart_checked (hk : s.skips st = false)
    (hc : checkSpc (((s.beginStep st).markCold st).spcReloc p st sp) (p.inGrant st.stage sg st.side) = none)
    (hb : s.spcBusy (((s.beginStep st).markCold st).spcReloc p st sp) = false) :
    s.spcStart st p sg sp u =
      some (((s.beginStep st).markCold st).spcRun st u (((s.beginStep st).markCold st).spcReloc p st sp)) := by
  unfold State.spcStart
  simp only [hk, hc, hb, Bool.false_eq_true, if_false]

/-- A start whose descriptor is read with good parity, or that reads none, answers what the open unit gives. -/
theorem exec_spectralStepStart {w : Bool} {v : State} (hd : s.readDesc ⟨st, w⟩ (s.spcOpen st) = s.spcOpen st)
    (h : s.spcOpen st = some v) : exec (.spectralStepStart ⟨st, w⟩) s = .next v :=
  attempt_some (hd.trans h)

theorem exec_spectralStepComplete (hst : s.stepOf st = some (p, sg, sp))
    (hu : p.bind.bind (fun b => b.spcOf st.side sg.unit) = some u) (hr : (s.spc u).run = some r)
    (ha : s.awake = true) (hk : sg.kind = .spectral) (hs : r.step = st) :
    exec (.spectralStepComplete st) s = .next
      (((s.setSpc u (Engine.idle u)).stageCount st.epoch (r.counts ++ s.waitCycles (kSpc u 0x20))).finishStep st) := by
  refine attempt_some ?_
  simp only [hst, hu, hr]
  exact if_pos ⟨ha, hk, hs⟩

theorem exec_spcCntClear {rq : Requester} (ha : s.awake = true) (hu : u < 4)
    (hq : regAllowed rq true (kSpc u 0xC) = true) :
    exec (.spcCntClear rq u) s = .next ((s.setReg (kSpc u 0x10) 0).clearRegs (kSpc u 0x20) 5) :=
  attempt_guardReg ⟨ha, hu⟩ hq s _

end

/-- Settles O35: a start is what its open engine answers, run or skipped; a completion and a clear meet their conditions. -/
theorem engineCommandsComplete : Obligations.EngineCommandsComplete := by
  unfold Obligations.EngineCommandsComplete
  refine ⟨?stemRuns, ?stemEnds, ?stemSkipped, ?spcRuns, ?spcEnds, ?spcSkipped, ?stemClear, ?spcClear⟩
  case stemRuns =>
    exact fun s st p sg sp b u h hu hr ho hk hc hb =>
      exec_stemStepStart (readDesc_good ..) ((stemOpen_free h hu hr ho).trans (stemStart_checked hk hc hb))
  case stemEnds => exact fun s st p sg sp u r hst hu hr ha hk hs => exec_stemStepComplete hst hu hr ha hk hs
  case stemSkipped =>
    exact fun s st w p sg sp b u h hu hr ho hk =>
      exec_stemStepStart (readDesc_skipped w hk _) ((stemOpen_free h hu hr ho).trans (stemStart_skipped hk))
  case spcRuns =>
    exact fun s st p sg sp b u h hu hr ho hk hc hb =>
      exec_spectralStepStart (readDesc_good ..) ((spcOpen_free h hu hr ho).trans (spcStart_checked hk hc hb))
  case spcEnds => exact fun s st p sg sp u r hst hu hr ha hk hs => exec_spectralStepComplete hst hu hr ha hk hs
  case spcSkipped =>
    exact fun s st w p sg sp b u h hu hr ho hk =>
      exec_spectralStepStart (readDesc_skipped w hk _) ((spcOpen_free h hu hr ho).trans (spcStart_skipped hk))
  case stemClear => exact fun s rq u ha hu hq => exec_stmCntClear ha hu hq
  case spcClear => exact fun s rq u ha hu hq => exec_spcCntClear ha hu hq

end Sys2Proof.Machine
end

section
/-!
PROOFS. The flow-control words (R230, R240, R241, R254, R255): a SIGNAL step on each kind of unit, and what a word in flight
does when it arrives, with good parity and with failing parity.
-/
namespace Sys2Proof.Machine

/-! ## A SIGNAL step (R230) -/

section
variable {s : State} {st : StepRef} {p : Pipe} {sg : Stage} {sp : Step} {x : Pipe × Stage × Step × PipeBind}

theorem exec_signalStepStart_tile (hst : s.stepOf st = some (p, sg, sp)) (hk : sg.kind = .tile)
    (ht : (s.tileStep st kSignal).isSome = true) :
    exec (.signalStepStart st) s = .next
      ((if (s.beginStep st).skips st then s.beginStep st else (s.beginStep st).markCold st).finishStep st) := by
  refine attempt_some ?_
  simp only [hst, hk]
  exact if_pos ht

theorem exec_signalStepStart_stem (hst : s.stepOf st = some (p, sg, sp)) (hk : sg.kind = .stem)
    (he : s.engineStep st .stem kSignal = some x)
    (ho : s.olderOnEngine st .stem kSignal (fun b sd y => b.stemOf sd y.unit == x.2.2.2.stemOf st.side sg.unit) = false) :
    exec (.signalStepStart st) s = .next
      ((if (s.beginStep st).skips st then s.beginStep st else (s.beginStep st).markCold st).finishStep st) := by
  refine attempt_some ?_
  simp only [hst, hk, he, Option.any_some, ho]
  rfl

theorem exec_signalStepStart_spectral (hst : s.stepOf st = some (p, sg, sp)) (hk : sg.kind = .spectral)
    (he : s.engineStep st .spectral kSignal = some x)
    (ho : s.olderOnEngine st .spectral kSignal (fun b sd y => b.spcOf sd y.unit == x.2.2.2.spcOf st.side sg.unit) = false) :
    exec (.signalStepStart st) s = .next
      ((if (s.beginStep st).skips st then s.beginStep st else (s.beginStep st).markCold st).finishStep st) := by
  refine attempt_some ?_
  simp only [hst, hk, he, Option.any_some, ho]
  rfl

end

/-! ## Words to a unit (R240, R241, R244, R254) -/

section
variable {s : State} {p : Pipe} {stage : Nat} {side : Bool} {w : B64} {f : Flight} {par : Parity}

/-- A word is received on an awake device whose tile for it is not being copied. -/
theorem unit_receives (ha : s.awake = true) (hm : s.unitMoves p stage side = false) :
    ¬ (!s.awake || s.unitMoves p stage side) = true := by
  rw [ha, hm]
  decide

theorem exec_tokenReceive_faulty (hf : s.flightOf w wToken = some f) (ha : s.awake = true)
    (hm : s.unitMoves (s.pipe (wPipe w)) f.stage (wSide w) = false) (hpar : par ≠ .good) :
    exec (.tokenReceive w par) s = .next
      ((s.takeFlight f).parityFault (s.unitCode (s.pipe (wPipe w)) f.stage (wSide w)) (wPipe w)
        (parityEnds par (wEpoch w) (s.residentOn (s.pipe (wPipe w)) f.stage (wSide w)))) := by
  refine attempt_some ?_
  simp only [hf]
  refine (if_neg (unit_receives ha hm)).trans ?_
  cases par with
  | good => exact absurd rfl hpar
  | badWord => rfl
  | badEpoch => rfl

theorem exec_creditReceive_faulty (hf : s.flightOf w wCredit = some f) (ha : s.awake = true)
    (hm : s.unitMoves (s.pipe (wPipe w)) f.stage (wSide w) = false) (hpar : par ≠ .good) :
    exec (.creditReceive w par) s = .next
      ((s.takeFlight f).parityFault (s.unitCode (s.pipe (wPipe w)) f.stage (wSide w)) (wPipe w)
        (parityEnds par (wEpoch w) (s.residentOn (s.pipe (wPipe w)) f.stage (wSide w)))) := by
  refine attempt_some ?_
  simp only [hf]
  refine (if_neg (unit_receives ha hm)).trans ?_
  cases par with
  | good => exact absurd rfl hpar
  | badWord => rfl
  | badEpoch => rfl

end

/-! ## REPORT words (R254, R255, R256) -/

section
variable {s s1 : State} {w : B64} {f : Flight} {par : Parity} {e : B32} {r : Epoch}

theorem homeReport_ok (ha : f.ack = false) (hs : wSlot f.word = 0) :
    s.homeReport e r f = ((s.setEpoch e { r with
      oks := if r.oks.contains (wSide f.word, wEdge f.word) then r.oks else r.oks ++ [(wSide f.word, wEdge f.word)] }).checkStaged
        e).tryEnd e := by
  unfold State.homeReport
  rw [if_neg (by rw [ha]; decide), if_pos hs]

theorem homeReport_failing (ha : f.ack = false) (hs : wSlot f.word ≠ 0) :
    s.homeReport e r f = s.endCause e (if isFault (wSlot f.word) then 1 else 2) := by
  unfold State.homeReport
  rw [if_neg (by rw [ha]; decide), if_neg hs]

theorem homeReport_ack (ha : f.ack = true) (hr : r.state = .ending) :
    s.homeReport e r f = s.countAck e r (wSide f.word, wEdge f.word) := by
  unfold State.homeReport
  rw [if_pos ha, if_pos hr]

/-- A good report, and an acknowledgement of any parity, reaches the record of its epoch at the commit unit. -/
theorem exec_reportReceive_home (hf : s.flightOf w wReport = some f) (ha : s.awake = true)
    (hs : s1 = if par = .good then s.takeFlight f else
      (s.takeFlight f).parityFault 0x8000 (wPipe w) (parityEnds par (wEpoch w) (s.takeFlight f).residentHere))
    (hpar : par = .good ∨ f.ack = true) (hh : (s.pipe (wPipe w)).hosted s.boot.dev = false)
    (hr : (s1.epochRec (wEpoch w)).filter (fun r => r.pipe == wPipe w) = some r) :
    exec (.reportReceive ⟨w, par⟩) s = .next (s1.homeReport (wEpoch w) r f) := by
  have hlate : ¬ (par ≠ .good ∧ (!f.ack) = true) := by
    rintro ⟨hbad, hack⟩
    rcases hpar with hgood | hacked
    · exact hbad hgood
    · exact absurd hack (by rw [hacked]; decide)
  refine attempt_some ?_
  simp only [hf, ha, Bool.not_true, Bool.false_eq_true, if_false, ← hs, if_neg hlate, hr, hh]

/-- A good report of a device that hosts a part of the pipeline goes on from it. -/
theorem exec_reportReceive_hosted (hf : s.flightOf w wReport = some f) (ha : s.awake = true)
    (hh : (s.pipe (wPipe w)).hosted s.boot.dev = true)
    (hr : ((s.takeFlight f).epochRec (wEpoch w)).filter (fun r => r.pipe == wPipe w) = some r) :
    exec (.reportReceive ⟨w, .good⟩) s = .next ((s.takeFlight f).hostReport (s.pipe (wPipe w)) (wEpoch w) r f) := by
  refine attempt_some ?_
  simp only [hf, ha, Bool.not_true, Bool.false_eq_true, if_false, if_true, ne_eq, not_true_eq_false, false_and, hr, hh]

/-- A report with failing parity that is no acknowledgement has no effect but its fault. -/
theorem exec_reportReceive_faulty (hf : s.flightOf w wReport = some f) (ha : s.awake = true) (hack : f.ack = false)
    (hpar : par ≠ .good) :
    exec (.reportReceive ⟨w, par⟩) s = .next
      ((s.takeFlight f).parityFault 0x8000 (wPipe w) (parityEnds par (wEpoch w) (s.takeFlight f).residentHere)) := by
  refine attempt_some ?_
  simp only [hf, ha, hack, Bool.not_true, Bool.false_eq_true, if_false, if_neg hpar]
  exact if_pos ⟨hpar, rfl⟩

end

/-- Settles O36: the SIGNAL step by the kind of its unit; each word by its parity, a report also by the device it reaches. -/
theorem flowWordCommandsComplete : Obligations.FlowWordCommandsComplete := by
  unfold Obligations.FlowWordCommandsComplete
  refine ⟨?signalTile, ?signalStem, ?signalSpectral, ?tokenBadWord, ?creditBadWord, ?tokenBadEpoch, ?creditBadEpoch,
    ?token, ?credit, ?withdraw, ?withdrawBadWord, ?withdrawBadEpoch, ?reportOk, ?reportFailing, ?ack, ?ackBadWord,
    ?ackBadEpoch, ?reportBadWord, ?reportBadEpoch, ?reportHosted⟩
  case signalTile => exact fun s st p sg sp hst hk ht => exec_signalStepStart_tile hst hk ht
  case signalStem => exact fun s st p sg sp x hst hk he ho => exec_signalStepStart_stem hst hk he ho
  case signalSpectral => exact fun s st p sg sp x hst hk he ho => exec_signalStepStart_spectral hst hk he ho
  case tokenBadWord | tokenBadEpoch => exact fun s w f hf ha hm => exec_tokenReceive_faulty hf ha hm (by decide)
  case creditBadWord | creditBadEpoch => exact fun s w f hf ha hm => exec_creditReceive_faulty hf ha hm (by decide)
  case token =>
    intro s w f hf ha hm hh hn
    refine attempt_some ?_
    simp only [hf]
    refine (if_neg (unit_receives ha hm)).trans (if_neg ?_)
    rw [hh, hn]
    decide
  case credit =>
    intro s w f hf ha hm
    refine attempt_some ?_
    simp only [hf]
    exact if_neg (unit_receives ha hm)
  case withdraw | withdrawBadWord | withdrawBadEpoch =>
    intro s stage w f hf ha hm
    refine attempt_some ?_
    simp only [hf]
    exact if_neg (unit_receives ha hm)
  case reportOk =>
    intro s w f r hf ha hh hr hack hs hw
    rw [exec_reportReceive_home hf ha rfl (.inl rfl) hh hr, homeReport_ok hack (hw ▸ hs), hw]
    rfl
  case reportFailing =>
    intro s w f r hf ha hh hr hack hs hw
    rw [exec_reportReceive_home hf ha rfl (.inl rfl) hh hr, homeReport_failing hack (hw ▸ hs), hw]
    rfl
  case ack | ackBadWord | ackBadEpoch =>
    intro s w f s1 r hf ha hs hh hr hack hw hend
    rw [exec_reportReceive_home hf ha hs (.inr hack) hh hr, homeReport_ack hack hend, hw]
    rfl
  case reportBadWord | reportBadEpoch => exact fun s w f hf ha hack => exec_reportReceive_faulty hf ha hack (by decide)
  case reportHosted => exact fun s w f r hf ha hh hr => exec_reportReceive_hosted hf ha hh hr

end Sys2Proof.Machine
end

section
/-!
PROOFS. Epochs (R246, R247, R251, R259, R261): the admission of an item, complete or to be written into its windows, the commit
of a staged epoch, the items and checkpoints that arrive from a twin, and the comparator.
-/
namespace Sys2Proof.Machine

/-! ## Admission (R246) -/

section
variable {s : State} {pipe port : Nat} {t : SrcTok} {ts : List SrcTok}

/-- An item whose bytes stand in the windows already is admitted with them. -/
theorem exec_epochAdmit_written (hmay : s.mayAdmit pipe = true) (hr : s.readyPort pipe = some (port, t, ts))
    (hw : s.admitWaits pipe port t = false) (hitem : t.head.isEmpty = true ∧ t.segs.isEmpty = true)
    (hb : (s.itemBytes pipe t).2.1 = 0) :
    exec (.epochAdmit pipe) s = .next
      ((({ (s.itemBytes pipe t).1 with commit := { (s.itemBytes pipe t).1.commit with
          srcq := SMap.set noToks (s.itemBytes pipe t).1.commit.srcq (pipe * 8 + port) ts } } : State).admitItem
            pipe port t).forwardItem pipe port s.commit.next (s.itemBytes pipe t).2.2) := by
  refine attempt_some ((if_pos hmay).trans ?_)
  simp only [hr, hw, hitem, hb, and_self, Bool.false_eq_true, if_false, if_true, ne_eq, not_true_eq_false]

/-- An item from a ring is gathered, written into free windows that hold it, and admitted. -/
theorem exec_epochAdmit_gathered {slots : List (Bool × Nat × Nat)} (hmay : s.mayAdmit pipe = true)
    (hr : s.readyPort pipe = some (port, t, ts)) (hw : s.admitWaits pipe port t = false)
    (hitem : ¬ (t.head.isEmpty = true ∧ t.segs.isEmpty = true)) (hs : s.sourceSlots pipe port = some slots)
    (hg : (s.gather t).2.1 = 0) (hlen : (s.gather t).2.2.length ≤ s.sourceBytes pipe port)
    (hwr : (((s.gather t).1.fillSlots pipe slots).writeSlots pipe slots (s.gather t).2.2).2 = 0) :
    exec (.epochAdmit pipe) s = .next
      (let w := ((s.gather t).1.fillSlots pipe slots).writeSlots pipe slots (s.gather t).2.2
       let u : State := { w.1 with commit := { w.1.commit with srcq := SMap.set noToks w.1.commit.srcq (pipe * 8 + port) ts } }
       (u.admitItem pipe port { t with slots := slots }).forwardItem pipe port s.commit.next (s.gather t).2.2) := by
  refine attempt_some ((if_pos hmay).trans ?_)
  simp only [hr, hw, if_neg hitem, hs, hg, hwr, if_neg (Nat.not_lt.mpr hlen), Bool.false_eq_true, if_false, ne_eq,
    not_true_eq_false]

end

/-! ## Commit (R251) -/

section
variable {s : State} {e : B32} {r : Epoch} {x : State × Nat}

theorem exec_epochCommit (hr : s.epochRec e = some r) (ha : s.awake = true) (hmay : s.mayCommit e r = true)
    (hfirst : s.firstStaged e r = true)
    (hwait : ((s.pipe r.pipe).sides.contains false && s.sinksWait (s.pipe r.pipe) r.pipe e) = false)
    (hx : x = if (s.pipe r.pipe).sides.contains false then s.readSinks (s.pipe r.pipe) r.pipe e else (s, 0)) :
    exec (.epochCommit e) s = .next
      (if x.2 = 0 then x.1.commitEpoch e r else x.1.endCause e (if isFault x.2 then 1 else 2)) := by
  refine attempt_some ?_
  subst hx
  simp only [hr]
  exact if_pos ⟨ha, hmay, hfirst, by rw [hwait]; rfl⟩

end

/-! ## Items and checkpoints from a twin (R247, R259) -/

section
variable {s : State} {pipe : Nat} {m : LnkMsg} {slots : List (Bool × Nat × Nat)} {b : PipeBind} {u : State × Sample}

/-- A whole item of a running pipeline is written into its windows and waits for its epoch. -/
theorem exec_sourceReceive (ha : s.awake = true) (hp : srcPipe m = pipe) (hfly : s.commit.srcFly.contains m = true)
    (hb : (s.pipe pipe).bound = true) (hs : s.sourceSlots pipe (srcPort m) = some slots) (hbind : (s.pipe pipe).bind = some b)
    (hrun : (s.pipe pipe).stopped = false)
    (hwait : s.slotsWait pipe slots (SMap.get noBytes s.commit.srcPart (partKey m)).length = false)
    (hu : u = (({ s with commit := { s.commit with
        srcFly := s.commit.srcFly.erase m
        srcPart := SMap.set noBytes s.commit.srcPart (partKey m) [] } } : State).twinSample
        ((b.sources[srcPort m]?).elim .none (·.kind)) (SMap.get noBytes s.commit.srcPart (partKey m))))
    (hwr : ((u.1.fillSlots pipe slots).writeSlots pipe slots (SMap.get noBytes s.commit.srcPart (partKey m))).2 = 0) :
    exec (.sourceReceive pipe m) s = .next
      (((u.1.fillSlots pipe slots).writeSlots pipe slots (SMap.get noBytes s.commit.srcPart (partKey m))).1.pushSource pipe
        (srcPort m) ⟨slots, u.2, [], [], (SMap.get noBytes s.commit.srcPart (partKey m)).length,
          some (BitVec.ofNat 32 (mTag m))⟩) := by
  subst hu
  refine attempt_some ((if_pos ⟨ha, hp, hfly, hb⟩).trans ?_)
  simp only [hs, hbind, hrun, hwait, hwr, Bool.false_eq_true, if_false, ne_eq, not_true_eq_false]

end

/-- A checkpoint of a live epoch is added to the epoch's checkpoints, whether it came from a tile or over the link. -/
theorem exec_checkpointReceive {s s1 : State} {x : BitVec 128} {m : CkMsg} {e : B32} {r : Epoch}
    (hm : s.commit.ckFly.find? (fun m => m.bits == x) = some m) (ha : s.awake = true)
    (hs : s1 = ({ s with commit := { s.commit with ckFly := s.commit.ckFly.erase m } } : State))
    (he : s1.ckptEpoch m = some e) (hr : s1.epochRec e = some r) (hl : s1.epochLive e = true) :
    exec (.checkpointReceive x) s = .next
      (s1.setEpoch e { r with
        peer := if m.tile = 0x7F then some (ckEpoch x) else r.peer
        ckpts := r.ckpts ++ [(⟨ckSide x, ckStage x, ckStep x, ckCrc x, s.elapsed.toNat, m.tile⟩ : Ckpt)] }) := by
  refine attempt_some ?_
  simp only [hm, ha, ← hs, he, hr, hl, Bool.not_true, Bool.false_eq_true, if_false]

/-! ## The comparator (R259, R261) -/

section
variable {s : State} {pipe stage step : Nat} {e : B32} {r : Epoch} {a b : Ckpt}

/-- Two checkpoints of one step, one from each side: equal CRCs leave the record, different ones are a twin fault. -/
theorem exec_twinDecide (hr : s.epochRec e = some r) (hA : (r.ckptsAt stage step).find? (fun c => !c.side) = some a)
    (hB : (r.ckptsAt stage step).find? (fun c => c.side) = some b) (ha : s.awake = true) (hp : r.pipe = pipe) :
    exec (.twinDecide pipe e stage step) s = .next
      (if a.crc = b.crc then s.setEpoch e { r with ckpts := (r.ckpts.erase a).erase b }
        else s.twinFault pipe e stage step false) := by
  refine attempt_some ?_
  simp only [hr, hA, hB]
  exact if_pos ⟨ha, hp⟩

theorem exec_twinTimeout (hr : s.epochRec e = some r) (hA : r.ckptsAt stage step = [a]) (ha : s.awake = true)
    (hp : r.pipe = pipe) (ht : a.at_ + usTicks 76 ≤ s.elapsed.toNat) :
    exec (.twinTimeout pipe e stage step) s = .next (s.twinFault pipe e stage step true) := by
  refine attempt_some ?_
  simp only [hr, hA]
  exact if_pos ⟨ha, hp, ht⟩

end

/-- Settles O37: an admission by where its item's bytes stand, the other commands by the conditions of their receipt. -/
theorem epochCommandsComplete : Obligations.EpochCommandsComplete := by
  unfold Obligations.EpochCommandsComplete
  refine ⟨?written, ?gathered, ?commit, ?source, ?checkpoint, ?agree, ?differ, ?timeout⟩
  case written =>
    exact fun s pipe port t ts hmay hr hw hhead hsegs hb => exec_epochAdmit_written hmay hr hw ⟨hhead, hsegs⟩ hb
  case gathered =>
    exact fun s pipe port t ts slots hmay hr hw hitem hs hg hlen hwr =>
      exec_epochAdmit_gathered hmay hr hw hitem hs hg hlen hwr
  case commit => exact fun s e r x hr ha hmay hfirst hwait hx => exec_epochCommit hr ha hmay hfirst hwait hx
  case source =>
    exact fun s pipe m slots b u ha hp hfly hb hs hbind hrun hwait hu hwr =>
      exec_sourceReceive ha hp hfly hb hs hbind hrun hwait hu hwr
  case checkpoint => exact fun s x m e r hm ha he hr hl => exec_checkpointReceive hm ha rfl he hr hl
  case agree =>
    intro s pipe e stage step r a b hr hA hB ha hp hcrc
    rw [exec_twinDecide hr hA hB ha hp, if_pos hcrc]
  case differ =>
    intro s pipe e stage step r a b hr hA hB ha hp hcrc
    rw [exec_twinDecide hr hA hB ha hp, if_neg hcrc]
  case timeout => exact fun s pipe e stage step r a hr hA ha hp ht => exec_twinTimeout hr hA ha hp ht

end Sys2Proof.Machine
end

section
/-!
PROOFS. The books of a cluster (R263, R264, R265, R268, R518): each command acts on a cluster that serves, and the snapshot is
a guarded register write.
-/
namespace Sys2Proof.Machine

section
variable {s : State} {c : Nat}

theorem exec_bookAudit (hs : s.serving = true) (hc : c < 8) (hrun : s.auditsRun = true) (ha : (s.cluster c).audit = true) :
    exec (.bookAudit c) s = .next ((s.setCluster c { s.cluster c with audit := false }).auditPass c) :=
  attempt_some (if_pos ⟨hs, hc, hrun, ha⟩)

theorem exec_bookReread (hs : s.serving = true) (hc : c < 8) (hrun : s.auditsRun = true)
    (hr : (s.rereads c).isEmpty = false) : exec (.bookReread c) s = .next (s.lookAt c (s.rereads c)) :=
  attempt_some (if_pos ⟨hs, hc, hrun, by rw [hr]; rfl⟩)

/-- The relation that is due is marked as raised at this time, and its fault is reported. -/
theorem exec_bookImbalance {f : Found} (hs : s.serving = true) (hc : c < 8) (hrun : s.auditsRun = true)
    (hf : s.dueRel c = some f) :
    exec (.bookImbalance c) s = .next
      ((s.setCluster c { s.cluster c with failing := (s.cluster c).failing.map (fun x =>
        if x.rel = f.rel then { x with raised := some (s.elapsed.toNat, s.safety.nextSeq) } else x) }).imbalance f.rel) := by
  refine attempt_some ((if_pos ⟨hs, hc, hrun⟩).trans ?_)
  rw [hf]
  rfl

theorem exec_bookSnap {rq : Requester} {t : Nat} (ha : s.awake = true) (ht : t < 80)
    (hq : regAllowed rq true (kTil t 0x614) = true) : exec (.bookSnap rq t) s = .next (s.bookSnap t) :=
  attempt_guardReg ⟨ha, ht⟩ hq s _

/-- The relations that can be restored are, those that are late for it fail, and the cluster is audited again. -/
theorem exec_bookRestore {late rs : List Found} (hs : s.serving = true) (hc : c < 8) (hfw : s.fwServes = true)
    (hlate : late = (s.cluster c).failing.filter s.restoreLate)
    (hrs : rs = (s.cluster c).failing.filter (fun f => s.restorable f && !(s.restoreLate f)))
    (hsome : ¬ (late.isEmpty = true ∧ rs.isEmpty = true)) :
    exec (.bookRestore c) s = .next
      (let u := rs.foldl (fun (u : State) f => u.restoreRel f.rel) s
       let v := s.byCode (late.foldl (fun (v : State) f => v.restoreFail f) u)
       v.setCluster c { v.cluster c with
         failing := (v.cluster c).failing.filter (fun f => !(late.contains f)), audit := true }) := by
  subst hlate hrs
  exact attempt_some ((if_pos ⟨hs, hc, hfw⟩).trans (if_neg hsome))

end

/-- Settles O38: each command of the books by the conditions under which it acts. -/
theorem bookCommandsComplete : Obligations.BookCommandsComplete := by
  unfold Obligations.BookCommandsComplete
  refine ⟨?audit, ?reread, ?imbalance, ?snap, ?restore⟩
  case audit => exact fun s c hs hc hrun ha => exec_bookAudit hs hc hrun ha
  case reread => exact fun s c hs hc hrun hr => exec_bookReread hs hc hrun hr
  case imbalance => exact fun s c f hs hc hrun hf => exec_bookImbalance hs hc hrun hf
  case snap => exact fun s rq t ha ht hq => exec_bookSnap ha ht hq
  case restore => exact fun s c late rs hs hc hfw hlate hrs hsome => exec_bookRestore hs hc hfw hlate hrs hsome

end Sys2Proof.Machine
end

section
/-!
PROOFS. The messages of a link for this device that carry flow-control words, rows, checkpoints, items, answers and CTRL parts
(R182, R238, R436, R442, R481): each takes its message from the front of a virtual channel of its class and passes it on.
-/
namespace Sys2Proof.Machine

/-! ## The message taken -/

/-- A message at the front of the first virtual channel of its class, or of the second where it does not stand in the
first, is taken from there. -/
theorem takeMsg_front {s u : State} {p kind v freed : Nat} {m : LnkMsg} {rest : List (B64 × Bool)} (ha : s.awake = true)
    (hp : p < 6) (hk : mKind m = kind) (hd : mDst m = s.boot.dev)
    (hv : v = kindVc kind ∨
      (v = kindVc kind + 1 ∧ (frontMsg (SMap.get noRx (s.port p).rxq (kindVc kind))).map (·.1) ≠ some m))
    (hf : frontMsg (SMap.get noRx (s.port p).rxq v) = some (m, rest, freed))
    (hu : u = (s.setRx p v rest freed).forwardAll p v) : s.takeMsg p kind m = some u := by
  have hfront : ((frontMsg (SMap.get noRx (s.port p).rxq v)).map (·.1) == some m) = true := by rw [hf]; exact beq_self_eq_true _
  have hfind : [kindVc kind, kindVc kind + 1].find?
      (fun v => (frontMsg (SMap.get noRx (s.port p).rxq v)).map (·.1) == some m) = some v := by
    rcases hv with rfl | ⟨rfl, hfirst⟩
    · exact List.find?_cons_of_pos hfront
    · refine (List.find?_cons_of_neg ?_).trans (List.find?_cons_of_pos hfront)
      exact fun h => hfirst (eq_of_beq h)
  unfold State.takeMsg
  rw [if_pos ⟨ha, hp, hk, hd⟩]
  simp only [hfind, hf, hu]

/-- A command that acts on the state without its message answers what it makes of that state. -/
theorem attempt_takeMsg {s u : State} {p kind : Nat} {m : LnkMsg} (h : s.takeMsg p kind m = some u) (g : State → State) :
    attempt ((s.takeMsg p kind m).map g) s = .next (g u) := attempt_some (congrArg (Option.map g) h)

/-! ## Answers (R439, R441) -/

theorem responseIn_eq (u : State) (m : LnkMsg) :
    u.responseIn m =
      (let v := u.takeResponse m
       if mHost m = true ∧ mStatus m = 1 ∧ v.isHome = false ∧ v.hostAbsent = false then v.enterAbsent 3 else v) := by
  unfold State.responseIn
  simp only [Bool.not_eq_true']

/-! ## CTRL messages (R442, R481) -/

section
variable {s u w : State} {p : Nat} {m : LnkMsg}

theorem exec_lnkCtrl_data (h : s.takeMsg p 10 m = some u) (ht : mTag m = ctrlData) :
    exec (.lnkCtrl p m) s = .next (u.ctrlDataPart (mSrc m) m.payload) := by
  refine attempt_some ?_
  simp only [h]
  exact if_pos ht

theorem exec_lnkCtrl_request (h : s.takeMsg p 10 m = some u) (ht : mTag m = ctrlRequest)
    (hr : s.guestRun u (mSrc m) (m.payload.take 64) = some w) : exec (.lnkCtrl p m) s = .next w := by
  refine attempt_some ?_
  simp only [h, ht, hr]
  rfl

theorem exec_lnkCtrl_response (h : s.takeMsg p 10 m = some u) (ht : mTag m = ctrlResponse) (hs : s.serving = true)
    (hu : s.updActive = false) : exec (.lnkCtrl p m) s = .next (u.ctrlAnswer (mSrc m) m.payload) := by
  refine attempt_some ?_
  simp only [h, ht, hs, hu]
  rfl

/-- Every CTRL message that is no request, answer or part of a command goes to the unit that its tag names. -/
theorem exec_lnkCtrl_notice (h : s.takeMsg p 10 m = some u) (ht : 2 < mTag m) :
    exec (.lnkCtrl p m) s = .next (u.ctrlNotice m) := by
  have hdata : mTag m ≠ ctrlData := Nat.ne_of_gt ht
  have hrequest : mTag m ≠ ctrlRequest := Nat.ne_of_gt (Nat.zero_lt_of_lt ht)
  have hresponse : mTag m ≠ ctrlResponse := Nat.ne_of_gt (Nat.lt_of_succ_lt ht)
  refine attempt_some ?_
  simp only [h, if_neg hdata, if_neg hrequest, if_neg hresponse]

theorem ctrlHomeAbsent_eq (u : State) (src : Nat) :
    u.ctrlHomeAbsent src =
      if u.isHome = false ∧ src = u.home ∧ u.hostAbsent = false then u.enterAbsent 3 else u := by
  unfold State.ctrlHomeAbsent
  simp only [Bool.not_eq_true']

/-- A tag above the eleven that name a unit names none. -/
theorem ctrlNotice_unnamed (u : State) (ht : 11 < mTag m) : u.ctrlNotice m = u := by
  unfold State.ctrlNotice ctrlEvent ctrlCommit ctrlResident ctrlLayer ctrlBookAsk ctrlBookTell ctrlBookRestore ctrlTwin ctrlAbsent
  iterate 9 rw [if_neg (by omega)]

end

/-- Settles O54: the message is taken from its virtual channel; an answer and a CTRL part then by their conditions. -/
theorem linkFlowAndControlMessagesComplete : Obligations.LinkFlowAndControlMessagesComplete := by
  unfold Obligations.LinkFlowAndControlMessagesComplete
  refine ⟨?flow, ?rstat, ?ckpt, ?source, ?rdata, ?wack, ?data, ?request, ?response, ?event, ?commit, ?resident, ?layer,
    ?bookAsk, ?bookTell, ?bookRestore, ?twin, ?absent, ?unnamed⟩
  case flow | rstat | ckpt | source =>
    exact fun s p v freed m rest u ha hp hk hd hv hf hu => attempt_takeMsg (takeMsg_front ha hp hk hd hv hf hu) _
  case rdata | wack =>
    exact fun s p v freed m rest u ha hp hk hd hv hf hu =>
      (attempt_takeMsg (takeMsg_front ha hp hk hd hv hf hu) _).trans (congrArg _ (responseIn_eq u m))
  case data =>
    exact fun s p v freed m rest u ha hp hk hd hv hf hu ht => exec_lnkCtrl_data (takeMsg_front ha hp hk hd hv hf hu) ht
  case request =>
    exact fun s p v freed m rest u w ha hp hk hd hv hf hu ht hr =>
      exec_lnkCtrl_request (takeMsg_front ha hp hk hd hv hf hu) ht hr
  case response =>
    exact fun s p v freed m rest u ha hp hk hd hv hf hu ht hs hupd =>
      exec_lnkCtrl_response (takeMsg_front ha hp hk hd hv hf hu) ht hs hupd
  case event | commit | resident | layer | bookAsk | bookTell | bookRestore | twin | absent =>
    intro s p v freed m rest u ha hp hk hd hv hf hu ht
    rw [exec_lnkCtrl_notice (takeMsg_front ha hp hk hd hv hf hu) (by rw [ht]; decide)]
    simp only [State.ctrlNotice, ht, ctrlEvent, ctrlCommit, ctrlResident, ctrlLayer, ctrlBookAsk, ctrlBookTell,
      ctrlBookRestore, ctrlTwin, ctrlAbsent, ctrlHomeAbsent_eq, Nat.reduceEqDiff, if_true, if_false]
  case unnamed =>
    intro s p v freed m rest u ha hp hk hd hv hf hu ht
    rw [exec_lnkCtrl_notice (takeMsg_front ha hp hk hd hv hf hu) (by omega), ctrlNotice_unnamed u ht]

end Sys2Proof.Machine
end

section
/-!
PROOFS. Device time (R29, R292, R293, R295): what a TIME cycle does to the two counts on a running, a halted and a standing
device, the register of the increment, and the values that registers hold at reset.
-/
namespace Sys2Proof.Machine

/-! ## The TIME cycle of a device that does not run (R29, R295) -/

section
variable {s : State}

theorem awake_of_halted (h : s.boot.phase = .halted) : s.awake = false := by
  unfold State.awake
  rw [h]

/-- A halted device whose root PLL is locked counts, and does nothing else. -/
theorem tick_halted (h : s.boot.phase = .halted) (hpll : s.bit (kClk 0) 0 = true) : s.tick = s.advance := by
  unfold State.tick
  rw [if_neg (by rw [awake_of_halted h]; exact Bool.false_ne_true), if_pos ⟨h, hpll⟩]

/-- A device without a running clock does not count. -/
theorem tick_standing (ha : s.awake = false) (h : s.boot.phase ≠ .halted ∨ s.bit (kClk 0) 0 = false) : s.tick = s := by
  have hstand : ¬ (s.boot.phase = .halted ∧ s.bit (kClk 0) 0 = true) := fun hrun =>
    h.elim (fun hp => hp hrun.1) (fun hb => Bool.false_ne_true (hb.symm.trans hrun.2))
  unfold State.tick
  rw [if_neg (by rw [ha]; exact Bool.false_ne_true), if_neg hstand]

theorem step_idle (h : s.pending = []) : step s = .next s.tick := by
  unfold step
  rw [h]

end

/-- Settles O2: the queue is among what a TIME cycle keeps; the two counts by whether the device runs, is halted or stands. -/
theorem idleStepIsOneTimeCycle : Obligations.IdleStepIsOneTimeCycle := by
  unfold Obligations.IdleStepIsOneTimeCycle
  intro s hq
  refine ⟨step_idle hq, ?queue, ?running, ?halted, ?standing⟩
  case queue => exact (kept_tick (Kept.refl s)).pending.trans hq
  case running => exact fun ha => (tick_counts s ha).1
  case halted =>
    intro hp hpll
    rw [tick_halted hp hpll]
    exact ⟨rfl, rfl⟩
  case standing => exact fun ha h => tick_standing ha h

/-! ## Registers at reset and under a plain write (R7) -/

theorem reset_reg (k : Nat) : State.reset.reg k = regReset k := rfl

theorem reset_timeInc : State.reset.reg (kCam 0x2008) = 0x06666666 := by
  rw [reset_reg]
  decide

/-- A register whose every bit is a plain writable one takes the value of a write. -/
theorem RegDef.applyWrite_plain {d : RegDef} (hrw : d.rw = 0xFFFFFFFF) (hw1c : d.w1c = 0) (hw1s : d.w1s = 0)
    (hsc : d.sc = 0) (old v : B32) : d.applyWrite old v = v := by
  have hall : v &&& BitVec.ofNat 32 0xFFFFFFFF = v := BitVec.and_allOnes
  unfold RegDef.applyWrite
  rw [hrw, hw1c, hw1s, hsc]
  simp [hall]

theorem plainWrite_timeInc (s : State) (v : B32) : s.plainWrite (kCam 0x2008) v = s.setReg (kCam 0x2008) v := by
  have hreg : regAt (kCam 0x2008) = some { off := 0x2008, rw := 0xFFFFFFFF, reset := 0x06666666 } := by decide
  unfold State.plainWrite
  rw [hreg]
  exact congrArg (s.setReg _) (RegDef.applyWrite_plain (by rfl) (by rfl) (by rfl) (by rfl) _ v)

/-- CAM_TIME_INC has no rule of its own (Table 08-14). -/
theorem writeReg_timeInc (s : State) (rq : Requester) (v : B32) :
    s.writeReg rq (kCam 0x2008) v = s.setReg (kCam 0x2008) v := by
  have hkey : decodeKey (kCam 0x2008) = some (.cam, 0, 0x2008) := by decide
  unfold State.writeReg
  rw [hkey]
  exact (if_neg (by decide)).trans (plainWrite_timeInc s v)

/-- A permitted write of a register at a word's place is performed by the register's own rule. -/
theorem exec_registerWrite_allowed {s : State} {rq : Requester} {k : Nat} (v : B32) (ha : s.awake = true) (hk : k % 4 = 0)
    (hq : regAllowed rq true k = true) : exec (.registerWrite rq k v) s = .next (s.writeReg rq k v) := by
  have hwrite : s.regWrite rq k v = s.writeReg rq k v := (if_pos ha).trans (guardReg_allowed hq s _)
  exact attempt_some ((if_pos ⟨ha, hk⟩).trans (congrArg some hwrite))

/-- Settles O11: the two counts of a TIME cycle, the increment's reset value, and its write, which has no rule of its own. -/
theorem timeGainsIncrementEachCycle : Obligations.TimeGainsIncrementEachCycle := by
  unfold Obligations.TimeGainsIncrementEachCycle
  refine ⟨fun s ha => (tick_counts s ha).2, reset_timeInc, fun s rq v ha hq => ?_⟩
  rw [exec_registerWrite_allowed v ha (by decide) hq, writeReg_timeInc]

/-- Settles O13: no register is stored at reset, so each reads as the reset value of the register at its key. -/
theorem resetValuesOfTheManual : Obligations.ResetValuesOfTheManual := by
  unfold Obligations.ResetValuesOfTheManual
  refine ⟨rfl, rfl, rfl, rfl, reset_timeInc, ?_⟩
  simp only [reset_reg]
  decide

/-! ## PPS, the offset and FSYNC (R293, R294) -/

section
variable {s : State}

/-- An accepted edge captures TIME_NS, and loads the time where a load is armed. -/
theorem exec_ppsEdge (ha : s.awake = true) (hen : s.bit (kCam 0x200C) 0 = true)
    (hgap : s.cam.ppsEdge.elim true (fun t => decide (t + msTicks 500 ≤ s.elapsed.toNat)) = true) :
    exec .ppsEdge s = .next
      (let u : State := { s.setReg64 (kCam 0x2018) s.timeNs with
        cam := { s.cam with ppsAt := s.elapsed.toNat, ppsLost := false, ppsEdge := some s.elapsed.toNat } }
       if u.bit (kCam 0x200C) 1 then (u.setBit (kCam 0x200C) 1 false).stepTime (u.reg64 (kCam 0x2020) ++ (0 : BitVec 24))
       else u) :=
  attempt_some (if_pos ⟨ha, hen, hgap⟩)

theorem exec_offsetGo {rq : Requester} (ha : s.awake = true) (hq : regAllowed rq true (kCam 0x200C) = true) :
    exec (.offsetGo rq) s = .next (s.setBit (kCam 0x200C) 2 true) :=
  attempt_guardReg ha hq s _

theorem exec_ppsLost (ha : s.awake = true) (hen : s.bit (kCam 0x200C) 0 = true) (hlost : s.cam.ppsLost = false)
    (hdue : s.cam.ppsAt + msTicks 1500 ≤ s.elapsed.toNat) :
    exec .ppsLost s = .next
      (({ s with cam := { s.cam with ppsLost := true } } : State).raise 0x0602 (s.reg64 (kCam 0x2018))) :=
  attempt_some (if_pos ⟨ha, hen, by rw [hlost]; rfl, hdue⟩)

/-- A pulse starts at the level of its polarity, and its end is due a width later. -/
theorem exec_fsyncPulse {k : Nat} (ha : s.awake = true) (hk : k < 8) (hen : s.bit (kFsync k 0) 0 = true)
    (hnew : (s.fsyncRt k).emitted < s.fsyncNow k) (hreached : s.fsyncReached k (s.fsyncNow k) = true) :
    exec (.fsyncPulse k) s = .next
      ((s.setFsync k ⟨s.fsyncNow k, some (s.elapsed.toNat + max 1 (s.fld (kFsync k 0) 16 16)),
        s.bit (kFsync k 0) 1⟩).driveFsync k (!(s.bit (kFsync k 0) 1))) :=
  attempt_some ((if_pos ⟨ha, hk, hen⟩).trans (if_pos ⟨hnew, hreached⟩))

theorem exec_fsyncPulseEnd {k t : Nat} (ha : s.awake = true) (hk : k < 8) (hend : (s.fsyncRt k).until_ = some t)
    (hdue : t ≤ s.elapsed.toNat) :
    exec (.fsyncPulseEnd k) s = .next
      ((s.setFsync k { s.fsyncRt k with until_ := none }).driveFsync k (s.fsyncRt k).low) := by
  refine attempt_some ((if_pos ⟨ha, hk⟩).trans ?_)
  rw [hend]
  exact if_pos hdue

end

/-- Settles O41: each command of the time base by the conditions under which it acts. -/
theorem timeCommandsComplete : Obligations.TimeCommandsComplete := by
  unfold Obligations.TimeCommandsComplete
  refine ⟨?ppsEdge, ?offsetGo, ?ppsLost, ?pulse, ?pulseEnd⟩
  case ppsEdge => exact fun s ha hen hgap => exec_ppsEdge ha hen hgap
  case offsetGo => exact fun s rq ha hq => exec_offsetGo ha hq
  case ppsLost => exact fun s ha hen hlost hdue => exec_ppsLost ha hen hlost hdue
  case pulse => exact fun s k ha hk hen hnew hreached => exec_fsyncPulse ha hk hen hnew hreached
  case pulseEnd => exact fun s k t ha hk hend hdue => exec_fsyncPulseEnd ha hk hend hdue

end Sys2Proof.Machine
end

section
/-!
PROOFS. Camera intake (R272 to R279): what the packets of a CSI-2 port do by the stream and exposure that their virtual channel
is bound to, and the two time limits of a stream.
-/
namespace Sys2Proof.Machine

section
variable {s : State} {port vc : Nat} {r : StreamRec} {k : Nat}

/-! ## Frame starts (R272, R274, R275) -/

section
variable {fn : BitVec 16} {hc : Bool}

/-- A Frame Start on a channel that no stream binds is an orphan (R272). -/
theorem exec_csiFrameStart_unbound (ha : s.awake = true) (hup : s.csiUp port = true) (hb : s.findStream port vc = none) :
    exec (.csiFrameStart port vc fn hc) s = .next ((s.corrected port hc).orphan port) := by
  refine attempt_some ((if_pos ⟨ha, hup⟩).trans ?_)
  rw [hb]
  rfl

/-- On exposure 0 it opens a frame, and closes the one that is still open (R274, R277). -/
theorem exec_csiFrameStart_first (ha : s.awake = true) (hup : s.csiUp port = true)
    (hb : s.findStream port vc = some (r, 0)) (hw : s.paramsWait r = false) :
    exec (.csiFrameStart port vc fn hc) s = .next
      (let u := s.corrected port hc
       (if (u.stream r.stream).frame.isSome then u.closeFrame r.stream true else u).openFrame r fn.toNat hc) := by
  refine attempt_some ((if_pos ⟨ha, hup⟩).trans ?_)
  rw [hb]
  exact if_neg (by simp [hw])

/-- On a later exposure it starts that exposure's frame (R275). -/
theorem exec_csiFrameStart_later (ha : s.awake = true) (hup : s.csiUp port = true)
    (hb : s.findStream port vc = some (r, k + 1)) :
    exec (.csiFrameStart port vc fn hc) s = .next ((s.corrected port hc).expStart r.stream (k + 1) fn.toNat hc) := by
  refine attempt_some ((if_pos ⟨ha, hup⟩).trans ?_)
  rw [hb]
  rfl

/-- A Frame End ends the exposure frame of its channel; on exposure 0 the frame closes (R274). -/
theorem exec_csiFrameEnd_bound (ha : s.awake = true) (hup : s.csiUp port = true)
    (hb : (s.corrected port hc).findStream port vc = some (r, k)) :
    exec (.csiFrameEnd port vc fn hc) s = .next
      (let v := (s.corrected port hc).expEnd r.stream k fn.toNat hc
       if k = 0 then v.closeFrame r.stream false else v) := by
  refine attempt_some ((if_pos ⟨ha, hup⟩).trans ?_)
  simp only [hb]

end

/-! ## Lines (R272, R276) -/

section
variable {dtype px n spp : Nat} {payload : List Byte} {crcOk hc : Bool}

/-- A line whose header cannot be corrected is counted, and lost to the exposure its channel is bound to. -/
theorem exec_csiLineReceive_headerLost (ha : s.awake = true) (hup : s.csiUp port = true) :
    exec (.csiLineReceive port vc dtype payload crcOk hc true) s = .next
      (let u := s.addFld (kCam (0x40 * port + 4)) 16 16 1
       match s.findStream port vc with
       | some (r, k) => u.lineLost r.stream k
       | none => u) := by
  refine attempt_some ((if_pos ⟨ha, hup⟩).trans ?_)
  cases s.findStream port vc <;> rfl

/-- A line of the stream's data type is taken by the open frame, whatever its CRC, which is counted where it is wrong. -/
theorem exec_csiLineReceive_taken {o : OpenFrame} (ha : s.awake = true) (hup : s.csiUp port = true)
    (hb : s.findStream port vc = some (r, k)) (hg : dtypeGroup dtype = some (px, n, spp)) (hd : r.dtype = dtype)
    (hf : ((s.corrected port hc).stream r.stream).frame = some o) :
    exec (.csiLineReceive port vc dtype payload crcOk hc false) s = .next
      (let u := s.corrected port hc
       let u := if crcOk then u else u.addSat (kCam (0x40 * port + 8)) 1
       u.takeLine r k crcOk hc (payload.length / n * px)
         (repairLine r spp (lineSamples (payload.length / n) dtype n payload))) := by
  have htaken : ¬ (r.dtype ≠ dtype ∨ ((s.corrected port hc).stream r.stream).frame = none) := by simp [hd, hf]
  refine attempt_some ((if_pos ⟨ha, hup⟩).trans ?_)
  rw [hb, hg]
  exact (if_neg Bool.false_ne_true).trans (if_neg htaken)

/-- A line of another data type, or outside a frame, is an orphan (R272). -/
theorem exec_csiLineReceive_orphan (ha : s.awake = true) (hup : s.csiUp port = true)
    (hb : s.findStream port vc = some (r, k)) (hg : dtypeGroup dtype = some (px, n, spp))
    (ho : r.dtype ≠ dtype ∨ ((s.corrected port hc).stream r.stream).frame = none) :
    exec (.csiLineReceive port vc dtype payload crcOk hc false) s = .next ((s.corrected port hc).orphan port) := by
  refine attempt_some ((if_pos ⟨ha, hup⟩).trans ?_)
  rw [hb, hg]
  exact (if_neg Bool.false_ne_true).trans (if_pos ho)

end
end

/-! ## The time limits of a stream (R277, R279) -/

section
variable {s : State} {st : Nat} {r : StreamRec}

theorem exec_feTimeout_due {o : OpenFrame} (ha : s.awake = true) (hr : s.streamRec st = some r)
    (hf : (s.stream st).frame = some o) (hdue : o.lastPkt + usTicks r.feUs ≤ s.elapsed.toNat) :
    exec (.feTimeout st) s = .next (s.closeFrame st true) := by
  refine attempt_some ((if_pos ha).trans ?_)
  rw [hr, hf]
  exact if_pos hdue

theorem exec_streamLost_due (ha : s.awake = true) (hr : s.streamRec st = some r) (hl : (s.stream st).lost = false)
    (hdue : (s.stream st).lastFs + msTicks r.lostMs ≤ s.elapsed.toNat) :
    exec (.streamLost st) s = .next
      ((s.setStream st { s.stream st with lost := true }).raise 0x0601
        (mkParam [(0, st), (32, (s.reg (kCam (0x1000 + 0x40 * st))).toNat)])) := by
  refine attempt_some ((if_pos ha).trans ?_)
  rw [hr]
  exact if_pos ⟨by rw [hl]; rfl, hdue⟩

end

/-- Settles O39: each packet by what its virtual channel is bound to, each time limit by its being due. -/
theorem cameraIntakeCommandsComplete : Obligations.CameraIntakeCommandsComplete := by
  unfold Obligations.CameraIntakeCommandsComplete
  refine ⟨?startUnbound, ?startFirst, ?startLater, ?lineLost, ?lineTaken, ?lineOrphan, ?frameEnd, ?feTimeout, ?streamLost⟩
  case startUnbound => exact fun s port vc fn hc ha hup hb => exec_csiFrameStart_unbound ha hup hb
  case startFirst => exact fun s port vc fn hc r ha hup hb hw => exec_csiFrameStart_first ha hup hb hw
  case startLater => exact fun s port vc fn hc r k ha hup hb => exec_csiFrameStart_later ha hup hb
  case lineLost => exact fun s port vc dtype payload crcOk hc ha hup => exec_csiLineReceive_headerLost ha hup
  case lineTaken =>
    exact fun s port vc dtype payload crcOk hc r k px n spp o ha hup hb hg hd hf =>
      exec_csiLineReceive_taken ha hup hb hg hd hf
  case lineOrphan =>
    exact fun s port vc dtype payload crcOk hc r k px n spp ha hup hb hg ho => exec_csiLineReceive_orphan ha hup hb hg ho
  case frameEnd => exact fun s port vc fn hc r k ha hup hb => exec_csiFrameEnd_bound ha hup hb
  case feTimeout => exact fun s st r o ha hr hf hdue => exec_feTimeout_due ha hr hf hdue
  case streamLost => exact fun s st r ha hr hl hdue => exec_streamLost_due ha hr hl hdue

end Sys2Proof.Machine
end

section
/-!
PROOFS. Alignment groups, the outputs of Iris and the sparing of an Iris pipe (R284, R286 to R291, R296 to R300).
-/
namespace Sys2Proof.Machine

/-! ## Alignment groups (R296, R298) -/

section
variable {s : State} {g : Nat}

theorem exec_alignDeadline_due (ha : s.awake = true) (ho : (s.group g).open_ = true)
    (hdue : (s.group g).deadline ≤ s.elapsed.toNat) :
    exec (.alignDeadline g) s = .next (s.releaseInst g false s.timeNs) :=
  attempt_some (if_pos ⟨ha, ho, hdue⟩)

theorem exec_alignHoldoffEnd_due {t : Nat} (ha : s.awake = true) (hh : (s.group g).holdEnd = some t)
    (hdue : t ≤ s.elapsed.toNat) :
    exec (.alignHoldoffEnd g) s = .next (s.setGroup g { s.group g with holdEnd := none, absent := [] }) := by
  refine attempt_some ((if_pos ha).trans ?_)
  rw [hh]
  exact if_pos hdue

end

/-! ## Outputs of a frame (R284, R290, R291) -/

section
variable {s : State} {st : Nat} {f : Frame} {r : StreamRec}

/-- The state after the image of a crop is written: where the write fails the frame is dropped and owes the output no
more; else a frame without a group is sent at once, and one of a group once its group has released (R290). -/
def State.visionWritten (r : StreamRec) (st o : Nat) (f : Frame) (w : State × Nat) : State :=
  let f1 := { f with todo := f.todo.filter (· != o), vis := f.vis ++ [o] }
  if w.2 ≠ 0 then (w.1.dropFrames [(st, f.devFcnt)] 4).putFrame (f.dropOut o)
  else
    let u := w.1.putFrame f1
    match f.group, f.release with
    | none, _ => u.sendVision r f1 o u.timeNs
    | some _, some t => u.sendVision r f1 o t
    | some _, none => u

/-- The image of the oldest frame that owes the crop is written and passed on, and the group's samples that are ready with
it are sent. -/
theorem exec_irisVisionComplete_owed {crop : Nat} (ha : s.awake = true) (hc : crop < 4)
    (hf : s.cam.frames.find? (fun f => f.stream == st && f.todo.contains (crop + 2)) = some f)
    (hr : s.streamRec st = some r) (hb : s.outBusy r f (crop + 2) = false) :
    exec (.irisVisionComplete st crop) s = .next
      (let o := crop + 2
       let w := (s.addSat (kIrs (0x1008 + 0x10 * st)) ((irisIn r f).clamps o)).irisWrite f.pipe
         (ringAddr r f.params o (f.slot o) + 64) ((irisIn r f).image o)
       let u := State.visionWritten r st o f w
       (match f.group with | some (q, _) => u.sendReady q | none => u).settlePlain) := by
  refine attempt_some ((if_pos ⟨ha, hc⟩).trans ?_)
  simp only [hf, hr]
  exact if_neg (by rw [hb]; exact Bool.false_ne_true)

/-- The statistics of the oldest frame that owes them are written, the number of the record last (R291). -/
theorem exec_irisStatsWrite_owed (ha : s.awake = true)
    (hf : s.cam.frames.find? (fun f => f.stream == st && f.todo.contains 6) = some f) (hr : s.streamRec st = some r)
    (hb : s.outBusy r f 6 = false) :
    exec (.irisStatsWrite st) s = .next
      (let a := ringAddr r f.params 6 (f.slot 6)
       let body := s.irisWrite f.pipe (a + 64) (irisIn r f).stats
       let head := natToBytes f.devFcnt.toNat 4 ++ natToBytes f.csiFn 2 ++ natToBytes f.flags.toNat 2 ++ natToBytes 0 52
       let w := if body.2 = 0 then body.1.irisWrite f.pipe (a + 4) head else body
       let w := if w.2 = 0 then w.1.irisWrite f.pipe a (natToBytes ((s.stream st).seq + 1).toNat 4) else w
       let u := if w.2 = 0 then w.1.setStream st { w.1.stream st with seq := (s.stream st).seq + 1 } else w.1
       (u.putFrame { f with todo := f.todo.filter (· != 6) }).purgeFrames) := by
  refine attempt_some ((if_pos ha).trans ?_)
  simp only [hf, hr]
  exact if_neg (by rw [hb]; exact Bool.false_ne_true)

theorem exec_irsBankWrite {rq : Requester} (v : B32) (ha : s.awake = true) (hst : st < 24)
    (hq : regAllowed rq true (kIrs (0x1000 + 0x10 * st)) = true) :
    exec (.irsBankWrite rq st v) s = .next
      ((s.setBit (kIrs (0x1000 + 0x10 * st)) 0 (v.getLsbD 0)).setBit (kIrs (0x1000 + 0x10 * st)) 1 true) :=
  attempt_guardReg ⟨ha, hst⟩ hq s _

end

/-! ## The sparing of a pipe (R300, R516) -/

section
variable {s u : State} {p q : Nat}

/-- The pipe that survives with room for the streams of a failed pipe (R516). -/
def State.survivor (s : State) (p : Nat) : Option Nat :=
  (upTo 3).find? (fun q => q ≠ p ∧ s.fld (kIrs (0x20 * q)) 0 2 = 1 ∧ s.pipeLoad p + s.pipeLoad q ≤ 2500000000)

/-- Pipe 2, where it is still spare, takes the streams of a failed pipe. -/
theorem sparePipe_spare (hspare : u.fld (kIrs 0x40) 0 2 = 0) (hp : p < 2) :
    u.sparePipe p =
      (let v := (u.setFld (kIrs 0x40) 0 2 1).movePipe p 2
       let w := v.fault { mkFault 0xC 2 p 0 with spare := 2, degraded := v.exhausts 4 p }
       (w.raise 0x0701 (mkParam [(0, p), (8, 2)])).exhaust 4 p) :=
  if_pos ⟨hspare, hp⟩

/-- Without a spare pipe the surviving one takes them, or they move nowhere. -/
theorem sparePipe_used (hused : ¬ (u.fld (kIrs 0x40) 0 2 = 0 ∧ p < 2)) :
    u.sparePipe p = match u.survivor p with
      | some q => (u.movePipe p q).fault { mkFault 0xC 2 p 0 with spare := q }
      | none => ({ u with cam := { u.cam with moving := u.cam.moving.filter (fun m => m.2 != p) } } : State).fault
          (mkFault 0xC 4 p 0) := by
  unfold State.sparePipe
  rw [if_neg hused]
  rfl

/-- Pipe 2 is in use, or is the pipe that failed. -/
theorem not_spare_of_used (h : u.fld (kIrs 0x40) 0 2 ≠ 0 ∨ p = 2) : ¬ (u.fld (kIrs 0x40) 0 2 = 0 ∧ p < 2) :=
  fun ⟨hspare, hp⟩ => h.elim (fun hused => hused hspare) (fun htwo => hp.ne htwo)

/-- An active pipe stops and drops its frames; firmware spares it, at once or when it serves again (R24). -/
theorem exec_pipeSpared_active (ha : s.awake = true) (hp : p < 3) (hact : s.fld (kIrs (0x20 * p)) 0 2 = 1)
    (hu : u = (s.setFld (kIrs (0x20 * p)) 0 2 2).dropPipeFrames p) :
    exec (.pipeSpared p) s = .next (if u.fwServes then u.sparePipe p else u.oweUnit (.pipe p)) := by
  subst hu
  exact attempt_some (if_pos ⟨ha, hp, hact⟩)

theorem exec_pipeSpared_serving (ha : s.awake = true) (hp : p < 3) (hact : s.fld (kIrs (0x20 * p)) 0 2 = 1)
    (hu : u = (s.setFld (kIrs (0x20 * p)) 0 2 2).dropPipeFrames p) (hfw : u.fwServes = true) :
    exec (.pipeSpared p) s = .next (u.sparePipe p) := by
  rw [exec_pipeSpared_active ha hp hact hu, if_pos hfw]

theorem exec_streamMoveDone (ha : s.awake = true) (hfw : s.fwServes = true)
    (hm : s.cam.moving.find? (fun m => m.1 == p) = some (p, q)) :
    exec (.streamMoveDone p) s = .next
      (let bits := s.fld (kIrs (0x20 * p)) 8 24
       let u := (s.setFld (kIrs (0x20 * q)) 8 24 (s.fld (kIrs (0x20 * q)) 8 24 ||| bits)).setFld (kIrs (0x20 * p)) 8 24 0
       { u with cam := { u.cam with moving := u.cam.moving.filter (fun x => x.1 != p) } }) := by
  refine attempt_some ((if_pos ⟨ha, hfw⟩).trans ?_)
  rw [hm]
  rfl

end

/-- Settles O40: the group's times by their being due, an output by the frame that owes it, a failed pipe by what firmware
finds for its streams. -/
theorem alignmentAndIrisCommandsComplete : Obligations.AlignmentAndIrisCommandsComplete := by
  unfold Obligations.AlignmentAndIrisCommandsComplete
  refine ⟨?deadline, ?holdoff, ?vision, ?stats, ?bank, ?toSpare, ?toSurvivor, ?nowhere, ?owed, ?moveDone⟩
  case deadline => exact fun s g ha ho hdue => exec_alignDeadline_due ha ho hdue
  case holdoff => exact fun s g t ha hh hdue => exec_alignHoldoffEnd_due ha hh hdue
  case vision => exact fun s st crop f r ha hc hf hr hb => exec_irisVisionComplete_owed ha hc hf hr hb
  case stats => exact fun s st f r ha hf hr hb => exec_irisStatsWrite_owed ha hf hr hb
  case bank => exact fun s rq st v ha hst hq => exec_irsBankWrite v ha hst hq
  case toSpare =>
    intro s p u ha hp hact hu hfw hspare hp2
    rw [exec_pipeSpared_serving ha hp hact hu hfw, sparePipe_spare hspare hp2]
  case toSurvivor =>
    intro s p q u ha hp hact hu hfw hused hq
    rw [exec_pipeSpared_serving ha hp hact hu hfw, sparePipe_used (not_spare_of_used hused), State.survivor, hq]
  case nowhere =>
    intro s p u ha hp hact hu hfw hused hq
    rw [exec_pipeSpared_serving ha hp hact hu hfw, sparePipe_used (not_spare_of_used hused), State.survivor, hq]
  case owed =>
    intro s p u ha hp hact hu hfw
    rw [exec_pipeSpared_active ha hp hact hu, if_neg (by rw [hfw]; exact Bool.false_ne_true)]
  case moveDone => exact fun s p q ha hfw hm => exec_streamMoveDone ha hfw hm

end Sys2Proof.Machine
end

section
/-!
PROOFS. Video decode (R309 to R326): what an access unit does by its header and its random-access point, a frame by how its
decoding ends, the sparing of a decode core, and the outputs of the scale-and-crop engine.
-/
namespace Sys2Proof.Machine

/-! ## The state of a context -/

@[simp] theorem State.vctx_setVctx_same (s : State) (x : Nat) (v : Ctx) : (s.setVctx x v).vctx x = v :=
  SMap.get_set_self ..

@[simp] theorem State.ctxState_setVctx (s : State) (x y : Nat) (v : Ctx) : (s.setVctx x v).ctxState y = s.ctxState y := rfl

/-! ## Access units (R311 to R313) -/

section
variable {s : State} {u : AuUnit} {d : CtxDesc} {au : AuSyntax} {h : SeqHdr} {q : VideoSeq}

/-- What a unit does once its header is seen to (R313): a random-access point activates a sequence that waits, and a unit is
decoded only in an active sequence. -/
def State.admitUnit (s : State) (u : AuUnit) (d : CtxDesc) (au : AuSyntax) : State :=
  let s := match au.rap, (s.vctx u.ctx).waiting with
    | true, some q => s.activate u.ctx d q
    | _, _ => s
  if s.ctxState u.ctx = 2 then s.readyUnit u au else s.refuseUnit u stDamaged

theorem admitUnit_activates (hrap : au.rap = true) (hw : (s.vctx u.ctx).waiting = some q) :
    s.admitUnit u d au = (s.activate u.ctx d q).readyUnit u au := by
  unfold State.admitUnit
  rw [hrap, hw]
  exact if_pos (State.activate_ctxState ..)

/-- Without a random-access point, or without a sequence that waits, the unit finds the context as it is. -/
theorem admitUnit_keeps (hno : au.rap = false ∨ (s.vctx u.ctx).waiting = none) :
    s.admitUnit u d au = if s.ctxState u.ctx = 2 then s.readyUnit u au else s.refuseUnit u stDamaged := by
  unfold State.admitUnit
  rcases hno with hrap | hw
  · rw [hrap]
  · rw [hw]
    cases au.rap <;> rfl

theorem admitUnit_active (hno : au.rap = false ∨ (s.vctx u.ctx).waiting = none) (hst : s.ctxState u.ctx = 2) :
    s.admitUnit u d au = s.readyUnit u au :=
  (admitUnit_keeps hno).trans (if_pos hst)

theorem admitUnit_inactive (hno : au.rap = false ∨ (s.vctx u.ctx).waiting = none) (hst : s.ctxState u.ctx ≠ 2) :
    s.admitUnit u d au = s.refuseUnit u stDamaged :=
  (admitUnit_keeps hno).trans (if_neg hst)

theorem parseUnit_failing {f : Nat × Nat} (hf : au.seq.bind (seqFails d) = some f) : s.parseUnit u d au = s.rejectSeq u d f := by
  unfold State.parseUnit
  rw [hf]

/-- A header that passes waits to be activated, by the unit itself where it is a random-access point. -/
theorem parseUnit_passing (hseq : au.seq = some h) (hf : seqFails d h = none) :
    s.parseUnit u d au = (s.setVctx u.ctx { s.vctx u.ctx with waiting := some (seqOf d h) }).admitUnit u d au := by
  have hpass : au.seq.bind (seqFails d) = none := by rw [hseq]; exact hf
  unfold State.parseUnit
  rw [hpass, hseq]
  rfl

theorem parseUnit_headerless (hseq : au.seq = none) : s.parseUnit u d au = s.admitUnit u d au := by
  have hpass : au.seq.bind (seqFails d) = none := by rw [hseq]; rfl
  unfold State.parseUnit
  rw [hpass, hseq]
  rfl

/-- What a unit does in a REJECTED context (R312): a header that passes, at a random-access point, activates its sequence;
any other unit completes with the status of the failure. -/
def State.retryUnit (s : State) (u : AuUnit) (d : CtxDesc) (au : AuSyntax) : State :=
  match au.seq with
  | some h =>
    if seqFails d h = none ∧ au.rap then (s.activate u.ctx d (seqOf d h)).readyUnit u au
    else s.refuseUnit u (s.vctx u.ctx).failed.1
  | none => s.refuseUnit u (s.vctx u.ctx).failed.1

theorem retryUnit_reactivates (hseq : au.seq = some h) (hf : seqFails d h = none) (hrap : au.rap = true) :
    s.retryUnit u d au = (s.activate u.ctx d (seqOf d h)).readyUnit u au := by
  unfold State.retryUnit
  rw [hseq]
  exact if_pos ⟨hf, hrap⟩

theorem retryUnit_refuses (hno : ∀ h, au.seq = some h → seqFails d h ≠ none ∨ au.rap = false) :
    s.retryUnit u d au = s.refuseUnit u (s.vctx u.ctx).failed.1 := by
  unfold State.retryUnit
  cases hseq : au.seq with
  | none => rfl
  | some h => exact if_neg fun ⟨hf, hrap⟩ => (hno h hseq).elim (· hf) (ne_true_of_eq_false · hrap)

section
variable (ha : s.awake = true) (hx : u.ctx < 256) (hb : s.ctxBusy u.ctx = false) (hu : s.firstUnit u.ctx = some u)
  (hd : (s.vctx u.ctx).desc = some d) (hr : u.ready = false)
include ha hx hb hu hd hr

/-- A unit that is not yet parsed is received by the state of its context. -/
theorem exec_accessUnitReceive_unparsed :
    exec (.accessUnitReceive u.ctx au) s = .next
      (if s.ctxState u.ctx = 3 then s.retryUnit u d au else s.parseUnit u d au) := by
  have hidle : (!s.ctxBusy u.ctx) = true := by rw [hb]; rfl
  refine attempt_some ((if_pos ⟨ha, hx, hidle⟩).trans ?_)
  rw [hu, hd]
  refine (if_neg (ne_true_of_eq_false hr)).trans ?_
  by_cases hst : s.ctxState u.ctx = 3
  · rw [if_pos hst, if_pos hst]
    unfold State.retryUnit
    cases au.seq with
    | none => rfl
    | some h => exact (apply_ite some ..).symm
  · rw [if_neg hst, if_neg hst]

theorem exec_accessUnitReceive_rejected (hst : s.ctxState u.ctx = 3) :
    exec (.accessUnitReceive u.ctx au) s = .next (s.retryUnit u d au) := by
  rw [exec_accessUnitReceive_unparsed ha hx hb hu hd hr, if_pos hst]

theorem exec_accessUnitReceive_parses (hst : s.ctxState u.ctx ≠ 3) :
    exec (.accessUnitReceive u.ctx au) s = .next (s.parseUnit u d au) := by
  rw [exec_accessUnitReceive_unparsed ha hx hb hu hd hr, if_neg hst]

end
end

/-! ## Frames on cores (R309, R314 to R318) -/

section
variable {s : State} {c : Nat} {j : DecJob} {q : VideoSeq}

theorem exec_decodeFrameStart_ready {x b : Nat} {u : AuUnit} (ha : s.awake = true) (hc : c < 9)
    (hact : s.fld (kDec c 0) 0 2 = 1) (ho : s.unitOwed (.dec c) = false) (hj : s.decJob c = none)
    (hx : s.nextCtx = some x) (hu : s.firstUnit x = some u) (hb : s.freeBuf x = some b) :
    exec (.decodeFrameStart c) s = .next
      (let n := (s.vctx x).decIndex + 1
       let s1 := (s.setUnit x none).setVctx x { s.vctx x with decIndex := n }
       let s2 : State := { s1 with vid := { s1.vid with last := x } }
       let s3 := s2.holdCore c (some ⟨{ u with begun := true }, n, b, s2.elapsed.toNat⟩) x
       if u.left ≤ 1 then s3.ctxNext x else s3) := by
  have hserves : (!s.unitOwed (.dec c)) = true := by rw [ho]; rfl
  refine attempt_some ((if_pos ⟨ha, hc, hact, hserves, hj⟩).trans ?_)
  simp only [hx, hu, hb]

/-- The decoded frame of a job, done at time `t`. -/
def DecJob.frame (j : DecJob) (q : VideoSeq) (out : FrameOutcome) (t : B64) : DecFrame :=
  ⟨j.index, false, j.buf, out.width, out.height, q.depth, j.unit.rap, out.presOrder, out.cost, t⟩

/-- The end of a frame on its core (R314, R318), by the references that were read for it, `none` where a read failed, and by
the status of the write that stored it. -/
def State.frameDecoded (s : State) (c : Nat) (out : FrameOutcome) (j : DecJob) (d : CtxDesc) (q : VideoSeq)
    (used : List DecFrame) (avg : Nat) (refs : Option (List (List Byte))) (stored : Nat) : State :=
  if refs.isNone ∨ stored ≠ 0 then s.endTainted c j out.kept (j.frame q out s.timeNs) stFault
  else if !out.whole ∨ refTainted used ∨ !refsHere used out.refs then
    s.endTainted c j out.kept (j.frame q out s.timeNs) stDamaged
  else s.endClean c j d out (newAvg avg out.cost) (j.frame q out s.timeNs)

section
variable {out : FrameOutcome} {d : CtxDesc} {used : List DecFrame} {avg stored : Nat} {refs : Option (List (List Byte))}

theorem frameDecoded_fault (hfail : refs = none ∨ stored ≠ 0) :
    s.frameDecoded c out j d q used avg refs stored = s.endTainted c j out.kept (j.frame q out s.timeNs) stFault :=
  if_pos (hfail.imp_left Option.isNone_iff_eq_none.mpr)

theorem not_isNone_or_ne_zero (hread : refs ≠ none) (hstored : stored = 0) : ¬ (refs.isNone = true ∨ stored ≠ 0) :=
  fun h => h.elim (fun hnone => hread (Option.isNone_iff_eq_none.mp hnone)) (fun hne => hne hstored)

theorem frameDecoded_damaged (hread : refs ≠ none) (hstored : stored = 0)
    (hbad : out.whole = false ∨ refTainted used = true ∨ refsHere used out.refs = false) :
    s.frameDecoded c out j d q used avg refs stored = s.endTainted c j out.kept (j.frame q out s.timeNs) stDamaged :=
  (if_neg (not_isNone_or_ne_zero hread hstored)).trans (if_pos (by simpa using hbad))

theorem frameDecoded_clean (hread : refs ≠ none) (hstored : stored = 0) (hwhole : out.whole = true)
    (htaint : refTainted used = false) (hhere : refsHere used out.refs = true) :
    s.frameDecoded c out j d q used avg refs stored =
      s.endClean c j d out (newAvg avg out.cost) (j.frame q out s.timeNs) :=
  (if_neg (not_isNone_or_ne_zero hread hstored)).trans (if_neg (by simp [hwhole, htaint, hhere]))

/-- A frame whose cost fits the time it took and its budget, and whose size fits its sequence, ends on its core: its
references are read and it is stored, whatever becomes of either. -/
theorem exec_decodeFrameComplete_fits {r : State × Option (List (List Byte))} {w : State × Nat} (ha : s.awake = true)
    (hc : c < 9) (hj : s.decJob c = some j) (hd : (s.vctx j.unit.ctx).desc = some d)
    (hq : (s.vctx j.unit.ctx).seq = some q) (hbud : out.cost ≤ (s.reg (kCtx j.unit.ctx 8)).toNat)
    (hcost : costFits j.at_ s.elapsed.toNat out.cost = true) (hsize : out.width ≤ q.width ∧ out.height ≤ q.height)
    (hused : used = (if j.unit.rap then [] else (s.vctx j.unit.ctx).refs).filter
      (fun f => out.refs.contains f.index.toNat))
    (hfree : s.refsFree used j out.width out.height q.depth = true) (hr : r = s.readRefs c used)
    (hw : w = r.1.storeFrame c j out.width out.height (r.2.getD [])) :
    exec (.decodeFrameComplete c out) s = .next
      ((w.1.add64 (kDec c 8) (out.width * out.height)).frameDecoded c out j d q used
        (s.reg (kCtx j.unit.ctx 4)).toNat r.2 w.2) := by
  have hfits : ¬ ((s.reg (kCtx j.unit.ctx 8)).toNat < out.cost ∨ !costFits j.at_ s.elapsed.toNat out.cost ∨
      q.width < out.width ∨ q.height < out.height ∨ !s.refsFree used j out.width out.height q.depth) := by
    simp [hbud, hcost, hsize, hfree]
  subst hw hr hused
  refine attempt_some ((if_pos ⟨ha, hc⟩).trans ?_)
  simp only [hj, hd, hq]
  exact if_neg hfits

end

/-- A frame that is over its budget is given up, and ends tainted (R316). -/
theorem exec_decodeBudgetExpire_over (ha : s.awake = true) (hc : c < 9) (hj : s.decJob c = some j)
    (hq : (s.vctx j.unit.ctx).seq = some q)
    (hover : (s.reg (kCtx j.unit.ctx 8)).toNat < (s.elapsed.toNat - j.at_) * 4 + 3)
    (hfree : s.refsFree [] j q.width q.height q.depth = true) :
    exec (.decodeBudgetExpire c) s = .next
      (let w := s.storeFrame c j q.width q.height []
       w.1.endTainted c j (((s.vctx j.unit.ctx).refs).map (·.index.toNat))
         ⟨j.index, true, j.buf, q.width, q.height, q.depth, j.unit.rap, 0, (s.reg (kCtx j.unit.ctx 8)).toNat + 1, w.1.timeNs⟩
         stSlow) := by
  refine attempt_some ((if_pos ⟨ha, hc⟩).trans ?_)
  simp only [hj, hq]
  exact if_pos ⟨hover, hfree⟩

end

/-! ## The sparing of a decode core (R319) -/

section
variable {s u : State} {c : Nat}

/-- An active core stops and its frame is to be decoded again; firmware spares the core, at once or when it serves again. -/
theorem exec_decSpared_active (ha : s.awake = true) (hc : c < 9) (hact : s.fld (kDec c 0) 0 2 = 1)
    (ho : s.unitOwed (.dec c) = false) (hu : u = s.requeueDec c) :
    exec (.decSpared c) s = .next (if u.fwServes then u.spareDec c else u.oweUnit (.dec c)) := by
  have hserves : (!s.unitOwed (.dec c)) = true := by rw [ho]; rfl
  subst hu
  exact attempt_some (if_pos ⟨ha, hc, hact, hserves⟩)

/-- Core 8, where it is still spare, takes the place of a failed core. -/
theorem spareDec_spare (hspare : (u.setFld (kDec c 0) 0 2 2).fld (kDec 8 0) 0 2 = 0) :
    u.spareDec c =
      (let v := (u.setFld (kDec c 0) 0 2 2).setFld (kDec 8 0) 0 2 1
       let v := v.fault { mkFault 0xD 2 c 0 with spare := 8, degraded := v.exhausts 5 c }
       (v.raise 0x0801 (mkParam [(0, c), (8, 8)])).exhaust 5 c) := if_pos hspare

theorem spareDec_used (hused : (u.setFld (kDec c 0) 0 2 2).fld (kDec 8 0) 0 2 ≠ 0) :
    u.spareDec c = (u.setFld (kDec c 0) 0 2 2).fault (mkFault 0xD 4 c 0) := if_neg hused

end

/-! ## The scale-and-crop engine (R323 to R326) -/

section
variable {s : State} {e : Emitted} {es : List Emitted} {d : CtxDesc} {o : Nat}

/-- A frame of a context that is gone leaves the engine. -/
theorem exec_scalerOutputWrite_contextGone (ha : s.awake = true) (he : s.vid.emitted = e :: es)
    (hd : (s.vctx e.ctx).desc = none) : exec .scalerOutputWrite s = .next (s.scaleDone e es) := by
  refine attempt_some ((if_pos ha).trans ?_)
  simp only [he, hd]

/-- So does one that no enabled record is left for. -/
theorem exec_scalerOutputWrite_noRecord (ha : s.awake = true) (he : s.vid.emitted = e :: es)
    (hd : (s.vctx e.ctx).desc = some d) (ho : d.nextRec e.out = none) :
    exec .scalerOutputWrite s = .next (s.scaleDone e es) := by
  refine attempt_some ((if_pos ha).trans ?_)
  simp only [he, hd, ho]

/-- The next enabled record is written; after the last one the frame leaves the engine. -/
theorem exec_scalerOutputWrite_record (ha : s.awake = true) (he : s.vid.emitted = e :: es)
    (hd : (s.vctx e.ctx).desc = some d) (ho : d.nextRec e.out = some o)
    (hw : s.scaleWaits e ((d.recs[o]?).getD 0) = false) :
    exec .scalerOutputWrite s = .next
      (let u := s.scaleOut d e o ((d.recs[o]?).getD 0)
       if (d.nextRec (o + 1)).isNone then u.scaleDone e es
       else { u with vid := { u.vid with emitted := [{ e with out := o + 1 }] ++ es } }) := by
  refine attempt_some ((if_pos ha).trans ?_)
  simp only [he, hd, ho, hw, Bool.false_eq_true, if_false]
  split <;> rfl

end

/-- Settles O42: a unit by its context's state and its header, a frame by how its references and its own data came out, a
failed core by core 8, an output by the records that are left. -/
theorem videoDecodeCommandsComplete : Obligations.VideoDecodeCommandsComplete := by
  unfold Obligations.VideoDecodeCommandsComplete
  refine ⟨?reactivated, ?staysRejected, ?failing, ?passingRap, ?waitingRap, ?passingActive, ?headerlessActive,
    ?passingInactive, ?headerlessInactive, ?start, ?fault, ?damaged, ?clean, ?expire, ?toSpare, ?noSpare, ?owed,
    ?contextGone, ?noRecord, ?lastRecord, ?record⟩
  case reactivated =>
    rintro s _ au u d h ha hx hb hu hd hr rfl hst hseq hf hrap
    rw [exec_accessUnitReceive_rejected ha hx hb hu hd hr hst, retryUnit_reactivates hseq hf hrap]
  case staysRejected =>
    rintro s _ au u d ha hx hb hu hd hr rfl hst hno
    rw [exec_accessUnitReceive_rejected ha hx hb hu hd hr hst, retryUnit_refuses hno]
  case failing =>
    rintro s _ au u d f ha hx hb hu hd hr rfl hst hf
    rw [exec_accessUnitReceive_parses ha hx hb hu hd hr hst, parseUnit_failing hf]
  case passingRap =>
    rintro s _ au u d h ha hx hb hu hd hr rfl hst hseq hf hrap
    rw [exec_accessUnitReceive_parses ha hx hb hu hd hr hst, parseUnit_passing hseq hf,
      admitUnit_activates hrap (by rw [State.vctx_setVctx_same])]
  case waitingRap =>
    rintro s _ au u d q ha hx hb hu hd hr rfl hst hseq hw hrap
    rw [exec_accessUnitReceive_parses ha hx hb hu hd hr hst, parseUnit_headerless hseq, admitUnit_activates hrap hw]
  case passingActive =>
    rintro s _ au u d h ha hx hb hu hd hr rfl hst hseq hf hrap hact
    rw [exec_accessUnitReceive_parses ha hx hb hu hd hr hst, parseUnit_passing hseq hf,
      admitUnit_active (.inl hrap) (by rw [State.ctxState_setVctx, hact])]
  case headerlessActive =>
    rintro s _ au u d ha hx hb hu hd hr rfl hst hseq hno hact
    rw [exec_accessUnitReceive_parses ha hx hb hu hd hr hst, parseUnit_headerless hseq, admitUnit_active hno hact]
  case passingInactive =>
    rintro s _ au u d h ha hx hb hu hd hr rfl hst hseq hf hrap hact
    rw [exec_accessUnitReceive_parses ha hx hb hu hd hr hst, parseUnit_passing hseq hf,
      admitUnit_inactive (.inl hrap) (by rwa [State.ctxState_setVctx])]
  case headerlessInactive =>
    rintro s _ au u d ha hx hb hu hd hr rfl hst hseq hno hact
    rw [exec_accessUnitReceive_parses ha hx hb hu hd hr hst, parseUnit_headerless hseq, admitUnit_inactive hno hact]
  case start =>
    exact fun s c x u b ha hc hact ho hj hx hu hb => exec_decodeFrameStart_ready ha hc hact ho hj hx hu hb
  case fault =>
    intro s c out j d q used r w ha hc hj hd hq hbud hcost hsize hused hfree hr hw hfail
    rw [exec_decodeFrameComplete_fits ha hc hj hd hq hbud hcost hsize hused hfree hr hw,
      frameDecoded_fault hfail]
    rfl
  case damaged =>
    intro s c out j d q used r w ha hc hj hd hq hbud hcost hsize hused hfree hr hw hread hstored hbad
    rw [exec_decodeFrameComplete_fits ha hc hj hd hq hbud hcost hsize hused hfree hr hw,
      frameDecoded_damaged hread hstored hbad]
    rfl
  case clean =>
    intro s c out j d q used r w ha hc hj hd hq hbud hcost hsize hused hfree hr hw hread hstored hwhole htaint hhere
    rw [exec_decodeFrameComplete_fits ha hc hj hd hq hbud hcost hsize hused hfree hr hw,
      frameDecoded_clean hread hstored hwhole htaint hhere]
    rfl
  case expire => exact fun s c j q ha hc hj hq hover hfree => exec_decodeBudgetExpire_over ha hc hj hq hover hfree
  case toSpare =>
    intro s c u ha hc hact ho hu hfw hspare
    rw [exec_decSpared_active ha hc hact ho hu, if_pos hfw, spareDec_spare hspare]
  case noSpare =>
    intro s c u ha hc hact ho hu hfw hused
    rw [exec_decSpared_active ha hc hact ho hu, if_pos hfw, spareDec_used hused]
  case owed =>
    intro s c u ha hc hact ho hu hfw
    rw [exec_decSpared_active ha hc hact ho hu, if_neg (ne_true_of_eq_false hfw)]
  case contextGone => exact fun s e es ha he hd => exec_scalerOutputWrite_contextGone ha he hd
  case noRecord => exact fun s e es d ha he hd ho => exec_scalerOutputWrite_noRecord ha he hd ho
  case lastRecord =>
    intro s e es d o ha he hd ho hw hlast
    rw [exec_scalerOutputWrite_record ha he hd ho hw]
    exact congrArg _ (if_pos hlast)
  case record =>
    intro s e es d o ha he hd ho hw hmore
    rw [exec_scalerOutputWrite_record ha he hd ho hw]
    exact congrArg _ (if_neg (ne_true_of_eq_false hmore))

end Sys2Proof.Machine
end

section
/-!
PROOFS. Video encode (R327 to R331): the start of a coding frame, the packet it ends in, the read pointer of a packet ring and
the sparing of an encode core.
-/
namespace Sys2Proof.Machine

/-! ## Coding frames (R328 to R330) -/

section
variable {s : State} {e c : Nat} {j : EncJob} {r : EncRec}

section
variable (ha : s.awake = true) (hj : s.vid.coding.find? (fun j => j.session == e) = some j) (hr : s.encRec e = some r)
  (hidle : (upTo 5).any (fun c => (s.encJob c).elim false (fun k => k.session == e)) = false)
include ha hj hr hidle

/-- Without room in its ring the frame is skipped, and counted (R329). -/
theorem exec_encodeFrameStart_skips (hroom : s.encRoom r = false) :
    exec (.encodeFrameStart e) s = .next
      (({ s with vid := { s.vid with coding := s.vid.coding.erase j } } : State).addSat (kSess e 0xC) 1) := by
  refine attempt_some ((if_pos ha).trans ?_)
  simp only [hj, hr]
  exact (if_neg (ne_true_of_eq_false hidle)).trans (if_pos (by rw [hroom]; rfl))

/-- With room the lowest free active core takes it, as a key frame where one is due. -/
theorem exec_encodeFrameStart_starts (hroom : s.encRoom r = true)
    (hc : (upTo 5).find? (fun c => s.fld (kEnc c 0) 0 2 == 1 && !s.unitOwed (.enc c) && s.encJob c == none) = some c) :
    exec (.encodeFrameStart e) s = .next
      (let n := (s.encSess e).sinceKey
       let u : State := { s with vid := { s.vid with coding := s.vid.coding.erase j } }
       let u := u.setEncJob c (some { j with key := n == 0 || decide (r.keyInt ≤ n) })
       (u.setFld (kEnc c 0) 8 8 e).setBit (kEnc c 0) 16 true) := by
  refine attempt_some ((if_pos ha).trans ?_)
  simp only [hj, hr]
  refine (if_neg (ne_true_of_eq_false hidle)).trans ((if_neg (by rw [hroom]; exact Bool.false_ne_true)).trans ?_)
  rw [hc]

end

/-- A frame whose pages are not being copied ends on its core: as a packet, or skipped where its slot cannot be read. -/
theorem exec_encodeFrameDone_free {a : State × Nat × List Byte} (ha : s.awake = true) (hc : c < 5)
    (hj : s.encJob c = some j) (hr : s.encRec j.session = some r) (hslot : s.pageBusy j.addr j.len = false)
    (hring : s.pageBusy r.base r.size = false) (hread : a = s.memAccess ⟨rqEnc c, false, j.addr, j.len, [], false⟩ none) :
    exec (.encodeFrameDone c) s = .next
      (if a.2.1 = 0 then a.1.encodeFrame c r j a.2.2 else (a.1.addSat (kSess r.session 0xC) 1).freeEnc c) := by
  subst hread
  refine attempt_some ((if_pos ⟨ha, hc⟩).trans ?_)
  simp only [hj, hr]
  exact if_neg (by simp [hslot, hring])

end

/-! ## The sparing of an encode core (R331) -/

section
variable {s u : State} {c : Nat}

/-- An active core stops and its frame is to be encoded again; firmware spares the core, at once or when it serves again. -/
theorem exec_encSpared_active (ha : s.awake = true) (hc : c < 5) (hact : s.fld (kEnc c 0) 0 2 = 1)
    (ho : s.unitOwed (.enc c) = false) (hu : u = s.requeueEnc c) :
    exec (.encSpared c) s = .next (if u.fwServes then u.spareEnc c else u.oweUnit (.enc c)) := by
  have hserves : (!s.unitOwed (.enc c)) = true := by rw [ho]; rfl
  subst hu
  exact attempt_some (if_pos ⟨ha, hc, hact, hserves⟩)

/-- Core 4, where it is still spare, takes the place of a failed core. -/
theorem spareEnc_spare (hspare : (u.setFld (kEnc c 0) 0 2 2).fld (kEnc 4 0) 0 2 = 0) :
    u.spareEnc c =
      (let v := (u.setFld (kEnc c 0) 0 2 2).setFld (kEnc 4 0) 0 2 1
       let v := v.fault { mkFault 0xE 2 c 0 with spare := 4, degraded := v.exhausts 6 c }
       (v.raise 0x0802 (mkParam [(0, c), (8, 4)])).exhaust 6 c) := if_pos hspare

theorem spareEnc_used (hused : (u.setFld (kEnc c 0) 0 2 2).fld (kEnc 4 0) 0 2 ≠ 0) :
    u.spareEnc c = (u.setFld (kEnc c 0) 0 2 2).fault (mkFault 0xE 4 c 0) := if_neg hused

end

/-! ## The read pointer (R329) -/

/-- The write's answer for a session that is configured and one that is not alike. -/
theorem exec_encRdWrite {s : State} {rq : Requester} {e : Nat} (v : B32) (ha : s.awake = true) (he : e < 32)
    (hq : regAllowed rq true (kSess e 4) = true) :
    exec (.encRdWrite rq e v) s = .next
      (match s.encRec e with
       | some r => if v.toNat % 64 = 0 ∧ v.toNat < r.size then s.setReg (kSess e 4) v else s
       | none => s) :=
  attempt_guardReg ⟨ha, he⟩ hq s _

/-- Settles O43: a start by the room in the session's ring, an end by whether the slot was read, a failed core by core 4, a
pointer by its session. -/
theorem videoEncodeCommandsComplete : Obligations.VideoEncodeCommandsComplete := by
  unfold Obligations.VideoEncodeCommandsComplete
  refine ⟨?skips, ?starts, ?packet, ?unread, ?toSpare, ?noSpare, ?owed, ?pointer, ?noSession⟩
  case skips => exact fun s e j r ha hj hr hidle hroom => exec_encodeFrameStart_skips ha hj hr hidle hroom
  case starts => exact fun s e j r c ha hj hr hidle hroom hc => exec_encodeFrameStart_starts ha hj hr hidle hroom hc
  case packet =>
    intro s c j r a ha hc hj hr hslot hring hread hok
    rw [exec_encodeFrameDone_free ha hc hj hr hslot hring hread, if_pos hok]
    rfl
  case unread =>
    intro s c j r a ha hc hj hr hslot hring hread hfail
    rw [exec_encodeFrameDone_free ha hc hj hr hslot hring hread, if_neg hfail]
  case toSpare =>
    intro s c u ha hc hact ho hu hfw hspare
    rw [exec_encSpared_active ha hc hact ho hu, if_pos hfw, spareEnc_spare hspare]
  case noSpare =>
    intro s c u ha hc hact ho hu hfw hused
    rw [exec_encSpared_active ha hc hact ho hu, if_pos hfw, spareEnc_used hused]
  case owed =>
    intro s c u ha hc hact ho hu hfw
    rw [exec_encSpared_active ha hc hact ho hu, if_neg (ne_true_of_eq_false hfw)]
  case pointer =>
    intro s rq e v r ha he hq hr
    rw [exec_encRdWrite v ha he hq, hr]
  case noSession =>
    intro s rq e v ha he hq hr
    rw [exec_encRdWrite v ha he hq, hr]

end Sys2Proof.Machine
end

section
/-!
PROOFS. The commands of Aster (R337, R346, R347, R351, R354, R355, R514): those of an epoch act on the group's record, its
journal and the stage of its pipeline, once nothing that they touch is waited for.
-/
namespace Sys2Proof.Machine

/-- Only a secure read waits for the selected entry, and only it latches the entry's image; another is refused. -/
theorem exec_astTrkDataRead_free {s : State} {rq : Requester} (ha : s.awake = true)
    (hfree : (rq.secure && s.trkWaits (s.fld (kAst 0x2000) 0 16)) = false) :
    exec (.astTrkDataRead rq) s = .next
      (if rq.secure then
        let x := s.trkRead (s.fld (kAst 0x2000) 0 16)
        { x.1 with ast := { x.1.ast with latch := x.2 }, readback := x.2.truncate 32 }
      else { s.refuseReg rq false (kAst 0x2040) with readback := 0 }) :=
  attempt_some (if_pos ⟨ha, congrArg not hfree⟩)

/-- Settles O44: the records that a command of an epoch names are there and its conditions hold, so it acts; a read of the
table by whether its requester is secure. -/
theorem asterCommandsComplete : Obligations.AsterCommandsComplete := by
  unfold Obligations.AsterCommandsComplete
  refine ⟨?start, ?job, ?costs, ?copied, ?spared, ?secureRead, ?refusedRead, ?clear⟩
  case start =>
    intro s g e a r st hrec hepoch hstage ha hpipe hlive hjournal hroom holdest hholds hwaits hdets
    refine attempt_some ?_
    rw [hrec, hepoch]
    simp only [hstage]
    exact if_pos ⟨ha, hpipe, hlive, by rw [hjournal]; rfl, hroom, congrArg not holdest, hholds, congrArg not hwaits,
      congrArg not hdets⟩
  case job =>
    intro s g l a j t part st hrec hjournal htile hpart hstage ha hlive hcopy hfailed hswap hres harray hfill hwaits
    refine attempt_some ?_
    rw [hrec, hjournal, htile]
    simp only [hpart, hstage]
    exact if_pos ⟨ha, hlive, congrArg not hcopy, congrArg not hfailed, congrArg not hswap, by rw [hres]; rfl,
      congrArg not harray, congrArg not hfill, congrArg not hwaits⟩
  case costs =>
    intro s g a j r st hrec hjournal hstage hepoch ha hready hcopy hlive hopen hwaits hrecords
    refine attempt_some ?_
    rw [hrec, hjournal]
    simp only [hstage, hepoch]
    exact if_pos ⟨ha, congrArg not hready, congrArg not hcopy, hlive, congrArg not hopen, congrArg not hwaits,
      congrArg not hrecords⟩
  case copied =>
    intro s g a j hrec hjournal ha hcopy hwaits
    refine attempt_some ?_
    rw [hrec, hjournal]
    exact if_pos ⟨ha, hcopy, congrArg not hwaits⟩
  case spared =>
    intro s m ha hdue hspares hbusy hwaits
    exact attempt_some (if_pos ⟨ha, hdue, hspares, congrArg not hbusy, congrArg not hwaits⟩)
  case secureRead =>
    intro s rq ha hsecure hwaits
    rw [exec_astTrkDataRead_free ha (by rw [hwaits, Bool.and_false]), if_pos hsecure]
  case refusedRead =>
    intro s rq ha hinsecure
    rw [exec_astTrkDataRead_free ha (by rw [hinsecure, Bool.false_and]), if_neg (ne_true_of_eq_false hinsecure)]
  case clear => exact fun s rq ha hq => attempt_guardReg ha hq s _

end Sys2Proof.Machine
end

section
/-!
PROOFS. HBM addresses and plain memory accesses (R357 to R362, R369, R376): the interleave of the stacks, what an access in
HBM comes to, and what it leaves in the bytes and in the lists of erroneous lines.
-/
namespace Sys2Proof.Machine

/-! ## The interleave of the stacks (R357) -/

theorem bitsOf_three_lt (a lo : Nat) : bitsOf a lo 3 < 8 := Nat.mod_lt _ (by decide)

/-- The three-bit fields of an address by division. -/
theorem bitsOf_three_eq_mod (a lo : Nat) : bitsOf a lo 3 = a / 2 ^ lo % 8 := by
  unfold bitsOf
  rw [Nat.shiftRight_eq_div_pow]
  rfl

/-- Folding two masks into a three-bit number twice gives the number back. -/
theorem xor_masks_cancel {x y z : Nat} (hx : x < 8) (hy : y < 8) (hz : z < 8) :
    x ^^^ y ^^^ z < 8 ∧ x ^^^ y ^^^ z ^^^ y ^^^ z = x := by
  obtain ⟨_, hlt, hback⟩ := xor3 ⟨x, hx⟩ ⟨y, hy⟩ ⟨z, hz⟩
  exact ⟨hlt, hback⟩

theorem stackOf_lt (a : Nat) : stackOf a < 8 :=
  (xor_masks_cancel (bitsOf_three_lt a 10) (bitsOf_three_lt a 13) (bitsOf_three_lt a 16)).1

/-- The bits of an address above its 1 KiB block and its stack are those of its stack-local address above the block. -/
theorem stackLocal_div (a : Nat) : stackLocal a / 2 ^ 10 = a / 2 ^ 13 := by
  unfold stackLocal
  omega

theorem stackLocal_mod (a : Nat) : stackLocal a % 2 ^ 10 = a % 2 ^ 10 := by
  unfold stackLocal
  omega

/-- The block of a stack that an address of the stack lies in undoes the stack's choice. -/
theorem deviceAddr_stackOf_stackLocal (a : Nat) : deviceAddr (stackOf a) (stackLocal a) = a := by
  have hlow : bitsOf (a / 2 ^ 13) 0 3 = bitsOf a 13 3 := by
    simp only [bitsOf_three_eq_mod]
    omega
  have hhigh : bitsOf (a / 2 ^ 13) 3 3 = bitsOf a 16 3 := by
    simp only [bitsOf_three_eq_mod]
    omega
  have hblk : (stackOf a ^^^ bitsOf a 13 3 ^^^ bitsOf a 16 3) % 8 = a / 2 ^ 10 % 8 := by
    unfold stackOf
    rw [(xor_masks_cancel (bitsOf_three_lt a 10) (bitsOf_three_lt a 13) (bitsOf_three_lt a 16)).2, bitsOf_three_eq_mod]
    omega
  unfold deviceAddr
  simp only [stackLocal_div, stackLocal_mod, hlow, hhigh, hblk]
  omega

/-- The block number of a device-local address made of a stack and a stack-local address. -/
theorem exists_block_deviceAddr {k : Nat} (hk : k < 8) (l : Nat) :
    ∃ blk, blk < 8 ∧ deviceAddr k l = l / 2 ^ 10 * 2 ^ 13 + blk * 2 ^ 10 + l % 2 ^ 10 ∧
      blk ^^^ bitsOf (l / 2 ^ 10) 0 3 ^^^ bitsOf (l / 2 ^ 10) 3 3 = k := by
  obtain ⟨hlt, hback⟩ := xor_masks_cancel hk (bitsOf_three_lt (l / 2 ^ 10) 0) (bitsOf_three_lt (l / 2 ^ 10) 3)
  refine ⟨_, hlt, ?_, hback⟩
  unfold deviceAddr
  simp only [Nat.mod_eq_of_lt hlt]

theorem stackOf_deviceAddr {k : Nat} (hk : k < 8) (l : Nat) : stackOf (deviceAddr k l) = k := by
  obtain ⟨blk, hlt, haddr, hback⟩ := exists_block_deviceAddr hk l
  have hblk : bitsOf (deviceAddr k l) 10 3 = blk := by
    rw [bitsOf_three_eq_mod, haddr]
    omega
  have hlow : bitsOf (deviceAddr k l) 13 3 = bitsOf (l / 2 ^ 10) 0 3 := by
    simp only [bitsOf_three_eq_mod, haddr]
    omega
  have hhigh : bitsOf (deviceAddr k l) 16 3 = bitsOf (l / 2 ^ 10) 3 3 := by
    simp only [bitsOf_three_eq_mod, haddr]
    omega
  unfold stackOf
  rw [hblk, hlow, hhigh, hback]

theorem stackLocal_deviceAddr {k : Nat} (hk : k < 8) (l : Nat) : stackLocal (deviceAddr k l) = l := by
  obtain ⟨blk, hlt, haddr, _⟩ := exists_block_deviceAddr hk l
  unfold stackLocal
  rw [haddr]
  omega

/-- Settles O19: the block number is the stack's number with two masks folded in, and folding them in again gives it back. -/
theorem addressInterleaveRoundTrip : Obligations.AddressInterleaveRoundTrip := by
  unfold Obligations.AddressInterleaveRoundTrip
  exact ⟨fun a => ⟨stackOf_lt a, deviceAddr_stackOf_stackLocal a⟩,
    fun k l hk => ⟨stackOf_deviceAddr hk l, stackLocal_deviceAddr hk l⟩⟩

/-! ## What a plain access comes to (R363, R449, R469) -/

/-- The answer of an access, its status and its bytes, is given to the requester. -/
def answered (r : State × Nat × List Byte) : State := { r.1 with mem := { r.1.mem with last := r.2.1, data := r.2.2 } }

@[simp] theorem answered_hbm (r : State × Nat × List Byte) : (answered r).mem.hbm = r.1.mem.hbm := rfl

section
variable {s t : State} {a : Access}

theorem answers_of_awake (ha : s.awake = true) : s.answers = true := by
  unfold State.answers
  rw [ha, Bool.true_or]

theorem answers_of_halted (h : s.boot.phase = .halted) : s.answers = true := by
  unfold State.answers
  rw [decide_eq_true h, Bool.or_true]

/-- A running device performs an access that nothing holds back. -/
theorem plainAccess_running (ha : s.awake = true) (hb : s.pageBusy a.addr (accessSize a) = false)
    (hw : s.rcvWaits a.addr (accessSize a) = false) : s.plainAccess a = some (answered (s.access a none)) := by
  unfold State.plainAccess
  simp only [answers_of_awake ha, ha, hb, hw, Bool.not_true, Bool.false_eq_true, or_self, and_false, if_false, true_or, if_true]
  rfl

/-- A halted device holds nothing back; it serves its register windows alone. -/
theorem plainAccess_halted (h : s.boot.phase = .halted) : s.plainAccess a = some (answered
    (if inRegs a.addr (accessSize a) = accessSize a then s.access a none else s.haltedAccess a.write (accessSize a))) := by
  unfold State.plainAccess
  simp only [answers_of_halted h, awake_of_halted h, Bool.not_true, Bool.false_eq_true, false_and, or_self, if_false, false_or]
  rfl

theorem exec_plain (s : State) (a : Access) : exec (.memoryAccess (.plain a)) s = .next ((s.plainAccess a).getD s) := rfl

theorem exec_plain_running (ha : s.awake = true) (hb : s.pageBusy a.addr (accessSize a) = false)
    (hw : s.rcvWaits a.addr (accessSize a) = false) :
    exec (.memoryAccess (.plain a)) s = .next (answered (s.access a none)) := by
  rw [exec_plain, plainAccess_running ha hb hw]
  rfl

/-- A plain access is turned away, or answered from the access or as a halted device answers. -/
theorem exec_plain_cases (h : exec (.memoryAccess (.plain a)) s = .next t) :
    t = s ∨ t = answered (s.access a none) ∨ t = answered (s.haltedAccess a.write (accessSize a)) := by
  obtain rfl := Host.Outcome.next.inj h
  unfold State.plainAccess
  dsimp only
  split
  · exact Or.inl rfl
  · split
    · exact Or.inr (Or.inl rfl)
    · exact Or.inr (Or.inr rfl)

/-! ## An access whose range lies in HBM -/

/-- The recovery RAM lies above HBM. -/
theorem rcvWaits_hbm (ht : a.addr + accessSize a ≤ hbmTop) : s.rcvWaits a.addr (accessSize a) = false := by
  have htop : hbmTop < ctlBase + 0x10000000 := by decide
  unfold State.rcvWaits
  rw [decide_eq_false (by omega), Bool.and_false]

/-- The register windows lie above HBM. -/
theorem access_hbm (ep : Option (B32 × Nat)) (ht : a.addr + accessSize a ≤ hbmTop) : s.access a ep = s.memAccess a ep := by
  unfold State.access State.accessBytes
  split
  · next hrange =>
    unfold State.memAccess
    exact (if_pos hrange).symm
  · next hrange =>
    have hregs : inRegs a.addr (accessSize a) = 0 :=
      (inRegs_below ht).resolve_right (fun hlen => hrange (Or.inl hlen))
    exact if_pos hregs

theorem inRange_of_hbm {n len : Nat} (ht : n + len ≤ hbmTop) (hlen : 0 < len) : ¬ (len = 0 ∨ localTop < n + len - 1) := by
  have htop : hbmTop < localTop := by decide
  omega

/-- A permitted access to HBM is the write or the read of HBM. -/
theorem memAccess_hbm (ep : Option (B32 × Nat)) (hlen : 0 < accessSize a) (ht : a.addr + accessSize a ≤ hbmTop)
    (hv : s.verdict a.rq a.write a.addr (accessSize a) = none) :
    s.memAccess a ep = if a.write then ((s.hbmWrite a ep).1, (s.hbmWrite a ep).2, []) else s.hbmRead a ep := by
  unfold State.memAccess
  simp only [if_neg (inRange_of_hbm ht hlen), hv, if_pos (show a.addr < hbmTop by omega)]

theorem exec_plain_hbm (ha : s.awake = true) (hlen : 0 < accessSize a) (ht : a.addr + accessSize a ≤ hbmTop)
    (hb : s.pageBusy a.addr (accessSize a) = false) (hv : s.verdict a.rq a.write a.addr (accessSize a) = none) :
    exec (.memoryAccess (.plain a)) s = .next (answered
      (if a.write then ((s.hbmWrite a none).1, (s.hbmWrite a none).2, []) else s.hbmRead a none)) := by
  rw [exec_plain_running ha hb (rcvWaits_hbm ht), access_hbm none ht, memAccess_hbm none hlen ht hv]

theorem accessSize_write (hw : a.write = true) : accessSize a = a.data.length := if_pos hw

theorem accessSize_read (hr : a.write = false) : accessSize a = a.len := if_neg (ne_true_of_eq_false hr)

/-! ## Writes (R359, R362) -/

/-- The bytes of a write in HBM, each of its lines with fresh check bits. -/
def State.linesWritten (s : State) (a : Access) : State :=
  { s with mem := { s.mem with
    hbm := s.mem.hbm.writeBytes a.addr a.data
    ce := s.mem.ce.filter (fun l => !((linesOf a.addr a.data.length).contains l))
    ue := s.mem.ue.filter (fun l => !((linesOf a.addr a.data.length).contains l)) } }

/-- The Reservoir's part of a write, line by line. -/
def State.linesCached (s : State) (a : Access) : State :=
  (linesOf a.addr a.data.length).foldl (fun s l => s.rsvWrite a.addr (a.addr + a.data.length) l) s

/-- A write of whole lines merges nothing, so it is performed where the links of its stacks are up. -/
theorem hbmWrite_whole (ep : Option (B32 × Nat)) (haddr : a.addr % 64 = 0) (hdata : a.data.length % 64 = 0)
    (hlen : 0 < a.data.length) (hup : ∀ l ∈ linesOf a.addr a.data.length, s.stackUp (stackOf l) = true) :
    s.hbmWrite a ep = ((s.linesWritten a).linesCached a, 0) := by
  have hmerge : s.mergeReads ep (mergeLines a.addr a.data.length) = (s, true) := by
    rw [mergeLines_whole haddr hdata hlen]
    rfl
  unfold State.hbmWrite
  simp only [hmerge, List.all_eq_true.mpr hup, Bool.and_self, if_true]
  rfl

/-- A line of a write is neither uncorrectable nor correctable once it is written. -/
theorem linesWritten_mends {l : Nat} (hl : l ∈ linesOf a.addr a.data.length) :
    l ∉ (s.linesWritten a).mem.ue ∧ l ∉ (s.linesWritten a).mem.ce := by
  have hmends : ∀ m : List Nat, l ∉ m.filter (fun x => !((linesOf a.addr a.data.length).contains x)) := by
    intro m hm
    have hout := (List.mem_filter.mp hm).2
    rw [List.contains_iff_mem.mpr hl] at hout
    exact Bool.false_ne_true hout
  exact ⟨hmends _, hmends _⟩

/-- The Reservoir's part of a write spoils no line. -/
theorem linesCached_mends {l : Nat} (h : l ∉ s.mem.ue ∧ l ∉ s.mem.ce) :
    l ∉ (s.linesCached a).mem.ue ∧ l ∉ (s.linesCached a).mem.ce := by
  obtain ⟨hue, hce⟩ := errs_rsvFold a.addr (a.addr + a.data.length) (linesOf a.addr a.data.length) s
  refine ⟨?_, fun hl => h.2 (hce l hl)⟩
  unfold State.linesCached
  rw [hue]
  exact h.1

theorem linesCached_hbm (s : State) (a : Access) : (s.linesCached a).mem.hbm = s.mem.hbm := hbm_rsvFold _ _ _ s

end

/-- Settles O9: a write of whole lines merges nothing and is performed; its lines leave both lists of errors, and what the
Reservoir then does puts none of them back and changes no byte. -/
theorem wholeLineWriteMendsLines : Obligations.WholeLineWriteMendsLines := by
  unfold Obligations.WholeLineWriteMendsLines
  intro s a ha hw haddr hdata hlen htop hbusy hverdict hup
  have hsize := accessSize_write hw
  have hexec := exec_plain_hbm ha (hsize ▸ hlen) (hsize ▸ htop) (hsize ▸ hbusy) (by rw [hw, hsize]; exact hverdict)
  rw [if_pos hw, hbmWrite_whole none haddr hdata hlen hup] at hexec
  refine ⟨_, hexec, rfl, ?mended, ?stored⟩
  case mended => exact fun l hl hlo hhi => linesCached_mends (linesWritten_mends (mem_linesOf hl haddr hlo hhi))
  case stored =>
    intro i hi
    rw [answered_hbm, linesCached_hbm]
    exact Memory.read_writeBytes_inside a.data s.mem.hbm a.addr i hi

/-- Settles O15: of the three answers of a plain access only that of the memory can write, and it writes inside the range. -/
theorem plainWriteFrame : Obligations.PlainWriteFrame := by
  unfold Obligations.PlainWriteFrame
  intro s t a hw htop hexec c hc
  rcases exec_plain_cases hexec with rfl | rfl | rfl
  · rfl
  · rw [answered_hbm, access_hbm none (by rw [accessSize_write hw]; exact htop)]
    exact mem_write_frame s a none c hw htop hc
  · rfl

/-! ## Reads (R360, R369) -/

/-- Settles O16: of the three answers of a plain access only that of the memory does more than answer, and a read of HBM keeps
its bytes. -/
theorem plainReadFrame : Obligations.PlainReadFrame := by
  unfold Obligations.PlainReadFrame
  intro s t a hr htop hlen hexec
  rcases exec_plain_cases hexec with rfl | rfl | rfl
  · rfl
  · rw [answered_hbm, access_hbm none (by rw [accessSize_read hr]; exact htop)]
    exact hbm_memRead s a none hr (by omega)
  · rfl

/-- A read that meets no uncorrectable line or word on stacks whose links are up delivers the stored bytes. -/
theorem hbmRead_clean {s : State} {a : Access} (ep : Option (B32 × Nat)) (hue : ∀ l ∈ linesOf a.addr a.len, l ∉ s.mem.ue)
    (hup : ∀ l ∈ linesOf a.addr a.len, s.stackUp (stackOf l) = true)
    (hrsv : ∀ l ∈ linesOf a.addr a.len, ∀ w, w ∈ touched a.addr (a.addr + a.len) l → w ∉ s.mem.rsvUe) :
    s.hbmRead a ep = ((s.readLines a ep (linesOf a.addr a.len)).1, 0, s.mem.hbm.readBytes a.addr a.len) :=
  if_pos (good_readLines a ep _ s hue hup hrsv)

/-- Settles O17: each line of the range comes back, corrected or from the Reservoir where need be, so the read delivers the
stored bytes, and reading keeps them. -/
theorem plainReadDeliversStoredBytes : Obligations.PlainReadDeliversStoredBytes := by
  unfold Obligations.PlainReadDeliversStoredBytes
  intro s a ha hr hlen htop hbusy hverdict hup hue hrsv
  have hsize := accessSize_read hr
  have hexec := exec_plain_hbm ha (hsize ▸ hlen) (hsize ▸ htop) (hsize ▸ hbusy) (by rw [hr, hsize]; exact hverdict)
  rw [if_neg (ne_true_of_eq_false hr), hbmRead_clean none hue hup hrsv] at hexec
  exact ⟨_, hexec, rfl, rfl, hbm_readLines a none _ s⟩

end Sys2Proof.Machine
end

section
/-!
PROOFS. RESET_n on the stacks and the registers (R366, R447), and a register write that its requester may not make (R377,
R380).
-/
namespace Sys2Proof.Machine

theorem exec_resetNAssert {s : State} {ns : Nat} (hns : 10000 ≤ ns) (hp : s.boot.phase ≠ .tripped) :
    exec (.resetNAssert ns) s = .next (s.powerOn true) := attempt_some (if_pos ⟨hns, hp⟩)

/-- At power-on no stack has an entry of its own, so each is as at reset. -/
theorem powerOn_stack (s : State) (powered : Bool) (k : Nat) : (s.powerOn powered).stack k = Stack.idle k := rfl

/-- At power-on no register is stored. -/
theorem powerOn_reg (s : State) (powered : Bool) (k : Nat) : (s.powerOn powered).reg k = regReset k := rfl

/-- Settles O12: the assertion is a power-on with the supply standing, which stores no stack and no register and keeps the
contents that the supply or the package holds. -/
theorem resetClearsRetirementAndRegisters : Obligations.ResetClearsRetirementAndRegisters := by
  unfold Obligations.ResetClearsRetirementAndRegisters
  intro s ns hns hp
  refine ⟨s.powerOn true, exec_resetNAssert hns hp, rfl, fun k => ?_, powerOn_reg s true, rfl, rfl, rfl, rfl⟩
  rw [powerOn_stack]
  exact ⟨rfl, rfl, rfl⟩

/-- A register write that the requester may not make is logged, and no more. -/
theorem exec_registerWrite_refused {s : State} {rq : Requester} {k : Nat} (v : B32) (ha : s.awake = true) (hk : k % 4 = 0)
    (hq : regAllowed rq true k = false) : exec (.registerWrite rq k v) s = .next (s.refuseReg rq true k) := by
  have hwrite : s.regWrite rq k v = s.refuseReg rq true k := (if_pos ha).trans (if_neg (ne_true_of_eq_false hq))
  exact attempt_some ((if_pos ⟨ha, hk⟩).trans (congrArg some hwrite))

/-- Settles O14: the refused write is one entry of the violation log, whose frame is known. -/
theorem refusedRegisterWriteOnlyLogs : Obligations.RefusedRegisterWriteOnlyLogs := by
  unfold Obligations.RefusedRegisterWriteOnlyLogs
  intro s rq k v ha hk hq
  exact ⟨_, exec_registerWrite_refused v ha hk hq, viol_frame s rq true (ctlBase + k) _⟩

end Sys2Proof.Machine
end

section
/-!
PROOFS. The commands of the memory system (R363 to R367, R371 to R373, R376, R378, R383): retirement, the patrol reader, the
region table, the pins, the recovery RAM, and the accesses of every requester form.
-/
namespace Sys2Proof.Machine

section
variable {s : State}

/-! ## Accesses of the tiles, and requests that fail parity (R150, R155, R376) -/

/-- A halted device serves an access that lies whole in its register windows (R449). -/
theorem exec_plain_haltedRegs {a : Access} (h : s.boot.phase = .halted) (hin : inRegs a.addr (accessSize a) = accessSize a) :
    exec (.memoryAccess (.plain a)) s = .next (answered (s.access a none)) := by
  rw [exec_plain, plainAccess_halted h, if_pos hin]
  rfl

/-- A halted device answers any other access without data and without effect (R449). -/
theorem exec_plain_haltedOutside {a : Access} (h : s.boot.phase = .halted)
    (hout : inRegs a.addr (accessSize a) ≠ accessSize a) :
    exec (.memoryAccess (.plain a)) s = .next (answered (s.haltedAccess a.write (accessSize a))) := by
  rw [exec_plain, plainAccess_halted h, if_neg hout]
  rfl

theorem exec_badPlain {rq : Requester} (ha : s.awake = true) :
    exec (.memoryAccess (.badPlain rq)) s = .next (s.fabricFault rq.code.toNat (s.servedBy rq)) := attempt_some (if_pos ha)

section
variable {t id : Nat} {x : Xfer}

theorem exec_badDma (ha : s.awake = true) (ht : t < 80) (hx : (s.tile t).xfer id = some x) (hopen : x.answer = none)
    (hhere : x.away = false) (hop : x.op ≠ dmaPush) :
    exec (.memoryAccess (.badDma t id)) s = .next ((s.fabricFault t [x.step.epoch]).answerOwn t id 1 []) := by
  refine attempt_some ((if_pos ⟨ha, ht⟩).trans ?_)
  rw [hx]
  exact if_neg (by rw [hopen, hhere]; simp [hop])

theorem exec_dma (ha : s.awake = true) (ht : t < 80) (hx : (s.tile t).xfer id = some x) (hopen : x.answer = none)
    (hhere : x.away = false) (hop : x.op ≠ dmaPush) (hbusy : s.pageBusy (x.addr % 2 ^ 40) 512 = false)
    (hwait : s.writeWaits t x = false) :
    exec (.memoryAccess (.dma t id)) s = .next
      (let r := s.access (dmaAccess t x) (some (x.step.epoch, x.step.pipe))
      r.1.answerOwn t id r.2.1 r.2.2) := by
  refine attempt_some ((if_pos ⟨ha, ht⟩).trans ?_)
  rw [hx]
  exact if_neg (by rw [hopen, hhere, hbusy, hwait]; simp [hop])

end

/-! ## Page retirement and the patrol reader (R363 to R367) -/

section
variable {k : Nat}

/-- The oldest waiting page of a stack that copies none takes the lowest spare. -/
theorem exec_pageRetireStart {p : Nat} {ps : List Nat} (ha : s.awake = true) (hk : k < 8) (hq : (s.stack k).queue = p :: ps)
    (hc : (s.stack k).copying = none) (hfree : (s.stack k).spareFor p < sparePages) :
    exec (.pageRetireStart k) s = .next
      (let st := s.stack k
      let taken := st.spareFor p :: st.takenWith p
      let u := s.setStack k { st with queue := ps, copying := some (p, st.spareFor p), taken := taken }
      let u := (u.setFld (kHbm k 0) 0 15 (sparePages - taken.length)).mendPage k p
      if sparePages ≤ taken.length then u.sparesGone k p else u) := by
  refine attempt_some ((if_pos ⟨ha, hk⟩).trans ?_)
  simp only [hq, hc]
  exact if_pos hfree

/-- A copy that is complete puts the spare in the place of the page. -/
theorem exec_pageRetired {p f : Nat} (ha : s.awake = true) (hk : k < 8) (hc : (s.stack k).copying = some (p, f)) :
    exec (.pageRetired k) s = .next
      (let bad := if p < stackPages then
          (upTo 64).filter (fun i => s.mem.ue.contains (deviceAddr k (p * 4096 + i * 64))) else []
      let u := s.setStack k ((s.stack k).replaced p f bad)
      let u := if u.mem.retAdd = some (k, p) then
          ({ u with mem := { u.mem with retAdd := none } } : State).setBit (kMem 0x2104) 31 false else u
      (u.addSat (kHbm k 0xC) 1).raise 0x0503 (mkParam [(0, deviceAddr k (p * 4096)), (40, k)])) := by
  refine attempt_some ((if_pos ⟨ha, hk⟩).trans ?_)
  simp only [hc]

theorem exec_retAddGo {rq : Requester} {v : B32} (ha : s.awake = true) (hgo : v.getLsbD 31 = true)
    (hq : regAllowed rq true (kMem 0x2104) = true) : exec (.retAddGo rq v) s = .next (s.retAddGo v) :=
  attempt_guardReg ⟨ha, hgo⟩ hq s _

theorem exec_hbmPatrolRead (ha : s.awake = true) (hk : k < 8) (hon : s.fld (kMem 0x2108) 0 8 ≠ 0)
    (hfree : ((s.stack k).copying).any (fun c => c.1 == s.patrolPage k (s.stack k).patrol) = false) :
    exec (.hbmPatrolRead k) s = .next
      (let n := (s.stack k).patrol
      let u := s.setStack k { s.stack k with patrol := (n + 1) % patrolLines }
      match s.patrolLine k n with
      | some l => (u.hbmLine l none).1
      | none => u.patrolOff k n) :=
  attempt_some (if_pos ⟨ha, hk, hon, congrArg not hfree⟩)

end

/-! ## The region table (R377, R378) -/

/-- The key of a register of a region entry. -/
abbrev kRgnReg (i : Nat) (which : RgnReg) : Nat := kRgn i (match which with | .base => 0 | .last => 4 | .attr => 8)

section
variable {rq : Requester} {i : Nat} {which : RgnReg}

theorem exec_rgnWrite (v : B32) (ha : s.awake = true) (hi : i < 64) (hq : regAllowed rq true (kRgnReg i which) = true) :
    exec (.rgnWrite rq i which v) s = .next (s.setRgn i which v) := attempt_guardReg ⟨ha, hi⟩ hq s _

theorem exec_rgnWrite_locked (v : B32) (ha : s.awake = true) (hi : i < 64)
    (hq : regAllowed rq true (kRgnReg i which) = true) (hlock : (s.rgn i).lock = true) :
    exec (.rgnWrite rq i which v) s = .next s :=
  (exec_rgnWrite v ha hi hq).trans (congrArg _ (if_pos hlock))

/-- An open entry stores the fields of the register that is written. -/
theorem exec_rgnWrite_open (v : B32) (ha : s.awake = true) (hi : i < 64)
    (hq : regAllowed rq true (kRgnReg i which) = true) (hlock : (s.rgn i).lock = false) :
    exec (.rgnWrite rq i which v) s = .next
      (s.setReg (kRgnReg i which) (v &&& match which with | .base => 0x0FFFFFFF | .last => 0x0FFFFFFF | .attr => 0x3F)) := by
  refine (exec_rgnWrite v ha hi hq).trans (congrArg _ ((if_neg (ne_true_of_eq_false hlock)).trans ?_))
  cases which <;> rfl

end

/-! ## Reservoir pins (R371 to R373) -/

section
variable {rq : Requester} {j : Nat}

theorem exec_rsvPinWrite (v : B32) (ha : s.awake = true) (hj : j < 8) (hq : regAllowed rq true (kPin j) = true) :
    exec (.rsvPinWrite rq j v) s = .next (s.setPin j v) := attempt_guardReg ⟨ha, hj⟩ hq s _

theorem exec_pinFill (ha : s.awake = true) (hj : j < 8) (hq : regAllowed rq true (kPin j) = true)
    (hidle : s.bit (kPin j) 7 = false) : exec (.pinFill rq j) s = .next (s.setBit (kPin j) 7 true) :=
  attempt_guardReg ⟨ha, hj, congrArg not hidle⟩ hq s _

theorem exec_pinFillDone (ha : s.awake = true) (hj : j < 8) (hfill : s.bit (kPin j) 7 = true)
    (hfree : (s.pinLines j).any (fun a => s.pageBusy a 128) = false) :
    exec (.pinFillDone j) s = .next (((s.pinLines j).foldl (fun s a => s.fillLine a) s).setBit (kPin j) 7 false) :=
  attempt_some (if_pos ⟨ha, hj, hfill, congrArg not hfree⟩)

end

end

/-- Settles O45: an access by whether the device runs and where it reaches, a region entry by its lock, a pin by R371, the other
commands by the conditions under which they act. -/
theorem memoryCommandsComplete : Obligations.MemoryCommandsComplete := by
  unfold Obligations.MemoryCommandsComplete
  refine ⟨?running, ?haltedRegs, ?haltedOutside, ?badPlain, ?badDma, ?dma, ?retireStart, ?retired, ?addIgnored, ?addQueued,
    ?patrol, ?baseOpen, ?baseLocked, ?lastOpen, ?lastLocked, ?attrOpen, ?attrLocked, ?pinStored, ?pinIgnored, ?fill,
    ?fillDone, ?recovery⟩
  case running => exact fun s a ha hb hw => exec_plain_running ha hb hw
  case haltedRegs => exact fun s a h hin => exec_plain_haltedRegs h hin
  case haltedOutside => exact fun s a h hout => exec_plain_haltedOutside h hout
  case badPlain => exact fun s rq ha => exec_badPlain ha
  case badDma => exact fun s t id x ha ht hx ho hh hop => exec_badDma ha ht hx ho hh hop
  case dma => exact fun s t id x ha ht hx ho hh hop hb hw => exec_dma ha ht hx ho hh hop hb hw
  case retireStart => exact fun s k p ps ha hk hq hc hf => exec_pageRetireStart ha hk hq hc hf
  case retired => exact fun s k p f ha hk hc => exec_pageRetired ha hk hc
  case addIgnored =>
    exact fun s rq v ha hgo hq hign => (exec_retAddGo ha hgo hq).trans (congrArg _ (if_pos hign))
  case addQueued =>
    exact fun s rq v ha hgo hq hact => (exec_retAddGo ha hgo hq).trans (congrArg _ (if_neg hact))
  case patrol => exact fun s k ha hk hon hf => exec_hbmPatrolRead ha hk hon hf
  case baseOpen | lastOpen | attrOpen => exact fun s rq i v ha hi hq hl => exec_rgnWrite_open v ha hi hq hl
  case baseLocked | lastLocked | attrLocked => exact fun s rq i v ha hi hq hl => exec_rgnWrite_locked v ha hi hq hl
  case pinStored =>
    exact fun s rq j v ha hj hq hok =>
      (exec_rsvPinWrite v ha hj hq).trans (congrArg _ (if_neg (ne_true_of_eq_false hok)))
  case pinIgnored => exact fun s rq j v ha hj hq hno => (exec_rsvPinWrite v ha hj hq).trans (congrArg _ (if_pos hno))
  case fill => exact fun s rq j ha hj hq hidle => exec_pinFill ha hj hq hidle
  case fillDone => exact fun s j ha hj hfill hfree => exec_pinFillDone ha hj hfill hfree
  case recovery => exact fun s m ha hgo => attempt_some (if_pos ⟨ha, hgo⟩)

end Sys2Proof.Machine
end

section
/-!
PROOFS. The intake rings (R398 to R401, R404 to R406): the enable by its checks and by where host memory is reached, the drain
and the poll, and what becomes of a producer word, a descriptor and an item's data, good or failed.
-/
namespace Sys2Proof.Machine

/-- A home without a path to host memory, or without an answer, has no word. -/
theorem homeWord_eq_none {path : Bool} {w : Option B32} (h : path = false ∨ w = none) : (if path then w else none) = none := by
  rcases h with hpath | hw
  · exact if_neg (ne_true_of_eq_false hpath)
  · rw [hw, ite_self]

section
variable {s u : State} {i : Nat}

/-! ## Enable (R398) -/

/-- The fields that an enable stores before its checks (R7). -/
abbrev State.irStored (s : State) (i : Nat) (v : B32) : State := s.setReg (kIr i 8) (v &&& 0x03FFFF3E)

/-- The checks of an enable, whose fields are stored, and the read of the producer word by the home or through it. -/
def State.irEnabled (u : State) (i : Nat) (v : B32) (prod : Option B32) : State :=
  match u.irRefuses i v with
  | some e => u.setIrErr i e
  | none => if u.isHome then u.irLoad i (if u.hostPath then prod else none) else u.irStart i v

theorem irEnabled_refused {v : B32} {e : Nat} (h : u.irRefuses i v = some e) (prod : Option B32) :
    u.irEnabled i v prod = u.setIrErr i e := by
  unfold State.irEnabled
  rw [h]

theorem irEnabled_home {v : B32} (h : u.irRefuses i v = none) (hhome : u.isHome = true) (prod : Option B32) :
    u.irEnabled i v prod = u.irLoad i (if u.hostPath then prod else none) := by
  unfold State.irEnabled
  rw [h]
  exact if_pos hhome

/-- A device that is not its own home stores the fields again, which changes nothing, and marks its read as outstanding. -/
theorem irEnabled_away {v : B32} (h : (s.irStored i v).irRefuses i v = none) (haway : (s.irStored i v).isHome = false)
    (hpath : (s.irStored i v).hostPath = true) (prod : Option B32) :
    (s.irStored i v).irEnabled i v prod =
      (s.irStored i v).setIring i { (s.irStored i v).iring i with enabling := true } := by
  have hstart : (s.irStored i v).irEnabled i v prod = (s.irStored i v).irStart i v := by
    unfold State.irEnabled
    rw [h]
    exact if_neg (ne_true_of_eq_false haway)
  rw [hstart]
  unfold State.irStart
  simp only [State.setReg_setReg, h]
  exact if_pos hpath

theorem exec_irEnable {v : B32} (ha : s.awake = true) (hi : i < 256) (hon : v.getLsbD 0 = true)
    (hoff : s.bit (kIr i 8) 0 = false) (hidle : s.irState i = 0) (hfree : (s.iring i).enabling = false) (prod : Option B32) :
    exec (.irEnable i v prod) s = .next ((s.irStored i v).irEnabled i v prod) :=
  attempt_some (if_pos ⟨ha, hi, hon, congrArg not hoff, hidle, congrArg not hfree⟩)

/-! ## Disable, drain and poll (R399, R400) -/

theorem exec_irDisable {v : B32} (ha : s.awake = true) (hi : i < 256) (hzero : v.getLsbD 0 = false)
    (hon : s.bit (kIr i 8) 0 = true) (hst : s.irState i = 1 ∨ s.irState i = 3) :
    exec (.irDisable i v) s = .next
      (((s.setBit (kIr i 8) 0 false).setIrState i 2).setIring i { s.iring i with polled := false, asked := false }) :=
  attempt_some (if_pos ⟨ha, hi, congrArg not hzero, hon, hst⟩)

theorem exec_irDrainDone (ha : s.awake = true) (hi : i < 256) (hst : s.irState i = 2) (hopen : (s.iring i).open_ = 0)
    (hdesc : (s.iring i).desc = none) : exec (.irDrainDone i) s = .next (s.setIrState i 0) :=
  attempt_some (if_pos ⟨ha, hi, hst, hopen, hdesc⟩)

theorem exec_irPoll (ha : s.awake = true) (hi : i < 256) (hrun : s.irState i = 1) (hhere : s.hostAbsent = false) :
    exec (.irPoll i) s = .next
      (if s.hostPath then s.setIring i { s.iring i with polled := true } else s.hdmaErr.irHalt i 2 0) :=
  attempt_some (if_pos ⟨ha, hi, hrun, congrArg not hhere⟩)

/-! ## The producer word (R398, R401, R402, R406) -/

theorem irPolled_within {p : B32} (h : (p - u.reg (kIr i 0x20)).toNat ≤ 2 ^ u.fld (kIr i 8) 1 5) :
    u.irPolled i (some p) = (u.setIring i { u.iring i with prod := p, polled := false }).irNext i :=
  if_neg (Nat.not_lt.mpr h)

theorem irPolled_beyond {p : B32} (h : 2 ^ u.fld (kIr i 8) 1 5 < (p - u.reg (kIr i 0x20)).toNat) :
    u.irPolled i (some p) = u.irHalt i 0x13 p := if_pos h

section
variable {prod : Option B32}

theorem exec_irProducerReturn_waits (ha : s.awake = true) (hi : i < 256)
    (hask : (s.iring i).enabling = true ∨ (s.irState i = 1 ∧ (s.iring i).polled = true))
    (hf : s.fetchWord (.producer i) (kIr i 0x10) prod = (u, none)) : exec (.irProducerReturn i prod) s = .next u := by
  refine attempt_some ((if_pos ⟨ha, hi, hask⟩).trans ?_)
  simp only [hf]

theorem exec_irProducerReturn_enabling {w : Option B32} (ha : s.awake = true) (hi : i < 256)
    (hen : (s.iring i).enabling = true) (hf : s.fetchWord (.producer i) (kIr i 0x10) prod = (u, some w)) :
    exec (.irProducerReturn i prod) s = .next (u.irLoad i w) := by
  refine attempt_some ((if_pos ⟨ha, hi, .inl hen⟩).trans ?_)
  simp only [hf, hen, if_true]

theorem exec_irProducerReturn_polled {w : Option B32} (ha : s.awake = true) (hi : i < 256) (hrun : s.irState i = 1)
    (hpolled : (s.iring i).polled = true) (hen : (s.iring i).enabling = false)
    (hf : s.fetchWord (.producer i) (kIr i 0x10) prod = (u, some w)) :
    exec (.irProducerReturn i prod) s = .next (u.irPolled i w) := by
  refine attempt_some ((if_pos ⟨ha, hi, .inr ⟨hrun, hpolled⟩⟩).trans ?_)
  simp only [hf, hen, Bool.false_eq_true, if_false]

end

/-! ## The descriptor (R396, R404, R406) -/

section
variable {desc : Option (BitVec 512)}

theorem exec_irDescriptorReturn_waits (ha : s.awake = true) (hi : i < 256) (hrun : s.irState i = 1)
    (hask : (s.iring i).asked = true)
    (hf : s.hostFetch (.desc i) (s.irDescAt i) 64 (desc.map (fun d => natToBytes d.toNat 64)) = (u, none)) :
    exec (.irDescriptorReturn i desc) s = .next u := by
  refine attempt_some ((if_pos ⟨ha, hi, hrun, hask⟩).trans ?_)
  simp only [hf]

theorem exec_irDescriptorReturn {l : Option (List Byte)} (ha : s.awake = true) (hi : i < 256) (hrun : s.irState i = 1)
    (hask : (s.iring i).asked = true)
    (hf : s.hostFetch (.desc i) (s.irDescAt i) 64 (desc.map (fun d => natToBytes d.toNat 64)) = (u, some l)) :
    exec (.irDescriptorReturn i desc) s = .next
      (u.irDescriptor i (l.map (fun b => BitVec.ofNat 512 (bytesToNat b)))) := by
  refine attempt_some ((if_pos ⟨ha, hi, hrun, hask⟩).trans ?_)
  simp only [hf]

end

section
variable {t : Target} {d : BitVec 512}

/-- A descriptor that fails a check ends its sample with that status. -/
theorem irDescriptor_refused {st : Nat} (ht : (u.iring i).target = some t)
    (hst : (u.setIring i { u.iring i with asked := false }).descStatus t d = some st) :
    u.irDescriptor i (some d) =
      (u.setIring i { u.iring i with asked := false }).irFail i (u.fld (kIr i 8) 8 8) st
        (BitVec.ofNat 64 (bitsOf d.toNat 64 64)) (BitVec.ofNat 32 (bitsOf d.toNat 224 32)) := by
  unfold State.irDescriptor
  simp only [ht] at hst ⊢
  simp only [hst]
  rfl

/-- A good descriptor is latched with its buffer entry, and a tensor takes the slots that it will fill. -/
theorem irDescriptor_latched (ht : (u.iring i).target = some t)
    (hst : (u.setIring i { u.iring i with asked := false }).descStatus t d = none) :
    u.irDescriptor i (some d) =
      (let n := d.toNat
       let u := u.setIring i { u.iring i with asked := false }
       let buf := bitsOf n 32 12
       let mem := u.bit (kBuf buf 0xC) 8
       let addr := (u.reg64 (kBuf buf 0)).toNat
       let base := (if mem then addr % 2 ^ 40 else addr) + bitsOf n 128 40
       let slots := match t with
         | .tensor p port => (u.sourceSlots p port).getD []
         | .au _ => []
       let u := match t with
         | .tensor p _ => u.fillSlots p slots
         | .au _ => u
       u.setIring i { u.iring i with desc := some ⟨BitVec.ofNat 64 (bitsOf n 64 64), BitVec.ofNat 32 (bitsOf n 224 32), base,
         bitsOf n 192 32, mem, slots, u.fld (kIr i 8) 8 8, false⟩ }) := by
  unfold State.irDescriptor
  simp only [ht] at hst ⊢
  simp only [hst] <;> rfl

end

/-! ## The data (R401, R405, R406) -/

/-- The read of an item's data as it has ended: its state, its status and its bytes. Device memory is read here; of host
memory `x` is the answer, which must have the length that was asked for. -/
def State.itemRead (s : State) (d : IrDesc) (x : State × Option (Option (List Byte))) : State × Nat × List Byte :=
  if d.mem then s.hostWindow false d.addr d.length []
  else match x.2 with
    | some (some b) => if b.length = d.length then (x.1, 0, b) else (x.1.hdmaErr, 2, [])
    | _ => (x.1.hdmaErr, 2, [])

section
variable {data : Option (List Byte)} {d : IrDesc} {t : Target}

/-- An item whose data is in device memory, or has come from the host, goes on with its bytes or its status. -/
theorem exec_irDataReturn {x : State × Option (Option (List Byte))} (ha : s.awake = true) (hi : i < 256)
    (hdesc : (s.iring i).desc = some d) (ht : (s.iring i).target = some t) (hwait : s.itemWaits t d = false)
    (hx : x = s.hostFetch (.data i) d.addr d.length data) (hcome : d.mem = true ∨ x.2 ≠ none) :
    exec (.irDataReturn i data) s = .next
      ((s.itemRead d x).1.irItem i t d (s.itemRead d x).2.1 (s.itemRead d x).2.2) := by
  refine attempt_some ((if_pos ⟨ha, hi⟩).trans ?_)
  simp only [hdesc, ht, hwait, ← hx, Bool.false_eq_true, if_false]
  unfold State.itemRead
  cases hmem : d.mem with
  | true => rfl
  | false =>
    obtain ⟨w, a⟩ := x
    match a, hcome with
    | none, h => exact absurd rfl (h.resolve_left (ne_true_of_eq_false hmem))
    | some none, _ => rfl
    | some (some b), _ =>
      by_cases hlen : b.length = d.length
      · simp only [hlen, Bool.false_eq_true, if_false, if_true]
      · simp only [hlen, Bool.false_eq_true, if_false]

theorem exec_irDataReturn_waits (ha : s.awake = true) (hi : i < 256) (hdesc : (s.iring i).desc = some d)
    (ht : (s.iring i).target = some t) (hwait : s.itemWaits t d = false) (hmem : d.mem = false)
    (hf : s.hostFetch (.data i) d.addr d.length data = (u, none)) : exec (.irDataReturn i data) s = .next u := by
  refine attempt_some ((if_pos ⟨ha, hi⟩).trans ?_)
  simp only [hdesc, ht, hwait, hmem, hf, Bool.false_eq_true, if_false]

end

section
variable {d : IrDesc} {bytes : List Byte}

/-- A failed read gives the slots of a tensor back and ends the sample. -/
theorem irItem_failed (t : Target) {status : Nat} (h : status ≠ 0) :
    u.irItem i t d status bytes =
      (match t with
        | .tensor p _ => u.unfillSlots p d.slots
        | .au _ => u).irFail i d.rring status d.sample d.tag := by
  cases t <;> exact if_pos h

section
variable {p : Nat} (port : Nat)

/-- A tensor that memory refuses gives its slots back and ends its sample with the refusing status. -/
theorem irItem_tensor_refused (h : (u.writeSlots p d.slots bytes).2 ≠ 0) :
    u.irItem i (.tensor p port) d 0 bytes =
      ((u.writeSlots p d.slots bytes).1.unfillSlots p d.slots).irFail i d.rring (u.writeSlots p d.slots bytes).2
        d.sample d.tag := if_pos h

/-- A tensor in its slots waits for its epoch, or is completed at once in a stopped pipeline. -/
theorem irItem_tensor_written (h : (u.writeSlots p d.slots bytes).2 = 0) :
    u.irItem i (.tensor p port) d 0 bytes =
      (let w := u.writeSlots p d.slots bytes
       let sm : Sample := ⟨2, d.sample, [], some i, d.rring, d.tag, 0, 0, u.timeNs⟩
       let u := w.1.setIring i { w.1.iring i with desc := none, open_ := (w.1.iring i).open_ + 1 }
       let u := if (u.pipe p).stopped then u.completeStopped p d.slots sm
                else u.pushSource p port ⟨d.slots, sm, [], [], d.length, none⟩
       (u.irAdvance i d.stale).irNext i) := if_neg (not_not_intro h)

end

/-- An access unit goes to the parser of its context. -/
theorem irItem_au (y : Nat) :
    u.irItem i (.au y) d 0 bytes =
      (let sm : Sample := ⟨2, d.sample, [], some i, d.rring, d.tag, 0, 0, u.timeNs⟩
       let u := u.setIring i { u.iring i with desc := none, open_ := (u.iring i).open_ + 1 }
       let u : State := { u with vid := { u.vid with
         units := u.vid.units ++ [(⟨y, bytes, sm, false, false, 0, 0, none, false, false⟩ : AuUnit)] } }
       (u.irAdvance i d.stale).irNext i) := rfl

end

end

/-- Settles O46: an enable by its checks and the home of the device, each return of a host read by whether it has come and
whether it is good, and an item by its target. -/
theorem hostRingCommandsComplete : Obligations.HostRingCommandsComplete := by
  unfold Obligations.HostRingCommandsComplete
  refine ⟨?refused, ?noWord, ?enabled, ?asks, ?disable, ?drained, ?poll, ?pollFails, ?within, ?beyond, ?wordFails, ?loads,
    ?wordWaits, ?descRefused, ?descLatched, ?descFails, ?descWaits, ?dataFails, ?slotRefused, ?tensor, ?au, ?dataWaits⟩
  case refused =>
    intro s i v prod e ha hi hon hoff hidle hfree hr
    rw [exec_irEnable ha hi hon hoff hidle hfree, irEnabled_refused hr]
  case noWord =>
    intro s i v prod ha hi hon hoff hidle hfree hr hhome hno
    rw [exec_irEnable ha hi hon hoff hidle hfree, irEnabled_home hr hhome, homeWord_eq_none hno]
    rfl
  case enabled =>
    intro s i v prod p ha hi hon hoff hidle hfree hr hhome hpath hprod
    rw [exec_irEnable ha hi hon hoff hidle hfree, irEnabled_home hr hhome, if_pos hpath, hprod]
    rfl
  case asks =>
    intro s i v prod ha hi hon hoff hidle hfree hr haway hpath
    rw [exec_irEnable ha hi hon hoff hidle hfree, irEnabled_away hr haway hpath]
  case disable => exact fun s i v ha hi hzero hon hst => exec_irDisable ha hi hzero hon hst
  case drained => exact fun s i ha hi hst hopen hdesc => exec_irDrainDone ha hi hst hopen hdesc
  case poll => exact fun s i ha hi hrun hhere hpath => (exec_irPoll ha hi hrun hhere).trans (congrArg _ (if_pos hpath))
  case pollFails =>
    exact fun s i ha hi hrun hhere hpath =>
      (exec_irPoll ha hi hrun hhere).trans (congrArg _ (if_neg (ne_true_of_eq_false hpath)))
  case within =>
    intro s i prod u p ha hi hrun hpolled hen hf hp
    rw [exec_irProducerReturn_polled ha hi hrun hpolled hen hf, irPolled_within hp]
  case beyond =>
    intro s i prod u p ha hi hrun hpolled hen hf hp
    rw [exec_irProducerReturn_polled ha hi hrun hpolled hen hf, irPolled_beyond hp]
  case wordFails => exact fun s i prod u ha hi hrun hpolled hen hf => exec_irProducerReturn_polled ha hi hrun hpolled hen hf
  case loads => exact fun s i prod u w ha hi hen hf => exec_irProducerReturn_enabling ha hi hen hf
  case wordWaits => exact fun s i prod u ha hi hask hf => exec_irProducerReturn_waits ha hi hask hf
  case descRefused =>
    intro s i desc u l t d st ha hi hrun hask hf ht hd hst
    subst hd
    exact (exec_irDescriptorReturn ha hi hrun hask hf).trans (congrArg _ (irDescriptor_refused ht hst))
  case descLatched =>
    intro s i desc u l t d ha hi hrun hask hf ht hd hst
    subst hd
    exact (exec_irDescriptorReturn ha hi hrun hask hf).trans (congrArg _ (irDescriptor_latched ht hst))
  case descFails => exact fun s i desc u ha hi hrun hask hf => exec_irDescriptorReturn ha hi hrun hask hf
  case descWaits => exact fun s i desc u ha hi hrun hask hf => exec_irDescriptorReturn_waits ha hi hrun hask hf
  case dataFails =>
    intro s i data d x t r ha hi hdesc ht hwait hx hcome hr hst
    replace hr : r = s.itemRead d x := hr
    rw [exec_irDataReturn ha hi hdesc ht hwait hx hcome, ← hr]
    exact congrArg _ (irItem_failed t hst)
  case slotRefused =>
    intro s i data d x p port r ha hi hdesc ht hwait hx hcome hr hst hwr
    replace hr : r = s.itemRead d x := hr
    rw [exec_irDataReturn ha hi hdesc ht hwait hx hcome, ← hr, hst, irItem_tensor_refused port hwr]
  case tensor =>
    intro s i data d x p port r ha hi hdesc ht hwait hx hcome hr hst hwr
    replace hr : r = s.itemRead d x := hr
    rw [exec_irDataReturn ha hi hdesc ht hwait hx hcome, ← hr, hst, irItem_tensor_written port hwr]
  case au =>
    intro s i data d x y r ha hi hdesc ht hwait hx hcome hr hst
    replace hr : r = s.itemRead d x := hr
    rw [exec_irDataReturn ha hi hdesc ht hwait hx hcome, ← hr, hst, irItem_au]
  case dataWaits => exact fun s i data d t u ha hi hdesc ht hwait hmem hf => exec_irDataReturn_waits ha hi hdesc ht hwait hmem hf

end Sys2Proof.Machine
end

section
/-!
PROOFS. The result rings and their messages (R398, R409 to R412, R479): the enable by its checks and by where host memory is
reached, the entry that is written or waits for space, the consumer word of a result ring and of the event ring, and the
messages that moderation or a mask has held back.
-/
namespace Sys2Proof.Machine

section
variable {s u : State} {j : Nat}

/-! ## Enable and disable (R411) -/

/-- The fields that an enable stores before its checks (R7). -/
abbrev State.rrStored (s : State) (j : Nat) (v : B32) : State := s.setReg (kRr j 8) (v &&& 0x3F3E)

/-- The checks of an enable, whose fields are stored, and the read of the consumer word by the home or through it. -/
def State.rrEnabled (u : State) (j : Nat) (v : B32) (cons : Option B32) : State :=
  match u.rrRefuses j v with
  | some e => u.setFld (kRr j 0x24) 8 8 e
  | none => if u.isHome then u.rrLoad j (if u.hostPath then cons else none) else u.rrStart j v

theorem rrEnabled_refused {v : B32} {e : Nat} (h : u.rrRefuses j v = some e) (cons : Option B32) :
    u.rrEnabled j v cons = u.setFld (kRr j 0x24) 8 8 e := by
  unfold State.rrEnabled
  rw [h]

theorem rrEnabled_home {v : B32} (h : u.rrRefuses j v = none) (hhome : u.isHome = true) (cons : Option B32) :
    u.rrEnabled j v cons = u.rrLoad j (if u.hostPath then cons else none) := by
  unfold State.rrEnabled
  rw [h]
  exact if_pos hhome

/-- A device that is not its own home stores the fields again, which changes nothing, and marks its read as outstanding. -/
theorem rrEnabled_away {v : B32} (h : (s.rrStored j v).rrRefuses j v = none) (haway : (s.rrStored j v).isHome = false)
    (hpath : (s.rrStored j v).hostPath = true) (cons : Option B32) :
    (s.rrStored j v).rrEnabled j v cons =
      (s.rrStored j v).setRring j { (s.rrStored j v).rring j with enabling := true } := by
  have hstart : (s.rrStored j v).rrEnabled j v cons = (s.rrStored j v).rrStart j v := by
    unfold State.rrEnabled
    rw [h]
    exact if_neg (ne_true_of_eq_false haway)
  rw [hstart]
  unfold State.rrStart
  simp only [State.setReg_setReg, h]
  exact if_pos hpath

theorem exec_rrEnable {v : B32} (ha : s.awake = true) (hj : j < 256) (hon : v.getLsbD 0 = true)
    (hoff : s.bit (kRr j 8) 0 = false) (hfree : (s.rring j).enabling = false) (cons : Option B32) :
    exec (.rrEnable j v cons) s = .next ((s.rrStored j v).rrEnabled j v cons) :=
  attempt_some (if_pos ⟨ha, hj, hon, congrArg not hoff, congrArg not hfree⟩)

theorem exec_rrDisable {v : B32} (ha : s.awake = true) (hj : j < 256) (hzero : v.getLsbD 0 = false)
    (hon : s.bit (kRr j 8) 0 = true) :
    exec (.rrDisable j v) s = .next
      ((s.rring j).waiting.foldl (fun s e => (s.addSat (kRr j 0x2C) 1).entryDone e)
        (((s.setBit (kRr j 8) 0 false).setFld (kRr j 0x24) 0 2 0).setRring j
          { s.rring j with waiting := [], since := 0 })) :=
  attempt_some (if_pos ⟨ha, hj, congrArg not hzero, hon⟩)

/-! ## Entries (R409, R410) -/

/-- The oldest waiting entry is written where the free units cover it and its PAD; else the ring waits for space. -/
theorem exec_rrEntryWrite {e : ResEntry} {es : List ResEntry} (ha : s.awake = true) (hj : j < 256)
    (hon : s.bit (kRr j 8) 0 = true) (hhere : s.hostAbsent = false) (hw : (s.rring j).waiting = e :: es) :
    exec (.rrEntryWrite j) s = .next
      (if (s.rrPlace j e).1 + (s.rrPlace j e).2.1 ≤ s.rrFree j then
        ((s.setRring j { s.rring j with waiting := es }).setFld (kRr j 0x24) 0 2 1).rrWrite j e
      else s.setFld (kRr j 0x24) 0 2 2) := by
  refine attempt_some ((if_pos ⟨ha, hj, hon, congrArg not hhere⟩).trans ?_)
  rw [hw]
  exact (apply_ite some _ _ _).symm

/-! ## Consumer words (R410, R411, R479) -/

section
variable {cons : Option B32}

theorem exec_rrConsumerReread_waits (ha : s.awake = true) (hask : s.consAsked j = true)
    (hf : s.fetchWord (.consumer j) (kCons j) cons = (u, none)) : exec (.rrConsumerReread j cons) s = .next u := by
  refine attempt_some ((if_pos ⟨ha, hask⟩).trans ?_)
  simp only [hf]

/-- The word of a result ring ends its enable or its wait for space. -/
theorem exec_rrConsumerReread_ring {w : Option B32} (ha : s.awake = true) (hj : j < 256) (hask : s.consAsked j = true)
    (hf : s.fetchWord (.consumer j) (kCons j) cons = (u, some w)) :
    exec (.rrConsumerReread j cons) s = .next (if (s.rring j).enabling then u.rrLoad j w else u.rrReread j w) := by
  refine attempt_some ((if_pos ⟨ha, hask⟩).trans ?_)
  simp only [hf, if_neg (Nat.ne_of_lt hj)]

/-- The word of the event ring ends its enable or its wait for space. -/
theorem exec_rrConsumerReread_event {w : Option B32} (ha : s.awake = true) (hask : s.consAsked 256 = true)
    (hf : s.fetchWord (.consumer 256) (kCons 256) cons = (u, some w)) :
    exec (.rrConsumerReread 256 cons) s = .next (if s.host.evEnabling then u.evtLoad w else u.evtReread w) := by
  refine attempt_some ((if_pos ⟨ha, hask⟩).trans ?_)
  simp only [hf, if_true]

end

theorem rrReread_within {c : B32} (h : (u.reg (kRr j 0x20) - c).toNat ≤ 2 ^ u.fld (kRr j 8) 1 5) :
    u.rrReread j (some c) = u.setRring j { u.rring j with cons := c } := if_neg (Nat.not_lt.mpr h)

theorem rrReread_beyond {c : B32} (h : 2 ^ u.fld (kRr j 8) 1 5 < (u.reg (kRr j 0x20) - c).toNat) :
    u.rrReread j (some c) = u.setBit (kRr j 0x24) 2 true := if_pos h

theorem evtReread_within {c : B32} (h : (u.host.evProd - c).toNat ≤ 2 ^ u.fld (kQcx 0x308) 1 5) :
    u.evtReread (some c) = { u with host := { u.host with evCons := c } } := if_neg (Nat.not_lt.mpr h)

theorem evtReread_beyond {c : B32} (h : 2 ^ u.fld (kQcx 0x308) 1 5 < (u.host.evProd - c).toNat) :
    u.evtReread (some c) = u := if_pos h

/-! ## Messages (R412, R479) -/

theorem exec_msixModerationExpire_ring (ha : s.awake = true) (hj : j < 256) (hus : s.fld (kRr j 0xC) 16 16 ≠ 0)
    (hsince : (s.rring j).since ≠ 0) (hdue : (s.rring j).firstAt + usTicks (s.fld (kRr j 0xC) 16 16) ≤ s.elapsed.toNat) :
    exec (.msixModerationExpire j) s = .next
      ((s.setRring j { s.rring j with since := 0 }).sendMsix (s.fld (kRr j 8) 8 6)) :=
  attempt_some ((if_pos ⟨ha, hj⟩).trans (if_pos ⟨hus, hsince, hdue⟩))

theorem exec_msixModerationExpire_event (ha : s.awake = true) (hus : s.fld (kQcx 0x320) 16 16 ≠ 0)
    (hsince : s.host.evSince ≠ 0) (hdue : s.host.evFirst + usTicks (s.fld (kQcx 0x320) 16 16) ≤ s.elapsed.toNat) :
    exec (.msixModerationExpire 256) s = .next (({ s with host := { s.host with evSince := 0 } } : State).sendMsix 0) :=
  attempt_some ((if_neg (fun h => Nat.lt_irrefl _ h.2)).trans ((if_pos ⟨ha, rfl⟩).trans (if_pos ⟨hus, hsince, hdue⟩)))

/-- Unmasking a vector sends the message that its pending bit holds. -/
theorem exec_msixUnmask {vec : Nat} (ha : s.awake = true) (hv : vec < 64) (hmask : s.bit (kMsix vec 0xC) 0 = true) :
    exec (.msixUnmask vec) s = .next
      (let k := kPba + 4 * (vec / 32)
       let u := s.setBit (kMsix vec 0xC) 0 false
       if u.bit k (vec % 32) then (u.setBit k (vec % 32) false).sendMsix vec else u) :=
  attempt_some (if_pos ⟨ha, hv, hmask⟩)

end

/-- Settles O47: an enable by its checks and the home of the device, an entry by the free units, a consumer word by its ring
and its value, a message by what has held it back. -/
theorem resultRingCommandsComplete : Obligations.ResultRingCommandsComplete := by
  unfold Obligations.ResultRingCommandsComplete
  refine ⟨?refused, ?noWord, ?enabled, ?asks, ?disable, ?written, ?noSpace, ?within, ?beyond, ?failed, ?loads, ?evtWithin,
    ?evtBeyond, ?evtFailed, ?evtLoads, ?waits, ?moderation, ?evtModeration, ?unmask⟩
  case refused =>
    intro s j v cons e ha hj hon hoff hfree hr
    rw [exec_rrEnable ha hj hon hoff hfree, rrEnabled_refused hr]
  case noWord =>
    intro s j v cons ha hj hon hoff hfree hr hhome hno
    rw [exec_rrEnable ha hj hon hoff hfree, rrEnabled_home hr hhome, homeWord_eq_none hno]
    rfl
  case enabled =>
    intro s j v cons p ha hj hon hoff hfree hr hhome hpath hcons
    rw [exec_rrEnable ha hj hon hoff hfree, rrEnabled_home hr hhome, if_pos hpath, hcons]
    rfl
  case asks =>
    intro s j v cons ha hj hon hoff hfree hr haway hpath
    rw [exec_rrEnable ha hj hon hoff hfree, rrEnabled_away hr haway hpath]
  case disable => exact fun s j v ha hj hzero hon => exec_rrDisable ha hj hzero hon
  case written =>
    exact fun s j e es ha hj hon hhere hw hspace =>
      (exec_rrEntryWrite ha hj hon hhere hw).trans (congrArg _ (if_pos hspace))
  case noSpace =>
    exact fun s j e es ha hj hon hhere hw hfull =>
      (exec_rrEntryWrite ha hj hon hhere hw).trans (congrArg _ (if_neg (Nat.not_le.mpr hfull)))
  case within =>
    intro s j cons u c ha hj hask hen hf hc
    rw [exec_rrConsumerReread_ring ha hj hask hf, if_neg (ne_true_of_eq_false hen), rrReread_within hc]
  case beyond =>
    intro s j cons u c ha hj hask hen hf hc
    rw [exec_rrConsumerReread_ring ha hj hask hf, if_neg (ne_true_of_eq_false hen), rrReread_beyond hc]
  case failed =>
    exact fun s j cons u ha hj hask hen hf =>
      (exec_rrConsumerReread_ring ha hj hask hf).trans (congrArg _ (if_neg (ne_true_of_eq_false hen)))
  case loads =>
    exact fun s j cons u w ha hj hask hen hf =>
      (exec_rrConsumerReread_ring ha hj hask hf).trans (congrArg _ (if_pos hen))
  case evtWithin =>
    intro s cons u c ha hask hen hf hc
    rw [exec_rrConsumerReread_event ha hask hf, if_neg (ne_true_of_eq_false hen), evtReread_within hc]
  case evtBeyond =>
    intro s cons u c ha hask hen hf hc
    rw [exec_rrConsumerReread_event ha hask hf, if_neg (ne_true_of_eq_false hen), evtReread_beyond hc]
  case evtFailed =>
    exact fun s cons u ha hask hen hf =>
      (exec_rrConsumerReread_event ha hask hf).trans (congrArg _ (if_neg (ne_true_of_eq_false hen)))
  case evtLoads =>
    exact fun s cons u w ha hask hen hf =>
      (exec_rrConsumerReread_event ha hask hf).trans (congrArg _ (if_pos hen))
  case waits => exact fun s j cons u ha hask hf => exec_rrConsumerReread_waits ha hask hf
  case moderation =>
    intro s j us ha hj hus hne hsince hdue
    subst hus
    exact exec_msixModerationExpire_ring ha hj hne hsince hdue
  case evtModeration =>
    intro s us ha hus hne hsince hdue
    subst hus
    exact exec_msixModerationExpire_event ha hne hsince hdue
  case unmask => exact fun s vec ha hv hmask => exec_msixUnmask ha hv hmask

end Sys2Proof.Machine
end

section
/-!
PROOFS. The host's function and its accesses (R390, R392 to R395, R406, R414, R449): the function level reset, an access
through each BAR with a TLP that the checks pass or discard, a buffer entry, and the heartbeat word.
-/
namespace Sys2Proof.Machine

section
variable {s u : State}

/-! ## Accesses through the BARs (R391 to R394, R449) -/

section
variable {bar : HostBar} {tlp : TlpCheck} {write : Bool} {off len : Nat} {data : List Byte}

theorem exec_bar2Access_discarded (hs : s.answers = true) (hl : s.host.link = true) (hd : s.host.pcie.d3hot = false)
    (hbad : s.tlpBad tlp = some u) : exec (.bar2Access ⟨bar, tlp, write⟩ off len data) s = .next u := by
  refine attempt_some ((if_pos ⟨hs, hl, congrArg not hd⟩).trans ?_)
  simp only [hbad]

/-- The answer of the BAR that an access names. -/
def State.barAnswer (s : State) (bar : HostBar) (write : Bool) (off len : Nat) (data : List Byte) :
    Option (State × Nat × List Byte) :=
  match bar with
  | .bar0 => s.bar0 write off len data
  | .bar2 => s.bar2 write off len data
  | .bar4 => s.bar4 write off len data

theorem exec_bar2Access {r : State × Nat × List Byte} (hs : s.answers = true) (hl : s.host.link = true)
    (hd : s.host.pcie.d3hot = false) (hgood : s.tlpBad tlp = none) (hr : s.barAnswer bar write off len data = some r) :
    exec (.bar2Access ⟨bar, tlp, write⟩ off len data) s = .next (s.barDone write r) := by
  refine attempt_some ((if_pos ⟨hs, hl, congrArg not hd⟩).trans ?_)
  simp only [hgood]
  exact congrArg (Option.map (s.barDone write)) hr

/-- An access inside BAR0 is a register access of the host, and a refused one reads as 0. -/
theorem bar0_inside (h : off + (if write then data.length else len) ≤ regSpace) (hn : (if write then data.length else len) ≠ 0) :
    s.bar0 write off len data = some
      (let r := s.regAccess ⟨rqHost, write, ctlBase + off, len, data, false⟩
       (r.1, 0, if r.2.1 = 0 then r.2.2 else List.replicate len 0)) :=
  if_neg (not_or.mpr ⟨Nat.not_lt.mpr h, hn⟩)

/-- An access inside BAR2 of a device that runs reaches memory at the base of BAR2. -/
theorem bar2_awake {a n : Nat} (ha : s.awake = true) (hn : n = if write then data.length else len)
    (haddr : a = (s.reg64 (kHst 0x30)).toNat + off) (h : off + n ≤ 2 ^ s.host.pcie.bar2Log2)
    (hbusy : s.pageBusy a n = false) (hwait : s.rcvWaits a n = false) :
    s.bar2 write off len data = some (s.hostWindow write a len data) := by
  subst hn haddr
  unfold State.bar2
  rw [if_neg (Nat.not_lt.mpr h), ha, hbusy, hwait]
  rfl

/-- A device that does not run answers an access inside BAR2 without effect. -/
theorem bar2_asleep (ha : s.awake = false) (h : off + (if write then data.length else len) ≤ 2 ^ s.host.pcie.bar2Log2) :
    s.bar2 write off len data = some (s.haltedAccess write len) :=
  (if_neg (Nat.not_lt.mpr h)).trans (if_pos (congrArg not ha))

/-- An access inside BAR4 is performed word by word. -/
theorem bar4_inside (h : off + (if write then data.length else len) ≤ 0x1000000)
    (hn : (if write then data.length else len) ≠ 0) :
    s.bar4 write off len data = some
      (let ks := (keysOf off (if write then data.length else len)).map (fun k => barRing + k)
       if write then (ks.foldl (fun (u : State) k => u.writeWord rqHost k (barRing + off) data) s, 0, [])
       else ((s.readWords rqHost ks).1, 0, ((s.readWords rqHost ks).2.drop (off % 4)).take len)) :=
  (if_neg (not_or.mpr ⟨Nat.not_lt.mpr h, hn⟩)).trans (apply_ite some _ _ _).symm

end

/-! ## The reset of the function and the buffer entries (R390, R395) -/

theorem exec_functionLevelReset (ha : s.awake = true) :
    exec .functionLevelReset s = .next (s.resetRings.enterAbsent 3) := attempt_some (if_pos ha)

/-- A buffer entry of size 0 does not become valid. -/
theorem exec_bufEntryWrite {b : Nat} {v : B32} (ha : s.awake = true) (hb : b < 4096) :
    exec (.bufEntryWrite b v) s = .next
      (let w := v &&& 0x800001FF
       let size := (s.reg (kBuf b 8)).toNat + bitsOf w.toNat 0 8 * 2 ^ 32
       s.setReg (kBuf b 0xC) (if size = 0 then w &&& 0x7FFFFFFF else w)) := attempt_some (if_pos ⟨ha, hb⟩)

/-! ## The heartbeat (R406, R414) -/

section
variable {word : Option B32}

theorem exec_heartbeatRead {w : Option B32} (ha : s.awake = true) (hon : s.bit (kHst 0x28) 0 = true)
    (hreads : s.hostAbsent = false ∨ s.hostLink = true) (hf : s.fetchWord .heartbeat (kHst 0x20) word = (u, some w)) :
    exec (.heartbeatRead word) s = .next (u.heartbeat w) := by
  refine attempt_some ((if_pos ⟨ha, hon, hreads.imp_left (congrArg not)⟩).trans ?_)
  simp only [hf]

theorem exec_heartbeatRead_waits (ha : s.awake = true) (hon : s.bit (kHst 0x28) 0 = true)
    (hreads : s.hostAbsent = false ∨ s.hostLink = true) (hf : s.fetchWord .heartbeat (kHst 0x20) word = (u, none)) :
    exec (.heartbeatRead word) s = .next u := by
  refine attempt_some ((if_pos ⟨ha, hon, hreads.imp_left (congrArg not)⟩).trans ?_)
  simp only [hf]

end

/-- The test of a heartbeat that has not changed: unchanged for its limit, it takes the device into host-absent mode. -/
def State.heartbeatLate (s : State) : State :=
  if s.hostAbsent = false ∧ msTicks (s.fld (kHst 0x28) 16 14) ≤ (s.elapsed - s.host.hbAt).toNat then s.enterAbsent 1 else s

theorem heartbeat_changed {w : B32} (h : w ≠ u.reg (kHst 0x2C)) :
    u.heartbeat (some w) = { u.setReg (kHst 0x2C) w with host := { u.host with hbAt := u.elapsed } } := if_pos h

theorem heartbeat_unchanged {w : B32} (h : w = u.reg (kHst 0x2C)) : u.heartbeat (some w) = u.heartbeatLate := by
  unfold State.heartbeat State.heartbeatLate
  simp only [h, ne_eq, not_true_eq_false, if_false, Bool.not_eq_true']

/-- The count of failed reads is another register than the heartbeat word that was last read. -/
theorem hdmaErr_heartbeatWord (u : State) : u.hdmaErr.reg (kHst 0x2C) = u.reg (kHst 0x2C) :=
  (State.reg_setReg ..).trans (if_neg (by decide))

/-- A read that fails is counted and changes no word. -/
theorem heartbeat_failed (u : State) : u.heartbeat none = u.hdmaErr.heartbeatLate := by
  unfold State.heartbeat State.heartbeatLate
  simp only [hdmaErr_heartbeatWord, ne_eq, not_true_eq_false, if_false, Bool.not_eq_true']

end

/-- Settles O48: an access by its TLP and by what its BAR reaches, a heartbeat by the word that has come. -/
theorem hostInterfaceCommandsComplete : Obligations.HostInterfaceCommandsComplete := by
  unfold Obligations.HostInterfaceCommandsComplete
  refine ⟨?reset, ?bar0, ?bar2Awake, ?bar2Asleep, ?bar4, ?discarded, ?buffer, ?changed, ?unchanged, ?failed, ?waits⟩
  case reset => exact fun s ha => exec_functionLevelReset ha
  case bar0 =>
    intro s tlp write off len data n hs hl hd hgood hn hin hne
    subst hn
    exact exec_bar2Access hs hl hd hgood (bar0_inside hin hne)
  case bar2Awake =>
    exact fun s tlp write off len data a n hs hl hd ha hgood hn haddr hin hbusy hwait =>
      exec_bar2Access hs hl hd hgood (bar2_awake ha hn haddr hin hbusy hwait)
  case bar2Asleep =>
    exact fun s tlp write off len data hs hl hd ha hgood hin =>
      exec_bar2Access hs hl hd hgood (bar2_asleep ha hin)
  case bar4 =>
    intro s tlp write off len data n hs hl hd hgood hn hin hne
    subst hn
    exact exec_bar2Access hs hl hd hgood (bar4_inside hin hne)
  case discarded => exact fun s bar tlp write off len data u hs hl hd hbad => exec_bar2Access_discarded hs hl hd hbad
  case buffer => exact fun s b v ha hb => exec_bufEntryWrite ha hb
  case changed =>
    intro s word u w ha hon hreads hf hw
    rw [exec_heartbeatRead ha hon hreads hf, heartbeat_changed hw]
  case unchanged =>
    exact fun s word u w ha hon hreads hf hw =>
      (exec_heartbeatRead ha hon hreads hf).trans (congrArg _ (heartbeat_unchanged hw))
  case failed =>
    exact fun s word u ha hon hreads hf =>
      (exec_heartbeatRead ha hon hreads hf).trans (congrArg _ (heartbeat_failed u))
  case waits => exact fun s word u ha hon hreads hf => exec_heartbeatRead_waits ha hon hreads hf

end Sys2Proof.Machine
end

section
/-!
PROOFS. The connection to the host (R414, R416, R417, R564): detach and attach, the PCIe link that goes down or comes up, and
PERST.
-/
namespace Sys2Proof.Machine

section
variable {s : State}

theorem exec_hostDetach (ha : s.awake = true) (hhere : s.hostAbsent = false) :
    exec .hostDetach s = .next (s.enterAbsent 2) := attempt_some (if_pos ⟨ha, congrArg not hhere⟩)

theorem exec_hostAttach (ha : s.awake = true) (habsent : s.hostAbsent = true) (hpath : s.hostPath = true) :
    exec .hostAttach s = .next s.attach := attempt_some (if_pos ⟨ha, habsent, hpath⟩)

/-- A free value decides between the link and Bus Master Enable, of which the latter can only go while it is 1. -/
theorem exec_pcieLinkDown (hs : s.answers = true) (hl : s.host.link = true) :
    exec .pcieLinkDown s = .next
      (let u : State := { s with freeIx := s.freeIx + 1 }
       if s.host.bme = true ∧ (Config.freeWord s.freeIx).getLsbD 0 = true then u.masterOff else u.linkDown) :=
  attempt_some (if_pos ⟨hs, hl⟩)

/-- PERST resets the function in whatever state the device is, and takes a link that is up down with it. -/
theorem exec_pciePerst (hp : s.host.perst = false) :
    exec .pciePerst s = .next
      (let u : State := { s with host := { s.host with perst := true, pcie := PcieFn.reset } }
       if u.host.link then u.linkDown else u) := attempt_some (if_pos (congrArg not hp))

theorem exec_pciePerstRelease (hp : s.host.perst = true) :
    exec .pciePerstRelease s = .next { s with host := { s.host with perst := false } } := attempt_some (if_pos hp)

theorem exec_pcieLinkUp (hs : s.answers = true) (hp : s.host.perst = false) (hup : s.hostUp = false) :
    exec .pcieLinkUp s = .next { s with host := { s.host with link := true, bme := true, seenUp := true } } :=
  attempt_some (if_pos ⟨hs, congrArg not hp, congrArg not hup⟩)

end

/-- Settles O49: each command by the conditions under which it acts. -/
theorem hostConnectionCommandsComplete : Obligations.HostConnectionCommandsComplete := by
  unfold Obligations.HostConnectionCommandsComplete
  refine ⟨?detach, ?attach, ?linkDown, ?perst, ?perstRelease, ?linkUp⟩
  case detach => exact fun s ha hhere => exec_hostDetach ha hhere
  case attach => exact fun s ha habsent hpath => exec_hostAttach ha habsent hpath
  case linkDown => exact fun s hs hl => exec_pcieLinkDown hs hl
  case perst => exact fun s hp => exec_pciePerst hp
  case perstRelease => exact fun s hp => exec_pciePerstRelease hp
  case linkUp => exact fun s hs hp hup => exec_pcieLinkUp hs hp hup

end Sys2Proof.Machine
end

section
/-!
PROOFS. What every step keeps (R462, R469, R480, R525, R538): each command keeps the queue, the fuses and the invariant, so
the step that runs it does, and so does a TIME cycle; the state after reset has the invariant.
-/
namespace Sys2Proof.Machine

/-! ## The commands -/

/-- Every command keeps the queue, the fuses and the invariant, each by its own lemma. -/
theorem kept_exec (c : Instr) (s : State) : KeptX s (exec c s) :=
  match c with
  | .registerWrite .. => kept_execRegisterWrite (.refl s)
  | .loReadLatch .. => kept_execLoReadLatch (.refl s)
  | .hiRead .. => kept_execHiRead (.refl s)
  | .resetNAssert .. => kept_execResetNAssert (.refl s)
  | .resetNRelease .. => kept_execResetNRelease (.refl s)
  | .firstStage .. => kept_execFirstStage (.refl s)
  | .stageTimeout => kept_execStageTimeout (.refl s)
  | .releaseGo .. => kept_execReleaseGo (.refl s)
  | .keyLockSet .. => kept_execKeyLockSet (.refl s)
  | .scrLockSet .. => kept_execScrLockSet (.refl s)
  | .arvRaise .. => kept_execArvRaise (.refl s)
  | .folioVerify .. => kept_execFolioVerify (.refl s)
  | .folioVerifyDone .. => kept_execFolioVerifyDone (.refl s)
  | .pipelineBind .. => kept_execPipelineBind (.refl s)
  | .droopDetect .. => kept_execDroopDetect (.refl s)
  | .droopStretchEnd .. => kept_execDroopStretchEnd (.refl s)
  | .satEnable .. => kept_execSatEnable (.refl s)
  | .satClear .. => kept_execSatClear (.refl s)
  | .satWindowEnd .. => kept_execSatWindowEnd (.refl s)
  | .arrSkipWrite .. => kept_execArrSkipWrite (.refl s)
  | .arrCntClear .. => kept_execArrCntClear (.refl s)
  | .matrixStepStart .. => kept_execMatrixStepStart (.refl s)
  | .matrixStepComplete .. => kept_execMatrixStepComplete (.refl s)
  | .inkScrub .. => kept_execInkScrub (.refl s)
  | .inkScrubForced .. => kept_execInkScrubForced (.refl s)
  | .inkRemapWrite .. => kept_execInkRemapWrite (.refl s)
  | .inkSlicePowerUp .. => kept_execInkSlicePowerUp (.refl s)
  | .inkSliceFillDone .. => kept_execInkSliceFillDone (.refl s)
  | .inkSlicePowerOff .. => kept_execInkSlicePowerOff (.refl s)
  | .inkSlicePowerDown .. => kept_execInkSlicePowerDown (.refl s)
  | .inkCntClear .. => kept_execInkCntClear (.refl s)
  | .tileMove .. => kept_execTileMove (.refl s)
  | .tileMoveDone .. => kept_execTileMoveDone (.refl s)
  | .dmaDescriptorStart .. => kept_execDmaDescriptorStart (.refl s)
  | .dmaTransferIssue .. => kept_execDmaTransferIssue (.refl s)
  | .dmaTransferComplete .. => kept_execDmaTransferComplete (.refl s)
  | .dmaDelayedInkWrite .. => kept_execDmaDelayedInkWrite (.refl s)
  | .dmaLimitWrite .. => kept_execDmaLimitWrite (.refl s)
  | .nibSectionStart .. => kept_execNibSectionStart (.refl s)
  | .settleStart .. => kept_execSettleStart (.refl s)
  | .nibNop .. => kept_execNibNop (.refl s)
  | .nibEnd .. => kept_execNibEnd (.refl s)
  | .nibLoop .. => kept_execNibLoop (.refl s)
  | .nibAmov .. => kept_execNibAmov (.refl s)
  | .nibAadd .. => kept_execNibAadd (.refl s)
  | .nibAaddr .. => kept_execNibAaddr (.refl s)
  | .nibLd .. => kept_execNibLd (.refl s)
  | .nibSt .. => kept_execNibSt (.refl s)
  | .nibMov .. => kept_execNibMov (.refl s)
  | .nibBcast .. => kept_execNibBcast (.refl s)
  | .nibLane .. => kept_execNibLane (.refl s)
  | .nibIns .. => kept_execNibIns (.refl s)
  | .nibFadd .. => kept_execNibFadd (.refl s)
  | .nibFsub .. => kept_execNibFsub (.refl s)
  | .nibFmul .. => kept_execNibFmul (.refl s)
  | .nibFdiv .. => kept_execNibFdiv (.refl s)
  | .nibFsqrt .. => kept_execNibFsqrt (.refl s)
  | .nibFmin .. => kept_execNibFmin (.refl s)
  | .nibFmax .. => kept_execNibFmax (.refl s)
  | .nibFabs .. => kept_execNibFabs (.refl s)
  | .nibFneg .. => kept_execNibFneg (.refl s)
  | .nibIadd .. => kept_execNibIadd (.refl s)
  | .nibIsub .. => kept_execNibIsub (.refl s)
  | .nibAnd .. => kept_execNibAnd (.refl s)
  | .nibOr .. => kept_execNibOr (.refl s)
  | .nibXor .. => kept_execNibXor (.refl s)
  | .nibShl .. => kept_execNibShl (.refl s)
  | .nibSra .. => kept_execNibSra (.refl s)
  | .nibFclt .. => kept_execNibFclt (.refl s)
  | .nibFceq .. => kept_execNibFceq (.refl s)
  | .nibSel .. => kept_execNibSel (.refl s)
  | .nibUnpk .. => kept_execNibUnpk (.refl s)
  | .nibQnt .. => kept_execNibQnt (.refl s)
  | .nibQscale .. => kept_execNibQscale (.refl s)
  | .nibRamax .. => kept_execNibRamax (.refl s)
  | .nibRmax .. => kept_execNibRmax (.refl s)
  | .nibRsum .. => kept_execNibRsum (.refl s)
  | .nibTbl .. => kept_execNibTbl (.refl s)
  | .nibTblld .. => kept_execNibTblld (.refl s)
  | .nibTput .. => kept_execNibTput (.refl s)
  | .nibTget .. => kept_execNibTget (.refl s)
  | .nibGrow .. => kept_execNibGrow (.refl s)
  | .nibRstat .. => kept_execNibRstat (.refl s)
  | .nibRstget .. => kept_execNibRstget (.refl s)
  | .rstatContributionReceive .. => kept_execRstatContributionReceive (.refl s)
  | .rstatReleaseReceive .. => kept_execRstatReleaseReceive (.refl s)
  | .nibMemWrite .. => kept_execNibMemWrite (.refl s)
  | .nibCntClear .. => kept_execNibCntClear (.refl s)
  | .vconvStepStart .. => kept_execVconvStepStart (.refl s)
  | .vconvStepComplete .. => kept_execVconvStepComplete (.refl s)
  | .stemStepStart .. => kept_execStemStepStart (.refl s)
  | .stemStepComplete .. => kept_execStemStepComplete (.refl s)
  | .stmCntClear .. => kept_execStmCntClear (.refl s)
  | .spectralStepStart .. => kept_execSpectralStepStart (.refl s)
  | .spectralStepComplete .. => kept_execSpectralStepComplete (.refl s)
  | .spcCntClear .. => kept_execSpcCntClear (.refl s)
  | .signalStepStart .. => kept_execSignalStepStart (.refl s)
  | .tokenReceive .. => kept_execTokenReceive (.refl s)
  | .creditReceive .. => kept_execCreditReceive (.refl s)
  | .withdrawReceive .. => kept_execWithdrawReceive (.refl s)
  | .reportReceive .. => kept_execReportReceive (.refl s)
  | .epochAdmit .. => kept_execEpochAdmit (.refl s)
  | .epochCommit .. => kept_execEpochCommit (.refl s)
  | .sourceReceive .. => kept_execSourceReceive (.refl s)
  | .checkpointReceive .. => kept_execCheckpointReceive (.refl s)
  | .twinDecide .. => kept_execTwinDecide (.refl s)
  | .twinTimeout .. => kept_execTwinTimeout (.refl s)
  | .bookAudit .. => kept_execBookAudit (.refl s)
  | .bookReread .. => kept_execBookReread (.refl s)
  | .bookImbalance .. => kept_execBookImbalance (.refl s)
  | .bookSnap .. => kept_execBookSnap (.refl s)
  | .bookRestore .. => kept_execBookRestore (.refl s)
  | .csiFrameStart .. => kept_execCsiFrameStart (.refl s)
  | .csiLineReceive .. => kept_execCsiLineReceive (.refl s)
  | .csiFrameEnd .. => kept_execCsiFrameEnd (.refl s)
  | .feTimeout .. => kept_execFeTimeout (.refl s)
  | .streamLost .. => kept_execStreamLost (.refl s)
  | .alignDeadline .. => kept_execAlignDeadline (.refl s)
  | .alignHoldoffEnd .. => kept_execAlignHoldoffEnd (.refl s)
  | .irisVisionComplete .. => kept_execIrisVisionComplete (.refl s)
  | .irisStatsWrite .. => kept_execIrisStatsWrite (.refl s)
  | .irsBankWrite .. => kept_execIrsBankWrite (.refl s)
  | .pipeSpared .. => kept_execPipeSpared (.refl s)
  | .ppsEdge => kept_execPpsEdge (.refl s)
  | .offsetGo .. => kept_execOffsetGo (.refl s)
  | .ppsLost => kept_execPpsLost (.refl s)
  | .fsyncPulse .. => kept_execFsyncPulse (.refl s)
  | .fsyncPulseEnd .. => kept_execFsyncPulseEnd (.refl s)
  | .accessUnitReceive .. => kept_execAccessUnitReceive (.refl s)
  | .decodeFrameStart .. => kept_execDecodeFrameStart (.refl s)
  | .decodeFrameComplete .. => kept_execDecodeFrameComplete (.refl s)
  | .decodeBudgetExpire .. => kept_execDecodeBudgetExpire (.refl s)
  | .decSpared .. => kept_execDecSpared (.refl s)
  | .scalerOutputWrite => kept_execScalerOutputWrite (.refl s)
  | .encodeFrameStart .. => kept_execEncodeFrameStart (.refl s)
  | .encodeFrameDone .. => kept_execEncodeFrameDone (.refl s)
  | .encSpared .. => kept_execEncSpared (.refl s)
  | .encRdWrite .. => kept_execEncRdWrite (.refl s)
  | .asterEpochStart .. => kept_execAsterEpochStart (.refl s)
  | .asterJobProgram .. => kept_execAsterJobProgram (.refl s)
  | .asterCostsReady .. => kept_execAsterCostsReady (.refl s)
  | .journalCopyDone .. => kept_execJournalCopyDone (.refl s)
  | .macroSpared .. => kept_execMacroSpared (.refl s)
  | .astTrkDataRead .. => kept_execAstTrkDataRead (.refl s)
  | .astCntClear .. => kept_execAstCntClear (.refl s)
  | .memoryAccess .. => kept_execMemoryAccess (.refl s)
  | .pageRetireStart .. => kept_execPageRetireStart (.refl s)
  | .pageRetired .. => kept_execPageRetired (.refl s)
  | .retAddGo .. => kept_execRetAddGo (.refl s)
  | .hbmPatrolRead .. => kept_execHbmPatrolRead (.refl s)
  | .rgnWrite .. => kept_execRgnWrite (.refl s)
  | .rsvPinWrite .. => kept_execRsvPinWrite (.refl s)
  | .pinFill .. => kept_execPinFill (.refl s)
  | .pinFillDone .. => kept_execPinFillDone (.refl s)
  | .rcvAccess .. => kept_execRcvAccess (.refl s)
  | .functionLevelReset => kept_execFunctionLevelReset (.refl s)
  | .bar2Access .. => kept_execBar2Access (.refl s)
  | .bufEntryWrite .. => kept_execBufEntryWrite (.refl s)
  | .irEnable .. => kept_execIrEnable (.refl s)
  | .irDisable .. => kept_execIrDisable (.refl s)
  | .irDrainDone .. => kept_execIrDrainDone (.refl s)
  | .irPoll .. => kept_execIrPoll (.refl s)
  | .irProducerReturn .. => kept_execIrProducerReturn (.refl s)
  | .irDescriptorReturn .. => kept_execIrDescriptorReturn (.refl s)
  | .irDataReturn .. => kept_execIrDataReturn (.refl s)
  | .rrEnable .. => kept_execRrEnable (.refl s)
  | .rrDisable .. => kept_execRrDisable (.refl s)
  | .rrEntryWrite .. => kept_execRrEntryWrite (.refl s)
  | .rrConsumerReread .. => kept_execRrConsumerReread (.refl s)
  | .msixModerationExpire .. => kept_execMsixModerationExpire (.refl s)
  | .msixUnmask .. => kept_execMsixUnmask (.refl s)
  | .heartbeatRead .. => kept_execHeartbeatRead (.refl s)
  | .hostDetach => kept_execHostDetach (.refl s)
  | .hostAttach => kept_execHostAttach (.refl s)
  | .pcieLinkDown => kept_execPcieLinkDown (.refl s)
  | .pciePerst => kept_execPciePerst (.refl s)
  | .lnkEnable .. => kept_execLnkEnable (.refl s)
  | .lnkRetrain .. => kept_execLnkRetrain (.refl s)
  | .linkSignalDetect .. => kept_execLinkSignalDetect (.refl s)
  | .laneCheckDone .. => kept_execLaneCheckDone (.refl s)
  | .alignDone .. => kept_execAlignDone (.refl s)
  | .linkStateTimeout .. => kept_execLinkStateTimeout (.refl s)
  | .paramFlitReceive .. => kept_execParamFlitReceive (.refl s)
  | .linkFailedRetry .. => kept_execLinkFailedRetry (.refl s)
  | .laneErrorRetrain .. => kept_execLaneErrorRetrain (.refl s)
  | .linkSignalLost .. => kept_execLinkSignalLost (.refl s)
  | .flitSend .. => kept_execFlitSend (.refl s)
  | .flitReceive .. => kept_execFlitReceive (.refl s)
  | .lnkRead .. => kept_execLnkRead (.refl s)
  | .lnkWrite .. => kept_execLnkWrite (.refl s)
  | .lnkPush .. => kept_execLnkPush (.refl s)
  | .lnkFlow .. => kept_execLnkFlow (.refl s)
  | .lnkRstat .. => kept_execLnkRstat (.refl s)
  | .lnkCkpt .. => kept_execLnkCkpt (.refl s)
  | .lnkSource .. => kept_execLnkSource (.refl s)
  | .lnkRdata .. => kept_execLnkRdata (.refl s)
  | .lnkWack .. => kept_execLnkWack (.refl s)
  | .lnkCtrl .. => kept_execLnkCtrl (.refl s)
  | .mbxInfo => kept_execMbxInfo (.refl s)
  | .mbxAttest .. => kept_execMbxAttest (.refl s)
  | .mbxCtxCreate .. => kept_execMbxCtxCreate (.refl s)
  | .mbxCtxDestroy => kept_execMbxCtxDestroy (.refl s)
  | .mbxFlashErase => kept_execMbxFlashErase (.refl s)
  | .mbxFlashWrite .. => kept_execMbxFlashWrite (.refl s)
  | .mbxUpdate .. => kept_execMbxUpdate (.refl s)
  | .mbxRegRead => kept_execMbxRegRead (.refl s)
  | .mbxRegWrite => kept_execMbxRegWrite (.refl s)
  | .mbxMemRead => kept_execMbxMemRead (.refl s)
  | .mbxMemWrite .. => kept_execMbxMemWrite (.refl s)
  | .mbxPolicy => kept_execMbxPolicy (.refl s)
  | .mbxRemoteTimeout => kept_execMbxRemoteTimeout (.refl s)
  | .updateStop .. => kept_execUpdateStop (.refl s)
  | .updateRelease => kept_execUpdateRelease (.refl s)
  | .fwReportAccept .. => kept_execFwReportAccept (.refl s)
  | .fwReportReject .. => kept_execFwReportReject (.refl s)
  | .updateReportTimeout => kept_execUpdateReportTimeout (.refl s)
  | .updateFallback => kept_execUpdateFallback (.refl s)
  | .wdtKick .. => kept_execWdtKick (.refl s)
  | .wdtExpire .. => kept_execWdtExpire (.refl s)
  | .coreError .. => kept_execCoreError (.refl s)
  | .coreTaskMoveDone .. => kept_execCoreTaskMoveDone (.refl s)
  | .evtRingEnable .. => kept_execEvtRingEnable (.refl s)
  | .eventWrite => kept_execEventWrite (.refl s)
  | .cleanServiceExpire => kept_execCleanServiceExpire (.refl s)
  | .dinB .. => kept_execDinB (.refl s)
  | .dinH .. => kept_execDinH (.refl s)
  | .dinW .. => kept_execDinW (.refl s)
  | .crcInit .. => kept_execCrcInit (.refl s)
  | .crcCheck .. => kept_execCrcCheck (.refl s)
  | .crcScan .. => kept_execCrcScan (.refl s)
  | .crcScanDone .. => kept_execCrcScanDone (.refl s)
  | .shaInit .. => kept_execShaInit (.refl s)
  | .shaScan .. => kept_execShaScan (.refl s)
  | .shaScanDone .. => kept_execShaScanDone (.refl s)
  | .weightScrub .. => kept_execWeightScrub (.refl s)
  | .tileTestStart .. => kept_execTileTestStart (.refl s)
  | .tileTestEnd .. => kept_execTileTestEnd (.refl s)
  | .outOfTurnTestStart .. => kept_execOutOfTurnTestStart (.refl s)
  | .faultHoldExpire => kept_execFaultHoldExpire (.refl s)
  | .safetyNop .. => kept_execSafetyNop (.refl s)
  | .safetyStatus .. => kept_execSafetyStatus (.refl s)
  | .safetyNext .. => kept_execSafetyNext (.refl s)
  | .safetyAck .. => kept_execSafetyAck (.refl s)
  | .faultAckWrite .. => kept_execFaultAckWrite (.refl s)
  | .aliveWrite .. => kept_execAliveWrite (.refl s)
  | .safeToggleEdge => kept_execSafeToggleEdge (.refl s)
  | .pmbusPoll .. => kept_execPmbusPoll (.refl s)
  | .sensorConvert .. => kept_execSensorConvert (.refl s)
  | .thermalSample => kept_execThermalSample (.refl s)
  | .pllLockLoss => kept_execPllLockLoss (.refl s)
  | .phyPllLoss .. => kept_execPhyPllLoss (.refl s)
  | .pciePerstRelease => kept_execPciePerstRelease (.refl s)
  | .pcieLinkUp => kept_execPcieLinkUp (.refl s)
  | .supplyRemoval => kept_execSupplyRemoval (.refl s)
  | .safetyRequestDiscarded .. => kept_execSafetyRequestDiscarded (.refl s)
  | .crcCommandWrite .. => kept_execCrcCommandWrite (.refl s)
  | .coreRejoin .. => kept_execCoreRejoin (.refl s)
  | .streamMoveDone .. => kept_execStreamMoveDone (.refl s)

/-- Every command takes effect or is turned away; none has another outcome. -/
theorem exec_eq_attempt (c : Instr) (s : State) : ∃ o, exec c s = attempt o s := by
  cases c <;> exact ⟨_, rfl⟩

/-! ## The step -/

theorem step_command (s : State) (c : Instr) (cs : List Instr) :
    step { s with pending := c :: cs } = exec c { s with pending := cs } := rfl

/-- The invariant does not read the queue. -/
theorem Inv.setPending {s : State} (h : Inv s) (cs : List Instr) : Inv { s with pending := cs } :=
  ⟨h.events, h.reports, h.held, h.samples, h.hbm, h.rcv, h.sram, h.nor, h.regs⟩

/-- A step is a TIME cycle of the state, or a command on the state with the rest of the queue. -/
theorem step_cases {s t : State} (h : step s = .next t) :
    t = s.tick ∨ ∃ c cs, exec c { s with pending := cs } = .next t := by
  cases hq : s.pending with
  | nil => exact .inl (Host.Outcome.next.inj (h.symm.trans (step_idle hq)))
  | cons c cs =>
    refine .inr ⟨c, cs, ?_⟩
    unfold step at h
    rwa [hq] at h

theorem step_keeps_fuses {s t : State} (h : step s = .next t) : fusesKept s t := by
  obtain rfl | ⟨c, cs, hc⟩ := step_cases h
  · exact (kept_tick (Kept.refl s)).fuses
  · exact ((kept_exec c _).out t hc).fuses

theorem step_keeps_inv {s t : State} (hi : Inv s) (h : step s = .next t) : Inv t := by
  obtain rfl | ⟨c, cs, hc⟩ := step_cases h
  · exact (kept_tick (Kept.refl s)).inv hi
  · exact ((kept_exec c _).out t hc).inv (hi.setPending cs)

theorem inv_reset : Inv State.reset where
  events := Nat.zero_le _
  reports := Nat.zero_le _
  held := Nat.zero_le _
  samples := Nat.zero_le _
  hbm := rfl
  rcv := rfl
  sram := rfl
  nor := rfl
  regs := rfl

/-! ## The statements -/

/-- Settles O5: a TIME cycle keeps the invariant, and so does every command on the state with the rest of the queue. -/
theorem invKeptByEveryStep : Obligations.InvKeptByEveryStep := by
  unfold Obligations.InvKeptByEveryStep
  exact fun _ _ hi h => step_keeps_inv hi h

/-- Settles O4: at reset every store is empty and nothing is written. -/
theorem invAtReset : Obligations.InvAtReset := by
  unfold Obligations.InvAtReset
  exact inv_reset

/-- Settles O6: a TIME cycle and every command keep the fuses but for a count that only rises. -/
theorem fusesStayBlown : Obligations.FusesStayBlown := by
  unfold Obligations.FusesStayBlown
  exact fun _ _ h => step_keeps_fuses h

/-- Settles O3: a command is answered with what it makes of the state or with the state, and keeps the queue. -/
theorem everyCommandAnswersNext : Obligations.EveryCommandAnswersNext := by
  unfold Obligations.EveryCommandAnswersNext
  intro c s
  obtain ⟨o, ho⟩ := exec_eq_attempt c s
  exact ⟨o.getD s, ho, ((kept_exec c s).out _ ho).pending⟩

/-- Settles O1, which is how a step is defined. -/
theorem stepRunsFrontCommand : Obligations.StepRunsFrontCommand := by
  unfold Obligations.StepRunsFrontCommand
  exact step_command

end Sys2Proof.Machine
end

section
/-!
PROOFS. The training of an Orrek Link port, its limits and its parameter flits (R423 to R426, R439), the flits of an ACTIVE
port (R428 to R433), and the READ, WRITE and PUSH messages that they carry (R436).
-/
namespace Sys2Proof.Machine

/-! ## Training (R423 to R425) -/

/-- The control register of a port is another than the one that shows its state. -/
theorem lnkState_setBit_ctl (s : State) (p i : Nat) (b : Bool) : (s.setBit (kLnk p 4) i b).lnkState p = s.lnkState p := by
  have hkey : kLnk p 8 ≠ kLnk p 4 := by unfold kLnk; omega
  exact congrArg (fun v : B32 => bitsOf v.toNat 0 4) ((State.reg_setReg ..).trans (if_neg hkey))

/-- A lane check ends in LANE_CHECK, or in a retrain that does not align yet. -/
theorem laneCheck_ends {s : State} {p : Nat}
    (h : s.lnkState p = lsLaneCheck ∨ (s.lnkState p = lsRetrain ∧ (s.port p).aligning = false)) :
    s.lnkState p = lsLaneCheck ∨ (s.lnkState p = lsRetrain ∧ (!(s.port p).aligning) = true) :=
  h.imp_right (And.imp_right (congrArg not))

/-- Settles O50: each command by the state of its port; a lane check by the number of good lanes. -/
theorem linkTrainingCommandsComplete : Obligations.LinkTrainingCommandsComplete := by
  unfold Obligations.LinkTrainingCommandsComplete
  refine ⟨?enable, ?retrain, ?signal, ?tooFew, ?enough, ?align, ?realign⟩
  case enable =>
    intro s rq p on ha hp hq
    refine (attempt_guardReg ⟨ha, hp⟩ hq s _).trans ?_
    simp only [lnkState_setBit_ctl]
  case retrain => exact fun s rq p ha hp hq => attempt_guardReg ⟨ha, hp⟩ hq s _
  case signal => exact fun s p lanes ha hp hs hl => attempt_some (if_pos ⟨ha, hp, hs, hl⟩)
  case tooFew =>
    exact fun s p badRx badTx ha hp hs hn => attempt_some ((if_pos ⟨ha, hp, laneCheck_ends hs⟩).trans (if_pos hn))
  case enough =>
    intro s p badRx badTx half used moved fresh ha hp hs hn hhalf hused hmoved hfresh
    subst hhalf hused hmoved hfresh
    exact attempt_some ((if_pos ⟨ha, hp, laneCheck_ends hs⟩).trans (if_neg (Nat.not_lt.mpr hn)))
  case align => exact fun s p rtt ha hp hs => attempt_some ((if_pos ⟨ha, hp⟩).trans (if_pos hs))
  case realign =>
    intro s p rtt ha hp hs haligning
    have hnot : s.lnkState p ≠ lsAlign := by rw [hs]; decide
    exact attempt_some ((if_pos ⟨ha, hp⟩).trans ((if_neg hnot).trans (if_pos ⟨hs, haligning⟩)))

/-! ## Limits, parameter flits, retries and faults (R424 to R426, R439) -/

section
variable {s : State} {p : Nat}

theorem exec_linkStateTimeout_align (ha : s.awake = true) (hp : p < 6) (hs : s.lnkState p = lsAlign)
    (hdue : (s.port p).since + usTicks 100 ≤ s.elapsed.toNat) :
    exec (.linkStateTimeout p) s = .next (s.portDown p lsDetect 2) :=
  attempt_some ((if_pos ⟨ha, hp⟩).trans (if_pos ⟨hs, decide_eq_true hdue⟩))

theorem exec_linkStateTimeout_param (ha : s.awake = true) (hp : p < 6) (hs : s.lnkState p = lsParam)
    (hdue : (s.port p).since + usTicks 100 ≤ s.elapsed.toNat) :
    exec (.linkStateTimeout p) s = .next (s.setLnk p lsDetect) := by
  have halign : s.lnkState p ≠ lsAlign := by rw [hs]; decide
  exact attempt_some ((if_pos ⟨ha, hp⟩).trans ((if_neg (fun h => halign h.1)).trans (if_pos ⟨hs, decide_eq_true hdue⟩)))

/-- A retrain has a limit of its own, and its alignment a shorter one. -/
theorem exec_linkStateTimeout_retrain (ha : s.awake = true) (hp : p < 6) (hs : s.lnkState p = lsRetrain)
    (hdue : (s.port p).since + usTicks 8 ≤ s.elapsed.toNat ∨
      ((s.port p).aligning = true ∧ (s.port p).alignAt + usTicks 2 ≤ s.elapsed.toNat)) :
    exec (.linkStateTimeout p) s = .next (s.portDown p lsFailed 2) := by
  have halign : s.lnkState p ≠ lsAlign := by rw [hs]; decide
  have hparam : s.lnkState p ≠ lsParam := by rw [hs]; decide
  have hlimit : decide ((s.port p).since + usTicks 8 ≤ s.elapsed.toNat) = true ∨
      ((s.port p).aligning && decide ((s.port p).alignAt + usTicks 2 ≤ s.elapsed.toNat)) = true := by
    simpa only [Bool.and_eq_true, decide_eq_true_eq] using hdue
  exact attempt_some ((if_pos ⟨ha, hp⟩).trans ((if_neg (fun h => halign h.1)).trans
    ((if_neg (fun h => hparam h.1)).trans (if_pos ⟨hs, hlimit⟩))))

end

/-- Settles O51: a limit by the state of the port, a parameter flit by whether it matches. -/
theorem linkLimitAndParameterCommandsComplete : Obligations.LinkLimitAndParameterCommandsComplete := by
  unfold Obligations.LinkLimitAndParameterCommandsComplete
  refine ⟨?align, ?param, ?retrain, ?mismatch, ?matched, ?retry, ?laneError, ?lost⟩
  case align => exact fun s p ha hp hs hdue => exec_linkStateTimeout_align ha hp hs hdue
  case param => exact fun s p ha hp hs hdue => exec_linkStateTimeout_param ha hp hs hdue
  case retrain => exact fun s p ha hp hs hdue => exec_linkStateTimeout_retrain ha hp hs hdue
  case mismatch =>
    intro s p r f ha hp hs hr
    refine attempt_some ((if_pos ⟨ha, hp, hs⟩).trans ?_)
    rw [hr]
  case matched =>
    intro s p f ha hp hs hr
    refine attempt_some ((if_pos ⟨ha, hp, hs⟩).trans ?_)
    rw [hr]
  case retry => exact fun s p ha hp hs hdue => attempt_some (if_pos ⟨ha, hp, hs, hdue⟩)
  case laneError => exact fun s p ha hp hs herr => attempt_some (if_pos ⟨ha, hp, hs, herr⟩)
  case lost => exact fun s p ha hp hs => attempt_some (if_pos ⟨ha, hp, hs⟩)

/-! ## Flits (R428 to R433) -/

theorem not_negated {b : Bool} (h : b = true) : ¬ (!b) = true := by
  rw [h]
  exact Bool.false_ne_true

/-- Settles O52: a flit goes out by what waits for it, and one comes in by its CRC, its virtual channel and its number. -/
theorem linkFlitCommandsComplete : Obligations.LinkFlitCommandsComplete := by
  unfold Obligations.LinkFlitCommandsComplete
  refine ⟨?idleDue, ?again, ?nothing, ?numbered, ?badCrc, ?control, ?outOfOrder, ?inOrder⟩
  case idleDue => exact fun s p ha hp hs hidle => attempt_some ((if_pos ⟨ha, hp, hs⟩).trans (if_pos hidle))
  case again =>
    intro s p f fs ha hp hs hidle hresend
    refine attempt_some ((if_pos ⟨ha, hp, hs⟩).trans ((if_neg (Nat.not_le.mpr hidle)).trans ?_))
    rw [hresend]
    rfl
  case nothing =>
    intro s p ha hp hs hidle hresend hvc
    refine attempt_some ((if_pos ⟨ha, hp, hs⟩).trans ((if_neg (Nat.not_le.mpr hidle)).trans ?_))
    rw [hresend, hvc]
  case numbered =>
    intro s p v ha hp hs hidle hresend hvc
    refine attempt_some ((if_pos ⟨ha, hp, hs⟩).trans ((if_neg (Nat.not_le.mpr hidle)).trans ?_))
    rw [hresend, hvc]
  case badCrc => exact fun s p f ha hp hs hbad => attempt_some ((if_pos ⟨ha, hp, hs⟩).trans (if_pos (congrArg not hbad)))
  case control =>
    exact fun s p f ha hp hs hok hvc =>
      attempt_some ((if_pos ⟨ha, hp, hs⟩).trans ((if_neg (not_negated hok)).trans (if_pos hvc)))
  case outOfOrder =>
    exact fun s p f ha hp hs hok hvc hbad =>
      attempt_some ((if_pos ⟨ha, hp, hs⟩).trans ((if_neg (not_negated hok)).trans ((if_neg hvc).trans (if_pos hbad))))
  case inOrder =>
    intro s p f ha hp hs hok hvc hseq
    have hnext : ¬ (6 ≤ fVc f ∨ fSeq f ≠ ((s.takeControl p f).port p).rxNext) :=
      not_or.mpr ⟨Nat.not_le.mpr hvc, not_not.mpr hseq⟩
    have hdata : fVc f ≠ 7 := by omega
    exact attempt_some ((if_pos ⟨ha, hp, hs⟩).trans ((if_neg (not_negated hok)).trans ((if_neg hdata).trans (if_neg hnext))))

/-! ## READ, WRITE and PUSH messages (R436, R441) -/

section
variable {s u : State} {p : Nat} {m : LnkMsg}

theorem exec_lnkRead_host {hostData : Option (List Byte)} (h : s.takeMsg p 1 m = some u) (hhost : mHost m = true) :
    exec (.lnkRead p m hostData) s = .next (u.hostRead m hostData) := by
  refine attempt_some ?_
  simp only [h]
  exact if_pos hhost

theorem exec_lnkRead_memory {hostData : Option (List Byte)} (h : s.takeMsg p 1 m = some u) (hhost : mHost m = false)
    (hbusy : u.pageBusy (mAddr m % 2 ^ 40) (8 * mChunks m) = false) :
    exec (.lnkRead p m hostData) s = .next
      (let r := u.access ⟨rqPeer p m, false, mAddr m % 2 ^ 40, 8 * mChunks m, [], false⟩ none
       if r.2.1 = 0 then r.1.sendAnswer 8 m 0 (mChunks m) r.2.2 else r.1.sendAnswer 8 m r.2.1 0 []) := by
  refine attempt_some ?_
  simp only [h, hhost, hbusy, Bool.false_eq_true, if_false]

theorem exec_lnkWrite_host {ok : Bool} (h : s.takeMsg p 2 m = some u) (hhost : mHost m = true) :
    exec (.lnkWrite p m ok) s = .next (u.hostWrite m ok) := by
  refine attempt_some ?_
  simp only [h]
  exact if_pos hhost

theorem exec_lnkWrite_memory {ok : Bool} (h : s.takeMsg p 2 m = some u) (hhost : mHost m = false)
    (hbusy : u.pageBusy (mAddr m % 2 ^ 40) m.payload.length = false) :
    exec (.lnkWrite p m ok) s = .next
      (let r := u.access ⟨rqPeer p m, true, mAddr m % 2 ^ 40, 0, m.payload, false⟩ none
       r.1.sendAnswer 9 m r.2.1 0 []) := by
  refine attempt_some ?_
  simp only [h, hhost, hbusy, Bool.false_eq_true, if_false]

/-- A PUSH to a logical tile that no physical tile serves is answered DISCARDED_FAULT. -/
theorem exec_lnkPush_gone (h : s.takeMsg p 3 m = some u) (ht : u.physOf (pushTile m) = none) :
    exec (.lnkPush p m) s = .next (u.sendAnswer 9 m 1 0 []) := by
  refine attempt_some ?_
  simp only [h, ht]

variable {ph : Nat}

theorem exec_lnkPush_row (h : s.takeMsg p 3 m = some u) (ht : u.physOf (pushTile m) = some ph)
    (hready : u.pushWaits ph m = false) (hpart : u.peerPart ph m = none) :
    exec (.lnkPush p m) s = .next
      (let r := (u.bankWait ph (bankOf (pushRow m))).inkWrite ph (pushRow m) rqDmaIn
         (BitVec.ofNat 4096 (bytesToNat m.payload))
       r.1.sendAnswer 9 m r.2 0 []) := by
  refine attempt_some ?_
  simp only [h, ht, hready, hpart, Bool.false_eq_true, if_false]

/-- A PUSH that the row's split-K sum awaits is a term of that sum. -/
theorem exec_lnkPush_part {o : StepRef × Nat} (h : s.takeMsg p 3 m = some u) (ht : u.physOf (pushTile m) = some ph)
    (hready : u.pushWaits ph m = false) (hpart : u.peerPart ph m = some o) :
    exec (.lnkPush p m) s = .next
      (let r := (u.bankWait ph (bankOf (pushRow m))).splitArrive ph o.1 (pushRow m) o.2
         (BitVec.ofNat 4096 (bytesToNat m.payload))
       r.1.sendAnswer 9 m r.2 0 []) := by
  refine attempt_some ?_
  simp only [h, ht, hready, hpart, Bool.false_eq_true, if_false]

end

/-- Settles O53: the message is taken from its virtual channel, and answered by what it reaches. -/
theorem linkMessageCommandsComplete : Obligations.LinkMessageCommandsComplete := by
  unfold Obligations.LinkMessageCommandsComplete
  refine ⟨?readHost, ?readMemory, ?writeHost, ?writeMemory, ?gone, ?row, ?part⟩
  case readHost =>
    exact fun s p v freed m rest u data ha hp hk hd hv hf hu hhost =>
      exec_lnkRead_host (takeMsg_front ha hp hk hd hv hf hu) hhost
  case readMemory =>
    exact fun s p v freed m rest u data ha hp hk hd hv hf hu hhost hbusy =>
      exec_lnkRead_memory (takeMsg_front ha hp hk hd hv hf hu) hhost hbusy
  case writeHost =>
    exact fun s p v freed m rest u ok ha hp hk hd hv hf hu hhost =>
      exec_lnkWrite_host (takeMsg_front ha hp hk hd hv hf hu) hhost
  case writeMemory =>
    exact fun s p v freed m rest u ok ha hp hk hd hv hf hu hhost hbusy =>
      exec_lnkWrite_memory (takeMsg_front ha hp hk hd hv hf hu) hhost hbusy
  case gone =>
    exact fun s p v freed m rest u ha hp hk hd hv hf hu ht =>
      exec_lnkPush_gone (takeMsg_front ha hp hk hd hv hf hu) ht
  case row =>
    exact fun s p v freed m rest u ph ha hp hk hd hv hf hu ht hready hpart =>
      exec_lnkPush_row (takeMsg_front ha hp hk hd hv hf hu) ht hready hpart
  case part =>
    exact fun s p v freed m rest u ph o ha hp hk hd hv hf hu ht hready hpart =>
      exec_lnkPush_part (takeMsg_front ha hp hk hd hv hf hu) ht hready hpart

end Sys2Proof.Machine
end

section
/-!
PROOFS. Boot and trust (R7, R234, R445 to R470, R532, R547, R571): the release and the first stage by their checks, the locks,
the fuse count, register accesses, the verification of a folio and the binding of a pipeline.
-/
namespace Sys2Proof.Machine

/-! ## Reset, release and boot stages (R445 to R459, R532, R547) -/

section
variable {s : State} {env : ReleaseEnv}

/-- What the release makes of a held device, before its checks. -/
theorem exec_resetNRelease (hheld : s.boot.phase = .held) :
    exec (.resetNRelease env) s = .next
      (let u := ({ s with elapsed := 0, boot := { s.boot with phase := .rom, releasedAt := 0 } } : State).setBit (kTrs 0) 2
         (goldenLow env.golden)
       if env.romOk = false then u.halt 1
       else if env.pllLocks = false then u.halt 2
       else if env.fuseOk = false then (u.setBit (kClk 0) 0 true).halt 3
       else if (u.setBit (kClk 0) 0 true).loadFuses.fuse.coresOk = 0 then (u.setBit (kClk 0) 0 true).loadFuses.halt 4
       else (u.setBit (kClk 0) 0 true).loadFuses) := by
  refine attempt_some ((if_pos hheld).trans ?_)
  simp only [Bool.not_eq_true']

end

/-- Settles O22: the release by the first of its checks that fails, the first stage by its halt code or the slots. -/
theorem bootAndResetComplete : Obligations.BootAndResetComplete := by
  unfold Obligations.BootAndResetComplete
  refine ⟨?assert, ?supply, ?released, ?rom, ?pll, ?fuse, ?halts, ?boots, ?late, ?go, ?unlocked⟩
  case assert => exact fun s ns hns hp => exec_resetNAssert hns hp
  case supply => exact fun s => attempt_some rfl
  case released =>
    intro s env hheld hrom hpll hfuse hcores
    rw [exec_resetNRelease hheld]
    simp only [hrom, hpll, hfuse, hcores, Bool.true_eq_false, if_false]
  case rom =>
    intro s env hheld hrom
    rw [exec_resetNRelease hheld]
    simp only [hrom, if_true]
  case pll =>
    intro s env hheld hrom hpll
    rw [exec_resetNRelease hheld]
    simp only [hrom, hpll, Bool.true_eq_false, if_false, if_true]
  case fuse =>
    intro s env hheld hrom hpll hfuse
    rw [exec_resetNRelease hheld]
    simp only [hrom, hpll, hfuse, Bool.true_eq_false, if_false, if_true]
  case halts =>
    intro s env n hrom hhalt
    refine attempt_some ((if_pos hrom).trans ?_)
    rw [hhalt]
  case boots =>
    intro s env hrom hgood
    refine attempt_some ((if_pos hrom).trans ?_)
    rw [hgood] <;> rfl
  case late => exact fun s hp ht => attempt_some (if_pos ⟨hp, ht⟩)
  case go => exact fun s rq hready hq => attempt_guardReg hready hq s _
  case unlocked => exact fun s ha => attempt_some (if_pos ha)

/-! ## Register reads (R571) -/

/-- A read that a running device permits is performed by the register's own rule. -/
theorem regRead_allowed {s : State} {rq : Requester} {k : Nat} (ha : s.awake = true) (hq : regAllowed rq false k = true) :
    s.regRead rq k = s.readReg rq k := (if_neg (not_negated ha)).trans (if_neg (not_negated hq))

theorem exec_loReadLatch {s : State} {rq : Requester} {k : Nat} (ha : s.awake = true) (hk : isLo k = true)
    (hq : regAllowed rq false k = true) :
    exec (.loReadLatch rq k) s = .next { (s.readReg rq k).1 with readback := (s.readReg rq k).2 } := by
  rw [← regRead_allowed ha hq]
  exact attempt_some (if_pos ⟨answers_of_awake ha, hk⟩)

theorem exec_hiRead {s : State} {rq : Requester} {k : Nat} (ha : s.awake = true) (hk : isHi k = true)
    (hq : regAllowed rq false k = true) :
    exec (.hiRead rq k) s = .next { (s.readReg rq k).1 with readback := (s.readReg rq k).2 } := by
  rw [← regRead_allowed ha hq]
  exact attempt_some (if_pos ⟨answers_of_awake ha, hk⟩)

/-! ## Folios (R468, R470) and pipelines (R234) -/

section
variable {s : State} {i e : Nat} {f : FolioRec}

/-- A folio that waits for verification takes the lowest free engine. -/
theorem verifyStart_some (own : Bool) (hf : s.boot.scroll.folios[i]? = some f)
    (he : (upTo 4).find? (fun e => s.engineFree e) = some e) (hs : s.folioState i = 1) :
    s.verifyStart i own = some
      (((s.setFolio i { f with engine := some e, secure := own }).lockFolio i f).setReg (kTrs (0x200 + 4 * i)) 2) := by
  unfold State.verifyStart
  simp only [hf, he]
  exact if_pos hs

end

/-- Settles O23: register commands by their guard, a verification by its engine, a binding by what core 0 reads. -/
theorem trustAndRegisterCommandsComplete : Obligations.TrustAndRegisterCommandsComplete := by
  unfold Obligations.TrustAndRegisterCommandsComplete
  refine ⟨?keyLock, ?scrLock, ?arv, ?write, ?lo, ?hi, ?verify, ?verifyOwn, ?verified, ?bind⟩
  case keyLock | scrLock => exact fun s rq ha hq => attempt_guardReg ha hq s _
  case arv => exact fun s rq v ha hq => attempt_guardReg ha hq s _
  case write => exact fun s rq k v ha hk hq => exec_registerWrite_allowed v ha hk hq
  case lo => exact fun s rq k ha hk hq => exec_loReadLatch ha hk hq
  case hi => exact fun s rq k ha hk hq => exec_hiRead ha hk hq
  case verify =>
    intro s rq e f hs hupd hq hbit hf he hw
    refine attempt_some ((if_pos ⟨hs, congrArg not hupd⟩).trans ?_)
    simp only [hq, hbit, verifyStart_some false hf he hw, Bool.not_true, Bool.false_eq_true, if_false, Option.map_some]
  case verifyOwn =>
    intro s i e f hs hupd hf hflash hw hbusy hf' he hw'
    refine attempt_some ((if_pos ⟨hs, congrArg not hupd⟩).trans ?_)
    simp only [hf]
    exact (if_pos ⟨trivial, hflash, hw, congrArg not hbusy⟩).trans (verifyStart_some true hf' he hw')
  case verified =>
    intro s i e f hf he hs hbusy
    refine attempt_some ?_
    simp only [hf, he]
    exact if_pos ⟨hs, congrArg not hbusy⟩
  case bind =>
    intro s pipe b hb hs hupd hnamed hbound hfolio htwin hwait hread
    refine attempt_some ?_
    simp only [hb]
    refine (if_pos ⟨hs, congrArg not hupd, hnamed, congrArg not hbound, hfolio, htwin⟩).trans ?_
    simp only [hwait, hread, Bool.false_eq_true, if_false, ne_eq, not_true_eq_false] <;> rfl

end Sys2Proof.Machine
end

section
/-!
PROOFS. Firmware: the requests of the mailbox (R308, R461, R463, R483 to R485), live update (R487 to R489), and the
watchdogs, cores, events and clean service of the control complex (R475, R476, R478, R479, R491).
-/
namespace Sys2Proof.Machine

/-! ## The mailbox (R308, R461, R463, R483 to R485) -/

section
variable {s : State}

/-- A request that may be served leaves what the order of its checks gives. -/
theorem mbxRun_ready {cmd : Nat} (h : s.mbxReady cmd = true) (data : Option (List Byte)) (f : MbxFn) :
    s.mbxRun cmd data f = some (s.mailServed data f) := by
  unfold State.mbxRun State.mailServed
  rw [if_pos h]
  by_cases hstatus : s.reqStatus s.mbxReq ≠ 0
  · simp only [if_pos hstatus]
  · simp only [if_neg hstatus]
    cases (s.bufRead s.mbxReq data).2 with
    | none => rfl
    | some d =>
      by_cases hbuf : d.1 ≠ 0
      · simp only [if_pos hbuf]
      · by_cases haway : s.reqAway s.mbxReq = true
        · simp only [if_neg hbuf, if_pos haway]
        · simp only [if_neg hbuf, if_neg haway]
          cases (f (s.bufRead s.mbxReq data).1 s.mbxReq d.2).2 <;> rfl

/-- A CTX_DESTROY that waited for a frame is answered once the context is free. -/
theorem exec_mbxCtxDestroy_waited {x : Nat} (h : s.destroyOf 128 = some x) (hs : s.serving = true)
    (hupd : s.updActive = false) (hfree : (s.vctx x).destroy = false) :
    exec .mbxCtxDestroy s = .next ((s.endDestroy 128).mbxComplete s.mbxReq s.boot.dev ⟨0, [], []⟩) := by
  refine attempt_some ?_
  unfold State.mbxDestroy
  simp only [h]
  exact if_pos ⟨hs, congrArg not hupd, congrArg not hfree⟩

theorem exec_mbxCtxDestroy_new (h : s.destroyOf 128 = none) (hready : s.mbxReady 4 = true) :
    exec .mbxCtxDestroy s = .next (s.mailServed none doCtxDestroy) := by
  refine attempt_some ?_
  unfold State.mbxDestroy
  simp only [h]
  exact mbxRun_ready hready none doCtxDestroy

end

/-- Settles O55: every command but the end of a waiting CTX_DESTROY and the time limit serves the request of the mailbox. -/
theorem mailboxCommandsComplete : Obligations.MailboxCommandsComplete := by
  unfold Obligations.MailboxCommandsComplete
  refine ⟨?info, ?attest, ?create, ?erase, ?write, ?update, ?regRead, ?regWrite, ?memRead, ?memWrite, ?policy, ?destroy,
    ?destroyed, ?timeout⟩
  case info | erase | regRead | regWrite | memRead | policy => exact fun s h => attempt_some (mbxRun_ready h ..)
  case attest | create | write | update | memWrite => exact fun s data h => attempt_some (mbxRun_ready h ..)
  case destroy => exact fun s hnone h => exec_mbxCtxDestroy_new hnone h
  case destroyed => exact fun s x hx hs hupd hfree => exec_mbxCtxDestroy_waited hx hs hupd hfree
  case timeout =>
    intro s t ht hs hupd hdue
    refine attempt_some ?_
    simp only [ht]
    exact if_pos ⟨hs, congrArg not hupd, hdue⟩

/-! ## Live update (R487 to R489) -/

/-- Settles O56: each command by the state of the update, a report by whether it comes in time. -/
theorem updateCommandsComplete : Obligations.UpdateCommandsComplete := by
  unfold Obligations.UpdateCommandsComplete
  refine ⟨?stop, ?release, ?accept, ?reject, ?timeout, ?fallback⟩
  case stop =>
    exact fun s body hs hstaged hopen hlen hwait => attempt_some (if_pos ⟨hs, hstaged, hopen, hlen, congrArg not hwait⟩)
  case release => exact fun s hs hstopped hwait => attempt_some (if_pos ⟨hs, hstopped, congrArg not hwait⟩)
  case accept | reject =>
    intro s rq ha hq
    refine (attempt_guardReg ha hq s _).trans ?_
    simp only [Bool.not_eq_true']
  case timeout => exact fun s ha hupd hlate => attempt_some (if_pos ⟨ha, hupd, hlate⟩)
  case fallback =>
    intro s r o hfalling ha hwait
    refine attempt_some ?_
    simp only [hfalling]
    exact if_pos ⟨ha, congrArg not hwait⟩

/-! ## The event ring (R479) -/

section
variable {s u : State} {v : B32} {cons : Option B32}

/-- What the enable of a ring that is off makes of the state whose configuration is written. -/
theorem exec_evtRingEnable_off (ha : s.awake = true) (hoff : s.bit (kQcx 0x308) 0 = false) (hv : v.getLsbD 0 = true)
    (hidle : s.host.evEnabling = false) (hu : u = s.setFld (kQcx 0x308) 1 5 (bitsOf v.toNat 1 5)) :
    exec (.evtRingEnable v cons) s = .next
      (if u.evtRange then u.setFld (kQcx 0x308) 8 8 0x13
       else if u.isHome then u.evtLoad (if u.hostPath then cons else none)
       else { u with host := { u.host with evEnabling := true } }) := by
  subst hu
  refine attempt_some ((if_neg (not_negated ha)).trans ?_)
  simp only [hoff, hv, hidle, Bool.not_true, Bool.false_eq_true, or_self, if_false]

/-- The consumer word of a host that is not there does not come. -/
theorem evtLoad_failed (h : u.hostPath = false ∨ cons = none) :
    u.evtLoad (if u.hostPath then cons else none) =
      ({ u with host := { u.host with evEnabling := false } } : State).hdmaErr.setFld (kQcx 0x308) 8 8 2 := by
  have hnone : (if u.hostPath then cons else none) = none := by
    rcases h with hpath | rfl
    · exact if_neg (ne_true_of_eq_false hpath)
    · exact ite_self none
  rw [hnone]
  rfl

end

/-- Settles O57: each command by the conditions under which it acts, the enable of the ring by the state of the host. -/
theorem coreAndEventCommandsComplete : Obligations.CoreAndEventCommandsComplete := by
  unfold Obligations.CoreAndEventCommandsComplete
  refine ⟨?kick, ?expire, ?error, ?moved, ?rejoin, ?ringOff, ?ringRange, ?ringFailed, ?ringOn, ?ringRemote, ?eventHome,
    ?eventRemote, ?clean⟩
  case kick => exact fun s rq n ha hn hq => attempt_guardReg ⟨ha, hn⟩ hq s _
  case expire => exact fun s n ha hn hon hup hdue => attempt_some (if_pos ⟨ha, hn, hon, hup, hdue⟩)
  case error => exact fun s n hs hn hup => attempt_some (if_pos ⟨hs, hn, hup⟩)
  case moved => exact fun s n ha hupd hmoving => attempt_some (if_pos ⟨ha, congrArg not hupd, hmoving⟩)
  case rejoin => exact fun s n ha hn hstate => attempt_some (if_pos ⟨ha, hn, hstate⟩)
  case ringOff =>
    exact fun s v cons ha hon hv => attempt_some ((if_neg (not_negated ha)).trans (if_pos hon))
  case ringRange =>
    intro s v cons ha hoff hv hidle hrange
    rw [exec_evtRingEnable_off ha hoff hv hidle rfl, if_pos hrange]
  case ringFailed =>
    intro s v cons ha hoff hv hidle hrange hhome hfail
    rw [exec_evtRingEnable_off ha hoff hv hidle rfl, if_neg (ne_true_of_eq_false hrange), if_pos hhome, evtLoad_failed hfail]
  case ringOn =>
    intro s v cons w ha hoff hv hidle hrange hhome hpath hcons
    rw [exec_evtRingEnable_off ha hoff hv hidle rfl, if_neg (ne_true_of_eq_false hrange), if_pos hhome, if_pos hpath, hcons]
    rfl
  case ringRemote =>
    intro s v cons ha hoff hv hidle hrange hhome
    rw [exec_evtRingEnable_off ha hoff hv hidle rfl, if_neg (ne_true_of_eq_false hrange),
      if_neg (ne_true_of_eq_false hhome)]
  case eventHome =>
    intro s e es ha hheld hhome hon hhere hfree hreattached
    refine attempt_some ((if_neg (not_negated ha)).trans ?_)
    simp only [hheld, hhome, if_true]
    exact if_pos ⟨hon, congrArg not hhere, hfree, hreattached⟩
  case eventRemote =>
    intro s e es ha hheld hhome hpath
    refine attempt_some ((if_neg (not_negated ha)).trans ?_)
    simp only [hheld, hhome, hpath, Bool.false_eq_true, if_false, if_true]
  case clean =>
    exact fun s hs hservice hupd hstop hdue hgold =>
      attempt_some (if_pos ⟨hs, hservice, congrArg not hupd, congrArg not hstop, hdue, hgold⟩)

end Sys2Proof.Machine
end

section
/-!
PROOFS. The check units (R428, R494 to R503, R573): the worked example of the CRC, and the commands that the units execute.
-/
namespace Sys2Proof.Machine

/-- Settles O21, by running the five parameter sets over the nine bytes. -/
theorem crcCheckValues : Obligations.CrcCheckValues := by
  unfold Obligations.CrcCheckValues
  decide +kernel

section
variable {s : State} {u : Nat}

/-- A feed at the front of a unit's queue is executed by the command of its width. -/
theorem dinExec_feed {n : Nat} {v : B32} {sec : Bool} (h : s.crcNext u = some ⟨.feed n v, sec⟩) :
    s.dinExec u n = some ((s.crcPop u ⟨.feed n v, sec⟩).crcFeed u (natToBytes v.toNat n)) := by
  unfold State.dinExec
  simp only [h, if_true]

end

/-- Settles O58: a unit executes the command at the front of its queue, and ends the scan that it runs. -/
theorem checkUnitCommandsComplete : Obligations.CheckUnitCommandsComplete := by
  unfold Obligations.CheckUnitCommandsComplete
  refine ⟨?dinB, ?dinH, ?dinW, ?crcInit, ?crcCheck, ?crcScan, ?crcScanDone, ?shaInit, ?shaScan, ?shaScanDone, ?repeated,
    ?issued, ?command⟩
  case dinB | dinH | dinW => exact fun s u v sec h => attempt_some (dinExec_feed h)
  case crcInit | crcCheck =>
    intro s u sec h
    refine attempt_some ?_
    simp only [h]
  case crcScan =>
    intro s u addr len nc cmp fin sec h
    refine attempt_some ?_
    simp only [h]
  case shaInit =>
    intro s e sec h
    refine attempt_some ?_
    simp only [h]
  case shaScan =>
    intro s e addr len nc cmp fin sec h
    refine attempt_some ?_
    simp only [h]
  case crcScanDone =>
    intro s u addr len nc cmp fin sec ha hu h hbusy
    refine attempt_some ((if_pos ⟨ha, hu⟩).trans ?_)
    simp only [h]
    exact if_neg (ne_true_of_eq_false hbusy)
  case shaScanDone =>
    intro s e addr len nc cmp fin sec ha he h hbusy
    refine attempt_some ((if_pos ⟨ha, he⟩).trans ?_)
    simp only [h]
    exact if_neg (ne_true_of_eq_false hbusy)
  case repeated =>
    intro s u folio entry b hs hfw hu hfolio hbusy htaken hscrub hbf hbe hagain
    refine attempt_some ((if_pos ⟨hs, hfw, hu, hfolio, congrArg not hbusy, congrArg not htaken⟩).trans ?_)
    simp only [hscrub]
    exact if_pos ⟨hbf, hbe, hagain⟩
  case issued =>
    intro s u folio entry v b hs hfw hu hfolio hbusy htaken hscrub hwait hblock
    refine attempt_some ((if_pos ⟨hs, hfw, hu, hfolio, congrArg not hbusy, congrArg not htaken⟩).trans ?_)
    simp only [hscrub, hblock, if_neg (ne_true_of_eq_false hwait)]
    rfl
  case command => exact fun s rq key v w ha h => attempt_some ((if_pos ha).trans h)

end Sys2Proof.Machine
end

section
/-!
PROOFS. In-field tests of the tiles (R517, R518), and the safety channel with its pins and registers (R522 to R526).
-/
namespace Sys2Proof.Machine

/-! ## In-field tests (R517, R518) -/

/-- Settles O59: a test by its tile's logical tile and the free tiles of its cluster. -/
theorem inFieldTestCommandsComplete : Obligations.InFieldTestCommandsComplete := by
  unfold Obligations.InFieldTestCommandsComplete
  refine ⟨?moves, ?tests, ?ends, ?dropped, ?alone, ?spare, ?inPlace, ?waits⟩
  case moves =>
    intro s c t l d u hs hc hservice hon hfw hn hdue hvictim hl hd hu
    refine attempt_some ((if_pos ⟨hs, hc, hservice, hon, hfw, hn, List.isEmpty_iff.mpr hdue⟩).trans ?_)
    simp only [hvictim, hl, hd]
    exact hu
  case tests =>
    intro s c t hs hc hservice hon hfw hn hdue hvictim hl htest hmove
    refine attempt_some ((if_pos ⟨hs, hc, hservice, hon, hfw, hn, List.isEmpty_iff.mpr hdue⟩).trans ?_)
    simp only [hvictim, hl, htest, hmove, Option.isSome_none, Bool.false_eq_true, or_self, if_false]
  case ends =>
    intro s c t a o start r htest ha hc hfw hdue
    refine attempt_some ?_
    simp only [htest]
    exact if_pos ⟨ha, hc, hfw, hdue⟩
  case dropped =>
    intro s c t ts hs hc hfw hnone hdue hgone
    refine attempt_some ((if_pos ⟨hs, hc, hfw, Option.isNone_iff_eq_none.mpr hnone⟩).trans ?_)
    simp only [hdue]
    exact if_pos hgone
  case alone =>
    intro s c t ts hs hc hfw hnone hdue hgood hkept hmove hl
    refine attempt_some ((if_pos ⟨hs, hc, hfw, Option.isNone_iff_eq_none.mpr hnone⟩).trans ?_)
    simp only [hdue, hgood, hkept, hmove, hl, Bool.false_eq_true, or_self, if_false, Option.isSome_none]
  case spare =>
    intro s c t ts l d u hs hc hfw hnone hdue hgood hkept hmove hl hd hu
    refine attempt_some ((if_pos ⟨hs, hc, hfw, Option.isNone_iff_eq_none.mpr hnone⟩).trans ?_)
    simp only [hdue, hgood, hkept, hmove, hl, hd, hu, Bool.false_eq_true, or_self, if_false, Option.isSome_none]
  case inPlace =>
    intro s c t ts l hs hc hfw hnone hdue hgood hkept hmove hl hd hres hxfer
    refine attempt_some ((if_pos ⟨hs, hc, hfw, Option.isNone_iff_eq_none.mpr hnone⟩).trans ?_)
    simp only [hdue, hgood, hkept, hmove, hl, hd, Bool.false_eq_true, or_self, if_false, Option.isSome_none]
    exact if_pos ⟨List.isEmpty_iff.mpr hres, List.isEmpty_iff.mpr hxfer⟩
  case waits =>
    intro s c t ts l hs hc hfw hnone hdue hgood hkept hmove hl hd hbusy hswap
    have hnot : ¬ ((s.tile t).residents.isEmpty = true ∧ (s.tile t).xfers.isEmpty = true) := by
      simpa only [List.isEmpty_iff, not_and_or] using hbusy
    refine attempt_some ((if_pos ⟨hs, hc, hfw, Option.isNone_iff_eq_none.mpr hnone⟩).trans ?_)
    simp only [hdue, hgood, hkept, hmove, hl, hd, Bool.false_eq_true, or_self, if_false, Option.isSome_none]
    exact (if_neg hnot).trans (if_neg (ne_true_of_eq_false hswap))

/-! ## The safety channel and its pins (R522 to R526) -/

/-- A request with a good CRC has its effect and is answered, in halt with the status alone. -/
theorem safetyCmd_valid {s : State} {r : BitVec 256} (hon : s.channelOn = true) (hok : rOk r = true) (cmd : Nat)
    (rep : Option BltEntry) (f g : State → State) :
    s.safetyCmd r cmd rep f g = some
      (if s.pins.halt then s.exchange s.outgoing (s.safetyResponse cmd (rCount r) false none) true
       else g ((f s).exchange s.outgoing ((f s).safetyResponse cmd (rCount r) false rep) true)) :=
  (if_pos ⟨hon, hok⟩).trans (apply_ite some _ _ _).symm

/-- Settles O60: a request by its command, a pin by its time. -/
theorem safetyChannelCommandsComplete : Obligations.SafetyChannelCommandsComplete := by
  unfold Obligations.SafetyChannelCommandsComplete
  refine ⟨?hold, ?nop, ?status, ?next, ?ack, ?discarded, ?ackWrite, ?alive, ?toggle⟩
  case hold =>
    exact fun s ha hpin hreports hdue => attempt_some (if_pos ⟨ha, hpin, List.isEmpty_iff.mpr hreports, hdue⟩)
  case nop | status | next | ack =>
    exact fun s r hon hok hcmd => attempt_some ((if_pos hcmd).trans (safetyCmd_valid hon hok ..))
  case discarded =>
    exact fun s frame hon hbad => attempt_some (if_pos ⟨hon, hbad.imp_right (congrArg not)⟩)
  case ackWrite => exact fun s rq seq ha hq => attempt_guardReg ha hq s _
  case alive => exact fun s rq ha hq => attempt_guardReg ha hq s _
  case toggle => exact fun s hon htime hnew => attempt_some (if_pos ⟨hon, htime, hnew⟩)

end Sys2Proof.Machine
end

section
/-!
PROOFS. Power, droop and temperature (R532 to R546): what a round of reads of the rails does to the energy, and each command.
-/
namespace Sys2Proof.Machine

section
variable {s : State} {xs : List (Option PmbusRead × Option PmbusRead)}

/-- The sample of a round is kept, shown and added to the energy before the cap is decided. -/
theorem exec_pmbusPoll_rails (ha : s.awake = true) (hr : s.rails.isEmpty = false) :
    exec (.pmbusPoll xs) s = .next
      (let r := s.pollRails xs
       let s1 : State := { r.1 with power := { r.1.power with
         samples := (r.2 :: r.1.power.samples).take 10000, bus := s.pmbusRound xs } }
       let s2 := (s1.setReg (kPwr 8) (BitVec.ofInt 32 r.2)).setReg64 (kPwr 0x10) (s1.reg64 (kPwr 0x10) + BitVec.ofInt 64 r.2)
       (s2.setReg (kPwr 0xC) (BitVec.ofInt 32 s2.avgMw)).capDecide r.2) :=
  attempt_some ((if_pos ha).trans (congrArg some (if_neg (ne_true_of_eq_false hr))))

theorem exec_pmbusPoll_noRail (ha : s.awake = true) (hr : s.rails.isEmpty = true) :
    exec (.pmbusPoll xs) s = .next (s.moveSkipP 0) :=
  attempt_some ((if_pos ha).trans (congrArg some (if_pos hr)))

/-- Of what follows the sum, nothing writes the energy. -/
theorem energy_sampled (s1 : State) (e : B64) (w v : B32) (p : Int) :
    ((((s1.setReg (kPwr 8) w).setReg64 (kPwr 0x10) e).setReg (kPwr 0xC) v).capDecide p).reg64 (kPwr 0x10) = e := by
  rw [energy_capDecide, reg64_setReg _ _ _ _ (by decide) (by decide), reg64_setReg64]

end

theorem powerOn_energy (s : State) (powered : Bool) : (s.powerOn powered).reg64 (kPwr 0x10) = 0 := by
  unfold State.reg64
  rw [powerOn_reg, powerOn_reg]
  decide

/-- Settles O10: the sum is added to the energy that the round of reads has left, and nothing after it writes the energy. -/
theorem powerSampleAddsToEnergy : Obligations.PowerSampleAddsToEnergy := by
  unfold Obligations.PowerSampleAddsToEnergy
  constructor
  · intro s xs ha
    by_cases hr : s.rails = []
    · refine ⟨_, exec_pmbusPoll_noRail ha (List.isEmpty_iff.mpr hr), ?_⟩
      rw [if_pos hr, energy_moveSkipP]
    · refine ⟨_, exec_pmbusPoll_rails ha (List.isEmpty_eq_false_iff.mpr hr), ?_⟩
      rw [if_neg hr]
      exact (energy_sampled ..).trans (congrArg (· + BitVec.ofInt 64 (s.pollRails xs).2) (energy_pollRails s xs))
  · exact fun s ns hns hp => ⟨_, exec_resetNAssert hns hp, powerOn_energy s true⟩


/-- Settles O24: each command by its conditions, a poll by whether a rail is enabled, the loss of a PLL by its PHY. -/
theorem powerAndDroopCommandsComplete : Obligations.PowerAndDroopCommandsComplete := by
  unfold Obligations.PowerAndDroopCommandsComplete
  refine ⟨?droop, ?stretchEnd, ?poll, ?pollNone, ?sensor, ?thermal, ?pcie, ?orrek, ?csi, ?hbm⟩
  case droop => exact fun s x ha hd hfires => attempt_some (if_pos ⟨ha, hd, hfires⟩)
  case stretchEnd => exact fun s d ha hd hon hquiet => attempt_some (if_pos ⟨ha, hd, hon, hquiet⟩)
  case poll => exact fun s xs ha hr => exec_pmbusPoll_rails ha hr
  case pollNone => exact fun s xs ha hr => exec_pmbusPoll_noRail ha hr
  case sensor => exact fun s i m ha hi => attempt_some (if_pos ⟨answers_of_awake ha, hi⟩)
  case thermal => exact fun s ha => attempt_some (if_pos ha)
  case pcie => exact fun s ha => attempt_some (if_pos ha)
  case orrek => exact fun s p ha hp => attempt_some ((if_pos ha).trans (if_pos hp))
  case csi => exact fun s p ha hp => attempt_some ((if_pos ha).trans (if_pos hp))
  case hbm => exact fun s k ha hk => attempt_some ((if_pos ha).trans (if_pos hk))

end Sys2Proof.Machine
end
